-- ==== Sys2Proof/Word.lean ====
section
/-! DEFINITION. The word types of the module: bytes and the widths its records use. -/
namespace Sys2Proof

/-- One byte. -/
abbrev Byte := BitVec 8
/-- A 16-bit field of a record. -/
abbrev U16 := BitVec 16
/-- A 32-bit field of a record. -/
abbrev U32 := BitVec 32
/-- A 64-bit register, address or parameter. -/
abbrev U64 := BitVec 64

end Sys2Proof
end

