-- ==== Sys2Proof/Syntax.lean ====
section
/-! DEFINITION. The commands of the block: one constructor for each row of the opcode table, and the records they carry.
A command carries what its source decides: the bytes of a message, a packet or a flit, or what the environment found
(a sensor reading, a training result). -/
namespace Sys2Proof

/-- A byte whose parity fails (R516, 16): the traffic row of R516's table, the record or descriptor that holds it by its place in
the submission or load, and the byte's offset. -/
structure ParityFault where
  traffic : Nat
  item : Nat
  offset : Nat
  deriving DecidableEq, Repr

/-- What steps 3 and 4 of bring-up find when a warm reset runs them again (R496, R567): the boot ROM runs, firmware banks that fail to
verify (bit 2k + b is bank b of kind k), headgate cores that pass their known-answer check. -/
structure BootCheck where
  romOk : Bool
  bankBad : BitVec 6
  corePass : BitVec 5
  deriving DecidableEq, Repr

/-- A bed's faulty physical rows and columns (R102, R103, 04), by 32 × field + bed. -/
structure BedFault where
  bed : Nat
  rows : List Nat
  cols : List Nat
  deriving DecidableEq, Repr

/-- What a field reset finds (R104, R358, R495): the sequencers that pass, beds with their faulty rows and columns, and faulty reservoir
banks, by 64 × (30 × field + group) + bank. -/
structure ResetCheck where
  seqPass : BitVec 5
  beds : List BedFault
  banks : List Nat
  deriving DecidableEq, Repr

/-- A SEND message on a queue pair (R537, 17): its bytes, the byte whose parity fails inside the module, if one does (R516, 16), and, for a
MODULE_RESET, what the reset finds; none where all is as it was at the last check. -/
structure HostMsg where
  qp : Nat
  parity : Option ParityFault
  found : Option BootCheck
  bytes : List Byte
  deriving DecidableEq, Repr

/-- A fabric packet (R400, 12). -/
structure Packet where
  dst : U16
  src : U16
  job : U16
  ptype : Byte
  hops : Byte
  route : Byte
  ctx : Byte
  gen : U16
  tag : U32
  addr : U64
  len : U16
  aux : U16
  parity : U32
  payload : List Byte
  deriving DecidableEq, Repr

/-- An abort record (R420, 12). -/
structure AbortRecord where
  job : U16
  origin : U16
  serial : U16
  cause : U16
  deriving DecidableEq, Repr

/-- Where a residue check fails (R91, R150, 03 and 05): the element, counted in the order in which the step reaches it,
the engine that finds it (index of R479) and, in the array, the furrow of its column. -/
structure FaultSite where
  element : Nat
  engine : Nat
  furrow : Nat
  deriving DecidableEq, Repr

/-- What a pass meets: the cycles it stalls for what comes late (log 49), and where residue checks fail in it (R512). -/
structure PassNote where
  late : Nat
  residue : List FaultSite
  deriving DecidableEq, Repr

/-- A record at its issue (R257, 08), with the byte of the held record or of a held descriptor whose parity fails (R516, 16). -/
structure IssueNote where
  ctx : Nat
  parity : Option Nat
  deriving DecidableEq, Repr

/-- An operation at its start (R258, 08): its context, the byte of the held record or of a held descriptor whose parity fails
(R516, 16), and where residue checks fail in additions that it makes itself (R511, R512, 16). -/
structure Launch where
  ctx : Nat
  parity : Option Nat
  faults : List FaultSite
  deriving DecidableEq, Repr

/-- The start of an operation in which nothing fails. -/
def Launch.of (c : Nat) : Launch := { ctx := c, parity := none, faults := [] }

/-- A grant of the basin (R142, 05). ATTENTION runs its passes under it: the cycles that each field of it stalls for what comes late
(log 49), and where residue checks fail in its passes (R512). -/
structure GrantNote where
  ctx : Nat
  late : List Nat
  faults : List FaultSite
  deriving DecidableEq, Repr

/-- A RELAY packet, with the byte of the command whose parity fails inside the hub, if one does (R516, 16), and what a MODULE_RESET that
it carries finds. -/
structure RelayIn where
  packet : Packet
  parity : Option ParityFault
  found : Option BootCheck
  deriving DecidableEq, Repr

/-- A write by port A to a word of the reservoir in the array cycle in which port B writes it (R354, 11): the word, by its reservoir
offset / 64, and the bytes it writes, by offset in the word. -/
structure Collision where
  word : Nat
  offset : Nat
  data : List Byte
  deriving DecidableEq, Repr

/-- Bits of an 8-byte granule that upsets have flipped (R348, 11): data bits 0 to 63, then the check bits. -/
structure Upset where
  granule : Nat
  flips : BitVec 72
  deriving DecidableEq, Repr

/-- An operation over, by sequence number, with the collisions that its writes met (R354, log 104). -/
structure OpEnd where
  seq : U32
  collide : List Collision
  deriving DecidableEq, Repr

/-- A bank at its scrub, with the upsets that have hit its words (R351, log 103). -/
structure BankScrub where
  bank : Nat
  upsets : List Upset
  deriving DecidableEq, Repr

/-- A stack at its refresh, with the corrections it reports (R371) and the upsets that have hit its words (log 103). -/
structure StackRefresh where
  stack : Nat
  reports : Nat
  upsets : List Upset
  deriving DecidableEq, Repr

/-- A WRITE packet, with the collisions that its bytes met (R354, log 104). -/
structure PeerWrite where
  packet : Packet
  collide : List Collision
  deriving DecidableEq, Repr

/-- An ACC_WRITE packet and, for the last one of its tile, the positions at which the checks of the additions fail (R91, R403, R511). -/
structure PeerAdd where
  packet : Packet
  residue : List Nat
  deriving DecidableEq, Repr

/-- The connection-management messages of R533 (17). -/
inductive CmMsg where
  | req | rep | rtu | dreq | drep
  deriving DecidableEq, Repr

/-- What link training found (R387, 12). -/
structure Training where
  openLanes : BitVec 9
  order : Nat
  polarity : BitVec 9
  seenNode : U16
  seenLink : Nat
  roundTrip : Nat
  deriving DecidableEq, Repr

/-- What a field test found (R528, 16): verdict, failed units, failed beds and sequencers, suggested bed maps, faulty rows and columns. -/
structure TestResult where
  verdict : Nat
  unitsFailed : Byte
  bedFail : U32
  seqFail : BitVec 5
  maps : List (Nat × U64)
  beds : List BedFault
  deriving DecidableEq, Repr

/-- What bring-up finds (R565, 18): regulators good, reference present, PLLs locked, what steps 3 and 4 find, fields that come up and what
their resets find, stacks that come up, links with signal. -/
structure BringUp where
  powerGood : Bool
  refclk : Bool
  pllLock : Bool
  boot : BootCheck
  fieldOk : BitVec 8
  resets : List ResetCheck
  stackOk : BitVec 16
  signal : U32
  deriving DecidableEq, Repr

/-- A PLL that loses lock (R593, 19), and what the warm reset that follows finds. -/
structure PllLoss where
  pll : Nat
  found : BootCheck
  deriving DecidableEq, Repr

/-- A reading of the cooling sensors (R601, R603, 19): temperatures in 0.1 °C, flow in 0.1 L/min, leak, input power. -/
structure Coolant where
  inlet : Nat
  outlet : Nat
  leak : Bool
  watts : Nat
  after : Nat
  deriving DecidableEq, Repr

/-- The bus faults of R620 (20). -/
inductive BusFault where
  | shortedLow | openOrHigh
  deriving DecidableEq, Repr

/-- The commands. -/
inductive Instr where
  /-- MOD_INFO (R543). -/
  | modInfo (m : HostMsg)
  /-- MODULE_RESET (R490). -/
  | moduleReset (m : HostMsg)
  /-- HOST_WINDOW (R536). -/
  | hostWindow (m : HostMsg)
  /-- RELAY_CFG (R548). -/
  | relayCfg (m : HostMsg)
  /-- POWER_SET (R595). -/
  | powerSet (m : HostMsg)
  /-- RING_SET (R553). -/
  | ringSet (m : HostMsg)
  /-- CREATE (R544). -/
  | create (m : HostMsg)
  /-- DESTROY (R467). -/
  | destroy (m : HostMsg)
  /-- RESUME (R466). -/
  | resume (m : HostMsg)
  /-- SEED_SET (R249). -/
  | seedSet (m : HostMsg)
  /-- KEEPER_WRITE (R545). -/
  | keeperWrite (m : HostMsg)
  /-- KEEPER_READ (R543). -/
  | keeperRead (m : HostMsg)
  /-- CTX_QUERY (R543). -/
  | ctxQuery (m : HostMsg)
  /-- STATS_READ (R543). -/
  | statsRead (m : HostMsg)
  /-- JOB_ABORT (R492). -/
  | jobAbort (m : HostMsg)
  /-- DESC_LOAD (R240). -/
  | descLoad (m : HostMsg)
  /-- SUBMIT (R256). -/
  | submit (m : HostMsg)
  /-- SUBMIT_HOST (R256). -/
  | submitHost (m : HostMsg)
  /-- SET_POWER (R363). -/
  | setPower (m : HostMsg)
  /-- NODE_SET (R380). -/
  | nodeSet (m : HostMsg)
  /-- ROUTE_WRITE (R412). -/
  | routeWrite (m : HostMsg)
  /-- LINK_TRAIN (R387). -/
  | linkTrain (m : HostMsg)
  /-- LINK_FENCE (R392). -/
  | linkFence (m : HostMsg)
  /-- SLU_READ (R427). -/
  | sluRead (m : HostMsg)
  /-- FIELD_TEST (R523). -/
  | fieldTest (m : HostMsg)
  /-- FIELD_RESET (R488). -/
  | fieldReset (m : HostMsg)
  /-- REPAIR_WRITE (R498). -/
  | repairWrite (m : HostMsg)
  /-- REPAIR_CLEAR (R497). -/
  | repairClear (m : HostMsg)
  /-- HBM_RETIRE (R373). -/
  | hbmRetire (m : HostMsg)
  /-- MIRROR_REGION (R504). -/
  | mirrorRegion (m : HostMsg)
  /-- MIRROR_COPY (R506). -/
  | mirrorCopy (m : HostMsg)
  /-- TAKEOVER (R501). -/
  | takeover (m : HostMsg)
  /-- ATTEST (R578). -/
  | attest (m : HostMsg)
  /-- CERT_READ (R577). -/
  | certRead (m : HostMsg)
  /-- FW_UPDATE (R574). -/
  | fwUpdate (m : HostMsg)
  /-- REG_READ (R546). -/
  | regRead (m : HostMsg)
  /-- REG_WRITE (R546). -/
  | regWrite (m : HostMsg)
  /-- EOI (R563). -/
  | eoi (source : Nat)
  /-- CYCLE_READ (R543). -/
  | cycleRead (m : HostMsg)
  /-- COMMAND_RELAY (R547). -/
  | commandRelay (m : HostMsg)
  /-- RELAY (R548). -/
  | relay (link : Nat) (r : RelayIn)
  /-- RELAY_REPLY (R547). -/
  | relayReply (link : Nat) (p : Packet)
  /-- OPERATION_ISSUE (R257). -/
  | operationIssue (n : IssueNote)
  /-- MATMUL (R270). -/
  | matmul (x : Launch)
  /-- MATMUL_GROUPED (R274). -/
  | matmulGrouped (x : Launch)
  /-- CONV (R277). -/
  | conv (x : Launch)
  /-- ATTENTION (R282). -/
  | attention (x : Launch)
  /-- REDUCE_SUM (R288). -/
  | reduceSum (x : Launch)
  /-- REDUCE_SUMSQ (R288). -/
  | reduceSumsq (x : Launch)
  /-- REDUCE_MAX (R289). -/
  | reduceMax (x : Launch)
  /-- NORMALIZE (R292). -/
  | normalize (x : Launch)
  /-- SCATTER_ADD (R295). -/
  | scatterAdd (x : Launch)
  /-- VECTOR (R300). -/
  | vector (x : Launch)
  /-- CONVERT (R306). -/
  | convert (x : Launch)
  /-- RANDOM (R307). -/
  | random (x : Launch)
  /-- COPY (R309). -/
  | copy (x : Launch)
  /-- FILL (R310). -/
  | fill (x : Launch)
  /-- PERMUTE (R214). -/
  | permute (x : Launch)
  /-- GATHER (R224). -/
  | gather (x : Launch)
  /-- REDUCE_SCATTER (R452). -/
  | reduceScatter (x : Launch)
  /-- ALL_REDUCE (R452). -/
  | allReduce (x : Launch)
  /-- REDUCE (R452). -/
  | reduce (x : Launch)
  /-- ALL_GATHER (R452). -/
  | allGather (x : Launch)
  /-- BROADCAST (R452). -/
  | broadcast (x : Launch)
  /-- STEP_BEGIN (R317). -/
  | stepBegin (x : Launch)
  /-- STEP_END (R320). -/
  | stepEnd (x : Launch)
  /-- OPTIMIZE (R328). -/
  | optimize (x : Launch)
  /-- SCALE_UPDATE (R335). -/
  | scaleUpdate (x : Launch)
  /-- WAIT (R264). -/
  | wait (x : Launch)
  /-- SIGNAL (R263). -/
  | signal (x : Launch)
  /-- OPERATION_COMPLETE (R260). -/
  | operationComplete (ctx : Nat) (e : OpEnd)
  /-- BASIN_GRANT (R142). -/
  | basinGrant (n : GrantNote)
  /-- PASS_START (R122). -/
  | passStart (field : Nat) (n : PassNote)
  /-- PARTIAL_SEND (R628). -/
  | partialSend (field : Nat)
  /-- PARTIAL_ARRIVAL (R147). -/
  | partialArrival (field : Nat) (residue : List FaultSite)
  /-- DRAIN_START (R197). -/
  | drainStart (field : Nat) (tileRow : Nat) (residue : List FaultSite)
  /-- PREEMPT (R160). -/
  | preempt (ctx : Nat)
  /-- TILE_ROW_SAVE (R154). -/
  | tileRowSave (field : Nat) (tileRow : Nat)
  /-- TILE_ROW_RESTORE (R158). -/
  | tileRowRestore (field : Nat) (ctx : Nat)
  /-- PREEMPTED_RESUME (R162). -/
  | preemptedResume (ctx : Nat)
  /-- WITNESS_COMPARE (R342). -/
  | witnessCompare (field : Nat)
  /-- ECC_WRITEBACK (R350). -/
  | eccWriteback (field : Nat) (bank : Nat) (row : Nat)
  /-- SCRUB (R351). -/
  | scrub (field : Nat) (b : BankScrub)
  /-- SET_TRANSITION_DONE (R362). -/
  | setTransitionDone (field : Nat) (set : Nat)
  /-- HBM_REFRESH (R372). -/
  | hbmRefresh (r : StackRefresh)
  /-- HBM_RETIRE_DONE (R373). -/
  | hbmRetireDone (stack : Nat)
  /-- RDMA_WRITE (R534). -/
  | rdmaWrite (qp : Nat) (key : U32) (va : Nat) (data : List Byte) (collide : List Collision)
  /-- RDMA_READ (R534). -/
  | rdmaRead (qp : Nat) (key : U32) (va : Nat) (len : Nat)
  /-- CONGESTION_NOTIFICATION (R533). -/
  | congestionNotification (qp : Nat)
  /-- RATE_RESTORE (R533). -/
  | rateRestore (qp : Nat)
  /-- CE_MARKED_PACKET (R533). -/
  | ceMarkedPacket (qp : Nat)
  /-- CONNECTION_MANAGEMENT (R533). -/
  | connectionManagement (msg : CmMsg) (qp : Nat)
  /-- DOORBELL (R561). -/
  | doorbell (ring : Nat) (value : U64)
  /-- EVENT_RECORD_WRITE (R554). -/
  | eventRecordWrite (ring : Nat) (parity : Option Nat)
  /-- EVC_TAKE (R564). -/
  | evcTake (controller : Nat)
  /-- LINK_TRAINING_DONE (R387). -/
  | linkTrainingDone (link : Nat) (found : Training)
  /-- LANE_SUBSTITUTE (R389). -/
  | laneSubstitute (link : Nat) (lane : Nat)
  /-- LINK_DOWN (R390). -/
  | linkDown (link : Nat)
  /-- FLIT_RECEIVE (R396). -/
  | flitReceive (link : Nat) (flit : List Byte) (fecUncorrectable : Nat)
  /-- REPLAY_TIMEOUT (R398). -/
  | replayTimeout (link : Nat)
  /-- PACKET_FORWARD (R413). -/
  | packetForward (link : Nat)
  /-- RESIDENCY_TIMEOUT (R415). -/
  | residencyTimeout (link : Nat) (vl : Nat)
  /-- READ_REQ (R383). -/
  | readReq (link : Nat) (p : Packet)
  /-- WRITE (R383). -/
  | write (link : Nat) (w : PeerWrite)
  /-- ACC_WRITE (R403). -/
  | accWrite (link : Nat) (w : PeerAdd)
  /-- SIGNAL_PACKET (R263). -/
  | signalPacket (link : Nat) (p : Packet)
  /-- READ_RESP (R404). -/
  | readResp (link : Nat) (p : Packet)
  /-- WRITE_ACK (R404). -/
  | writeAck (link : Nat) (p : Packet)
  /-- SIGNAL_ACK (R263). -/
  | signalAck (link : Nat) (p : Packet)
  /-- LINK_MGMT (R401). -/
  | linkMgmt (link : Nat) (p : Packet)
  /-- ABORT_RECORD (R421). -/
  | abortRecord (link : Nat) (record : AbortRecord)
  /-- RED_READY (R429). -/
  | redReady (link : Nat) (p : Packet)
  /-- RED_READY_RESEND (R429). -/
  | redReadyResend (link : Nat) (entry : Nat)
  /-- RED_HEAD (R431). -/
  | redHead (link : Nat) (p : Packet)
  /-- RED_DATA (R431). -/
  | redData (link : Nat) (p : Packet)
  /-- RED_TAIL (R442). -/
  | redTail (link : Nat) (p : Packet) (laneFault : Bool)
  /-- BLOCK_SEND (R446). -/
  | blockSend (link : Nat)
  /-- COLLECTIVE_TIMEOUT (R456). -/
  | collectiveTimeout (ctx : Nat)
  /-- WAIT_TIMEOUT (R264). -/
  | waitTimeout (ctx : Nat)
  /-- TEARDOWN_DONE (R468). -/
  | teardownDone (ctx : Nat)
  /-- TEARDOWN_TIMEOUT (R474). -/
  | teardownTimeout (ctx : Nat) (field : Nat) (engine : Nat)
  /-- QUARANTINE_END (R475). -/
  | quarantineEnd (ctx : Nat)
  /-- ENGINE_HUNG (R481). -/
  | engineHung (field : Nat) (engine : Nat)
  /-- ENGINE_RESET_TIMEOUT (R483). -/
  | engineResetTimeout (field : Nat) (engine : Nat)
  /-- FIELD_RESET_DONE (R484). -/
  | fieldResetDone (field : Nat) (found : ResetCheck)
  /-- FIELD_RESET_TIMEOUT (R485). -/
  | fieldResetTimeout (field : Nat)
  /-- FIELD_TEST_BORROW (R525). -/
  | fieldTestBorrow (field : Nat)
  /-- FIELD_TEST_WAIT_TIMEOUT (R525). -/
  | fieldTestWaitTimeout (field : Nat)
  /-- TEST_DONE (R527). -/
  | testDone (field : Nat) (found : TestResult)
  /-- FIELD_TEST_TIMEOUT (R529). -/
  | fieldTestTimeout (field : Nat)
  /-- MIRROR_COPY_START (R507). -/
  | mirrorCopyStart (copy : Nat)
  /-- MIRROR_COPY_DONE (R508). -/
  | mirrorCopyDone (copy : Nat)
  /-- POWER_UP (R565). -/
  | powerUp (found : BringUp)
  /-- FEED_QUALIFY (R582). -/
  | feedQualify (feed : Nat) (mv : Int)
  /-- FEED_DISQUALIFY (R583). -/
  | feedDisqualify (feed : Nat) (mv : Int)
  /-- FEED_RETURN (R583). -/
  | feedReturn (mv : Int)
  /-- FUSE_TRIP (R582). -/
  | fuseTrip (feed : Nat) (mv : Int)
  /-- FEED_ENABLE_RELEASE (R607). -/
  | feedEnableRelease (feed : Nat) (mv : Int)
  /-- FEED_REVERSED (R585). -/
  | feedReversed (feed : Nat) (mv : Int)
  /-- REARM (R585). -/
  | rearm (feed : Nat)
  /-- PHASE_FAIL (R589). -/
  | phaseFail (rail : Nat)
  /-- POWER_CAP_PERIOD (R597). -/
  | powerCapPeriod (watts : Nat) (fieldWatts : List Nat)
  /-- MIN_POWER_EXIT (R598). -/
  | minPowerExit
  /-- THERMAL_THROTTLE (R602). -/
  | thermalThrottle (field : Nat) (sensor : Nat) (celsius : Nat)
  /-- THERMTRIP (R602). -/
  | thermtrip
  /-- COOLING (R601). -/
  | cooling (reading : Coolant)
  /-- REFCLK_LOST (R592). -/
  | refclkLost
  /-- REFCLK_RETURN (R592). -/
  | refclkReturn
  /-- PLL_LOCK_LOSS (R593). -/
  | pllLockLoss (p : PllLoss)
  /-- PLUGGABLE_INSERT (R612). -/
  | pluggableInsert (watts : Nat)
  /-- SIDEBAND_WRITE (R616). -/
  | sidebandWrite (bus : Nat) (addr : U16) (data : List Byte) (parityOk : Bool)
  /-- APPLY (R619). -/
  | apply (bus : Nat) (value : U64)
  /-- SB_RESET_PULSE (R621). -/
  | sbResetPulse (micros : Nat) (found : BringUp)
  /-- RESET_STUCK (R620). -/
  | resetStuck
  /-- SIDEBAND_BUS_FAULT (R620). -/
  | sidebandBusFault (bus : Nat) (fault : BusFault)
  /-- SIDEBAND_BUS_RECOVER (R620). -/
  | sidebandBusRecover (bus : Nat)
  /-- ENGINE_RESET_DONE (R482). -/
  | engineResetDone (field : Nat) (engine : Nat)
  /-- HBM_STACK_FAILED (R377). -/
  | hbmStackFailed (stack : Nat)
  /-- PARTNER_TRAINING_START (R566). -/
  | partnerTrainingStart (link : Nat)
  /-- RDMA_READ_RESPONSE (R536). -/
  | rdmaReadResponse (tag : U32) (data : List Byte)
  /-- THERMAL_RELEASE (R602). -/
  | thermalRelease (field : Nat) (sensor : Nat) (celsius : Nat)
  /-- RESET_STUCK_RELEASE (R620). -/
  | resetStuckRelease
  deriving DecidableEq, Repr

end Sys2Proof
end

