-- ==== Sys2Proof/Machine/Bits.lean ====
section
/-! DEFINITION. Byte order (R11), bit fields, sparse tables kept in rising key order, and the CRCs of R208 and R394. -/
namespace Sys2Proof.Machine

/-! ## Little-endian numbers -/

/-- The `n` little-endian bytes of `v`. -/
def leBytes : Nat → Nat → List Byte
  | 0, _ => []
  | n + 1, v => BitVec.ofNat 8 v :: leBytes n (v / 256)

/-- The number a little-endian byte string holds. -/
def leNat : List Byte → Nat
  | [] => 0
  | b :: bs => b.toNat + 256 * leNat bs

/-- Bytes `off` to `off + len − 1` of a record; bytes beyond its end are missing. -/
def bytesAt (bs : List Byte) (off len : Nat) : List Byte := (bs.drop off).take len

/-- The unsigned field of `len` bytes at `off`. -/
def field (bs : List Byte) (off len : Nat) : Nat := leNat (bytesAt bs off len)

/-- Two's complement reading of the low `w` bits of `v`. -/
def signedOf (w v : Nat) : Int :=
  let m := v % 2 ^ w
  if 2 * m < 2 ^ w then (m : Int) else (m : Int) - (2 ^ w : Nat)

/-- The signed field of `len` bytes at `off`. -/
def fieldS (bs : List Byte) (off len : Nat) : Int := signedOf (8 * len) (field bs off len)

/-- The low `w` bits of an integer in two's complement. -/
def lowBits (w : Nat) (v : Int) : Nat := (v % ((2 ^ w : Nat) : Int)).toNat

/-- Bits [lo + len − 1 : lo] of `v`. -/
def bitsOf (v lo len : Nat) : Nat := v / 2 ^ lo % 2 ^ len

/-- Bit `i` of `v`. -/
def bitOf (v i : Nat) : Bool := v / 2 ^ i % 2 = 1

/-- Every byte is zero. -/
def allZero (bs : List Byte) : Bool := bs.all (fun b => b == 0#8)

/-- A record padded with zero bytes to `n`. -/
def padTo (n : Nat) (bs : List Byte) : List Byte := bs ++ List.replicate (n - bs.length) 0#8

/-- Replace the bytes of `bs` from `off` on by `v`. -/
def patch (bs : List Byte) (off : Nat) (v : List Byte) : List Byte :=
  bs.take off ++ v ++ bs.drop (off + v.length)

/-- 1 for true. -/
def b2n (b : Bool) : Nat := if b then 1 else 0

/-- The ceiling of a division. -/
def ceilDiv (a b : Nat) : Nat := (a + b - 1) / b

/-- A count that saturates at `top`. -/
def satAdd (top a b : Nat) : Nat := min top (a + b)

/-! ## Sparse tables -/

/-- The entry of key `k`. -/
def tableGet? {α : Type} (l : List (Nat × α)) (k : Nat) : Option α :=
  match l with
  | [] => none
  | (j, v) :: t => if j = k then some v else tableGet? t k

/-- The entry of key `k`, or the default. -/
def tableGet {α : Type} (l : List (Nat × α)) (k : Nat) (d : α) : α := (tableGet? l k).getD d

/-- Set the entry of key `k`, keeping keys rising. -/
def tablePut {α : Type} : List (Nat × α) → Nat → α → List (Nat × α)
  | [], k, v => [(k, v)]
  | (j, w) :: t, k, v =>
    if k < j then (k, v) :: (j, w) :: t
    else if k = j then (k, v) :: t
    else (j, w) :: tablePut t k v

/-- Remove the entry of key `k`. -/
def tableErase {α : Type} (l : List (Nat × α)) (k : Nat) : List (Nat × α) := l.filter (fun e => e.1 != k)

/-- Insert into a rising list of numbers. -/
def insertNat : List Nat → Nat → List Nat
  | [], k => [k]
  | j :: t, k => if k < j then k :: j :: t else if k = j then j :: t else j :: insertNat t k

/-! ## Sorting -/

/-- Put an element into a sorted list, in front of its equals. -/
def insertBy {α : Type} (le : α → α → Bool) (x : α) : List α → List α
  | [] => [x]
  | y :: l => if le x y then x :: y :: l else y :: insertBy le x l

/-- A list in order; equals keep their order. -/
def sortBy {α : Type} (le : α → α → Bool) : List α → List α
  | [] => []
  | x :: l => insertBy le x (sortBy le l)

/-! ## Checksums -/

/-- One bit of a reflected CRC-32. -/
def crcBit (poly c : BitVec 32) : BitVec 32 :=
  if c.getLsbD 0 then (c >>> 1) ^^^ poly else c >>> 1

/-- One byte of a reflected CRC-32. -/
def crcByte (poly c : BitVec 32) (b : Byte) : BitVec 32 :=
  let x := c ^^^ b.setWidth 32
  crcBit poly (crcBit poly (crcBit poly (crcBit poly (crcBit poly (crcBit poly (crcBit poly (crcBit poly x)))))))

/-- A reflected CRC-32 of a byte string from a state. The state is taken apart at each byte so that the kernel computes it
before it goes on. -/
def crcFold (poly : BitVec 32) : List Byte → BitVec 32 → BitVec 32
  | [], c => c
  | b :: bs, c =>
    match c.toNat with
    | 0 => crcFold poly bs (crcByte poly 0#32 b)
    | n + 1 => crcFold poly bs (crcByte poly (BitVec.ofNat 32 (n + 1)) b)

/-- A reflected CRC-32 with initial value and final exclusive-or 0xFFFF_FFFF. -/
def crcWith (poly : BitVec 32) (bs : List Byte) : BitVec 32 := crcFold poly bs 0xFFFFFFFF#32 ^^^ 0xFFFFFFFF#32

/-- CRC-32C of R208 (polynomial 0x1EDC_6F41, reflected 0x82F6_3B78). -/
def crc32c (bs : List Byte) : BitVec 32 := crcWith 0x82F63B78#32 bs

/-- CRC-32 of IEEE 802.3, for flits (R394; polynomial 0x04C1_1DB7, reflected 0xEDB8_8320). -/
def crc32 (bs : List Byte) : BitVec 32 := crcWith 0xEDB88320#32 bs

/-- Even parity of a byte: true when its number of ones is odd (the parity bit that makes it even). -/
def parityBit (b : Byte) : Bool :=
  (List.range 8).foldl (fun p i => p != b.getLsbD i) false

end Sys2Proof.Machine
end

