-- ==== Sys2Proof/Config.lean ====
section
/-! DEFINITION. What one module fixes (its grade) and what the manual leaves open: constants without a body,
so that no proof can lean on a value the manual does not give. -/
namespace Sys2Proof

/-- The three grades of R1 (00_scope.md). -/
inductive Grade where
  | nx8h64 | nx8h48 | nx4h64
  deriving DecidableEq, Repr

namespace Config

/-- Free values: DESIGN CHOICE (log 3). The model draws one wherever the manual leaves a value open and the machine
goes on; the counter `State.freeCtr` numbers the draws. -/
opaque freeValue : Nat → BitVec 64

/-- Free values of data: by what determines the value in the manual (R14), as integers, then by element. -/
opaque freeOf : List Int → Nat → BitVec 64

/-- Table functions of R303 (09), by function-table revision and FP32 argument: the manual gives error bounds and
special inputs, which Machine/Tables.lean imposes; the remaining bits are those of an unpublished image (log 13). -/
opaque expTable : BitVec 16 → BitVec 32 → BitVec 32
opaque logTable : BitVec 16 → BitVec 32 → BitVec 32
opaque rsqrtTable : BitVec 16 → BitVec 32 → BitVec 32
opaque tanhTable : BitVec 16 → BitVec 32 → BitVec 32
opaque sigmoidTable : BitVec 16 → BitVec 32 → BitVec 32
opaque siluTable : BitVec 16 → BitVec 32 → BitVec 32
opaque geluTable : BitVec 16 → BitVec 32 → BitVec 32
/-- The inverse normal of R303 and R307, by revision and the 32 generator bits w of the argument (w + 0.5) × 2^−32. -/
opaque invNormTable : BitVec 16 → BitVec 32 → BitVec 32

/-- The default MAC address in the 512 bytes of the FRU data (R617, 20): the manual gives their layout no offsets; DESIGN
CHOICE (log 7). -/
opaque defaultMac : List Byte → BitVec 48
/-- The device key's ECDSA P-521 signature (r, s) of a digest (R571, R578): the private key is the module's own; DESIGN CHOICE (log 10). -/
opaque deviceSignature : List Byte → Nat × Nat
/-- The four vendor public keys of the boot ROM (R571), as points of P-521: the manual gives no values; DESIGN CHOICE (log 10). -/
opaque vendorKey : Nat → Nat × Nat
/-- The DER bytes of certificate `i` of the chain (R577); DESIGN CHOICE (log 10). -/
opaque certificate : Nat → List Byte
/-- The three memory keys of R534: HBM, reservoir, doorbell page; DESIGN CHOICE (log 10). -/
opaque memoryKey : Nat → BitVec 32
/-- The pseudo-channel that holds a 256-byte granule of a stack (R370: internal, no register reads it); DESIGN CHOICE (log 10). -/
opaque pseudoChannel : Nat → Nat → BitVec 6
/-- The pseudo-channel of a peer module that holds a word of its HBM (R370, R513), by global address; DESIGN CHOICE (log 10). -/
opaque peerChannel : Nat → BitVec 6
/-- Where the reserve takes a granule of a stack at its first or second retirement (R373), by granule; DESIGN CHOICE (log 10). -/
opaque reservePlace : Nat → Nat → Nat → Nat
/-- The 32-bit word into which a cell decodes its 16 loaded bits (R107: internal, no unit exposes it), by width class and format;
DESIGN CHOICE (log 10). -/
opaque cellWord : Nat → Nat → BitVec 16 → BitVec 32
/-- The choice of the next data column of the check code (R348) among those that are left (log 102). -/
opaque eccPick : Nat → Nat

end Config
end Sys2Proof
end

