-- ==== Sys2Proof/Machine/State.lean ====
section
/-! DEFINITION. The state of the module: everything the manual gives it, as plain data, and the state at power-on. -/
namespace Sys2Proof.Machine

/-- Why a run stops with a fault. No command raises one: the manual gives every command an effect or a reply, and turns
its own faults into statuses, poison and events (R542, R349, R530). Safe: stopping proves nothing false. -/
inductive Fault where
  /-- Raised by no command; the fault channel of the interface. Safe. -/
  | none
  deriving DecidableEq, Repr

/-- Why a command is refused. -/
inductive Refusal where
  /-- Raised by an arm of exec whose command has no meaning yet. Safe: the run stops there. -/
  | notModelled (mnemonic : String)
  deriving DecidableEq, Repr

/-! ## Long accumulator words (R63, R83, 03) -/

/-- The special tags of R83. -/
inductive Tag where
  | fin | pinf | ninf | nan | ovfp | ovfn | ovfx
  deriving DecidableEq, Repr

/-- An L128 word: T = S + W × 2^128, tag, poison mark, residue (R63, R64). The anchor is held beside it. -/
structure L128 where
  t : Int
  tag : Tag
  poison : Bool
  residue : Nat
  deriving DecidableEq, Repr

/-! ## Memory (R346 to R350, R369 to R371) -/

/-- HBM and reservoir. A key is space × 2^44 + offset. `cells` lists the bytes that are not zero, `clean` the 8-byte check
granules (key / 8) written without the poison mark; a poisoned granule holds data zero (R349). `ecc` lists the bits of a granule
that upsets have flipped since it was written: data bits 0 to 63, then check bits (R348). `writeBack` lists corrected words
(key / 64) waiting for an idle port B (R350). -/
structure Mem where
  cells : List Host.Cell
  clean : List Nat
  ecc : List (Nat × BitVec 72)
  writeBack : List Nat
  deriving DecidableEq, Repr

/-! ## Contexts and operations -/

/-- The states of a context slot (R464, 14). -/
inductive CtxState where
  | free | active | stopped | teardown | quarantine
  deriving DecidableEq, Repr

/-- A descriptor table entry: its 64 bytes (R231, 08) and the result of the alias test (R242). -/
structure DescEntry where
  bytes : List Byte
  aliasFree : Bool
  deriving DecidableEq, Repr

/-- A statistics record (R190, 06). -/
structure StatRec where
  step : U32
  ceilMax : Int
  maxMag : U32
  tiles : Nat
  valid : Nat
  overflowed : Nat
  saturated : Nat
  flushed : Nat
  subnormal : Nat
  nan : Nat
  inf : Nat
  deriving DecidableEq, Repr

/-- The lens counts of a window (R338, R344, 10). -/
structure Lens where
  valid : Nat
  overs : Nat
  vanish : Nat
  subnormal : Nat
  nan : Nat
  inf : Nat
  picks : Nat
  dropped : Nat
  compared : Nat
  disagree : Nat
  maxRatio : U32
  deriving DecidableEq, Repr

/-- A piece of an input that lies off the module and has been asked for: its request tag and global address. -/
structure Need where
  tag : U32
  addr : Nat
  len : Nat
  deriving DecidableEq, Repr

/-- One field's part of a divided matrix operation (R133): half-open ranges of M, N and K. -/
structure Share where
  mLo : Nat
  mHi : Nat
  nLo : Nat
  nHi : Nat
  kLo : Nat
  kHi : Nat
  deriving DecidableEq, Repr

/-- A started matrix operation: anchor (R67), whether its split is chosen, split axis (0 N, 1 M, 2 K) and shares by position
(R133, R134), smallest grant (R126, R144), rows granted by position (R142), rows of the first load missing at the start by position (R123), passes issued by position (of K = 0: blocks given their rows), cycles that each pass of a group in step has waited (R135), group offsets (R274),
whether it continues held sums (R151), whether it wrote a poisoned tile (R512), words of output tiles that are not whole yet, by tile linear index and stored position. -/
structure MatRun where
  anchor : Int
  chosen : Bool
  axis : Nat
  shares : List Share
  grant : Nat
  rows : List Nat
  firstLoad : List Nat
  granted : Bool
  progress : List Nat
  waits : List (Nat × Nat)
  offsets : List Nat
  chain : Bool
  poisoned : Bool
  staged : List (Nat × Nat × L128)
  deriving DecidableEq, Repr

/-- A started collective: group anchor, own step flags at its start (R449), blocks it still delivers, flags-only blocks it still
passes on, flags gathered from what it delivered. -/
structure CollRun where
  anchor : Int
  startFlags : BitVec 7
  toDeliver : Nat
  toPass : Nat
  gathered : BitVec 7
  deriving DecidableEq, Repr

/-- Where an issued operation stands. -/
inductive OpPhase where
  /-- issued, not started -/
  | issued
  /-- started, work in progress -/
  | running
  /-- work done; its last writes are landing (R260) -/
  | landing
  deriving DecidableEq, Repr

/-- An issued operation (R257, R258), with the descriptor entries (R245) and the keeper table (R545) of its issue, the anchor of its
destination as it started (R253), and the residue checks that fail in its own additions (R512). `later` are pieces of its inputs
that wait for a descriptor of a mover (R491). -/
structure Op where
  record : List Byte
  descs : List (Nat × DescEntry)
  seq : U32
  step : U32
  seed : U64
  phase : OpPhase
  status : U16
  startCycle : Nat
  fields : List Nat
  degraded : Bool
  preempted : Bool
  needs : List Need
  fetched : List (Nat × Byte)
  fetchedBad : List Nat
  acks : List U32
  later : List (Nat × Nat)
  comparisons : Nat
  keeper : List (Nat × List Byte)
  dest : Option Int
  faults : List FaultSite
  poisoned : Bool
  mat : Option MatRun
  coll : Option CollRun
  deriving DecidableEq, Repr

/-- A stationary block in the array's cells (R99, R107, R109): the operation and the pass it belongs to, the pass's batch, group
and ranges of K and N, width class and format of B, the 16 loaded bits of every active cell by row and column, and the block
scales by run of 32 of K and column (R111). `began` is the cycle its load began in, `lead` the cycles of the pass beside which
it loads (R124). -/
structure CellBlock where
  ctx : Nat
  seq : U32
  batch : Nat
  g : Nat
  k0 : Nat
  k1 : Nat
  n0 : Nat
  n1 : Nat
  cls : Nat
  code : Nat
  cells : List (List (BitVec 16))
  scales : List (List Byte)
  began : Nat
  lead : Nat
  deriving DecidableEq, Repr

/-- The states of a tile row (R140, 05). -/
inductive TileState where
  | free | open | draining | held | saving
  deriving DecidableEq, Repr

/-- A basin tile row (R139 to R141, R155): state, anchor, owner and generation, sequence number, output descriptor index,
place in the output (batch, first row, first column), passes and partials done, rows already sent as partials, words by
512 × row + column; a word that is not listed is fresh. `resumes` is the state a save returns to. -/
structure TileRow where
  state : TileState
  anchor : Int
  ctx : Nat
  gen : BitVec 12
  seq : U32
  out : Nat
  placed : Bool
  batch : Nat
  m0 : Nat
  n0 : Nat
  passesDone : Nat
  complete : Bool
  partials : BitVec 8
  arrivals : List (Nat × Nat)
  sent : Nat
  resumes : TileState
  words : List (Nat × L128)
  deriving DecidableEq, Repr

/-- A saved tile row of a context: the field, its slot in the save area, the tile row it was, whether a preemption saved it
(R156, R160), and what the basin knew of it. -/
structure SavedRow where
  field : Nat
  slot : Nat
  index : Nat
  preempt : Bool
  row : TileRow
  deriving DecidableEq, Repr

/-- Sums held across operations (R151, R152): output descriptor index and bytes, field group, M, N, anchor, split axis and
fields of the chain's first operation. -/
structure Chain where
  out : Nat
  desc : List Byte
  group : Nat
  m : Nat
  n : Nat
  anchor : Int
  axis : Nat
  fields : List Nat
  deriving DecidableEq, Repr

/-- A context slot (R459, 14). -/
structure Ctx where
  state : CtxState
  gen : BitVec 12
  priority : BitVec 2
  fieldGroup : Byte
  job : U16
  stopStatus : U16
  seeds : List U64
  descs : List (Nat × DescEntry)
  stats : List (Nat × StatRec)
  keeper : List (Nat × List Byte)
  step : U32
  updates : U32
  windowOpen : Bool
  witnessLog2 : Nat
  skipped : Bool
  applied : Bool
  flags : BitVec 7
  sync : List U32
  nextSeq : U32
  lastIssued : Option U32
  stream : List (List Byte)
  ops : List Op
  saveArea : List U64
  witnessBase : U64
  witnessSlots : Nat
  witnessUsed : Nat
  lensBase : U64
  lens : Lens
  saved : List SavedRow
  chains : List Chain
  tearStart : Nat
  quarStart : Nat
  tearCause : U16
  tearSeq : U32
  tearGen : BitVec 12
  deriving DecidableEq, Repr

/-! ## Fields -/

/-- A `BED_REPAIR` map (R103, 04). -/
structure BedMap where
  rowA : Nat
  rowB : Nat
  colA : Nat
  colB : Nat
  unrepairable : Bool
  fromTable : Bool
  deriving DecidableEq, Repr

/-- A `RES_SPARE_GROUP` register (R359, 11). -/
structure SpareGroup where
  spare0 : BitVec 6
  used0 : Bool
  spare1 : BitVec 6
  used1 : Bool
  fromTable : Bool
  unrepairable : Bool
  deriving DecidableEq, Repr

/-- The steady power states of an interleave set (R361). -/
inductive SetState where
  | on | retention | off
  deriving DecidableEq, Repr

/-- An interleave set (R361 to R366): where it is or was, the transition in progress, transitions still to run, the waiting
command's request, whether the running command and the waiting one pass through off. -/
structure SetPower where
  state : SetState
  target : Option SetState
  steps : List SetState
  waiting : Option SetState
  lost : Bool
  waitingLost : Bool
  withdrawn : Bool
  contentsLost : Bool
  deriving DecidableEq, Repr

/-- A bank's counts (R367) and scrub row (R351). -/
structure BankStat where
  collisions : Nat
  corrected : Nat
  uncorrected : Nat
  scrubRow : Nat
  deriving DecidableEq, Repr

/-- A mover's descriptors that are not free (R491), each with its context and request tag. -/
structure Mover where
  queued : List (Nat × U32)
  executing : List (Nat × U32)
  deriving DecidableEq, Repr

/-- A field test queued or running (R523 to R529, 16). -/
structure FieldTest where
  kind : Nat
  onFail : Nat
  deadline : Nat
  accepted : Nat
  borrowed : Option Nat
  deriving DecidableEq, Repr

/-- A witness comparison waiting for the witness engine (R341, R342): operation, output tile, picked operand (0 A, 1 B) and
tile, witness slot, exact sums before the epilogue by stored position of the output tile, and the held sums that the operation adds
to, by stored position too (R151). -/
structure Comparison where
  ctx : Nat
  seq : U32
  tile : Nat
  operand : Nat
  picked : Nat
  slot : Nat
  anchor : Int
  sums : List (Nat × L128)
  base : List (Nat × L128)
  deriving DecidableEq, Repr

/-- A field. `progress` is the cycle in which an engine's progress counter last advanced or its work began (R479). `shadowWords` and `cellWords` are the shadow and stationary words of its cells by 512 × active row + active column, zero
where not listed (R99; log 9); `shadow` and `stationary` say what block they hold. -/
structure Field where
  state : Nat
  resets : Nat
  hung : BitVec 20
  progress : List (Nat × Nat)
  hangLimit : U32
  arith : Nat
  sealFails : Nat
  parity : Nat
  poisonedOps : Nat
  passes : U32
  stalls : U32
  savedCount : U32
  restoredCount : U32
  tilesRead : U32
  tilesWritten : U32
  requant : U32
  badIndex : Nat
  tileRows : List TileRow
  beds : List (Nat × BedMap)
  groups : List (Nat × SpareGroup)
  seqUse : List Nat
  sets : List SetPower
  banks : List (Nat × BankStat)
  movers : List Mover
  poolGranted : Nat
  running : Option (Nat × U32)
  lastStarted : Nat
  shadow : Option CellBlock
  stationary : Option CellBlock
  shadowWords : List (Nat × U32)
  cellWords : List (Nat × U32)
  comparisons : List Comparison
  test : Option FieldTest
  resetStart : Nat
  engineResets : List (Nat × Nat)
  hostStep : Nat
  capLevel : Nat
  dieLevel : Nat
  hbmLevel : Nat
  overCap : Nat
  deriving DecidableEq, Repr

/-- An HBM stack (R377, 11); `failed` and `retiring` tell what its state is again when its field recovers. -/
structure Stack where
  state : Nat
  retiredA : Option (BitVec 6)
  retiredB : Option (BitVec 6)
  corrected : Nat
  uncorrected : Nat
  pcUncorrected : List (Nat × Nat)
  retiring : Option (BitVec 6)
  trained : Bool
  failed : Bool
  deriving DecidableEq, Repr

/-! ## Links and sluices -/

/-- A sequenced flit in the replay buffer (R394, R398, 12). -/
structure Flit where
  seq : BitVec 12
  ftype : Nat
  credits : List Nat
  pool : Byte
  first : Byte
  body : List Byte
  deriving DecidableEq, Repr

/-- The per-virtual-lane books of a link (R406 to R410): the sender's credits, and the receiver's occupied units, granted
blocks, units freed and not returned, units withheld, whether it withholds, and the grants and releases still to be announced. -/
structure Vl where
  credits : Nat
  occupied : Nat
  granted : Nat
  freed : Nat
  withheld : Nat
  withholding : Bool
  grants : Nat
  releases : Nat
  deriving DecidableEq, Repr

/-- A reduction block in any form (R432, R433, 13): header fields and contents (words, or the stored tile slot and its
statistics). -/
structure RedBlock where
  job : U16
  redNo : U16
  index : U32
  anchor : Int
  form : Nat
  tags : Bool
  lost : Bool
  poison : Bool
  reserve : Bool
  stats : Bool
  base : Nat
  count : Nat
  residue : Nat
  shared : BitVec 7
  words : List L128
  slot : List Byte
  deriving DecidableEq, Repr

/-- A block in VL3 staging (R425): the packets' key and the bytes received. -/
structure Staged where
  src : U16
  job : U16
  redNo : U16
  index : U32
  header : List Byte
  payload : List Byte
  chunks : Nat
  units : Nat
  deriving DecidableEq, Repr

/-- A block that a sluice holds (R425, R426): in a working buffer, the kept one or another, or in its receive slots; the units of
the receive slots that it and what was added to it occupy, by link; and how many sends of it are still to leave, none while
its sum is not whole; whether an addition here has widened it (R446). -/
structure HeldBlock where
  block : RedBlock
  buffer : Option Bool
  units : List (Nat × Nat)
  sending : Nat
  escalated : Bool
  deriving DecidableEq, Repr

/-- A block waiting for credits (R446): its destination, whether it goes by the routing table, whether it was originated here,
whether it escalated, and the link whose sluice holds it. -/
structure ToSend where
  block : RedBlock
  dst : U16
  tree : Bool
  originated : Bool
  escalated : Bool
  home : Option Nat
  deriving DecidableEq, Repr

/-- A block that leaves on a link, its credits taken (R446): the packets still to go at their lane's turns (R414). -/
structure Leaving where
  send : ToSend
  packets : List Packet
  deriving DecidableEq, Repr

/-- A job-table entry (R427) with its ready set; `seq` names the collective. -/
structure JobEntry where
  job : U16
  redNo : U16
  state : Nat
  ctx : Nat
  gen : BitVec 12
  anchor : Int
  policy : Byte
  floor : Byte
  members : Nat
  rank : Nat
  expected : Nat
  added : Nat
  delivered : Nat
  shared : BitVec 7
  ready : List U16
  started : List U16
  seq : U32
  deriving DecidableEq, Repr

/-- An accumulate-write being staged (R403): requester, tag, address, bytes so far, poison seen. -/
structure AccStage where
  src : U16
  job : U16
  ctx : Byte
  gen : U16
  tag : U32
  addr : Nat
  bytes : List Byte
  poison : Bool
  next : Nat
  deriving DecidableEq, Repr

/-- A link and its sluice. `blankTrained` says that it trained as a blank link (R503, R566). `holds` are the blocks in its sluice (R425, R426); `rx` holds received packets by virtual lane, `inject` this module's packets by injection port;
`held` keeps abort and management flits that wait for a place in the replay buffer (R398); `txPart` is the body that packets have begun and
`txFirst` the place of its first header (R394, R400). -/
structure Link where
  state : Nat
  reversed : Bool
  polarity : BitVec 9
  spareFor : Nat
  spareUsed : Bool
  roundTrip : Nat
  cause : Nat
  expectNode : U16
  expectLink : Nat
  expectBlank : Bool
  blankTrained : Bool
  seenNode : U16
  seenLink : Nat
  replays : Nat
  crcFail : Nat
  fecUncorr : Nat
  substitutions : Nat
  txSeq : BitVec 12
  replay : List Flit
  rxExpect : BitVec 12
  rxLast : Option (BitVec 12)
  nack : Bool
  nacked : Option (BitVec 12)
  vls : List Vl
  rx : List (Nat × Packet)
  rxPart : List Byte
  txPart : List Byte
  txFirst : Byte
  inject : List (Nat × Packet)
  held : List (Nat × List Byte)
  nextVl : Nat
  nextIn : List Nat
  reserveFree : Nat
  escalations : Nat
  badVerdicts : Nat
  entries : List (Nat × JobEntry)
  staged : List Staged
  holds : List HeldBlock
  sends : List ToSend
  leaving : Option Leaving
  acc : List AccStage
  deriving DecidableEq, Repr

/-- The bridges of the ditch (R417): from a field to its right neighbour, from a field of the top row to the one below, from
a field to the hub. -/
inductive Bridge where
  | row (f : Nat)
  | column (f : Nat)
  | hub (f : Nat)
  deriving DecidableEq, Repr

/-- A class on a bridge in one direction (R417); forward is right, down, and toward the hub. -/
structure BridgeLane where
  bridge : Bridge
  cls : Nat
  forward : Bool
  deriving DecidableEq, Repr

/-- A K-split partial on the ditch (R136, R628): one basin row of `cols` words for its owner field, and the bridges that it crosses. -/
structure Partial where
  src : Nat
  owner : Nat
  ctx : Nat
  gen : BitVec 12
  seq : U32
  batch : Nat
  m : Nat
  n0 : Nat
  cols : Nat
  anchor : Int
  words : List (Nat × L128)
  route : List BridgeLane
  deriving DecidableEq, Repr

/-- What the ditch holds: partials under way, and credit units out on each bridge, class and direction (R417, R423). -/
structure Ditch where
  partials : List Partial
  lent : List (BridgeLane × Nat)
  deriving DecidableEq, Repr

/-! ## Events -/

/-- An event record as its source raised it (R551, 17), before its index gives the phase. -/
structure EventRec where
  source : Nat
  cls : Nat
  ctxGen : U16
  code : U16
  stamp : BitVec 48
  p0 : U64
  p1 : U64
  p2 : U32
  deriving DecidableEq, Repr

/-- An event ring (R553 to R561, R619). -/
structure Ring where
  attached : Bool
  qp : Nat
  key : U32
  va : U64
  producer : U32
  consumer : U32
  armed : Bool
  waiting : List EventRec
  dropped : Nat
  lostMark : Bool
  badDoorbells : Nat
  deriving DecidableEq, Repr

/-- A source at an event controller (R562, R563). -/
structure EvcSrc where
  enable : Bool
  fast : Bool
  takenFast : Bool
  state : Nat
  again : Bool
  deriving DecidableEq, Repr

/-! ## Hub and port -/

/-- A host window (R536). -/
structure Window where
  qp : Nat
  key : U32
  va : U64
  len : Nat
  deriving DecidableEq, Repr

/-- A mirror region or restore window (R504): kind, admitted source, HBM base and length, claiming copy's serial (R508). -/
structure Region where
  kind : Nat
  src : U16
  base : Nat
  len : Nat
  claim : Option U32
  deriving DecidableEq, Repr

/-- A mirror copy (R506 to R509): source context, field, links, target, range, serial, destination offset; whether it runs and in which
step of R508 it is (1 manifest, 2 tiles, 3 scale-keeper table, 4 all acknowledged, 5 complete manifest), the source offset of its next
tile and that tile's number, the slots of the target that its last tiles went to, its unacknowledged writes, and the step, update count
and scale-keeper table at its start. -/
structure Copy where
  ctx : Option Nat
  field : Nat
  links : List Nat
  target : U16
  region : Nat
  src : Nat
  len : Nat
  serial : U32
  dst : Nat
  running : Bool
  stage : Nat
  next : Nat
  sent : Nat
  round : List (Nat × Nat)
  acks : Nat
  step : U32
  updates : U32
  keeper : List (Nat × List Byte)
  deriving DecidableEq, Repr

/-- A firmware bank (R570 to R574, 18): whether its image verifies, its revisions and its measurement. -/
structure Image where
  valid : Bool
  version : U32
  numericsRev : U16
  tableRev : U16
  measurement : List Byte
  deriving DecidableEq, Repr

/-- Where a reply goes: a queue pair of the port, nowhere once that has closed, or back to a relaying node in answer to its packet (R547, R548). -/
inductive Dest where
  | port (qp : Nat)
  /-- a queue pair that has closed since: the reply is discarded (R619) -/
  | closed
  | relay (link : Nat) (request : Packet)
  deriving DecidableEq, Repr

/-- What a waiting command waits for. -/
inductive WaitKind where
  | destroy (ctx : Nat)
  | jobAbort (ctxs : List Nat)
  | setPower (field set : Nat)
  | linkTrain (mask : U32)
  | fieldTest (field : Nat)
  | fieldReset (field : Nat)
  | hbmRetire (stack : Nat)
  | mirrorCopy (copy : Nat)
  | warmReset
  | submitHost (ctx : Nat) (count : Nat)
  | fwUpdate (kind : Nat)
  | relayed (node : U16) (link : Nat)
  deriving DecidableEq, Repr

/-- A command waiting for its end (R539, R540): reply header fields, destination, and for host-memory reads the request and the byte of
what it brings whose parity fails, if one does (R516). -/
structure Wait where
  kind : WaitKind
  tag : U32
  opcode : U16
  ctx : Byte
  dest : Dest
  key : U32
  got : List Byte
  left : Nat
  parity : Option ParityFault
  deriving DecidableEq, Repr

/-- A command held behind a waiting command of its context (R540). -/
structure Delayed where
  opcode : U16
  dest : Dest
  msg : HostMsg
  deriving DecidableEq, Repr

/-- A queue pair of the port (R533): its send rate in sixteenths of line rate × 2^16, and the cycle of its last CNP. -/
structure Qp where
  num : Nat
  connected : Bool
  rate : Nat
  lastCnp : Option Nat
  lastHit : Option Nat
  deriving DecidableEq, Repr

/-- An RDMA READ of the module (R534, R536): its queue pair, key, address, length and tag, and whether it has left; at most 16 of a queue
pair are outstanding (R533). -/
structure PortRead where
  qp : Nat
  key : U32
  va : Nat
  len : Nat
  tag : U32
  sent : Bool
  deriving DecidableEq, Repr

/-- What leaves the module. -/
inductive Out where
  | send (qp : Nat) (bytes : List Byte)
  | rdmaWrite (qp : Nat) (key : U32) (va : Nat) (bytes : List Byte)
  | rdmaRead (qp : Nat) (key : U32) (va : Nat) (len : Nat) (tag : U32)
  | readData (qp : Nat) (bytes : List Byte)
  | writeAck (qp : Nat)
  | accessNak (qp : Nat)
  | rnrNak (qp : Nat)
  | cnp (qp : Nat)
  | cm (qp : Nat) (msg : CmMsg)
  | flit (link : Nat) (bytes : List Byte)
  | inBand (bus : Nat)
  deriving DecidableEq, Repr

/-- The hub (`warm` and `retrain` say that a warm reset runs and has its links still to train, R490; `served` that the module holds its smallest
working set, R500; `loop` holds own packets for local delivery, R412): boot, identity, fabric identity, tables (R380, R412, R497, R504, R536, R548, R565 to R579). -/
structure Hub where
  stage : Nat
  noImage : BitVec 3
  fallback : BitVec 3
  bank : BitVec 3
  banks : List Image
  activeBank : BitVec 3
  loaded : List (Option Image)
  stepping : U16
  tableRev : U16
  numericsRev : U16
  optionFuses : U16
  revoked : BitVec 4
  debugLocked : Bool
  romRev : U32
  bedFuses : List (Nat × U32)
  groupFuses : List (Nat × U32)
  faultyBanks : List Nat
  bedFaults : List (Nat × List Nat × List Nat)
  node : U16
  routes : List (Nat × U32)
  repair : List (List Byte)
  cores : Nat
  corePass : BitVec 5
  relayOn : Bool
  relayNode : U16
  windows : List (Option Window)
  regions : List (Option Region)
  copies : List (Nat × Copy)
  nextCopy : Nat
  aborts : List (AbortRecord × Nat)
  serial : U16
  nextTag : U32
  warm : Bool
  retrain : Bool
  served : Bool
  loop : List Packet
  deriving DecidableEq, Repr

/-- The host port (R532, R533, R539, R618). -/
structure Port where
  up : Bool
  qps : List Qp
  waits : List Wait
  delayed : List Delayed
  reads : List PortRead
  mac : BitVec 48
  ipv4 : BitVec 40
  ipv6 : BitVec 128
  priority : BitVec 3
  ipv4On : Bool
  ipv6On : Bool
  ipv6Len : Byte
  pluggableHeld : Bool
  deriving DecidableEq, Repr

/-- A supply feed (R582 to R587): voltage in mV, `PWR_FEED` state, enable contact low, qualified. -/
structure Feed where
  mv : Int
  current : Nat
  state : Nat
  enabled : Bool
  qualified : Bool
  deriving DecidableEq, Repr

/-- Power, clocks and cooling (R582 to R603). `slowSince` and `coldSince` are the cycles in which the conditions of causes 3 and 4 of
R601 began to hold. -/
structure Power where
  feeds : List Feed
  serving : Option Nat
  phases : List Nat
  external : Bool
  hostCap : Nat
  under : Nat
  inletHot : Bool
  minCauses : List Nat
  minPower : Bool
  minSince : Nat
  inlet : Nat
  outlet : Nat
  flow : Nat
  leak : Bool
  leakWet : Bool
  slowSince : Option Nat
  coldSince : Option Nat
  reversedFlow : Bool
  down : Bool
  deriving DecidableEq, Repr

/-- The sideband (R614 to R622). `lastA` is the address of bus A's last register write and the cycle in which it finished (R616). -/
structure Sideband where
  busA : Nat
  busB : Nat
  resetStuck : Bool
  resetIgnored : Nat
  auxOnly : Bool
  thermtrip : Bool
  lastA : Option (Nat × Nat)
  fru : List (Nat × Byte)
  deriving DecidableEq, Repr

/-- The machine. -/
structure State where
  pending : List Instr
  out : List Out
  freeCtr : Nat
  now : Nat
  grade : Grade
  mem : Mem
  hub : Hub
  port : Port
  power : Power
  sideband : Sideband
  ctxs : List Ctx
  fields : List Field
  hbmStacks : List Stack
  links : List Link
  rings : List Ring
  evc : List (Nat × EvcSrc)
  ditch : Ditch
  deriving DecidableEq, Repr

/-! ## Power-on values -/

/-- What a memory byte that is not listed reads as (log 2). -/
def Mem.default : Byte := 0#8

/-- Both memories with every word poisoned (R626, R378). -/
def Mem.reset : Mem := { cells := [], clean := [], ecc := [], writeBack := [] }

/-- An empty lens window. -/
def Lens.reset : Lens :=
  { valid := 0, overs := 0, vanish := 0, subnormal := 0, nan := 0, inf := 0, picks := 0, dropped := 0, compared := 0
    disagree := 0, maxRatio := 0#32 }

/-- A FREE slot (R459, R465). -/
def Ctx.reset : Ctx :=
  { state := .free, gen := 0#12, priority := 0#2, fieldGroup := 0#8, job := 0#16, stopStatus := 0#16
    seeds := [0#64, 0#64, 0#64, 0#64], descs := [], stats := [], keeper := [], step := 0#32, updates := 0#32
    windowOpen := false, witnessLog2 := 12, skipped := false, applied := false, flags := 0#7
    sync := List.replicate 16 0#32, nextSeq := 0#32, lastIssued := none, stream := [], ops := []
    saveArea := List.replicate 8 0#64, witnessBase := 0#64, witnessSlots := 0, witnessUsed := 0, lensBase := 0#64
    lens := Lens.reset, saved := [], chains := [], tearStart := 0, quarStart := 0, tearCause := 0#16, tearSeq := 0#32, tearGen := 0#12 }

/-- A FREE tile row (R140). -/
def TileRow.reset : TileRow :=
  { state := .free, anchor := 0, ctx := 0, gen := 0#12, seq := 0#32, out := 0, placed := false, batch := 0, m0 := 0
    n0 := 0, passesDone := 0, complete := false, partials := 0#8, arrivals := [], sent := 0, resumes := .open, words := [] }

/-- The bed map without repair (R102, R103). -/
def BedMap.reset : BedMap :=
  { rowA := 128, rowB := 129, colA := 128, colB := 129, unrepairable := false, fromTable := false }

/-- The spare-group register at reset (R359). -/
def SpareGroup.reset : SpareGroup :=
  { spare0 := 0#6, used0 := false, spare1 := 0#6, used1 := false, fromTable := false, unrepairable := false }

/-- An interleave set that is on (R366). -/
def SetPower.reset : SetPower :=
  { state := .on, target := none, steps := [], waiting := none, lost := false, waitingLost := false, withdrawn := false, contentsLost := false }

/-- A bank's counts at reset (R367). -/
def BankStat.reset : BankStat := { collisions := 0, corrected := 0, uncorrected := 0, scrubRow := 0 }

/-- A field at reset. -/
def Field.reset : Field :=
  { state := 0, resets := 0, hung := 0#20, progress := [], hangLimit := 100000#32, arith := 0, sealFails := 0, parity := 0, poisonedOps := 0
    passes := 0#32, stalls := 0#32, savedCount := 0#32, restoredCount := 0#32, tilesRead := 0#32, tilesWritten := 0#32
    requant := 0#32, badIndex := 0, tileRows := List.replicate 256 TileRow.reset, beds := [], groups := []
    seqUse := [0, 1, 2, 3], sets := List.replicate 15 SetPower.reset, banks := []
    movers := List.replicate 8 { queued := [], executing := [] }, poolGranted := 0, running := none, lastStarted := 15
    shadow := none, stationary := none, shadowWords := [], cellWords := [], comparisons := [], test := none, resetStart := 0, engineResets := [], hostStep := 0, capLevel := 0, dieLevel := 0
    hbmLevel := 0, overCap := 0 }

/-- An HBM stack at reset (R377). -/
def Stack.reset : Stack :=
  { state := 0, retiredA := none, retiredB := none, corrected := 0, uncorrected := 0, pcUncorrected := [], retiring := none
    trained := false, failed := false }

/-- The reserve of each virtual lane, in slots (R407). -/
def vlReserve : List Nat := [64, 1344, 1344, 1344]

/-- A virtual lane's books after training: the sender holds the reserve's credits (log 12). -/
def Vl.reset (slots : Nat) : Vl :=
  { credits := 4 * slots, occupied := 0, granted := 0, freed := 0, withheld := 0, withholding := false, grants := 0, releases := 0 }

/-- A link at reset (R391 to R393, R458). -/
def Link.reset : Link :=
  { state := 0, reversed := false, polarity := 0#9, spareFor := 0, spareUsed := false, roundTrip := 0, cause := 0
    expectNode := 0xFFFF#16, expectLink := 0, expectBlank := false, blankTrained := false, seenNode := 0xFFFF#16, seenLink := 0, replays := 0
    crcFail := 0, fecUncorr := 0, substitutions := 0, txSeq := 0#12, replay := [], rxExpect := 0#12, rxLast := none
    nack := false, nacked := none, vls := vlReserve.map Vl.reset, rx := [], rxPart := [], txPart := [], txFirst := 0xFF#8, inject := [], held := [], nextVl := 1
    nextIn := [0, 0, 0, 0], reserveFree := 327, escalations := 0, badVerdicts := 0, entries := [], staged := [], holds := [], sends := [], leaving := none
    acc := [] }

/-- A ring that nothing has configured (R555, R558). -/
def Ring.reset : Ring :=
  { attached := false, qp := 0, key := 0#32, va := 0#64, producer := 0#32, consumer := 0#32, armed := true, waiting := []
    dropped := 0, lostMark := false, badDoorbells := 0 }

/-- A source at reset (R563). -/
def EvcSrc.reset : EvcSrc := { enable := true, fast := false, takenFast := false, state := 0, again := false }

/-- A firmware image as the module leaves manufacture (log 7). -/
def Image.factory : Image :=
  { valid := true, version := 0#32, numericsRev := 0#16, tableRev := 0#16, measurement := List.replicate 64 0#8 }

/-- An empty firmware bank (log 7). -/
def Image.empty : Image :=
  { valid := false, version := 0#32, numericsRev := 0#16, tableRev := 0#16, measurement := List.replicate 64 0#8 }

/-- The hub at power-on. -/
def Hub.reset : Hub :=
  { stage := 1, noImage := 0#3, fallback := 0#3, bank := 0#3
    banks := [Image.factory, Image.empty, Image.factory, Image.empty, Image.factory, Image.empty], activeBank := 0#3
    loaded := [none, none, none], stepping := 0#16, tableRev := 0#16, numericsRev := 0#16, optionFuses := 0#16
    revoked := 0#4, debugLocked := false, romRev := 0#32, bedFuses := [], groupFuses := [], faultyBanks := [], bedFaults := []
    node := 0xFFFF#16, routes := [], repair := [], cores := 4, corePass := 0x1F#5, relayOn := false, relayNode := 0#16
    windows := List.replicate 16 none, regions := List.replicate 16 none, copies := [], nextCopy := 0, aborts := []
    serial := 0#16, nextTag := 0#32, warm := false, retrain := false, served := false, loop := [] }

/-- The host port at power-on (R618). -/
def Port.reset : Port :=
  { up := false, qps := [], waits := [], delayed := [], reads := [], mac := 0#48, ipv4 := 0#40, ipv6 := 0#128, priority := 3#3
    ipv4On := false, ipv6On := false, ipv6Len := 0#8, pluggableHeld := false }

/-- Power at power-on (R586, R589; log 11). -/
def Power.reset : Power :=
  { feeds := List.replicate 2 { mv := 0, current := 0, state := 0, enabled := true, qualified := false }, serving := none
    phases := List.replicate 8 20 ++ [10, 6], external := true, hostCap := 7200, under := 0
    inletHot := false, minCauses := [], minPower := false, minSince := 0, inlet := 0, outlet := 0, flow := 0
    leak := false, leakWet := false, slowSince := none, coldSince := none, reversedFlow := false, down := false }

/-- The sideband at power-on (R622). -/
def Sideband.reset : Sideband :=
  { busA := 0, busB := 0, resetStuck := false, resetIgnored := 0, auxOnly := false, thermtrip := false, lastA := none, fru := [] }

/-- The module at power-on of an NX8-H64 (log 6), before bring-up (R565 step 1). -/
def State.reset : State :=
  { pending := [], out := [], freeCtr := 0, now := 0, grade := .nx8h64, mem := Mem.reset, hub := Hub.reset
    port := Port.reset, power := Power.reset, sideband := Sideband.reset, ctxs := List.replicate 16 Ctx.reset
    fields := List.replicate 8 Field.reset, hbmStacks := List.replicate 16 Stack.reset
    links := List.replicate 32 Link.reset, rings := List.replicate 17 Ring.reset, evc := [], ditch := { partials := [], lent := [] } }

end Sys2Proof.Machine
end

