-- ==== Sys2Proof/Machine/Memory.lean ====
section
/-! DEFINITION. HBM and reservoir: bytes, check granules, the poison mark and partial writes (R348 to R355, 11), and the
address maps of both spaces (R346, R347, R369). -/
namespace Sys2Proof.Machine

/-! ## Bytes, granules and words -/

/-- The bytes of odd weight three or more: the data columns of a code with odd columns (R348). -/
def oddColumns : List (BitVec 8) :=
  ((List.range 256).map (BitVec.ofNat 8)).filter (fun b => parityBit b && decide (3 ≤ ((List.range 8).countP b.getLsbD)))

/-- Distinct columns picked from a list. -/
def pickColumns : Nat → List (BitVec 8) → List (BitVec 8)
  | 0, _ => []
  | n + 1, l => let i := Config.eccPick n % l.length; l.getD i 0#8 :: pickColumns n (l.eraseIdx i)

/-- The syndrome that one flipped bit gives (R348): data bits 0 to 63, check bits 64 to 71. The manual does not give the columns of
the data bits: they are free (log 102). DEDUCED (log 102): a check bit's column is that bit alone, as the poison mark of R349
shows. -/
def eccColumn (i : Nat) : BitVec 8 := if i < 64 then (pickColumns 64 oddColumns).getD i 0#8 else BitVec.ofNat 8 (2 ^ (i - 64))

/-- The syndrome of a set of flipped bits. -/
def flipSyndrome (e : BitVec 72) : BitVec 8 := ((List.range 72).filter e.getLsbD).foldl (fun s i => s ^^^ eccColumn i) 0#8

/-- What a syndrome says (R348): clean, one bit, a detected uncorrectable error, or the poison mark. -/
inductive Check where
  | clean
  | single (bit : Nat)
  | bad
  | mark
  deriving DecidableEq, Repr

/-- The reading of a syndrome (R348). -/
def checkOf (s : BitVec 8) : Check :=
  if s = 0#8 then .clean
  else if s = 0xFF#8 then .mark
  else if !parityBit s then .bad
  else match ((List.range 8).map (fun i => 64 + i) ++ List.range 64).find? (fun i => eccColumn i == s) with
    | some i => .single i
    | none => .bad

/-- The syndrome of a stored granule: that of its upsets, over the poison mark's where it carries it (R348, R349). -/
def Mem.syndrome (m : Mem) (g : Nat) : BitVec 8 :=
  (if m.clean.contains g then 0#8 else 0xFF#8) ^^^ (match tableGet? m.ecc g with
    | some e => flipSyndrome e
    | none => 0#8)

/-- The check of a granule. -/
def Mem.check (m : Mem) (g : Nat) : Check := checkOf (m.syndrome g)

/-- The data bits in which a granule reads other than it was written: the flipped ones, but for the bit that the check corrects. -/
def Mem.wrongBits (m : Mem) (g : Nat) : BitVec 64 :=
  match tableGet? m.ecc g with
  | none => 0#64
  | some e => e.setWidth 64 ^^^ (match m.check g with
    | .single i => if i < 64 then BitVec.ofNat 64 (2 ^ i) else 0#64
    | _ => 0#64)

/-- The byte at key `k` as a read returns it. -/
def Mem.byte (m : Mem) (k : Nat) : Byte :=
  tableGet m.cells k Mem.default ^^^ (m.wrongBits (k / 8) >>> (8 * (k % 8))).setWidth 8

/-- The granule carries neither the poison mark nor an uncorrectable error (R349). -/
def Mem.granuleOk (m : Mem) (g : Nat) : Bool :=
  match tableGet? m.ecc g with
  | none => m.clean.contains g
  | some _ => match m.check g with
    | .clean | .single _ => true
    | _ => false

/-- The word reads as data (R349: one bad granule poisons it). -/
def Mem.wordOk (m : Mem) (w : Nat) : Bool := (List.range 8).all (fun i => m.granuleOk (8 * w + i))

/-- The word holds a granule with a detected uncorrectable error. -/
def Mem.wordDouble (m : Mem) (w : Nat) : Bool :=
  (List.range 8).any (fun i => (tableGet? m.ecc (8 * w + i)).isSome && m.check (8 * w + i) == .bad)

/-- The word holds single-bit errors and reads corrected (R350). -/
def Mem.wordSingle (m : Mem) (w : Nat) : Bool :=
  m.wordOk w && (List.range 8).any (fun i => match tableGet? m.ecc (8 * w + i), m.check (8 * w + i) with
    | some _, .single _ => true
    | _, _ => false)

/-- The words that bytes `k` to `k + len − 1` touch. -/
def wordsOf (k len : Nat) : List Nat :=
  if len = 0 then [] else (List.range ((k + len - 1) / 64 - k / 64 + 1)).map (fun i => k / 64 + i)

/-- `len` bytes from key `k` on, given the cells at `k` and above in rising order. -/
def bytesFrom : Nat → Nat → List Host.Cell → List Byte
  | 0, _, _ => []
  | n + 1, k, [] => Mem.default :: bytesFrom n (k + 1) []
  | n + 1, k, (j, b) :: t => if j = k then b :: bytesFrom n (k + 1) t else Mem.default :: bytesFrom n (k + 1) ((j, b) :: t)

/-- Written bytes from key `k` on as a read returns them. -/
def Mem.asRead (m : Mem) (k : Nat) (bs : List Byte) : List Byte :=
  if m.ecc.isEmpty then bs
  else (bs.zip (List.range bs.length)).map (fun p => p.1 ^^^ (m.wrongBits ((k + p.2) / 8) >>> (8 * ((k + p.2) % 8))).setWidth 8)

/-- The bytes from key `k` on, in one walk of the rising cells. -/
def Mem.bytes (m : Mem) (k len : Nat) : List Byte := m.asRead k (bytesFrom len k (m.cells.dropWhile (fun c => decide (c.1 < k))))

/-- The bytes that leave the memory for a consumer outside it: a poisoned word is the poison mark, with data zero (R349, R350). -/
def Mem.readOut (m : Mem) (k len : Nat) : List Byte :=
  ((m.bytes k len).zip (List.range len)).map (fun p => if m.wordOk ((k + p.2) / 64) then p.1 else 0#8)

/-- Every word the bytes touch reads as data. -/
def Mem.rangeOk (m : Mem) (k len : Nat) : Bool := (wordsOf k len).all m.wordOk

/-- Write one byte of a clean granule. -/
def Mem.setByte (m : Mem) (k : Nat) (b : Byte) : Mem :=
  if m.clean.contains (k / 8) then
    { m with cells := if b = Mem.default then tableErase m.cells k else tablePut m.cells k b }
  else m

/-- The granule is rewritten with the data that it reads as and with its check byte: no mark, no upset. -/
def Mem.cleanGranule (m : Mem) (g : Nat) : Mem :=
  let n := { m with clean := insertNat m.clean g, ecc := tableErase m.ecc g }
  if m.wrongBits g = 0#64 then n
  else (List.range 8).foldl (fun n i => n.setByte (8 * g + i) (m.byte (8 * g + i))) n

/-- The granules of a word that upsets have hit are rewritten corrected, unless the word is poisoned (R350). -/
def Mem.scrubWord (m : Mem) (w : Nat) : Mem :=
  if m.wordOk w then
    ((List.range 8).filter (fun i => (tableGet? m.ecc (8 * w + i)).isSome)).foldl (fun n i => n.cleanGranule (8 * w + i)) m
  else m

/-- Upsets flip bits of granules. -/
def Mem.upset (m : Mem) : List (Nat × BitVec 72) → Mem
  | [] => m
  | (g, e) :: l =>
    let v := (match tableGet? m.ecc g with
      | some d => d
      | none => 0#72) ^^^ e
    Mem.upset { m with ecc := if v = 0#72 then tableErase m.ecc g else tablePut m.ecc g v } l

/-- Poison every granule from `lo` to `hi − 1` (R349): data zero, poison mark. -/
def Mem.poison (m : Mem) (lo hi : Nat) : Mem :=
  { cells := m.cells.filter (fun c => decide (c.1 / 8 < lo) || decide (hi ≤ c.1 / 8))
    clean := m.clean.filter (fun g => decide (g < lo) || decide (hi ≤ g))
    ecc := m.ecc.filter (fun e => decide (e.1 < lo) || decide (hi ≤ e.1))
    writeBack := m.writeBack.filter (fun w => decide (8 * w < lo) || decide (hi ≤ 8 * w)) }

/-- Poison one word. -/
def Mem.poisonWord (m : Mem) (w : Nat) : Mem := m.poison (8 * w) (8 * w + 8)

/-- Write the bytes of one granule that a write covers; a whole granule is cleaned first, and so is a sound granule that
is rewritten with its check byte (R355). -/
def Mem.putGranule (m : Mem) (k : Nat) (bs : List Byte) : Mem :=
  (List.range bs.length).foldl (fun m i => m.setByte (k + i) (bs.getD i 0#8)) (m.cleanGranule (k / 8))

/-- The granules that bytes `k` to `k + len − 1` touch. -/
def granulesOf (k len : Nat) : List Nat :=
  if len = 0 then [] else (List.range ((k + len - 1) / 8 - k / 8 + 1)).map (fun i => k / 8 + i)

/-- A write inside one word (R355): when a granule that it covers in part is bad, the whole word becomes poison. -/
def Mem.writeWord (m : Mem) (k : Nat) (bs : List Byte) : Mem :=
  let whole := fun g => decide (k ≤ 8 * g) && decide (8 * g + 8 ≤ k + bs.length)
  let gs := granulesOf k bs.length
  if gs.any (fun g => !whole g && !m.granuleOk g) then m.poisonWord (k / 64)
  else gs.foldl (fun m g =>
    let lo := max k (8 * g)
    let hi := min (k + bs.length) (8 * g + 8)
    m.putGranule lo (bytesAt bs (lo - k) (hi - lo))) m

/-- A write of any length, word by word. -/
def Mem.write (m : Mem) (k : Nat) (bs : List Byte) : Mem :=
  (wordsOf k bs.length).foldl (fun m w =>
    let lo := max k (64 * w)
    let hi := min (k + bs.length) (64 * w + 64)
    m.writeWord lo (bytesAt bs (lo - k) (hi - lo))) m

/-- The canonical form: cells in strictly rising order, none zero, each in a clean granule; the other tables rising. -/
def Mem.wf (m : Mem) : Bool :=
  decide (m.cells.Pairwise (fun a b => a.1 < b.1)) && m.cells.all (fun c => c.2 != Mem.default && m.clean.contains (c.1 / 8))
  && decide (m.clean.Pairwise (· < ·)) && decide (m.ecc.Pairwise (fun a b => a.1 < b.1))
  && decide (m.writeBack.Pairwise (· < ·))

/-! ## Address maps -/

/-- Spaces of a global address (R379): HBM 0, reservoir 1. -/
def memKey (space offset : Nat) : Nat := space * 2 ^ 44 + offset

/-- Fields a grade has (R1). -/
def Grade.fields : Grade → Nat
  | .nx4h64 => 4
  | _ => 8

/-- HBM stacks a grade has (R1, R3). -/
def Grade.hbmStacks (g : Grade) : Nat := 2 * Grade.fields g

/-- Links a grade has (R1, R3). -/
def Grade.links (g : Grade) : Nat := 4 * Grade.fields g

/-- Addressable bytes of a stack (R369). -/
def Grade.stackBytes : Grade → Nat
  | .nx8h48 => 46500000000
  | _ => 62000000000

/-- Offsets of a field's reservoir that exist (R346): 15 sets of 256 MiB. -/
def reservoirBytes : Nat := 0xF0000000

/-- Whether `len` bytes at `offset` of a space all exist (R346, R369). -/
def mapped (g : Grade) (space offset len : Nat) : Bool :=
  let last := offset + len - 1
  if space = 0 then
    decide (offset / 2 ^ 36 < Grade.hbmStacks g) && decide (offset / 2 ^ 36 = last / 2 ^ 36)
      && decide (last % 2 ^ 36 < Grade.stackBytes g)
  else if space = 1 then
    decide (offset / 2 ^ 32 < Grade.fields g) && decide (offset / 2 ^ 32 = last / 2 ^ 32)
      && decide (last % 2 ^ 32 < reservoirBytes)
  else false

/-- The field that owns an offset of a space (R9, R346, R369). -/
def ownerField (space offset : Nat) : Nat := if space = 0 then offset / 2 ^ 37 else offset / 2 ^ 32

/-- The interleave set of a reservoir offset within its field (R347). -/
def resSet (o : Nat) : Nat := o % 2 ^ 32 / 268435456

/-- The bank of a reservoir offset (R347). -/
def resBank (o : Nat) : Nat := 128 * resSet o + (o % 268435456 / 64) % 128

/-- The row of a reservoir offset in its bank (R347). -/
def resRow (o : Nat) : Nat := (o % 268435456 / 64) / 128

/-- The reservoir offset of a bank's row in a field: the inverse of R347. -/
def resOffset (field bank row : Nat) : Nat :=
  field * 2 ^ 32 + bank / 128 * 268435456 + (row * 128 + bank % 128) * 64

end Sys2Proof.Machine
end

