-- ==== Sys2Proof/Machine/Effect.lean ====
section
/-! DEFINITION. What a command can do to the machine: the primitive updates of its parts, and effects composed of them.
`Closed P` says that every primitive update keeps P; an effect carries the proof that it then keeps P, so that whatever
holds through the primitives holds through every command (GOOD_PV_LEAN section 2: data carries its own form). -/
namespace Sys2Proof.Machine

/-! ## Primitive updates -/

def State.setNow (n : Nat) (s : State) : State := { s with now := max s.now n }
def State.bumpFree (s : State) : State := { s with freeCtr := s.freeCtr + 1 }
def State.emit (o : Out) (s : State) : State := { s with out := s.out ++ [o] }
def State.modHub (f : Hub → Hub) (s : State) : State := { s with hub := f s.hub }
def State.modPort (f : Port → Port) (s : State) : State := { s with port := f s.port }
def State.modPower (f : Power → Power) (s : State) : State := { s with power := f s.power }
def State.modSideband (f : Sideband → Sideband) (s : State) : State := { s with sideband := f s.sideband }
def State.modCtx (i : Nat) (f : Ctx → Ctx) (s : State) : State := { s with ctxs := s.ctxs.modify i f }
def State.modField (i : Nat) (f : Field → Field) (s : State) : State := { s with fields := s.fields.modify i f }
def State.modStack (i : Nat) (f : Stack → Stack) (s : State) : State := { s with hbmStacks := s.hbmStacks.modify i f }
def State.modLink (i : Nat) (f : Link → Link) (s : State) : State := { s with links := s.links.modify i f }
def State.modRing (i : Nat) (f : Ring → Ring) (s : State) : State := { s with rings := s.rings.modify i f }
def State.modEvc (f : List (Nat × EvcSrc) → List (Nat × EvcSrc)) (s : State) : State := { s with evc := f s.evc }
def State.modDitch (f : Ditch → Ditch) (s : State) : State := { s with ditch := f s.ditch }
def State.memWrite (k : Nat) (bs : List Byte) (s : State) : State := { s with mem := s.mem.write k bs }
def State.memPoison (lo hi : Nat) (s : State) : State := { s with mem := s.mem.poison lo hi }
/-- A correcting read leaves its word waiting for a write-back (R350). -/
def State.memAwait (w : Nat) (s : State) : State := { s with mem := { s.mem with writeBack := insertNat s.mem.writeBack w } }
/-- The write-back of a corrected word (R350). -/
def State.memScrub (w : Nat) (s : State) : State :=
  { s with mem := { s.mem.scrubWord w with writeBack := s.mem.writeBack.filter (fun v => v != w) } }
/-- Upsets flip bits of both memories (R348). -/
def State.memUpset (l : List (Nat × BitVec 72)) (s : State) : State := { s with mem := s.mem.upset l }

/-- P is kept by every primitive update. -/
structure Closed (P : State → Prop) : Prop where
  setNow : ∀ n s, P s → P (s.setNow n)
  bumpFree : ∀ s, P s → P s.bumpFree
  emit : ∀ o s, P s → P (s.emit o)
  modHub : ∀ f s, P s → P (s.modHub f)
  modPort : ∀ f s, P s → P (s.modPort f)
  modPower : ∀ f s, P s → P (s.modPower f)
  modSideband : ∀ f s, P s → P (s.modSideband f)
  modCtx : ∀ i f s, P s → P (s.modCtx i f)
  modField : ∀ i f s, P s → P (s.modField i f)
  modStack : ∀ i f s, P s → P (s.modStack i f)
  modLink : ∀ i f s, P s → P (s.modLink i f)
  modRing : ∀ i f s, P s → P (s.modRing i f)
  modEvc : ∀ f s, P s → P (s.modEvc f)
  modDitch : ∀ f s, P s → P (s.modDitch f)
  memWrite : ∀ k bs s, P s → P (s.memWrite k bs)
  memPoison : ∀ lo hi s, P s → P (s.memPoison lo hi)
  memAwait : ∀ w s, P s → P (s.memAwait w)
  memScrub : ∀ w s, P s → P (s.memScrub w)
  memUpset : ∀ l s, P s → P (s.memUpset l)

/-- An effect on the machine: a state transformer made of primitive updates. -/
structure Fx where
  run : State → State
  keeps : ∀ P, Closed P → ∀ s, P s → P (run s)

/-! ## Composition -/

/-- Nothing happens. -/
def Fx.skip : Fx := ⟨fun s => s, fun _ _ _ h => h⟩

/-- One effect, then another. -/
def Fx.andThen (a b : Fx) : Fx := ⟨fun s => b.run (a.run s), fun P c s h => b.keeps P c _ (a.keeps P c s h)⟩

/-- An effect that depends on the state it starts in. -/
def Fx.look (f : State → Fx) : Fx := ⟨fun s => (f s).run s, fun P c s h => (f s).keeps P c s h⟩

/-- Effects one after another. -/
def Fx.all : List Fx → Fx
  | [] => Fx.skip
  | a :: l => a.andThen (Fx.all l)

/-- An effect for each element, in order. -/
def Fx.each {α : Type} (l : List α) (f : α → Fx) : Fx := Fx.all (l.map f)

/-- An effect under a condition. -/
def Fx.when (c : Bool) (a : Fx) : Fx := if c then a else Fx.skip

/-! ## Primitive effects -/

def Fx.setNow (n : Nat) : Fx := ⟨State.setNow n, fun _ c s h => c.setNow n s h⟩
def Fx.bumpFree : Fx := ⟨State.bumpFree, fun _ c s h => c.bumpFree s h⟩
def Fx.emit (o : Out) : Fx := ⟨State.emit o, fun _ c s h => c.emit o s h⟩
def Fx.hub (f : Hub → Hub) : Fx := ⟨State.modHub f, fun _ c s h => c.modHub f s h⟩
def Fx.port (f : Port → Port) : Fx := ⟨State.modPort f, fun _ c s h => c.modPort f s h⟩
def Fx.power (f : Power → Power) : Fx := ⟨State.modPower f, fun _ c s h => c.modPower f s h⟩
def Fx.sideband (f : Sideband → Sideband) : Fx := ⟨State.modSideband f, fun _ c s h => c.modSideband f s h⟩
def Fx.ctx (i : Nat) (f : Ctx → Ctx) : Fx := ⟨State.modCtx i f, fun _ c s h => c.modCtx i f s h⟩
def Fx.field (i : Nat) (f : Field → Field) : Fx := ⟨State.modField i f, fun _ c s h => c.modField i f s h⟩
def Fx.stack (i : Nat) (f : Stack → Stack) : Fx := ⟨State.modStack i f, fun _ c s h => c.modStack i f s h⟩
def Fx.link (i : Nat) (f : Link → Link) : Fx := ⟨State.modLink i f, fun _ c s h => c.modLink i f s h⟩
def Fx.ring (i : Nat) (f : Ring → Ring) : Fx := ⟨State.modRing i f, fun _ c s h => c.modRing i f s h⟩
def Fx.evc (f : List (Nat × EvcSrc) → List (Nat × EvcSrc)) : Fx := ⟨State.modEvc f, fun _ c s h => c.modEvc f s h⟩
def Fx.ditch (f : Ditch → Ditch) : Fx := ⟨State.modDitch f, fun _ c s h => c.modDitch f s h⟩
def Fx.memWrite (k : Nat) (bs : List Byte) : Fx := ⟨State.memWrite k bs, fun _ c s h => c.memWrite k bs s h⟩
def Fx.memPoison (lo hi : Nat) : Fx := ⟨State.memPoison lo hi, fun _ c s h => c.memPoison lo hi s h⟩
def Fx.memAwait (w : Nat) : Fx := ⟨State.memAwait w, fun _ c s h => c.memAwait w s h⟩
def Fx.memScrub (w : Nat) : Fx := ⟨State.memScrub w, fun _ c s h => c.memScrub w s h⟩
def Fx.memUpset (l : List (Nat × BitVec 72)) : Fx := ⟨State.memUpset l, fun _ c s h => c.memUpset l s h⟩

/-- The outcome of an effect: a next state. -/
def Fx.outcome (a : Fx) (s : State) : Host.Outcome State Fault Refusal := .next (a.run s)

/-! ## Reading parts of the state -/

def State.ctx (s : State) (i : Nat) : Ctx := s.ctxs.getD i Ctx.reset
def State.field (s : State) (i : Nat) : Field := s.fields.getD i Field.reset
def State.stack (s : State) (i : Nat) : Stack := s.hbmStacks.getD i Stack.reset
def State.link (s : State) (i : Nat) : Link := s.links.getD i Link.reset
def State.ring (s : State) (i : Nat) : Ring := s.rings.getD i Ring.reset
/-- The 48-bit local counter (R477, 14). -/
def State.cycle (s : State) : BitVec 48 := BitVec.ofNat 48 s.now

end Sys2Proof.Machine
end

