-- ==== Sys2Proof/Machine/Ditch.lean ====
section
/-! DEFINITION. The ditch (12 R417 to R419; 00 R8): its mesh of fields and hub bridges, routes, multicast trees, and the credit
books of its bridges. -/
namespace Sys2Proof.Machine

/-- The ends of ditch traffic. -/
inductive DitchEnd where
  | field (f : Nat)
  | hub
  deriving DecidableEq, Repr

/-- The class of array data on the ditch, beside the four virtual lanes (R417). -/
def arrayClass : Nat := 4

/-- The bridges between two columns of a row, in the order in which a route crosses them. -/
def rowHops (cls row c d : Nat) : List BridgeLane :=
  if c ≤ d then (List.range (d - c)).map (fun i => ⟨.row (4 * row + c + i), cls, true⟩)
  else (List.range (c - d)).map (fun i => ⟨.row (4 * row + c - 1 - i), cls, false⟩)

/-- The bridge between the rows in column `c`, as a route from row `a` to row `b` crosses it. -/
def columnHop (cls c a b : Nat) : List BridgeLane := if a = b then [] else [⟨.column c, cls, decide (a < b)⟩]

/-- The fields of a row from one column to another, both included. -/
def rowFields (row c d : Nat) : List Nat := (List.range (max c d - min c d + 1)).map (fun i => 4 * row + min c d + i)

/-- The route between two fields: along the row to the destination's column, then across the rows (R8, R418); where it crosses a field out
of service, across the rows first and then along the row (R487); none where that crosses one too. -/
def fieldRoute (live : Nat → Bool) (cls a b : Nat) : Option (List BridgeLane) :=
  if (b :: rowFields (a / 4) (a % 4) (b % 4)).all live then
    some (rowHops cls (a / 4) (a % 4) (b % 4) ++ columnHop cls (b % 4) (a / 4) (b / 4))
  else if (a :: rowFields (b / 4) (a % 4) (b % 4)).all live then
    some (columnHop cls (a % 4) (a / 4) (b / 4) ++ rowHops cls (b / 4) (a % 4) (b % 4))
  else none

/-- Bridges between two fields (R418). -/
def hops (a b : Nat) : Nat := (max (a % 4) (b % 4) - min (a % 4) (b % 4)) + (if a / 4 = b / 4 then 0 else 1)

/-- The field whose hub bridge is nearest to a field (R418), among those in service (R487): fields 1, 2, 5 and 6 have one (R417).
DESIGN CHOICE (log 105): of two that are as near, the lower number. -/
def hubField (live : Nat → Bool) (f : Nat) : Option Nat :=
  (List.range 5).findSome? (fun n => [1, 2, 5, 6].find? (fun h => live h && hops f h == n && (fieldRoute live 0 f h).isSome))

/-- The bridges that traffic crosses (R418, R487). -/
def ditchRoute (live : Nat → Bool) (cls : Nat) : DitchEnd → DitchEnd → Option (List BridgeLane)
  | .field a, .field b => fieldRoute live cls a b
  | .field a, .hub => (hubField live a).bind (fun h => (fieldRoute live cls a h).map (fun l => l ++ [⟨.hub h, cls, true⟩]))
  | .hub, .field b => (hubField live b).bind (fun h => (fieldRoute live cls h b).map (fun l => ⟨.hub h, cls, false⟩ :: l))
  | .hub, .hub => some []

/-- The tree of a multicast: the union of the routes, each bridge crossed at most once in each direction (R135, R418). -/
def multicast (live : Nat → Bool) (cls : Nat) (src : DitchEnd) (dsts : List DitchEnd) : List BridgeLane :=
  ((dsts.map (fun d => (ditchRoute live cls src d).getD [])).flatten).eraseDups

/-- A field whose memory serves no access and whose bridges are clamped: it is fenced, resetting or failed, its stacks in self-refresh
(R378, R419, R483 to R485). -/
def State.shut (s : State) (f : Nat) : Bool := [2, 3, 4].contains (s.field f).state

/-- A field takes traffic of the ditch (R487). -/
def State.ditchLive (s : State) (f : Nat) : Bool := decide (f < Grade.fields s.grade) && !s.shut f

/-- Every end of a transfer has a route; one that has none ends with `NO_RESOURCE` (R487). -/
def State.crosses (s : State) (cls : Nat) (src : DitchEnd) (dsts : List DitchEnd) : Bool :=
  dsts.all (fun d => (ditchRoute s.ditchLive cls src d).isSome)

/-! ## Credit books (R417, R423) -/

/-- Credit units of a partial: N_p words with their tag bytes and residues (R628), in 64-byte units (R406). -/
def Partial.units (p : Partial) : Nat := (18 * p.cols + 63) / 64

/-- Units lent on one bridge, class and direction. -/
def lend (n : Nat) (k : BridgeLane) : List (BridgeLane × Nat) → List (BridgeLane × Nat)
  | [] => [(k, n)]
  | e :: l => if e.1 = k then (k, e.2 + n) :: l else e :: lend n k l

/-- Units given back on one bridge, class and direction; a book without units out is not listed. -/
def giveBack (n : Nat) (k : BridgeLane) (l : List (BridgeLane × Nat)) : List (BridgeLane × Nat) :=
  (l.map (fun e => if e.1 = k then (k, e.2 - n) else e)).filter (fun e => decide (0 < e.2))

/-- A partial enters the ditch: its units are lent on every bridge of its route. DESIGN CHOICE (log 105): the manual gives the
bridges' books no size, and the model's always have the units. -/
def Ditch.send (p : Partial) (d : Ditch) : Ditch :=
  { partials := d.partials ++ [p], lent := p.route.foldl (fun l k => lend p.units k l) d.lent }

/-- A partial leaves the ditch, and its units return. -/
def Ditch.take (p : Partial) (d : Ditch) : Ditch :=
  if d.partials.contains p then
    { partials := d.partials.erase p, lent := p.route.foldl (fun l k => giveBack p.units k l) d.lent }
  else d

/-- Discard partials, and return their units (R419). -/
def Ditch.drop (cond : Partial → Bool) (d : Ditch) : Ditch := (d.partials.filter cond).foldl (fun d p => d.take p) d

end Sys2Proof.Machine
end

