-- ==== Sys2Proof/Machine/Flags.lean ====
section
/-! DEFINITION. Status words computed from the state: step flags (08 R254), the throttle levels of a field (19 R596), and the
causes of MOD_SERVICE (15 R499). -/
namespace Sys2Proof.Machine

/-! ## Step flags (R254) -/

/-- Bits of the step-flags word. -/
def flNan : Nat := 0x01
def flInf : Nat := 0x02
def flOvf : Nat := 0x04
def flPoison : Nat := 0x08
def flSat : Nat := 0x10
def flResidue : Nat := 0x20
def flEscalation : Nat := 0x40

/-- A record's guard holds on a context's step flags (R255). -/
def Ctx.guardHolds (x : Ctx) (guard : Nat) : Bool := x.flags.toNat &&& guard != 0

/-! ## Throttle levels (R595, R596) -/

/-- The greatest power cap of a grade: its maximum input power (R5, R595). -/
def Grade.capMax : Grade → Nat
  | .nx4h64 => 3700
  | _ => 7200

/-- The level in force on a field: 0 for 1.05 GHz to 3 for 0.525 GHz, 4 for 0.525 GHz with the stall. -/
def State.level (s : State) (f : Nat) : Nat :=
  let g := s.field f
  if s.power.minPower then 4 else max (max g.hostStep g.capLevel) (max g.dieLevel g.hbmLevel)

/-- The clock step of a level in MHz, as THROTTLE reports it (R597). -/
def levelMhz (l : Nat) : Nat := [1050, 840, 700, 525, 262].getD l 262

/-- Fields in service (R499: states 0 and 1). -/
def State.serving (s : State) : List Nat := (List.range (Grade.fields s.grade)).filter (fun f => (s.field f).state ≤ 1)

/-! ## MOD_SERVICE (R499) -/

/-- Links of the module. -/
def State.linkIds (s : State) : List Nat := List.range (Grade.links s.grade)

/-- N of a rail (R589). -/
def railN (r : Nat) : Nat := if r < 8 then 18 else if r = 8 then 8 else 4

/-- A stack has a third failing pseudo-channel (R375, R373): both retirements used and another at 16 errors. -/
def Stack.spent (k : Stack) : Bool :=
  k.retiredA.isSome && k.retiredB.isSome && k.pcUncorrected.any (fun e => decide (16 ≤ e.2)
    && k.retiredA != some (BitVec.ofNat 6 e.1) && k.retiredB != some (BitVec.ofNat 6 e.1))

/-- Spares of a bed, group or sequencer of a field are exhausted. -/
def Field.spent (f : Field) : Bool :=
  f.beds.any (fun b => b.2.unrepairable) || f.groups.any (fun b => b.2.unrepairable) || decide (f.seqUse.length < 4)

/-- The causes in force (R499). DEDUCED (log 125): cause 16 needs a feed that serves; with none the module is without power (R587). -/
def State.causes (s : State) : List Nat :=
  let present := List.range (Grade.fields s.grade)
  let on := fun (c : Nat) (b : Bool) => if b then [c] else []
  on 1 (present.any (fun f => (s.field f).state = 4))
    ++ on 2 (present.any (fun f => (s.field f).spent))
    ++ on 3 ((List.range (Grade.hbmStacks s.grade)).any (fun k => (s.stack k).spent))
    ++ on 4 ((List.range 10).any (fun r => s.power.phases.getD r 0 < railN r))
    ++ on 5 (s.hub.cores < 4)
    ++ on 16 (s.power.serving.isSome && s.power.feeds.any (fun f => f.state = 0 || f.state = 3 || f.state = 4))
    ++ on 17 (s.power.minCauses.any (fun c => decide (c ≤ 5)))
    ++ on 18 (!s.power.external)
    ++ on 19 (s.linkIds.any (fun i => (s.link i).state = 3 && ((s.link i).cause = 1 || (s.link i).cause = 2)))

/-- MOD_SERVICE. -/
def State.service (s : State) : Nat :=
  let present := List.range (Grade.fields s.grade)
  let cause := s.causes.headD 0
  (s.serving.map (fun f => 2 ^ f)).sum
    + 256 * b2n (present.any (fun f => (s.field f).state = 4))
    + 512 * (if cause = 0 then 0 else if cause < 16 then 1 else 2) + 2048 * cause

/-- The module has lost its smallest working set: it reports on the sideband only (R500). -/
def State.outcast (s : State) : Bool := s.power.minCauses.contains 10

/-! ## SB_STATUS and in-band interrupts (R615, R622) -/

/-- The 512 bytes of the FRU data (R617). -/
def Sideband.fruBytes (b : Sideband) : List Byte := (List.range 512).map (fun i => tableGet b.fru i 0#8)

/-- SB_STATUS (R622). -/
def Sideband.word (b : Sideband) : Nat :=
  b.busA + 4 * b.busB + 16 * b2n b.resetStuck + 32 * b.resetIgnored + 2 ^ 13 * b2n b.auxOnly + 2 ^ 14 * b2n b.thermtrip

/-- An effect, then an in-band interrupt on each working bus when MOD_SERVICE or SB_STATUS has changed (R615). -/
def withInBand (e : Fx) : Fx :=
  Fx.look fun s => e.andThen (Fx.look fun t =>
    Fx.when (s.service != t.service || s.sideband.word != t.sideband.word)
      ((Fx.when (t.sideband.busA = 0) (Fx.emit (.inBand 0))).andThen (Fx.when (t.sideband.busB = 0) (Fx.emit (.inBand 1)))))

end Sys2Proof.Machine
end

