-- ==== Sys2Proof/Machine/Formats.lean ====
section
/-! DEFINITION. Number formats (02): format codes, element encodings as exact values, S40, and the rounding of exact
values into stored elements with block scales (06 R169 to R174). Exact values are rationals; every conversion but the one
rounding is exact. -/
namespace Sys2Proof.Machine

/-! ## Exact values -/

/-- An exact value of an element (R38, R41). -/
inductive Val where
  | fin (q : Rat)
  | pinf | ninf | nan
  deriving DecidableEq, Repr

/-- 2^e. -/
def pow2 (e : Int) : Rat := if e ≥ 0 then ((2 ^ e.toNat : Nat) : Rat) else 1 / ((2 ^ (-e).toNat : Nat) : Rat)

/-- |q|. -/
def ratAbs (q : Rat) : Rat := if q < 0 then -q else q

/-- ⌊log2 q⌋ for q > 0. -/
def floorLog2 (q : Rat) : Int :=
  let e : Int := (Nat.log2 q.num.toNat : Int) - (Nat.log2 q.den : Int)
  if pow2 e ≤ q then (if pow2 (e + 1) ≤ q then e + 1 else e) else e - 1

/-- The integer nearest to q, ties to even (R73). -/
def rneInt (q : Rat) : Int :=
  let f := q.floor
  let d := q - (f : Rat)
  if d < 1 / 2 then f else if d > 1 / 2 then f + 1 else if f % 2 = 0 then f else f + 1

/-! ## Format codes (R34) -/

/-- A format's element class. -/
inductive Kind where
  /-- float: exponent bits, fraction bits, bias, has infinities, has NaN encodings -/
  | float (e m : Nat) (bias : Int) (inf nan : Bool)
  /-- two's complement integer -/
  | int (w : Nat)
  /-- MXINT8 -/
  | mxint
  | l128
  | s40
  deriving DecidableEq, Repr

/-- The kind of a 6-bit format code; none for a code outside R34 (R35). -/
def formatKind (code : Nat) : Option Kind :=
  match code with
  | 0x00 => some (.float 8 23 127 true true)
  | 0x01 => some (.float 8 7 127 true true)
  | 0x02 => some (.float 5 10 15 true true)
  | 0x04 | 0x24 => some (.float 4 3 7 false true)
  | 0x05 | 0x25 => some (.float 5 2 15 true true)
  | 0x06 | 0x26 => some (.float 3 2 3 false false)
  | 0x07 | 0x27 => some (.float 2 3 1 false false)
  | 0x08 | 0x28 => some (.float 2 1 1 false false)
  | 0x10 => some (.int 8)
  | 0x11 => some (.int 4)
  | 0x12 => some (.int 32)
  | 0x18 => some .l128
  | 0x19 => some .s40
  | 0x30 => some .mxint
  | _ => none

/-- Bit 5 marks a block-scaled format (R34). -/
def blockScaled (code : Nat) : Bool := bitOf code 5

/-- Element width in bits as stored (R34). -/
def elemBits (code : Nat) : Nat :=
  match formatKind code with
  | some (.float e m _ _ _) => 1 + e + m
  | some (.int w) => w
  | some .mxint => 8
  | some .l128 => 144
  | some .s40 => 24
  | none => 0

/-- Payload bytes of a tile (R202). -/
def payloadBytes (code : Nat) : Nat := 128 * elemBits code

/-- Slot bytes of a tile (R202). -/
def slotBytes (code : Nat) : Nat := 64 + payloadBytes code

/-- Elements in whole bytes (R48), or in bit planes of 128 bytes (R49). -/
def bitPlaned (code : Nat) : Bool := elemBits code = 4 || elemBits code = 6 || elemBits code = 24

/-- Array operands (R34). -/
def arrayOperand (code : Nat) : Bool :=
  match formatKind code with
  | some (.float _ _ _ _ _) => true
  | some (.int w) => w ≠ 32
  | some .mxint => true
  | _ => false

/-- INT8 and INT4, which pair only with each other (R47). -/
def plainInt (code : Nat) : Bool := code = 0x10 || code = 0x11

/-- Width class of an operand (R61). -/
def widthClass (code : Nat) : Nat :=
  match elemBits code with
  | 32 => 32
  | 16 => 16
  | 4 => 4
  | _ => 8

/-- K per pass of a width class (R61). -/
def kPerPass (cls : Nat) : Nat := 16384 / cls

/-- Active array rows of `kp` elements of K (R107). -/
def activeRows (cls kp : Nat) : Nat :=
  match cls with
  | 32 => 2 * kp
  | 16 => kp
  | 8 => ceilDiv kp 2
  | _ => ceilDiv kp 4

/-! ## Decoding elements -/

/-- A float element's exact value (R38, R41). -/
def decodeFloat (e m : Nat) (bias : Int) (inf nan : Bool) (bits : Nat) : Val :=
  let s := bitOf bits (e + m)
  let ex := bitsOf bits m e
  let fr := bitsOf bits 0 m
  let ones := decide (ex = 2 ^ e - 1)
  if nan && inf && ones then (if fr ≠ 0 then .nan else if s then .ninf else .pinf)
  else if nan && !inf && ones && decide (fr = 2 ^ m - 1) then .nan
  else
    let v : Rat := if ex = 0 then pow2 (1 - bias - m) * fr else pow2 ((ex : Int) - bias - m) * ((2 ^ m + fr : Nat) : Rat)
    .fin (if s then -v else v)

/-- An element's value before its block scale (R38, R44, R53). -/
def decodeElem (code bits : Nat) : Val :=
  match formatKind code with
  | some (.float e m b i n) => decodeFloat e m b i n bits
  | some (.int w) => .fin (signedOf w bits : Int)
  | some .mxint => .fin ((signedOf 8 bits : Int) * pow2 (-6))
  | _ => .fin 0

/-- A value times a block scale byte (R50, R53); scale 0xFF makes it NaN. -/
def scaleVal (scale : Nat) (v : Val) : Val :=
  if scale = 0xFF then .nan
  else match v with
    | .fin q => .fin (q * pow2 ((scale : Int) - 127))
    | v => v

/-- An element with its block's scale byte: a scale of 0xFF marks the block of a format without NaN as NaN (R42), and a
block-scaled format carries its scale (R53). -/
def elemVal (code scale bits : Nat) : Val := scaleVal scale (decodeElem code bits)

/-- FP32 bits of NaN, +∞, −∞ (R41). -/
def fp32Nan : Nat := 0x7FC00000
def fp32Inf : Nat := 0x7F800000
def fp32NegInf : Nat := 0xFF800000

/-! ## Encoding and rounding -/

/-- The rounding modes of R169. -/
inductive Rounding where
  | rne | rtz | rup | rdn | sr
  deriving DecidableEq, Repr

/-- The mode of a rounding field (R169). -/
def roundingOf (code : Nat) : Rounding :=
  match code with
  | 0 => .rne | 1 => .rtz | 2 => .rup | 3 => .rdn | _ => .sr

/-- |v| in quanta of 2^qe, rounded to an integer under the mode; `neg` is v's sign, `u` the 16 random bits of R179. -/
def roundMag (mode : Rounding) (neg : Bool) (u : Nat) (q : Rat) (qe : Int) : Nat :=
  let x := q / pow2 qe
  let t := x.floor.toNat
  let r := x - ((t : Nat) : Rat)
  let up : Bool :=
    match mode with
    | .rne => decide (r > 1 / 2) || (decide (r = 1 / 2) && t % 2 = 1)
    | .rtz => false
    | .rup => decide (r ≠ 0) && !neg
    | .rdn => decide (r ≠ 0) && neg
    | .sr => decide (65536 ≤ (r * 65536).floor.toNat + u)
  if up then t + 1 else t

/-- The exponent of a float format's quantum at |v| = q > 0 (preamble of R169). -/
def quantumExp (m : Nat) (bias : Int) (q : Rat) : Int := max (floorLog2 q) (1 - bias) - m

/-- The largest finite magnitude of a float format (R37). -/
def maxFinite (e m : Nat) (bias : Int) (inf nan : Bool) : Rat :=
  let top := if nan && inf then 2 ^ e - 2 else 2 ^ e - 1
  let fr := if nan && !inf then 2 ^ m - 2 else 2 ^ m - 1
  pow2 ((top : Int) - bias - m) * ((2 ^ m + fr : Nat) : Rat)

/-- The encoding of a representable magnitude with a sign; zero is +0 (R40). -/
def encodeMag (e m : Nat) (bias : Int) (neg : Bool) (q : Rat) : Nat :=
  if q = 0 then 0
  else
    let sign := if neg then 2 ^ (e + m) else 0
    if q < pow2 (1 - bias) then sign + (q / pow2 (1 - bias - m)).floor.toNat
    else
      let x := floorLog2 q
      sign + (x + bias).toNat * 2 ^ m + ((q / pow2 (x - m)).floor.toNat - 2 ^ m)

/-- How a float rounding overflowed (R170). -/
inductive Over where
  | no | away | toward
  deriving DecidableEq, Repr

/-- A rounded float: its magnitude, its sign, and whether and how it overflowed. -/
def roundFloat (e m : Nat) (bias : Int) (inf nan : Bool) (mode : Rounding) (u : Nat) (v : Rat) : Rat × Bool × Over :=
  let neg := decide (v < 0)
  let q := ratAbs v
  if q = 0 then (0, false, .no)
  else
    let qe := quantumExp m bias q
    let r := ((roundMag mode neg u q qe : Nat) : Rat) * pow2 qe
    if r > maxFinite e m bias inf nan then
      let away := match mode with
        | .rne | .sr => true
        | .rtz => false
        | .rup => !neg
        | .rdn => neg
      (r, neg, if away then .away else .toward)
    else (r, neg, .no)

/-- FP32 of a rational under RNE, with signed zero `neg` for a zero (R302). -/
def fp32Of (neg : Bool) (v : Rat) : Nat :=
  let (r, n, o) := roundFloat 8 23 127 true true .rne 0 v
  let n := if v = 0 then neg else n
  if o ≠ .no then (if n then fp32NegInf else fp32Inf)
  else if r = 0 then (if n then 2 ^ 31 else 0)
  else encodeMag 8 23 127 n r

/-- rne32 as an exact value: the FP32 nearest to v (R282, R292); an overflow is an infinity. -/
def rne32 (v : Rat) : Val := decodeFloat 8 23 127 true true (fp32Of false v)

/-- FP32 of a magnitude rounded toward +∞ (R190, R344); beyond the range 0x7F80_0000. -/
def fp32Up (v : Rat) : Nat :=
  let (r, n, o) := roundFloat 8 23 127 true true .rup 0 v
  if o ≠ .no then (if n then 0xFF7FFFFF else fp32Inf) else encodeMag 8 23 127 n r

/-- An FP32 bit pattern's value. -/
def fp32Val (bits : Nat) : Val := decodeFloat 8 23 127 true true bits

/-- The FP32 bits of a value: canonical NaN, infinities, or RNE (R300). -/
def fp32OfVal (v : Val) : Nat :=
  match v with
  | .fin q => fp32Of false q
  | .pinf => fp32Inf
  | .ninf => fp32NegInf
  | .nan => fp32Nan

/-! ## Words before rounding and stored elements -/

/-- What a resolved word or a value is just before rounding (R81, R172). -/
inductive Pre where
  | fin (q : Rat)
  | pinf | ninf | nan | ovfp | ovfn | ovfx
  deriving DecidableEq, Repr

/-- A value as such. -/
def Val.pre : Val → Pre
  | .fin q => .fin q
  | .pinf => .pinf
  | .ninf => .ninf
  | .nan => .nan

/-- How a record rounds (R247): mode, overflow policy `inf`, integer wrap, flush to zero. -/
structure RoundCfg where
  mode : Rounding
  ovfInf : Bool
  wrap : Bool
  ftz : Bool
  deriving DecidableEq, Repr

/-- What became of one element (R190, R170, R45): element bits (none: its block becomes a NaN block, R42), its value as
written, counts, whether the tile's sat flag is set (R46, R170), and whether the `saturated` step flag is (R321). -/
structure Elem where
  bits : Option Nat
  val : Val
  overflowed : Bool
  saturated : Bool
  flushed : Bool
  subnormal : Bool
  nan : Bool
  inf : Bool
  sat : Bool
  satFlag : Bool
  deriving DecidableEq, Repr

/-- An element written plainly. -/
def Elem.plain (bits : Nat) (v : Val) : Elem :=
  { bits := some bits, val := v, overflowed := false, saturated := false, flushed := false, subnormal := false, nan := false
    inf := false, sat := false, satFlag := false }

/-- The canonical NaN of a float format (R41). -/
def nanBits (e m : Nat) (inf : Bool) : Nat :=
  if inf then (2 ^ e - 1) * 2 ^ m + 2 ^ (m - 1) else 2 ^ (e + m) - 1

/-- A NaN in a float format: the encoding, or a NaN block (R41, R42). -/
def nanElem (e m : Nat) (inf nan : Bool) : Elem :=
  { Elem.plain 0 .nan with bits := if nan then some (nanBits e m inf) else none, nan := true }

/-- The largest finite value with a sign (R170 satfinite). -/
def maxElem (e m : Nat) (bias : Int) (inf nan : Bool) (neg : Bool) : Elem :=
  let q := maxFinite e m bias inf nan
  { Elem.plain (encodeMag e m bias neg q) (.fin (if neg then -q else q)) with saturated := true, sat := true, satFlag := true }

/-- An infinity in a float format: the encoding, or R43. DEDUCED (log 84): an infinity written as a largest finite value
sets the header's bit 3 and no `saturated` step flag, which R321 ties to R45 and R170. -/
def infElem (e m : Nat) (bias : Int) (inf nan : Bool) (cfg : RoundCfg) (neg : Bool) : Elem :=
  if inf then
    { Elem.plain ((if neg then 2 ^ (e + m) else 0) + (2 ^ e - 1) * 2 ^ m) (if neg then .ninf else .pinf) with inf := true }
  else if cfg.ovfInf then nanElem e m inf nan
  else { maxElem e m bias inf nan neg with satFlag := false }

/-- An overflow away from zero in a float format (R170). -/
def overElem (e m : Nat) (bias : Int) (inf nan : Bool) (cfg : RoundCfg) (neg : Bool) : Elem :=
  if cfg.ovfInf then { infElem e m bias inf nan cfg neg with overflowed := true } else maxElem e m bias inf nan neg

/-- One element into a float format, after division by its block scale (R169 to R172). DEDUCED (log 85): every FP32 output
is flushed but the words that `exportRound` names. -/
def floatElem (e m : Nat) (bias : Int) (inf nan : Bool) (cfg : RoundCfg) (u : Nat) (p : Pre) : Elem :=
  match p with
  | .nan | .ovfx => nanElem e m inf nan
  | .pinf => infElem e m bias inf nan cfg false
  | .ninf => infElem e m bias inf nan cfg true
  | .ovfp => overElem e m bias inf nan cfg false
  | .ovfn => overElem e m bias inf nan cfg true
  | .fin v =>
    let (r, neg, o) := roundFloat e m bias inf nan cfg.mode u v
    match o with
    | .away => overElem e m bias inf nan cfg neg
    | .toward => maxElem e m bias inf nan neg
    | .no =>
      let tiny := decide (r < pow2 (1 - bias))
      if r = 0 || (cfg.ftz && tiny) then { Elem.plain 0 (.fin 0) with flushed := decide (v ≠ 0) }
      else { Elem.plain (encodeMag e m bias neg r) (.fin (if neg then -r else r)) with subnormal := tiny }

/-- The integer a value rounds to (R45, R169). -/
def roundToInt (mode : Rounding) (u : Nat) (v : Rat) : Int :=
  let n : Int := roundMag mode (decide (v < 0)) u (ratAbs v) 0
  if v < 0 then -n else n

/-- One element into INT4, INT8 or INT32 (R45, R46, R85). DEDUCED (log 84): an OVFP or OVFN tag sets the `saturated` step
flag under the policy `satfinite` alone (R172); header bit 3 and the count stand under either (R46). -/
def intElem (w : Nat) (cfg : RoundCfg) (u : Nat) (p : Pre) : Elem :=
  let top : Int := 2 ^ (w - 1) - 1
  let bot : Int := -(2 ^ (w - 1))
  let put := fun (i : Int) => Elem.plain (lowBits w i) (.fin (i : Rat))
  match p with
  | .nan | .ovfx => { put 0 with nan := true }
  | .pinf => { put top with inf := true }
  | .ninf => { put bot with inf := true }
  | .ovfp => { put top with saturated := true, sat := true, satFlag := !cfg.ovfInf }
  | .ovfn => { put bot with saturated := true, sat := true, satFlag := !cfg.ovfInf }
  | .fin v =>
    let i := roundToInt cfg.mode u v
    if bot ≤ i && i ≤ top then { put i with flushed := decide (v ≠ 0) && decide (i = 0) }
    else if cfg.wrap then put (signedOf w (lowBits w i))
    else { put (if i < bot then bot else top) with saturated := true, sat := true, satFlag := true }

/-- The FP32 output of accumulator words: a matrix operation's, an exact sum's or a collective's (R171). DEDUCED (log 85):
these are the FP32 accumulation exports, on which flush-to-zero has no effect. -/
def exportRound (code : Nat) (cfg : RoundCfg) : RoundCfg := if code = 0x00 then { cfg with ftz := false } else cfg

/-- One element into MXINT8, after division by its block scale (R625). DESIGN CHOICE (log 86): flush-to-zero has no effect
on a format without a smallest normal value (R171 names none). DEDUCED (log 84): as `infElem`, an infinity sets no
`saturated` step flag. DEDUCED (log 126): a value overflows where it lies outside the range once it is rounded, as in R170. -/
def mxintElem (cfg : RoundCfg) (u : Nat) (p : Pre) : Elem :=
  let put := fun (i : Int) => Elem.plain (lowBits 8 i) (.fin ((i : Rat) * pow2 (-6)))
  let big := fun (neg : Bool) => { put (if neg then -128 else 127) with saturated := true, sat := true, satFlag := true }
  let nanBlock : Elem := { Elem.plain 0 .nan with bits := none, nan := true }
  let overs := fun (neg : Bool) => if cfg.ovfInf then { nanBlock with overflowed := true } else big neg
  match p with
  | .nan | .ovfx => nanBlock
  | .pinf => if cfg.ovfInf then nanBlock else { big false with satFlag := false }
  | .ninf => if cfg.ovfInf then nanBlock else { big true with satFlag := false }
  | .ovfp => overs false
  | .ovfn => overs true
  | .fin v =>
    let i := roundToInt cfg.mode u (v * 64)
    let neg := decide (v < 0)
    if -128 ≤ i && i ≤ 127 then { put i with flushed := decide (v ≠ 0) && decide (i = 0) }
    else match cfg.mode with
      | .rne | .sr => overs neg
      | .rtz => big neg
      | .rup => if neg then big neg else overs neg
      | .rdn => if neg then overs neg else big neg

/-- One element into a stored format other than L128 and S40. -/
def storeElem (code : Nat) (cfg : RoundCfg) (u : Nat) (p : Pre) : Elem :=
  match formatKind code with
  | some (.float e m b i n) => floatElem e m b i n cfg u p
  | some (.int w) => intElem w cfg u p
  | some .mxint => mxintElem cfg u p
  | _ => Elem.plain 0 (.fin 0)

/-- e_max and F_max of a block-scaled element format (R173). -/
def scaleLimits (code : Nat) : Int × Rat :=
  match code with
  | 0x24 => (8, 448)
  | 0x25 => (15, 57344)
  | 0x26 => (4, 28)
  | 0x27 => (2, 15 / 2)
  | 0x28 => (2, 6)
  | _ => (0, 127 * pow2 (-6))

/-- The scale byte of a block whose largest finite magnitude is m (R173); m = 0 when there is none. -/
def blockScale (code : Nat) (m : Rat) : Nat :=
  if m = 0 then 127
  else
    let (emax, fmax) := scaleLimits code
    let x := floorLog2 m - emax
    let x := if m * pow2 (-x) > fmax then x + 1 else x
    (min (max x (-127)) 127 + 127).toNat

/-! ## The S40 split (R57, R58) -/

/-- The unit in the last place of a BF16 element, as an exponent (R57). -/
def s40Unit (hi : Nat) : Int :=
  let e := bitsOf hi 7 8
  if e = 0 then -133 else (e : Int) - 134

/-- V of an S40 pair; an infinite or NaN hi ignores lo (R57, R60). -/
def s40Val (hi lo : Nat) : Val :=
  match decodeElem 0x01 hi with
  | .fin h => .fin (h + (signedOf 24 lo : Int) * pow2 (-24) * pow2 (s40Unit hi))
  | v => v

/-- The BF16 nearest to V, the greater at a tie (R58); V within the finite BF16 range. -/
def s40Hi (v : Rat) : Nat :=
  let q := ratAbs v
  if q = 0 then 0
  else
    let neg := decide (v < 0)
    let qe := quantumExp 7 127 q
    let x := q / pow2 qe
    let t := x.floor.toNat
    let r := x - ((t : Nat) : Rat)
    -- the greater of two equally near values is the larger magnitude for a positive V, the smaller for a negative one
    let n := if r > 1 / 2 || (r = 1 / 2 && !neg) then t + 1 else t
    encodeMag 8 7 127 neg (((n : Nat) : Rat) * pow2 qe)

/-- The (hi, lo) pair of an S40 value (R58). -/
def s40Split (v : Rat) : Nat × Nat :=
  let hi := s40Hi v
  match decodeElem 0x01 hi with
  | .fin h => (hi, lowBits 24 ((v - h) / (pow2 (-24) * pow2 (s40Unit hi))).floor)
  | _ => (hi, 0)

end Sys2Proof.Machine
end

