-- ==== Sys2Proof/Machine/Accumulator.lean ====
section
/-! DEFINITION. The long accumulator (03): words, residues, entering a window, adding, resolving, and the byte forms of
words (R65, R93). -/
namespace Sys2Proof.Machine

/-- x mod 255 from 0 to 254 (R90). -/
def res255 (x : Int) : Nat := (x % 255).toNat

/-- rot of R90: the residue of x × 2^s. -/
def resRot (r s : Nat) : Nat := r * 2 ^ (s % 8) % 255

/-- A word that is not FIN carries zero s, wrap and residue (R66). -/
def L128.special (tag : Tag) : L128 := { t := 0, tag := tag, poison := false, residue := 0 }

/-- The FIN word of an integer. -/
def L128.ofInt (t : Int) : L128 := { t := t, tag := .fin, poison := false, residue := res255 t }

/-- The zero FIN word (R141). -/
def L128.zero : L128 := L128.ofInt 0

/-- A poisoned word: tag NAN, poison 1, everything else zero (R89). -/
def L128.poisoned : L128 := { t := 0, tag := .nan, poison := true, residue := 0 }

/-- Bounds of an unresolved sum (R78). -/
def sumMin : Int := -(8 * 2 ^ 128) - 2 ^ 127
def sumMax : Int := 7 * 2 ^ 128 + 2 ^ 127 - 1

/-- A sum written back: in range as S and W, otherwise OVFP or OVFN (R78, R79). -/
def writeSum (t : Int) : L128 :=
  if sumMin ≤ t && t ≤ sumMax then L128.ofInt t else L128.special (if t < 0 then .ovfn else .ovfp)

/-- The combination of two tags of which one is not FIN (R84). -/
def addTags : Tag → Tag → Tag
  | .nan, _ => .nan
  | _, .nan => .nan
  | .pinf, .ninf => .nan
  | .ninf, .pinf => .nan
  | .pinf, _ => .pinf
  | _, .pinf => .pinf
  | .ninf, _ => .ninf
  | _, .ninf => .ninf
  | .ovfx, _ => .ovfx
  | _, .ovfx => .ovfx
  | .ovfp, .ovfn => .ovfx
  | .ovfn, .ovfp => .ovfx
  | .ovfp, _ => .ovfp
  | _, .ovfp => .ovfp
  | .ovfn, _ => .ovfn
  | _, .ovfn => .ovfn
  | .fin, .fin => .fin

/-- The check of an adder (R91): the operands' stored residues give another residue than their full sum. -/
def L128.addFault (a b : L128) : Bool :=
  !a.poison && !b.poison && a.tag = .fin && b.tag = .fin && (a.residue + b.residue) % 255 ≠ res255 (a.t + b.t)

/-- The sum of two words of one anchor (R78, R79, R84, R89); a failing check poisons it (R91, R92). -/
def L128.add (a b : L128) : L128 :=
  if a.poison || b.poison || L128.addFault a b then L128.poisoned
  else if a.tag = .fin && b.tag = .fin then writeSum (a.t + b.t)
  else L128.special (addTags a.tag b.tag)

/-- The stored residue agrees with S + W (R150). -/
def L128.residueOk (w : L128) : Bool := if w.tag = .fin then w.residue = res255 w.t else true

/-- A word as a basin read gives it: one whose check fails is poisoned (R150). -/
def L128.checked (w : L128) : L128 := if w.residueOk then w else L128.poisoned

/-- The check of a basin addition fails: that of the stored word's read (R150), or the adder's (R91). -/
def L128.storedFault (stored w : L128) : Bool := !stored.residueOk || stored.addFault w

/-- An exact value entering the window of anchor A (R73, R74). -/
def enterRat (anchor : Int) (x : Rat) : L128 :=
  let q := rneInt (x * pow2 (96 - anchor))
  if q ≥ 2 ^ 127 then L128.special .ovfp
  else if q ≤ -(2 ^ 127) then L128.special .ovfn
  else L128.ofInt q

/-- A value entering the window of anchor A: NaN and infinities by tag (R73, R77, R182). -/
def enterVal (anchor : Int) (v : Val) : L128 :=
  match v with
  | .fin q => enterRat anchor q
  | .pinf => L128.special .pinf
  | .ninf => L128.special .ninf
  | .nan => L128.special .nan

/-- The exact product of two values, with the special operands of R77. -/
def mulVal (a b : Val) : Val :=
  match a, b with
  | .nan, _ => .nan
  | _, .nan => .nan
  | .fin p, .fin q => .fin (p * q)
  | .fin p, .pinf => if p = 0 then .nan else if p < 0 then .ninf else .pinf
  | .fin p, .ninf => if p = 0 then .nan else if p < 0 then .pinf else .ninf
  | .pinf, .fin q => if q = 0 then .nan else if q < 0 then .ninf else .pinf
  | .ninf, .fin q => if q = 0 then .nan else if q < 0 then .pinf else .ninf
  | .pinf, .pinf => .pinf
  | .pinf, .ninf => .ninf
  | .ninf, .pinf => .ninf
  | .ninf, .ninf => .pinf

/-- The exact sum of words (R101, R295). -/
def sumWords (l : List L128) : L128 := l.foldl L128.add L128.zero

/-- An adder's check fails while words are summed (R91); the sum is poisoned from there on. -/
def sumFault (l : List L128) : Bool :=
  (l.foldl (fun p w => (p.1.add w, p.2 || p.1.addFault w)) (L128.zero, false)).2

/-- Resolution (R81): the value of a word before it becomes anything but a word; a poisoned word reads as NaN. -/
def L128.resolve (anchor : Int) (w : L128) : Pre :=
  match w.tag with
  | .fin =>
    if w.t ≥ 2 ^ 127 then .ovfp else if w.t ≤ -(2 ^ 127) then .ovfn else .fin ((w.t : Rat) * pow2 (anchor - 96))
  | .pinf => .pinf
  | .ninf => .ninf
  | .nan => .nan
  | .ovfp => .ovfp
  | .ovfn => .ovfn
  | .ovfx => .ovfx

/-- The word has tag FIN and W = 0 (R95). -/
def L128.plain (w : L128) : Bool := w.tag = .fin && -(2 ^ 127) ≤ w.t && w.t < 2 ^ 127

/-! ## Byte forms -/

/-- Tag codes (R83). -/
def Tag.code : Tag → Nat
  | .fin => 0 | .pinf => 1 | .ninf => 2 | .nan => 3 | .ovfp => 4 | .ovfn => 5 | .ovfx => 6

/-- S of a FIN word: the low 128 bits as two's complement (R78). -/
def L128.s (w : L128) : Int := signedOf 128 (lowBits 128 w.t)

/-- W of a FIN word (R78). -/
def L128.wrap (w : L128) : Int := (w.t - w.s) / 2 ^ 128

/-- The tag byte (R65). -/
def L128.tagByte (w : L128) : Nat := Tag.code w.tag + 8 * b2n w.poison + 16 * lowBits 4 w.wrap

/-- A word from its stored s, tag byte and residue; tag 0b111 and poison read as a poisoned NAN word (R89). -/
def L128.ofParts (s tagByte residue : Nat) : L128 :=
  let w := signedOf 4 (tagByte / 16)
  if tagByte % 8 = 7 || bitOf tagByte 3 then L128.poisoned
  else match tagByte % 8 with
    | 0 => { t := signedOf 128 s + w * 2 ^ 128, tag := .fin, poison := false, residue := residue }
    | 1 => L128.special .pinf
    | 2 => L128.special .ninf
    | 3 => L128.special .nan
    | 4 => L128.special .ovfp
    | 5 => L128.special .ovfn
    | _ => L128.special .ovfx

/-- The 18 bytes of a saved word (R154): s, tag byte, residue. -/
def L128.bytes (w : L128) : List Byte := leBytes 16 (lowBits 128 w.t) ++ leBytes 1 w.tagByte ++ leBytes 1 w.residue

/-- A word from 18 saved bytes. -/
def L128.ofBytes (bs : List Byte) : L128 := L128.ofParts (field bs 0 16) (field bs 16 1) (field bs 17 1)

/-- The payload of an L128 tile (R93). -/
def l128Payload (ws : List L128) : List Byte :=
  (ws.map (fun w => leBytes 16 (lowBits 128 w.t))).flatten ++ (ws.map (fun w => leBytes 1 w.tagByte ++ leBytes 1 w.residue)).flatten

/-- Step flags of a written tag (R87): bit 0 nan_seen, 1 inf_seen, 2 ovf_seen. -/
def tagFlags : Tag → Nat
  | .fin => 0 | .nan => 1 | .pinf => 2 | .ninf => 2 | .ovfp => 4 | .ovfn => 4 | .ovfx => 5

end Sys2Proof.Machine
end

