-- ==== Sys2Proof/Machine/Tensor.lean ====
section
/-! DEFINITION. Tensor descriptors and tile geometry (07 R198 to R212, 08 R231 to R243): where an element lies, the spans and
ranges of views, tile headers and seals, payloads, and the random generator of R175 (06). -/
namespace Sys2Proof.Machine

/-! ## Shape codes (R198, R199) -/

/-- Tile and supertile extents of a shape code, dimension 0 first; none for a code outside R198. -/
def shapeInfo (code : Nat) : Option (List Nat × List Nat) :=
  match code with
  | 0x0101 => some ([1024], [64])
  | 0x0102 => some ([1024], [1, 64])
  | 0x0103 => some ([1024], [8, 8])
  | 0x0201 => some ([32, 32], [8, 8])
  | 0x0202 => some ([32, 32], [64, 1])
  | 0x0203 => some ([32, 32], [1, 64])
  | 0x0204 => some ([64, 16], [4, 16])
  | 0x0205 => some ([128, 8], [2, 32])
  | 0x0301 => some ([8, 8, 16], [4, 4, 4])
  | 0x0302 => some ([32, 4, 8], [2, 8, 4])
  | 0x0401 => some ([4, 4, 8, 8], [4, 4, 2, 2])
  | 0x0501 => some ([4, 4, 4, 4, 4], [4, 2, 2, 2, 2])
  | _ => none

/-- The high byte of a shape code is its tile rank (R198). -/
def tileRank (code : Nat) : Nat := code / 256

/-! ## Descriptors (R231) -/

/-- One dimension of a view: extent, tile extent, supertile extent, stride in tiles, flip bit. -/
structure Dim where
  n : Nat
  t : Nat
  u : Nat
  stride : Int
  flip : Bool
  deriving DecidableEq, Repr

/-- A descriptor as its 64 bytes say. -/
structure Desc where
  base : Nat
  fmtByte : Nat
  rank : Nat
  shape : Nat
  dims : List Dim
  scaleAxis : Nat
  stats : Nat
  tid : Nat
  deriving DecidableEq, Repr

/-- The format code of a descriptor (R34). -/
def Desc.code (d : Desc) : Nat := d.fmtByte % 64

/-- Extent, stride and flip bit of dimension `i` of a descriptor's bytes. -/
def descDim (bs : List Byte) (ts us : List Nat) (i : Nat) : Dim :=
  { n := field bs (12 + 4 * i) 4, t := ts.getD i 1, u := us.getD i 1, stride := fieldS bs (32 + 4 * i) 4
    flip := bitOf (field bs 52 1) i }

/-- The descriptor that 64 bytes hold. -/
def Desc.parse (bs : List Byte) : Desc :=
  let rank := field bs 9 1
  let (ts, us) := (shapeInfo (field bs 10 2)).getD ([], [])
  { base := field bs 0 8, fmtByte := field bs 8 1, rank := rank, shape := field bs 10 2
    dims := (List.range (min rank 5)).map (descDim bs ts us), scaleAxis := field bs 53 1
    stats := field bs 54 2, tid := field bs 56 6 }

/-- Extents, dimension 0 first. -/
def Desc.ext (d : Desc) : List Nat := d.dims.map Dim.n

/-- The extent along dimension `i`; 1 beyond the rank. -/
def Desc.n (d : Desc) (i : Nat) : Nat := (d.dims.map Dim.n).getD i 1

/-- The product of a list. -/
def prod (l : List Nat) : Nat := l.foldl (· * ·) 1

/-- Node, space and offset of a global address (R379). -/
def gaNode (ga : Nat) : Nat := bitsOf ga 48 16
def gaSpace (ga : Nat) : Nat := bitsOf ga 44 4
def gaOffset (ga : Nat) : Nat := bitsOf ga 0 44

/-! ## Coordinates -/

/-- The coordinates of linear index `i`, dimension 0 fastest. -/
def unrank : List Nat → Nat → List Nat
  | [], _ => []
  | r :: rs, i => i % r :: unrank rs (i / r)

/-- The linear index of coordinates, dimension 0 fastest. -/
def rankOf : List Nat → List Nat → Nat
  | r :: rs, x :: xs => x + r * rankOf rs xs
  | _, _ => 0

/-- Tiles along a dimension (R200); 1 along a broadcast in a view that is read (R236). -/
def Dim.tiles (d : Dim) : Nat := if d.stride = 0 then 1 else ceilDiv d.n d.t

/-- Supertiles along a dimension (R241). -/
def Dim.supers (d : Dim) : Nat := ceilDiv (ceilDiv d.n d.t) d.u

/-- The tile grid of a view (R200, R236). -/
def Desc.grid (d : Desc) : List Nat := d.dims.map Dim.tiles

/-- Tiles of a view. -/
def Desc.tileCount (d : Desc) : Nat := prod d.grid

/-- The view coordinate that addresses storage: 0 along a broadcast (R236). -/
def Dim.stored (d : Dim) (x : Nat) : Nat := if d.stride = 0 then 0 else x

/-- The element position within the tile along a dimension (R200, R238). -/
def Dim.elemPos (d : Dim) (x : Nat) : Nat := if d.flip then d.t - 1 - x % d.t else x % d.t

/-- The tile position within the supertile along a dimension (R204, R238). -/
def Dim.superPos (d : Dim) (j : Nat) : Nat := if d.flip then d.u - 1 - j % d.u else j % d.u

/-- A flip sends this tile beyond the stored tile grid, onto padding that reads as zero (R238, R205): DEDUCED (log 14). -/
def Dim.offGrid (d : Dim) (j : Nat) : Bool :=
  let grid := ceilDiv d.n d.t
  let row := if d.stride < 0 then ceilDiv grid d.u - 1 - j / d.u else j / d.u
  d.flip && decide (grid ≤ row * d.u + d.superPos j)

/-- The position of view coordinates within their tile (R200, R238). -/
def Desc.pos (d : Desc) (x : List Nat) : Nat :=
  rankOf (d.dims.map Dim.t) ((d.dims.zip x).map (fun p => p.1.elemPos (p.1.stored p.2)))

/-- Tile coordinates of view coordinates (R200, R236). -/
def Desc.tileOf (d : Desc) (x : List Nat) : List Nat := (d.dims.zip x).map (fun p => p.1.stored p.2 / p.1.t)

/-- Tile linear index of tile coordinates (R200). -/
def Desc.tidx (d : Desc) (j : List Nat) : Nat := rankOf d.grid j

/-- The slot of tile coordinates, in slots from the base (R204, R235, R238). -/
def Desc.slotIndex (d : Desc) (j : List Nat) : Int :=
  let o : Int := ((d.dims.zip j).map (fun p => ((p.2 / p.1.u : Nat) : Int) * p.1.stride)).foldl (· + ·) 0
  let k := rankOf (d.dims.map Dim.u) ((d.dims.zip j).map (fun p => p.1.superPos p.2))
  o + k

/-- The global address of the slot of tile coordinates (R204). -/
def Desc.slotAddr (d : Desc) (j : List Nat) : Nat := ((d.base : Int) + d.slotIndex j * slotBytes d.code).toNat

/-- A tile beyond the stored grid (R238). -/
def Desc.offGrid (d : Desc) (j : List Nat) : Bool := (d.dims.zip j).any (fun p => p.1.offGrid p.2)

/-- Element coordinates of the logical position `i` of a tile, valid or not (R200). -/
def Desc.coordAt (d : Desc) (j : List Nat) (i : Nat) : List Nat :=
  (d.dims.zip (j.zip (unrank (d.dims.map Dim.t) i))).map (fun p => p.2.1 * p.1.t + p.2.2)

/-- Coordinates lie inside the view (R201). -/
def Desc.inside (d : Desc) (x : List Nat) : Bool := (d.dims.zip x).all (fun p => decide (p.2 < p.1.n))

/-- The valid elements of a tile of a view: position in the slot and coordinates (R201). Along a broadcast the tile holds
the one stored coordinate. -/
def Desc.elems (d : Desc) (j : List Nat) : List (Nat × List Nat) :=
  ((List.range 1024).map (d.coordAt j)).filterMap (fun x => if d.inside x then some (d.pos x, x) else none)

/-- The logical linear index of an element (R177). -/
def Desc.linear (d : Desc) (x : List Nat) : Nat := rankOf d.ext x

/-- Tile coordinates of every tile, ascending tile linear index. -/
def Desc.allTiles (d : Desc) : List (List Nat) := (List.range d.tileCount).map (unrank d.grid)

/-- A view's tile slots that exist: what a unit reads and writes (R205, R238; log 14). -/
def Desc.outTiles (d : Desc) : List (List Nat) := d.allTiles.filter (fun j => !d.offGrid j)

/-- The slots of a view: address and length. -/
def slotsOf (d : Desc) : List (Nat × Nat) := (d.outTiles.map (fun j => (d.slotAddr j, slotBytes d.code))).eraseDups

/-- The tiles of COPY: destination tile and the source tile that it takes, both with slots (R205, R309); a broadcast source maps each
destination tile's first element to its own tile. -/
def copyTiles (a out : Desc) : List (List Nat × List Nat) :=
  (out.outTiles.map (fun j => (j, a.tileOf ((out.dims.zip j).map (fun p => p.2 * p.1.t))))).filter (fun p => !a.offGrid p.2)

/-- Supertiles of a view along each dimension. -/
def Desc.superGrid (d : Desc) : List Nat := d.dims.map Dim.supers

/-- The linear index of the supertile of tile coordinates (R216). -/
def Desc.superOf (d : Desc) (j : List Nat) : Nat :=
  rankOf d.superGrid ((d.dims.zip j).map (fun p => p.2 / p.1.u))

/-! ## Spans, ranges and aliasing (R226, R241, R242) -/

/-- Lowest and highest slot of the whole supertiles of a view, from the base (R241). DESIGN CHOICE (log 116): the sums are exact, also
where one leaves signed 64 bits. -/
def Desc.slotSpan (d : Desc) : Int × Int :=
  d.dims.foldl (fun (p : Int × Int) m =>
    let w : Int := m.stride * ((m.supers - 1 : Nat) : Int)
    if m.stride < 0 then (p.1 + w, p.2) else (p.1, p.2 + w)) (0, 63)

/-- First and last byte address of a view's span, from the base address (R241). -/
def Desc.span (d : Desc) : Int × Int :=
  let (lo, hi) := d.slotSpan
  (d.base + lo * slotBytes d.code, d.base + (hi + 1) * slotBytes d.code - 1)

/-- The write-alias test of R242. -/
def Desc.aliasFree (d : Desc) : Bool :=
  let broadcast := d.dims.any (fun m => decide (m.stride = 0) && decide (1 < m.n))
  let list := sortBy (fun a b => decide (a.stride.natAbs ≤ b.stride.natAbs)) (d.dims.filter (fun m => decide (1 < m.supers)))
  let go := list.foldl (fun (p : Bool × Nat) m =>
    (p.1 && decide (p.2 ≤ m.stride.natAbs), p.2 + m.stride.natAbs * (m.supers - 1))) (true, 64)
  !broadcast && go.1

/-- A zero stride on a dimension longer than 1 (R243). -/
def Desc.broadcasts (d : Desc) : Bool := d.dims.any (fun m => decide (m.stride = 0) && decide (1 < m.n))

/-- The node of a descriptor, with 0xFFFF read as the module's own (R226). -/
def Desc.node (own : Nat) (d : Desc) : Nat := if gaNode d.base = 0xFFFF then own else gaNode d.base

/-- The range of a view: node, space, first and last offset (R226, R258 with the span of R241). -/
def Desc.range (own : Nat) (d : Desc) : Nat × Nat × Int × Int :=
  let (lo, hi) := d.span
  (d.node own, gaSpace d.base, lo - d.base + gaOffset d.base, hi - d.base + gaOffset d.base)

/-- Two ranges overlap (R226). -/
def Desc.overlaps (own : Nat) (a b : Desc) : Bool :=
  let (n, sp, lo, hi) := a.range own
  let (n', sp', lo', hi') := b.range own
  decide (n = n') && decide (sp = sp') && decide (lo ≤ hi') && decide (lo' ≤ hi)

/-- Two ranges are identical (R227). -/
def Desc.sameRange (own : Nat) (a b : Desc) : Bool := decide (a.range own = b.range own)

/-- Both views agree in base, format, shape, rank, extents, strides and flip bits (R251). -/
def Desc.sameView (own : Nat) (a b : Desc) : Bool :=
  decide (a.node own = b.node own) && decide (a.base % 2 ^ 48 = b.base % 2 ^ 48) && decide (a.code = b.code)
    && decide (a.shape = b.shape) && decide (a.rank = b.rank) && decide (a.dims = b.dims)

/-- A dimension places every coordinate as another does: a stride counts only between supertiles (R237), and a stride of 0 puts every
coordinate at 0 (R236). -/
def Dim.sameMap (a b : Dim) : Bool :=
  a.n = b.n && a.t = b.t && a.u = b.u && (a.flip = b.flip || a.t * a.u = 1) && (a.supers ≤ 1 || a.stride = b.stride)
    && (a.n ≤ 1 || decide (a.stride = 0) == decide (b.stride = 0))

/-- Both views map every logical coordinate to the same element address (R185, R237). -/
def Desc.sameMap (own : Nat) (a b : Desc) : Bool :=
  decide (a.node own = b.node own) && decide (a.base % 2 ^ 48 = b.base % 2 ^ 48) && decide (a.code = b.code)
    && decide (a.shape = b.shape) && decide (a.rank = b.rank) && (a.dims.zip b.dims).all (fun p => p.1.sameMap p.2)

/-! ## Loading checks (R240) -/

/-! Status values of R542. -/
def stOk : Nat := 0x0000
def stSkipped : Nat := 0x0001
def stDegraded : Nat := 0x0002
def stBusy : Nat := 0x0010
def stSlotBusy : Nat := 0x0011
def stBadOpcode : Nat := 0x0020
def stBadParam : Nat := 0x0021
def stAlias : Nat := 0x0022
def stOverlap : Nat := 0x0023
def stAnchor : Nat := 0x0024
def stFormat : Nat := 0x0025
def stNoResource : Nat := 0x0030
def stContentsLost : Nat := 0x0031
def stAborted : Nat := 0x0040
def stPoisoned : Nat := 0x0041
def stTimeout : Nat := 0x0042
def stFieldFailed : Nat := 0x0043
def stNotPermitted : Nat := 0x0050
def stIdentity : Nat := 0x0051
def stSignature : Nat := 0x0052

/-- The first failing check of R240 on a descriptor's 64 bytes; `stOk` when all pass. -/
def descStatus (bs : List Byte) : Nat :=
  let d := Desc.parse bs
  let unused := (List.range 5).filter (fun i => decide (d.rank ≤ i))
  let reservedOk := bitsOf (field bs 8 1) 6 2 = 0 && bitsOf (field bs 52 1) 5 3 = 0 && field bs 62 2 = 0
    && unused.all (fun i => field bs (12 + 4 * i) 4 = 0 && field bs (32 + 4 * i) 4 = 0 && !bitOf (field bs 52 1) i)
  if !reservedOk then stBadParam
  else if d.rank < 1 || 5 < d.rank || d.dims.any (fun m => m.n = 0) then stBadParam
  else if formatKind d.code = none then stFormat
  else match shapeInfo d.shape with
    | none => stBadParam
    | some (ts, _) =>
      if d.rank < tileRank d.shape then stBadParam
      else if blockScaled d.code && ts.headD 1 % 32 ≠ 0 then stFormat
      else if d.scaleAxis ≠ (if blockScaled d.code then 0 else 0xFF) then stBadParam
      else if d.base % 64 ≠ 0 then stBadParam
      else if !([0, 1, 3].contains (gaSpace d.base)) then stBadParam
      else if d.dims.any (fun m => m.flip && m.stride = 0) then stBadParam
      else
        let off : Int := gaOffset d.base
        let (lo, hi) := d.span
        if lo - d.base + off < 0 || 2 ^ 44 ≤ hi - d.base + off then stBadParam
        else if 4095 < d.stats && d.stats ≠ 0xFFFF then stBadParam
        else stOk

/-! ## Payloads (R48, R49, R93) -/

/-- Split a list into chunks of `w`, at most `n` of them. -/
def chunks (w : Nat) : Nat → List Byte → List (List Byte)
  | 0, _ => []
  | n + 1, bs => bs.take w :: chunks w n (bs.drop w)

/-- The bits of element `i` from planes of 128 bytes (R49), given the planes' bytes i / 8 in order. -/
def planeBits (planes : List (Array Byte)) (i : Nat) : Nat :=
  planes.foldr (fun p acc => b2n ((p.getD (i / 8) 0#8).getLsbD (i % 8)) + 2 * acc) 0

/-- The 1,024 element bit patterns of a payload that is not L128. -/
def unpackElems (code : Nat) (payload : List Byte) : Array Nat :=
  let w := elemBits code
  if bitPlaned code then
    let planes := (chunks 128 w payload).map List.toArray
    ((List.range 1024).map (planeBits planes)).toArray
  else ((chunks (w / 8) 1024 payload).map leNat).toArray

/-- One plane of elements: bit `p` of each, eight to a byte. -/
def planeBytes (p : Nat) : List Nat → List Byte
  | a :: b :: c :: d :: e :: f :: g :: h :: t =>
    BitVec.ofNat 8 (bitsOf a p 1 + 2 * bitsOf b p 1 + 4 * bitsOf c p 1 + 8 * bitsOf d p 1 + 16 * bitsOf e p 1
      + 32 * bitsOf f p 1 + 64 * bitsOf g p 1 + 128 * bitsOf h p 1) :: planeBytes p t
  | _ => []

/-- The payload of 1,024 element bit patterns (R48, R49). -/
def packElems (code : Nat) (els : List Nat) : List Byte :=
  let w := elemBits code
  if bitPlaned code then ((List.range w).map (fun p => planeBytes p els)).flatten
  else (els.map (leBytes (w / 8))).flatten

/-- The 1,024 words of an L128 payload (R93). -/
def unpackWords (payload : List Byte) : Array L128 :=
  let ss := chunks 16 1024 payload
  let ts := chunks 2 1024 (payload.drop 16384)
  ((ss.zip ts).map (fun p => L128.ofParts (leNat p.1) (field p.2 0 1) (field p.2 1 1))).toArray

/-! ## Headers and seals (R206 to R208) -/

/-- A tile header's fields. -/
structure Header where
  scales : List Byte
  format : Nat
  flags : Nat
  ceil : Int
  shape : Nat
  valid : Nat
  tid : Nat
  tidx : Nat
  tail : List Byte
  deriving DecidableEq, Repr

/-- Scale bytes of a tile that is not block-scaled (R206). -/
def plainScales : List Byte := List.replicate 32 0x7F#8

/-- Bytes 36 to 63 of a header. -/
def Header.body (h : Header) : List Byte :=
  leBytes 1 h.format ++ leBytes 1 h.flags ++ leBytes 2 (lowBits 16 h.ceil) ++ leBytes 2 h.shape ++ leBytes 2 h.valid
    ++ leBytes 4 h.tid ++ leBytes 8 h.tidx ++ h.tail

/-- The seal of R208 over header bytes 36 to 63, payload, header bytes 0 to 31. -/
def sealOf (scales body payload : List Byte) : BitVec 32 := crc32c (body ++ payload ++ scales)

/-- A tile slot's 64 + payload bytes with a valid seal. -/
def Header.slot (h : Header) (payload : List Byte) : List Byte :=
  h.scales ++ leBytes 4 (sealOf h.scales h.body payload).toNat ++ h.body ++ payload

/-- The header that a slot's first 64 bytes hold. -/
def Header.parse (bs : List Byte) : Header :=
  { scales := bytesAt bs 0 32, format := field bs 36 1, flags := field bs 37 1, ceil := fieldS bs 38 2
    shape := field bs 40 2, valid := field bs 42 2, tid := field bs 44 4, tidx := field bs 48 8, tail := bytesAt bs 56 8 }

/-- A slot's seal is right (R208). -/
def sealOk (slot : List Byte) : Bool :=
  field slot 32 4 == (sealOf (bytesAt slot 0 32) (bytesAt slot 36 28) (slot.drop 64)).toNat

/-- A format without a NaN encoding whose NaN blocks carry scale 0xFF outside block scaling too (R42, R54). -/
def nanBlockFormat (code : Nat) : Bool :=
  match formatKind code with
  | some (.float _ _ _ _ nan) => !nan
  | some .mxint => true
  | _ => false

/-- Scale bytes that R54 lets stand in a tile that is not block-scaled. -/
def scalesOk (code : Nat) (scales : List Byte) : Bool :=
  blockScaled code || scales.all (fun b => b == 0x7F#8 || (nanBlockFormat code && b == 0xFF#8))

/-- What the checks of R211 say of a slot whose words are sound, in their order: `stOk`, `BAD_PARAM`, or `POISONED`, and
whether it was the seal that failed. -/
def slotStatus (code shape : Nat) (slot : List Byte) : Nat × Bool :=
  if !sealOk slot then (stPoisoned, true)
  else
    let h := Header.parse slot
    if bitOf h.flags 0 then (stPoisoned, false)
    else if h.format ≠ code then (stBadParam, false)
    else if h.shape ≠ shape then (stBadParam, false)
    else if !scalesOk code h.scales then (stBadParam, false)
    else (stOk, false)

/-- The header of R194: poison set, scales 0x7F, ceiling −32,768, other flags clear. -/
def Header.poisoned (h : Header) : Header := { h with scales := plainScales, flags := 1, ceil := -32768 }

/-- The anchor of an L128 tile (R94). -/
def Header.anchor (h : Header) : Int := fieldS h.tail 0 2

/-- Header bytes 56 to 63 of an L128 tile (R94). -/
def anchorTail (a : Int) : List Byte := leBytes 2 (lowBits 16 a) ++ List.replicate 6 0#8

/-- The smallest e with q < 2^e for q > 0 (R55). -/
def ceilExp (q : Rat) : Int := floorLog2 q + 1

/-- The ceiling exponent of values: −32,768 where no non-zero finite one takes part (R55, R56). -/
def ceilOfVals (l : List Val) : Int :=
  l.foldl (fun c v => match v with
    | .fin q => if q = 0 then c else max c (ceilExp (ratAbs q))
    | _ => c) (-32768)

/-- The ceiling exponent of L128 words under an anchor (R95). -/
def ceilOfWords (a : Int) (l : List L128) : Int :=
  l.foldl (fun c w => if w.plain && w.t ≠ 0 then max c (ceilExp (ratAbs ((w.t : Rat) * pow2 (a - 96)))) else c) (-32768)

/-- Header flag bits of L128 words (R95): bit 1 NAN or OVFX, bit 2 an infinity, bit 3 an overflow. -/
def wordTileFlags (l : List L128) : Nat :=
  2 * b2n (l.any (fun w => w.tag = .nan || w.tag = .ovfx)) + 4 * b2n (l.any (fun w => w.tag = .pinf || w.tag = .ninf))
    + 8 * b2n (l.any (fun w => w.tag = .ovfp || w.tag = .ovfn || w.tag = .ovfx))

/-! ## The counter-based generator (R175) -/

/-- rotl of R175. -/
def rotl32 (x : U32) (n : Nat) : U32 := (x <<< n) ||| (x >>> (32 - n))

/-- One round of R175. -/
def genRound (k0 k1 : U32) (r : Nat) (x : U32 × U32 × U32 × U32) : U32 × U32 × U32 × U32 :=
  let (x0, x1, x2, x3) := x
  let k := if r % 2 = 0 then k0 else k1
  let c := BitVec.ofNat 32 ((r + 1) * 0x9E3779B9)
  let x0 := x0 + x1 + k + c
  let x1 := rotl32 x1 12 ^^^ x0
  let x2 := x2 + x3
  let x3 := rotl32 x3 8 ^^^ x2
  (x0, x3, x2, x1)

/-- The generator of R175: 64-bit seed, 32-bit tid and step, 64-bit index, 32 bits out. -/
def gen (seed tid step idx : Nat) : Nat :=
  let k0 := BitVec.ofNat 32 seed
  let k1 := BitVec.ofNat 32 (seed / 2 ^ 32)
  let x := (List.range 10).foldl (fun x r => genRound k0 k1 r x)
    (BitVec.ofNat 32 tid, BitVec.ofNat 32 step, BitVec.ofNat 32 idx, BitVec.ofNat 32 (idx / 2 ^ 32))
  (x.1 ^^^ x.2.2.1).toNat

end Sys2Proof.Machine
end

