-- ==== Sys2Proof/Machine/Weir.lean ====
section
/-! DEFINITION. The weir's output stage (06 R167 to R195): one tile of exact values into a payload, a header, statistics and
step flags; the unrounded export of words (R186); the merge of statistics records (R190 to R192). -/
namespace Sys2Proof.Machine

/-! ## Statistics records (R190) -/

/-- An empty record of a step (R192). -/
def StatRec.empty (step : U32) : StatRec :=
  { step := step, ceilMax := -32768, maxMag := 0#32, tiles := 0, valid := 0, overflowed := 0, saturated := 0, flushed := 0
    subnormal := 0, nan := 0, inf := 0 }

/-- The record a context starts with (R459): zero bytes. -/
def StatRec.zero : StatRec := { StatRec.empty 0#32 with ceilMax := 0 }

/-- Merge counts of an operation of step `step` (R190, R192). -/
def StatRec.merge (r : StatRec) (step : U32) (d : StatRec) : StatRec :=
  let r := if r.step = step then r else StatRec.empty step
  let top32 := 2 ^ 32 - 1
  let top64 := 2 ^ 64 - 1
  { step := step, ceilMax := max r.ceilMax d.ceilMax, maxMag := if r.maxMag.toNat ≤ d.maxMag.toNat then d.maxMag else r.maxMag
    tiles := satAdd top32 r.tiles d.tiles, valid := satAdd top64 r.valid d.valid
    overflowed := satAdd top64 r.overflowed d.overflowed, saturated := satAdd top64 r.saturated d.saturated
    flushed := satAdd top64 r.flushed d.flushed, subnormal := satAdd top64 r.subnormal d.subnormal
    nan := satAdd top32 r.nan d.nan, inf := satAdd top32 r.inf d.inf }

/-- The 64 bytes of a record (R190). -/
def StatRec.bytes (r : StatRec) : List Byte :=
  leBytes 4 r.step.toNat ++ leBytes 2 (lowBits 16 r.ceilMax) ++ leBytes 2 0 ++ leBytes 4 r.maxMag.toNat ++ leBytes 4 r.tiles
    ++ leBytes 8 r.valid ++ leBytes 8 r.overflowed ++ leBytes 8 r.saturated ++ leBytes 8 r.flushed ++ leBytes 8 r.subnormal
    ++ leBytes 4 r.nan ++ leBytes 4 r.inf

/-! ## One tile -/

/-- What a finished tile is: payload, header, counts and step flags (bits of R254). -/
structure TileOut where
  header : Header
  payload : List Byte
  stats : StatRec
  flags : Nat
  deriving DecidableEq, Repr

/-- The largest magnitude among FIN values, and whether there is one (R173, R191). -/
def maxMagOf (l : List Pre) : Rat :=
  l.foldl (fun m p => match p with
    | .fin q => if ratAbs q > m then ratAbs q else m
    | _ => m) 0

/-- A FIN value over a block scale. -/
def Pre.unscale (x : Int) (p : Pre) : Pre :=
  match p with
  | .fin q => .fin (q * pow2 (-x))
  | p => p

/-- Step flags of the tag a word or value carries (R87, R172). -/
def Pre.flags (p : Pre) : Nat :=
  match p with
  | .fin _ => 0
  | .nan => 1
  | .pinf | .ninf => 2
  | .ovfp | .ovfn => 4
  | .ovfx => 5

/-- A block of 32 stored positions as it leaves the weir: scale byte, element bits, elements, and a NaN block's mark. -/
structure BlockOut where
  scale : Nat
  bits : List Nat
  elems : List Elem
  nanBlock : Bool
  deriving DecidableEq, Repr

/-- Round a block (R167 steps 5 and 6, R173, R174): `none` marks padding (R168); `u` are the random bits of each position. -/
def weirBlock (code : Nat) (cfg : RoundCfg) (us : List Nat) (ps : List (Option Pre)) : BlockOut :=
  let scale := if blockScaled code then blockScale code (maxMagOf (ps.filterMap id)) else 127
  let x : Int := scale - 127
  let es := (ps.zip us).map (fun p => p.1.map (fun q => storeElem code cfg p.2 (q.unscale x)))
  let valid := es.filterMap id
  if valid.any (fun e => e.bits = none) then
    { scale := 0xFF, bits := List.replicate ps.length 0, elems := valid, nanBlock := true }
  else
    { scale := scale, bits := es.map (fun e => (e.bind Elem.bits).getD 0), elems := valid, nanBlock := false }

/-- The values of a block's valid elements as written, with the block scale (R189). -/
def BlockOut.vals (b : BlockOut) : List Val :=
  if b.nanBlock then b.elems.map (fun _ => .nan) else b.elems.map (fun e => scaleVal b.scale e.val)

/-- Statistics of a block's elements; in a NaN block every valid element counts in `nan` and keeps only its overflow
(R190). -/
def BlockOut.stats (b : BlockOut) : StatRec :=
  let count := fun (f : Elem → Bool) => b.elems.countP f
  let plain := fun (f : Elem → Bool) => if b.nanBlock then 0 else b.elems.countP f
  { StatRec.empty 0#32 with
    valid := b.elems.length, overflowed := count Elem.overflowed, saturated := plain Elem.saturated
    flushed := plain Elem.flushed, subnormal := plain Elem.subnormal
    nan := if b.nanBlock then b.elems.length else count Elem.nan, inf := plain Elem.inf }

/-- Sum of counts of two blocks of one tile. -/
def StatRec.plus (a b : StatRec) : StatRec :=
  { a with valid := a.valid + b.valid, overflowed := a.overflowed + b.overflowed, saturated := a.saturated + b.saturated
           flushed := a.flushed + b.flushed, subnormal := a.subnormal + b.subnormal, nan := a.nan + b.nan, inf := a.inf + b.inf }

/-- Step flags of a block: `saturated` (bit 4), `inf_seen` (1) and `nan_seen` (0) as written (R170, R172, R321). -/
def BlockOut.flags (b : BlockOut) : Nat :=
  (if b.nanBlock || b.elems.any Elem.nan then 1 else 0)
    ||| (if !b.nanBlock && b.elems.any Elem.inf then 2 else 0)
    ||| (if !b.nanBlock && b.elems.any Elem.satFlag then 16 else 0)

/-- Header flags of written blocks (R207): nan, inf, sat. -/
def blockTileFlags (bs : List BlockOut) : Nat :=
  2 * b2n (bs.any (fun b => b.nanBlock || b.elems.any Elem.nan))
    + 4 * b2n (bs.any (fun b => !b.nanBlock && b.elems.any Elem.inf))
    + 8 * b2n (bs.any (fun b => !b.nanBlock && b.elems.any Elem.sat))

/-- `ceil_max` and `max_mag` of exact values before block scales (R190, R191). -/
def magStats (l : List Pre) : StatRec :=
  let m := maxMagOf l
  if m = 0 then StatRec.empty 0#32
  else { StatRec.empty 0#32 with ceilMax := ceilExp m, maxMag := BitVec.ofNat 32 (fp32Up m) }

/-- Split into `n` lists of `w`. -/
def splitBy {α : Type} (w : Nat) : Nat → List α → List (List α)
  | 0, _ => []
  | n + 1, l => l.take w :: splitBy w n (l.drop w)

/-- Where a tile goes: output format and shape, tensor ID, tile linear index. -/
structure TileDest where
  code : Nat
  shape : Nat
  tid : Nat
  tidx : Nat
  deriving DecidableEq, Repr

/-- The destination of a tile of an output view (R206, R232). -/
def Desc.dest (d : Desc) (j : List Nat) : TileDest :=
  { code := d.code, shape := d.shape, tid := d.tid % 2 ^ 32, tidx := d.tidx j }

/-- Round one tile (R167): values by stored position, random bits by stored position. -/
def weirTile (w : TileDest) (cfg : RoundCfg) (us : List Nat) (ps : List (Option Pre)) : TileOut :=
  let blocks := ((splitBy 32 32 ps).zip (splitBy 32 32 us)).map (fun p => weirBlock w.code cfg p.2 p.1)
  let valid := ps.filterMap id
  let st := blocks.foldl (fun s b => s.plus b.stats) { magStats valid with tiles := 1 }
  { header :=
      { scales := blocks.map (fun b => BitVec.ofNat 8 b.scale), format := w.code
        flags := blockTileFlags blocks + 16 * b2n (cfg.mode = .sr)
        ceil := ceilOfVals (blocks.map BlockOut.vals).flatten, shape := w.shape, valid := valid.length, tid := w.tid
        tidx := w.tidx, tail := List.replicate 8 0#8 }
    payload := packElems w.code (blocks.map BlockOut.bits).flatten
    stats := st
    flags := blocks.foldl (fun f b => f ||| b.flags) (valid.foldl (fun f p => f ||| p.flags) 0) }

/-- Export one tile of words unrounded under an anchor (R186, R187): padding is zero bits (R168). `max_mag` and `ceil_max`
take the words that resolve to a FIN value, |T| < 2^127 (R64, R81); the tile's own ceiling takes W = 0 (R95). DESIGN CHOICE
(log 112): an OVFX word counts in `nan`. -/
def wordTile (w : TileDest) (anchor : Int) (ws : List (Option L128)) : TileOut :=
  let valid := ws.filterMap id
  let plain : List Pre := valid.filterMap (fun v => if v.plain && v.t ≠ -(2 ^ 127) then some (.fin ((v.t : Rat) * pow2 (anchor - 96))) else none)
  { header :=
      { scales := plainScales, format := w.code, flags := wordTileFlags valid, ceil := ceilOfWords anchor valid
        shape := w.shape, valid := valid.length, tid := w.tid, tidx := w.tidx, tail := anchorTail anchor }
    payload := l128Payload (ws.map (fun v => v.getD L128.zero))
    stats := { magStats plain with
      tiles := 1, valid := valid.length, nan := valid.countP (fun v => v.tag = .nan || v.tag = .ovfx)
      inf := valid.countP (fun v => v.tag = .pinf || v.tag = .ninf) }
    flags := valid.foldl (fun f v => f ||| tagFlags v.tag) 0 }

/-! ## Epilogue multiplication (R183) -/

/-- The product of a resolved word and an operand value. -/
def mulPre (p : Pre) (v : Val) : Pre :=
  match p, v with
  | .nan, _ => .nan
  | _, .nan => .nan
  | .fin q, v => (mulVal (.fin q) v).pre
  | .pinf, v => (mulVal .pinf v).pre
  | .ninf, v => (mulVal .ninf v).pre
  | .ovfp, .fin q => if q = 0 then .nan else if q < 0 then .ovfn else .ovfp
  | .ovfn, .fin q => if q = 0 then .nan else if q < 0 then .ovfp else .ovfn
  | .ovfp, v => v.pre
  | .ovfn, .pinf => .ninf
  | .ovfn, .ninf => .pinf
  | .ovfx, .fin q => if q = 0 then .nan else .ovfx
  | .ovfx, _ => .nan

/-! ## Random bits (R177, R179) -/

/-- Bits [31:16] of the generator for an element (R179). -/
def srBits (seed tid step idx : Nat) : Nat := gen seed (tid % 2 ^ 32) step idx / 65536

end Sys2Proof.Machine
end

