-- ==== Sys2Proof/Machine/Operands.lean ====
section
/-! DEFINITION. Operation records (08 R246 to R256, 09): the fields of a record, what each opcode uses, and the static checks
that a submission makes on every record. -/
namespace Sys2Proof.Machine

/-! ## Fields and groups (R128, R131) -/

/-- The fields of a group code (R128). -/
def groupFields (code : Nat) : List Nat :=
  if code < 8 then [code]
  else if 0x10 ≤ code && code ≤ 0x13 then [2 * (code - 0x10), 2 * (code - 0x10) + 1]
  else if code = 0x20 then [0, 1, 2, 3]
  else if code = 0x21 then [4, 5, 6, 7]
  else if code = 0x30 then [0, 1, 2, 3, 4, 5, 6, 7]
  else []

/-- A valid group code on this grade (R4, R128). -/
def groupOk (g : Grade) (code : Nat) : Bool :=
  let fs := groupFields code
  !fs.isEmpty && fs.all (fun f => decide (f < Grade.fields g))

/-- A field is available (R131, R489). -/
def State.available (s : State) (f : Nat) : Bool := decide (f < Grade.fields s.grade) && (s.field f).state == 0

/-- The available fields of a group. -/
def State.groupAvail (s : State) (code : Nat) : List Nat := (groupFields code).filter s.available

/-- The field whose sequencers act for a group: its lowest available field, else its lowest (R526). -/
def State.leadField (s : State) (code : Nat) : Nat := ((s.groupAvail code) ++ groupFields code).headD 0

/-! ## Fields of a record (R246 to R248) -/

/-- Opcode of a record (R246). -/
def recOp (r : List Byte) : Nat := field r 0 2

/-- Field group of a record (R246). -/
def recGroup (r : List Byte) : Nat := field r 2 1


def recMode (r : List Byte) : Nat := field r 3 1
def recFlags (r : List Byte) : Nat := field r 7 1
def recSeq (r : List Byte) : Nat := field r 8 4
def recGuard (r : List Byte) : Nat := field r 12 4
/-- Descriptor index of input `i` (0 to 3). -/
def recIn (r : List Byte) (i : Nat) : Nat := field r (16 + 2 * i) 2
def recOut (r : List Byte) : Nat := field r 24 2
def recEpi (r : List Byte) : Nat := field r 26 2
/-- A parameter of `len` bytes at `off`. -/
def recParam (r : List Byte) (off len : Nat) : Nat := field r off len
def recM (r : List Byte) : Nat := field r 32 4
def recN (r : List Byte) : Nat := field r 36 4
def recK (r : List Byte) : Nat := field r 40 4
def recAnchorMode (r : List Byte) : Nat := bitsOf (recMode r) 6 2
def recAnchorValue (r : List Byte) : Nat := field r 4 2
def recSeedSlot (r : List Byte) : Nat := field r 6 1 % 4
def recAccumulate (r : List Byte) : Bool := bitOf (recFlags r) 0
def recNoShrink (r : List Byte) : Bool := bitOf (recFlags r) 1
def recWitness (r : List Byte) : Bool := bitOf (recFlags r) 2
def recAccWrite (r : List Byte) : Bool := bitOf (recFlags r) 3
def recEpilogue (r : List Byte) : Nat := bitsOf (recFlags r) 4 2

/-- How a record rounds (R247). -/
def recRound (r : List Byte) : RoundCfg :=
  { mode := roundingOf (recMode r % 8), ovfInf := bitOf (recMode r) 3, wrap := bitOf (recMode r) 4, ftz := bitOf (recMode r) 5 }

/-! ## What opcodes use (R265, R269, R627) -/

/-- How an opcode uses a descriptor index. -/
inductive Use where
  | no | must | may
  deriving DecidableEq, Repr

/-- What an opcode uses: in0 to in3 and out, epilogue, anchor modes, rounding fields, flags beyond `no_shrink`, whether it
may carry a guard, and its parameters as (offset, size, bits allowed). -/
structure OpInfo where
  ins : List Use
  out : Use
  epilogue : Bool
  anchors : List Nat
  rounds : Bool
  flags : Nat
  guard : Bool
  params : List (Nat × Nat × Nat)
  deriving DecidableEq, Repr

/-- All bits of `n` bytes. -/
def bytesMask (n : Nat) : Nat := 256 ^ n - 1

/-- A parameter of which every bit is used. -/
def whole (off size : Nat) : Nat × Nat × Nat := (off, size, bytesMask size)

/-- M, N and K (R246). -/
def mnk : List (Nat × Nat × Nat) := [whole 32 4, whole 36 4, whole 40 4]

/-- An opcode that uses inputs and an output, with the rest at their common values. -/
def OpInfo.plain (ins : List Use) (out : Use) (params : List (Nat × Nat × Nat)) : OpInfo :=
  { ins := ins, out := out, epilogue := false, anchors := [0], rounds := true, flags := 0, guard := true, params := params }

/-- The collective parameters (R450). -/
def collParams : List (Nat × Nat × Nat) :=
  [whole 32 1, (33, 1, 0x0F), whole 34 1, whole 35 1, whole 36 2, whole 38 2, whole 40 2, whole 42 2, whole 44 2, whole 46 2,
   whole 48 8] ++ (List.range 32).map (fun i => (56 + 2 * i, 2, 0x1F1F))

/-- The geometry of CONV (R277). -/
def convGeom : List (Nat × Nat × Nat) := (List.range 12).map (fun i => whole (48 + 2 * i) 2)

/-- The opcode table of R265; none for an unknown opcode. -/
def opInfo (op : Nat) : Option OpInfo :=
  let mat := fun (ins : List Use) (flags : Nat) (ps : List (Nat × Nat × Nat)) =>
    { OpInfo.plain ins .must (mnk ++ ps) with epilogue := true, anchors := [0, 1, 2, 3], flags := flags }
  let red := [whole 32 1, (33, 1, 0x01)]
  let coll := fun (ins : List Use) (out : Use) (rounds : Bool) =>
    { OpInfo.plain ins out collParams with anchors := [1, 2], rounds := rounds }
  let quiet := fun (ps : List (Nat × Nat × Nat)) => { OpInfo.plain [] .no ps with rounds := false }
  match op with
  | 0x1000 => some (mat [.must, .must] 0xD [whole 44 4, (48, 1, 0x02)])
  | 0x1001 => some (mat [.must, .must, .must] 0xC [whole 44 4, (48, 1, 0x02)])
  | 0x1002 => some (mat [.must, .must] 0xC ([whole 44 1, whole 72 2] ++ convGeom))
  | 0x1010 => some (OpInfo.plain [.must, .must, .must] .must
      (mnk ++ [whole 44 2, whole 46 2, whole 48 4, whole 52 4, (56, 1, 0x03), whole 57 1, whole 58 2, whole 60 2, whole 62 2,
        whole 64 2]))
  | 0x2000 | 0x2001 => some { OpInfo.plain [.must] .must red with epilogue := true, anchors := [0, 1, 2, 3], flags := 0x8 }
  | 0x2002 => some (OpInfo.plain [.must] .must red)
  | 0x2010 => some (OpInfo.plain [.must, .may, .may] .must [whole 32 1, whole 36 4, whole 40 2])
  | 0x2020 => some { OpInfo.plain [.must, .must] .must [whole 32 1] with anchors := [3], rounds := false, flags := 0x8 }
  | 0x3000 => some (OpInfo.plain [.must, .may, .may, .may] .must
      ([whole 32 1, whole 33 1, whole 36 16] ++ (List.range 16).map (fun i => (52 + 4 * i, 4, 0x077707FF))))
  | 0x3001 => some { OpInfo.plain [.must, .may] .must [] with anchors := [0, 1, 2, 3], flags := 0x8 }
  | 0x3002 => some (OpInfo.plain [] .must [whole 32 1, whole 36 4, whole 40 4])
  | 0x4000 => some { OpInfo.plain [.must] .must [] with rounds := false }
  | 0x4001 => some { OpInfo.plain [] .must [(32, 8, 0xFFFFFFFF)] with anchors := [0, 1, 2, 3] }
  | 0x4002 => some (OpInfo.plain [.must] .must [whole 32 5])
  | 0x4003 => some (OpInfo.plain [.must, .must] .must [whole 32 1, whole 33 5])
  | 0x5000 => some (coll [.must] .may true)
  | 0x5001 => some (coll [.must] .must true)
  | 0x5002 => some (coll [.must] .may true)
  | 0x5003 => some (coll [.must] .must false)
  | 0x5004 => some (coll [.must] .must false)
  | 0x6000 => some { quiet [(32, 1, 0x07), whole 33 1, whole 36 4, whole 40 4] with guard := false }
  | 0x6001 => some { quiet [] with guard := false }
  | 0x6002 => some (OpInfo.plain [.must, .must, .may, .must] .must
      [whole 32 1, whole 34 2, whole 36 4, whole 40 4, whole 44 4, whole 48 4, whole 52 4, whole 56 4])
  | 0x6003 => some { quiet [whole 32 2, whole 34 2, (36, 4, 0x7F)] with out := .may, guard := false }
  | 0x7000 => some (quiet [(32, 1, 0x0F), whole 36 4, whole 40 8])
  | 0x7001 => some (quiet [whole 32 2, (34, 1, 0x0F), (35, 1, 0x0F), whole 36 4])
  | _ => none

/-- Barriers (R259). -/
def isBarrier (r : List Byte) : Bool := (0x6000 ≤ recOp r && recOp r ≤ 0x70FF) || recGuard r % 128 ≠ 0

/-- Matrix operations that run on the array with basin tile rows granted. -/
def isArrayOp (op : Nat) : Bool := op = 0x1000 || op = 0x1001 || op = 0x1002

/-- Matrix operations (R265, R270). -/
def isMatrixOp (op : Nat) : Bool := isArrayOp op || op = 0x1010

/-- A matrix operation with M = 0 or N = 0: it runs no pass and writes no tile (R127). -/
def emptyProduct (r : List Byte) : Bool := isMatrixOp (recOp r) && (recM r = 0 || recN r = 0)

/-- A product with K = 0: it reads neither operand (R127). -/
def zeroProduct (r : List Byte) : Bool := isArrayOp (recOp r) && recK r = 0

/-! ## Static checks (R256) -/

/-- Bits of `v` outside a mask. -/
def outside (v mask : Nat) : Bool := v &&& mask != v

/-- Bytes 32 to 127 obey an opcode's layout: undefined bytes and bits are zero (R13, R246). -/
def paramsOk (ps : List (Nat × Nat × Nat)) (r : List Byte) : Bool :=
  ps.all (fun p => !outside (recParam r p.1 p.2.1) p.2.2) &&
    (List.range 96).all (fun i => ps.any (fun p => decide (p.1 ≤ 32 + i) && decide (32 + i < p.1 + p.2.1))
      || (r.getD (32 + i) 0#8) == 0#8)

/-- A descriptor index obeys its use: 0 to 4,095, or 0xFFFF for none (R250). -/
def indexOk (u : Use) (i : Nat) : Bool :=
  match u with
  | .no => i = 0xFFFF
  | .must => i ≤ 4095
  | .may => i ≤ 4095 || i = 0xFFFF

/-- The anchor fields obey R252. -/
def anchorOk (info : OpInfo) (r : List Byte) : Bool :=
  info.anchors.contains (recAnchorMode r) &&
    (match recAnchorMode r with
     | 1 => -2048 ≤ signedOf 16 (recAnchorValue r) && signedOf 16 (recAnchorValue r) ≤ 2047
     | 2 => decide (recAnchorValue r ≤ 4095)
     | _ => recAnchorValue r = 0)

/-- The operation codes of R301. -/
def vectorOps : List Nat := [1, 2, 3, 4, 5, 6, 7, 8, 9, 0x10, 0x11, 0x12, 0x13, 0x14, 0x15, 0x16, 0x17, 0x20]

/-- The static checks of a VECTOR program: the inputs that it uses are the first `n_in` and no others (R250, R298, R301). -/
def vectorOk (r : List Byte) : Bool :=
  let n := recParam r 32 1
  let k := recParam r 33 1
  1 ≤ n && n ≤ 16 && 1 ≤ k && k ≤ 4 && (List.range 4).all (fun i => decide (i < k) == decide (recIn r i ≠ 0xFFFF)) &&
    (List.range 16).all (fun i =>
      let w := recParam r (52 + 4 * i) 4
      if i < n then vectorOps.contains (w % 256) else w = 0)

/-- The static checks of a CONV record: geometry beyond `sdims` is zero (R277). -/
def convOk (r : List Byte) : Bool :=
  (List.range 3).all (fun d => decide (d < recParam r 44 1) || recParam r (48 + 8 * d) 8 = 0)

/-- The record's own constraints on mode and flags (R269, R294, R326). -/
def opcodeOk (r : List Byte) : Bool :=
  match recOp r with
  | 0x1002 => convOk r
  | 0x2020 => recAccWrite r
  | 0x3000 => vectorOk r
  | 0x6002 => recGuard r &&& 0xB = 0xB && (recMode r = 0 || recMode r = 4)
  | _ => true

/-- The status of a record's static fields (R256): `expected` is the sequence number it must carry, `group` the context's
field group (R461). -/
def recStatus (g : Grade) (group expected : Nat) (r : List Byte) : Nat :=
  if recSeq r ≠ expected % 2 ^ 32 then stBadParam
  else if field r 28 4 ≠ 0 || 3 < field r 6 1 || bitsOf (recFlags r) 6 2 ≠ 0 || 127 < recGuard r then stBadParam
  else match opInfo (recOp r) with
    | none => stBadOpcode
    | some info =>
      let ok := groupOk g (recGroup r) && (groupFields (recGroup r)).all (fun f => (groupFields group).contains f)
        && recMode r % 8 ≤ 4 && (info.rounds || recMode r % 64 = 0)
        && anchorOk info r
        && !outside (recFlags r % 16) (info.flags ||| 2)
        && recEpilogue r ≠ 3 && (info.epilogue || recEpilogue r = 0)
        && (List.range 4).all (fun i => indexOk (info.ins.getD i .no) (recIn r i))
        && indexOk info.out (recOut r)
        && (if recEpilogue r = 0 then recEpi r = 0xFFFF else decide (recEpi r ≤ 4095))
        && (info.guard || recGuard r = 0)
        && paramsOk info.params r && opcodeOk r
      if ok then stOk else stBadParam

/-- The status of a submission: that of its first failing record (R256). -/
def submitStatus (g : Grade) (group : Nat) : Nat → List (List Byte) → Nat
  | _, [] => stOk
  | e, r :: rs =>
    let st := recStatus g group e r
    if st ≠ stOk then st else submitStatus g group (e + 1) rs

/-- Split a submission into its 128-byte records. -/
def splitRecords : Nat → List Byte → List (List Byte)
  | 0, _ => []
  | n + 1, bs => bs.take 128 :: splitRecords n (bs.drop 128)

/-! ## Descriptors an operation names -/

/-- A valid descriptor of a context. -/
def Ctx.desc? (x : Ctx) (i : Nat) : Option Desc := (tableGet? x.descs i).map (fun e => Desc.parse e.bytes)

/-- The descriptor at an index; an invalid entry reads as an empty one. -/
def Ctx.desc (x : Ctx) (i : Nat) : Desc := (x.desc? i).getD (Desc.parse [])

/-- Indices of tensors a record reads: inputs, epilogue operand, mask. -/
def readDescs (r : List Byte) : List Nat :=
  ((List.range 4).map (recIn r) ++ [recEpi r] ++ (if recOp r = 0x1010 then [recParam r 58 2] else [])).filter (fun i => i ≠ 0xFFFF)

/-- Indices of tensors a record writes: its output, scratch, saved rows, and the tensors that OPTIMIZE updates (R324). -/
def writeDescs (r : List Byte) : List Nat :=
  ((if recOut r = 0xFFFF then [] else [recOut r]) ++
    (match recOp r with
     | 0x1002 => [recParam r 72 2]
     | 0x1010 => [recParam r 60 2, recParam r 62 2, recParam r 64 2]
     | 0x2010 => [recParam r 40 2]
     | 0x6002 => [recIn r 1, recIn r 2, recIn r 3]
     | _ => [])).filter (fun i => i ≠ 0xFFFF)

/-- Every descriptor that a record names is a valid entry (R250). -/
def descsValid (x : Ctx) (r : List Byte) : Bool :=
  (readDescs r ++ writeDescs r).all (fun i => (x.desc? i).isSome)

/-- A context as an operation sees it: the descriptor entries (R245) and the keeper table (R545) stand as they did when it issued. -/
def Ctx.asIssued (o : Op) (x : Ctx) : Ctx := { x with descs := o.descs, keeper := o.keeper }

/-- The state as an operation of a context sees it. -/
def State.asIssued (s : State) (c : Nat) (o : Op) : State := s.modCtx c (Ctx.asIssued o)

/-! ## Hazards (R258) -/

/-- A later operation must wait for an earlier one of the context (R258). -/
def hazard (own : Nat) (x : Ctx) (early late : Op) : Bool :=
  let a := Ctx.asIssued early x
  let b := Ctx.asIssued late x
  let hit := fun (l e : List Nat) => l.any (fun i => e.any (fun j => (b.desc i).overlaps own (a.desc j)))
  hit (readDescs late.record) (writeDescs early.record) || hit (writeDescs late.record) (readDescs early.record)
    || (hit (writeDescs late.record) (writeDescs early.record) && !(recAccWrite early.record && recAccWrite late.record))

/-- An issued operation may start: every earlier one has started, no hazard holds, and a barrier waits for all (R258,
R259). -/
def mayStart (own : Nat) (x : Ctx) (o : Op) : Bool :=
  let earlier := x.ops.takeWhile (fun p => p.seq != o.seq)
  o.phase = .issued && earlier.all (fun p => decide (p.phase ≠ .issued) && !hazard own x p o)
    && (!isBarrier o.record || earlier.isEmpty)

/-- An operation may run on the fields that are available (R131). -/
def groupReady (s : State) (r : List Byte) : Bool :=
  let av := s.groupAvail (recGroup r)
  !av.isEmpty && (!recNoShrink r || av.length = (groupFields (recGroup r)).length)

/-- The fields an operation runs on are free, and it may run on the fields that are available (R129, R131). -/
def fieldsReady (s : State) (r : List Byte) : Bool :=
  groupReady s r && (s.groupAvail (recGroup r)).all (fun f => (s.field f).running = none)

/-- The group holds a failed field (R486). -/
def groupFailed (s : State) (r : List Byte) : Bool := (groupFields (recGroup r)).any (fun f => (s.field f).state == 4)

/-- Every field of the group has failed, or `no_shrink` meets a failed one (R131, R486). -/
def groupDead (s : State) (r : List Byte) : Bool :=
  (groupFields (recGroup r)).all (fun f => (s.field f).state == 4) || (recNoShrink r && groupFailed s r)

end Sys2Proof.Machine
end

