-- ==== Sys2Proof/Machine/Wire.lean ====
section
/-! DEFINITION. Byte forms on the wires: packets and their parity (R400, R402), flits (R394), abort records (R420), command
and reply headers (R537, R538), event records (R551). -/
namespace Sys2Proof
open Sys2Proof.Machine

/-! ## Packets (R400) -/

/-- Header bytes 0 to 27 of a packet. -/
def Packet.fields (p : Packet) : List Byte :=
  leBytes 2 p.dst.toNat ++ leBytes 2 p.src.toNat ++ leBytes 2 p.job.toNat ++ [p.ptype, p.hops, p.route, p.ctx]
    ++ leBytes 2 p.gen.toNat ++ leBytes 4 p.tag.toNat ++ leBytes 8 p.addr.toNat ++ leBytes 2 p.len.toNat
    ++ leBytes 2 p.aux.toNat

/-- The parity word of 28 header bytes: bit i is the even parity of byte i (R400). -/
def Machine.parityWord : List Byte → Nat
  | [] => 0
  | b :: bs => b2n (parityBit b) + 2 * parityWord bs

/-- The packet with the parity of its header. -/
def Packet.sealed (p : Packet) : Packet := { p with parity := BitVec.ofNat 32 (parityWord p.fields) }

/-- The header's parity is right (R402). -/
def Packet.parityOk (p : Packet) : Bool := p.parity.toNat == parityWord p.fields

/-- The first header byte whose parity fails (R530). -/
def Packet.badByte (p : Packet) : Nat :=
  ((List.range 28).find? (fun i => bitOf p.parity.toNat i != bitOf (parityWord p.fields) i)).getD 28

/-- Bytes 4 and 5, the job, pass their parity (R402). -/
def Packet.jobParityOk (p : Packet) : Bool :=
  bitsOf p.parity.toNat 4 2 == bitsOf (parityWord p.fields) 4 2

/-- The bytes of a packet. -/
def Packet.bytes (p : Packet) : List Byte := p.fields ++ leBytes 4 p.parity.toNat ++ p.payload

/-- A packet from its 32 header bytes and payload. -/
def Packet.parse (h payload : List Byte) : Packet :=
  let w := fun off => BitVec.ofNat 16 (field h off 2)
  let b := fun off => BitVec.ofNat 8 (field h off 1)
  { dst := w 0, src := w 2, job := w 4, ptype := b 6, hops := b 7, route := b 8, ctx := b 9, gen := w 10
    tag := BitVec.ofNat 32 (field h 12 4), addr := BitVec.ofNat 64 (field h 16 8), len := w 24, aux := w 26
    parity := BitVec.ofNat 32 (field h 28 4), payload := payload }

/-- Credit units of a packet (R406). -/
def Packet.units (p : Packet) : Nat := ceilDiv (32 + p.len.toNat) 64

/-- The virtual lane of a packet type (R401); none for a reserved type. -/
def Machine.vlOfType (t : Nat) : Option Nat :=
  if t = 0x30 then some 0
  else if 0x01 ≤ t && t ≤ 0x05 then some 1
  else if 0x10 ≤ t && t ≤ 0x13 then some 2
  else if 0x20 ≤ t && t ≤ 0x23 then some 3
  else none

/-- The lane of a packet. -/
def Packet.vl (p : Packet) : Nat := (vlOfType p.ptype.toNat).getD 0

/-- Two packets of one flow: same source, destination, job and virtual lane (R405). -/
def Packet.sameFlow (p q : Packet) : Bool := p.src == q.src && p.dst == q.dst && p.job == q.job && p.vl == q.vl

/-- A requester's packet. -/
def Packet.request (ptype dst src job ctx gen tag addr aux : Nat) (payload : List Byte) : Packet :=
  let vl := (vlOfType ptype).getD 0
  Packet.sealed
    { dst := BitVec.ofNat 16 dst, src := BitVec.ofNat 16 src, job := BitVec.ofNat 16 job, ptype := BitVec.ofNat 8 ptype
      hops := 0#8, route := BitVec.ofNat 8 ((src + dst + job) % 4 + 4 * vl), ctx := BitVec.ofNat 8 ctx
      gen := BitVec.ofNat 16 gen, tag := BitVec.ofNat 32 tag, addr := BitVec.ofNat 64 addr
      len := BitVec.ofNat 16 payload.length, aux := BitVec.ofNat 16 aux, parity := 0#32, payload := payload }

/-- The answer to a request (R404): requester's context, generation and tag, source and destination exchanged. -/
def Packet.answer (p : Packet) (own ptype aux : Nat) (payload : List Byte) : Packet :=
  Packet.request ptype p.src.toNat own p.job.toNat (p.ctx.toNat % 16) (p.gen.toNat % 4096) p.tag.toNat p.addr.toNat aux payload

/-- Header bytes 0 to 7, as an event parameter (R552). -/
def Packet.head8 (p : Packet) : Nat := field p.fields 0 8

/-- A payload padded to whole 32-byte units (R400). -/
def Machine.pad32 (bs : List Byte) : List Byte := padTo (32 * ceilDiv bs.length 32) bs

/-! ## Flits (R394) -/

/-- The 256 bytes of a flit. -/
def Machine.flitBytes (seq ftype ack : Nat) (nack ackValid : Bool) (credits : List Nat) (pool first : Byte) (body : List Byte) :
    List Byte :=
  let h := leBytes 2 (seq % 4096 + 4096 * ftype) ++ leBytes 2 (ack % 4096 + 4096 * b2n nack + 8192 * b2n ackValid)
    ++ (List.range 4).map (fun v => BitVec.ofNat 8 (credits.getD v 0)) ++ [pool, first] ++ leBytes 2 0
  let b := padTo 240 body
  h ++ leBytes 4 (crc32 (h ++ b)).toNat ++ b

/-- A flit's CRC is right. -/
def Machine.flitCrcOk (f : List Byte) : Bool :=
  f.length == 256 && field f 12 4 == (crc32 (bytesAt f 0 12 ++ f.drop 16)).toNat

/-- The 16 bytes of an abort record (R420). -/
def AbortRecord.bytes (r : AbortRecord) : List Byte :=
  leBytes 2 r.job.toNat ++ leBytes 2 r.origin.toNat ++ leBytes 2 r.serial.toNat ++ leBytes 2 r.cause.toNat
    ++ List.replicate 8 0#8

/-- Cut a packet's bytes into flit bodies of 240 bytes. -/
def Machine.flitBodies : Nat → List Byte → List (List Byte)
  | 0, _ => []
  | n + 1, bs => if bs.isEmpty then [] else bs.take 240 :: flitBodies n (bs.drop 240)

/-! ## Commands and replies (R537, R538) -/

/-- The reply message of a command. -/
def Machine.replyBytes (flags opcode ctx tag status stamp : Nat) (result : List Byte) : List Byte :=
  leBytes 1 1 ++ leBytes 1 flags ++ leBytes 2 opcode ++ leBytes 1 ctx ++ leBytes 1 0 ++ leBytes 2 result.length
    ++ leBytes 4 tag ++ leBytes 2 status ++ leBytes 2 0 ++ leBytes 8 stamp ++ List.replicate 40 0#8 ++ result

/-! ## Event records (R551) -/

/-- The 32 bytes of the record at index `i` of a ring; the index gives the phase (R556). -/
def Machine.EventRec.bytes (e : EventRec) (i : Nat) : List Byte :=
  leBytes 2 (e.source % 512 + 512 * e.cls + 2048 * ((i / 4096 + 1) % 2)) ++ leBytes 2 e.ctxGen.toNat ++ leBytes 2 e.code.toNat
    ++ leBytes 6 e.stamp.toNat ++ leBytes 8 e.p0.toNat ++ leBytes 8 e.p1.toNat ++ leBytes 4 e.p2.toNat

end Sys2Proof
end

