-- ==== Sys2Proof/Machine/Ops.lean ====
section
/-! DEFINITION. The shared operations: events and event controllers (17), replies, packets and flits out (12), memory access
outcomes (11), the end of an operation (08), aborts, teardown, fences and field resets (12, 14). -/
namespace Sys2Proof.Machine

/-- The module's node ID (R380). -/
def State.own (s : State) : Nat := s.hub.node.toNat

/-! ## Event controllers (R562, R563) -/

/-- A source that fires (R562). -/
def EvcSrc.fire (e : EvcSrc) : EvcSrc :=
  match e.state with
  | 0 => { e with state := 1 }
  | 2 => { e with state := 3 }
  | _ => e

/-- A source whose service completes (R562, R564 rule 5). -/
def EvcSrc.complete (e : EvcSrc) : EvcSrc :=
  match e.state with
  | 2 => { e with state := 0 }
  | 3 => { e with state := 1, again := true }
  | _ => e

/-- A source fires at the headgate's controller and, for a field's source, at its field's (R563). -/
def fireSource (src : Nat) : Fx :=
  (Fx.evc (fun l => tablePut l src (tableGet l src EvcSrc.reset).fire)).andThen
    (Fx.when (decide (src < 448)) (Fx.evc (fun l => tablePut l (512 + src) (tableGet l (512 + src) EvcSrc.reset).fire)))

/-! ## Events (R550 to R557) -/

/-- Records a ring can still take before it holds records in the hub (R557); none while the ring is detached (R619). -/
def Ring.space (r : Ring) : Nat := if r.attached then 4095 - (r.producer - r.consumer).toNat else 0

/-- Records held in the hub (R558). -/
def Ring.held (r : Ring) : Nat := r.waiting.length - r.space

/-- A ring takes a raised record: at most 64 beyond the ring's room are held, the rest dropped (R557). -/
def Ring.take (r : Ring) (e : EventRec) : Ring :=
  if r.space = 0 && r.lostMark then { r with dropped := satAdd 65535 r.dropped 1 }
  else if 64 ≤ r.held && r.space ≤ r.waiting.length then
    { r with dropped := satAdd 65535 r.dropped 1, lostMark := true }
  else { r with waiting := r.waiting ++ [e] }

/-- The ring of a record (R553). -/
def State.ringOf (s : State) (who : Option (Nat × Nat)) : Nat :=
  match who with
  | some (c, _) => if (s.ctx c).state = .free then 16 else c
  | none => 16

/-- The counter of R531 that an event of a field's source adds to. -/
def countFault (src code : Nat) : Fx :=
  Fx.when (decide (src < 448)) (Fx.field (src / 56) (fun f =>
    match code with
    | 0x0A01 => { f with arith := satAdd 65535 f.arith 1 }
    | 0x0A02 => { f with sealFails := satAdd 65535 f.sealFails 1 }
    | 0x0A04 => { f with parity := satAdd 65535 f.parity 1 }
    | _ => f))

/-- Raise an event (R551, R553): `who` is the context and its generation. Recovery mode raises none (R575). -/
def raise (src cls code : Nat) (who : Option (Nat × Nat)) (p0 p1 p2 : Nat) : Fx :=
  Fx.look fun s => Fx.when (s.hub.stage != 15) (((fireSource src).andThen (countFault src code)).andThen
    (Fx.look fun s =>
      let e : EventRec :=
        { source := src, cls := cls
          ctxGen := match who with
            | some (c, g) => BitVec.ofNat 16 (g % 4096 + 4096 * c)
            | none => 0#16
          code := BitVec.ofNat 16 code, stamp := s.cycle, p0 := BitVec.ofNat 64 p0, p1 := BitVec.ofNat 64 p1
          p2 := BitVec.ofNat 32 p2 }
      Fx.ring (s.ringOf who) (fun r => r.take e)))

/-- A context as an event names it. -/
def State.who (s : State) (c : Nat) : Option (Nat × Nat) := some (c, (s.ctx c).gen.toNat)

/-- The record that takes the place of lost records (R557, R530). -/
def lostRecord (s : State) (ring : Nat) : EventRec :=
  { source := 511, cls := 2, ctxGen := 0#16, code := 0x0A05#16, stamp := s.cycle, p0 := BitVec.ofNat 64 ring
    p1 := BitVec.ofNat 64 (s.ring ring).producer.toNat, p2 := 0#32 }

/-- A ring that has room again after drops gets one EVENT_LOST record ahead of the held ones (R557). -/
def refillRing (i : Nat) : Fx :=
  Fx.look fun s =>
    let r := s.ring i
    Fx.when (r.lostMark && decide (0 < r.space))
      ((fireSource 511).andThen (Fx.ring i (fun r => { r with lostMark := false, waiting := lostRecord s i :: r.waiting })))

/-! ## Flits out (R394 to R398) -/

/-- The credits and pool announcements that the next sequenced flit carries (R394, R408 to R410). -/
def Link.announce (l : Link) : List Nat × Nat :=
  let pool := (List.range 4).filterMap (fun v =>
    let x := l.vls.getD v (Vl.reset 0)
    if 0 < x.grants || 0 < x.releases then some (v + 4 * min 1 x.grants + 8 * min 1 x.releases) else none)
  (l.vls.map (fun x => min 255 x.freed), pool.headD 0)

/-- The receiver's books after those announcements. -/
def Link.announced (l : Link) : Link :=
  let (cr, pool) := l.announce
  let vls := (l.vls.zip cr).map (fun p => { p.1 with freed := p.1.freed - p.2 })
  { l with vls := if pool < 4 then vls else vls.modify (pool % 4) (fun x => { x with grants := x.grants - 1, releases := x.releases - 1 }) }

/-- The flit as it stands on the wire, with the acknowledgement fields of the moment (R396, R397). -/
def Link.wire (l : Link) (f : Flit) : List Byte :=
  flitBytes f.seq.toNat f.ftype (if l.nack then l.rxExpect.toNat else (l.rxLast.getD 0#12).toNat) l.nack
    (l.nack || l.rxLast.isSome) f.credits f.pool f.first f.body

/-- The next sequenced flit of a link. -/
def Link.nextFlit (l : Link) (ftype : Nat) (first : Byte) (body : List Byte) : Flit :=
  let (cr, pool) := l.announce
  { seq := l.txSeq, ftype := ftype, credits := cr, pool := BitVec.ofNat 8 pool, first := first, body := padTo 240 body }

/-- Send a sequenced flit that has a place in the replay buffer (R395, R398). -/
def pushFlit (i ftype : Nat) (first : Byte) (body : List Byte) : Fx :=
  Fx.look fun s =>
    let f := (s.link i).nextFlit ftype first body
    (Fx.link i (fun l => { l.announced with txSeq := l.txSeq + 1#12, replay := l.replay ++ [f] })).andThen
      (Fx.emit (.flit i ((s.link i).wire f)))

/-- The receiver has credits or pool announcements to send. -/
def Link.owes (l : Link) : Bool := l.vls.any (fun x => decide (0 < x.freed) || decide (0 < x.grants) || decide (0 < x.releases))

/-- An idle flit: no sequence number, no credits, no packet (R395). -/
def idleFlit : Flit := { seq := 0#12, ftype := 1, credits := [], pool := 0#8, first := 0xFF#8, body := [] }

/-- Send an idle flit with the acknowledgement of the moment (R396). -/
def sendIdle (i : Nat) : Fx := Fx.look fun s => Fx.emit (.flit i ((s.link i).wire idleFlit))

/-- A flit slot without a packet: a body that packets have begun leaves, its rest filled with zeros (R400; log 25), with the credits and
announcements that are due (R395; log 72), else an idle flit goes (R396, R398). -/
def fillSlot (i : Nat) : Fx :=
  Fx.look fun s =>
    let l := s.link i
    if (l.owes || !l.txPart.isEmpty) && decide (l.replay.length < 1024) then
      (pushFlit i 0 l.txFirst l.txPart).andThen (Fx.link i (fun l => { l with txPart := [], txFirst := 0xFF#8 }))
    else sendIdle i

/-- Send an abort or management flit at the next flit boundary; with a full replay buffer it waits (R398). -/
def sendFlit (i ftype : Nat) (body : List Byte) : Fx :=
  Fx.look fun s =>
    if (s.link i).replay.length < 1024 then pushFlit i ftype 0xFF#8 body
    else Fx.link i (fun l => { l with held := l.held ++ [(ftype, body)] })

/-- Send waiting abort and management flits while the replay buffer has places (R398). -/
def flushHeld (i : Nat) : Fx :=
  Fx.look fun s => Fx.each ((s.link i).held.take (1024 - (s.link i).replay.length)) (fun p =>
    (Fx.link i (fun l => { l with held := l.held.drop 1 })).andThen (pushFlit i p.1 0xFF#8 p.2))

/-! ## Receive credits (R406 to R411) -/

/-- Reserve of a lane in units (R407). -/
def vlUnits (vl : Nat) : Nat := 4 * vlReserve.getD vl 0

/-- Occupied slots of a lane: its units are packed without gaps (R406). -/
def Vl.slots (x : Vl) : Nat := ceilDiv x.occupied 4

/-- The lane's occupancy lies above half of its reserve and its granted slots (R409, R410). -/
def Vl.high (vl : Nat) (x : Vl) : Bool := decide (vlReserve.getD vl 0 + 256 * x.granted < 2 * x.slots)

/-- The lane qualifies for a shared block (R407, R409). -/
def Vl.qualifies (vl : Nat) (x : Vl) : Bool := x.high vl && decide (vl ≠ 0) && decide (x.granted < 16)

/-- A lane stores a packet's units (R406); above half of its slots it stops withholding (R410). -/
def Vl.store (vl units : Nat) (x : Vl) : Vl :=
  let x := { x with occupied := x.occupied + units }
  if x.high vl then { x with freed := x.freed + x.withheld, withheld := 0, withholding := false } else x

/-- A lane is granted a shared block (R409). -/
def Vl.grant (x : Vl) : Vl := { x with granted := x.granted + 1, grants := x.grants + 1 }

/-- A lane frees a packet's units (R408): they return as credits, or, from below a quarter of the reserve on and while a block is
held, they are withheld toward its release (R410); with the last block the rest returns. -/
def Vl.release1 (vl units : Nat) (x : Vl) : Vl :=
  let x := { x with occupied := x.occupied - units }
  let x := { x with withholding := decide (0 < x.granted) && (x.withholding || decide (4 * x.slots < vlReserve.getD vl 0)) }
  if !x.withholding then { x with freed := x.freed + units }
  else if x.withheld + units < 1024 then { x with withheld := x.withheld + units }
  else if x.granted = 1 then
    { x with freed := x.freed + (x.withheld + units - 1024), withheld := 0, withholding := false, granted := 0, releases := x.releases + 1 }
  else { x with withheld := x.withheld + units - 1024, granted := x.granted - 1, releases := x.releases + 1 }

/-- Change a lane of a link and keep the field's count of granted blocks (R411). -/
def onVl (i vl : Nat) (f : Vl → Vl) : Fx :=
  Fx.look fun s =>
    let x := (s.link i).vls.getD vl (Vl.reset 0)
    let y := f x
    (Fx.link i (fun l => { l with vls := l.vls.set vl y })).andThen
      (Fx.field (i / 4) (fun g => { g with poolGranted := g.poolGranted + y.granted - x.granted }))

/-- The links and lanes of a field that qualify for a shared block, lowest link first, lowest lane within it (R409). -/
def State.askers (s : State) (f : Nat) : List (Nat × Nat) :=
  ((List.range 4).map (fun k => (List.range 4).map (fun v => (4 * f + k, v)))).flatten.filter (fun q =>
    (((s.link q.1).vls.getD q.2 (Vl.reset 0))).qualifies q.2)

/-- A free shared block of a field goes to the first link and lane that qualify (R409). -/
def grantBlock (f : Nat) : Fx :=
  Fx.look fun s => Fx.when (decide ((s.field f).poolGranted < 64)) (match s.askers f with
    | q :: _ => onVl q.1 q.2 Vl.grant
    | [] => Fx.skip)

/-- Store the units of an arriving packet. -/
def storeUnits (i vl units : Nat) : Fx := (onVl i vl (Vl.store vl units)).andThen (grantBlock (i / 4))

/-- Return the units of a consumed, forwarded or dropped packet (R408); a block that is released may be granted again (R409). -/
def returnUnits (i vl units : Nat) : Fx := (onVl i vl (Vl.release1 vl units)).andThen (grantBlock (i / 4))

/-- Take a packet out of a link's receive queue and return its units (R408), or, where it is none of these, out of the own packets
for local delivery (R412). -/
def takePacket (i : Nat) (p : Packet) : Fx :=
  Fx.look fun s =>
    if (s.link i).rx.contains (p.vl, p) then
      (Fx.link i (fun l => { l with rx := l.rx.erase (p.vl, p) })).andThen (returnUnits i p.vl p.units)
    else Fx.when (s.hub.loop.contains p) (Fx.hub (fun h => { h with loop := h.loop.erase p }))

/-! ## Routing and packets out (R412, R413) -/

/-- The valid paths of a routing entry (R412). -/
def routePaths (entry : U32) : List Nat :=
  (List.range 4).filterMap (fun p =>
    let b := entry.toNat / 256 ^ p % 256
    if bitOf b 7 then some (b % 64) else none)

/-- The output link of a packet at this module: path p mod n (R413); 0x3F is local. -/
def State.route (s : State) (dst path : Nat) : Option Nat :=
  let ps := routePaths (tableGet s.hub.routes dst 0#32)
  if ps.isEmpty then none else ps[path % ps.length]?

/-- The output link of a packet that this module originates (R413). -/
def State.routeFor (s : State) (dst job : Nat) : Option Nat := s.route dst ((s.own + dst + job) % 4)

/-- The hub's injection port among an output's inputs: links 0 to 31, fields 32 to 39, hub 40 (R414). -/
def hubPort : Nat := 40

/-- The output link of a packet here; 0x3F is local (R413). -/
def State.outputOf (s : State) (p : Packet) : Option Nat := s.route p.dst.toNat (p.route.toNat % 4)

/-- Queue a packet of an injection port at a link; the bridges of a fenced field drop it (R419). -/
def injectAt (i port : Nat) (p : Packet) : Fx :=
  Fx.link i (fun l => if l.state = 4 then l else { l with inject := l.inject ++ [(port, p)] })

/-- Where an injection port, or a link, stands on the ditch: links 0 to 31, fields 32 to 39, hub 40. -/
def portEnd (port : Nat) : DitchEnd :=
  if port < 32 then .field (port / 4) else if port < 40 then .field (port - 32) else .hub

/-- A packet of a lane reaches an output link across the ditch (R417, R418, R487). -/
def State.reaches (s : State) (port vl i : Nat) : Bool := s.crosses vl (portEnd port) [.field (i / 4)]

/-- The output link of a packet that this module originates, where it has a path in the fabric (R413) and on the ditch (R487). -/
def State.pathTo (s : State) (port vl node job : Nat) : Option Nat :=
  (s.routeFor node job).filter (fun i => decide (32 ≤ i) || s.reaches port vl i)

/-- Queue a packet at its output link, or for local delivery (R412, R413); one without a path in the fabric or on the ditch goes nowhere
(R487). -/
def sendPacket (port : Nat) (p : Packet) : Fx :=
  Fx.look fun s =>
    match s.outputOf p with
    | some i => if 32 ≤ i then Fx.hub (fun h => { h with loop := h.loop ++ [p] }) else Fx.when (s.reaches port p.vl i) (injectAt i port p)
    | none => Fx.skip

/-- A packet is for this module (R381, R412); without a node ID every packet is. -/
def State.isHere (s : State) (p : Packet) : Bool :=
  p.dst == s.hub.node || p.dst == 0xFFFF#16 || s.hub.node == 0xFFFF#16 || s.outputOf p == some 0x3F

/-- A packet of a type is the next that a local unit takes from a link's receive queue, or from the own packets for local delivery:
the oldest of its flow (R405). -/
def State.delivers (s : State) (t i : Nat) (p : Packet) : Bool :=
  p.ptype.toNat == t && s.isHere p && ((s.link i).rx.find? (fun q => p.sameFlow q.2) == some (p.vl, p) || s.hub.loop.find? p.sameFlow == some p)

/-- What a packet does when a local unit takes it. -/
def onPacket (t i : Nat) (p : Packet) (fx : Fx) : Fx := Fx.look fun s => Fx.when (s.delivers t i p) fx

/-- Event source of a link interface. -/
def linkSource (i : Nat) : Nat := 56 * (i / 4) + 20 + i % 4

/-- A FABRIC_DISCARD event (R552). -/
def discardEvent (i : Nat) (p : Packet) (code : Nat) : Fx := raise (linkSource i) 1 0x0502 none p.head8 code p.job.toNat

/-- A context bound to the job runs, or, for writes, is being taken down (R384, R471). -/
def State.serves (s : State) (job : Nat) (writes : Bool) : Bool :=
  decide (job ≠ 0) && (List.range 16).any (fun c => (s.ctx c).job.toNat == job && (match (s.ctx c).state with
    | .active | .stopped => true
    | .teardown | .quarantine => writes
    | .free => false))

/-- Answer a peer's request (R383, R404): a module without a node ID answers nothing (R382). -/
def answerPacket (port : Nat) (p : Packet) (ptype aux : Nat) (payload : List Byte) : Fx :=
  Fx.look fun s => Fx.when (s.hub.node != 0xFFFF#16) (sendPacket port (p.answer s.own ptype aux payload))

/-- A fresh request tag. -/
def withTag (f : U32 → Fx) : Fx :=
  Fx.look fun s => (f s.hub.nextTag).andThen (Fx.hub (fun h => { h with nextTag := h.nextTag + 1#32 }))

/-- A PARITY event (R516, R530): traffic row, offset of the failing byte, tag or sequence number. -/
def parityEvent (src traffic offset p2 : Nat) (who : Option (Nat × Nat)) : Fx := raise src 2 0x0A04 who traffic offset p2

/-! ## Replies (R538, R548) -/

/-- Send a reply: on the command's queue pair while it is open, or to the relaying node, cut to 448 result bytes; a module
that has no route to it answers on the link that the relay came by (R503). The reply of a queue pair that has closed is discarded (R619).
`relayed` is the command's flag (R538). -/
def reply (dest : Dest) (relayed tag opcode ctx status : Nat) (result : List Byte) : Fx :=
  Fx.look fun s =>
    match dest with
    | .port qp =>
      Fx.when (s.port.qps.any (fun q => q.num == qp && q.connected))
        (Fx.emit (.send qp (replyBytes relayed opcode ctx tag status s.cycle.toNat result)))
    | .relay link p =>
      let cut := decide (448 < result.length)
      let bytes := replyBytes (relayed + 2 * b2n cut) opcode ctx tag status s.cycle.toNat (result.take 448)
      let q := p.answer s.own 0x13 0 (pad32 bytes)
      if s.hub.node != 0xFFFF#16 && (s.routeFor q.dst.toNat 0).isSome then sendPacket hubPort q
      else injectAt link hubPort q
    | .closed => Fx.skip

/-- The `relayed` flag of a command that has passed its checks: a port route carries none that has it set (R539, R547). -/
def Dest.relayed : Dest → Nat
  | .port _ => 0
  | .relay _ _ => 1
  | .closed => 0

/-- The reply of a waiting command. -/
def Wait.answer (w : Wait) (status : Nat) (result : List Byte) : Fx :=
  reply w.dest w.dest.relayed w.tag.toNat w.opcode.toNat w.ctx.toNat status result

/-- Answer and remove every waiting command that meets a condition. -/
def finishWaits (cond : WaitKind → Bool) (status : Nat) (result : List Byte) : Fx :=
  Fx.look fun s =>
    (Fx.port (fun p => { p with waits := p.waits.filter (fun w => !cond w.kind) })).andThen
      (Fx.each (s.port.waits.filter (fun w => cond w.kind)) (fun w => w.answer status result))

/-! ## Memory access outcomes (R346, R360, R364, R369, R377) -/

/-- What an access meets: it proceeds, it stalls on a set that is coming on, or it ends with a status. -/
inductive Access where
  | ok
  | stall
  | stop (status : Nat)
  deriving DecidableEq, Repr

/-- A set's answer to an access (R360, R364). -/
def SetPower.access (p : SetPower) : Access :=
  if p.withdrawn then .stop stNoResource
  else match p.target with
    | none => if p.state = .on then .ok else .stop stNoResource
    | some .on => .stall
    | some _ => .stop stNoResource

/-- The worse of two outcomes: `BAD_PARAM`, which comes before any access (R346), another status, then a stall. -/
def Access.worse (a b : Access) : Access :=
  match a, b with
  | .stop x, .stop y => .stop (if y = stBadParam then y else x)
  | .stop x, _ => .stop x
  | _, .stop y => .stop y
  | .stall, _ => .stall
  | _, b => b

/-- The outcome of an access to `len` bytes at an offset of HBM or reservoir. -/
def State.access (s : State) (space off len : Nat) : Access :=
  if !mapped s.grade space off len then .stop stBadParam
  else if s.shut (ownerField space off) then .stop stNoResource
  else if space = 0 then
    let st := (s.stack (off / 2 ^ 36)).state
    if st = 2 || st = 3 then .stop stNoResource else .ok
  else
    let f := s.field (off / 2 ^ 32)
    let lo := resSet off
    let hi := resSet (off + len - 1)
    (List.range (hi - lo + 1)).foldl (fun a i => a.worse ((f.sets.getD (lo + i) SetPower.reset).access)) .ok

/-- The pseudo-channels that are left when some are retired. -/
def survivors (retired : List Nat) : List Nat := (List.range 64).filter (fun p => !retired.contains p)

/-- Where a retirement leaves a granule that pseudo-channel `pc` held: in the reserve of a survivor when its own channel is the one
retired (R373). -/
def redirect (stack g : Nat) (retired : List Nat) (pc : Nat) : Nat :=
  if retired.getLast? = some pc then
    (survivors retired).getD (Config.reservePlace stack retired.length g % (survivors retired).length) 0
  else pc

/-- The pseudo-channel that holds a word of HBM, by granules of 256 bytes, through the stack's retirements (R370, R373, R374). -/
def State.pcOf (s : State) (off : Nat) : Nat :=
  let st := off / 2 ^ 36
  let g := off % 2 ^ 36 / 256
  let a := ((s.stack st).retiredA.map BitVec.toNat).toList
  let b := ((s.stack st).retiredB.map BitVec.toNat).toList
  let first := redirect st g a (Config.pseudoChannel st g).toNat
  if b.isEmpty then first else redirect st g (a ++ b) first

/-- The place of a word as R513 encodes it. -/
def State.placeOf (s : State) (space off : Nat) : Nat :=
  if space = 1 then off / 2 ^ 32 * 65536 + resBank off else 2 ^ 63 + off / 2 ^ 36 + 256 * s.pcOf off

/-- The event source of a memory (R550). -/
def memSource (space off : Nat) : Nat :=
  if space = 1 then 56 * (off / 2 ^ 32) + 24 else 56 * (off / 2 ^ 37) + 25 + off / 2 ^ 36 % 2

/-- A read that corrects a word counts and leaves it waiting for a write-back; one that meets a double error counts
(R350, R367, R371, R373). -/
def touchWord (w : Nat) : Fx :=
  Fx.look fun s =>
    let key := 64 * w
    let space := key / 2 ^ 44
    let off := key % 2 ^ 44
    let bank := fun (g : BankStat → BankStat) =>
      Fx.field (off / 2 ^ 32) (fun f =>
        { f with banks := tablePut f.banks (resBank off) (g (tableGet f.banks (resBank off) BankStat.reset)) })
    let single := (Fx.memAwait w).andThen
      (if space = 1 then bank (fun b => { b with corrected := satAdd 65535 b.corrected 1 })
       else Fx.stack (off / 2 ^ 36) (fun k => { k with corrected := satAdd 65535 k.corrected 1 }))
    let double :=
      if space = 1 then bank (fun b => { b with uncorrected := satAdd 65535 b.uncorrected 1 })
      else
        let st := off / 2 ^ 36
        let pc := s.pcOf off
        let n := tableGet (s.stack st).pcUncorrected pc 0 + 1
        (withInBand (Fx.stack st (fun k =>
          { k with uncorrected := satAdd 65535 k.uncorrected 1, pcUncorrected := tablePut k.pcUncorrected pc n }))).andThen
          (Fx.when (decide (n = 16)) (raise (memSource 0 off) 2 0x0602 none st pc 16))
    if s.mem.wordDouble w then double else Fx.when (s.mem.wordSingle w) single

/-- The words of a range that hold an ECC error. -/
def Mem.errorWords (m : Mem) (k len : Nat) : List Nat :=
  (m.ecc.map (fun e => e.1 / 8)).eraseDups.filter (fun w => decide (k / 64 ≤ w) && decide (64 * w < k + len))

/-- Count the corrections and errors that a read of a range meets. -/
def touchRange (k len : Nat) : Fx := Fx.look fun s => Fx.each (s.mem.errorWords k len) touchWord

/-- Events of a read that is not a tile read (R513): one for each word with an uncorrectable error, with the context and sequence number
of the operation that reads, if one does (R530). -/
def wordEvents (who : Option (Nat × Nat)) (seq key len : Nat) : Fx :=
  Fx.look fun s => Fx.each ((s.mem.errorWords key len).filter s.mem.wordDouble) (fun w =>
    let k := 64 * w
    raise (memSource (k / 2 ^ 44) (k % 2 ^ 44)) 2 0x0A03 who (s.own * 2 ^ 48 + k % 2 ^ 48) (s.placeOf (k / 2 ^ 44) (k % 2 ^ 44)) seq)

/-- A read of a range outside any tile: counts, write-backs and events (R350, R513). -/
def plainRead (who : Option (Nat × Nat)) (seq key len : Nat) : Fx := (wordEvents who seq key len).andThen (touchRange key len)

/-- A write that covers part of a check granule reads that granule (R355): the read counts and waits for a write-back as any other
(R350). -/
def partialReads (key len : Nat) : Fx :=
  Fx.look fun s =>
    let cut := ((if key % 8 = 0 then [] else [key / 8]) ++ (if (key + len) % 8 = 0 then [] else [(key + len) / 8])).eraseDups
    Fx.each (((cut.filter (fun g => (tableGet? s.mem.ecc g).isSome)).map (fun g => g / 8)).eraseDups) (fun w => plainRead none 0 (64 * w) 64)

/-! ## Transitions of interleave sets (R361 to R364) -/

/-- Poison an interleave set. -/
def poisonSet (f i : Nat) : Fx :=
  Fx.memPoison (memKey 1 (f * 2 ^ 32 + i * 268435456) / 8) (memKey 1 (f * 2 ^ 32 + (i + 1) * 268435456) / 8)

/-- Answer the oldest command that waits for a set. -/
def answerSet (f i status : Nat) : Fx :=
  Fx.look fun s =>
    let mine := fun (w : Wait) => w.kind == .setPower f i
    match s.port.waits.find? mine with
    | none => Fx.skip
    | some w => (Fx.port (fun p => { p with waits := p.waits.eraseP mine })).andThen (w.answer status [])

/-- Status of a command whose set passed through off (R363). -/
def lostStatus (b : Bool) : Nat := if b then stContentsLost else stOk

/-- The transitions that lead from a steady state to a requested one (R363). -/
def setPlan (here want : SetState) : List SetState :=
  match here, want with
  | .off, .retention => [.on, .retention]
  | a, b => if a = b then [] else [b]

/-- A set starts the transitions of a request, with whether they pass through off. -/
def SetPower.start (p : SetPower) (want : SetState) (lost : Bool) : SetPower :=
  match setPlan p.state want with
  | [] => p
  | t :: ts => { p with target := some t, steps := ts, lost := lost || decide (p.state = .off) }

/-- The end of a set's transition (R362, R363): the next transition of the running command, or its reply and the waiting
command. -/
def endTransition (f i : Nat) : Fx :=
  Fx.look fun s =>
    let p := (s.field f).sets.getD i SetPower.reset
    let put := fun (q : SetPower) => Fx.field f (fun g => { g with sets := g.sets.set i q })
    match p.target with
    | none => Fx.skip
    | some t =>
      let q := { p with state := t, target := none, contentsLost := p.contentsLost || decide (t = SetState.off) }
      let lost := Fx.when (decide (t = SetState.off) || decide (p.state = SetState.off)) (poisonSet f i)
      lost.andThen (match q.steps with
        | n :: ns => put { q with target := some n, steps := ns }
        | [] => (answerSet f i (lostStatus q.lost)).andThen (match q.waiting with
          | none => put { q with lost := false }
          | some w =>
            let r := { q with waiting := none, waitingLost := false, lost := false }
            if r.state = w then (put r).andThen (answerSet f i (lostStatus q.waitingLost))
            else put (r.start w q.waitingLost)))

/-- An access that meets sets of the reservoir that are coming on waits for them: their transitions end first (R364). -/
def awaitSets (space off len : Nat) : Fx :=
  Fx.look fun s =>
    let f := off / 2 ^ 32
    Fx.when (space = 1) (Fx.each ((List.range (resSet (off + len - 1) - resSet off + 1)).map (fun i => resSet off + i)) (fun i =>
      Fx.when (((s.field f).sets.getD i SetPower.reset).access == .stall) (endTransition f i)))

/-! ## Aborts and teardown (R420, R421, R467 to R473) -/

/-- Links that carry flits (R391). -/
def State.upLinks (s : State) : List Nat :=
  s.linkIds.filter (fun i => (s.link i).state == 2 || (s.link i).state == 5)

/-- Send an abort record on every up link but one (R420, R421). -/
def sendAbort (r : AbortRecord) (except : Option Nat) : Fx :=
  Fx.look fun s => Fx.each (s.upLinks.filter (fun i => some i != except)) (fun i => sendFlit i 2 r.bytes)

/-- Free the job-table entries that meet a condition on every sluice, discard their blocks and return the blocks' credits
(R430). -/
def freeEntries (cond : U16 → U16 → Bool) : Fx :=
  Fx.look fun s => Fx.each s.linkIds (fun i =>
    let l := s.link i
    Fx.all [
      Fx.link i (fun l =>
        { l with entries := l.entries.filter (fun e => !cond e.2.job e.2.redNo)
                 staged := l.staged.filter (fun b => !cond b.job b.redNo)
                 holds := l.holds.filter (fun h => !cond h.block.job h.block.redNo)
                 sends := l.sends.filter (fun t => !cond t.block.job t.block.redNo) }),
      Fx.each (l.staged.filter (fun b => cond b.job b.redNo)) (fun b => returnUnits i 3 b.units),
      Fx.each (l.holds.filter (fun h => cond h.block.job h.block.redNo)) (fun h => Fx.each h.units (fun u => returnUnits u.1 3 u.2))])

/-- Free the entries of a job (R430). -/
def freeJob (job : Nat) : Fx := freeEntries (fun j _ => j.toNat == job)

/-- Cut bytes into pieces of at most 512 with their offsets. -/
def cut512 : Nat → Nat → List Byte → List (Nat × List Byte)
  | 0, _, _ => []
  | n + 1, off, bs => if bs.isEmpty then [] else (off, bs.take 512) :: cut512 n (off + 512) (bs.drop 512)

/-- The poison bits of 512 bytes at a slot offset (R401). -/
def poisonBits (bad : List Nat) (off : Nat) : Nat :=
  (List.range 8).foldl (fun a i => a + (if bad.contains (off / 64 + i) then 2 ^ i else 0)) 0

/-- The host window that holds an offset of space 0x3 (R536). -/
def State.window? (s : State) (off len : Nat) : Option Window :=
  match s.hub.windows.getD (off / 2 ^ 40) none with
  | some w => if off % 2 ^ 40 + len ≤ w.len then some w else none
  | none => none

/-- The pieces of a slot in the order in which they leave: that of the header last (R193). -/
def tilePieces (bytes : List Byte) : List (Nat × List Byte) := (cut512 64 0 bytes).drop 1 ++ (cut512 64 0 bytes).take 1

/-- Send a slot to a peer as WRITE packets, each under a tag of its own (R401), the header last (R193). -/
def sendTile (c port job ga : Nat) (bytes : List Byte) (bad : List Nat) (track : U32 → Fx) : Fx :=
  Fx.look fun s => Fx.each (tilePieces bytes) (fun q => withTag (fun tag => (track tag).andThen
    (sendPacket port (Packet.request 0x02 (gaNode ga) s.own job c (s.ctx c).gen.toNat tag.toNat (ga + q.1) (poisonBits bad q.1) q.2))))

/-- A queue still holds the first packet of a packet's tile: an ACC_WRITE tile by its tag, a WRITE tile by the slot that it goes to. -/
def firstWaits (slots : List (Nat × Nat)) (queue : List (Nat × Packet)) (p : Packet) : Bool :=
  queue.any (fun q => q.2.ptype == p.ptype &&
    (if p.ptype = 0x03#8 then q.2.tag == p.tag && q.2.aux.toNat / 256 == 0
     else slots.any (fun w => w.1 == q.2.addr.toNat && decide (w.1 ≤ p.addr.toNat) && decide (p.addr.toNat < w.1 + w.2))))

/-- An output slot of an issued operation: whether movers write it, its address and its length. -/
structure OutSlot where
  movers : Bool
  ga : Nat
  len : Nat
  deriving DecidableEq, Repr

/-- The slots that the issued operations of a context write. -/
def Ctx.outSlots (x : Ctx) : List OutSlot :=
  (x.ops.map (fun o => ((writeDescs o.record).map (fun i => (slotsOf ((Ctx.asIssued o x).desc i)).map (fun w =>
    (⟨decide (recOp o.record = 0x4000), w.1, w.2⟩ : OutSlot)))).flatten)).flatten

/-- A packet writes a part of a slot. -/
def OutSlot.has (w : OutSlot) (p : Packet) : Bool :=
  p.ptype == 0x02#8 && decide (w.ga ≤ p.addr.toNat) && decide (p.addr.toNat < w.ga + w.len)

/-- Some packet of a tile has left, the header's has not: a queue holds that one, and fewer than all. -/
def OutSlot.begun (w : OutSlot) (queue : List (Nat × Packet)) : Bool :=
  decide (queue.countP (fun q => w.has q.2) < ceilDiv w.len 512)

/-- The header that the weir, the prism or the vector unit writes for a tile that a teardown cuts short (R194, R468), without the
payload: its seal is that of a payload of which the peer holds a part. -/
def cutHeader (sl : U32) (p : Packet) : Packet :=
  let h := (Header.parse p.payload).poisoned
  Packet.sealed { p with payload := h.scales ++ leBytes 4 sl.toNat ++ h.body, len := 64#16, aux := 0#16 }

/-- What becomes of a queued packet when its context is torn down (R468, link injection): a request that has not left is discarded; of an
accumulate-write the rest goes where its first packet has; movers finish the tiles that they have read. DEDUCED (log 120): of another
tile of which a packet has left only the header goes, poisoned, and the seal over what the peer's slot then holds is a free value. -/
def tornPacket (own c gen : Nat) (slots : List OutSlot) (sl : U32) (queue : List (Nat × Packet)) (p : Packet) : Option Packet :=
  if !(p.src.toNat == own && p.vl == 1 && p.ctx.toNat % 16 == c && p.gen.toNat == gen && p.job != 0#16) then some p
  else if p.ptype = 0x03#8 then (if firstWaits [] queue p then none else some p)
  else match slots.find? (fun w => w.has p) with
    | none => none
    | some w => if w.movers then some p
      else if p.addr.toNat = w.ga && w.begun queue then some (cutHeader sl p) else none

/-- The packets of a queue that a teardown leaves in it. -/
def tornQueue (own c gen : Nat) (slots : List OutSlot) (sl : U32) (queue : List (Nat × Packet)) : List (Nat × Packet) :=
  queue.filterMap (fun q => (tornPacket own c gen slots sl queue q.2).map (fun p => (q.1, p)))

/-- Bytes of a slot of a peer or a host window that an operation has fetched in full, with its bad words. -/
def Op.fetchedSlot (o : Op) (ga len : Nat) : Option (List Byte × List Nat) :=
  let bs := (List.range len).map (fun i => tableGet? o.fetched (ga + i))
  if bs.all Option.isSome then
    some (bs.map (fun b => b.getD 0#8), (List.range (ceilDiv len 64)).filter (fun i => o.fetchedBad.contains (ga / 64 + i)))
  else none

/-- A running COPY that a teardown meets: the movers write every tile whose source has been read in full (R468). -/
def finishCopies (c : Nat) (o : Op) : Fx :=
  Fx.look fun s =>
    let x := (s.ctx c).asIssued o
    let a := x.desc (recIn o.record 0)
    let out := x.desc (recOut o.record)
    Fx.when (decide (recOp o.record = 0x4000) && decide (o.phase = .running)) (Fx.each (copyTiles a out) (fun p =>
      let dst := out.slotAddr p.1
      let n := slotBytes out.code
      match o.fetchedSlot (a.slotAddr p.2) n with
      | none => Fx.skip
      | some (bytes, bad) =>
        if (gaNode dst = 0xFFFF || gaNode dst = s.own) && gaSpace dst ≤ 1 then
          Fx.when (s.access (gaSpace dst) (gaOffset dst) n == .ok) ((Fx.memWrite (memKey (gaSpace dst) (gaOffset dst)) bytes).andThen
            (Fx.each bad (fun i => Fx.memPoison ((memKey (gaSpace dst) (gaOffset dst) / 64 + i) * 8)
              ((memKey (gaSpace dst) (gaOffset dst) / 64 + i) * 8 + 8))))
        else if gaSpace dst = 3 && (gaNode dst = 0xFFFF || gaNode dst = s.own) then
          match s.window? (gaOffset dst) n with
          | some w => Fx.emit (.rdmaWrite w.qp w.key (w.va.toNat + gaOffset dst % 2 ^ 40) bytes)
          | none => Fx.skip
        else sendTile c (32 + o.fields.headD 0) x.job.toNat dst bytes bad (fun _ => Fx.skip)))

/-- The oldest accepted record of a context that has not completed (R468). -/
def Ctx.oldestSeq (x : Ctx) : U32 :=
  match x.ops with
  | o :: _ => o.seq
  | [] => match x.stream with
    | b :: _ => BitVec.ofNat 32 (field b 8 4)
    | [] => x.nextSeq

/-- The context slot after teardown steps 1 to 5 (R468). -/
def Ctx.torn (now : Nat) (cause : Nat) (x : Ctx) : Ctx :=
  { x with state := .teardown, stopStatus := BitVec.ofNat 16 cause, tearCause := BitVec.ofNat 16 cause
           tearSeq := x.oldestSeq, tearGen := x.gen, gen := x.gen + 1#12, tearStart := now, stream := [], ops := [], saved := [], chains := [] }

/-- A field without a context's work (R468 steps 2, 3 and 5). -/
def Field.without (c : Nat) (f : Field) : Field :=
  { f with tileRows := f.tileRows.map (fun r => if r.state ≠ .free ∧ r.ctx = c then TileRow.reset else r)
           movers := f.movers.map (fun m => { m with queued := m.queued.filter (fun e => e.1 != c) })
           running := f.running.filter (fun e => e.1 != c), shadow := f.shadow.filter (fun b => b.ctx != c)
           comparisons := f.comparisons.filter (fun k => k.ctx != c) }

/-- Send a packet of a mirror copy: on the named link whose turn it is, else by the routing table (R506, R508). -/
def sendCopy (links : List Nat) (fld j : Nat) (p : Packet) : Fx :=
  match links[j % links.length]? with
  | some i => injectAt i (32 + fld) p
  | none => sendPacket (32 + fld) p

/-- A write of a mirror copy: job 0, the region in the context byte, the copy's serial as its tag, an offset of the region or window
(log 23). -/
def Copy.packet (own : Nat) (k : Copy) (off aux : Nat) (payload : List Byte) : Packet :=
  Packet.request 0x02 k.target.toNat own 0 k.region 0 k.serial.toNat (k.target.toNat * 2 ^ 48 + off) aux payload

/-- A queued packet of a copy that ends, unless a packet of its tile has left: the mirror stops at a tile boundary (R468). -/
def Copy.stale (k : Copy) (queue : List (Nat × Packet)) (p : Packet) : Bool :=
  let tile := k.round.any (fun w => decide (w.1 ≤ p.addr.toNat) && decide (p.addr.toNat < w.1 + w.2))
  p.job == 0#16 && p.ptype == 0x02#8 && p.dst == k.target && p.ctx.toNat == k.region && p.tag == k.serial
    && !(tile && !firstWaits k.round queue p)

/-- A copy that ends without a complete manifest gives up its claim with a write of no bytes, which is no manifest (R468, R509;
log 23). -/
def releaseClaim (k : Copy) : Fx :=
  Fx.look fun s => Fx.when (k.running && k.ctx.isSome) (sendCopy (k.links.filter s.upLinks.contains) k.field 0 (k.packet s.own 0 0 []))

/-- End mirror copies before their complete manifest: a command that waits for one replies with the status (R509). -/
def endCopies (cond : Copy → Bool) (status : Nat) : Fx :=
  Fx.look fun s =>
    let gone := s.hub.copies.filter (fun k => cond k.2)
    Fx.all [
      finishWaits (fun k => match k with
        | .mirrorCopy n => (gone.map Prod.fst).contains n
        | _ => false) status [],
      Fx.each s.linkIds (fun i => Fx.link i (fun l =>
        { l with inject := l.inject.filter (fun q => !gone.any (fun k => k.2.running && k.2.stale l.inject q.2)) })),
      Fx.hub (fun h => { h with copies := h.copies.filter (fun k => !cond k.2) }),
      Fx.each gone (fun k => releaseClaim k.2)]

/-- Discard mirror copies; a command that waits for one replies ABORTED (R468, R482). -/
def dropCopies (cond : Copy → Bool) : Fx := endCopies cond stAborted

/-- Tear down one ACTIVE or STOPPED context (R468 steps 1 to 5). -/
def tearOne (c cause : Nat) : Fx :=
  Fx.look fun s =>
    let x := s.ctx c
    Fx.when (x.state = .active || x.state = .stopped)
      (Fx.all [
        Fx.each s.linkIds (fun i => Fx.link i (fun l =>
          { l with inject := tornQueue s.own c x.gen.toNat x.outSlots ((Config.freeValue (s.freeCtr + i)).truncate 32) l.inject
                   entries := l.entries.filter (fun e => !(e.2.ctx == c && e.2.state != 0 && e.2.state != 3)) })),
        Fx.each s.linkIds (fun _ => Fx.bumpFree),
        Fx.each x.ops (finishCopies c),
        Fx.port (fun p => { p with reads := p.reads.filter (fun r => r.sent || !x.ops.any (fun o => o.needs.any (fun n => n.tag == r.tag))) }),
        Fx.each (List.range (Grade.fields s.grade)) (fun f => Fx.field f (Field.without c)),
        dropCopies (fun k => k.ctx == some c),
        finishWaits (fun k => match k with
          | .submitHost d _ => d == c
          | _ => false) stAborted [],
        Fx.ctx c (Ctx.torn s.now cause)])

/-- Contexts bound to a job. -/
def State.boundTo (s : State) (job : Nat) : List Nat :=
  (List.range 16).filter (fun c => (s.ctx c).state != .free && (s.ctx c).job.toNat == job)

/-- Tear down every local context bound to a job, and free the job's entries (R421, R430). -/
def tearJob (job cause : Nat) : Fx :=
  Fx.look fun s => (freeJob job).andThen (Fx.each (s.boundTo job) (fun c => tearOne c cause))

/-- Remember an abort record (R421). -/
def noteAbort (r : AbortRecord) : Fx :=
  Fx.look fun s => Fx.hub (fun h =>
    { h with aborts := h.aborts.filter (fun e => decide (s.now ≤ e.2 + 25600) && e.1 != r) ++ [(r, s.now)] })

/-- Abort a job at this module (R420): a fresh abort record on every up link, then the local teardowns. Job 0 is no job. -/
def abortJob (job cause : Nat) : Fx :=
  Fx.when (decide (job ≠ 0)) (Fx.look fun s =>
    let r : AbortRecord :=
      { job := BitVec.ofNat 16 job, origin := s.hub.node, serial := s.hub.serial, cause := BitVec.ofNat 16 cause }
    Fx.all [Fx.hub (fun h => { h with serial := h.serial + 1#16 }), noteAbort r, sendAbort r none, tearJob job cause])

/-- Tear down a context, aborting its job where it is bound (R468 step 1). -/
def tearCtx (c cause : Nat) : Fx :=
  Fx.look fun s =>
    let x := s.ctx c
    Fx.when (x.state = .active || x.state = .stopped)
      (if x.job = 0#16 then tearOne c cause else abortJob x.job.toNat cause)

/-! ## The end of an operation (R260, R261, R486, R517, R518, R531) -/

/-- A status that lets the context go on (R261). -/
def goodStatus (st : Nat) : Bool := st = stOk || st = stSkipped || st = stDegraded

/-- Set step flags of a context (R254). -/
def setFlags (c f : Nat) : Fx := Fx.ctx c (fun x => { x with flags := x.flags ||| BitVec.ofNat 7 f })

/-- Change one issued operation of a context. -/
def onOp (c : Nat) (seq : U32) (f : Op → Op) : Fx :=
  Fx.ctx c (fun x => { x with ops := x.ops.map (fun o => if o.seq = seq then f o else o) })

/-- An issued operation of a context. -/
def State.op? (s : State) (c : Nat) (seq : U32) : Option Op := (s.ctx c).ops.find? (fun o => o.seq == seq)

/-- The fields no longer hold an operation. -/
def releaseFields (c : Nat) (seq : U32) : Fx :=
  Fx.look fun s => Fx.each (List.range (Grade.fields s.grade)) (fun f =>
    Fx.field f (fun g => { g with running := g.running.filter (fun e => !(e.1 == c && e.2 == seq))
                                  comparisons := g.comparisons.filter (fun k => !(k.ctx == c && k.seq == seq)) }))

/-- A tile row that keeps its sums for its chain (R151), and the counts of the passes and partials that made them (R155). -/
def TileRow.hold (r : TileRow) : TileRow := { r with state := .held, complete := false, arrivals := [], sent := 0 }

/-- The tile rows of an operation that ends with a failing status: those of a chain stay HELD (R159); DESIGN CHOICE (log 95): its
other rows return to FREE. -/
def dropRows (c : Nat) (seq : U32) (chain : Bool) : Fx :=
  Fx.look fun s => Fx.each (List.range (Grade.fields s.grade)) (fun f =>
    Fx.field f (fun g => { g with tileRows := g.tileRows.map (fun r =>
      if r.state ≠ .free ∧ r.state ≠ .held ∧ r.ctx = c ∧ r.seq = seq then
        (if chain && r.placed && r.state = .open then r.hold else TileRow.reset)
      else r) }))

/-- Engine `e` of R479 advances its progress counter, or its work begins. -/
def progress (f e : Nat) : Fx := Fx.look fun s => Fx.field f (fun g => { g with progress := tablePut g.progress e s.now })

/-- A context's operation ends with a status: the fields are freed, poison is recorded, a failure raises OP_FAILED, from
the field that issues for the context, and stops the context or aborts its job (R261, R517, R518, R526, R530, R552). -/
def endOp (c : Nat) (o : Op) (status : Nat) : Fx :=
  Fx.look fun s =>
    let x := s.ctx c
    let st := if status = stOk && o.degraded then stDegraded else status
    let lead := s.leadField (recGroup o.record)
    Fx.all [
      Fx.ctx c (fun x => { x with ops := x.ops.filter (fun p => p.seq != o.seq) }),
      releaseFields c o.seq,
      progress lead 6,
      Fx.when (!goodStatus st) (dropRows c o.seq (o.mat.any (fun u => u.chain))),
      -- a collective's entries are free, and its blocks discarded (R422, R430)
      Fx.when (!goodStatus st && o.coll.isSome) (freeEntries (fun j n => j == x.job && n == BitVec.ofNat 16 (field o.record 36 2))),
      Fx.when (decide (st = stPoisoned)) ((setFlags c 8).andThen
        (Fx.each (if o.fields.isEmpty then [lead] else o.fields) (fun f =>
          Fx.field f (fun g => { g with poisonedOps := satAdd 65535 g.poisonedOps 1 })))),
      Fx.when (!goodStatus st) (raise (56 * s.leadField x.fieldGroup.toNat + 6) 2 0x0101 (s.who c) st (recOp o.record) o.seq.toNat),
      Fx.when (!goodStatus st && x.state = .active)
        (Fx.ctx c (fun x => { x with state := .stopped, stopStatus := BitVec.ofNat 16 st })),
      Fx.when (decide (st = stPoisoned)) (abortJob x.job.toNat stPoisoned)]

/-! ## Fences and field resets (R419, R482 to R488) -/

/-- A mover's descriptor executes once its read has left (R491). -/
def startDescriptor (tag : U32) : Fx :=
  Fx.look fun s => Fx.each (List.range (Grade.fields s.grade)) (fun f => Fx.field f (fun g =>
    { g with movers := g.movers.map (fun m => { queued := m.queued.filter (fun e => e.2 != tag)
                                                executing := m.executing ++ m.queued.filter (fun e => e.2 == tag) }) }))

/-- Rows of a context that a restore to a field waits for (R158, R159, R162): those that a preemption saved, and held ones of the chain
that its operation there continues. -/
def State.restores (s : State) (f c : Nat) : Bool :=
  (s.field f).running.any (fun e => e.1 == c && (s.op? c e.2).any (fun o => !o.preempted && o.mat.any (fun u =>
    (s.ctx c).saved.any (fun k => k.field == f && (k.preempt || (!u.granted && u.chain && k.row.out == recOut o.record))))))

/-- An engine holds an item or state of a context (R482, R479): `e` is the engine index of R479. -/
def State.worksIn (s : State) (f e c : Nat) : Bool :=
  let g := s.field f
  let x := s.ctx c
  -- an operation that holds the field or has issued on it
  let onField := g.running.any (fun r => r.1 == c) || x.ops.any (fun o => s.leadField (recGroup o.record) == f)
  let opIn := fun (lo hi : Nat) => x.ops.any (fun o => o.fields.contains f && decide (o.phase ≠ .issued)
    && decide (lo ≤ recOp o.record) && decide (recOp o.record ≤ hi))
  match e with
  | 0 => onField || x.ops.any (fun o => o.preempted && o.fields.contains f)
  | 1 => g.tileRows.any (fun r => decide (r.state ≠ .free) && r.ctx == c)
      || s.ditch.partials.any (fun p => p.ctx == c && (p.owner == f || p.src == f)) || s.restores f c
  | 2 => g.tileRows.any (fun r => decide (r.state = .draining) && r.ctx == c)
  | 3 => opIn 0x4002 0x4003 || opIn 0x1002 0x1002
  | 4 => opIn 0x2000 0x3FFF || opIn 0x6002 0x6002 || opIn 0x1010 0x1010
  | 5 => g.comparisons.any (fun k => k.ctx == c)
  | 6 => onField
  | 7 => s.hub.copies.any (fun k => k.2.ctx == some c && k.2.field == f)
  | _ =>
    if e < 16 then
      let m := g.movers.getD (e - 8) { queued := [], executing := [] }
      m.queued.any (fun x => x.1 == c) || m.executing.any (fun x => x.1 == c) || (decide (e = 8) && opIn 0x4000 0x4000)
    else
      let l := s.link (4 * f + (e - 16))
      l.entries.any (fun y => y.2.ctx == c && y.2.state != 0 && y.2.state != 3)
        || (x.job != 0#16 && (l.staged.any (fun b => b.job == x.job) || l.holds.any (fun h => h.block.job == x.job)
          || l.sends.any (fun t => t.block.job == x.job) || l.leaving.any (fun b => b.send.block.job == x.job)))

/-- Contexts with work in an engine. -/
def State.workers (s : State) (f e : Nat) : List Nat := (List.range 16).filter (s.worksIn f e)

/-- Engine state after a field reset, for one engine that is reset (R482). -/
def Field.engineReset (e : Nat) (f : Field) : Field :=
  match e with
  | 0 => { f with running := none, shadow := none, stationary := none, shadowWords := [], cellWords := [] }
  | 1 => { f with tileRows := List.replicate 256 TileRow.reset }
  | 5 => { f with comparisons := [] }
  | 6 => { f with lastStarted := 15 }
  | _ => if 8 ≤ e && e < 16 then { f with movers := f.movers.set (e - 8) { queued := [], executing := [] } } else f

/-- A sluice as after a field reset (R482, R484): it holds no block, stages no tile, and its reserve is free; the credits of packets that
have not left are back. -/
def Link.sluiceReset (l : Link) : Link :=
  let unsent := (l.leaving.map (fun b => (b.packets.map Packet.units).sum)).getD 0
  { l with entries := [], staged := [], holds := [], sends := [], leaving := none, acc := [], reserveFree := 327
           vls := l.vls.modify 3 (fun x => { x with credits := x.credits + unsent }) }

/-- A sluice discards what it holds and returns the credits (R482). -/
def resetSluice (i : Nat) : Fx :=
  Fx.look fun s =>
    let l := s.link i
    Fx.all [
      Fx.each l.staged (fun b => returnUnits i 3 b.units),
      Fx.each l.holds (fun h => Fx.each h.units (fun u => returnUnits u.1 3 u.2)),
      Fx.link i Link.sluiceReset]

/-- Reset an engine (R481, R482): its contexts are torn down with ABORTED, what it holds is discarded. -/
def resetEngine (f e : Nat) : Fx :=
  Fx.look fun s => Fx.all [
    Fx.each (s.workers f e) (fun c => tearCtx c stAborted),
    Fx.when (decide (16 ≤ e)) (Fx.each (((s.link (4 * f + (e - 16))).entries.map (fun x => x.2.job.toNat)).eraseDups)
      (fun j => abortJob j stAborted)),
    Fx.when (decide (16 ≤ e)) (resetSluice (4 * f + (e - 16))),
    Fx.when (decide (e = 1)) (Fx.ditch (Ditch.drop (fun p => p.owner == f))),
    Fx.when (decide (e = 7)) (dropCopies (fun k => k.field == f)),
    Fx.field f (fun g => { Field.engineReset e g with engineResets := tablePut g.engineResets e s.now, progress := tableErase g.progress e })]

/-- A FIELD_CHANGE event (R552): class 3 when the field fails. -/
def fieldChange (f : Nat) : Fx :=
  Fx.look fun s =>
    let g := s.field f
    raise (56 * f + 28) (if g.state = 4 then 3 else 2) 0x0402 none f g.state g.resets

/-- A LINK_CHANGE event with bits [31:0] of LNK_STATUS (R391, R552). -/
def Link.status (l : Link) : Nat :=
  l.state + 8 * b2n l.reversed + 16 * l.polarity.toNat + 8192 * l.spareFor + 2 ^ 17 * b2n l.spareUsed
    + 2 ^ 18 * l.roundTrip + 2 ^ 28 * l.cause

def linkChange (i cause : Nat) : Fx :=
  Fx.look fun s => raise (56 * (i / 4) + 20 + i % 4) 1 0x0501 none i (s.link i).status cause

/-- Received packets that wait to leave on link `i`, with the link that holds each (R390). -/
def State.queuedFor (s : State) (i : Nat) : List (Nat × Packet) :=
  (s.linkIds.map (fun j => ((s.link j).rx.filter (fun q => s.outputOf q.2 == some i)).map (fun q => (j, q.2)))).flatten

/-- A link stops carrying flits: every packet queued for it is discarded and its credits return, each job whose packet was
discarded is aborted, and copies on it end (R390, R509); `state` is the state it takes. -/
def dropLink (i state : Nat) : Fx :=
  Fx.look fun s =>
    let l := s.link i
    let passing := s.queuedFor i
    let jobs := (l.inject.map (fun q => q.2.job.toNat) ++ passing.map (fun q => q.2.job.toNat)
      ++ l.sends.map (fun t => t.block.job.toNat) ++ l.leaving.toList.map (fun b => b.send.block.job.toNat)).eraseDups
    Fx.all [
      Fx.each passing (fun q => takePacket q.1 q.2),
      Fx.link i (fun l =>
        { l with state := state, inject := [], held := [], replay := [], rxPart := [], txPart := [], txFirst := 0xFF#8, sends := []
                 leaving := none }),
      -- blocks that came by this link no longer occupy its receive slots
      Fx.each s.linkIds (fun j => Fx.link j (fun l =>
        { l with holds := l.holds.map (fun h => { h with units := h.units.filter (fun u => u.1 != i) }) })),
      Fx.each (jobs.filter (fun j => j != 0)) (fun j => abortJob j stAborted),
      endCopies (fun k => k.links.contains i) stNoResource,
      -- R547: a relay whose route's first link goes down before the reply arrives
      finishWaits (fun k => match k with
        | .relayed _ first => first == i
        | _ => false) stNoResource []]

/-- Fence a link (R392): a fenced link drops every flit in both directions until training starts. -/
def fenceLink (i : Nat) : Fx := (dropLink i 4).andThen (linkChange i 4)

/-- The bridges of a fenced field drop the traffic that its links brought (R419), and its sluice discards what it holds. -/
def clampLink (i : Nat) : Fx :=
  Fx.look fun s => (Fx.each (s.link i).rx (fun q => takePacket i q.2)).andThen
    (Fx.each (((s.link i).entries.map (fun e => e.2.job.toNat)).eraseDups.filter (fun j => j != 0)) (fun j => abortJob j stAborted))

/-- Poison every bank of a field's reservoir, spares included (R378). -/
def poisonField (f : Nat) : Fx :=
  Fx.memPoison (memKey 1 (f * 2 ^ 32) / 8) (memKey 1 ((f + 1) * 2 ^ 32) / 8)

/-- Fence a field (R483): bridges clamp, links are fenced, every context of a group with the field and every context with
work in it is torn down; a queued test ends ABORTED (R529). -/
def fenceOnly (f : Nat) : Fx :=
  Fx.look fun s => Fx.all [
    Fx.field f (fun g => { g with state := 2 }),
    fieldChange f,
    dropCopies (fun k => k.field == f),
    Fx.each ((List.range 4).map (fun i => 4 * f + i)) (fun i => (fenceLink i).andThen (clampLink i)),
    Fx.each s.linkIds (fun i => Fx.link i (fun l => { l with inject := l.inject.filter (fun q => q.1 != 32 + f) })),
    Fx.each ((List.range 16).filter (fun c =>
      (groupFields (s.ctx c).fieldGroup.toNat).contains f || (List.range 20).any (fun e => s.worksIn f e c)))
      (fun c => tearCtx c stAborted),
    Fx.ditch (Ditch.drop (fun p => p.owner == f || p.src == f)),
    finishWaits (fun k => match k with
      | .fieldTest g => g == f
      | _ => false) stAborted [],
    Fx.field f (fun g => { g with test := none, engineResets := [] })]

/-- A fenced field starts its reset, which is counted as it starts (R484, R489; log 34). -/
def startFieldReset (f : Nat) : Fx :=
  Fx.look fun s => (Fx.field f (fun g => { g with state := 3, resets := satAdd 255 g.resets 1, resetStart := s.now })).andThen (fieldChange f)

/-- Fence a field and start its reset (R483, R484, R488). -/
def fenceField (f : Nat) : Fx := (fenceOnly f).andThen (startFieldReset f)

/-- A field fails (R485): its stacks become unreachable, a command that waits for its reset replies FIELD_FAILED. -/
def failField (f : Nat) : Fx :=
  Fx.all [
    Fx.field f (fun g => { g with state := 4 }),
    Fx.each [2 * f, 2 * f + 1] (fun k => Fx.stack k (fun x => { x with state := 3 })),
    fieldChange f,
    finishWaits (fun k => match k with
      | .fieldReset g => g == f
      | _ => false) stFieldFailed []]

end Sys2Proof.Machine
end

