-- ==== Sys2Proof/Machine/Compute.lean ====
section
/-! DEFINITION. How an operation reads its tensors (07 R211, 16 R513, R514) and how what it writes lands: local tiles,
accumulate-writes (03 R97, R98), packets to a peer, RDMA to a host window; statistics and lens counts go with each tile
(06 R192, R195; 10 R338). -/
namespace Sys2Proof.Machine

/-! ## Reading slots -/

/-- An event that an operation raises: source, class, code, parameters 0 and 1. -/
structure Ev where
  src : Nat
  cls : Nat
  code : Nat
  p0 : Nat
  p1 : Nat
  deriving DecidableEq, Repr

/-- Why an operation stops while it reads: its status and the events of the failing check. -/
structure Stop where
  status : Nat
  events : List Ev
  deriving DecidableEq, Repr

/-- A stop without an event. -/
def Stop.plain (status : Nat) : Stop := { status := status, events := [] }

/-- A global address lies in this module's HBM or reservoir. -/
def isLocal (own ga : Nat) : Bool := (gaNode ga = 0xFFFF || gaNode ga = own) && gaSpace ga ≤ 1

/-- A global address under the module's own node ID (R381; log 35). -/
def named (own ga : Nat) : Nat := if gaNode ga = 0xFFFF then own * 2 ^ 48 + ga % 2 ^ 48 else ga

/-- The memory key of a local global address. -/
def localKey (ga : Nat) : Nat := memKey (gaSpace ga) (gaOffset ga)

/-- The bytes of a slot and the addresses of its bad words: from local memory, or as fetched from a peer or a host window. -/
def slotBytesOf (s : State) (o : Op) (ga len : Nat) : List Byte × List Nat :=
  if isLocal s.own ga then
    (s.mem.bytes (localKey ga) len,
     ((wordsOf (localKey ga) len).filter (fun w => !s.mem.wordOk w)).map (fun w => 64 * w - localKey ga + ga))
  else
    ((List.range len).map (fun i => tableGet o.fetched (ga + i) 0#8),
     ((wordsOf ga len).filter (fun w => o.fetchedBad.contains w)).map (fun w => 64 * w))

/-- The engine of R479 that reads for an opcode. -/
def engineOf (op : Nat) : Nat :=
  if op < 0x2000 then 0
  else if op < 0x4000 || op = 0x6002 then 4
  else if op = 0x4002 || op = 0x4003 then 3
  else if op = 0x4001 then 2
  else if op = 0x4000 then 8
  else if op < 0x6000 then 16
  else 6

/-- The event source of an operation's engine on its first field. -/
def opSource (o : Op) : Nat := 56 * o.fields.headD 0 + engineOf (recOp o.record)

/-- A tile as read: header, element bits, words of an L128 tile. -/
structure TileData where
  hdr : Header
  elems : Array Nat
  words : Array L128

/-- The tile that a flip finds beyond the stored grid: zeros (R238). -/
def TileData.zero (code : Nat) : TileData :=
  { hdr := { scales := plainScales, format := code, flags := 0, ceil := -32768, shape := 0, valid := 0, tid := 0, tidx := 0
             tail := List.replicate 8 0#8 }
    elems := (List.replicate 1024 0).toArray, words := (List.replicate 1024 L128.zero).toArray }

/-- A slot's contents as a tile. -/
def TileData.ofSlot (code : Nat) (slot : List Byte) : TileData :=
  { hdr := Header.parse slot
    elems := if code = 0x18 then #[] else unpackElems code (slot.drop 64)
    words := if code = 0x18 then unpackWords (slot.drop 64) else #[] }

/-- The place of a word of a peer as R513 encodes it; the pseudo-channel of a peer's HBM word is what that peer's map says, which the
spec does not state here (free, log 10). -/
def peerPlace (ga : Nat) : Nat :=
  if gaSpace ga = 1 then gaOffset ga / 2 ^ 32 * 65536 + resBank (gaOffset ga)
  else 2 ^ 63 + gaOffset ga / 2 ^ 36 + 256 * (Config.peerChannel ga).toNat

/-- A poisoned word at the lowest bad address stops the reader with one event (R513). -/
def poisonStop (s : State) (o : Op) (ga : Nat) (bad : List Nat) : Stop :=
  let w := bad.foldl min (bad.headD 0)
  if isLocal s.own ga then
    { status := stPoisoned
      events := [⟨memSource (gaSpace w) (gaOffset w), 2, 0x0A03, s.own * 2 ^ 48 + w % 2 ^ 48, s.placeOf (gaSpace w) (gaOffset w)⟩] }
  else { status := stPoisoned, events := [⟨opSource o, 2, 0x0A03, w, peerPlace w⟩] }

/-- Read a tile with the checks of R513, R514 and R211. -/
def readSlot (s : State) (o : Op) (code shape ga : Nat) : Except Stop TileData :=
  let (bytes, bad) := slotBytesOf s o ga (slotBytes code)
  if !bad.isEmpty then .error (poisonStop s o ga bad)
  else
    let (st, sealBad) := slotStatus code shape bytes
    if st = stOk then .ok (TileData.ofSlot code bytes)
    else if sealBad then
      .error { status := st, events := [⟨opSource o, 2, 0x0A02, named s.own ga, engineOf (recOp o.record)⟩] }
    else .error (Stop.plain st)

/-- A stop whose failing seal engine `e` of the reading field found (R530). -/
def Stop.atEngine (e : Nat) (x : Stop) : Stop :=
  { x with events := x.events.map (fun v => if v.code = 0x0A02 then { v with src := v.src / 56 * 56 + e, p1 := e } else v) }

/-- A stop whose failing seal engine `e` of field `f` found (R530). -/
def Stop.atUnit (f e : Nat) (x : Stop) : Stop :=
  { x with events := x.events.map (fun v => if v.code = 0x0A02 then { v with src := 56 * f + e, p1 := e } else v) }

/-- Read the tile of a view at tile coordinates. -/
def readTile (s : State) (o : Op) (d : Desc) (j : List Nat) : Except Stop TileData :=
  if d.offGrid j then .ok (TileData.zero d.code) else readSlot s o d.code d.shape (d.slotAddr j)

/-- A tensor as read: its view and its tiles by tile linear index. -/
structure Tens where
  d : Desc
  tiles : Array TileData

/-- Read every tile of a view, ascending tile linear index. -/
def readTensor (s : State) (o : Op) (d : Desc) : Except Stop Tens :=
  (d.allTiles.mapM (readTile s o d)).map (fun l => { d := d, tiles := l.toArray })

/-- Read every tile of a view, each by a field of its own (R216, R290): a failing check names the reader (R530). -/
def readTensorBy (s : State) (o : Op) (reader : List Nat → Nat) (d : Desc) : Except Stop Tens :=
  (d.allTiles.mapM (fun j => readTile s { o with fields := [reader j] } d j)).map (fun l => { d := d, tiles := l.toArray })

/-- The tile that holds a coordinate. -/
def Tens.tile (t : Tens) (x : List Nat) : TileData :=
  t.tiles.getD (t.d.tidx (t.d.tileOf x)) (TileData.zero t.d.code)

/-- The element bits at a coordinate: what the stored position holds, padding of the stored tensor too. DEDUCED (log 14): every writer
leaves zeros there (R168, R201), which is how R238 has it read. -/
def Tens.bits (t : Tens) (x : List Nat) : Nat := (t.tile x).elems.getD (t.d.pos x) 0

/-- The scale byte of the block that holds a coordinate (R51). -/
def Tens.scale (t : Tens) (x : List Nat) : Nat := ((t.tile x).hdr.scales.getD (t.d.pos x / 32) 0x7F#8).toNat

/-- The word at a coordinate of an L128 tensor. -/
def Tens.word (t : Tens) (x : List Nat) : L128 := (t.tile x).words.getD (t.d.pos x) L128.zero

/-- The anchor of the tile at a coordinate (R94). -/
def Tens.anchorAt (t : Tens) (x : List Nat) : Int := (t.tile x).hdr.anchor

/-- The exact value at a coordinate (R53); an L128 word is resolved (R81), its overflow read as an infinity of its sign. -/
def Tens.pre (t : Tens) (x : List Nat) : Pre :=
  if t.d.code = 0x18 then (t.word x).resolve (t.anchorAt x) else (elemVal t.d.code (t.scale x) (t.bits x)).pre

/-- The ceiling exponent of a tensor (R56). -/
def Tens.ceil (t : Tens) : Int := t.tiles.foldl (fun c d => max c d.hdr.ceil) (-32768)

/-- The anchors that a tensor's tiles carry; a tile beyond the stored grid is none (R205). -/
def Tens.anchors (t : Tens) : List Int :=
  (((t.d.allTiles.zip t.tiles.toList).filter (fun p => !t.d.offGrid p.1)).map (fun p => p.2.hdr.anchor)).eraseDups

/-! ## What an operation writes -/

/-- One tile slot on its way: address, bytes, words that carry poison, whether it is added, statistics record and counts,
step flags, the witness slot of a picked tile (R188), the field that writes it (R216, R414), and the positions at which an adder's own
check of an accumulate-write fails (R511). -/
structure Piece where
  ga : Nat
  slot : List Byte
  bad : List Nat
  acc : Bool
  stats : Option (Nat × StatRec)
  flags : Nat
  witness : Option (List Byte)
  field : Nat
  faults : List Nat := []
  deriving DecidableEq, Repr

/-- What an operation's work comes to: pieces in order, flags and events beside them, prism counts by field (tiles read,
tiles written, blocks requantized, bad indices), and the status it ends with. -/
structure Result where
  pieces : List Piece
  flags : Nat
  events : List Ev
  counts : List (Nat × Nat × Nat × Nat × Nat)
  status : Nat
  deriving DecidableEq, Repr

/-- A result that only writes. -/
def Result.of (ps : List Piece) : Result := { pieces := ps, flags := 0, events := [], counts := [], status := stOk }

/-- A result that only stops. -/
def Result.stop (x : Stop) : Result := { pieces := [], flags := 0, events := x.events, counts := [], status := x.status }

/-- A finished tile of an output view. -/
def pieceOf (f : Nat) (d : Desc) (j : List Nat) (acc : Bool) (t : TileOut) : Piece :=
  { ga := d.slotAddr j, slot := t.header.slot t.payload, bad := [], acc := acc, stats := some (d.stats, t.stats), flags := t.flags
    witness := none, field := f }

/-! ## Landing (R97, R98, R192, R195, R260, R338) -/

/-- Lens counts of a tile (R338). -/
def Lens.count (l : Lens) (d : StatRec) : Lens :=
  { l with valid := l.valid + d.valid, overs := l.overs + d.overflowed + d.saturated, vanish := l.vanish + d.flushed
           subnormal := l.subnormal + d.subnormal, nan := l.nan + d.nan, inf := l.inf + d.inf }

/-- Merge a tile's counts into its record, where its descriptor names one, and into the lens (R190, R192, R338). -/
def mergeStats (c : Nat) (step : U32) (idx : Nat) (d : StatRec) : Fx :=
  Fx.ctx c (fun x =>
    { x with stats := if 4095 < idx then x.stats else tablePut x.stats idx ((tableGet x.stats idx StatRec.zero).merge step d)
             lens := x.lens.count d })

/-- An operation has met a status that stops its writing. -/
def failOp (c : Nat) (seq : U32) (status : Nat) : Fx := onOp c seq (fun o => { o with status := BitVec.ofNat 16 status })

/-- A fault has touched an operation: it goes on, and ends with `POISONED` (R512). -/
def poisonOp (c : Nat) (seq : U32) : Fx :=
  (setFlags c 8).andThen (onOp c seq (fun o =>
    if o.phase = .landing then { o with status := if o.status = 0#16 then BitVec.ofNat 16 stPoisoned else o.status }
    else { o with poisoned := true }))

/-- Raise an operation's events (p2 is its sequence number, R530, R552). -/
def raiseEvs (c : Nat) (seq : U32) (l : List Ev) : Fx :=
  Fx.look fun s => Fx.each l (fun e => raise e.src e.cls e.code (s.who c) e.p0 e.p1 seq.toNat)

/-- An accumulate-write as it leaves the adders: the new slot, whether its header is poisoned, the positions whose check failed
(R91, R97, R512), and the step flags of the tags that its sums bear (R87). -/
structure AccTile where
  slot : List Byte
  poison : Bool
  faults : List Nat
  flags : Nat
  deriving DecidableEq, Repr

/-- The accumulate-write of one whole tile into stored bytes (R97, R98, R211): the new tile, or the status and whether the
seal failed; the adders' own checks fail at the positions `bad` (R511). DESIGN CHOICE (log 87): a poisoned incoming word is added as the
others are, and the tile's header is poisoned. -/
def accumulate (old incoming : List Byte) (bad : List Nat) : Except (Nat × Bool) AccTile :=
  let h := Header.parse old
  let g := Header.parse incoming
  let (st, sealBad) := slotStatus 0x18 g.shape old
  if st ≠ stOk then .error (st, sealBad)
  else if h.anchor ≠ g.anchor then .error (stAnchor, false)
  else
    let ps := (unpackWords (old.drop 64)).toList.zip (unpackWords (incoming.drop 64)).toList
    let ws := ps.mapIdx (fun i p => if bad.contains i then L128.poisoned else p.1.add p.2)
    let clean : Header := { h with flags := wordTileFlags ws, ceil := ceilOfWords h.anchor ws, tail := anchorTail h.anchor }
    .ok {
      slot := (if ws.any L128.poison then clean.poisoned else clean).slot (l128Payload ws)
      poison := ws.any L128.poison
      flags := ws.foldl (fun f w => f ||| tagFlags w.tag) 0
      faults := (List.range ps.length).filter (fun i => match ps[i]? with
        | some p => bad.contains i || p.1.addFault p.2
        | none => false) }

/-- The events of failing checks of an accumulate-write, at field `f` (R92, R530). DESIGN CHOICE (log 88): the place is basin row
`position / 32` and column `position mod 32` of tile row 0, the tile's own coordinates. -/
def accFaults (f : Nat) (l : List Nat) : List Ev :=
  l.map (fun i => ⟨56 * f + 2, 2, 0x0A01, 2, 256 * (i / 32) + 8192 * (i % 32)⟩)

/-- Write bytes of a slot to local memory; the words that carry poison are written as poison (R309, R401). -/
def writeLocal (key : Nat) (bytes : List Byte) (bad : List Nat) : Fx :=
  (Fx.memWrite key bytes).andThen (Fx.each bad (fun i => Fx.memPoison ((key / 64 + i) * 8) ((key / 64 + i) * 8 + 8)))

/-- The injection port of an operation: that of its first field (R414). -/
def State.opPort (s : State) (c : Nat) (seq : U32) : Nat :=
  match s.op? c seq with
  | some o => 32 + o.fields.headD (s.leadField (recGroup o.record))
  | none => hubPort

/-- Send a slot to a peer: WRITE packets, each acknowledged, or one ACC_WRITE tile with one acknowledgement (R401, R403). -/
def sendSlot (c : Nat) (seq : U32) (job : Nat) (p : Piece) : Fx :=
  Fx.look fun s =>
    let await := fun (tag : U32) => onOp c seq (fun o => { o with acks := o.acks ++ [tag] })
    -- R487: a transfer that no route can complete
    if (s.pathTo (32 + p.field) 1 (gaNode p.ga) job).isNone then failOp c seq stNoResource
    else if p.acc then
      let parts := cut512 64 0 p.slot
      withTag (fun tag => (await tag).andThen
        (Fx.each (parts.zip (List.range parts.length)) (fun q =>
          sendPacket (32 + p.field) (Packet.request 0x03 (gaNode p.ga) s.own job c (s.ctx c).gen.toNat tag.toNat (p.ga + q.1.1)
            (poisonBits p.bad q.1.1 + 256 * q.2) q.1.2))))
    else sendTile c (32 + p.field) job p.ga p.slot p.bad await

/-- A picked tile's witness slot: written to the context's area while it has room, else dropped; counted either way
(R188, R339, R340); an area whose memory serves no access ends the operation (R377). -/
def landWitness (c : Nat) (seq : U32) (slot : List Byte) : Fx :=
  Fx.look fun s =>
    let x := s.ctx c
    let off := gaOffset x.witnessBase.toNat + 4160 * x.witnessUsed
    if x.witnessUsed < x.witnessSlots then
      match s.access 0 off 4160 with
      | .stop st => failOp c seq st
      | _ => (Fx.memWrite (memKey 0 off) slot).andThen
        (Fx.ctx c (fun x => { x with witnessUsed := x.witnessUsed + 1, lens := { x.lens with picks := x.lens.picks + 1 } }))
    else Fx.ctx c (fun x => { x with lens := { x.lens with picks := x.lens.picks + 1, dropped := x.lens.dropped + 1 } })

/-- A whole tile of an accumulate-write enters a local L128 tile (R97, R98): the stored tile is read, and `booked` follows where the
sum is sound. DEDUCED (log 119): the step flags are those of the words sent and of the words formed (R87, R321). -/
def addLocalTile (c : Nat) (seq : U32) (o : Op) (p : Piece) (booked : Fx) : Fx :=
  Fx.look fun s =>
    let key := localKey p.ga
    let bad := (wordsOf key p.slot.length).filter (fun w => !s.mem.wordOk w)
    (touchRange key p.slot.length).andThen
      (if !bad.isEmpty then
        (raiseEvs c seq (poisonStop s o p.ga (bad.map (fun w => 64 * w - key + p.ga))).events).andThen (failOp c seq stPoisoned)
      else match accumulate (s.mem.bytes key p.slot.length) p.slot p.faults with
        | .ok new => Fx.all [
            Fx.memWrite key new.slot, raiseEvs c seq (accFaults p.field new.faults),
            if new.poison then poisonOp c seq else booked.andThen (setFlags c new.flags)]
        | .error (st, sealBad) =>
          (Fx.when sealBad (raiseEvs c seq [⟨56 * p.field + 2, 2, 0x0A02, named s.own p.ga, 2⟩])).andThen (failOp c seq st))

/-- The engine whose progress a written tile shows (R479), none for movers and sluices. -/
def tileEngine (op : Nat) : Option Nat :=
  match engineOf op with
  | 0 | 2 => some 2
  | 3 => some 3
  | 4 => some 4
  | _ => none

/-- Land one piece of an operation that has not failed: it waits for a set that is coming on, and memory that no longer serves it ends
the operation (R364, R377). -/
def landPiece (c : Nat) (seq : U32) (p : Piece) : Fx :=
  Fx.look fun s =>
    match s.op? c seq with
    | none => Fx.skip
    | some o =>
      if o.status ≠ 0#16 then Fx.skip
      else
        let booked := ((match p.stats with
          | some (i, d) => mergeStats c o.step i d
          | none => Fx.skip).andThen (match tileEngine (recOp o.record) with
          | some e => progress p.field e
          | none => Fx.skip)).andThen ((setFlags c p.flags).andThen (match p.witness with
          | some w => landWitness c seq w
          | none => Fx.skip))
        if isLocal s.own p.ga then
          match s.access (gaSpace p.ga) (gaOffset p.ga) p.slot.length with
          | .stop st => failOp c seq st
          | _ => (awaitSets (gaSpace p.ga) (gaOffset p.ga) p.slot.length).andThen
              (if p.acc then addLocalTile c seq o p booked else (writeLocal (localKey p.ga) p.slot p.bad).andThen booked)
        else if gaSpace p.ga = 3 && (gaNode p.ga = 0xFFFF || gaNode p.ga = s.own) then
          match s.window? (gaOffset p.ga) p.slot.length with
          | some w => (Fx.emit (.rdmaWrite w.qp w.key (w.va.toNat + gaOffset p.ga % 2 ^ 40) p.slot)).andThen booked
          | none => failOp c seq stBadParam
        else (sendSlot c seq (s.ctx c).job.toNat p).andThen booked

/-- Add prism counts to a field (R229, R230). -/
def countPrism (e : Nat × Nat × Nat × Nat × Nat) : Fx :=
  let (f, rd, wr, rq, bi) := e
  Fx.field f (fun g => { g with tilesRead := g.tilesRead + BitVec.ofNat 32 rd, tilesWritten := g.tilesWritten + BitVec.ofNat 32 wr
                                requant := g.requant + BitVec.ofNat 32 rq, badIndex := satAdd 65535 g.badIndex bi })

/-- Everything an operation's work does: pieces land in order until one stops the operation; its writes are then landing
(R195, R260). -/
def applyResult (c : Nat) (seq : U32) (r : Result) : Fx :=
  Fx.all [
    Fx.each r.pieces (landPiece c seq),
    setFlags c r.flags,
    Fx.each r.counts countPrism,
    raiseEvs c seq r.events,
    onOp c seq (fun o =>
      { o with status := if o.status = 0#16 then BitVec.ofNat 16 (if r.status = 0 && o.poisoned then stPoisoned else r.status)
                         else o.status
               phase := .landing })]

/-! ## Dividing work among fields (R216) -/

/-- The field of supertile `i` of `n` among the fields `fs` (R216). -/
def fieldOfPart (fs : List Nat) (n i : Nat) : Nat := fs.getD (i / ceilDiv n fs.length) (fs.headD 0)

/-- The field that writes a tile of an output view. -/
def fieldOfTile (fs : List Nat) (d : Desc) (j : List Nat) : Nat := fieldOfPart fs (prod d.superGrid) (d.superOf j)

/-- The field that reads a tile of an operand first: the one that writes the output tile of the operand tile's first element,
whose coordinates `at'` gives (R216; log 91). -/
def readerOf (o : Op) (out d : Desc) (at' : List Nat → List Nat) (j : List Nat) : Nat :=
  fieldOfTile o.fields out (out.tileOf (at' (d.coordAt j 0)))

/-! ## Output views -/

/-- Values by stored position of a tile of an output view: padding stays empty (R168). -/
def gatherTile {α : Type} (d : Desc) (j : List Nat) (f : List Nat → α) : List (Option α) :=
  let els := (d.elems j).map (fun p => (p.1, f p.2))
  let arr := els.foldl (fun (a : Array (Option α)) p => a.setIfInBounds p.1 (some p.2)) (List.replicate 1024 none).toArray
  arr.toList

/-- Random bits by stored position of a tile (R179), drawn only under SR. -/
def srTile (cfg : RoundCfg) (seed tid step : Nat) (d : Desc) (j : List Nat) : List Nat :=
  if cfg.mode = .sr then (gatherTile d j (fun x => srBits seed tid step (d.linear x))).map (fun o => o.getD 0)
  else List.replicate 1024 0

/-- The seed an issued operation draws from (R177, R257). -/
def Op.rand (o : Op) : Nat × Nat := (o.seed.toNat, o.step.toNat)

/-- Round a tile of values into a stored output (R167, R300). -/
def storeTile (o : Op) (cfg : RoundCfg) (d : Desc) (j : List Nat) (f : List Nat → Pre) : TileOut :=
  weirTile (d.dest j) cfg (srTile cfg o.seed.toNat d.tid o.step.toNat d j) (gatherTile d j f)

/-! ## Poisoned outputs and witness picks -/

/-- A word of an L128 input carries poison (R89, R517). -/
def Tens.poisonAt (t : Tens) (x : List Nat) : Bool := t.d.code = 0x18 && (t.word x).poison

/-- A value as FP32 (R188); a result of zero is +0 (R40). DESIGN CHOICE (log 89): an overflowed word or a value beyond FP32 is an
infinity of its sign, and OVFX is NaN. -/
def fp32OfPre (p : Pre) : Nat :=
  match p with
  | .fin q => if fp32Of false q = 2 ^ 31 then 0 else fp32Of false q
  | .nan | .ovfx => fp32Nan
  | .pinf | .ovfp => fp32Inf
  | .ninf | .ovfn => fp32NegInf

/-- A format narrower than FP32, which the sampler draws for (R188): S40 lo with its 24 bits too. -/
def sampled (code : Nat) : Bool := elemBits code < 32

/-- The sampler's draw for an output tile (R188). -/
def picked (x : Ctx) (o : Op) (d : Desc) (tidx : Nat) : Bool :=
  sampled d.code && gen o.seed.toNat (d.tid % 2 ^ 32) o.step.toNat (2 ^ 63 + tidx) % 2 ^ x.witnessLog2 = 0

/-- A witness slot (R339): a sealed header with format, tensor ID, tile linear index and, in bytes 56 to 60, the step
counter and the rounding of the record (log 15), then 1,024 FP32 values. -/
def witnessSlot (o : Op) (d : Desc) (j : List Nat) (h : Header) (f : List Nat → Pre) : List Byte :=
  Header.slot { h with scales := plainScales, flags := 0, tail := leBytes 4 o.step.toNat ++ leBytes 1 (recMode o.record % 64) ++ List.replicate 3 0#8 }
    (packElems 0x00 ((gatherTile d j (fun y => fp32OfPre (f y))).map (fun v => v.getD 0)))

/-- The tiles of an operation's output as they leave the weir: a poisoned header where an element depends on a poisoned
word (R194, R512), else the tile, with a witness slot where the sampler picks it (R188). A poisoned L128 tile keeps its anchor (R94).
DESIGN CHOICE (log 90): the sampler picks no tile of a bad verdict. -/
def weirPiece (x : Ctx) (o : Op) (d : Desc) (j : List Nat) (acc : Bool) (bad : List Nat → Bool) (f : List Nat → Pre)
    (t : TileOut) : Piece :=
  if (d.elems j).any (fun p => bad p.2) then
    { ga := d.slotAddr j, slot := t.header.poisoned.slot t.payload, bad := [], acc := acc, stats := none, flags := 8
      witness := none, field := fieldOfTile o.fields d j }
  else
    { pieceOf (fieldOfTile o.fields d j) d j acc t with
      witness := if picked x o d (d.tidx j) then some (witnessSlot o d j t.header f) else none }

/-- The result of output tiles of which some may be poisoned. -/
def Result.ofTiles (ps : List Piece) : Result :=
  { Result.of ps with status := if ps.any (fun p => p.stats.isNone && p.flags = 8) then stPoisoned else stOk }

/-- The tiles up to the first that depends on a poisoned word which the operation read: it writes no payload behind that one (R517). -/
def upToPoison (p : List Nat → Bool) (l : List (List Nat)) : List (List Nat) :=
  l.takeWhile (fun j => !p j) ++ (l.dropWhile (fun j => !p j)).take 1

/-- An element of a tile meets a condition. -/
def Desc.anyIn (d : Desc) (p : List Nat → Bool) (j : List Nat) : Bool := (d.elems j).any (fun e => p e.2)

/-- A result, or the stop that reading met. -/
def orStop (r : Except Stop Result) : Result :=
  match r with
  | .ok x => x
  | .error e => Result.stop e

/-! ## Words into outputs: the epilogue (R167, R181 to R186) -/

/-- A value entering a window (R73, R182); the tags of a resolved word keep their meaning. -/
def enterPre (anchor : Int) (p : Pre) : L128 :=
  match p with
  | .fin q => enterRat anchor q
  | .pinf => L128.special .pinf
  | .ninf => L128.special .ninf
  | .nan => L128.special .nan
  | .ovfp => L128.special .ovfp
  | .ovfn => L128.special .ovfn
  | .ovfx => L128.special .ovfx

/-- A value as an operand of the epilogue multiplication. DESIGN CHOICE (log 110): an overflowed word of an L128 operand is an infinity
of its sign, and OVFX is NaN. -/
def Pre.val (p : Pre) : Val :=
  match p with
  | .fin q => .fin q
  | .pinf | .ovfp => .pinf
  | .ninf | .ovfn => .ninf
  | .nan | .ovfx => .nan

/-- An element's epilogue operand is a poisoned word (R517). -/
def epiPoison (kind : Nat) (epi : Option Tens) (y : List Nat) : Bool := kind ≠ 0 && epi.any (fun t => t.poisonAt y)

/-- A word after the epilogue addition (R182); a poisoned operand word poisons it under either epilogue (R89). DESIGN CHOICE (log 110):
an L128 operand of another anchor is resolved and enters the window as any element does. -/
def epiWord (kind : Nat) (epi : Option Tens) (anchor : Int) (y : List Nat) (w : L128) : L128 :=
  match epi with
  | some t =>
    if epiPoison kind epi y then L128.poisoned else if kind = 1 then w.add (enterPre anchor (t.pre y)) else w
  | none => w

/-- A word behind the epilogue addition, resolved, after the epilogue multiplication (R183). -/
def epiPre (kind : Nat) (epi : Option Tens) (anchor : Int) (y : List Nat) (w : L128) : Pre :=
  let p := w.resolve anchor
  match epi with
  | some t => if kind = 2 then mulPre p (t.pre y).val else p
  | none => p

/-- The positions of a tile at which a check of the operation's own accumulate-write fails: its sites behind those of its output's
elements (R511; log 88). -/
def Op.accFaults (o : Op) (d : Desc) (j : List Nat) : List Nat :=
  ((d.elems j).filter (fun e => o.faults.any (fun z => z.element == prod d.ext + d.linear e.2))).map Prod.fst

/-- A residue check of the operation's own additions fails at an output element (R91, R511). -/
def Op.failsAt (o : Op) (d : Desc) (y : List Nat) : Bool := o.faults.any (fun z => z.element == d.linear y)

/-- The events of the residue checks that fail in an operation's own additions for a tile that it writes (R92, R512, R530), at the field
that `writer` gives. DESIGN CHOICE (log 88): the place is 0. -/
def tileFaults (o : Op) (d : Desc) (writer : List Nat → Nat) (j : List Nat) : List Ev :=
  (d.elems j).flatMap (fun e => (o.faults.filter (fun z => z.element == d.linear e.2)).map (fun z =>
    (⟨56 * writer j + z.engine, 2, 0x0A01, z.engine, 0⟩ : Ev)))

/-- One output tile of words under an anchor: unrounded export for L128, else epilogue, resolution and rounding. -/
def wordsPiece (x : Ctx) (o : Op) (d : Desc) (epi : Option Tens) (anchor : Int) (j : List Nat) (f : List Nat → L128) : Piece :=
  let r := o.record
  let kind := recEpilogue r
  let word := fun y => if o.failsAt d y then L128.poisoned else epiWord kind epi anchor y (f y)
  let bad := fun y => (word y).poison
  let pre := fun y => epiPre kind epi anchor y (word y)
  if d.code = 0x18 then
    { weirPiece x o d j (recAccWrite r) bad pre (wordTile (d.dest j) anchor (gatherTile d j word)) with faults := o.accFaults d j }
  else weirPiece x o d j false bad pre (storeTile o (exportRound d.code (recRound r)) d j pre)

/-- The epilogue operand of a record. -/
def readEpi (s : State) (c : Nat) (o : Op) : Except Stop (Option Tens) :=
  if recEpilogue o.record = 0 then .ok none
  else
    let x := s.ctx c
    let e := x.desc (recEpi o.record)
    ((readTensorBy s o (readerOf o (x.desc (recOut o.record)) e id) e).mapError (Stop.atEngine 2)).map some

/-- Two views agree in rank and extents. -/
def sameExtents (a b : Desc) : Bool := a.rank = b.rank && a.ext = b.ext

/-- The issue checks of an epilogue (R181, R184, R60). DESIGN CHOICE (log 111): an operand of another rank or other extents gives
`BAD_PARAM`. -/
def epiCheck (x : Ctx) (r : List Byte) : Nat :=
  if recEpilogue r = 0 then stOk
  else
    let e := x.desc (recEpi r)
    let out := x.desc (recOut r)
    if e.code = 0x19 then stFormat
    else if !sameExtents e out || (recEpilogue r = 2 && out.code = 0x18) then stBadParam
    else stOk

end Sys2Proof.Machine
end

