-- ==== Sys2Proof/Machine/Tables.lean ====
section
/-! DEFINITION. The error bounds of the table functions (09 R303): each exact function to 400 binary places, and the test that a
table's bits lie within the stated bound of it. Bits outside the bound count as no bits of a table (log 13). -/
namespace Sys2Proof.Machine

/-! ## Fixed point with 400 binary places -/

/-- One. -/
def fxOne : Int := 2 ^ 400

/-- A rational in fixed point. -/
def fxOf (q : Rat) : Int := (q.num * fxOne) / q.den

/-- The rational that a fixed-point number stands for. -/
def fxRat (a : Int) : Rat := (a : Rat) / (fxOne : Rat)

def fxMul (a b : Int) : Int := a * b / fxOne
def fxDiv (a b : Int) : Int := a * fxOne / b

/-- e^x for |x| ≤ 128: the series at x / 256, squared eight times. -/
def fxExp (x : Int) : Int :=
  let r := x / 256
  let series := (List.range 80).foldl (fun (p : Int × Int) k =>
    let t := fxMul p.1 r / ((k + 1 : Nat) : Int)
    (t, p.2 + t)) (fxOne, fxOne)
  (List.range 8).foldl (fun v _ => fxMul v v) series.2

/-- The odd series Σ s^k t^(2k+1) / (2k+1): artanh for s = 1, arctan for s = −1. -/
def fxOdd (s : Int) (n : Nat) (t : Int) : Int :=
  ((List.range n).foldl (fun (p : Int × Int) k =>
    (s * fxMul (fxMul p.1 t) t, p.2 + p.1 / ((2 * k + 1 : Nat) : Int))) (t, 0)).2

/-- ln q for q > 0, by q = 2^e m with 1 ≤ m < 2. -/
def fxLn (q : Rat) : Int :=
  let e := floorLog2 q
  let m := q / pow2 e
  2 * fxOdd 1 140 (fxOf ((m - 1) / (m + 1))) + e * (2 * fxOdd 1 140 (fxOne / 3))

/-- π. -/
def fxPi : Int := 16 * fxOdd (-1) 100 (fxOne / 5) - 4 * fxOdd (-1) 40 (fxOne / 239)

/-- A square root. -/
def fxSqrt (a : Int) : Int := (Nat.sqrt (a * fxOne).toNat : Nat)

/-- 1 / (1 + e^−x): beyond ±128 it lies just below 1 or, also as a part of x, just above 0, as the exact result does (R303). -/
def fxSigmoid (x : Rat) : Rat :=
  if 128 ≤ x then 1 - pow2 (-180) else if x ≤ -128 then pow2 (-400) / (-x) else fxRat (fxDiv fxOne (fxOne + fxExp (fxOf (-x))))

/-- The standard normal distribution function, for |x| ≤ 8. -/
def fxNormal (x : Rat) : Int :=
  let a := fxOf x
  let h := -(fxMul a a) / 2
  let series := (List.range 300).foldl (fun (p : Int × Int) k =>
    (fxMul p.1 h / ((k + 1 : Nat) : Int), p.2 + p.1 / ((2 * k + 1 : Nat) : Int))) (a, 0)
  fxOne / 2 + fxDiv series.2 (fxSqrt (2 * fxPi))

/-! ## Exact functions and bounds (R301, R303) -/

/-- The exact function of an operation code at a finite argument (R301); an exponential beyond 128 counts as 2^184, one below −128 as
2^−400, and a hyperbolic tangent near 0 is its series' first two terms. -/
def exactFn (f : Nat) (x : Rat) : Rat :=
  match f with
  | 0x10 => if 128 ≤ x then pow2 184 else if x ≤ -128 then pow2 (-400) else fxRat (fxExp (fxOf x))
  | 0x11 => fxRat (fxLn x)
  | 0x13 => fxRat (fxSqrt (fxOf (1 / x)))
  | 0x14 => if ratAbs x < pow2 (-60) then x - x * x * x / 3 else 2 * fxSigmoid (2 * x) - 1
  | 0x15 => fxSigmoid x
  | 0x16 => x * fxSigmoid x
  | _ => x * fxSigmoid (2 * (fxRat (fxSqrt (fxDiv (2 * fxOne) fxPi)) * (x + 44715 / 1000000 * x * x * x)))

/-- The largest error of R303 at an exact result. -/
def errorBound (f : Nat) (exact : Rat) : Rat :=
  let ulp := pow2 (if exact = 0 then -149 else quantumExp 23 127 (ratAbs exact))
  let n : Rat := match f with
    | 0x10 | 0x11 | 0x13 => 1
    | 0x14 | 0x15 => 2
    | _ => 3
  if f = 0x17 then max (n * ulp) (pow2 (-126)) else n * ulp

/-- FP32 bits lie within the bound of an exact result; a result at or above 2^128 is an infinity (R302). -/
def withinBound (f : Nat) (exact : Rat) (bits : Nat) : Bool :=
  match fp32Val bits with
  | .fin q => ratAbs exact < pow2 128 && ratAbs (q - exact) ≤ errorBound f exact
  | .pinf => pow2 128 ≤ exact + errorBound f exact
  | .ninf => exact - errorBound f exact ≤ -pow2 128
  | .nan => false

/-- The result of a table function at a finite argument: the table's bits where they obey the bound (R303). -/
def tableBits (f : Nat) (x : Rat) (bits : Nat) : Nat :=
  let e := exactFn f x
  if withinBound f e bits then bits else fp32Of false e

/-! ## The inverse normal (R303, R307) -/

/-- The normal distribution function, 0 and 1 beyond ±8. -/
def normalCdf (x : Rat) : Rat := if x ≤ -8 then 0 else if 8 ≤ x then 1 else fxRat (fxNormal x)

/-- Bits lie within 2^−20 × (1 + |z|) of the z whose distribution is u: the ends of that range of z enclose it. -/
def withinNormal (u : Rat) (bits : Nat) : Bool :=
  match fp32Val bits with
  | .fin y =>
    let d := pow2 (-20)
    let wide := fun (p : Rat) => if 0 ≤ p then p / (1 - d) else p / (1 + d)
    normalCdf (-(wide (d - y))) ≤ u && u ≤ normalCdf (wide (y + d))
  | _ => false

/-- The z whose distribution is u, to 2^−44, by bisection. -/
def exactNormal (u : Rat) : Rat :=
  let r := (List.range 48).foldl (fun (p : Rat × Rat) _ =>
    let m := (p.1 + p.2) / 2
    if normalCdf m ≤ u then (m, p.2) else (p.1, m)) ((-8, 8) : Rat × Rat)
  r.1

/-- The inverse normal at u, strictly between 0 and 1: the table's bits where they obey the bound. -/
def normalBits (u : Rat) (bits : Nat) : Nat := if withinNormal u bits then bits else fp32Of false (exactNormal u)

end Sys2Proof.Machine
end

