-- ==== Sys2Proof/Machine/Vector.lean ====
section
/-! DEFINITION. The vector unit and the plain writers: VECTOR (09 R298 to R304), CONVERT (R306), RANDOM (R307), FILL (R310),
with the table functions of R303 and the anchors of an operation (03 R67 to R69). -/
namespace Sys2Proof.Machine

/-! ## Anchors of an operation (R67, R252, R253) -/

/-- A keeper entry's 32 bytes (R333). -/
def Ctx.entry (x : Ctx) (i : Nat) : List Byte := tableGet x.keeper i (List.replicate 32 0#8)

/-- The one anchor that every tile of a destination carries (R69). -/
def destAnchor (s : State) (o : Op) (out : Desc) : Except Stop Int :=
  if out.code ≠ 0x18 then .error (Stop.plain stBadParam)
  else do
    let t ← readTensor s o out
    match t.anchors with
    | [a] => .ok a
    | _ => .error (Stop.plain stAnchor)

/-- The anchor that a record's mode gives, with the opcode's own default (R67): a keeper's from the table of the issue (R545), a
destination's as the operation started (R253). DESIGN CHOICE (log 92): a keeper's anchor is used as it stands, also outside
−2,048 to 2,047. -/
def anchorFor (s : State) (c : Nat) (o : Op) (out : Desc) (dflt : Int) : Except Stop Int :=
  match recAnchorMode o.record with
  | 0 => .ok dflt
  | 1 => .ok (signedOf 16 (recAnchorValue o.record))
  | 2 => .ok (fieldS ((s.ctx c).entry (recAnchorValue o.record)) 2 2)
  | _ => match o.dest with
    | some a => .ok a
    | none => destAnchor s o out

/-- The default anchor of single terms of a tensor (R68, R70, R288). -/
def termAnchor (code : Nat) (ceil : Int) (square : Bool) : Int :=
  if plainInt code then 96 else if ceil = -32768 then 0 else if square then 2 * ceil - 1 else ceil - 1

/-! ## Table functions (R303) -/

/-- A table function with its special inputs; the remaining bits come from the loaded image's table, within the bounds of
R303 (log 13). -/
def tableFn (f : Nat) (rev : U16) (a : Nat) : Nat :=
  let one := 0x3F800000
  match fp32Val a with
  | .nan => fp32Nan
  | .pinf => match f with
    | 0x13 | 0x12 => 0
    | 0x14 | 0x15 => one
    | _ => fp32Inf
  | .ninf => match f with
    | 0x10 | 0x15 | 0x16 | 0x17 => 0
    | 0x12 => 2 ^ 31
    | 0x14 => one + 2 ^ 31
    | _ => fp32Nan
  | .fin q =>
    let neg := bitOf a 31
    let t := fun (g : BitVec 16 → BitVec 32 → BitVec 32) => tableBits f q (g rev (BitVec.ofNat 32 a)).toNat
    match f with
    | 0x10 => if q = 0 then one else t Config.expTable
    | 0x11 => if q = 0 then fp32NegInf else if q < 0 then fp32Nan else if q = 1 then 0 else t Config.logTable
    | 0x12 => if q = 0 then (if neg then fp32NegInf else fp32Inf) else fp32Of neg (1 / q)
    | 0x13 => if q = 0 then fp32Inf else if q < 0 then fp32Nan else t Config.rsqrtTable
    | 0x14 => t Config.tanhTable
    | 0x15 => t Config.sigmoidTable
    | 0x16 => t Config.siluTable
    | _ => t Config.geluTable

/-- The loaded function-table revision (R303, R579). -/
def State.tableRev (s : State) : U16 := s.hub.tableRev

/-! ## Lane operations on FP32 registers (R301, R302) -/

/-- A NaN leaves an instruction as the canonical one (R302). -/
def canon (a : Nat) : Nat := if fp32Val a = .nan then fp32Nan else a

def laneNeg (a : Nat) : Nat := canon (if bitOf a 31 then a - 2 ^ 31 else a + 2 ^ 31)
def laneAbs (a : Nat) : Nat := canon (a % 2 ^ 31)

/-- A sum with the sign that an exact zero takes: negative only when both terms are −0 (R302). -/
def laneAdd (a b : Nat) : Nat :=
  match fp32Val a, fp32Val b with
  | .nan, _ => fp32Nan
  | _, .nan => fp32Nan
  | .pinf, .ninf => fp32Nan
  | .ninf, .pinf => fp32Nan
  | .pinf, _ => fp32Inf
  | _, .pinf => fp32Inf
  | .ninf, _ => fp32NegInf
  | _, .ninf => fp32NegInf
  | .fin p, .fin q => fp32Of (p = 0 && q = 0 && bitOf a 31 && bitOf b 31) (p + q)

def laneMul (a b : Nat) : Nat :=
  let neg := bitOf a 31 != bitOf b 31
  match mulVal (fp32Val a) (fp32Val b) with
  | .fin q => fp32Of neg q
  | v => fp32OfVal v

/-- a × b + c rounded once (R301). -/
def laneFma (a b c : Nat) : Nat :=
  match mulVal (fp32Val a) (fp32Val b), fp32Val c with
  | .fin p, .fin q => fp32Of (p = 0 && q = 0 && (bitOf a 31 != bitOf b 31) && bitOf c 31) (p + q)
  | .fin _, v => fp32OfVal v
  | v, .fin _ => fp32OfVal v
  | v, w => if v = w then fp32OfVal v else fp32Nan

/-- a lies below b, with −0 below +0 and infinities at the ends (R302). -/
def laneBelow (a b : Nat) : Bool :=
  match fp32Val a, fp32Val b with
  | .fin p, .fin q => p < q || (p = 0 && q = 0 && bitOf a 31 && !bitOf b 31)
  | .ninf, .ninf => false
  | .ninf, _ => true
  | _, .pinf => fp32Val a != .pinf
  | _, _ => false

def laneMin (a b : Nat) : Nat :=
  if fp32Val a = .nan || fp32Val b = .nan then fp32Nan else if laneBelow b a then b else a
def laneMax (a b : Nat) : Nat :=
  if fp32Val a = .nan || fp32Val b = .nan then fp32Nan else if laneBelow a b then b else a

/-- a is greater than 0 (R302: −0 and NaN are not). -/
def lanePos (a : Nat) : Bool :=
  match fp32Val a with
  | .fin q => 0 < q
  | .pinf => true
  | _ => false

/-- Dropout (R304): `w` is the generator's draw. -/
def laneDrop (a b c w : Nat) : Nat :=
  match fp32Val b with
  | .fin p => if p < 0 || 1 < p then fp32Nan else if (w : Int) < (p * 2 ^ 32).floor then laneMul a c else 0
  | _ => fp32Nan

/-- One instruction word on the registers (R299, R301). -/
def laneStep (rev : U16) (draw : Nat) (regs : List Nat) (w : Nat) : List Nat :=
  let a := regs.getD (bitsOf w 16 3) 0
  let c := regs.getD (bitsOf w 20 3) 0
  let b := regs.getD (bitsOf w 24 3) 0
  let v := match w % 256 with
    | 0x01 => laneAdd a b
    | 0x02 => laneAdd a (laneNeg b)
    | 0x03 => laneMul a b
    | 0x04 => laneFma a b c
    | 0x05 => laneMin a b
    | 0x06 => laneMax a b
    | 0x07 => laneAbs a
    | 0x08 => laneNeg a
    | 0x09 => canon (if lanePos a then b else c)
    | 0x20 => laneDrop a b c draw
    | f => tableFn f rev a
  regs.set (bitsOf w 8 3) v

/-- An input element as an FP32 register (R300, R302): exact, or an L128 word resolved and rounded. DESIGN CHOICE (log 118): an element
that no FP32 value equals rounds to nearest even, and beyond the format to an infinity. -/
def Tens.fp32 (t : Tens) (x : List Nat) : Nat :=
  match t.pre x with
  | .fin q =>
    let neg := match formatKind t.d.code with
      | some (.float e m _ _ _) => bitOf (t.bits x) (e + m)
      | _ => false
    fp32Of neg q
  | .nan | .ovfx => fp32Nan
  | .pinf | .ovfp => fp32Inf
  | .ninf | .ovfn => fp32NegInf

/-- A register as a value before the last rounding (R300). -/
def regPre (a : Nat) : Pre := (fp32Val a).pre

/-! ## VECTOR -/

/-- The words of a program. -/
def programOf (r : List Byte) : List Nat := (List.range (recParam r 32 1)).map (fun i => recParam r (52 + 4 * i) 4)

/-- r0 after a program on one element (R300). -/
def runProgram (rev : U16) (prog consts ins : List Nat) (draw : Nat) : Nat :=
  (prog.foldl (laneStep rev draw) ((List.range 4).map (fun i => ins.getD i 0) ++ consts)).headD 0

/-- VECTOR's work (R300 to R304). -/
def vectorWork (s : State) (c : Nat) (o : Op) : Result := orStop do
  let x := s.ctx c
  let r := o.record
  let out := x.desc (recOut r)
  let ts ← ((List.range 4).filter (fun i => recIn r i ≠ 0xFFFF)).mapM (fun i =>
    let d := x.desc (recIn r i)
    readTensorBy s o (readerOf o out d id) d)
  let consts := (List.range 4).map (fun i => recParam r (36 + 4 * i) 4)
  let prog := programOf r
  let drops := prog.any (fun w => w % 256 = 0x20)
  let elem := fun y =>
    let draw := if drops then gen o.seed.toNat (out.tid % 2 ^ 32) o.step.toNat (2 ^ 62 + out.linear y) else 0
    regPre (runProgram s.tableRev prog consts (ts.map (fun t => t.fp32 y)) draw)
  let dirty := fun y => ts.any (fun t => t.poisonAt y)
  .ok (Result.ofTiles ((upToPoison (out.anyIn dirty) out.outTiles).map (fun j =>
    weirPiece x o out j false dirty elem (storeTile o (recRound r) out j elem))))

/-- The issue checks of VECTOR (R300). -/
def vectorCheck (x : Ctx) (r : List Byte) : Nat :=
  let out := x.desc (recOut r)
  let ins := ((List.range 4).filter (fun i => recIn r i ≠ 0xFFFF)).map (fun i => x.desc (recIn r i))
  if out.code = 0x18 || out.code = 0x19 || ins.any (fun d => d.code = 0x19) then stFormat
  else if ins.all (fun d => sameExtents d out) then stOk else stBadParam

/-! ## CONVERT -/

/-- The value of an S40 pair at a coordinate (R57, R60). -/
def pairVal (hi lo : Tens) (x : List Nat) : Val := s40Val (hi.bits x) (lo.bits x)

/-- One tile of an output whose values enter an L128 window (R73, R306) or round into a stored format. -/
def valueTile (o : Op) (cfg : RoundCfg) (out : Desc) (anchor : Int) (j : List Nat) (f : List Nat → Pre) : TileOut :=
  if out.code = 0x18 then
    wordTile (out.dest j) anchor (gatherTile out j (fun y => enterPre anchor (f y)))
  else storeTile o cfg out j f

/-- CONVERT's work (R306). DESIGN CHOICE (log 93): a default anchor outside −2,048 to 2,047 is used as it comes. -/
def convertWork (s : State) (c : Nat) (o : Op) : Result := orStop do
  let x := s.ctx c
  let r := o.record
  let out := x.desc (recOut r)
  let by' := fun (d : Desc) => readTensorBy s o (readerOf o out d id) d
  let t ← by' (x.desc (recIn r 0))
  let lo ← if recIn r 1 = 0xFFFF then .ok none else (by' (x.desc (recIn r 1))).map some
  let a ← anchorFor s c o out (if out.code = 0x18 && t.ceil ≠ -32768 then t.ceil - 1 else 0)
  let elem := fun y => match lo with
    | some l => (pairVal t l y).pre
    | none => t.pre y
  .ok (Result.ofTiles ((upToPoison (out.anyIn t.poisonAt) out.outTiles).map (fun j =>
    { weirPiece x o out j (recAccWrite r) t.poisonAt elem (valueTile o (recRound r) out a j elem) with
      faults := if recAccWrite r then o.accFaults out j else [] })))

/-- The issue checks of CONVERT (R306, R59). -/
def convertCheck (x : Ctx) (r : List Byte) : Nat :=
  let out := x.desc (recOut r)
  let a := x.desc (recIn r 0)
  let b := x.desc (recIn r 1)
  let pair := recIn r 1 ≠ 0xFFFF
  if out.code = 0x19 || a.code = 0x19 then stFormat
  else if pair && (a.code ≠ 0x01 || b.code ≠ 0x19) then stBadParam
  else if !sameExtents a out || (pair && (!sameExtents b a || b.shape ≠ a.shape)) then stBadParam
  else stOk

/-! ## RANDOM -/

/-- RANDOM's value for a draw (R307). -/
def randomVal (rev : U16) (dist : Nat) (p0 p1 : Rat) (w : Nat) : Val :=
  match dist with
  | 0 => match rne32 (p1 - p0) with
    | .fin d => .fin (d * ((w / 256 : Nat) : Rat) * pow2 (-24) + p0)
    | .pinf => if w / 256 = 0 then .nan else .pinf
    | .ninf => if w / 256 = 0 then .nan else .ninf
    | .nan => .nan
  | 1 => match fp32Val (normalBits (((w : Rat) + 1 / 2) * pow2 (-32)) (Config.invNormTable rev (BitVec.ofNat 32 w)).toNat) with
    | .fin z => .fin (p0 + p1 * z)
    | v => v
  | _ => .fin (if (w : Int) < (p0 * 2 ^ 32).floor then 1 else 0)

/-- A finite FP32 parameter's value. -/
def finOf (bits : Nat) : Rat :=
  match fp32Val bits with
  | .fin q => q
  | _ => 0

/-- An FP32 parameter is finite. -/
def isFin32 (bits : Nat) : Bool :=
  match fp32Val bits with
  | .fin _ => true
  | _ => false

/-- RANDOM's work (R307). -/
def randomWork (s : State) (c : Nat) (o : Op) : Result :=
  let r := o.record
  let x := s.ctx c
  let out := x.desc (recOut r)
  let elem := fun y =>
    (randomVal s.tableRev (recParam r 32 1) (finOf (recParam r 36 4)) (finOf (recParam r 40 4))
      (gen o.seed.toNat (out.tid % 2 ^ 32) o.step.toNat (out.linear y))).pre
  Result.of (out.outTiles.map (fun j => weirPiece x o out j false (fun _ => false) elem (storeTile o (recRound r) out j elem)))

/-- The issue checks of RANDOM (R307, R308). -/
def randomCheck (x : Ctx) (r : List Byte) : Nat :=
  let out := x.desc (recOut r)
  if 2 < recParam r 32 1 || recMode r % 8 = 4 || !isFin32 (recParam r 36 4) || !isFin32 (recParam r 40 4) then stBadParam
  else if out.code = 0x18 || out.code = 0x19 then stFormat
  else stOk

/-! ## FILL -/

/-- FILL's work (R310, R96). -/
def fillWork (s : State) (c : Nat) (o : Op) : Result := orStop do
  let r := o.record
  let x := s.ctx c
  let out := x.desc (recOut r)
  let a ← anchorFor s c o out 0
  let v : Pre := match formatKind out.code with
    | some (.int _) => .fin (fieldS r 32 4 : Int)
    | some .l128 => .fin 0
    | _ => (fp32Val (recParam r 32 4)).pre
  .ok (Result.of (out.outTiles.map (fun j => weirPiece x o out j false (fun _ => false) (fun _ => v)
    (valueTile o (recRound r) out a j (fun _ => v)))))

/-- The issue checks of FILL (R310, R60, R265). -/
def fillCheck (x : Ctx) (r : List Byte) : Nat :=
  let out := x.desc (recOut r)
  if out.code = 0x19 then stFormat
  else if out.code = 0x18 && recParam r 32 4 ≠ 0 then stBadParam
  else stOk

end Sys2Proof.Machine
end

