-- ==== Sys2Proof/Machine/Reduce.lean ====
section
/-! DEFINITION. Exact reductions, normalisation and scatter-add (09 R287 to R296). -/
namespace Sys2Proof.Machine

/-! ## REDUCE_SUM, REDUCE_SUMSQ, REDUCE_MAX -/

/-- The input coordinates that one output coordinate reduces (R287). -/
def reduceCoords (axes : Nat) : Nat → List Nat → List Nat → List (List Nat)
  | d, n :: ns, y :: ys =>
    let rest := reduceCoords axes (d + 1) ns ys
    if bitOf axes d then ((List.range n).map (fun i => rest.map (fun l => i :: l))).flatten else rest.map (fun l => y :: l)
  | _, _, _ => [[]]

/-- A resolved value squared, with the tags of R288. -/
def squarePre (p : Pre) : Pre :=
  match p with
  | .fin q => .fin (q * q)
  | .pinf | .ninf => .pinf
  | .ovfp | .ovfn | .ovfx => .ovfp
  | .nan => .nan

/-- The word that one input element contributes under an anchor (R288). -/
def termWord (square : Bool) (anchor : Int) (t : Tens) (x : List Nat) : L128 :=
  if t.poisonAt x then L128.poisoned
  else if square then enterPre anchor (squarePre (t.pre x))
  else if t.d.code = 0x18 then t.word x
  else enterPre anchor (t.pre x)

/-- The field that reads a tile of a reduction's input (R290): that of the output supertile it is summed into, or that of its
slice of the lowest reduced dimension when the output has fewer supertiles than the group has fields (R133). -/
def reduceReader (axes : Nat) (o : Op) (out d : Desc) (j : List Nat) : Nat :=
  let g := o.fields.length
  if prod out.superGrid < g then
    let k := ((List.range d.rank).find? (fun i => bitOf axes i)).getD 0
    let n := d.n k
    o.fields.getD ((d.coordAt j 0).getD k 0 / (32 * ceilDiv (ceilDiv n 32) g)) (o.fields.headD 0)
  else readerOf o out d (fun x => (x.zip (List.range x.length)).map (fun p => if bitOf axes p.2 then 0 else p.1)) j

/-- The field that writes an output tile of a reduction: that of its supertile, or position 0, which combines the slices when the
output has fewer supertiles than the group has fields (R290). -/
def reduceWriter (o : Op) (out : Desc) (j : List Nat) : Nat :=
  if prod out.superGrid < o.fields.length then o.fields.headD 0 else fieldOfTile o.fields out j

/-- The events of failing checks while the words of an L128 input are added (R91, R92, R530). DESIGN CHOICE (log 88): the unit is
the basin, and its place is 0. -/
def sumFaults (o : Op) (out : Desc) (l : List (List Nat)) (f : List Nat → List L128) : List Ev :=
  (l.map (fun j => ((out.elems j).filter (fun p => sumFault (f p.2))).map (fun _ =>
    (⟨56 * reduceWriter o out j + 1, 2, 0x0A01, 1, 0⟩ : Ev)))).flatten

/-- The anchor of a sum, with the constraints of R70 and R288. DESIGN CHOICE (log 93): a default anchor outside −2,048 to 2,047 is
used as it comes. -/
def reduceAnchor (s : State) (c : Nat) (o : Op) (out : Desc) (t : Tens) (square : Bool) : Except Stop Int := do
  let fixed : Option Int := if plainInt t.d.code then some 96 else if t.d.code = 0x18 && !square then t.anchors.head? else none
  let a ← anchorFor s c o out (fixed.getD (termAnchor t.d.code t.ceil square))
  match fixed with
  | some b => if a = b && (t.d.code ≠ 0x18 || t.anchors.length ≤ 1) then .ok a else .error (Stop.plain stAnchor)
  | none => .ok a

/-- The work of REDUCE_SUM and REDUCE_SUMSQ (R288). -/
def reduceSumWork (square : Bool) (s : State) (c : Nat) (o : Op) : Result := orStop do
  let x := s.ctx c
  let r := o.record
  let out := x.desc (recOut r)
  let d := x.desc (recIn r 0)
  let t ← readTensorBy s o (reduceReader (recParam r 32 1) o out d) d
  let epi ← readEpi s c o
  let a ← reduceAnchor s c o out t square
  let terms := fun (y : List Nat) => (reduceCoords (recParam r 32 1) 0 t.d.ext y).map (termWord square a t)
  let poison := out.anyIn (fun y => epiPoison (recEpilogue r) epi y || (reduceCoords (recParam r 32 1) 0 t.d.ext y).any t.poisonAt)
  .ok { Result.ofTiles ((upToPoison poison out.outTiles).map (fun j =>
      wordsPiece x { o with fields := [reduceWriter o out j] } out epi a j (fun y => sumWords (terms y)))) with
    events := (if d.code = 0x18 && !square then sumFaults o out out.outTiles terms else [])
      ++ (upToPoison poison out.outTiles).flatMap (tileFaults o out (reduceWriter o out)) }

/-- The later element takes the place of the one chosen so far (R289). -/
def maxTakes (abs : Bool) (best v : Val) : Bool :=
  let mag := fun (u : Val) => match u with
    | .fin q => ratAbs q
    | _ => 0
  match best, v with
  | .nan, _ => false
  | _, .nan => true
  | .pinf, _ => false
  | _, .pinf => true
  | .ninf, .fin _ => !abs
  | .fin _, .ninf => abs
  | .ninf, .ninf => false
  | .fin p, .fin q =>
    if abs then decide (mag v > mag best) || (decide (mag v = mag best) && decide (q > p)) else decide (q > p)

/-- The chosen element of a reduction by maximum (R289). -/
def maxOf (abs : Bool) : List Val → Val
  | [] => .fin 0
  | v :: vs => vs.foldl (fun best w => if maxTakes abs best w then w else best) v

/-- REDUCE_MAX's work (R289). -/
def reduceMaxWork (s : State) (c : Nat) (o : Op) : Result := orStop do
  let x := s.ctx c
  let r := o.record
  let out := x.desc (recOut r)
  let d := x.desc (recIn r 0)
  let t ← readTensorBy s o (reduceReader (recParam r 32 1) o out d) d
  let elem := fun y => (maxOf (bitOf (recParam r 33 1) 0)
    ((reduceCoords (recParam r 32 1) 0 t.d.ext y).map (fun z => (t.pre z).val))).pre
  .ok (Result.ofTiles (out.outTiles.map (fun j =>
    weirPiece x { o with fields := [reduceWriter o out j] } out j false (fun _ => false) elem (storeTile o (recRound r) out j elem))))

/-- The issue checks of a reduction (R287 to R289). -/
def reduceCheck (isMax : Bool) (x : Ctx) (r : List Byte) : Nat :=
  let a := x.desc (recIn r 0)
  let out := x.desc (recOut r)
  let axes := recParam r 32 1
  let want := (List.range a.rank).map (fun d => if bitOf axes d then 1 else a.n d)
  if a.code = 0x19 || out.code = 0x19 || (isMax && (a.code = 0x18 || out.code = 0x18)) then stFormat
  else if axes = 0 || 2 ^ a.rank ≤ axes || (!isMax && recParam r 33 1 ≠ 0) || out.rank ≠ a.rank || out.ext ≠ want then
    stBadParam
  else stOk

/-! ## NORMALIZE -/

/-- A sum of values. -/
def addVal (a b : Val) : Val :=
  match a, b with
  | .fin p, .fin q => .fin (p + q)
  | .nan, _ => .nan
  | _, .nan => .nan
  | .pinf, .ninf => .nan
  | .ninf, .pinf => .nan
  | .pinf, _ => .pinf
  | _, .pinf => .pinf
  | .ninf, _ => .ninf
  | _, .ninf => .ninf

/-- A value rounded to FP32 under RNE (R292). -/
def round32 (v : Val) : Val := fp32Val (fp32OfVal v)

/-- A value's negative. -/
def negVal (v : Val) : Val := mulVal (.fin (-1)) v

/-- A value before rounding, as integers that determine it. -/
def Pre.key (p : Pre) : List Int :=
  match p with
  | .fin q => [0, q.num, q.den]
  | .pinf => [1]
  | .ninf => [2]
  | .nan => [3]
  | .ovfp => [4]
  | .ovfn => [5]
  | .ovfx => [6]

/-- mu and r of a row, or none when a sum resolves to a tag other than FIN (R292, R293). -/
def normRow (rev : U16) (rms : Bool) (eps : Rat) (n : Nat) (c : Int) (xs : List Pre) : Option (Val × Val) :=
  let a1 := if c = -32768 then 0 else c - 1
  let a2 := if c = -32768 then 0 else 2 * c - 1
  let s1 := (sumWords (xs.map (enterPre a1))).resolve a1
  let s2 := (sumWords (xs.map (fun p => enterPre a2 (squarePre p)))).resolve a2
  match s1, s2 with
  | .fin q1, .fin q2 =>
    let mu : Val := if rms then .fin 0 else rne32 (q1 / n)
    let ms := rne32 (q2 / n)
    let v := if rms then ms else
      match round32 (addVal (mulVal (negVal mu) mu) ms) with
      | .fin q => .fin (if q < 0 then 0 else q)
      | w => w
    some (mu, fp32Val (tableFn 0x13 rev (fp32OfVal (round32 (addVal v (.fin eps))))))
  | _, _ => none

/-- One output element before its rounding (R292). -/
def normElem (mu r x g b : Val) : Val :=
  let t := round32 (addVal x (negVal mu))
  let u := round32 (mulVal t r)
  addVal (mulVal u g) b

/-- NORMALIZE's work (R292, R293): the saved values of a row without them are free and fixed by the row's data (R14; log 3); the
mu of RMS is 0. -/
def normalizeWork (s : State) (c : Nat) (o : Op) : Result := orStop do
  let x := s.ctx c
  let r := o.record
  let out := x.desc (recOut r)
  let d := x.desc (recIn r 0)
  let t ← readTensorBy s o (readerOf o out d id) d
  let opt := fun i => if recIn r i = 0xFFFF then Except.ok none else
    (readTensorBy s o (readerOf o out (x.desc (recIn r i)) (fun z => z.headD 0 :: (out.ext.drop 1).map (fun _ => 0))) (x.desc (recIn r i))).map some
  let gain ← opt 1
  let bias ← opt 2
  let n := t.d.n 0
  let rms := recParam r 32 1 = 1
  let row := fun (y : List Nat) => (List.range n).map (fun i => i :: y.drop 1)
  let stats := fun (y : List Nat) =>
    normRow s.tableRev rms (finOf (recParam r 36 4)) n t.ceil ((row y).map t.pre)
  let elem := fun (y : List Nat) => match stats y with
    | none => Pre.nan
    | some (mu, rr) =>
      (normElem mu rr (t.pre y).val ((gain.map (fun g => (g.pre [y.headD 0]).val)).getD (.fin 1))
        ((bias.map (fun b => (b.pre [y.headD 0]).val)).getD (.fin 0))).pre
  let dirty := fun (y : List Nat) => (row y).any t.poisonAt || [gain, bias].any (fun g => g.any (fun g => g.poisonAt [y.headD 0]))
  let bad := fun (y : List Nat) => dirty y || (row y).any (o.failsAt out)
  let main := (upToPoison (out.anyIn dirty) out.outTiles).map (fun j => weirPiece x o out j false bad elem (storeTile o (recRound r) out j elem))
  -- behind a poisoned word that was read no further payload is written (R517)
  let saved := if recParam r 40 2 = 0xFFFF || out.outTiles.any (out.anyIn dirty) then [] else
    let d := x.desc (recParam r 40 2)
    let val := fun (y : List Nat) => match stats (0 :: y.drop 1) with
      | some (mu, rr) => (if y.headD 0 = 0 then mu else rr).pre
      | none =>
        if rms && y.headD 0 = 0 then .fin 0
        else (fp32Val ((Config.freeOf ([(recParam r 32 1 : Int), (recParam r 36 4 : Int), t.ceil]
          ++ ((row y).map (fun z => (t.pre z).key)).flatten) (y.headD 0)).toNat % 2 ^ 32)).pre
    d.outTiles.map (fun j => weirPiece x o d j false bad val (storeTile o (recRound r) d j val))
  .ok { Result.ofTiles (main ++ saved) with
    events := (upToPoison (out.anyIn dirty) out.outTiles).flatMap (tileFaults o out (fieldOfTile o.fields out)) }

/-- The issue checks of NORMALIZE (R291, R60, R265). -/
def normalizeCheck (x : Ctx) (r : List Byte) : Nat :=
  let a := x.desc (recIn r 0)
  let out := x.desc (recOut r)
  let vec := fun i => recIn r i = 0xFFFF || ((x.desc (recIn r i)).rank = 1 && (x.desc (recIn r i)).n 0 = a.n 0)
  let sv := x.desc (recParam r 40 2)
  let svOk := recParam r 40 2 = 0xFFFF || (sv.rank = a.rank && sv.ext = 2 :: a.ext.drop 1)
  let s40 := a.code = 0x19 || out.code = 0x19 || (recIn r 1 ≠ 0xFFFF && (x.desc (recIn r 1)).code = 0x19)
    || (recIn r 2 ≠ 0xFFFF && (x.desc (recIn r 2)).code = 0x19)
  if s40 || out.code = 0x18 || (recParam r 40 2 ≠ 0xFFFF && sv.code ≠ 0x00) then stFormat
  else if 1 < recParam r 32 1 || !isFin32 (recParam r 36 4) || bitOf (recParam r 36 4) 31 || !sameExtents a out || !vec 1
      || !vec 2 || (recParam r 32 1 = 1 && recIn r 2 ≠ 0xFFFF) || !svOk then stBadParam
  else stOk

/-! ## SCATTER_ADD -/

/-- The values of an INT32 index tensor of rank 1. -/
def indexVals (t : Tens) : List Int := (List.range (t.d.n 0)).map (fun i => signedOf 32 (t.bits [i]))

/-- Replace coordinate `g`. -/
def setCoord (x : List Nat) (g i : Nat) : List Nat := x.set g i

/-- The slice of length `len` that position `i` of `g` fields takes (R133). -/
def sliceOf (len g i : Nat) : Nat × Nat :=
  let w := 32 * ceilDiv (ceilDiv len 32) g
  (min (i * w) len, min ((i + 1) * w) len)

/-- The word an update contributes (R295). DESIGN CHOICE (log 110): an L128 update, also one of another anchor, is resolved and enters the
output's window as any element does. -/
def scatterTerm (a : Int) (u : Tens) (x : List Nat) : L128 :=
  if u.poisonAt x then L128.poisoned else enterPre a (u.pre x)

/-- SCATTER_ADD's work (R294 to R296). -/
def scatterWork (s : State) (c : Nat) (o : Op) : Result := orStop do
  let x := s.ctx c
  let r := o.record
  let out := x.desc (recOut r)
  let g := recParam r 32 1
  let du := x.desc (recIn r 0)
  let di := x.desc (recIn r 1)
  let at' := fun (i : Nat) => o.fields.getD (i / (32 * ceilDiv (ceilDiv (di.n 0) 32) o.fields.length)) (o.fields.headD 0)
  let u ← readTensorBy s o (fun j => at' ((du.coordAt j 0).getD g 0)) du
  let idx ← readTensorBy s o (fun j => at' ((di.coordAt j 0).headD 0)) di
  let a ← destAnchor s o out
  let ixs := indexVals idx
  let bad := (ixs.zip (List.range ixs.length)).filter (fun p => p.1 < 0 || (out.n g : Int) ≤ p.1)
  let good := (ixs.zip (List.range ixs.length)).filter (fun p => 0 ≤ p.1 && p.1 < (out.n g : Int))
  let part := fun (f lo hi : Nat) =>
    let mine := (good.filter (fun p => decide (lo ≤ p.2) && decide (p.2 < hi))).map (fun p => (p.1.toNat, p.2))
    out.outTiles.filterMap (fun j =>
      let tg := (out.dims.map Dim.t).getD g 1
      let hits := mine.filter (fun p => p.1 / tg = j.getD g 0)
      let mineAt := fun (y : List Nat) => hits.filter (fun p => p.1 = y.getD g 0)
      if hits.isEmpty then none
      else some (f, out.anyIn (fun y => (mineAt y).any (fun p => u.poisonAt (setCoord y g p.2))) j, j,
        wordsPiece x { o with fields := [f] } out none a j (fun y =>
          sumWords ((mineAt y).map (fun p => scatterTerm a u (setCoord y g p.2))))))
  let n := o.fields.length
  let tiles := ((List.range n).map (fun i => let (lo, hi) := sliceOf ixs.length n i; part (o.fields.getD i 0) lo hi)).flatten
  -- R517: no payload is written behind a poisoned word that was read
  let written := tiles.takeWhile (fun q => !q.2.1) ++ (tiles.dropWhile (fun q => !q.2.1)).take 1
  .ok { Result.ofTiles (written.map (fun q => q.2.2.2)) with
    flags := if bad.isEmpty then 0 else 1
    events := (if bad.isEmpty then [] else [⟨56 * o.fields.headD 0 + 1, 1, 0x0102, (bad.headD (0, 0)).2, recOp r⟩])
      ++ (written.map (fun q => tileFaults o out (fun _ => q.1) q.2.2.1)).flatten }

/-- The issue checks of SCATTER_ADD (R294). -/
def scatterCheck (x : Ctx) (r : List Byte) : Nat :=
  let u := x.desc (recIn r 0)
  let ix := x.desc (recIn r 1)
  let out := x.desc (recOut r)
  let g := recParam r 32 1
  if u.code = 0x19 || ix.code ≠ 0x12 then stFormat
  else if out.code ≠ 0x18 || ix.rank ≠ 1 || out.rank ≤ g || u.rank ≠ out.rank || u.ext ≠ setCoord out.ext g (ix.n 0) then
    stBadParam
  else stOk

end Sys2Proof.Machine
end

