-- ==== Sys2Proof/Machine/Prism.lean ====
section
/-! DEFINITION. The prism (07 R213 to R230): PERMUTE and GATHER, blocks carried whole and requantized, poison, anchors and
counters; COPY by the movers (09 R309). -/
namespace Sys2Proof.Machine

/-! ## The map of R214 -/

/-- The gathered dimension of a record, if it has one. -/
def gatherDim (r : List Byte) : Option Nat := if recOp r = 0x4003 then some (recParam r 32 1) else none

/-- π of a record (R311). -/
def permOf (r : List Byte) (rank : Nat) : List Nat :=
  (List.range rank).map (fun d => recParam r ((if recOp r = 0x4003 then 33 else 32) + d) 1)

/-- The source coordinate of a destination coordinate before the gather: x(π(d)) = y(d). -/
def unpermute (perm : List Nat) (y : List Nat) : List Nat :=
  (List.range perm.length).map (fun k => ((perm.zip y).find? (fun p => p.1 == k)).elim 0 Prod.snd)

/-- π is a permutation of 0 to r − 1 (R214). -/
def isPerm (perm : List Nat) : Bool := (List.range perm.length).all (fun k => perm.contains k)

/-- Where a destination element comes from: its source coordinate, or an index out of range (R225). -/
def sourceOf (perm : List Nat) (g : Option Nat) (idx : List Int) (ext : List Nat) (y : List Nat) : Option (List Nat) :=
  let x := unpermute perm y
  match g with
  | none => some x
  | some g =>
    let i := idx.getD (x.getD g 0) (-1)
    if i < 0 || (ext.getD g 0 : Int) ≤ i then none else some (x.set g i.toNat)

/-! ## One destination tile -/

/-- A prism source: a view, its tiles as they read, and the anchor that each tile's stored header carries. -/
structure Src where
  d : Desc
  tiles : Array (Except Stop TileData)
  anchorOf : Nat → Int

/-- Read every tile of a view and keep each outcome. -/
def readSrc (s : State) (o : Op) (d : Desc) : Src :=
  { d := d, tiles := (d.allTiles.map (readTile s o d)).toArray
    anchorOf := fun i => (Header.parse (slotBytesOf s o (d.slotAddr (unrank d.grid i)) 64).1).anchor }

/-- A tile index whose slot holds a tile (R205). -/
def Src.holds (t : Src) (i : Nat) : Bool := !t.d.offGrid (unrank t.d.grid i)

/-- The tile of index `i`, where it read well. -/
def Src.tile (t : Src) (i : Nat) : TileData :=
  match t.tiles.getD i (.error (Stop.plain 0)) with
  | .ok v => v
  | .error _ => TileData.zero t.d.code

/-- The stop that a tile's read met. -/
def Src.stop? (t : Src) (i : Nat) : Option Stop :=
  match t.tiles.getD i (.error (Stop.plain 0)) with
  | .ok _ => none
  | .error e => some e

/-- The stop that a tile's read met, or the poison mark of one of its words (R517). -/
def Src.stopWord? (t : Src) (i : Nat) : Option Stop :=
  (t.stop? i).or (if (t.tile i).words.any L128.poison then some (Stop.plain stPoisoned) else none)

/-- One valid destination element: its position, and the source tile and position it takes, or none for a bad index. -/
structure Take where
  pos : Nat
  lin : Nat
  src : Option (Nat × Nat)
  deriving DecidableEq, Repr

/-- The elements of a destination tile with their sources. -/
def takesOf (sd out : Desc) (f : List Nat → Option (List Nat)) (j : List Nat) : List Take :=
  (out.elems j).map (fun p =>
    { pos := p.1, lin := out.linear p.2, src := (f p.2).map (fun x => (sd.tidx (sd.tileOf x), sd.pos x)) })

/-- Valid elements of a source tile's block (R220), each counted once however often a broadcast repeats it. -/
def blockCount (sd : Desc) (tidx block : Nat) : Nat :=
  (((sd.elems (unrank sd.grid tidx)).map Prod.fst).filter (fun p => p / 32 == block)).eraseDups.length

/-- A destination block is carried whole from one source block (R220). DEDUCED (log 113): the test on its elements decides for a
reversed scale axis too, whatever its extent. -/
def carried (sd : Desc) (ts : List Take) : Option (Nat × Nat) :=
  match ts.head?.bind Take.src with
  | none => none
  | some (t, p) =>
    let same := ts.all (fun k => k.src.any (fun q => q.1 == t && q.2 / 32 == p / 32))
    let ps := ts.filterMap Take.src
    if same && ps.eraseDups.length = ps.length && ps.length = blockCount sd t (p / 32) then some (t, p / 32) else none

/-- The element bits a position takes. -/
def Src.bitsAt (t : Src) (q : Nat × Nat) : Nat := (t.tile q.1).elems.getD q.2 0

/-- The scale byte at a position. -/
def Src.scaleAt (t : Src) (q : Nat × Nat) : Nat := ((t.tile q.1).hdr.scales.getD (q.2 / 32) 0x7F#8).toNat

/-- The exact value a position takes; a bad index takes NaN (R225). -/
def Src.valAt (t : Src) (k : Take) : Val :=
  match k.src with
  | none => if t.d.code = 0x19 then .fin 0 else .nan
  | some q => elemVal t.d.code (t.scaleAt q) (t.bitsAt q)

/-- The NaN of a bad index in a format that is not block-scaled (R41, R42, R46, R60): bits, and a NaN block's mark. -/
def badBits (code : Nat) : Nat × Bool :=
  match formatKind code with
  | some (.float e m _ inf nan) => if nan then (nanBits e m inf, false) else (0, true)
  | _ => (0, false)

/-- A destination block's scale byte, element bits by position in the block, its outcome when it was requantized, and the
values it holds. -/
structure PrismBlock where
  scale : Nat
  bits : List Nat
  requant : Option BlockOut
  pres : List Pre
  vals : List Val

/-- Place bits of elements within a block. -/
def blockBits (ts : List Take) (f : Take → Nat) : List Nat :=
  (List.range 32).map (fun i => ((ts.find? (fun k => k.pos % 32 == i)).map f).getD 0)

/-- One destination block (R215, R220 to R222, R225). DESIGN CHOICE (log 133): a block without a valid element is neither carried nor
requantized: scale 0x7F and zero bits, counted nowhere. -/
def prismBlock (t : Src) (cfg : RoundCfg) (draw : Nat → Nat) (ts : List Take) : PrismBlock :=
  let code := t.d.code
  let vals := ts.map t.valAt
  if blockScaled code then
    match carried t.d ts with
    | some (ti, b) =>
      { scale := ((t.tile ti).hdr.scales.getD b 0x7F#8).toNat
        bits := blockBits ts (fun k => (k.src.map t.bitsAt).getD 0), requant := none, pres := [], vals := vals }
    | none =>
      if ts.isEmpty then { scale := 127, bits := List.replicate 32 0, requant := none, pres := [], vals := [] }
      else
        let at32 := fun (i : Nat) => ts.find? (fun k => k.pos % 32 == i)
        let ps := (List.range 32).map (fun i => (at32 i).map (fun k => (t.valAt k).pre))
        let us := (List.range 32).map (fun i => ((at32 i).map (fun k => draw k.lin)).getD 0)
        let b := weirBlock code cfg us ps
        { scale := b.scale, bits := b.bits, requant := some b, pres := ps.filterMap id, vals := b.vals }
  else
    let nanB := ts.any (fun k => match k.src with
      | some q => t.scaleAt q = 0xFF
      | none => (badBits code).2)
    if nanB then { scale := 0xFF, bits := List.replicate 32 0, requant := none, pres := [], vals := vals.map (fun _ => .nan) }
    else
      { scale := 0x7F
        bits := blockBits ts (fun k => match k.src with
          | some q => t.bitsAt q
          | none => (badBits code).1)
        requant := none, pres := [], vals := vals }

/-- What one destination tile comes to: its piece, or a stop, and the blocks it requantized. -/
structure PrismTile where
  piece : Option Piece
  stop : Option Stop
  requant : Nat

/-- The flags `sat` and `sr` of the source tiles drawn on (R215). -/
def drawnFlags (t : Src) (drawn : List Nat) : Nat :=
  drawn.foldl (fun f i => f ||| ((t.tile i).hdr.flags &&& 0x18)) 0

/-- The tile that the prism leaves where a source tile is bad (R219): the header of R194, over an L128 tile with the anchor of the
sources (R94). DESIGN CHOICE (log 115): its payload is zeros. -/
def poisonedPiece (f : Nat) (out : Desc) (j : List Nat) (valid : Nat) (anchor : Int) : Piece :=
  let h : Header := { scales := plainScales, format := out.code, flags := 1, ceil := -32768, shape := out.shape
                      valid := valid, tid := out.tid % 2 ^ 32, tidx := out.tidx j
                      tail := if out.code = 0x18 then anchorTail anchor else List.replicate 8 0#8 }
  { ga := out.slotAddr j, slot := h.slot (List.replicate (payloadBytes out.code) 0#8), bad := [], acc := false
    stats := none, flags := 8, witness := none, field := f }

/-- An L128 destination tile (R629, R225, R95); a word with the poison mark counts as a bad source (R517). -/
def prismWords (t : Src) (f : Nat) (out : Desc) (j : List Nat) (drawn : List Nat) (ts : List Take) : PrismTile :=
  let anchors := (drawn.map (fun i => (t.tile i).hdr.anchor)).eraseDups
  let a := anchors.headD 0
  let word := fun (k : Take) => match k.src with
    | some q => (t.tile q.1).words.getD q.2 L128.zero
    | none => L128.special .nan
  if ts.any (fun k => (word k).poison) then
    { piece := some (poisonedPiece f out j ts.length a), stop := some (Stop.plain stPoisoned), requant := 0 }
  else if 1 < anchors.length then { piece := none, stop := some (Stop.plain stAnchor), requant := 0 }
  else
    let arr := ts.foldl (fun (x : Array (Option L128)) k => x.setIfInBounds k.pos (some (word k))) (List.replicate 1024 none).toArray
    let w := wordTile (out.dest j) a arr.toList
    let h := { w.header with flags := w.header.flags ||| drawnFlags t drawn }
    { piece := some { ga := out.slotAddr j, slot := h.slot w.payload, bad := [], acc := false, stats := none, flags := 0
                      witness := none, field := f }
      stop := none, requant := 0 }

/-- A destination tile of stored elements (R215, R219 to R223). -/
def prismElems (t : Src) (f : Nat) (o : Op) (out : Desc) (j : List Nat) (drawn : List Nat) (ts : List Take) (loCeil : Int) : PrismTile :=
  let cfg := recRound o.record
  let draw := fun lin => if cfg.mode = .sr then srBits o.seed.toNat out.tid o.step.toNat lin else 0
  let blocks := (List.range 32).map (fun b => prismBlock t cfg draw (ts.filter (fun k => k.pos / 32 == b)))
  let rq := blocks.filterMap PrismBlock.requant
  let vals := (blocks.map PrismBlock.vals).flatten
  let isVal := fun (v : Val) (w : Val) => decide (v = w)
  let flags := 2 * b2n (vals.any (isVal .nan)) + 4 * b2n (vals.any (fun v => v = .pinf || v = .ninf))
  let extra := 8 * b2n (rq.any (fun b => b.elems.any Elem.sat)) + 16 * b2n (cfg.mode = .sr && !rq.isEmpty)
  let h : Header :=
    { scales := blocks.map (fun b => BitVec.ofNat 8 b.scale), format := out.code
      flags := flags ||| drawnFlags t drawn ||| extra
      ceil := if out.code = 0x19 then loCeil else ceilOfVals vals, shape := out.shape, valid := ts.length
      tid := out.tid % 2 ^ 32, tidx := out.tidx j, tail := List.replicate 8 0#8 }
  let pres := (blocks.map PrismBlock.pres).flatten
  let st := rq.foldl (fun a b => a.plus b.stats) { magStats pres with tiles := 1 }
  { piece := some
      { ga := out.slotAddr j, slot := h.slot (packElems out.code (blocks.map PrismBlock.bits).flatten), bad := [], acc := false
        stats := if rq.isEmpty then none else some (out.stats, st)
        flags := rq.foldl (fun f b => f ||| b.flags) 0, witness := none, field := f }
    stop := none, requant := rq.length }

/-- The source tiles that a destination tile draws on (R215): those whose slots hold a tile. -/
def Src.drawn (t : Src) (ts : List Take) : List Nat := ((ts.filterMap (fun k => k.src.map Prod.fst)).eraseDups).filter t.holds

/-- The stop that decides for a destination tile: a poisoned source before any other failing check (R211, R219). -/
def worstStop (l : List Stop) : Option Stop := (l.find? (fun e => e.status = stPoisoned)).or l.head?

/-- One destination tile of field `f`: a bad source tile gives it a poisoned header and stops the operation (R219); any other failing
check stops it (R211). DESIGN CHOICE (log 115): a poisoned source comes before anchors that differ (R629), and an L128 tile then takes the
anchor of the first tile drawn. -/
def prismTile (t : Src) (ix : Option Src) (o : Op) (f : Nat) (out : Desc) (j : List Nat) (ts : List Take) (ixDrawn : List Nat) :
    PrismTile :=
  let drawn := t.drawn ts
  let bad := (drawn.filterMap t.stop?) ++ (match ix with
    | some x => ixDrawn.filterMap x.stop?
    | none => [])
  match worstStop bad with
  | some e =>
    { piece := if e.status = stPoisoned then some (poisonedPiece f out j ts.length ((drawn.map t.anchorOf).headD 0)) else none
      stop := some (e.atUnit f 3), requant := 0 }
  | none =>
    if out.code = 0x18 then prismWords t f out j drawn ts
    else prismElems t f o out j drawn ts (drawn.foldl (fun c i => max c (t.tile i).hdr.ceil) (-32768))

/-! ## The operation -/

/-- The place k of a tile within its supertile (R204, R238). -/
def Desc.superPlace (d : Desc) (j : List Nat) : Nat := rankOf (d.dims.map Dim.u) ((d.dims.zip j).map (fun p => p.1.superPos p.2))

/-- The tiles of a destination supertile in ascending k; slots beyond the grid hold none (R205, R217). -/
def superTiles (out : Desc) (i : Nat) : List (List Nat) :=
  sortBy (fun a b => decide (out.superPlace a ≤ out.superPlace b)) (out.outTiles.filter (fun j => out.superOf j == i))

/-- Destination tiles in the order in which supertiles are written (R217). -/
def prismOrder (out : Desc) : List (List Nat) := ((List.range (prod out.superGrid)).map (superTiles out)).flatten

/-- Write tiles until one stops the operation. -/
def prismRun : List PrismTile → List Piece × Option Stop
  | [] => ([], none)
  | p :: ps =>
    match p.stop with
    | some e => (p.piece.toList, some e)
    | none => let (q, e) := prismRun ps; (p.piece.toList ++ q, e)

/-- A tile staged by the prism: a source or an index tile, its index, its bytes. -/
abbrev StagedTile := Bool × Nat × Nat

/-- Bytes of staged tiles. -/
def stagedBytes (l : List StagedTile) : Nat := (l.map (fun e => e.2.2)).sum

/-- Room for a tile is made by evicting the tile staged longest (R217). -/
def roomFor (t : StagedTile) : Nat → List StagedTile → List StagedTile
  | 0, l => l
  | n + 1, l => if 33554432 < stagedBytes l + t.2.2 then roomFor t n (l.drop 1) else l

/-- What a supertile or a tile draws on is read where the buffer does not hold it when that begins (R217): tiles held, oldest
first, and reads counted. DESIGN CHOICE (log 133): the missing tiles are staged by destination tile, its source tiles before its index
tiles. -/
def stage (h : List StagedTile × Nat) (needs : List StagedTile) : List StagedTile × Nat :=
  let missing := needs.eraseDups.filter (fun t => !h.1.contains t)
  (missing.foldl (fun l t => roomFor t l.length l ++ [t]) h.1, h.2 + missing.length)

/-- A destination supertile is staged whole, or tile by tile where it draws on more than 32 MiB (R217): what its tiles draw on, and how
many of them are begun. -/
def stageSuper (h : List StagedTile × Nat) (p : List (List StagedTile) × Nat) : List StagedTile × Nat :=
  if stagedBytes p.1.flatten.eraseDups ≤ 33554432 then stage h p.1.flatten else (p.1.take p.2).foldl stage h

/-- The supertiles that `n` tiles begin, with how many of each. -/
def begunSupers (n : Nat) : List (List (List StagedTile)) → List (List (List StagedTile) × Nat)
  | [] => []
  | t :: ts => if n = 0 then [] else (t, min n t.length) :: begunSupers (n - t.length) ts

/-- Tiles that a field reads for the supertiles that its first `n` tiles begin (R217, R229); its buffer starts empty. -/
def readsOf (n : Nat) (supers : List (List (List StagedTile))) : Nat := ((begunSupers n supers).foldl stageSuper ([], 0)).2

/-- The length of an index tensor (R214). -/
def indexLen (x : Ctx) (r : List Byte) : Nat := (x.desc (recIn r 1)).n 0

/-- Out-of-range positions of an index tensor (R225). -/
def badPositions (idx : List Int) (ext : Nat) : List Nat :=
  ((idx.zip (List.range idx.length)).filter (fun p => p.1 < 0 || (ext : Int) ≤ p.1)).map Prod.snd

/-- How many tiles `prismRun` begins: those it writes, and the one that stops the operation. -/
def tilesBegun (l : List PrismTile) : Nat :=
  let n := (l.takeWhile (fun p => p.stop.isNone)).length
  min l.length (n + 1)

/-- The work of PERMUTE and GATHER. DESIGN CHOICE (log 133): index tiles take room in the buffer and count toward a supertile's 32 MiB as
source tiles do. DEDUCED (log 114): an index out of range sets `nan_seen`, is counted and is named by the event
wherever the operation stops, and the counts of a divided gather stand on its first field. -/
def prismWork (s : State) (c : Nat) (o : Op) : Result :=
  let x := s.ctx c
  let r := o.record
  let out := x.desc (recOut r)
  let sd := x.desc (recIn r 0)
  let perm := permOf r sd.rank
  let g := gatherDim r
  let t := readSrc s o sd
  let ix := g.map (fun _ => readSrc s o (x.desc (recIn r 1)))
  let idx : List Int := match ix with
    | none => []
    | some v => (List.range (v.d.n 0)).map (fun i =>
        signedOf 32 ((v.tile (v.d.tidx (v.d.tileOf [i]))).elems.getD (v.d.pos [i]) 0))
  let f := sourceOf perm g idx sd.ext
  -- index tiles that a destination tile reads
  let ixTiles := fun (j : List Nat) => match g, ix with
    | some g, some v => ((out.elems j).map (fun p =>
        v.d.tidx (v.d.tileOf [(unpermute perm p.2).getD g 0]))).eraseDups.filter v.holds
    | _, _ => []
  let inPlace := sd.sameRange s.own out
  let fs := o.fields
  let order := prismOrder out
  let tiles := order.map (fun j => prismTile t ix o (fieldOfTile fs out j) out j (takesOf sd out f j) (ixTiles j))
  let all := (List.range t.tiles.size).filter t.holds
  let early := if inPlace then all.filterMap t.stopWord? else []
  match worstStop early with
  | some e => { Result.stop (e.atUnit (fs.headD 0) 3) with counts := [(fs.headD 0, all.length, 0, 0, 0)] }
  | none =>
    let (pieces, stop) := prismRun tiles
    let bad := match g with
      | some g => badPositions idx (sd.n g)
      | none => []
    let done := order.take pieces.length
    -- tiles begun: up to the one that stopped the operation
    let begun := order.take (tilesBegun tiles)
    let needs := fun (j : List Nat) =>
      (if inPlace then [] else (t.drawn (takesOf sd out f j)).map (fun i => (true, i, slotBytes sd.code)))
        ++ (ixTiles j).map (fun i => (false, i, slotBytes 0x12))
    let counts := fs.map (fun fl =>
      let mine := done.filter (fun j => fieldOfTile fs out j == fl)
      let supers := (List.range (prod out.superGrid)).filter (fun i => fieldOfPart fs (prod out.superGrid) i == fl)
      let n := begun.countP (fun j => fieldOfTile fs out j == fl)
      (fl, readsOf n (supers.map (fun i => (superTiles out i).map needs)) + (if inPlace then all.length else 0), mine.length,
        ((order.zip tiles).filter (fun p => fieldOfTile fs out p.1 == fl && done.contains p.1)).foldl (fun a p => a + p.2.requant) 0,
        if fl = fs.headD 0 then bad.length else 0))
    { pieces := pieces
      flags := if bad.isEmpty then 0 else 1
      events := (match stop with
        | some e => e.events
        | none => []) ++ (if bad.isEmpty then [] else [⟨56 * fs.headD 0 + 3, 1, 0x0102, bad.headD 0, recOp r⟩])
      counts := counts
      status := match stop with
        | some e => e.status
        | none => stOk }

/-- The overlap check that a prism operation makes when it starts (R226, R227). DESIGN CHOICE (log 133): the limit counts the slot of every
tile of the source view's grid, also one that a flip finds without a tile (R205). -/
def prismOverlapOk (own : Nat) (x : Ctx) (r : List Byte) : Bool :=
  let a := x.desc (recIn r 0)
  let out := x.desc (recOut r)
  !((gatherDim r).isSome && (x.desc (recIn r 1)).overlaps own out)
    && (!a.overlaps own out || (a.sameRange own out && a.tileCount * slotBytes a.code ≤ 33554432))

/-- The issue checks of PERMUTE and GATHER (R213, R214, R224). -/
def prismCheck (x : Ctx) (r : List Byte) : Nat :=
  let a := x.desc (recIn r 0)
  let out := x.desc (recOut r)
  let perm := permOf r a.rank
  let g := gatherDim r
  let ix := x.desc (recIn r 1)
  let rest := (List.range 5).all (fun d => decide (d < a.rank) || recParam r ((if g = none then 32 else 33) + d) 1 = 0)
  let extOk := (List.range out.rank).all (fun d =>
    let k := perm.getD d 0
    out.n d = (if g = some k then indexLen x r else a.n k))
  if g.isSome && ix.code ≠ 0x12 then stFormat
  else if gaSpace a.base = 3 || gaSpace out.base = 3 || a.code ≠ out.code || out.rank ≠ a.rank || !isPerm perm || !rest
      || (g.any (fun k => decide (a.rank ≤ k))) || (g.isSome && ix.rank ≠ 1) || !extOk then stBadParam
  else stOk

/-! ## COPY (R309) -/

/-- COPY's work: every tile unchanged, with the poison mark of each word; slots beyond the grid hold none (R205; log 14). -/
def copyWork (s : State) (c : Nat) (o : Op) : Result :=
  let x := s.ctx c
  let a := x.desc (recIn o.record 0)
  let out := x.desc (recOut o.record)
  let n := slotBytes a.code
  Result.of ((copyTiles a out).map (fun (j, src) =>
    let (bytes, bad) := slotBytesOf s o (a.slotAddr src) n
    { ga := out.slotAddr j, slot := bytes, bad := bad.map (fun w => (w - a.slotAddr src) / 64), acc := false, stats := none
      flags := 0, witness := none, field := fieldOfTile o.fields out j }))

/-- The issue checks of COPY (R309). -/
def copyCheck (x : Ctx) (r : List Byte) : Nat :=
  let a := x.desc (recIn r 0)
  let out := x.desc (recOut r)
  if a.code = out.code && a.shape = out.shape && sameExtents a out && a.dims.map Dim.flip = out.dims.map Dim.flip then stOk
  else stBadParam

end Sys2Proof.Machine
end

