-- ==== Sys2Proof/Machine/Training.lean ====
section
/-! DEFINITION. The arithmetic of a training step (10 R319 to R344): OPTIMIZE, SCALE_UPDATE, the lens record, and their checks. -/
namespace Sys2Proof.Machine

/-! ## STEP_BEGIN and STEP_END (R317 to R320, R344) -/

/-- The issue checks of STEP_BEGIN's parameters (R319). -/
def stepBeginCheck (r : List Byte) : Nat :=
  let set := recParam r 32 1
  let w := recParam r 33 1
  if (bitOf set 0 || recParam r 36 4 = 0) && (bitOf set 1 || recParam r 40 4 = 0)
      && (if bitOf set 2 then decide (6 ≤ w) && decide (w ≤ 16) else w = 0) then stOk else stBadParam

/-- A context whose window opens (R317, R319, R322, R339). -/
def Ctx.stepBegin (r : List Byte) (x : Ctx) : Ctx :=
  let set := recParam r 32 1
  { x with windowOpen := true, flags := 0#7, skipped := false, applied := false, lens := Lens.reset, witnessUsed := 0
           step := if bitOf set 0 then BitVec.ofNat 32 (recParam r 36 4) else x.step
           updates := if bitOf set 1 then BitVec.ofNat 32 (recParam r 40 4) else x.updates
           witnessLog2 := if bitOf set 2 then recParam r 33 1 else x.witnessLog2 }

/-- The 64 bytes of the lens record (R344); counts saturate. -/
def Ctx.lensRecord (x : Ctx) : List Byte :=
  let l := x.lens
  let sat := fun (n v : Nat) => leBytes n (min (256 ^ n - 1) v)
  leBytes 4 x.step.toNat ++ leBytes 4 x.flags.toNat ++ sat 8 l.valid ++ sat 8 l.overs ++ sat 8 l.vanish ++ sat 8 l.subnormal
    ++ sat 2 l.inf ++ sat 2 l.nan ++ sat 4 l.picks ++ sat 4 l.dropped ++ sat 4 l.compared ++ sat 4 l.disagree
    ++ leBytes 4 l.maxRatio.toNat

/-- Slot of the lens area (R344). -/
def Ctx.lensSlot (x : Ctx) : Nat := x.step.toNat % 256

/-- A context whose window closes (R320 steps 3 to 5). -/
def Ctx.stepEnd (x : Ctx) : Ctx :=
  { x with updates := if x.applied then x.updates + 1#32 else x.updates, step := x.step + 1#32, windowOpen := false }

/-- STEP_END's actions, in their order (R320); a lens slot whose memory serves no access ends it before them (R377). -/
def stepEndFx (c : Nat) (seq : U32) (lead : Nat) : Fx :=
  Fx.look fun s =>
    let x := s.ctx c
    let slot := gaOffset x.lensBase.toNat + 64 * x.lensSlot
    match s.access 0 slot 64 with
    | .stop st => failOp c seq st
    | _ => Fx.all [
        Fx.memWrite (memKey 0 slot) x.lensRecord,
        raise (56 * lead + 6) 0 0x0201 (s.who c) x.step.toNat x.flags.toNat x.lensSlot,
        Fx.ctx c Ctx.stepEnd]

/-! ## OPTIMIZE (R324 to R332) -/

/-- The largest finite FP32 value. -/
def max32 : Rat := maxFinite 8 23 127 true true

/-- sat32: rounded once to FP32 under RNE; an overflow saturates (R328). -/
def sat32 (q : Rat) : Rat × Bool :=
  match rne32 q with
  | .fin v => (v, false)
  | _ => (if q < 0 then -max32 else max32, true)

/-- A rounding to FP32 that cannot overflow (R329). -/
def rne32Fin (q : Rat) : Rat :=
  match rne32 q with
  | .fin v => v
  | _ => 0

/-- b^t in FP32, highest bit of t first (R329). -/
def powBits (b : Rat) (t : Nat) : Nat → Rat → Rat
  | 0, p => p
  | i + 1, p =>
    let p := rne32Fin (p * p)
    powBits b t i (if bitOf t i then rne32Fin (p * b) else p)

/-- pow1m of R329. -/
def pow1m (b : Rat) (t : Nat) : Rat := rne32Fin (1 - powBits b t 33 1)

/-- The parameters of OPTIMIZE as values. -/
structure OptParams where
  adam : Bool
  t : Nat
  sig : Int
  lr : Rat
  beta1 : Rat
  beta2 : Rat
  eps : Rat
  wd : Rat
  gscale : Rat
  rev : U16
  cfg : RoundCfg

/-- What one element becomes: kept, or the exact values inside the last roundings of m, v and V, and what saturated. -/
structure OptElem where
  kept : Bool
  m : Rat
  v : Rat
  big : Rat
  saturated : Bool
  deriving DecidableEq, Repr

/-- An element that is not finite keeps its master and moments (R331). -/
def OptElem.keep : OptElem := { kept := true, m := 0, v := 0, big := 0, saturated := false }

/-- One element of OPTIMIZE (R328). -/
def optElem (p : OptParams) (g m v w : Pre) : OptElem :=
  match g, m, v, w with
  | .fin g, .fin m, .fin v, .fin w =>
    let (g, s0) := sat32 (g * p.gscale * pow2 (-p.sig))
    if p.adam then
      let mx := p.beta1 * m + (1 - p.beta1) * g
      let vx := p.beta2 * v + (1 - p.beta2) * g * g
      let (m1, _) := sat32 mx
      let (v1, _) := sat32 vx
      let (mh, s1) := sat32 (m1 / pow1m p.beta1 p.t)
      let (vh, s2) := sat32 (v1 / pow1m p.beta2 p.t)
      let (d, s3) := sat32 (vh + p.eps)
      let low : Rat := pow2 (-126)
      let rs := finOf (tableFn 0x13 p.rev (fp32Of false (if d < low then low else d)))
      let (q, s4) := sat32 (mh * rs)
      { kept := false, m := mx, v := vx, big := w - p.lr * (q + p.wd * w), saturated := s0 || s1 || s2 || s3 || s4 }
    else
      let mx := p.beta1 * m + g
      let (m1, _) := sat32 mx
      { kept := false, m := mx, v := 0, big := w - p.lr * (m1 + p.wd * w), saturated := s0 }
  | _, _, _, _ => OptElem.keep

/-- A moment element as it is stored (R328, R332). -/
def momentElem (q : Rat) : Elem :=
  let (v, sat) := sat32 q
  { Elem.plain (fp32Of false v) (.fin v) with
    saturated := sat, sat := sat, flushed := decide (q ≠ 0) && decide (v = 0)
    subnormal := decide (v ≠ 0) && decide (ratAbs v < pow2 (-126)) }

/-- The largest finite BF16 value. -/
def maxBf16 : Rat := maxFinite 8 7 127 true true

/-- s40_round (R330): hi, lo, the rounded value, and whether it saturated. -/
def s40Round (mode : Rounding) (u : Nat) (x : Rat) : Nat × Nat × Rat × Bool :=
  let neg := decide (x < 0)
  if ratAbs x > maxBf16 then
    let v := if neg then -maxBf16 else maxBf16
    (encodeMag 8 7 127 neg maxBf16, 0, v, true)
  else
    let qe := s40Unit (s40Hi x) - 24
    let n := roundMag mode neg u (ratAbs x) qe
    let mag := ((n : Nat) : Rat) * pow2 qe
    let y := if neg then -mag else mag
    let (hi, lo) := s40Split y
    (hi, lo, y, false)

/-- A stored element that an update leaves as it is (R331): FP32 and BF16 share their smallest normal value (R190, R332). -/
def keptElem (bits : Nat) (v : Val) : Elem :=
  { Elem.plain bits v with
    nan := decide (v = .nan), inf := decide (v = .pinf) || decide (v = .ninf)
    subnormal := match v with
      | .fin q => decide (q ≠ 0) && decide (ratAbs q < pow2 (-126))
      | _ => false }

/-- A tile that OPTIMIZE rewrites (R332): elements with the exact values that were rounded; `vals` gives the header's ceiling
exponent. No step flag but `saturated` comes from it (R265, R331). -/
def optTile (sr : Bool) (d : Desc) (j : List Nat) (f : List Nat → Elem × Pre × Val) : TileOut :=
  let els := gatherTile d j f
  let valid := els.filterMap id
  let es := valid.map Prod.fst
  { header :=
      { scales := plainScales, format := d.code
        flags := 2 * b2n (es.any Elem.nan) + 4 * b2n (es.any Elem.inf) + 8 * b2n (es.any Elem.sat) + 16 * b2n sr
        ceil := ceilOfVals (valid.map (fun p => p.2.2)), shape := d.shape, valid := valid.length, tid := d.tid % 2 ^ 32
        tidx := d.tidx j, tail := List.replicate 8 0#8 }
    payload := packElems d.code (els.map (fun o => (o.bind (fun p => p.1.bits)).getD 0))
    stats := { magStats (valid.map (fun p => p.2.1)) with
      tiles := 1, valid := valid.length, overflowed := es.countP Elem.overflowed, saturated := es.countP Elem.saturated
      flushed := es.countP Elem.flushed, subnormal := es.countP Elem.subnormal, nan := es.countP Elem.nan
      inf := es.countP Elem.inf }
    flags := 16 * b2n (es.any Elem.sat) }

/-- The parameters of an OPTIMIZE (R325, R328). -/
def optParams (s : State) (c : Nat) (o : Op) : OptParams :=
  let r := o.record
  let x := s.ctx c
  let e := recParam r 34 2
  { adam := recParam r 32 1 = 0, t := x.updates.toNat + 1, sig := if e = 0xFFFF then 0 else fieldS (x.entry e) 0 2
    lr := finOf (recParam r 36 4), beta1 := finOf (recParam r 40 4), beta2 := finOf (recParam r 44 4)
    eps := finOf (recParam r 48 4), wd := finOf (recParam r 52 4), gscale := finOf (recParam r 56 4), rev := s.tableRev
    cfg := recRound r }

/-- OPTIMIZE's work (R328 to R332). -/
def optimizeWork (s : State) (c : Nat) (o : Op) : Result := orStop do
  let x := s.ctx c
  let r := o.record
  let p := optParams s c o
  let out := x.desc (recOut r)
  let by' := fun (d : Desc) => readTensorBy s o (readerOf o out d id) d
  let g ← by' (x.desc (recIn r 0))
  let m ← by' (x.desc (recIn r 1))
  let v ← if p.adam then (by' (x.desc (recIn r 2))).map some else .ok none
  let lo ← by' (x.desc (recIn r 3))
  let hi ← by' out
  let elem := fun (y : List Nat) => optElem p (g.pre y) (m.pre y) ((v.map (fun t => t.pre y)).getD (.fin 0)) (pairVal hi lo y).pre
  let draw := fun (y : List Nat) => if p.cfg.mode = .sr then srBits o.seed.toNat out.tid o.step.toNat (out.linear y) else 0
  let pair := fun (y : List Nat) =>
    let e := elem y
    let w := pairVal hi lo y
    if e.kept then
      -- beside an infinity or a NaN the lo part is written as zero (R60)
      let l := match decodeElem 0x01 (hi.bits y) with
        | .fin _ => lo.bits y
        | _ => 0
      (keptElem (hi.bits y) (decodeElem 0x01 (hi.bits y)), keptElem l (.fin 0), w.pre, w)
    else
      let (h, l, z, sat) := s40Round p.cfg.mode (draw y) e.big
      let flushed := decide (e.big ≠ 0) && decide (z = 0)
      let hv := decodeElem 0x01 h
      let sub := match hv with
        | .fin q => decide (q ≠ 0) && decide (ratAbs q < pow2 (-126))
        | _ => false
      ({ Elem.plain h hv with saturated := sat, sat := sat, flushed := flushed, subnormal := sub },
       { Elem.plain l (.fin 0) with saturated := sat, sat := sat, flushed := flushed }, .fin e.big, .fin z)
  let moment := fun (t : Tens) (pick : OptElem → Rat) (y : List Nat) =>
    let e := elem y
    if e.kept then (keptElem (t.bits y) (t.pre y).val, t.pre y, (t.pre y).val)
    else (momentElem (pick e), Pre.fin (pick e), (momentElem (pick e)).val)
  let sr := p.cfg.mode = .sr
  let bad := fun (y : List Nat) => g.poisonAt y
  let none' := fun (_ : List Nat) => Pre.fin 0
  let tilesOf := fun (j : List Nat) =>
    [(m.d, weirPiece x o m.d j false bad none' (optTile false m.d j (moment m OptElem.m)))]
      ++ (match v with
        | some t => [(t.d, weirPiece x o t.d j false bad none' (optTile false t.d j (moment t OptElem.v)))]
        | none => [])
      ++ [(lo.d, weirPiece x o lo.d j false bad (fun y => (pair y).2.2.1) (optTile sr lo.d j (fun y => let q := pair y; (q.2.1, q.2.2.1, q.2.2.2)))),
          (out, weirPiece x o out j false bad (fun y => (pair y).2.2.1)
            (optTile sr out j (fun y => let q := pair y; (q.1, q.2.2.1, q.1.val))))]
  -- each tensor's slots that hold a tile (R205), up to a poisoned word of the gradient (R517)
  let pieces := (upToPoison (out.anyIn bad) out.allTiles).flatMap (fun j => ((tilesOf j).filter (fun q => !q.1.offGrid j)).map Prod.snd)
  let all := (out.allTiles.map (fun j => (out.elems j).map Prod.snd)).flatten
  let kept := all.countP (fun y => (elem y).kept)
  .ok { Result.ofTiles pieces with
    flags := if all.any (fun y => (elem y).saturated) then 16 else 0
    events := if kept = 0 then [] else [⟨56 * o.fields.headD 0 + 4, 1, 0x0103, kept, 0⟩] }

/-- Two views have the same rank, extents, shape code and flip bits (R324). -/
def sameForm (a b : Desc) : Bool := sameExtents a b && a.shape = b.shape && a.dims.map Dim.flip = b.dims.map Dim.flip

/-- A finite FP32 parameter within bounds, its sign bit clear (R325). -/
def nonNegParam (bits : Nat) : Bool := isFin32 bits && !bitOf bits 31

/-- A decay from +0 inclusive to 1 exclusive. -/
def decayParam (bits : Nat) : Bool := nonNegParam bits && decide (finOf bits < 1)

/-- The issue checks of OPTIMIZE (R324, R325). -/
def optimizeCheck (own : Nat) (x : Ctx) (r : List Byte) : Nat :=
  let adam := recParam r 32 1 = 0
  let out := x.desc (recOut r)
  let g := x.desc (recIn r 0)
  let ts := ([recIn r 1] ++ (if recIn r 2 = 0xFFFF then [] else [recIn r 2]) ++ [recIn r 3]).map x.desc ++ [out]
  let fmtOk := (g.code = 0x00 || g.code = 0x01 || g.code = 0x18) && (x.desc (recIn r 1)).code = 0x00
    && (recIn r 2 = 0xFFFF || (x.desc (recIn r 2)).code = 0x00) && (x.desc (recIn r 3)).code = 0x19 && out.code = 0x01
  let eps := recParam r 48 4
  let parOk := recParam r 32 1 ≤ 1 && (recParam r 34 2 ≤ 4095 || recParam r 34 2 = 0xFFFF) && nonNegParam (recParam r 36 4)
    && decayParam (recParam r 40 4) && nonNegParam (recParam r 52 4) && isFin32 (recParam r 56 4) && finOf (recParam r 56 4) ≠ 0
    && (if adam then recIn r 2 ≠ 0xFFFF && decayParam (recParam r 44 4) && nonNegParam eps && decide (pow2 (-126) ≤ finOf eps)
          && decide (finOf eps ≤ 1)
        else recIn r 2 = 0xFFFF && recParam r 44 4 = 0 && eps = 0)
  let apart := (List.range ts.length).all (fun i => (List.range i).all (fun k =>
    !(ts.getD i g).overlaps own (ts.getD k g))) && ts.all (fun t => !t.overlaps own g)
  if !fmtOk then stFormat
  else if !parOk || !ts.all (sameForm g) then stBadParam
  else if !apart then stOverlap
  else stOk

/-! ## SCALE_UPDATE (R334 to R337) -/

/-- Fields of a keeper entry (R333). -/
def keepScale (e : List Byte) : Int := fieldS e 0 2
def keepAnchor (e : List Byte) : Int := fieldS e 2 2
def keepTarget (e : List Byte) : Int := fieldS e 4 2
def keepMargin (e : List Byte) : Nat := field e 6 1
def keepBackoff (e : List Byte) : Nat := field e 7 1
def keepKind (e : List Byte) : Nat := field e 8 1
def keepSrc (e : List Byte) : Nat := field e 9 1
def keepSrcIndex (e : List Byte) : Nat := field e 10 2
def keepLink (e : List Byte) : Nat := field e 12 2

/-- An entry obeys R334. -/
def entryOk (x : Ctx) (e : List Byte) : Bool :=
  keepKind e = 0 || (keepKind e ≤ 3 && keepSrc e ≤ 1 && keepSrcIndex e ≤ 4095
    && (keepLink e = 0xFFFF || keepLink e ≤ 4095) && (keepSrc e = 0 || (x.desc? (keepSrcIndex e)).isSome))

/-- An entry takes its candidate from an S40 lo tensor, whose ceiling no unit reads (R59, R60). -/
def readsLo (x : Ctx) (e : List Byte) : Bool := keepKind e ≠ 0 && keepSrc e = 1 && (x.desc (keepSrcIndex e)).code = 0x19

/-- Entries of a SCALE_UPDATE. -/
def scaleRange (r : List Byte) : List Nat := (List.range (recParam r 34 2)).map (fun i => recParam r 32 2 + i)

/-- The step is faulty for a SCALE_UPDATE (R335). -/
def Ctx.faulty (x : Ctx) (mask : Nat) : Bool := x.flags.toNat &&& mask != 0 || x.skipped

/-- The candidate ceiling of an entry (R335). -/
def candidate (s : State) (c : Nat) (o : Op) (e : List Byte) : Except Stop Int :=
  let x := s.ctx c
  if keepSrc e = 0 then
    let t := tableGet x.stats (keepSrcIndex e) StatRec.zero
    .ok (if t.step = x.step then t.ceilMax else -32768)
  else
    let d := x.desc (keepSrcIndex e)
    (readTile s o d (d.dims.map (fun _ => 0))).map (fun t => t.hdr.ceil)

/-- Round 1 of R335: the scale before and after its clamp. -/
def newScale (faulty : Bool) (c : Int) (e : List Byte) : Int × Int :=
  let s := if faulty then keepScale e - keepBackoff e
    else if c ≠ -32768 then keepTarget e - keepMargin e - (c - keepScale e) else keepScale e
  (s, min (max s (-126)) 127)

/-- Round 2 of R335: the anchor before and after its clamp. -/
def newAnchor (faulty : Bool) (c dl : Int) (e : List Byte) : Int × Int :=
  let a := if faulty then keepAnchor e + keepBackoff e + dl
    else if c ≠ -32768 then c + keepMargin e - 1 + dl else keepAnchor e + dl
  (a, min (max a (-2048)) 2047)

/-- The history word after an update (R337). -/
def newHistory (old : Nat) (faulty empty clamped : Bool) : Nat :=
  let clean := if faulty then 0 else satAdd 255 (old % 256) 1
  let bad := if faulty then satAdd 255 (bitsOf old 8 8) 1 else 0
  clean + 256 * bad + 2 ^ 16 * b2n faulty + 2 ^ 17 * b2n empty + 2 ^ 18 * b2n clamped

/-- An entry after both rounds; `dl` is the change of the scale of its link. -/
def newEntry (faulty : Bool) (c dl : Int) (e : List Byte) : List Byte :=
  if keepKind e = 0 then e
  else
    let (s, s') := newScale faulty c e
    let (a, a') := newAnchor faulty c dl e
    let keepsS := bitOf (keepKind e) 0
    let keepsA := bitOf (keepKind e) 1
    let clamped := (keepsS && s != s') || (keepsA && a != a')
    leBytes 2 (lowBits 16 (if keepsS then s' else keepScale e)) ++ leBytes 2 (lowBits 16 (if keepsA then a' else keepAnchor e))
      ++ bytesAt e 4 10 ++ leBytes 2 (lowBits 16 c) ++ leBytes 4 (newHistory (field e 16 4) faulty (decide (c = -32768)) clamped)
      ++ bytesAt e 20 12

/-- A keeper table after entries have been written into it; one that keeps nothing is left as it is (R334). -/
def keptEntries (new : List (Nat × List Byte)) (table : List (Nat × List Byte)) : List (Nat × List Byte) :=
  new.foldl (fun t p => if keepKind p.2 = 0 then t else tablePut t p.1 p.2) table

/-- SCALE_UPDATE's new entries and its output tensor (R334, R335), from the entries of its issue (R545). -/
def scaleWork (s : State) (c : Nat) (o : Op) : Except Stop (List (Nat × List Byte) × List Piece) := do
  let x := s.ctx c
  let r := o.record
  let range := scaleRange r
  if !range.all (fun i => entryOk x (x.entry i)) then .error (Stop.plain stBadParam)
  if range.any (fun i => readsLo x (x.entry i)) then .error (Stop.plain stFormat)
  let faulty := x.faulty (recParam r 36 4)
  let cs ← range.mapM (fun i =>
    if keepKind (x.entry i) = 0 then .ok (i, (0 : Int)) else (candidate s c o (x.entry i)).map (fun v => (i, v)))
  let change := fun (i : Nat) => match cs.find? (fun p => p.1 == i) with
    | some (_, v) => if bitOf (keepKind (x.entry i)) 0 then (newScale faulty v (x.entry i)).2 - keepScale (x.entry i) else 0
    | none => 0
  let new := cs.map (fun p =>
    let e := x.entry p.1
    (p.1, newEntry faulty p.2 (if keepLink e = 0xFFFF then 0 else change (keepLink e)) e))
  let pieces := if recOut r = 0xFFFF then [] else
    let d := x.desc (recOut r)
    let val := fun (y : List Nat) => Pre.fin (pow2 (keepScale ((new.getD (y.headD 0) (0, [])).2)))
    d.outTiles.map (fun j => weirPiece x o d j false (fun _ => false) val (storeTile o (recRound r) d j val))
  .ok (new, pieces)

/-- The issue checks of SCALE_UPDATE (R334). -/
def scaleCheck (x : Ctx) (r : List Byte) : Nat :=
  let n := recParam r 34 2
  let out := x.desc (recOut r)
  if n < 1 || 4096 < n || 4096 < recParam r 32 2 + n then stBadParam
  else if recOut r = 0xFFFF then stOk
  else if out.code ≠ 0x00 then stFormat
  else if out.rank ≠ 1 || out.n 0 ≠ n then stBadParam
  else stOk

end Sys2Proof.Machine
end

