-- ==== Sys2Proof/Machine/Matrix.lean ====
section
/-! DEFINITION. Matrix operations (09 R270 to R286, 04 R107 to R136): their checks, where an element of A, B and C lies, the
shares of a division, blocks and passes, and the words that one pass adds. -/
namespace Sys2Proof.Machine

/-! ## Record fields -/

def recTrans (r : List Byte) : Bool := bitOf (recParam r 48 1) 1
def recBatch (r : List Byte) : Nat := recParam r 44 4
def recGroups (r : List Byte) : Nat := recParam r 44 4
def recScratch (r : List Byte) : Nat := recParam r 72 2

/-- Kernel, stride, dilation and padding along spatial dimension `d` (R277). -/
def convDim (r : List Byte) (d : Nat) : Nat × Nat × Nat × Nat :=
  (recParam r (48 + 8 * d) 2, recParam r (50 + 8 * d) 2, recParam r (52 + 8 * d) 2, recParam r (54 + 8 * d) 2)

/-- Spatial dimensions (R277). -/
def convDims (r : List Byte) : Nat := recParam r 44 1

/-! ## Checks (R268) -/

/-- A record value of zero is not compared with an extent (R270). -/
def fits (v n : Nat) : Bool := v = 0 || n = v

/-- A view lies in the reservoirs of its operation's field group (R117). -/
def streamOk (own : Nat) (r : List Byte) (a : Desc) : Bool :=
  let (_, _, lo, hi) := a.range own
  isLocal own a.base && gaSpace a.base = 1 && (groupFields (recGroup r)).contains (lo.toNat / 2 ^ 32)
    && (groupFields (recGroup r)).contains (hi.toNat / 2 ^ 32)

/-- Two operands that the array may pair (R47, R271, R110). -/
def pairOk (trans : Bool) (a b : Desc) : Bool :=
  arrayOperand a.code && arrayOperand b.code && plainInt a.code == plainInt b.code && !(trans && blockScaled b.code)

/-- The flags that a matrix record may set with its output (R250, R269, R69). -/
def matFlagsOk (r : List Byte) (out : Desc) : Bool :=
  (!recAccWrite r || out.code = 0x18) && (!recWitness r || sampled out.code) && (recAnchorMode r ≠ 3 || out.code = 0x18)

/-- Issue checks of MATMUL (R270 to R273). -/
def matmulCheck (own : Nat) (x : Ctx) (r : List Byte) : Nat :=
  let a := x.desc (recIn r 0)
  let b := x.desc (recIn r 1)
  let c := x.desc (recOut r)
  let tr := recTrans r
  let rest := fun (d : Desc) => d.ext.drop 2
  if !pairOk tr a b || c.code = 0x19 then stFormat
  else if !streamOk own r a || !matFlagsOk r c || a.rank < 2 || b.rank ≠ a.rank || c.rank ≠ a.rank
      || !(fits (recK r) (a.n 0) && fits (recM r) (a.n 1) && fits (recK r) (b.n (b2n tr)) && fits (recN r) (b.n (1 - b2n tr))
        && fits (recN r) (c.n 0) && fits (recM r) (c.n 1))
      || rest a ≠ rest c || rest b ≠ rest a || recBatch r = 0 || prod (rest a) ≠ recBatch r
      || (recAccumulate r && recBatch r ≠ 1) then stBadParam
  else stOk

/-- Issue checks of MATMUL_GROUPED (R274). -/
def groupedCheck (own : Nat) (x : Ctx) (r : List Byte) : Nat :=
  let a := x.desc (recIn r 0)
  let b := x.desc (recIn r 1)
  let ix := x.desc (recIn r 2)
  let c := x.desc (recOut r)
  let tr := recTrans r
  if !pairOk tr a b || c.code = 0x19 || ix.code ≠ 0x12 then stFormat
  else if !streamOk own r a || !matFlagsOk r c || a.rank ≠ 2 || b.rank ≠ 3 || c.rank ≠ 2 || ix.rank ≠ 1
      || !(fits (recK r) (a.n 0) && fits (recM r) (a.n 1) && fits (recK r) (b.n (b2n tr)) && fits (recN r) (b.n (1 - b2n tr))
        && fits (recN r) (c.n 0) && fits (recM r) (c.n 1))
      || recGroups r = 0 || 65536 < recGroups r || b.n 2 ≠ recGroups r || ix.n 0 ≠ recGroups r + 1 then stBadParam
  else stOk

/-- Every tile of slice `i` along the last dimension lies in the reservoir of a field (R278, R281): the tiles that hold an element
of the slice, whatever the tile's extent along it. -/
def sliceAt (own : Nat) (d : Desc) (i f : Nat) : Bool :=
  let t := ((d.dims.map Dim.t).getLastD 1)
  (d.outTiles.filter (fun j => j.getLastD 0 == i / t)).all (fun j =>
    isLocal own (d.slotAddr j) && gaSpace (d.slotAddr j) = 1 && gaOffset (d.slotAddr j) / 2 ^ 32 = f)

/-- Slice i lies in the field at position i, for every available field. -/
def slicesAt (own : Nat) (d : Desc) (fs : List Nat) : Bool :=
  (fs.zip (List.range fs.length)).all (fun p => sliceAt own d p.2 p.1)

/-- Output extent along a spatial dimension, none for parameters out of range (R277). -/
def convOut (r : List Byte) (a : Desc) (d : Nat) : Option Nat :=
  let (k, st, dil, pad) := convDim r d
  let num : Int := (a.n (d + 1) : Int) + 2 * pad - dil * ((k : Int) - 1) - 1
  if k = 0 || st = 0 || dil = 0 || num < 0 then none else some (num.toNat / st + 1)

/-- Issue checks of CONV (R277 to R280). -/
def convCheck (own : Nat) (fs : List Nat) (x : Ctx) (r : List Byte) : Nat :=
  let a := x.desc (recIn r 0)
  let b := x.desc (recIn r 1)
  let c := x.desc (recOut r)
  let sc := x.desc (recScratch r)
  let s := convDims r
  let kernel := prod ((List.range s).map (fun d => (convDim r d).1))
  let ok := 1 ≤ s && s ≤ 3 && a.rank = s + 2 && c.rank = s + 2 && b.rank = 2
    && (List.range s).all (fun d => convOut r a d = some (c.n (d + 1))) && c.n (s + 1) = a.n (s + 1)
    && fits (recM r) (prod (c.ext.drop 1)) && fits (recN r) (c.n 0) && c.n 0 = b.n 1
    && fits (recK r) (a.n 0 * kernel) && b.n 0 = a.n 0 * kernel
    && sc.code = a.code && sc.rank = 3 && sc.n 0 = a.n 0 * kernel && sc.n 1 % 64 = 0 && decide (64 ≤ sc.n 1)
    && sc.n 2 = (groupFields (recGroup r)).length && slicesAt own sc fs
  if !pairOk false a b || c.code = 0x19 || (blockScaled a.code && a.n 0 % 32 ≠ 0) then stFormat
  else if !ok || !matFlagsOk r c || gaSpace a.base = 3 then stBadParam
  else stOk

/-- Issue checks of ATTENTION (R281). -/
def attentionCheck (own : Nat) (fs : List Nat) (x : Ctx) (r : List Byte) : Nat :=
  let q := x.desc (recIn r 0)
  let k := x.desc (recIn r 1)
  let v := x.desc (recIn r 2)
  let o := x.desc (recOut r)
  let d := recK r
  let hq := recParam r 44 2
  let hkv := recParam r 46 2
  let vt := bitOf (recParam r 56 1) 1
  let pf := recParam r 57 1
  let mi := recParam r 58 2
  let mk := x.desc mi
  let sb := x.desc (recParam r 60 2)
  let pb := x.desc (recParam r 62 2)
  let rs := x.desc (recParam r 64 2)
  let nN := k.n 1
  let nM := q.n 1
  let sbOk := recParam r 60 2 ≠ 0xFFFF && recParam r 62 2 ≠ 0xFFFF
  let fmtOk := pairOk false q k && arrayOperand v.code && !plainInt v.code && !(vt && blockScaled v.code)
    && o.code ≠ 0x18 && o.code ≠ 0x19 && (mi = 0xFFFF || mk.code = 0x10) && sb.code = 0x00 && pb.code = pf
    && (recParam r 64 2 = 0xFFFF || rs.code = 0x00)
  let ok := sbOk && (pf = 0x01 || pf = 0x04) && d % 32 = 0 && decide (32 ≤ d) && decide (d ≤ 512) && decide (0 < hq) && decide (0 < hkv)
    && hq % hkv = 0 && isFin32 (recParam r 48 4) && finOf (recParam r 48 4) ≠ 0
    && q.rank = 3 && k.rank = 3 && v.rank = 3 && o.rank = 3 && q.ext = [d, nM, hq] && k.ext = [d, nN, hkv]
    && v.ext = (if vt then [d, nN, hkv] else [nN, d, hkv]) && o.ext = [d, nM, hq] && fits (recM r) nM && fits (recN r) nN
    && (mi = 0xFFFF || (mk.rank = 3 && (mk.ext = [nN, nM, 1] || mk.ext = [nN, nM, hq])))
    && sb.rank = 4 && (sb.n 2 = 1 || sb.n 2 = 2) && sb.ext = [nN, nM, sb.n 2, (groupFields (recGroup r)).length]
    && pb.rank = 4 && pb.ext = sb.ext && slicesAt own sb fs && slicesAt own pb fs
    && (recParam r 64 2 = 0xFFFF || rs.ext = [2, nM, hq])
  if !sbOk then stBadParam
  else if !fmtOk then stFormat
  else if !ok || !streamOk own r q then stBadParam
  else stOk

/-! ## Where elements lie (R270, R274, R277) -/

/-- A product's extents and the places of its elements: the output of (batch, m, n), A's element of (batch, m, k), none where
CONV reads beyond its input, B's element of (batch, group, k, n). -/
structure Geo where
  m : Nat
  n : Nat
  k : Nat
  batch : Nat
  a : Desc
  b : Desc
  out : Desc
  outAt : Nat → Nat → Nat → List Nat
  aAt : Nat → Nat → Nat → Option (List Nat)
  bAt : Nat → Nat → Nat → Nat → List Nat

/-- The input coordinates that lowered element `k` of output position `m` reads (R277, R278). -/
def convSource (r : List Byte) (a c : Desc) (m k : Nat) : Option (List Nat) :=
  let s := convDims r
  let pos := unrank (c.ext.drop 1) m
  let kap := unrank ((List.range s).map (fun d => (convDim r d).1)) (k / a.n 0)
  let xs : List Int := (List.range s).map (fun d =>
    let (_, st, dil, pad) := convDim r d
    (pos.getD d 0 * st + kap.getD d 0 * dil : Nat) - (pad : Int))
  if (xs.zip (List.range s)).all (fun p => decide (0 ≤ p.1) && decide (p.1 < (a.n (p.2 + 1) : Int))) then
    some (k % a.n 0 :: xs.map Int.toNat ++ [pos.getD s 0])
  else none

/-- The geometry of a matrix record. -/
def geoOf (x : Ctx) (r : List Byte) : Geo :=
  let a := x.desc (recIn r 0)
  let b := x.desc (recIn r 1)
  let c := x.desc (recOut r)
  let batchAt := fun (p : Nat) => unrank (a.ext.drop 2) p
  let flip := fun (k n : Nat) => if recTrans r then [n, k] else [k, n]
  { m := recM r, n := recN r, k := recK r, batch := if recOp r = 0x1000 then recBatch r else 1, a := a, b := b, out := c
    outAt := fun p m n => if recOp r = 0x1002 then n :: unrank (c.ext.drop 1) m else [n, m] ++ (if recOp r = 0x1000 then batchAt p else [])
    aAt := fun p m k => if recOp r = 0x1002 then convSource r a c m k else some ([k, m] ++ (if recOp r = 0x1000 then batchAt p else []))
    bAt := fun p g k n => if recOp r = 0x1002 then [k, n] else flip k n ++ (if recOp r = 0x1001 then [g] else batchAt p) }

/-- Batch, row and column of an output coordinate (R270, R277). -/
def placeOfOut (r : List Byte) (g : Geo) (y : List Nat) : Nat × Nat × Nat :=
  if recOp r = 0x1002 then (0, rankOf (g.out.ext.drop 1) (y.drop 1), y.getD 0 0)
  else (if recOp r = 0x1000 then rankOf (g.out.ext.drop 2) (y.drop 2) else 0, y.getD 1 0, y.getD 0 0)

/-- The width class of a matrix record: that of the wider operand (R62). -/
def Geo.cls (g : Geo) : Nat := max (widthClass g.a.code) (widthClass g.b.code)

/-- The anchor of a product under DEFAULT (R67, R68, R127). -/
def prodAnchor (ca cb : Int) : Int := if ca = -32768 || cb = -32768 then 0 else ca + cb - 1

/-- The anchor of a matrix operation (R15, R67 to R70, R127). DEDUCED (log 96): with K = 0 there is no product, and the DEFAULT anchor
of an integer pair is R127's 0 too. -/
def matAnchor (s : State) (c : Nat) (o : Op) : Except Stop Int := do
  let x := s.ctx c
  let g := geoOf x o.record
  let ints := plainInt g.a.code
  let dflt ← if g.k = 0 then .ok 0 else if ints then .ok 96 else if recAnchorMode o.record ≠ 0 then .ok 0 else do
    let ta ← readTensor s o g.a
    let tb ← readTensor s o g.b
    .ok (prodAnchor ta.ceil tb.ceil)
  let a ← anchorFor s c o g.out dflt
  if ints && a ≠ 96 && !(g.k = 0 && recAnchorMode o.record = 0) then .error (Stop.plain stAnchor) else .ok a

/-! ## Shares, blocks and passes (R107, R125, R126, R133, R134) -/

/-- The shares of g fields when axis 0 N, 1 M or 2 K is divided (R133). -/
def sharesOf (m n k g axis : Nat) : List Share :=
  (List.range g).map (fun i =>
    let cut := fun (a len : Nat) => if axis = a then sliceOf len g i else (0, len)
    let (nl, nh) := cut 0 n
    let (ml, mh) := cut 1 m
    let (kl, kh) := cut 2 k
    { mLo := ml, mHi := mh, nLo := nl, nHi := nh, kLo := kl, kHi := kh })

/-- The field takes part in the operation (R133). -/
def Share.used (h : Share) : Bool := h.mLo < h.mHi && h.nLo < h.nHi && h.kLo < h.kHi

/-- Largest extents of M, N and K among shares. -/
def largest (l : List Share) : Nat × Nat × Nat :=
  l.foldl (fun b h => (max b.1 (h.mHi - h.mLo), max b.2.1 (h.nHi - h.nLo), max b.2.2 (h.kHi - h.kLo))) (0, 0, 0)

/-- A share of m rows and n columns is one output block (R126). -/
def oneBlock (m n : Nat) : Bool := n ≤ 512 && ceilDiv m 32 ≤ 256

/-- The request of R142 and the minimum of R144. -/
def request (m n : Nat) : Nat × Nat :=
  let t := ceilDiv m 32
  if oneBlock m n then (t, t) else (min 256 (2 * t), 2)

/-- M_pass (R126, R278). -/
def mPass (m n grant : Nat) (chunk : Option Nat) : Nat :=
  let v := if oneBlock m n then 32 * grant else 32 * (grant / 2)
  match chunk with
  | some c => min c v
  | none => v

/-- Consecutive ranges of at most w from lo to hi. -/
def stepsOf (lo hi w : Nat) : List (Nat × Nat) :=
  (List.range (ceilDiv (hi - lo) w)).map (fun i => (lo + i * w, min hi (lo + (i + 1) * w)))

/-- The cost of R134 for largest shares m, n, k. -/
def costOf (cls m n k mp : Nat) : Nat :=
  let kp := kPerPass cls
  let rk := activeRows cls (min k kp)
  ceilDiv k kp * ceilDiv n 512 * ((stepsOf 0 m mp).map (fun b => max (b.2 - b.1) rk)).sum

/-- An output block of a field: product, columns, rows. -/
structure Block where
  batch : Nat
  n0 : Nat
  n1 : Nat
  m0 : Nat
  m1 : Nat
  deriving DecidableEq, Repr

/-- One pass: its block, streamed rows, group, range of K, whether it is its block's first and last. -/
structure Pass where
  blk : Block
  r0 : Nat
  r1 : Nat
  g : Nat
  k0 : Nat
  k1 : Nat
  first : Bool
  last : Bool
  deriving DecidableEq, Repr

/-- The output blocks of a share in the order of R125, or of R279 for CONV. -/
def blocksOf (conv : Bool) (batch mp : Nat) (h : Share) : List Block :=
  let ns := stepsOf h.nLo h.nHi 512
  let ms := stepsOf h.mLo h.mHi mp
  ((List.range batch).map (fun p =>
    if conv then (ms.map (fun m => ns.map (fun n => (⟨p, n.1, n.2, m.1, m.2⟩ : Block)))).flatten
    else (ns.map (fun n => ms.map (fun m => (⟨p, n.1, n.2, m.1, m.2⟩ : Block)))).flatten)).flatten

/-- The groups' rows within a block, in ascending order (R274, R276). -/
def partsOf (offsets : List Nat) (b : Block) : List (Nat × Nat × Nat) :=
  if offsets.isEmpty then [(b.m0, b.m1, 0)]
  else (List.range (offsets.length - 1)).filterMap (fun g =>
    let lo := max b.m0 (offsets.getD g 0)
    let hi := min b.m1 (offsets.getD (g + 1) 0)
    if lo < hi then some (lo, hi, g) else none)

/-- The passes of a block. -/
def passesOf (cls : Nat) (offsets : List Nat) (h : Share) (b : Block) : List Pass :=
  let ps := ((partsOf offsets b).map (fun q =>
    (stepsOf h.kLo h.kHi (kPerPass cls)).map (fun k => (q.1, q.2.1, q.2.2, k.1, k.2)))).flatten
  (ps.zip (List.range ps.length)).map (fun q =>
    ⟨b, q.1.1, q.1.2.1, q.1.2.2.1, q.1.2.2.2.1, q.1.2.2.2.2, q.2 == 0, q.2 + 1 == ps.length⟩)

/-- Rows of a CONV chunk (R278). -/
def chunkOf (x : Ctx) (r : List Byte) : Option Nat := if recOp r = 0x1002 then some ((x.desc (recScratch r)).n 1 / 2) else none

/-- The output blocks of the field at a position. -/
def matBlocks (x : Ctx) (o : Op) (u : MatRun) (i : Nat) : List Block :=
  let g := geoOf x o.record
  let h := u.shares.getD i ⟨0, 0, 0, 0, 0, 0⟩
  blocksOf (recOp o.record = 0x1002) g.batch (mPass (h.mHi - h.mLo) (h.nHi - h.nLo) u.grant (chunkOf x o.record)) h

/-- The passes of the field at a position, in issue order. -/
def matPasses (x : Ctx) (o : Op) (u : MatRun) (i : Nat) : List Pass :=
  let h := u.shares.getD i ⟨0, 0, 0, 0, 0, 0⟩
  ((matBlocks x o u i).map (passesOf (geoOf x o.record).cls u.offsets h)).flatten

/-! ## Operands and words of a pass -/

/-- A tile holds an element of the ranges given for each dimension. -/
def Desc.meets (d : Desc) (rs : List (Nat × Nat)) (j : List Nat) : Bool :=
  (d.dims.zip (rs.zip j)).all (fun p =>
    p.1.stride = 0 || (decide (p.2.2 * p.1.t < p.2.1.2) && decide (p.2.1.1 < (p.2.2 + 1) * p.1.t)))

/-- Read the tiles of a view that meet a condition; the others stay zero. -/
def readWhere (s : State) (o : Op) (d : Desc) (p : List Nat → Bool) : Except Stop Tens :=
  (d.allTiles.mapM (fun j => if p j then readTile s o d j else .ok (TileData.zero d.code))).map (fun l =>
    { d := d, tiles := l.toArray })

/-- The tiles of A that a pass reads. -/
def passA (r : List Byte) (g : Geo) (p : Pass) (j : List Nat) : Bool :=
  if recOp r = 0x1002 then
    (List.range (p.r1 - p.r0)).any (fun i => (List.range (p.k1 - p.k0)).any (fun t =>
      match g.aAt 0 (p.r0 + i) (p.k0 + t) with
      | some y => decide (g.a.tileOf y = j)
      | none => false))
  else
    let bs := (unrank (g.a.ext.drop 2) p.blk.batch).map (fun v => (v, v + 1))
    g.a.meets ([(p.k0, p.k1), (p.r0, p.r1)] ++ (if recOp r = 0x1000 then bs else [])) j

/-- The tiles of B that a pass reads. -/
def passB (r : List Byte) (g : Geo) (p : Pass) (j : List Nat) : Bool :=
  let kn := if recTrans r && recOp r ≠ 0x1002 then [(p.blk.n0, p.blk.n1), (p.k0, p.k1)] else [(p.k0, p.k1), (p.blk.n0, p.blk.n1)]
  let bs := (unrank (g.a.ext.drop 2) p.blk.batch).map (fun v => (v, v + 1))
  g.b.meets (kn ++ (if recOp r = 0x1000 then bs else if recOp r = 0x1001 then [(p.g, p.g + 1)] else [])) j

/-! ## The cells of the array (R7, R99 to R113) -/

/-- The bed that covers an active row and column (R7). -/
def bedOf (row col : Nat) : Nat := 4 * (row / 128) + col / 128

/-- The active array row that holds element k of a pass, the upper one of its two in class 32 (R107). -/
def rowOfK (cls k : Nat) : Nat :=
  match cls with
  | 32 => 2 * k
  | 16 => k
  | 8 => k / 2
  | _ => k / 4

/-- The 16 bits that the load delivers to the cell of active row r (R107); a slot without an element is gated (R109). A narrower
element keeps its encoding in the low bits of its slot (log 97). -/
def cellBits (cls kp : Nat) (bits : Nat → Nat) (r : Nat) : BitVec 16 :=
  let slot := fun (w k : Nat) => if k < kp then bits k % 2 ^ w else 0
  BitVec.ofNat 16 (match cls with
    | 32 => if r % 2 = 0 then slot 32 (r / 2) / 65536 else slot 32 (r / 2)
    | 16 => slot 16 r
    | 8 => slot 8 (2 * r) + 256 * slot 8 (2 * r + 1)
    | _ => ((List.range 4).map (fun i => 16 ^ i * slot 4 (4 * r + i))).sum)

/-- The loaded bits of the cell of an active row and column. -/
def CellBlock.cell (b : CellBlock) (r n : Nat) : Nat := ((b.cells.getD r []).getD n 0#16).toNat

/-- The encoding that the cells of column n hold for element k (R107). -/
def CellBlock.bits (b : CellBlock) (k n : Nat) : Nat :=
  match b.cls with
  | 32 => 65536 * b.cell (2 * k) n + b.cell (2 * k + 1) n
  | 16 => b.cell k n
  | 8 => b.cell (k / 2) n / 256 ^ (k % 2) % 256
  | _ => b.cell (k / 4) n / 16 ^ (k % 4) % 16

/-- The exact value that column n multiplies element k of the stream with (R53, R107, R111). -/
def CellBlock.val (b : CellBlock) (k n : Nat) : Val :=
  elemVal b.code ((b.scales.getD k []).getD n 0x7F#8).toNat (b.bits k n)

/-- The block holds the operand of this pass. -/
def CellBlock.serves (c : Nat) (seq : U32) (p : Pass) (b : CellBlock) : Bool :=
  b.ctx == c && b.seq == seq && b.batch == p.blk.batch && b.g == p.g && b.k0 == p.k0 && b.k1 == p.k1 && b.n0 == p.blk.n0
    && b.n1 == p.blk.n1

/-- The load of a pass's block (R107 to R111): `at'` gives encoding and scale byte of element (k, n) of the block. -/
def loadCells (c : Nat) (seq : U32) (p : Pass) (cls code : Nat) (at' : Nat → Nat → Nat × Nat) (began lead : Nat) : CellBlock :=
  let kp := p.k1 - p.k0
  let cols := List.range (p.blk.n1 - p.blk.n0)
  { ctx := c, seq := seq, batch := p.blk.batch, g := p.g, k0 := p.k0, k1 := p.k1, n0 := p.blk.n0, n1 := p.blk.n1, cls := cls, code := code
    cells := (List.range (activeRows cls kp)).map (fun r => cols.map (fun n => cellBits cls kp (fun k => (at' k n).1) r))
    scales := (List.range kp).map (fun k => cols.map (fun n => BitVec.ofNat 8 (at' k n).2))
    began := began, lead := lead }

/-- The word of one furrow for one streamed row (R100): each product is rounded into the window on its own, and the rounded products
are summed exactly before the word is written (R78, R79, R84). -/
def furrowWord (ws : List L128) : L128 :=
  if ws.any L128.poison then L128.poisoned
  else if ws.all (fun w => w.tag = .fin) then writeSum (ws.map L128.t).sum
  else L128.special (ws.foldl (fun t w => addTags t w.tag) .fin)

/-- Elements of K that one furrow holds (R99, R107): its 32 rows' worth. -/
def perFurrow (cls : Nat) : Nat := kPerPass cls / 32

/-- The column word of one streamed row whose `kp` rounded products `term` gives: the chain adds the 32 furrow words in order (R101,
R115). -/
def chainWord (cls kp : Nat) (term : Nat → L128) : L128 :=
  let e := perFurrow cls
  sumWords ((List.range 32).map (fun j => furrowWord ((List.range (min e (kp - j * e))).map (fun i => term (j * e + i)))))

/-- The sum of the passes that cover K (R107, R125): each pass's column word enters the basin word. -/
def passesWord (cls k : Nat) (term : Nat → L128) : L128 :=
  sumWords ((stepsOf 0 k (kPerPass cls)).map (fun q => chainWord cls (q.2 - q.1) (fun i => term (q.1 + i))))

/-- The column word of a stationary block. -/
def columnWord (b : CellBlock) (anchor : Int) (a : Nat → Val) (n : Nat) : L128 :=
  chainWord b.cls (b.k1 - b.k0) (fun k => enterVal anchor (mulVal (a k) (b.val k n)))

/-- The column word of row m and column n of a pass (R76, R101, R107, R115); `nan` marks streamed elements of a NaN block that the
lowering made (R42, R278). -/
def passWord (g : Geo) (anchor : Int) (ta : Tens) (nan : Nat → Nat → Bool) (b : CellBlock) (p : Pass) (m n : Nat) : L128 :=
  columnWord b anchor (fun k => if nan m (p.k0 + k) then .nan else match g.aAt p.blk.batch m (p.k0 + k) with
    | some y => (ta.pre y).val
    | none => .fin 0) (n - p.blk.n0)

/-- Active rows of a pass's load and streamed rows (R107, R122). -/
def Pass.rows (cls : Nat) (p : Pass) : Nat := activeRows cls (p.k1 - p.k0)
def Pass.len (p : Pass) : Nat := p.r1 - p.r0

/-- Array cycles in which the sequencer of a field issues one row: two at the slowest level (R596). -/
def State.pace (s : State) (f : Nat) : Nat := if s.level f = 4 then 2 else 1

/-- Cycles without a row that a sequence of passes costs at a pace, as (M_p, rows): the rows of the first load that a preload has `done`
not, waits for loads, the last 50 cycles (R122, R123, R137), the idle cycles of the pace (R596). -/
def stallsOf (pace done : Nat) (l : List (Nat × Nat)) : Nat :=
  match l with
  | [] => 0
  | p :: ps => (p.2 - done) + (((p :: ps).zip ps).map (fun q => max (pace * q.1.1) q.2.2 - q.1.1)).sum
      + (pace - 1) * ((p :: ps).getLast?.map Prod.fst).getD 0 + 50

/-- The event of a residue fault (R92, R150, R530): bed (R7) and column of the array, else tile row, basin row and column. -/
def residueEvent (f : Nat) (z : FaultSite) (row m col : Nat) : Ev :=
  ⟨56 * f + z.engine, 2, 0x0A01, z.engine,
   if z.engine = 0 then bedOf (32 * (z.furrow % 32)) col + 32 * col else row + 256 * (m % 32) + 8192 * col⟩

/-! ## Shadow and stationary words (R99, R107, R108, R113) -/

/-- The words of the active cells of a block, by 512 × row + column: what the cells make of their loaded bits (R107; log 97). -/
def CellBlock.words (b : CellBlock) : List (Nat × U32) :=
  (b.cells.zip (List.range b.cells.length)).flatMap (fun r => (r.1.zip (List.range r.1.length)).map (fun c =>
    (512 * r.2 + c.2, Config.cellWord b.cls b.code c.1)))

/-- A load writes the words of its active rows and columns (R108, R109); the other cells keep theirs. -/
def CellBlock.load (b : CellBlock) (l : List (Nat × U32)) : List (Nat × U32) :=
  l.filter (fun e => !(decide (e.1 / 512 < b.cells.length) && decide (e.1 % 512 < b.n1 - b.n0))) ++ b.words

/-- The load port fills the shadow with a block (R108), or leaves it as it is where none is loaded. -/
def Field.loadShadow (b : Option CellBlock) (g : Field) : Field :=
  { g with shadow := b, shadowWords := (b.map (fun b => b.load g.shadowWords)).getD g.shadowWords }

/-- The swap: every cell's shadow word becomes its stationary word (R113). -/
def Field.swap (b : CellBlock) (g : Field) : Field :=
  { g with shadowWords := b.load g.shadowWords, cellWords := b.load g.shadowWords, stationary := some b }

/-! ## The lowering buffer (R278) -/

/-- One element of a lowered row as its bits and scale byte: an exact zero beyond the input. -/
def loweredBits (t : Tens) (src : Option (List Nat)) : Nat × Nat :=
  match src with
  | some y => (t.bits y, t.scale y)
  | none => (0, 0x7F)

/-- A prism source as a tensor; a tile that did not read well is zeros. -/
def Src.tens (t : Src) : Tens := { d := t.d, tiles := ((List.range t.tiles.size).map t.tile).toArray }

/-- A chunk of lowered rows (R278): the field at position `pos` fills half `c` of its slice, `half` rows, with the output rows m0 to
m1 - 1. -/
structure Chunk where
  pos : Nat
  c : Nat
  half : Nat
  m0 : Nat
  m1 : Nat
  deriving DecidableEq, Repr

/-- The output row that scratch row y holds, none for a row that the chunk does not reach. -/
def Chunk.row? (h : Chunk) (y : Nat) : Option Nat :=
  let m := h.m0 + (y - h.half * h.c)
  if h.half * h.c ≤ y && m < h.m1 then some m else none

/-- The input coordinate of a scratch coordinate. -/
def Chunk.source (h : Chunk) (r : List Byte) (g : Geo) (y : List Nat) : Option (List Nat) :=
  (h.row? (y.getD 1 0)).bind (fun m => convSource r g.a g.out m (y.getD 0 0))

/-- The scratch tiles that a chunk fills, in the order in which the prism writes them (R217). -/
def Chunk.tiles (h : Chunk) (sc : Desc) : List (List Nat) :=
  (prismOrder sc).filter (sc.meets [(0, sc.n 0), (h.half * h.c, h.half * h.c + (h.m1 - h.m0)), (h.pos, h.pos + 1)])

/-- The input tiles that a scratch tile draws on (R215). -/
def Chunk.draws (h : Chunk) (r : List Byte) (g : Geo) (sc : Desc) (j : List Nat) : List Nat :=
  (((sc.elems j).filterMap (fun e => (h.source r g e.2).map (fun x => g.a.tidx (g.a.tileOf x)))).eraseDups).filter (fun i =>
    !g.a.offGrid (unrank g.a.grid i))

/-- A scratch tile as the prism writes it: row `half * c + (m - m0)` holds the lowered row m. Rows that the chunk does not reach
are zeros (log 28). -/
def loweredTile (r : List Byte) (g : Geo) (src : Src) (sc : Desc) (h : Chunk) (j : List Nat) : TileOut :=
  let code := sc.code
  let t := src.tens
  let blocks := splitBy 32 32 (gatherTile sc j (fun y => loweredBits t (h.source r g y)))
  -- a NaN element of a format without NaN makes its block a NaN block (R42)
  let nanB := fun (b : List (Option (Nat × Nat))) => !blockScaled code && b.any (fun e => e.any (fun v => v.2 = 0xFF))
  let scales := blocks.map (fun b => if nanB b then 0xFF#8
    else if blockScaled code then BitVec.ofNat 8 (((b.filterMap id).find? (fun e => e.2 ≠ 0x7F)).getD (0, 0x7F)).2 else 0x7F#8)
  let vals := (blocks.map (fun b => (b.filterMap id).map (fun e => if nanB b then Val.nan else elemVal code e.2 e.1))).flatten
  { header :=
      { scales := scales, format := code, shape := sc.shape, valid := vals.length, tid := sc.tid % 2 ^ 32, tidx := sc.tidx j
        flags := 2 * b2n (vals.any (fun v => v = .nan)) + 4 * b2n (vals.any (fun v => v = .pinf || v = .ninf))
          + drawnFlags src (h.draws r g sc j)
        ceil := ceilOfVals vals, tail := List.replicate 8 0#8 }
    payload := packElems code (blocks.map (fun b => b.map (fun e => if nanB b then 0 else (e.map Prod.fst).getD 0))).flatten, stats := StatRec.empty 0#32, flags := 0 }

/-- A scratch tile of field `f`, or the stop of a bad input tile (R211, R219). -/
def loweredPrism (r : List Byte) (g : Geo) (src : Src) (sc : Desc) (h : Chunk) (f : Nat) (j : List Nat) : PrismTile :=
  match worstStop ((h.draws r g sc j).filterMap src.stop?) with
  | some e =>
    { piece := if e.status = stPoisoned then some (poisonedPiece f sc j (sc.elems j).length 0) else none
      stop := some (e.atUnit f 3), requant := 0 }
  | none => { piece := some { pieceOf f sc j false (loweredTile r g src sc h j) with stats := none }, stop := none, requant := 0 }

/-- A streamed element (m, k) of a chunk lies in a NaN block of the lowered tensor (R42): an element of its block has none. -/
def loweredNan (r : List Byte) (g : Geo) (t : Tens) (sc : Desc) (h : Chunk) (m k : Nat) : Bool :=
  let y := [k, h.half * h.c + (m - h.m0), h.pos]
  !blockScaled sc.code && (sc.elems (sc.tileOf y)).any (fun e => e.1 / 32 == sc.pos y / 32
    && (h.source r g e.2).any (fun x => t.scale x = 0xFF))

/-- The input tiles that the supertiles of a chunk draw on, as the prism stages them (R217). -/
def Chunk.needs (h : Chunk) (r : List Byte) (g : Geo) (sc : Desc) : List (List (List StagedTile)) :=
  let js := h.tiles sc
  ((js.map sc.superOf).eraseDups).map (fun i => (js.filter (fun j => sc.superOf j == i)).map (fun j =>
    (h.draws r g sc j).map (fun n => (true, n, slotBytes g.a.code))))

/-- Input tiles that the prism reads for the last of a field's chunks so far, of which it begins `n` tiles: its buffer holds those staged
for the ones before (R217, R229). -/
def lastReads (r : List Byte) (g : Geo) (sc : Desc) (hs : List Chunk) (n : Nat) : Nat :=
  let past := (hs.dropLast.map (fun h => (h.tiles sc).length)).sum
  let supers := (hs.map (fun h => h.needs r g sc)).flatten
  readsOf (past + n) supers - readsOf past supers

end Sys2Proof.Machine
end

