-- ==== Sys2Proof/Machine/Attention.lean ====
section
/-! DEFINITION. ATTENTION (09 R281 to R286): scores, probabilities, outputs, row statistics, and the passes it counts. -/
namespace Sys2Proof.Machine

/-- Parameters of an ATTENTION record. -/
structure AttParams where
  d : Nat
  m : Nat
  n : Nat
  hq : Nat
  hkv : Nat
  scale : Rat
  causal : Bool
  offset : Int
  vt : Bool
  pCode : Nat
  deriving DecidableEq, Repr

/-- The parameters; M and N are the extents of Q and K. -/
def attParams (x : Ctx) (r : List Byte) : AttParams :=
  { d := recK r, m := (x.desc (recIn r 0)).n 1, n := (x.desc (recIn r 1)).n 1, hq := recParam r 44 2, hkv := recParam r 46 2
    scale := finOf (recParam r 48 4), causal := bitOf (recParam r 56 1) 0, offset := fieldS r 52 4
    vt := bitOf (recParam r 56 1) 1, pCode := recParam r 57 1 }

/-- The maximum of scores: NaN where there is one (R283). -/
def scoreMax (zs : List Val) : Val :=
  zs.foldl (fun b z => match b, z with
    | .nan, _ => .nan
    | _, .nan => .nan
    | .pinf, _ => .pinf
    | _, .pinf => .pinf
    | .ninf, z => z
    | b, .ninf => b
    | .fin p, .fin q => .fin (if p < q then q else p)) .ninf

/-- Where ATTENTION's residue checks fail (R512), as its passes reach the words: the scores of head, query and key, then the sums of
head, query and dimension, then the vector unit's sums of head and query. -/
structure AttFaults where
  score : Nat → Nat → Nat → Bool
  out : Nat → Nat → Nat → Bool
  row : Nat → Nat → Bool

/-- The words of an operation that a grant's failing checks name. -/
def AttParams.faults (p : AttParams) (l : List FaultSite) : AttFaults :=
  let at' := fun (n : Nat) => l.any (fun z => z.element == n)
  { score := fun h i j => at' ((h * p.m + i) * p.n + j)
    out := fun h i e => at' (p.hq * p.m * p.n + (h * p.m + i) * p.d + e)
    row := fun h i => at' (p.hq * p.m * (p.n + p.d) + h * p.m + i) }

/-- The head, query and column of a word that a failing check names. -/
def AttParams.place (p : AttParams) (n : Nat) : Nat × Nat × Nat :=
  let a := p.hq * p.m * p.n
  let b := p.hq * p.m * p.d
  if n < a then (n / (p.m * p.n), n / p.n % p.m, n % p.n)
  else if n < a + b then ((n - a) / (p.m * p.d), (n - a) / p.d % p.m, (n - a) % p.d)
  else ((n - a - b) / p.m, (n - a - b) % p.m, 0)

/-- What a query of a head comes to: scores and probabilities by key, none where masked, with m and the words of l; `bad` says that a
failing check has poisoned it. -/
structure AttRow where
  zs : List (Option Val)
  ps : List (Option Nat)
  m : Val
  l : L128
  bad : Bool

/-- The probability of a score under a maximum (R282): exp_table of the rounded difference, rounded under RNE. -/
def probOf (rev : U16) (code : Nat) (z m : Val) : Nat :=
  let e := fp32Val (tableFn 0x10 rev (fp32OfVal (round32 (addVal z (negVal m)))))
  ((storeElem code { mode := .rne, ovfInf := true, wrap := false, ftz := false } 0 e.pre).bits).getD 0

/-- The value of a probability. -/
def probVal (code bits : Nat) : Val := elemVal code 0x7F bits

/-- One query of one head: the array's words form furrow by furrow (R100, R101, R107), in width class `cls`. -/
def attRow (rev : U16) (p : AttParams) (cls : Nat) (flt : AttFaults) (aQK : Int) (q k : Tens) (mask : Option Tens) (i h : Nat) : AttRow :=
  let h' := h * p.hkv / p.hq
  let hidden := fun (j : Nat) => (p.causal && decide ((i : Int) + p.offset < j)) || (match mask with
    | some t => t.bits [j, i, if t.d.n 2 = 1 then 0 else h] = 0
    | none => false)
  let zs := (List.range p.n).map (fun j =>
    if hidden j then none
    else
      let w := passesWord cls p.d (fun e => enterVal aQK (mulVal (q.pre [e, i, h]).val (k.pre [e, j, h']).val))
      some (round32 (mulVal (w.resolve aQK).val (.fin p.scale))))
  let m := scoreMax (zs.filterMap id)
  let ps := zs.map (fun z => z.map (fun v => probOf rev p.pCode v m))
  { zs := zs, ps := ps, m := m, l := sumWords (ps.filterMap (fun b => b.map (fun b => enterVal 0 (probVal p.pCode b))))
    bad := flt.row h i || (List.range p.n).any (fun j => !hidden j && flt.score h i j) }

/-- The quotient of two resolved words (R282): l is at least 1 where it is finite. -/
def quotPre (n l : Pre) : Pre :=
  match l with
  | .fin b => (match n with
    | .fin a => .fin (a / b)
    | n => n)
  | _ => .nan

/-- An output element of a query (R282, R283): +0 where every position is masked; a masked position adds an exact zero. -/
def attOut (p : AttParams) (cls : Nat) (aV : Int) (v : Tens) (w : AttRow) (e h : Nat) : Pre :=
  let h' := h * p.hkv / p.hq
  if w.zs.all (fun z => z.isNone) then .fin 0
  else if w.m = .nan then .nan
  else
    let n := passesWord cls p.n (fun j => match w.ps.getD j none with
      | some b => enterVal aV (mulVal (probVal p.pCode b) (v.pre (if p.vt then [e, j, h'] else [j, e, h'])).val)
      | none => L128.zero)
    quotPre (n.resolve aV) (w.l.resolve 0)

/-- The heads of the field at a position (R284). -/
def headsOf (hq g i : Nat) : List Nat :=
  let s := ceilDiv hq g
  (List.range (min hq ((i + 1) * s) - min hq (i * s))).map (fun t => i * s + t)

/-- Causal masking covers every position from key `n0` on for the queries below `m1` (R285). -/
def AttParams.skips (p : AttParams) (m1 n0 : Nat) : Bool := p.causal && decide ((m1 : Int) - 1 + p.offset < n0)

/-- A pass of ATTENTION (R284): pass one or the array part of pass two of a head, queries m0 to m1 against keys k0 to k1. -/
structure AttPass where
  two : Bool
  h : Nat
  m0 : Nat
  m1 : Nat
  k0 : Nat
  k1 : Nat
  deriving DecidableEq, Repr

/-- The passes of pass one and of the array part of pass two of one head (R284, R285). -/
def attHead (p : AttParams) (c2 mp h : Nat) : List AttPass × List AttPass :=
  let qs := stepsOf 0 p.m mp
  let part := fun (two : Bool) (w : Nat) => qs.flatMap (fun q => ((stepsOf 0 p.n w).filter (fun k => !p.skips q.2 k.1)).map (fun k =>
    (⟨two, h, q.1, q.2, k.1, k.2⟩ : AttPass)))
  (part false 512, part true (kPerPass c2))

/-- Pass one of each head, with the array part of pass two of the head before behind it. -/
def attOverlap (pending : List AttPass) : List (List AttPass × List AttPass) → List AttPass
  | [] => pending
  | (a, b) :: l => a ++ pending ++ attOverlap b l

/-- The passes of a field's heads in the order of R286. -/
def attOrder (f : Nat) (l : List (List AttPass × List AttPass)) : List AttPass :=
  if f = 2 then attOverlap [] l else l.flatMap (fun q => q.1 ++ q.2)

/-- The width classes of pass one and of the array part of pass two (R62). -/
def attClasses (x : Ctx) (r : List Byte) : Nat × Nat :=
  (max (widthClass (x.desc (recIn r 0)).code) (widthClass (x.desc (recIn r 1)).code),
   max (widthClass (recParam r 57 1)) (widthClass (x.desc (recIn r 2)).code))

/-- Active rows of a pass's load and its streamed rows (R107, R122). -/
def AttPass.rows (p : AttParams) (cls : Nat × Nat) (a : AttPass) : Nat :=
  if a.two then activeRows cls.2 (a.k1 - a.k0) else activeRows cls.1 p.d
def AttPass.len (a : AttPass) : Nat := a.m1 - a.m0

/-- The rows that ATTENTION asks of the basin (R142, R284). DESIGN CHOICE (log 134): those of one head's block, with N_f the larger of N
and D. -/
def attRequest (p : AttParams) : Nat × Nat := request p.m (max p.n p.d)

/-- The field of a head (R284). -/
def headField (o : Op) (hq h : Nat) : Nat := o.fields.getD (h / ceilDiv hq o.fields.length) (o.fields.headD 0)

/-- A tile of ATTENTION with the field that writes it; the rows that `quiet` names set no step flag (R283). -/
def attPiece (x : Ctx) (o : Op) (cfg : RoundCfg) (d : Desc) (f : Nat) (j : List Nat) (quiet : List Nat → Bool)
    (elem : List Nat → Pre) : Piece :=
  { weirPiece x o d j false (fun _ => false) elem (storeTile o cfg d j elem) with
    flags := (storeTile o cfg d j (fun y => if quiet y then .fin 0 else elem y)).flags, field := f }

/-- A tile of ATTENTION of which a poisoned query makes an element (R512). -/
def attTile (x : Ctx) (o : Op) (cfg : RoundCfg) (d : Desc) (f : Nat) (j : List Nat) (bad quiet : List Nat → Bool)
    (elem : List Nat → Pre) : Piece :=
  if (d.elems j).any (fun e => bad e.2) then
    { weirPiece x o d j false bad elem (storeTile o cfg d j elem) with field := f }
  else attPiece x o cfg d f j quiet elem

/-- The place of a head among those of its field (R284). -/
def headPlace (hq g h : Nat) : Nat := h % ceilDiv hq g

/-- The head whose rows a buffer of a field holds once `h`, a head of that field, has written its own: the last so far that uses the
buffer. -/
def bufferHead (hq g f h b : Nat) : Option Nat :=
  let n := headPlace hq g h
  ((List.range (n + 1)).reverse.find? (fun i => i % f == b)).map (fun i => h - n + i)

/-- The tiles of a scratch tensor that the heads write, one after the other (R281, R282): coordinates (key, query, buffer, position).
DESIGN CHOICE (log 117): a head writes every tile of its buffer, masked positions and those of skipped blocks too, so that no bit of the
tensor or of its statistics follows from the grant (R14), and a masked p is +0 in a row whose m is NaN too (R282, R283). -/
def attScratch (x : Ctx) (o : Op) (p : AttParams) (d : Desc) (quiet bad : Nat → Nat → Bool) (val : Nat → Nat → Nat → Pre) :
    List Piece :=
  let f := d.n 2
  let g := o.fields.length
  (List.range p.hq).flatMap (fun h =>
    let pos := h / ceilDiv p.hq g
    let owner := fun (y : List Nat) => bufferHead p.hq g f h (y.getD 2 0)
    let row := fun (k : Nat → Nat → Bool) (y : List Nat) => (owner y).any (fun q => k q (y.getD 1 0))
    (d.outTiles.filter (d.meets [(0, d.n 0), (0, d.n 1), (headPlace p.hq g h % f, headPlace p.hq g h % f + 1), (pos, pos + 1)])).map
      (fun j => attTile x o { mode := .rne, ovfInf := true, wrap := false, ftz := false } d (headField o p.hq h) j (row bad) (row quiet)
        (fun y => match owner y with
          | some q => val q (y.getD 1 0) (y.getD 0 0)
          | none => .fin 0)))

/-- ATTENTION's work: each head's queries, with the residue checks that fail in its passes and additions (R91, R511, R512). -/
def attentionWork (grant : Nat) (faults : List FaultSite) (s : State) (c : Nat) (o : Op) : Result := orStop do
  let x := s.ctx c
  let r := o.record
  let p := attParams x r
  let cls := attClasses x r
  let flt := p.faults faults
  let by' := fun (n : Nat) (d : Desc) => readTensorBy s o (fun j => headField o p.hq ((d.coordAt j 0).getD 2 0 * n)) d
  let q ← by' 1 (x.desc (recIn r 0))
  let k ← by' (p.hq / p.hkv) (x.desc (recIn r 1))
  let v ← by' (p.hq / p.hkv) (x.desc (recIn r 2))
  let mask ← if recParam r 58 2 = 0xFFFF then Except.ok none else (by' 1 (x.desc (recParam r 58 2))).map some
  let aQK := if plainInt q.d.code then 96 else prodAnchor q.ceil k.ceil
  let aV := if v.ceil = -32768 then 0 else v.ceil
  let rows := ((List.range p.hq).map (fun h =>
    ((List.range p.m).map (fun i => attRow s.tableRev p cls.1 flt aQK q k mask i h)).toArray)).toArray
  let row := fun (h i : Nat) => (rows.getD h #[]).getD i { zs := [], ps := [], m := .ninf, l := L128.zero, bad := false }
  let bad := fun (h i : Nat) => (row h i).bad
  let out := x.desc (recOut r)
  let outElem := fun (y : List Nat) => attOut p cls.2 aV v (row (y.getD 2 0) (y.getD 1 0)) (y.getD 0 0) (y.getD 2 0)
  let zPre := fun (h i j : Nat) => match (row h i).zs.getD j none with
    | some z => z.pre
    | none => .ninf
  let pPre := fun (h i j : Nat) => match (row h i).ps.getD j none with
    | some b => (probVal p.pCode b).pre
    | none => .fin 0
  let statElem := fun (y : List Nat) =>
    let w := row (y.getD 2 0) (y.getD 1 0)
    (if y.getD 0 0 = 0 then w.m else round32 ((w.l.resolve 0).val)).pre
  let masked := fun (h i : Nat) => (row h i).zs.all (fun z => z.isNone)
  let tiles := fun (d : Desc) (cfg : RoundCfg) (hurt : List Nat → Bool) (f : List Nat → Pre) =>
    d.outTiles.map (fun j => attTile x o cfg d (headField o p.hq ((d.coordAt j 0).getD 2 0)) j hurt
      (fun y => masked (y.getD 2 0) (y.getD 1 0)) f)
  let hurt := fun (y : List Nat) => bad (y.getD 2 0) (y.getD 1 0)
  let stats := if recParam r 64 2 = 0xFFFF then []
    else tiles (x.desc (recParam r 64 2)) { mode := .rne, ovfInf := true, wrap := false, ftz := false } hurt statElem
  let mp := mPass p.m (max p.n p.d) grant none
  .ok { Result.ofTiles (attScratch x o p (x.desc (recParam r 60 2)) masked bad zPre
      ++ attScratch x o p (x.desc (recParam r 62 2)) masked bad pPre
      ++ tiles out (recRound r) (fun y => hurt y || flt.out (y.getD 2 0) (y.getD 1 0) (y.getD 0 0)) outElem ++ stats) with
    events := (faults.filter (fun z =>
      let (h, i, n) := p.place z.element
      if z.element < p.hq * p.m * p.n then ((row h i).zs.getD n none).isSome
      else decide (z.element < p.hq * p.m * (p.n + p.d + 1)))).map (fun z =>
      let (h, i, n) := p.place z.element
      residueEvent (headField o p.hq h) z (i % mp / 32) i n) }

/-- The passes of the field at a position in issue order (R284 to R286). -/
def attPassesOf (grant : Nat) (x : Ctx) (o : Op) (i : Nat) : List AttPass :=
  let r := o.record
  let p := attParams x r
  let mp := mPass p.m (max p.n p.d) grant none
  attOrder ((x.desc (recParam r 60 2)).n 2) ((headsOf p.hq o.fields.length i).map (attHead p (attClasses x r).2 mp))

/-- Passes and stall cycles of ATTENTION on the field at a position (R137, R286), `done` rows of its first load being preloaded and
`late` cycles lost to late loads, late streams and the wait for its vector part (log 49). -/
def attCounts (pace grant done late : Nat) (x : Ctx) (o : Op) (i : Nat) : Nat × Nat :=
  let l := attPassesOf grant x o i
  (l.length, stallsOf pace done (l.map (fun a => (a.len, a.rows (attParams x o.record) (attClasses x o.record)))) + late)

/-- The operand of a pass's stationary block and the tiles of it that the pass reads (R107): keys of the head by dimension in pass one,
values by key in the array part of pass two. -/
def attReads (x : Ctx) (o : Op) (a : AttPass) : Desc × (List Nat → Bool) :=
  let p := attParams x o.record
  let h' := a.h * p.hkv / p.hq
  let heads := (h', h' + 1)
  let k := x.desc (recIn o.record 1)
  let v := x.desc (recIn o.record 2)
  if a.two then (v, v.meets (if p.vt then [(0, p.d), (a.k0, a.k1), heads] else [(a.k0, a.k1), (0, p.d), heads]))
  else (k, k.meets [(0, p.d), (a.k0, a.k1), heads])

/-- The stationary block of a pass; none where a tile of it cannot be read. -/
def attBlock (v : State) (f c : Nat) (o : Op) (lead : Nat) (a : AttPass) : Option CellBlock :=
  let x := v.ctx c
  let p := attParams x o.record
  let cls := attClasses x o.record
  let h' := a.h * p.hkv / p.hq
  let (d, reads) := attReads x o a
  let at' := fun (k n : Nat) => if a.two then (if p.vt then [n, a.k0 + k, h'] else [a.k0 + k, n, h']) else [k, a.k0 + n, h']
  let pass : Pass := if a.two then ⟨⟨a.h, 0, p.d, a.m0, a.m1⟩, a.m0, a.m1, 0, a.k0, a.k1, true, true⟩
    else ⟨⟨a.h, a.k0, a.k1, a.m0, a.m1⟩, a.m0, a.m1, 0, 0, p.d, true, true⟩
  ((readWhere v { o with fields := [f] } d reads).toOption).map (fun tb =>
    loadCells c o.seq pass (if a.two then cls.2 else cls.1) d.code (fun k n => (tb.bits (at' k n), tb.scale (at' k n))) v.now lead)

/-- A field's cells once it has run its passes: each block has been loaded and swapped in (R108, R113). -/
def Field.runAttention (l : List (Option CellBlock)) (g : Field) : Field :=
  l.foldl (fun g b => match b with
    | some b => g.swap b
    | none => g) g

end Sys2Proof.Machine
end

