-- ==== Sys2Proof/Machine/Issue.lean ====
section
/-! DEFINITION. Issue of records (08 R243, R245, R250, R251, R257 to R259, R268; 10 R317, R318; 14 R463; 13 R454, R455) and the
choice of what starts (04 R129 to R131; 08 R255, R258, R259). -/
namespace Sys2Proof.Machine

/-! ## Collective parameters (R450 to R455) -/

/-- What a collective's record says. -/
structure CollParams where
  op : Nat
  tree : Bool
  lossy : Bool
  width : Nat
  share : Bool
  floor : Nat
  stripes : List (Nat × Nat)
  redNo : Nat
  members : Nat
  rank : Nat
  root : Nat
  group1 : Nat
  node0 : Nat
  deadline : Nat
  deriving DecidableEq, Repr

/-- The parameters of R450. -/
def collOf (r : List Byte) : CollParams :=
  let pol := recParam r 33 1
  { op := recOp r, tree := recParam r 32 1 = 1, lossy := bitOf pol 0, width := bitsOf pol 1 2, share := bitOf pol 3
    floor := recParam r 34 1
    stripes := (List.range (recParam r 35 1)).map (fun i => (recParam r (56 + 2 * i) 1 % 32, recParam r (57 + 2 * i) 1 % 32))
    redNo := recParam r 36 2, members := recParam r 38 2, rank := recParam r 40 2, root := recParam r 42 2
    group1 := recParam r 44 2, node0 := recParam r 46 2, deadline := recParam r 48 8 }

/-- Tiles of a chunk (R451): ⌈B / N⌉. -/
def chunkSize (b n : Nat) : Nat := ceilDiv b n

/-- Blocks of chunk c (R451): first and behind the last. -/
def chunkRange (b n c : Nat) : Nat × Nat := (min b (c * chunkSize b n), min b ((c + 1) * chunkSize b n))

/-- The parameters lie in their ranges (R450, R455). -/
def collParamsOk (s : State) (r : List Byte) : Bool :=
  let p := collOf r
  let k := recParam r 35 1
  let stripeOk := fun (i : Nat) =>
    if i < k then s.upLinks.contains (recParam r (56 + 2 * i) 1)
      && (if p.tree then recParam r (57 + 2 * i) 1 = 0 else s.upLinks.contains (recParam r (57 + 2 * i) 1))
    else recParam r (56 + 2 * i) 2 = 0
  recParam r 32 1 ≤ 1 && 1 ≤ k && k ≤ 32 && 2 ≤ p.members && p.members ≤ 32768 && p.rank < p.members
    && (if p.lossy then p.width = 1 || p.width = 2 else p.width = 0 && p.floor = 0)
    && (!p.lossy || p.floor ≤ (if p.width = 1 then 96 else 64))
    && (if recOp r = 0x5002 || recOp r = 0x5004 then p.root < p.members && !p.share else p.root = 0)
    && (if p.tree then 1 ≤ p.group1 && p.members % p.group1 = 0 && p.node0 + p.members ≤ 65535 else p.group1 = 0 && p.node0 = 0)
    && (List.range 32).all stripeOk
    && (!(recOp r = 0x5003 || recOp r = 0x5004) || (!p.lossy && p.floor = 0))

/-- The issue checks of a collective (R450, R454, R455, R60). -/
def collCheck (s : State) (x : Ctx) (r : List Byte) : Nat :=
  let p := collOf r
  let a := x.desc (recIn r 0)
  let b := a.tileCount
  let none' := recOut r = 0xFFFF
  let d := x.desc (recOut r)
  let own := let (lo, hi) := chunkRange b p.members p.rank; hi - lo
  let outOk := match recOp r with
    | 0x5000 => if own = 0 then none' else !none' && d.tileCount = own
    | 0x5001 => d.tileCount = b
    | 0x5002 => if p.rank = p.root then !none' && d.tileCount = b else none'
    | 0x5003 => d.tileCount = p.members * b
    | _ => d.tileCount = b
  let carried := recOp r = 0x5003 || recOp r = 0x5004
  if (!carried && (a.code = 0x19 || (!none' && d.code = 0x19))) then stFormat
  else if !collParamsOk s r || !outOk || (!none' && d.shape ≠ a.shape) || (carried && d.code ≠ a.code) then stBadParam
  else stOk

/-! ## Issue checks (R268) -/

/-- Opcodes of R265 by kind. -/
def isCollective (op : Nat) : Bool := 0x5000 ≤ op && op ≤ 0x5004
def isPrism (op : Nat) : Bool := op = 0x4002 || op = 0x4003

/-- Keeper entries whose source is a tensor: SCALE_UPDATE reads the header of its first tile (R335),
once every entry of its range has passed (R334). -/
def scaleSources (x : Ctx) (r : List Byte) : List (Nat × Nat) :=
  if recOp r = 0x6003 && (scaleRange r).all (fun i => entryOk x (x.entry i)) then ((scaleRange r).filter (fun i => keepKind (x.entry i) ≠ 0 && keepSrc (x.entry i) = 1)).map (fun i =>
    let d := x.desc (keepSrcIndex (x.entry i))
    (d.slotAddr (d.dims.map (fun _ => 0)), slotBytes d.code))
  else []

/-- A record addresses a node other than its own (R463), with the sources of the scale-keeper entries that it updates. -/
def addressesPeer (own : Nat) (x : Ctx) (r : List Byte) : Bool :=
  (readDescs r ++ writeDescs r).any (fun i => (x.desc i).node own ≠ own)
    || (scaleSources x r).any (fun p => gaNode p.1 ≠ 0xFFFF && gaNode p.1 ≠ own)

/-- The target of a SIGNAL lies on a peer (R314). -/
def signalsPeer (own : Nat) (r : List Byte) : Bool := recParam r 32 2 ≠ 0xFFFF && recParam r 32 2 ≠ own

/-- What an unbound context may not do (R463). -/
def notPermitted (own : Nat) (x : Ctx) (r : List Byte) : Bool :=
  x.job = 0#16 && (addressesPeer own x r || isCollective (recOp r) || (recOp r = 0x7001 && signalsPeer own r))

/-- A window lets the record issue (R317, R318). -/
def windowOk (x : Ctx) (op : Nat) : Bool :=
  if x.windowOpen then op ≠ 0x6000 else [0x6000, 0x4000, 0x7000, 0x7001].contains op

/-- The write-alias rule of R243. -/
def aliasOk (x : Ctx) (r : List Byte) : Bool :=
  (writeDescs r).all (fun i => match tableGet? x.descs i with
    | some e => e.aliasFree || (i = recOut r && (x.desc i).code = 0x18 && recAccWrite r && !(x.desc i).broadcasts)
    | none => true)

/-- The tensors that a record reads beside its epilogue operand. -/
def inputDescs (r : List Byte) : List Nat :=
  ((List.range 4).map (recIn r) ++ (if recOp r = 0x1010 then [recParam r 58 2] else [])).filter (fun i => i ≠ 0xFFFF)

/-- The overlap rule of R251 with R185: prism operations and OPTIMIZE have their own. -/
def overlapOk (own : Nat) (x : Ctx) (r : List Byte) : Bool :=
  let op := recOp r
  let inPlace := op = 0x5001 || op = 0x5002 || op = 0x5004
  if isPrism op || op = 0x6002 then true
  else (writeDescs r).all (fun w =>
    (inputDescs r).all (fun i => !(x.desc w).overlaps own (x.desc i)
      || (inPlace && (x.desc w).sameView own (x.desc i)))
    && (recEpilogue r = 0 || !(x.desc w).overlaps own (x.desc (recEpi r))
      || (w = recOut r && (x.desc w).sameMap own (x.desc (recEpi r)))))

/-- What the opcode's own chapter checks at issue. -/
def opCheck (s : State) (x : Ctx) (r : List Byte) : Nat :=
  let own := s.own
  let fs := s.groupAvail (recGroup r)
  match recOp r with
  | 0x1000 => matmulCheck own x r
  | 0x1001 => groupedCheck own x r
  | 0x1002 => convCheck own fs x r
  | 0x1010 => attentionCheck own fs x r
  | 0x2000 | 0x2001 => reduceCheck false x r
  | 0x2002 => reduceCheck true x r
  | 0x2010 => normalizeCheck x r
  | 0x2020 => scatterCheck x r
  | 0x3000 => vectorCheck x r
  | 0x3001 => convertCheck x r
  | 0x3002 => randomCheck x r
  | 0x4000 => copyCheck x r
  | 0x4001 => fillCheck x r
  | 0x4002 | 0x4003 => prismCheck x r
  | 0x5000 | 0x5001 | 0x5002 | 0x5003 | 0x5004 => collCheck s x r
  | 0x6000 => stepBeginCheck r
  | 0x6002 => optimizeCheck own x r
  | 0x6003 => scaleCheck x r
  | _ => stOk

/-- The status of a record at issue. -/
def issueStatus (s : State) (x : Ctx) (r : List Byte) : Nat :=
  if !windowOk x (recOp r) || !descsValid x r then stBadParam
  else if notPermitted s.own x r then stNotPermitted
  else if (recAccWrite r && (x.desc (recOut r)).code ≠ 0x18)
      || (recAnchorMode r = 3 && (recOp r = 0x4001 || (x.desc (recOut r)).code ≠ 0x18)) then stBadParam
  else if opCheck s x r ≠ stOk then opCheck s x r
  else if epiCheck x r ≠ stOk then epiCheck x r
  else if !aliasOk x r then stAlias
  else if !overlapOk s.own x r then stOverlap
  else stOk

/-! ## Issue (R257 to R259) -/

/-- A record as it issues: step and seed are fixed (R257). -/
def Op.issue (x : Ctx) (r : List Byte) : Op :=
  { record := r, descs := x.descs, seq := BitVec.ofNat 32 (recSeq r), step := x.step, seed := x.seeds.getD (recSeedSlot r) 0#64, phase := .issued
    status := 0#16, startCycle := 0, fields := [], degraded := false, preempted := false, needs := [], fetched := []
    fetchedBad := [], acks := [], later := [], comparisons := 0, keeper := x.keeper, dest := none, faults := [], poisoned := false, mat := none, coll := none }

/-- The context issues its next record: it is active, fewer than 8 operations are issued, no barrier is among them, and no mirror copy of
it runs or, its window being closed, is about to (R258, R259, R261, R507). -/
def State.mayIssue (s : State) (c : Nat) : Bool :=
  let x := s.ctx c
  x.state = .active && x.ops.length < 8 && !x.ops.any (fun o => isBarrier o.record)
    && !s.hub.copies.any (fun k => k.2.ctx == some c && (k.2.running || !x.windowOpen))

/-- A held record or descriptor whose parity fails at its issue or start ends its operation with `POISONED` (R516, R530). -/
def heldParity (c : Nat) (o : Op) (offset : Nat) : Fx :=
  Fx.look fun s => (parityEvent (56 * s.leadField (recGroup o.record) + 6) 3 offset o.seq.toNat (s.who c)).andThen (endOp c o stPoisoned)

/-- OPERATION_ISSUE. -/
def execOperationIssue (n : IssueNote) (s : State) : Host.Outcome State Fault Refusal :=
  (match (s.ctx n.ctx).stream with
   | [] => Fx.skip
   | r :: rest => Fx.when (s.mayIssue n.ctx)
       (let o := Op.issue (s.ctx n.ctx) r
        let st := issueStatus s (s.ctx n.ctx) r
        Fx.all [
          Fx.ctx n.ctx (fun x => { x with stream := rest, ops := x.ops ++ [o], lastIssued := some o.seq }),
          progress (s.leadField (recGroup r)) 6,
          match n.parity with
          | some off => heldParity n.ctx o off
          | none => Fx.when (decide (st ≠ stOk)) (endOp n.ctx o st)])).outcome s

/-! ## Which operation starts (R129 to R131, R258) -/

/-- Operations that hold the fields of their group while they run (R129). DEDUCED (log 29): a collective and a WAIT, which wait for others
while no array works for them, hold none: R479 counts an operation that holds the field as work of its array, and exempts them only as
work of the sequencers. -/
def holdsFields (op : Nat) : Bool := !(isCollective op || op = 0x7000)

/-- The operation of a context that starts next (R258). -/
def State.nextOp? (s : State) (c : Nat) : Option Op :=
  let x := s.ctx c
  if x.state = .active || x.state = .stopped then
    (x.ops.find? (fun o => decide (o.phase = .issued))).filter (mayStart s.own x)
  else none

/-- The fields that an operation needs: those that it was preempted on, or the available ones of its group (R131, R162). -/
def State.wants (s : State) (o : Op) : List Nat := if o.preempted then o.fields else s.groupAvail (recGroup o.record)

/-- The operations of a context that wait for nothing but fields (R130): its next one, and a preempted one whose rows are saved (R162). -/
def State.readyOps (s : State) (c : Nat) : List Op :=
  ((s.nextOp? c).filter (fun o => holdsFields (recOp o.record) && groupReady s o.record && !groupDead s o.record)).toList
    ++ (s.ctx c).ops.filter (fun o => o.preempted && o.fields.all (fun f => s.available f
      && !(s.field f).tileRows.any (fun r => r.state = .saving && r.ctx == c)))

/-- Place of a context in the circular order that follows the last one started (R130). -/
def turnOf (last d : Nat) : Nat := (d + 31 - last) % 16

/-- The turn of a context's operation among those of equal priority (R130). DESIGN CHOICE (log 135): each stands in the circular order of its
own group's lowest field, and of two whose turns are equal the lower context comes first. -/
def State.turn (s : State) (c : Nat) (o : Op) : Nat :=
  16 * turnOf (s.field ((groupFields (recGroup o.record)).headD 0)).lastStarted c + c

/-- Another context's ready operation goes first (R130): one of higher priority that needs any of the fields, whether they are
free or not, or a matrix operation of equal priority whose fields are free and whose turn is earlier. -/
def State.outranked (s : State) (c : Nat) (o : Op) : Bool :=
  let fs := s.wants o
  (List.range 16).any (fun d => d != c && (s.readyOps d).any (fun q => (s.wants q).any (fun f => fs.contains f)
    && (decide ((s.ctx c).priority.toNat < (s.ctx d).priority.toNat)
      || ((s.ctx c).priority == (s.ctx d).priority && isMatrixOp (recOp o.record) && isMatrixOp (recOp q.record)
        && (s.wants q).all (fun f => (s.field f).running = none) && decide (s.turn d q < s.turn c o)))))

/-- The slots that a record reads: its operands, the tensors that it updates in place (R324), a destination whose anchor it
takes (R67), sources of the scale keeper; a product without elements reads no operand (R127), one without output elements only its
group offsets (R275), and a BROADCAST only at its root (R454). -/
def readSlots (x : Ctx) (r : List Byte) : List (Nat × Nat) :=
  let more := if recOp r = 0x6002 || recAnchorMode r = 3 then [recOut r] else []
  let ins := if zeroProduct r then [recIn r 2, recIn r 3, recEpi r].filter (fun i => i ≠ 0xFFFF)
    else if recOp r = 0x5004 && (collOf r).rank ≠ (collOf r).root then [] else readDescs r
  if emptyProduct r then (if recOp r = 0x1001 then slotsOf (x.desc (recIn r 2)) else [])
  else (((ins ++ more).map (fun i => slotsOf (x.desc i))).flatten ++ scaleSources x r).eraseDups

/-- The slots that a record writes. -/
def writeSlots (x : Ctx) (r : List Byte) : List (Nat × Nat) :=
  if emptyProduct r then [] else ((writeDescs r).map (fun i => slotsOf (x.desc i))).flatten

/-- A slot of a memory of this module reaches fields over the ditch, or a job's path to a slot of a peer starts from them (R135, R413, R418,
R487). -/
def State.slotReaches (s : State) (job : Nat) (fs : List Nat) (ga : Nat) : Bool :=
  if isLocal s.own ga then s.crosses arrayClass (.field (ownerField (gaSpace ga) (gaOffset ga))) (fs.map .field)
  else (s.routeFor (gaNode ga) job).isSome && fs.all (fun f => (s.pathTo (32 + f) 1 (gaNode ga) job).isSome)

/-- What one slot meets that the fields `fs` read or write for a job (R346, R360, R369, R382, R413, R487, R536). -/
def State.slotAccess (s : State) (job : Nat) (fs : List Nat) (ga len : Nat) : Access :=
  if isLocal s.own ga then
    (s.access (gaSpace ga) (gaOffset ga) len).worse (if s.slotReaches job fs ga then .ok else .stop stNoResource)
  else if gaNode ga = 0xFFFF || gaNode ga = s.own then
    (if gaSpace ga = 3 && (s.window? (gaOffset ga) len).isSome then .ok else .stop stBadParam)
  else if s.own = 0xFFFF || !s.slotReaches job fs ga then .stop stNoResource
  else .ok

/-- What all slots of a record meet. -/
def State.recordAccess (s : State) (x : Ctx) (r : List Byte) : Access :=
  (readSlots x r ++ writeSlots x r).foldl (fun a p => a.worse (s.slotAccess x.job.toNat (s.groupAvail (recGroup r)) p.1 p.2)) .ok

/-- The slots of this module that an operation reads. -/
def State.localReads (s : State) (c : Nat) (o : Op) : List (Nat × Nat) :=
  (readSlots ((s.ctx c).asIssued o) o.record).filter (fun p => isLocal s.own p.1)

/-- What the slots that an operation reads on this module meet as it goes on (R364, R377). -/
def State.readsAgain (s : State) (c : Nat) (o : Op) : Access :=
  (s.localReads c o).foldl (fun (a : Access) p => a.worse (s.slotAccess 0 o.fields p.1 p.2)) .ok

end Sys2Proof.Machine
end

