-- ==== Sys2Proof/Machine/Basin.lean ====
section
/-! DEFINITION. The matrix machine (04 R122 to R137, 05 R138 to R153, 06 R196, R197): a matrix operation at its start, grants,
passes, partials of a K split, and the drains that write the output. -/
namespace Sys2Proof.Machine

/-! ## Small helpers -/

/-- Change the run of a matrix operation. -/
def onMat (c : Nat) (seq : U32) (f : MatRun → MatRun) : Fx := onOp c seq (fun o => { o with mat := o.mat.map f })

/-- Change the tile rows of a field. -/
def onRows (f : Nat) (g : List TileRow → List TileRow) : Fx := Fx.field f (fun x => { x with tileRows := g x.tileRows })

/-- A tile row that serves an operation. -/
def TileRow.serves (c : Nat) (seq : U32) (r : TileRow) : Bool := decide (r.state ≠ .free) && r.ctx == c && r.seq == seq

/-- The operation that runs on the array of a field, its run, and the field's position (R133). -/
def State.matOn (s : State) (f : Nat) : Option (Nat × Op × MatRun × Nat) :=
  (s.field f).running.bind (fun e => (s.op? e.1 e.2).bind (fun o => o.mat.bind (fun u =>
    if o.phase = .running && !o.preempted && o.fields.contains f && o.status = 0#16 then some (e.1, o, u, o.fields.idxOf f)
    else none)))

/-- The share of a position. -/
def MatRun.share (u : MatRun) (i : Nat) : Share := u.shares.getD i ⟨0, 0, 0, 0, 0, 0⟩

/-- The chain that an operation continues (R151): held sums for its output descriptor. -/
def Ctx.chain? (x : Ctx) (o : Op) : Option Chain :=
  if isArrayOp (recOp o.record) then x.chains.find? (fun k => k.out == recOut o.record) else none

/-- Split axes other than K have every output row at home; under a K split the owner is the field whose M slice holds it
(R136). -/
def ownerAt (o : Op) (u : MatRun) (m i : Nat) : Nat :=
  if u.axis = 2 then
    let g := o.fields.length
    ((List.range g).find? (fun j => let (lo, hi) := sliceOf (recM o.record) g j; decide (lo ≤ m) && decide (m < hi))).getD i
  else i

/-- The positions whose partials an owner waits for (R136, R149), as a bitmap over fields. -/
def awaited (o : Op) (u : MatRun) (i : Nat) : BitVec 8 :=
  if u.axis = 2 then
    BitVec.ofNat 8 (((List.range o.fields.length).filter (fun j => j ≠ i && (u.share j).used)).map (fun j => 2 ^ o.fields.getD j 0)).sum
  else 0#8

/-- A matrix operation meets a status that ends it: its rows go, or stay held, when it ends; its chain stays (R159). -/
def matFail (c : Nat) (o : Op) (x : Stop) : Fx :=
  Fx.all [
    raiseEvs c o.seq x.events,
    failOp c o.seq x.status,
    onOp c o.seq (fun p => { p with phase := .landing, comparisons := 0 })]

/-- The rows that the field at a position asks for and needs at least, from its own share (R142, R144). -/
def Share.request (h : Share) : Nat × Nat := Sys2Proof.Machine.request (h.mHi - h.mLo) (h.nHi - h.nLo)

/-- A position takes a grant: it has output rows and columns (R133), and under a K split every position does (R136). -/
def Share.takesRows (axis : Nat) (h : Share) : Bool := axis = 2 || (decide (h.mLo < h.mHi) && decide (h.nLo < h.nHi))

/-! ## Start (R67, R127, R152, R275) -/

/-- Group offsets obey R275. -/
def offsetsOk (m : Nat) (l : List Int) : Bool :=
  l.headD 1 = 0 && (l.zip (l.drop 1)).all (fun p => decide (p.1 ≤ p.2)) && l.getLastD 1 = (m : Int)

/-- The group offsets of a grouped product, none of another (R275). -/
def matOffsets (s : State) (c : Nat) (o : Op) : Except Stop (List Nat) :=
  if recOp o.record = 0x1001 then
    match (readTensor s o ((s.ctx c).desc (recIn o.record 2))).map indexVals with
    | .ok l => if offsetsOk (recM o.record) l then .ok (l.map Int.toNat) else .error (Stop.plain stBadParam)
    | .error e => .error e
  else .ok []

/-- The chain that an operation continues, if any, has its field group, output descriptor, M and N (R152). -/
def Ctx.chainFits (x : Ctx) (o : Op) : Bool :=
  (x.chain? o).all (fun k => k.group == recGroup o.record && k.desc == ((tableGet? o.descs k.out).map DescEntry.bytes).getD []
    && k.m == recM o.record && k.n == recN o.record)

/-- What an operation meets at its start before it reads an operand: its group offsets, or the status that ends it (R152, R275). -/
def matEnter (s : State) (c : Nat) (o : Op) : Except Stop (List Nat) :=
  match matOffsets s c o with
  | .ok l => if (s.ctx c).chainFits o then .ok l else .error (Stop.plain stBadParam)
  | .error e => .error e

/-- The slots of this module that a matrix operation reads at its start: its group offsets, the operands whose ceiling exponents make a
DEFAULT anchor, and the destination whose anchor it takes (R67, R275). A tile is read whole, for its seal (R211). -/
def matReads (s : State) (c : Nat) (o : Op) : List (Nat × Nat) :=
  let x := s.ctx c
  let r := o.record
  let ceils := recAnchorMode r = 0 && recK r ≠ 0 && !emptyProduct r && !plainInt (x.desc (recIn r 0)).code
  ((if recOp r = 0x1001 then slotsOf (x.desc (recIn r 2)) else [])
    ++ (if ceils then slotsOf (x.desc (recIn r 0)) ++ slotsOf (x.desc (recIn r 1)) else [])
    ++ (if recAnchorMode r = 3 && !emptyProduct r then slotsOf (x.desc (recOut r)) else [])).filter (fun p => isLocal s.own p.1)

/-- What a matrix operation is at its start, or the status that ends it. -/
def matStart (s : State) (c : Nat) (o : Op) : Except Stop MatRun := do
  let x := s.ctx c
  let r := o.record
  let offsets ← matEnter s c o
  let k? := x.chain? o
  let anchor ← matAnchor s c o
  if k?.any (fun k => k.anchor ≠ anchor) then .error (Stop.plain stAnchor)
  let axis := (k?.map Chain.axis).getD 0
  let shares := sharesOf (recM r) (recN r) (recK r) o.fields.length axis
  .ok { anchor := anchor, chosen := k?.isSome, axis := axis, shares := shares
        grant := if k?.isSome then ceilDiv (largest shares).1 32 else 0
        rows := if k?.isSome then shares.map (fun h => if h.takesRows axis then h.request.1 else 0) else []
        firstLoad := [], granted := false, progress := List.replicate o.fields.length 0, waits := [], offsets := offsets, chain := k?.isSome
        poisoned := false, staged := [] }

/-! ## Grants (R142 to R145) -/

/-- A held tile row that an operation of a context may evict (R143). -/
def State.evictable (s : State) (c : Nat) (r : TileRow) : Bool :=
  r.state = .held && decide ((s.ctx r.ctx).priority.toNat ≤ (s.ctx c).priority.toNat)

/-- Free tile rows of a field. -/
def State.freeRows (s : State) (f : Nat) : Nat := (s.field f).tileRows.countP (fun r => r.state = .free)

/-- Tile rows available to an operation of a context on a field (R143). -/
def State.rowsFor (s : State) (c f : Nat) : Nat := s.freeRows f + (s.field f).tileRows.countP (s.evictable c)

/-- Tile rows of a field in the order of eviction: lowest priority, then highest context, then lowest index (R143). -/
def State.victims (s : State) (c f : Nat) (own : TileRow → Bool) : List Nat :=
  let rows := (s.field f).tileRows
  let key := fun (i : Nat) => let r := rows.getD i TileRow.reset; ((s.ctx r.ctx).priority.toNat * 16 + (15 - r.ctx)) * 256 + i
  sortBy (fun a b => decide (key a ≤ key b))
    ((List.range rows.length).filter (fun i => let r := rows.getD i TileRow.reset; s.evictable c r && !own r))

/-- Mark held rows for saving until a field will have `need` free ones. -/
def evictFor (c f need : Nat) (own : TileRow → Bool) : Fx :=
  Fx.look fun s =>
    let coming := s.freeRows f + (s.field f).tileRows.countP (fun r => r.state = .saving)
    let marked := (s.victims c f own).take (need - coming)
    onRows f (fun l => l.mapIdx (fun i r => if marked.contains i then { r with state := .saving, resumes := .held } else r))

/-- What a grant comes to: split axis, shares, the smallest grant, and each position's own (R142). -/
structure Plan where
  axis : Nat
  shares : List Share
  grant : Nat
  rows : List Nat
  deriving DecidableEq, Repr

/-- The grants of fields that ask for `rqs`, none when a minimum cannot be met: the smallest grant of the group, for a largest request
of `top`, and each field's own (R142, R144). DEDUCED (log 94): a field that gets all it asks for does not bound the others'. -/
def grantFor (s : State) (c top : Nat) (fs : List Nat) (rqs : List (Nat × Nat)) : Option (Nat × List Nat) :=
  let own := (fs.zip rqs).map (fun p => (min p.2.1 (s.rowsFor c p.1), p.2))
  if own.all (fun p => decide (p.2.2 ≤ p.1)) then
    some (own.foldl (fun g p => if p.1 < p.2.1 then min g p.1 else g) top, own.map Prod.fst)
  else none

/-- The axis of least cost among those that can be granted (R134, R144, R276). -/
def matPlan (s : State) (c : Nat) (o : Op) : Option Plan :=
  let x := s.ctx c
  let r := o.record
  let n := o.fields.length
  let cls := (geoOf x r).cls
  let axes := if recOp r = 0x1001 then [0] else [0, 1, 2]
  let costs := axes.filterMap (fun a =>
    let sh := sharesOf (recM r) (recN r) (recK r) n a
    let (mf, nf, kf) := largest sh
    let rqs := sh.map (fun h => if h.takesRows a then h.request else (0, 0))
    (grantFor s c (request mf nf).1 o.fields rqs).map (fun g =>
      (costOf cls mf nf kf (mPass mf nf g.1 (chunkOf x r)), Plan.mk a sh g.1 g.2)))
  (costs.foldl (fun b p => match b with
    | some q => if p.1 < q.1 then some p else some q
    | none => some p) (none : Option (Nat × Plan))).map Prod.snd

/-- The plan of an operation that waits for its grant. -/
def grantPlan (s : State) (c : Nat) (o : Op) (u : MatRun) : Option Plan :=
  if u.chosen then some ⟨u.axis, u.shares, u.grant, u.rows⟩
  else if recOp o.record = 0x1010 then
    let rq := attRequest (attParams (s.ctx c) o.record)
    (grantFor s c rq.1 o.fields (o.fields.map (fun _ => rq))).map (fun g => ⟨0, [], g.1, g.2⟩)
  else matPlan s c o

/-- A held row of the chain that an operation continues. -/
def chainRow (c : Nat) (o : Op) (u : MatRun) (r : TileRow) : Bool :=
  u.chain && r.state = .held && r.ctx == c && r.out == recOut o.record

/-- Positions that take a grant: those with a share, and under a K split all (R133, R136). -/
def grantFields (o : Op) (p : Plan) : List Nat :=
  ((o.fields.zip (List.range o.fields.length)).filter (fun q =>
    recOp o.record = 0x1010 || (p.shares.getD q.2 ⟨0, 0, 0, 0, 0, 0⟩).takesRows p.axis)).map Prod.fst

/-- Rows that a field must still supply: the held rows of the chain are part of the grant (R159). -/
def rowsNeeded (s : State) (c : Nat) (o : Op) (u : MatRun) (p : Plan) (f : Nat) : Nat :=
  p.rows.getD (o.fields.idxOf f) 0 - (s.field f).tileRows.countP (chainRow c o u)

/-- A tile row as an operation takes it (R140, R141, R145). -/
def grantedRow (s : State) (c : Nat) (o : Op) (u : MatRun) : TileRow :=
  { TileRow.reset with state := .open, anchor := u.anchor, ctx := c, gen := (s.ctx c).gen, seq := o.seq, out := recOut o.record }

/-- Turn the first n free rows into others. -/
def takeFree (new : TileRow) : Nat → List TileRow → List TileRow
  | 0, l => l
  | _, [] => []
  | n + 1, r :: l => if r.state = .free then new :: takeFree new n l else r :: takeFree new (n + 1) l

/-- The rows of a field after a grant; `idle` says that the field runs no pass of the operation (R133, R136), so that its own part of a
row is complete at once. -/
def grantRows (c : Nat) (o : Op) (u : MatRun) (new : TileRow) (idle : Bool) (need : Nat) (l : List TileRow) : List TileRow :=
  takeFree new need (l.map (fun r => if chainRow c o u r then
    { r with state := .open, seq := o.seq, passesDone := 0, complete := idle, partials := 0#8, arrivals := [], sent := 0 }
    else r))

/-! ## The end of a matrix operation (R132, R149, R151) -/

/-- What the field at a position has to go through: its passes, or with K = 0 its output blocks (R127). -/
def passCount (x : Ctx) (o : Op) (u : MatRun) (i : Nat) : Nat :=
  if recK o.record = 0 then (matBlocks x o u i).length else (matPasses x o u i).length

/-- Every pass of every field has been issued. -/
def passesOver (x : Ctx) (o : Op) (u : MatRun) : Bool :=
  (List.range o.fields.length).all (fun i => decide (passCount x o u i ≤ u.progress.getD i 0))

/-- A tile row of the operation at a position that keeps it from ending: not placed rows do not. -/
def rowPending (o : Op) (u : MatRun) (i : Nat) (r : TileRow) : Bool :=
  r.placed && (if recAccumulate o.record then
      ownerAt o u r.m0 i ≠ i || !r.complete || r.partials ≠ awaited o u i
    else true)

/-- The place of a basin word: field, tile row, row of the output and basin column, and the word's key in its tile row. -/
structure BasinPlace where
  field : Nat
  row : Nat
  m : Nat
  col : Nat
  key : Nat
  deriving DecidableEq, Repr

/-- Where the basin holds the sum of an output element: on the field that owns it (R136). -/
def State.basinPlace (s : State) (c : Nat) (o : Op) (u : MatRun) (g : Geo) (y : List Nat) : Option BasinPlace :=
  let (p, m, n) := placeOfOut o.record g y
  (o.fields.zip (List.range o.fields.length)).findSome? (fun q =>
    let l := (s.field q.1).tileRows
    ((List.range l.length).zip l).findSome? (fun e => let r := e.2
      if r.serves c o.seq && r.placed && r.batch == p && decide (ownerAt o u m q.2 = q.2) && decide (r.n0 ≤ n) && decide (n < r.n0 + 512)
        && decide (r.m0 ≤ m) && decide (m < r.m0 + 32) then some ⟨q.1, e.1, m, n - r.n0, 512 * (m - r.m0) + (n - r.n0)⟩
      else none))

/-- The word at a place. -/
def State.wordIn (s : State) (p : BasinPlace) : L128 :=
  tableGet ((s.field p.field).tileRows.getD p.row TileRow.reset).words p.key L128.zero

/-- The basin words of an output tile by stored position, as their reads give them (R150). -/
def State.basinTile (s : State) (c : Nat) (o : Op) (u : MatRun) (g : Geo) (tidx : Nat) : List (Nat × L128) :=
  (g.out.elems (unrank g.out.grid tidx)).map (fun e =>
    (e.1, ((s.basinPlace c o u g e.2).map (fun p => (s.wordIn p).checked)).getD L128.zero))

/-- What a read of the basin words of an output tile finds: each word whose check fails is poisoned and raises its event (R150, R530). -/
def readBasinTile (c : Nat) (o : Op) (u : MatRun) (g : Geo) (tidx : Nat) : Fx :=
  Fx.look fun s =>
    let bad := (g.out.elems (unrank g.out.grid tidx)).filterMap (fun e =>
      (s.basinPlace c o u g e.2).filter (fun p => !(s.wordIn p).residueOk))
    Fx.all [
      raiseEvs c o.seq (bad.map (fun p => residueEvent p.field ⟨0, 1, 0⟩ p.row p.m p.col)),
      Fx.each bad (fun p => onRows p.field (fun l => l.modify p.row (fun r => { r with words := tablePut r.words p.key L128.poisoned })))]

/-- Change the comparisons that an operation has queued. -/
def onComparisons (c : Nat) (o : Op) (k : Comparison → Comparison) : Fx :=
  Fx.field (o.fields.headD 0) (fun g => { g with comparisons := g.comparisons.map (fun q =>
    if q.ctx == c && q.seq == o.seq then k q else q) })

/-- The sums that the tiles of an operation's comparisons stand at are read and noted (R150, R342). -/
def noteSums (c : Nat) (o : Op) (u : MatRun) (put : List (Nat × L128) → Comparison → Comparison) : Fx :=
  Fx.look fun s =>
    let g := geoOf ((s.ctx c).asIssued o) o.record
    let mine := (s.field (o.fields.headD 0)).comparisons.filter (fun q => q.ctx == c && q.seq == o.seq)
    (Fx.each (mine.map Comparison.tile).eraseDups (readBasinTile c o u g)).andThen
      (onComparisons c o (fun q => put (s.basinTile c o u g q.tile) q))

/-- A matrix operation ends when its passes are over and no row of it is left, here or in a save area (R162), or, when it holds its
sums, when they are complete (R132, R151); one that has failed goes no further. -/
def matEnd (c : Nat) (seq : U32) : Fx :=
  Fx.look fun s =>
    match s.op? c seq with
    | none => Fx.skip
    | some o => match o.mat with
      | none => Fx.skip
      | some u =>
        let x := (s.ctx c).asIssued o
        let rows := fun (f : Nat) => (s.field f).tileRows.filter (TileRow.serves c seq)
        let pending := (o.fields.zip (List.range o.fields.length)).any (fun q =>
          (rows q.1).any (rowPending o u q.2))
        let late := s.ditch.partials.any (fun p => p.ctx == c && p.seq == seq)
          || (s.ctx c).saved.any (fun k => k.preempt && k.row.seq == seq)
        let acc := recAccumulate o.record
        let k : Chain :=
          { out := recOut o.record, desc := ((tableGet? o.descs (recOut o.record)).map DescEntry.bytes).getD []
            group := recGroup o.record, m := recM o.record, n := recN o.record, anchor := u.anchor, axis := u.axis
            fields := o.fields }
        if o.status ≠ 0#16 then Fx.when (o.phase = .running) (onOp c seq (fun p => { p with phase := .landing, comparisons := 0 }))
        else Fx.when (o.phase = .running && u.granted && !o.preempted && passesOver x o u && !pending && u.staged.isEmpty && !late)
          (Fx.all [
            Fx.when acc (noteSums c o u (fun l q => { q with sums := l })),
            Fx.each o.fields (fun f => onRows f (fun l => l.map (fun r =>
              if !r.serves c seq then r
              else if acc && r.placed then r.hold
              else TileRow.reset))),
            Fx.ctx c (fun y => { y with chains := y.chains.filter (fun q => q.out != k.out) ++ (if acc then [k] else []) }),
            onOp c seq (fun p => { p with phase := .landing
                                          status := if p.status = 0#16 && (u.poisoned || p.poisoned) then BitVec.ofNat 16 stPoisoned else p.status })])

/-! ## Placing rows (R126, R139, R197) -/

/-- Tile rows of a field that may take rows of a block: granted rows that are not placed, then free ones within the grant. -/
def slotsFor (c : Nat) (seq : U32) (grant : Nat) (l : List TileRow) : List Nat :=
  let idx := List.range l.length
  let at' := fun i => l.getD i TileRow.reset
  let fresh := idx.filter (fun i => (at' i).serves c seq && (at' i).state = .open && !(at' i).placed)
  let free := idx.filter (fun i => (at' i).state = .free)
  (fresh ++ free).take (grant - l.countP (fun r => r.serves c seq && r.placed))

/-- A block has its rows on a field. -/
def hasRow (c : Nat) (seq : U32) (batch n0 m0 : Nat) (l : List TileRow) : Bool :=
  l.any (fun r => r.serves c seq && r.state = .open && r.placed && r.batch == batch && r.n0 == n0 && r.m0 == m0)

/-- First rows of the tile rows of a block. -/
def Block.rows (b : Block) : List Nat := (List.range (ceilDiv (b.m1 - b.m0) 32)).map (fun i => b.m0 + 32 * i)

/-- A tile row of an operation holds rows of a block. -/
def Block.holds (b : Block) (r : TileRow) : Bool :=
  r.batch == b.batch && r.n0 == b.n0 && decide (b.m0 ≤ r.m0) && decide (r.m0 < b.m1)

/-- The block of a position that an output row and column lie in. -/
def blockAt (bs : List Block) (batch n0 m : Nat) : Option Block :=
  bs.find? (fun b => b.batch == batch && b.n0 == n0 && decide (b.m0 ≤ m) && decide (m < b.m1))

/-- The tile rows that a block reuses are free (R197): no row is left of the block two before it, or of one before that. -/
def blockRoom (c : Nat) (seq : U32) (bs : List Block) (b : Block) (l : List TileRow) : Bool :=
  !(bs.take (bs.idxOf b - 1)).any (fun d => l.any (fun r => r.serves c seq && r.placed && d.holds r))

/-- Place rows of a block that are not there yet: the rows after it, or none when there is no room. -/
def placeRows (c : Nat) (seq : U32) (grant : Nat) (new : TileRow) (batch n0 : Nat) (ms : List Nat) (l : List TileRow) :
    Option (List TileRow) :=
  let want := ms.filter (fun m => !hasRow c seq batch n0 m l)
  let slots := slotsFor c seq grant l
  if slots.length < want.length then none
  else some ((slots.zip want).foldl (fun l q =>
    l.set q.1 { new with placed := true, batch := batch, n0 := n0, m0 := q.2 }) l)

/-! ## Grant, continued -/

/-- With K = 0 the field takes its next output block: fresh tile rows, complete as they are placed, and what a chain holds there (R127, R141),
once the rows that it reuses are free (R197). -/
def placeBlock (f : Nat) : Fx :=
  Fx.look fun s =>
    match s.matOn f with
    | none => Fx.skip
    | some (c, o, u, i) =>
      let bs := matBlocks ((s.ctx c).asIssued o) o u i
      let k := u.progress.getD i 0
      let rows := (s.field f).tileRows
      match bs[k]? with
      | none => Fx.skip
      | some b =>
        match (if blockRoom c o.seq bs b rows then
            placeRows c o.seq (u.rows.getD i 0) (grantedRow s c o u) b.batch b.n0 (b.rows.filter (fun m => ownerAt o u m i = i)) rows
          else none) with
        | none => Fx.skip
        | some l => Fx.all [
            onRows f (fun _ => l.map (fun r => if r.serves c o.seq && r.placed && b.holds r then { r with complete := true } else r)),
            onMat c o.seq (fun u => { u with progress := u.progress.set i (k + 1) })]

/-- A product with K = 0 goes on: every field takes the blocks for which it has rows, in the order of R125 (R127). -/
def placeZero (c : Nat) (seq : U32) : Fx :=
  Fx.look fun s =>
    match s.op? c seq with
    | none => Fx.skip
    | some o => match o.mat with
      | none => Fx.skip
      | some u =>
        let x := (s.ctx c).asIssued o
        Fx.all [
          Fx.each (o.fields.zip (List.range o.fields.length)) (fun q => Fx.each (matBlocks x o u q.2) (fun _ => placeBlock q.1)),
          matEnd c seq]

/-- The operation that follows another in its context's stream, as it is issued or will be (R124). -/
def Ctx.followOp? (x : Ctx) (o : Op) : Option Op :=
  match ((x.ops.dropWhile (fun p => p.seq != o.seq)).drop 1).head? with
  | some p => some p
  | none => x.stream.head?.map (Op.issue x)

/-- Load the block of a pass of a matrix product on field `f` (R107 to R112). -/
def loadPass (v : State) (f c : Nat) (o : Op) (g : Geo) (p : Pass) (lead : Nat) : Except Stop CellBlock := do
  let tb ← readWhere v { o with fields := [f] } g.b (passB o.record g p)
  let at' := fun (k n : Nat) => g.bAt p.blk.batch p.g (p.k0 + k) (p.blk.n0 + n)
  .ok (loadCells c o.seq p g.cls g.b.code (fun k n => (tb.bits (at' k n), tb.scale (at' k n))) v.now lead)

/-- Local slots of tiles that meet a condition. -/
def tileSlots (own : Nat) (d : Desc) (p : List Nat → Bool) : List (Nat × Nat) :=
  ((d.allTiles.filter (fun j => p j && !d.offGrid j)).map (fun j => (d.slotAddr j, slotBytes d.code))).filter
    (fun q => isLocal own q.1)

/-- What local slots meet that fields read at a pass (R135, R361, R364, R377, R487). -/
def State.slotsAccess (s : State) (fs : List Nat) (l : List (Nat × Nat)) : Access :=
  l.foldl (fun a q => a.worse (s.slotAccess 0 fs q.1 q.2)) .ok

/-- The fields that read a pass's stationary block: under an M split the ditch carries it to every field of the group (R135). -/
def loadReaders (f : Nat) (o : Op) (axis : Nat) : List Nat := if axis = 1 then o.fields else [f]

/-- The state without the tile rows of an operation, as they will be once it is over. -/
def State.withoutRows (s : State) (c : Nat) (o : Op) : State :=
  o.fields.foldl (fun s f => s.modField f (fun g => { g with tileRows := g.tileRows.map (fun r =>
    if r.serves c o.seq then TileRow.reset else r) })) s

/-- What a preload comes to: the block, where its load succeeds, and the slots that it reads. -/
structure Preload where
  block : Option CellBlock
  reads : List (Nat × Nat)
  deriving DecidableEq, Repr

/-- No preload. -/
def Preload.none : Preload := ⟨.none, []⟩

/-- The tensors that a preload reads: B, and the offsets that give its group (R124, R274). -/
def preloadDescs (r : List Byte) : List Nat := recIn r 1 :: (if recOp r = 0x1001 then [recIn r 2] else [])

/-- No operation before the next one that is not over writes what its preload reads. DEDUCED (log 50): R124 names the output of the
current one, and R14 keeps the preload from every other that may still write. -/
def State.preloadSafe (s : State) (c : Nat) (n : Op) : Bool :=
  let x := s.ctx c
  (x.ops.takeWhile (fun p => p.seq != n.seq)).all (fun p => (writeDescs p.record).all (fun i => (preloadDescs n.record).all (fun j =>
    !((x.asIssued n).desc j).overlaps s.own ((x.asIssued p).desc i))))

/-- The axis by which the next operation will be split: that of the chain which it continues (R152), or of which the current one is part,
else that of least cost (R134), with the tile rows of the current one free again, and where none can be granted yet with all of them
(log 50). -/
def nextAxis (v : State) (c : Nat) (o : Op) (u : MatRun) (n : Op) : Nat :=
  let split := ((matPlan v c n).map Plan.axis).getD (((matPlan (n.fields.foldl (fun s f => s.modField f (fun g =>
    { g with tileRows := List.replicate 256 TileRow.reset })) v) c n).map Plan.axis).getD 0)
  if isArrayOp (recOp o.record) && recOut n.record = recOut o.record then (if recAccumulate o.record then u.axis else split)
  else (((v.ctx c).chain? n).map Chain.axis).getD split

/-- The preload that the last pass of an operation starts on a field (R124): the first block of the next matrix operation on the same
group; a load that fails its checks leaves none, and memory that does not serve it is not read. -/
def preloadFor (s : State) (f c i : Nat) (o : Op) (u : MatRun) (lead : Nat) : Preload :=
  match (s.ctx c).followOp? o with
  | none => Preload.none
  | some q =>
    let n := { q with fields := o.fields }
    let r := n.record
    let v := (s.withoutRows c o).asIssued c n
    let y := v.ctx c
    let load := fun (axis : Nat) (d : Desc) (t : List Nat → Bool) (b : Option CellBlock) =>
      let l := tileSlots v.own d t
      if v.slotsAccess (loadReaders f n axis) l == .ok then Preload.mk b l else Preload.none
    if !(isMatrixOp (recOp r) && recGroup r = recGroup o.record && !emptyProduct r && !zeroProduct r && s.preloadSafe c n) then Preload.none
    else if recOp r = 0x1010 then
      match (attPassesOf (attRequest (attParams y r)).1 y n i).head? with
      | some a => load 0 (attReads y n a).1 (attReads y n a).2 (attBlock v f c n lead a)
      | none => Preload.none
    else
      -- the offsets are read once for the group
      let offs := if recOp r = 0x1001 && i = 0 then tileSlots v.own (y.desc (recIn r 2)) (fun _ => true) else []
      match matOffsets v c n with
      | .error _ => ⟨none, offs⟩
      | .ok l =>
        let axis := nextAxis v c o u n
        let w : MatRun := { anchor := 0, chosen := true, axis := axis, shares := sharesOf (recM r) (recN r) (recK r) n.fields.length axis
                            grant := 256, rows := [], firstLoad := [], granted := false, progress := [], waits := [], offsets := l
                            chain := false, poisoned := false, staged := [] }
        let g := geoOf y r
        match (matPasses y n w i).head? with
        | some a =>
          let p := load axis g.b (passB r g a) (loadPass v f c n g a lead).toOption
          ⟨p.block, offs ++ p.reads⟩
        | none => ⟨none, offs⟩

/-- A field's load port takes up a preload. -/
def takePreload (f : Nat) (p : Preload) : Fx :=
  (Fx.each p.reads (fun q => touchRange (localKey q.1) q.2)).andThen (Fx.field f (fun g => g.loadShadow p.block))

/-- Rows of a preloaded block that are in by now (R108, R124): its load began with the last pass of the operation before, whose rows
and tail have gone by, and a row more follows in each array cycle, of which `mhz` million go by in a second (log 50). -/
def CellBlock.done (now mhz : Nat) (b : CellBlock) : Nat := b.lead + (now - b.began) * mhz / 100

/-- The preload that a field has of an operation. -/
def State.preloaded (s : State) (f c : Nat) (seq : U32) : Nat :=
  match (s.field f).shadow with
  | some b => if b.ctx = c && b.seq = seq then b.done s.now (levelMhz (min 3 (s.level f))) else 0
  | none => 0

/-- Rows of the first load that are missing when an operation can start on each of its fields (R123, R124); under an N or an M split
every field waits for the slowest (R135). -/
def firstLoads (s : State) (c : Nat) (o : Op) (u : MatRun) : List Nat :=
  let x := (s.ctx c).asIssued o
  let l := (o.fields.zip (List.range o.fields.length)).map (fun q =>
    ((matPasses x o u q.2).head?.map (fun p => p.rows (geoOf x o.record).cls - s.preloaded q.1 c o.seq)).getD 0)
  if u.axis = 2 then l else l.map (fun _ => l.foldl max 0)

/-- ATTENTION runs whole under its grant (R286): each field counts its passes and stalls, its cells take each block in turn, and its last
pass preloads for the next operation (R113, R124, R137). -/
def runAttention (c : Nat) (o : Op) (u : MatRun) (n : GrantNote) : Fx :=
  Fx.look fun s =>
    let v := s.asIssued c o
    Fx.all [
      Fx.each o.fields (fun f => onRows f (fun l => l.map (fun r => if r.serves c o.seq then TileRow.reset else r))),
      Fx.each (o.fields.zip (List.range o.fields.length)) (fun q =>
        let (p, t) := attCounts (s.pace q.1) u.grant (s.preloaded q.1 c o.seq) (n.late.getD q.2 0) (v.ctx c) o q.2
        let l := attPassesOf u.grant (v.ctx c) o q.2
        let lead := s.pace q.1 * ((l.getLast?.map AttPass.len).getD 0) + 50
        Fx.all [
          Fx.field q.1 (fun g => { g with passes := g.passes + BitVec.ofNat 32 p, stalls := g.stalls + BitVec.ofNat 32 t }.runAttention
            (l.map (attBlock v q.1 c o 0))),
          takePreload q.1 (preloadFor s q.1 c q.2 o u lead),
          progress q.1 0,
          progress q.1 1]),
      applyResult c o.seq (attentionWork u.grant n.faults v c o)]

/-- What follows a grant at once: ATTENTION runs (R286), K = 0 takes its first blocks (R127); an operation of a chain notes the sums that it
adds to where it compares (log 30). -/
def afterGrant (c : Nat) (seq : U32) (n : GrantNote) : Fx :=
  Fx.look fun s =>
    match s.op? c seq with
    | none => Fx.skip
    | some o => match o.mat with
      | none => Fx.skip
      | some u =>
        if recOp o.record = 0x1010 then runAttention c o u n
        else Fx.all [
          onMat c seq (fun u => { u with firstLoad := firstLoads s c o u }),
          Fx.when u.chain (noteSums c o u (fun l q => { q with base := l })),
          Fx.when (decide (recK o.record = 0)) (placeZero c seq)]

/-- Held rows of the chain that must return first (R159): those in the save area, whatever saved them, and those on their way to it. -/
def State.chainAway (s : State) (c : Nat) (o : Op) (u : MatRun) : Bool :=
  u.chain && ((s.ctx c).saved.any (fun k => k.row.out == recOut o.record)
    || o.fields.any (fun f => (s.field f).tileRows.any (fun r => r.state = .saving && r.ctx == c && r.out == recOut o.record)))

/-- Give an operation its grant, or make room for it (R142 to R145, R152, R159). -/
def tryGrant (c : Nat) (o : Op) (u : MatRun) (p : Plan) (n : GrantNote) : Fx :=
  Fx.look fun s =>
    let fs := grantFields o p
    let need := rowsNeeded s c o u p
    let (mf, nf, _) := largest p.shares
    if recOp o.record ≠ 0x1010 && (recAccumulate o.record || u.chain) && !oneBlock mf nf then matFail c o (Stop.plain stBadParam)
    else
      let chosen := onMat c o.seq (fun v => { v with chosen := true, axis := p.axis, shares := p.shares, grant := p.grant, rows := p.rows })
      if fs.all (fun f => decide (need f ≤ s.freeRows f)) then
        Fx.all [
          chosen,
          Fx.each fs (fun f => onRows f (grantRows c o u (grantedRow s c o u)
            (!(p.shares.getD (o.fields.idxOf f) ⟨0, 0, 0, 0, 0, 0⟩).used) (need f))),
          onMat c o.seq (fun v => { v with granted := true }),
          afterGrant c o.seq n]
      else chosen.andThen (Fx.each fs (fun f => evictFor c f (need f) (chainRow c o u)))

/-- The operation of a context that waits for a grant that can be made. -/
def State.grantable (s : State) (c : Nat) : Option (Op × MatRun × Plan) :=
  (s.ctx c).ops.findSome? (fun o => o.mat.bind (fun u =>
    if o.phase = .running && !o.preempted && o.status = 0#16 && !u.granted && !s.chainAway c o u then
      (grantPlan (s.asIssued c o) c o u).map (fun p => (o, u, p))
    else none))

/-- BASIN_GRANT. ATTENTION, which reads as it runs, meets its slots again: it waits for sets that are coming on, and memory that serves no
access any more ends it (R364, R377). -/
def execBasinGrant (n : GrantNote) (s : State) : Host.Outcome State Fault Refusal :=
  (match s.grantable n.ctx with
   | some (o, u, p) => match (if recOp o.record = 0x1010 then (s.asIssued n.ctx o).readsAgain n.ctx o else .ok) with
     | .stall => Fx.skip
     | .stop st => matFail n.ctx o (Stop.plain st)
     | .ok => tryGrant n.ctx o u p n
   | none => Fx.skip).outcome s

/-! ## Passes (R107 to R126, R146) -/

/-- Add a word to a basin word, which the read checks (R150); a word that is not listed is fresh (R141). -/
def TileRow.add (r : TileRow) (key : Nat) (w : L128) : TileRow :=
  { r with words := tablePut r.words key ((tableGet r.words key L128.zero).checked.add w) }

/-- The words of one pass by row and column, with the residue faults that they meet (R92). -/
def passWords (g : Geo) (anchor : Int) (ta : Tens) (nan : Nat → Nat → Bool) (b : CellBlock) (p : Pass) (faults : List FaultSite) :
    List (Nat × Nat × L128) :=
  let n := p.blk.n1 - p.blk.n0
  (List.range ((p.r1 - p.r0) * n)).map (fun e =>
    let m := p.r0 + e / n
    let k := p.blk.n0 + e % n
    (m, k, if faults.any (fun z => z.element == e) then L128.poisoned else passWord g anchor ta nan b p m k))

/-- A tile row takes the words of a pass. -/
def TileRow.takes (c : Nat) (seq : U32) (p : Pass) (r : TileRow) : Bool :=
  r.serves c seq && r.state = .open && r.placed && r.batch == p.blk.batch && r.n0 == p.blk.n0
    && decide (p.blk.m0 ≤ r.m0) && decide (r.m0 < p.blk.m1)

/-- A pass's words enter the basin. -/
def addPass (c : Nat) (seq : U32) (p : Pass) (ws : List (Nat × Nat × L128)) (r : TileRow) : TileRow :=
  if r.takes c seq p then
    let r := (ws.filter (fun w => decide (r.m0 ≤ w.1) && decide (w.1 < r.m0 + 32))).foldl
      (fun r w => r.add (512 * (w.1 - r.m0) + (w.2.1 - r.n0)) w.2.2) r
    { r with passesDone := r.passesDone + 1, complete := p.last }
  else r

/-- Tile row of a field that holds a basin row. -/
def rowIndex (c : Nat) (seq : U32) (batch n0 m : Nat) (l : List TileRow) : Nat :=
  l.findIdx (fun r => r.serves c seq && r.placed && r.batch == batch && r.n0 == n0 && decide (r.m0 ≤ m) && decide (m < r.m0 + 32))

/-- A fault that the basin finds. -/
def basinFault : FaultSite := { element := 0, engine := 1, furrow := 0 }

/-- The events of the basin additions of a pass whose check fails (R91, R146). -/
def passFaults (f c : Nat) (seq : U32) (p : Pass) (ws : List (Nat × Nat × L128)) (rows : List TileRow) : List Ev :=
  (rows.mapIdx (fun t r =>
    if r.takes c seq p then
      (ws.filter (fun w => decide (r.m0 ≤ w.1) && decide (w.1 < r.m0 + 32)
        && (tableGet r.words (512 * (w.1 - r.m0) + (w.2.1 - r.n0)) L128.zero).storedFault w.2.2)).map (fun w =>
          residueEvent f basinFault t w.1 (w.2.1 - r.n0))
    else [])).flatten

/-- The cycles from the first row of a pass to that of the next (R122), a row in each `pace` cycles (R596): on a field of an N or an M
split, those of the slowest field (R135). DESIGN CHOICE (log 136): pass k of one field is in step with pass k of every other, also where an
M split gives the fields different numbers of M blocks. -/
def stepCycles (pace cls : Nat) (l : List (List Pass)) (k : Nat) : Nat :=
  (l.map (fun ps => match ps[k]?, ps[k + 1]? with
    | some p, some q => max (pace * p.len) (q.rows cls)
    | some p, none => pace * p.len
    | none, _ => 0)).foldl max 0

/-- Stall cycles that the passes themselves give one of them: the rows of the first load, the wait for the next pass, the idle cycles of
the pace and the last 50 cycles (R122, R123, R137, R596). `group` holds the passes of the fields that run in step with it. -/
def passStalls (pace cls first : Nat) (group : List (List Pass)) (ps : List Pass) (k : Nat) : Nat :=
  match ps[k]? with
  | none => 0
  | some p => (if k = 0 then first else 0)
      + (if k + 1 < ps.length then stepCycles pace cls group k - p.len else pace * p.len - p.len + 50)

/-- The passes of the fields that run in step with one: all of an N or an M split (R135), under a K split its own alone. -/
def inStep (x : Ctx) (o : Op) (u : MatRun) (ps : List Pass) : List (List Pass) :=
  if u.axis = 2 then [ps] else (List.range o.fields.length).map (matPasses x o u)

/-- The pace of a pass: that of the slowest field in step with its own (R135, R596). -/
def State.groupPace (s : State) (f : Nat) (o : Op) (u : MatRun) : Nat :=
  if u.axis = 2 then s.pace f else (o.fields.map s.pace).foldl max 1

/-- The rows of a pass's load that are missing when it starts, beyond those of the first load: all where the shadow does not hold its
block (R114, R123). -/
def missingRows (cls first : Nat) (b : Option CellBlock) (k : Nat) (p : Pass) : Nat :=
  match b with
  | none => if k = 0 then p.rows cls - first else p.rows cls
  | some _ => 0

/-- A field loses array cycles. -/
def stallBy (n f : Nat) : Fx := Fx.field f (fun g => { g with stalls := g.stalls + BitVec.ofNat 32 n })

/-- A pass waits `n` cycles longer: of an N or an M split every field that has such a pass stalls with it, as long as the longest of them
waits (R135, R137); under a K split the field alone. -/
def holdStep (f c : Nat) (x : Ctx) (o : Op) (u : MatRun) (k n : Nat) : Fx :=
  if u.axis = 2 then stallBy n f
  else
    let waited := tableGet u.waits k 0
    Fx.when (decide (waited < n)) (Fx.all [
      Fx.each ((o.fields.zip (List.range o.fields.length)).filter (fun q => decide (k < (matPasses x o u q.2).length)))
        (fun q => stallBy (n - waited) q.1),
      onMat c o.seq (fun u => { u with waits := tablePut u.waits k n })])

/-- The fields of an N or an M split run their passes in step: none is more than one behind (R135). -/
def inTurn (x : Ctx) (o : Op) (u : MatRun) (k : Nat) : Bool :=
  u.axis = 2 || (List.range o.fields.length).all (fun j => decide (min k (matPasses x o u j).length ≤ u.progress.getD j 0))

/-- The chunks of CONV that a field has lowered when a pass runs, the one that it reads last (R278, R279). -/
def chunksTo (x : Ctx) (o : Op) (u : MatRun) (i : Nat) (p : Pass) : List Chunk :=
  let h := u.share i
  let mp := mPass (h.mHi - h.mLo) (h.nHi - h.nLo) u.grant (chunkOf x o.record)
  ((stepsOf h.mLo h.mHi mp).filter (fun m => decide (m.1 ≤ p.blk.m0))).map (fun m =>
    ⟨i, (m.1 - h.mLo) / mp % 2, (x.desc (recScratch o.record)).n 1 / 2, m.1, m.2⟩)

/-- The scratch tiles of the chunk that a pass opens, none for a pass that opens none (R278, R279). -/
def lowerTiles (v : State) (c : Nat) (o : Op) (u : MatRun) (g : Geo) (i f : Nat) (p : Pass) : List PrismTile :=
  let x := v.ctx c
  let sc := x.desc (recScratch o.record)
  if recOp o.record = 0x1002 && p.first && p.blk.n0 = (u.share i).nLo then
    match (chunksTo x o u i p).getLast? with
    | some h => (h.tiles sc).map (loweredPrism o.record g (readSrc v { o with fields := [f] } g.a) sc h f)
    | none => []
  else []

/-- The chunk of CONV that a pass opens is lowered: its scratch tiles and the prism's counts (R219, R229, R278). -/
def lowerFx (v : State) (c : Nat) (o : Op) (u : MatRun) (g : Geo) (i f : Nat) (p : Pass) (ts : List PrismTile) : Fx :=
  let (pieces, _) := prismRun ts
  let x := v.ctx c
  Fx.when (!ts.isEmpty) (Fx.all [
    Fx.each pieces (landPiece c o.seq),
    countPrism (f, lastReads o.record g (x.desc (recScratch o.record)) (chunksTo x o u i p) (tilesBegun ts), pieces.length, 0, 0),
    progress f 3])

/-- The stream that a pass reads. -/
def passStream (v : State) (f : Nat) (o : Op) (g : Geo) (p : Pass) : Except Stop Tens :=
  readWhere v { o with fields := [f] } g.a (passA o.record g p)

/-- The field's shadow, where it holds the block of this pass. -/
def State.shadowFor (s : State) (f c : Nat) (o : Op) (p : Pass) : Option CellBlock :=
  (s.field f).shadow.filter (CellBlock.serves c o.seq p)

/-- The stationary block of a pass (R113): the shadow's, or, where none was loaded, the block loaded now. -/
def passBlock (v : State) (f c : Nat) (o : Op) (g : Geo) (p : Pass) : Except Stop CellBlock :=
  match v.shadowFor f c o p with
  | some b => .ok b
  | none => loadPass v f c o g p 0

/-- The operands of a pass: its stream and its stationary block. -/
def passOperands (v : State) (f c : Nat) (o : Op) (g : Geo) (p : Pass) : Except Stop (Tens × CellBlock) := do
  let ta ← passStream v f o g p
  let b ← passBlock v f c o g p
  .ok (ta, b)

/-- The fields that read a pass's stream: under an N split the ditch carries it to every field of the group (R135). -/
def streamReaders (f : Nat) (o : Op) (axis : Nat) : List Nat := if axis = 0 then o.fields else [f]

/-- What the local slots of a pass's operands meet. -/
def passAccess (v : State) (f c : Nat) (o : Op) (u : MatRun) (g : Geo) (p : Pass) : Access :=
  (v.slotsAccess (streamReaders f o u.axis) (tileSlots v.own g.a (passA o.record g p))).worse
    (if (v.shadowFor f c o p).isSome then .ok else v.slotsAccess (loadReaders f o u.axis) (tileSlots v.own g.b (passB o.record g p)))

/-- The block that is loaded beside a pass for the next one (R122): memory that no longer serves it stops the operation once the pass is
over, and one that is coming on leaves the load to the next pass. -/
def nextLoad (v : State) (f c : Nat) (o : Op) (u : MatRun) (g : Geo) (q : Pass) : Except Stop (Option CellBlock) :=
  match v.slotsAccess (loadReaders f o u.axis) (tileSlots v.own g.b (passB o.record g q)) with
  | .stop st => .error (Stop.plain st)
  | .stall => .ok none
  | .ok => (loadPass v f c o g q 0).map some

/-- The streamed elements of a pass that lie in a NaN block of CONV's lowered tensor (R42). -/
def passNan (v : State) (f c : Nat) (o : Op) (u : MatRun) (g : Geo) (i : Nat) (p : Pass) : Nat → Nat → Bool :=
  let x := v.ctx c
  let noNan := match formatKind g.a.code with
    | some (.float _ _ _ _ nan) => !nan
    | _ => false
  match (if recOp o.record = 0x1002 && noNan then (chunksTo x o u i p).getLast? else none) with
  | some h => loweredNan o.record g (readSrc v { o with fields := [f] } g.a).tens (x.desc (recScratch o.record)) h
  | none => fun _ _ => false

/-- The slots that a pass reads on this module (R350): its stream, its block where the shadow does not hold it, and the block of the next
pass. What the ditch carries to every field of a split is read once (R135), for the field that comes first. -/
def passReads (v : State) (f c : Nat) (o : Op) (u : MatRun) (g : Geo) (i : Nat) (p : Pass) (next : Option Pass) : List (Nat × Nat) :=
  let k := u.progress.getD i 0
  let again := fun (axis n : Nat) => u.axis = axis && (List.range o.fields.length).any (fun j => j ≠ i && decide (n < u.progress.getD j 0))
  let block := fun (q : Pass) => tileSlots v.own g.b (passB o.record g q)
  (if again 0 k then [] else tileSlots v.own g.a (passA o.record g p))
    ++ (if (v.shadowFor f c o p).isSome || again 1 k then [] else block p)
    ++ (match next with
      | some q => if again 1 k || v.slotsAccess (loadReaders f o u.axis) (block q) != .ok then [] else block q
      | none => [])

/-- One pass of a field whose rows are in place: the shadow becomes the stationary block (R113), the rows of the stream are multiplied
with it and added, and beside them the block of the next pass, or of the next operation, is loaded (R122, R124). `n` gives the
number of cycles that its issue waited beyond R122 (R112, R118, R197, R279) and the residue checks that fail. -/
def runPass (f c : Nat) (o : Op) (u : MatRun) (i : Nat) (ps : List Pass) (p : Pass) (rows : List TileRow) (n : PassNote) : Fx :=
  Fx.look fun s =>
    let v := s.asIssued c o
    let x := v.ctx c
    let g := geoOf x o.record
    let k := u.progress.getD i 0
    let lowered := lowerTiles v c o u g i f p
    let lower := lowerFx v c o u g i f p lowered
    match (prismRun lowered).2 with
    | some e => lower.andThen (matFail c o e)
    | none =>
      let next := ps[k + 1]?
      let reads := Fx.each (passReads v f c o u g i p next) (fun q => touchRange (localKey q.1) q.2)
      match passOperands v f c o g p with
      | .error e => Fx.all [lower, reads, matFail c o e]
      | .ok (ta, b) =>
        let held := v.shadowFor f c o p
        let load := next.map (nextLoad v f c o u g)
        let pace := s.groupPace f o u
        let shadow := match load with
          | some (.ok b) => Preload.mk b []
          | some (.error _) => Preload.none
          | none => preloadFor s f c i o u (pace * p.len + 50)
        let ws := passWords g u.anchor ta (passNan v f c o u g i p) b p n.residue
        let w := p.blk.n1 - p.blk.n0
        let first := u.firstLoad.getD i 0
        Fx.all [
          onRows f (fun _ => rows),
          reads,
          lower,
          raiseEvs c o.seq (passFaults f c o.seq p ws rows),
          onRows f (fun l => l.map (addPass c o.seq p ws)),
          raiseEvs c o.seq ((n.residue.filter (fun z => decide (z.element < (p.r1 - p.r0) * w))).map (fun z =>
            let m := p.r0 + z.element / w
            residueEvent f z (rowIndex c o.seq p.blk.batch p.blk.n0 m rows) m (z.element % w))),
          Fx.field f (fun g' => { g' with passes := g'.passes + 1#32 }.swap b),
          stallBy (passStalls pace g.cls first (inStep x o u ps) ps k) f,
          holdStep f c x o u k (missingRows g.cls first held k p + n.late),
          takePreload f shadow,
          progress f 0,
          progress f 1,
          onMat c o.seq (fun u => { u with progress := u.progress.set i (k + 1) }),
          (match load with
           | some (.error e) => matFail c o e
           | _ => matEnd c o.seq)]

/-- PASS_START: it waits while a set that it reads is coming on, for the fields that it is in step with (R135), and for the tile rows that
its block reuses (R197); a row whose anchor is not the operation's ends the operation (R146). -/
def execPassStart (field : Nat) (n : PassNote) (s : State) : Host.Outcome State Fault Refusal :=
  (match s.matOn field with
   | none => Fx.skip
   | some (c, o, u, i) =>
     let x := (s.ctx c).asIssued o
     let ps := matPasses x o u i
     match ps[u.progress.getD i 0]? with
     | none => Fx.skip
     | some p =>
       match placeRows c o.seq (u.rows.getD i 0) (grantedRow s c o u) p.blk.batch p.blk.n0 (if p.first then p.blk.rows else [])
           (s.field field).tileRows with
       | none => Fx.skip
       | some rows => Fx.when (u.granted && !(s.ctx c).saved.any (fun k => k.field == field && k.preempt)
             && inTurn x o u (u.progress.getD i 0) && (!p.first || blockRoom c o.seq (matBlocks x o u i) p.blk (s.field field).tileRows))
           (match passAccess (s.asIssued c o) field c o u (geoOf x o.record) p with
            | .stall => Fx.skip
            | .stop st => matFail c o (Stop.plain st)
            | .ok =>
              if rows.any (fun r => r.takes c o.seq p && r.anchor ≠ u.anchor) then matFail c o (Stop.plain stAnchor)
              else runPass field c o u i ps p rows n)).outcome s

/-! ## Partials of a K split (R136, R146 to R148, R628) -/

/-- The events of the words of a tile row whose check fails when they are read (R150, R530). -/
def rowFaults (f t : Nat) (l : List (Nat × L128)) : List Ev :=
  (l.filter (fun w => !w.2.residueOk)).map (fun w => residueEvent f basinFault t (w.1 / 512) (w.1 % 512))

/-- A tile row whose next basin row goes to its owner: of those, the first in the order of the output blocks (R125, R279, R628). -/
def toSend (bs : List Block) (o : Op) (u : MatRun) (c i : Nat) (l : List TileRow) : Option (Nat × TileRow) :=
  let mine := ((List.range l.length).zip l).filter (fun q =>
    q.2.serves c o.seq && q.2.state = .open && q.2.placed && q.2.complete && decide (ownerAt o u q.2.m0 i ≠ i))
  let turn := fun (r : TileRow) => bs.findIdx (fun b => b.holds r)
  let le := fun (a b : Nat × TileRow) => decide (turn a.2 < turn b.2) || (turn a.2 == turn b.2 && decide (a.2.m0 ≤ b.2.m0))
  (sortBy le mine).head?

/-- PARTIAL_SEND: one basin row leaves for the ditch; the tile row is free behind its last one. A row that no route takes to its owner ends
the operation (R487). -/
def execPartialSend (field : Nat) (s : State) : Host.Outcome State Fault Refusal :=
  (match s.matOn field with
   | none => Fx.skip
   | some (c, o, u, i) => match toSend (matBlocks ((s.ctx c).asIssued o) o u i) o u c i (s.field field).tileRows with
     | none => Fx.skip
     | some (t, r) =>
       let last := min 32 (recM o.record - r.m0)
       let read := r.words.filter (fun (w : Nat × L128) => w.1 / 512 == r.sent)
       let ws := read.map (fun (w : Nat × L128) => (w.1 % 512, w.2.checked))
       let owner := o.fields.getD (ownerAt o u r.m0 i) field
       match ditchRoute s.ditchLive arrayClass (.field field) (.field owner) with
       | none => matFail c o (Stop.plain stNoResource)
       | some way =>
         let sent : Partial :=
           { src := field, owner := owner, ctx := c, gen := (s.ctx c).gen, seq := o.seq, batch := r.batch, m := r.m0 + r.sent, n0 := r.n0
             cols := min (r.n0 + 512) (u.share i).nHi - r.n0, anchor := r.anchor, words := ws, route := way }
         Fx.all [
           raiseEvs c o.seq (rowFaults field t read),
           Fx.ditch (Ditch.send sent),
           onRows field (fun l => l.modify t (fun r => if r.sent + 1 < last then { r with sent := r.sent + 1 } else TileRow.reset)),
           matEnd c o.seq]).outcome s

/-- A partial's words enter a tile row (R136, R147). -/
def addPartial (rows : Nat) (p : Partial) (faults : List FaultSite) (r : TileRow) : TileRow :=
  let base := 512 * (p.m - r.m0)
  let ws := (p.words.zip (List.range p.words.length)).map (fun w =>
    (w.1.1, if faults.any (fun z => z.element == w.2) then L128.poisoned else w.1.2))
  let r := ws.foldl (fun r w => r.add (base + w.1) w.2) r
  let n := tableGet r.arrivals p.src 0 + 1
  { r with arrivals := tablePut r.arrivals p.src n
           partials := if n = rows then r.partials ||| BitVec.ofNat 8 (2 ^ p.src) else r.partials }

/-- Where a partial lands: the tile rows of the owner with the rows of its block in place, none when the partial matches no open row of its
operation (R148), or when it must wait for room or for a restore (R162, R197). -/
inductive Landing where
  | rows (l : List TileRow)
  | wait
  | drop
  deriving DecidableEq, Repr

/-- What a partial meets at its owner. -/
def State.landing (s : State) (f : Nat) (p : Partial) : Landing :=
  match s.op? p.ctx p.seq with
  | none => .drop
  | some o => match o.mat with
    | none => .drop
    | some u =>
      let i := o.fields.idxOf f
      let bs := matBlocks ((s.ctx p.ctx).asIssued o) o u i
      let room := fun (b : Block) => blockRoom p.ctx p.seq bs b (s.field f).tileRows
      if p.gen ≠ (s.ctx p.ctx).gen || o.phase ≠ .running || !u.granted || o.status ≠ 0#16 then .drop
      else if o.preempted || (s.ctx p.ctx).saved.any (fun k => k.field == f && k.preempt) then .wait
      else match (blockAt bs p.batch p.n0 p.m).filter room with
        | none => .wait
        | some b => match placeRows p.ctx p.seq (u.rows.getD i 0) { grantedRow s p.ctx o u with complete := !(u.share i).used } p.batch p.n0
            (b.rows.filter (fun m => ownerAt o u m i = i)) (s.field f).tileRows with
          | some l => .rows l
          | none => .wait

/-- The partial that an owner takes next: those that wait are held at its ditch endpoint, and others pass them (R162). -/
def State.arriving (s : State) (f : Nat) : Option Partial :=
  s.ditch.partials.find? (fun (p : Partial) => p.owner == f && s.landing f p != .wait)

/-- The events of a partial's additions whose check fails (R91, R146). -/
def partialFaults (f t : Nat) (p : Partial) (r : TileRow) : List Ev :=
  (p.words.filter (fun w => (tableGet r.words (512 * (p.m - r.m0) + w.1) L128.zero).storedFault w.2)).map (fun w =>
    residueEvent f basinFault t p.m w.1)

/-- PARTIAL_ARRIVAL: a partial of another anchor than its row's ends the operation (R146). -/
def execPartialArrival (field : Nat) (residue : List FaultSite) (s : State) : Host.Outcome State Fault Refusal :=
  (match s.arriving field with
   | none => Fx.skip
   | some p =>
     let gone := Fx.ditch (Ditch.take p)
     match s.landing field p with
     | .wait => Fx.skip
     | .drop => gone
     | .rows l =>
       let t := rowIndex p.ctx p.seq p.batch p.n0 p.m l
       let total := match s.op? p.ctx p.seq with
         | some o => min 32 (recM o.record - p.m / 32 * 32)
         | none => 32
       if (l.getD t TileRow.reset).anchor ≠ p.anchor then
         gone.andThen (match s.op? p.ctx p.seq with
           | some o => matFail p.ctx o (Stop.plain stAnchor)
           | none => Fx.skip)
       else Fx.all [
         gone,
         raiseEvs p.ctx p.seq (partialFaults field t p (l.getD t TileRow.reset)),
         onRows field (fun _ => l.modify t (addPartial total p residue)),
         progress field 1,
         raiseEvs p.ctx p.seq ((residue.filter (fun (z : FaultSite) => decide (z.element < p.words.length))).map (fun (z : FaultSite) =>
           residueEvent field { z with engine := 1 } t p.m ((p.words.getD z.element (0, L128.zero)).1))),
         matEnd p.ctx p.seq]).outcome s

/-! ## Drains (R149, R150, R196, R512) -/

/-- The sums of a tile row are whole: its field's passes over it are done, and every partial has been added. -/
def TileRow.whole (o : Op) (u : MatRun) (i : Nat) (r : TileRow) : Bool := r.complete && r.partials = awaited o u i

/-- A tile row may drain (R149): it is whole, and so is every row of its output block that the field owns and still has, among the rows `l`
of its basin and those that a preemption saved. -/
def TileRow.ready (o : Op) (u : MatRun) (i : Nat) (bs : List Block) (l : List TileRow) (r : TileRow) : Bool :=
  r.state = .open && r.placed && ownerAt o u r.m0 i = i && !recAccumulate o.record && r.whole o u i
    && (blockAt bs r.batch r.n0 r.m0).any (fun b => l.all (fun q =>
      !(q.serves r.ctx r.seq && q.placed && b.holds q && decide (ownerAt o u q.m0 i = i)) || q.whole o u i))

/-- Output coordinates and words of a tile row with the residue faults that its read meets: a failing word is poisoned (R150,
R89), and its element number is reported. -/
def drainWords (g : Geo) (h : Share) (r : TileRow) (faults : List FaultSite) : List (List Nat × L128 × Option (Nat × Nat)) :=
  let n := min (r.n0 + 512) h.nHi - r.n0
  (List.range (min 32 (g.m - r.m0) * n)).map (fun e =>
    let w := tableGet r.words (512 * (e / n) + e % n) L128.zero
    let y := g.outAt r.batch (r.m0 + e / n) (r.n0 + e % n)
    if !w.residueOk || faults.any (fun z => z.element == e) then (y, L128.poisoned, some (e / n, e % n)) else (y, w, none))

/-- The words of a tile as staged, by stored position. -/
def stagedOf (st : List (Nat × Nat × L128)) (tidx : Nat) : List (Nat × L128) := (st.filter (fun e => e.1 == tidx)).map Prod.snd

/-- A tile of the epilogue operand holds an element that an output tile needs (R185). -/
def epiMeets (x : Ctx) (o : Op) (j t : List Nat) : Bool :=
  ((x.desc (recOut o.record)).elems j).any (fun y => decide ((x.desc (recEpi o.record)).tileOf y.2 = t))

/-- The epilogue tiles that an output tile needs, read just before it is written (R185, R196). -/
def readEpiTile (v : State) (c : Nat) (o : Op) (j : List Nat) : Except Stop (Option Tens) :=
  if recEpilogue o.record = 0 then .ok none
  else (readWhere v o ((v.ctx c).desc (recEpi o.record)) (epiMeets (v.ctx c) o j)).map some

/-- The slots of those tiles on this module. -/
def epiSlots (v : State) (c : Nat) (o : Op) (j : List Nat) : List (Nat × Nat) :=
  if recEpilogue o.record = 0 then [] else tileSlots v.own ((v.ctx c).desc (recEpi o.record)) (epiMeets (v.ctx c) o j)

/-- Land a whole tile of the output from field `f`, unless the operation has failed or the slot does not exist (R205); at the positions `bad`
a check of its accumulate-write fails (R511). A poisoned word of the epilogue operand ends the operation behind the tile (R517). -/
def emitTile (f c : Nat) (o : Op) (u : MatRun) (st : List (Nat × Nat × L128)) (bad : List Nat) (tidx : Nat) : Fx :=
  Fx.look fun s =>
    let v := s.asIssued c o
    let reads := Fx.each (epiSlots v c o (unrank ((v.ctx c).desc (recOut o.record)).grid tidx)) (fun q => touchRange (localKey q.1) q.2)
    let x := v.ctx c
    let out := x.desc (recOut o.record)
    let j := unrank out.grid tidx
    let ws := stagedOf st tidx
    if (s.op? c o.seq).any (fun o => o.status ≠ 0#16) || out.offGrid j then Fx.skip
    else match readEpiTile v c { o with fields := [f] } j with
    | .error e => reads.andThen (matFail c o (e.atUnit f 2))
    | .ok epi =>
    let p := { wordsPiece x { o with fields := [f] } out epi u.anchor j (fun y =>
      ((ws.find? (fun w => w.1 == out.pos y)).map Prod.snd).getD L128.zero) with faults := bad }
    Fx.all [
      reads,
      landPiece c o.seq p,
      Fx.when (p.stats.isNone && p.flags == 8) (onMat c o.seq (fun u => { u with poisoned := true })),
      onComparisons c o (fun k => if k.tile == tidx then { k with sums := ws } else k),
      Fx.when (out.anyIn (epiPoison (recEpilogue o.record) epi) j) (matFail c o (Stop.plain stPoisoned))]

/-- Draining rows whose tiles have all left return to FREE (R149). -/
def freeDrained (c : Nat) (seq : U32) : Fx :=
  Fx.look fun s =>
    match s.op? c seq with
    | none => Fx.skip
    | some o => match o.mat with
      | none => Fx.skip
      | some u =>
        let x := (s.ctx c).asIssued o
        let g := geoOf x o.record
        let left := u.staged.map Prod.fst
        let busy := fun (i : Nat) (r : TileRow) =>
          (drainWords g (u.share i) r []).any (fun e => left.contains (g.out.tidx (g.out.tileOf e.1)))
        Fx.each (o.fields.zip (List.range o.fields.length)) (fun q => onRows q.1 (fun l => l.map (fun r =>
          if r.serves c seq && r.state = .draining && !busy q.2 r then TileRow.reset else r)))

/-- The positions of the `q`-th tile that a drain of `n` words makes whole, at which a check of its accumulate-write fails: the sites behind
those of the words (R511; log 88). -/
def drainAccFaults (residue : List FaultSite) (n q : Nat) : List Nat :=
  (residue.filter (fun z => z.engine == 2 && decide (n ≤ z.element) && (z.element - n) / 1024 == q)).map (fun z => (z.element - n) % 1024)

/-- A tile row drains: its words are staged, and every tile that becomes whole is written. -/
def drainRow (f t c : Nat) (o : Op) (u : MatRun) (i : Nat) (r : TileRow) (residue : List FaultSite) : Fx :=
  Fx.look fun s =>
    let v := s.asIssued c o
    let g := geoOf (v.ctx c) o.record
    let es := drainWords g (u.share i) r residue
    let st := u.staged ++ es.map (fun e => (g.out.tidx (g.out.tileOf e.1), g.out.pos e.1, e.2.1))
    let touched := sortBy (fun a b => decide (a ≤ b)) (es.map (fun e => g.out.tidx (g.out.tileOf e.1))).eraseDups
    let whole := touched.filter (fun j => decide ((g.out.elems (unrank g.out.grid j)).length ≤ (stagedOf st j).length))
    let bad := es.filterMap (fun e => e.2.2)
    let engine := fun (rw : Nat × Nat) =>
      match residue.find? (fun z => z.element == rw.1 * (min (r.n0 + 512) (u.share i).nHi - r.n0) + rw.2) with
      | some z => max 1 z.engine
      | none => 1
    Fx.all [
      raiseEvs c o.seq (bad.map (fun rw => residueEvent f ⟨0, engine rw, 0⟩ t rw.1 rw.2)),
      onRows f (fun l => l.modify t (fun r => { r with state := .draining })),
      progress f 2,
      Fx.each (whole.zip (List.range whole.length)) (fun q => emitTile f c o u st (drainAccFaults residue es.length q.2) q.1),
      onMat c o.seq (fun u => { u with staged := st.filter (fun e => !whole.contains e.1) }),
      freeDrained c o.seq,
      if recK o.record = 0 then placeZero c o.seq else matEnd c o.seq]

/-- What the slots of a tile row's tiles meet: an output tile or an epilogue tile waits for a set that is coming on, and memory of an
epilogue tile that serves no access ends the operation (R364, R377). -/
def drainAccess (s : State) (c : Nat) (o : Op) (u : MatRun) (i : Nat) (r : TileRow) : Access :=
  let v := s.asIssued c o
  let g := geoOf (v.ctx c) o.record
  let f := o.fields.getD i 0
  ((drainWords g (u.share i) r []).map (fun e => g.out.tileOf e.1)).eraseDups.foldl (fun (a : Access) j =>
    a.worse ((v.slotsAccess [f] (epiSlots v c o j)).worse
      (if s.slotAccess 0 [f] (g.out.slotAddr j) (slotBytes g.out.code) == .stall then .stall else .ok))) .ok

/-- DRAIN_START: a tile row waits for the rows of its block, those in the save area too (R149, R162). -/
def execDrainStart (field tileRow : Nat) (residue : List FaultSite) (s : State) : Host.Outcome State Fault Refusal :=
  (match s.matOn field with
   | none => Fx.skip
   | some (c, o, u, i) =>
     let r := (s.field field).tileRows.getD tileRow TileRow.reset
     let bs := matBlocks ((s.ctx c).asIssued o) o u i
     let away := ((s.ctx c).saved.filter (fun (k : SavedRow) => k.field == field && k.preempt)).map SavedRow.row
     Fx.when (r.serves c o.seq && r.ready o u i bs ((s.field field).tileRows ++ away)) (match drainAccess s c o u i r with
       | .stall => Fx.skip
       | .stop st => matFail c o (Stop.plain st)
       | .ok => drainRow field tileRow c o u i r residue)).outcome s

end Sys2Proof.Machine
end

