-- ==== Sys2Proof/Machine/Signature.lean ====
section
/-! DEFINITION. The digest and the signature of R571 (18): SHA-512 and ECDSA over the curve P-521, as their standards (FIPS 180-4,
FIPS 186-5) define them; the manual names them and gives the byte order of r and s. -/
namespace Sys2Proof.Machine

/-! ## SHA-512 -/

/-- Round constants. -/
def shaK : List U64 :=
    [0x428a2f98d728ae22#64, 0x7137449123ef65cd#64, 0xb5c0fbcfec4d3b2f#64, 0xe9b5dba58189dbbc#64]
    ++ [0x3956c25bf348b538#64, 0x59f111f1b605d019#64, 0x923f82a4af194f9b#64, 0xab1c5ed5da6d8118#64]
    ++ [0xd807aa98a3030242#64, 0x12835b0145706fbe#64, 0x243185be4ee4b28c#64, 0x550c7dc3d5ffb4e2#64]
    ++ [0x72be5d74f27b896f#64, 0x80deb1fe3b1696b1#64, 0x9bdc06a725c71235#64, 0xc19bf174cf692694#64]
    ++ [0xe49b69c19ef14ad2#64, 0xefbe4786384f25e3#64, 0x0fc19dc68b8cd5b5#64, 0x240ca1cc77ac9c65#64]
    ++ [0x2de92c6f592b0275#64, 0x4a7484aa6ea6e483#64, 0x5cb0a9dcbd41fbd4#64, 0x76f988da831153b5#64]
    ++ [0x983e5152ee66dfab#64, 0xa831c66d2db43210#64, 0xb00327c898fb213f#64, 0xbf597fc7beef0ee4#64]
    ++ [0xc6e00bf33da88fc2#64, 0xd5a79147930aa725#64, 0x06ca6351e003826f#64, 0x142929670a0e6e70#64]
    ++ [0x27b70a8546d22ffc#64, 0x2e1b21385c26c926#64, 0x4d2c6dfc5ac42aed#64, 0x53380d139d95b3df#64]
    ++ [0x650a73548baf63de#64, 0x766a0abb3c77b2a8#64, 0x81c2c92e47edaee6#64, 0x92722c851482353b#64]
    ++ [0xa2bfe8a14cf10364#64, 0xa81a664bbc423001#64, 0xc24b8b70d0f89791#64, 0xc76c51a30654be30#64]
    ++ [0xd192e819d6ef5218#64, 0xd69906245565a910#64, 0xf40e35855771202a#64, 0x106aa07032bbd1b8#64]
    ++ [0x19a4c116b8d2d0c8#64, 0x1e376c085141ab53#64, 0x2748774cdf8eeb99#64, 0x34b0bcb5e19b48a8#64]
    ++ [0x391c0cb3c5c95a63#64, 0x4ed8aa4ae3418acb#64, 0x5b9cca4f7763e373#64, 0x682e6ff3d6b2b8a3#64]
    ++ [0x748f82ee5defb2fc#64, 0x78a5636f43172f60#64, 0x84c87814a1f0ab72#64, 0x8cc702081a6439ec#64]
    ++ [0x90befffa23631e28#64, 0xa4506cebde82bde9#64, 0xbef9a3f7b2c67915#64, 0xc67178f2e372532b#64]
    ++ [0xca273eceea26619c#64, 0xd186b8c721c0c207#64, 0xeada7dd6cde0eb1e#64, 0xf57d4f7fee6ed178#64]
    ++ [0x06f067aa72176fba#64, 0x0a637dc5a2c898a6#64, 0x113f9804bef90dae#64, 0x1b710b35131c471b#64]
    ++ [0x28db77f523047d84#64, 0x32caab7b40c72493#64, 0x3c9ebe0a15c9bebc#64, 0x431d67c49c100d4c#64]
    ++ [0x4cc5d4becb3e42b6#64, 0x597f299cfc657e2a#64, 0x5fcb6fab3ad6faec#64, 0x6c44198c4a475817#64]

/-- Initial hash value. -/
def shaH : List U64 :=
    [0x6a09e667f3bcc908#64, 0xbb67ae8584caa73b#64, 0x3c6ef372fe94f82b#64, 0xa54ff53a5f1d36f1#64]
    ++ [0x510e527fade682d1#64, 0x9b05688c2b3e6c1f#64, 0x1f83d9abfb41bd6b#64, 0x5be0cd19137e2179#64]

/-- The next word of a message schedule whose words stand last first. -/
def shaNext (w : List U64) : U64 :=
  let at' := fun i => w.getD i 0#64
  let a := at' 1
  let b := at' 14
  (a.rotateRight 19 ^^^ a.rotateRight 61 ^^^ (a >>> 6)) + at' 6 + (b.rotateRight 1 ^^^ b.rotateRight 8 ^^^ (b >>> 7)) + at' 15

/-- A message schedule extended by `n` words, last first. -/
def shaExtend : Nat → List U64 → List U64
  | 0, w => w
  | n + 1, w => shaExtend n (shaNext w :: w)

/-- The working variables. -/
structure ShaVars where
  a : U64
  b : U64
  c : U64
  d : U64
  e : U64
  f : U64
  g : U64
  h : U64
  deriving DecidableEq, Repr

/-- One round with its constant and schedule word. -/
def shaRound (v : ShaVars) (k : U64 × U64) : ShaVars :=
  let t1 := v.h + (v.e.rotateRight 14 ^^^ v.e.rotateRight 18 ^^^ v.e.rotateRight 41) + ((v.e &&& v.f) ^^^ (~~~v.e &&& v.g)) + k.1 + k.2
  let t2 := (v.a.rotateRight 28 ^^^ v.a.rotateRight 34 ^^^ v.a.rotateRight 39) + ((v.a &&& v.b) ^^^ (v.a &&& v.c) ^^^ (v.b &&& v.c))
  { a := t1 + t2, b := v.a, c := v.b, d := v.c, e := v.d + t1, f := v.e, g := v.f, h := v.g }

/-- The unsigned integer of a byte string, most significant byte first. -/
def beNat (bs : List Byte) : Nat := bs.foldl (fun a b => 256 * a + b.toNat) 0

/-- The hash value after a block of 128 bytes. -/
def shaBlock (h : List U64) (block : List Byte) : List U64 :=
  let first := (List.range 16).map (fun i => BitVec.ofNat 64 (beNat (bytesAt block (8 * i) 8)))
  let at' := fun i => h.getD i 0#64
  let v := (shaK.zip (shaExtend 64 first.reverse).reverse).foldl shaRound
    { a := at' 0, b := at' 1, c := at' 2, d := at' 3, e := at' 4, f := at' 5, g := at' 6, h := at' 7 }
  (h.zip [v.a, v.b, v.c, v.d, v.e, v.f, v.g, v.h]).map (fun p => p.1 + p.2)

/-- The bytes of an integer, most significant byte first. -/
def beBytes (n v : Nat) : List Byte := (leBytes n v).reverse

/-- A message with its padding: a one bit, zeros, the length in bits in 16 bytes. -/
def shaPad (m : List Byte) : List Byte :=
  m ++ [0x80#8] ++ List.replicate ((111 + 128 - m.length % 128) % 128) 0#8 ++ beBytes 16 (8 * m.length)

/-- The hash value after `n` blocks of a padded message. -/
def shaBlocks : Nat → List U64 → List Byte → List U64
  | 0, h, _ => h
  | n + 1, h, bs => shaBlocks n (shaBlock h (bs.take 128)) (bs.drop 128)

/-- SHA-512 of a byte string: 64 bytes. -/
def sha512 (m : List Byte) : List Byte :=
  let padded := shaPad m
  ((shaBlocks (padded.length / 128) shaH padded).map (fun w => beBytes 8 w.toNat)).flatten

/-! ## ECDSA over P-521 -/

/-- The prime of the field. -/
def p521 : Nat := 2 ^ 521 - 1

/-- The coefficient b of the curve y² = x³ − 3x + b. -/
def p521B : Nat :=
  0x0051953eb9618e1c9a1f929a21a0b68540eea2da725b99b315f3b8b489918ef109e156193951ec7e937b1652c0bd3bb1bf073573df883d2c34f1ef451fd46b503f00

/-- The order of the base point. -/
def p521N : Nat :=
  0x01fffffffffffffffffffffffffffffffffffffffffffffffffffffffffffffffffa51868783bf2f966b7fcc0148f709a5d03bb5c9b8899c47aebb6fb71e91386409

/-- A point of the curve; none is the point at infinity. -/
abbrev CurvePoint := Option (Nat × Nat)

/-- The base point. -/
def p521G : CurvePoint := some
  (0x00c6858e06b70404e9cd9e3ecb662395b4429c648139053fb521f828af606b4d3dbaa14b5e77efe75928fe1dc127a2ffa8de3348b3c1856a429bf97e7e31c2e5bd66,
   0x011839296a789a3bc0045c8a5fb42c7d1bd998f54449579b446817afbd17273e662c97ee72995ef42640c550b9013fad0761353c7086a272c24088be94769fd16650)

/-- A power modulo m, over the `n` low bits of the exponent. -/
def powMod (m : Nat) : Nat → Nat → Nat → Nat
  | 0, _, _ => 1
  | n + 1, b, e =>
    let r := powMod m n (b * b % m) (e / 2)
    if e % 2 = 1 then b * r % m else r

/-- The inverse modulo a prime of at most 521 bits. -/
def invMod (m a : Nat) : Nat := powMod m 521 a (m - 2)

/-- The difference modulo the field's prime. -/
def subP (a b : Nat) : Nat := (a + p521 - b % p521) % p521

/-- The sum of two points. -/
def addPoints (p q : CurvePoint) : CurvePoint :=
  match p, q with
  | none, q => q
  | p, none => p
  | some (x, y), some (u, v) =>
    if x = u && (y + v) % p521 = 0 then none
    else
      let l := if x = u then subP (3 * x * x) 3 * invMod p521 (2 * y % p521) % p521 else subP v y * invMod p521 (subP u x) % p521
      let w := subP (l * l % p521) (x + u)
      some (w, subP (l * subP x w % p521) y)

/-- A multiple of a point, over the `n` low bits of the factor. -/
def mulPoint : Nat → Nat → CurvePoint → CurvePoint
  | 0, _, _ => none
  | n + 1, k, p =>
    let r := mulPoint n (k / 2) (addPoints p p)
    if k % 2 = 1 then addPoints p r else r

/-- A pair (x, y) lies on the curve. -/
def onCurve (x y : Nat) : Bool := decide (x < p521) && decide (y < p521) && y * y % p521 == subP (x * x * x % p521 + p521B) (3 * x)

/-- A public key verifies the signature (r, s) of a digest. -/
def ecdsaVerifies (key : Nat × Nat) (digest : List Byte) (r s : Nat) : Bool :=
  let w := invMod p521N s
  let sum := addPoints (mulPoint 521 (beNat digest * w % p521N) p521G) (mulPoint 521 (r * w % p521N) (some key))
  onCurve key.1 key.2 && decide (0 < r) && decide (r < p521N) && decide (0 < s) && decide (s < p521N)
    && (match sum with
        | some (x, _) => x % p521N == r
        | none => false)

/-- r of a signature: bytes 0 to 65, little-endian (R571). -/
def sigR (sig : List Byte) : Nat := leNat (bytesAt sig 0 66)

/-- s of a signature: bytes 66 to 131, little-endian (R571). -/
def sigS (sig : List Byte) : Nat := leNat (bytesAt sig 66 66)

/-- The 132 bytes of a signature (R571). -/
def sigBytes (rs : Nat × Nat) : List Byte := leBytes 66 rs.1 ++ leBytes 66 rs.2

end Sys2Proof.Machine
end

