-- ==== Sys2Proof/Machine/Registers.lean ====
section
/-! DEFINITION. The registers of the control space by selector (17 R546): what each reads as and what a write does. -/
namespace Sys2Proof.Machine

/-! ## Contents -/

/-- Codes of the context states (R465). -/
def CtxState.code : CtxState → Nat
  | .free => 0 | .active => 1 | .stopped => 2 | .teardown => 3 | .quarantine => 4

/-- CTX_STATE (R465). -/
def Ctx.stateWord (x : Ctx) : Nat :=
  x.state.code + 16 * x.gen.toNat + 2 ^ 16 * x.priority.toNat + 2 ^ 24 * x.fieldGroup.toNat + 2 ^ 32 * x.job.toNat
    + 2 ^ 48 * x.stopStatus.toNat

/-- FIELD_STATE (R489). -/
def Field.stateWord (f : Field) : Nat := f.state + 256 * f.resets + 2 ^ 16 * f.hung.toNat

/-- FAULT_COUNTS (R531). -/
def Field.faultWord (f : Field) : Nat := f.arith + 2 ^ 16 * f.sealFails + 2 ^ 32 * f.parity + 2 ^ 48 * f.poisonedOps

/-- BASIN_OCC (R164). -/
def Field.basinWord (f : Field) : Nat :=
  let n := fun (st : TileState) => f.tileRows.countP (fun r => r.state = st)
  n .free + 2 ^ 9 * n .open + 2 ^ 18 * n .draining + 2 ^ 27 * n .held + 2 ^ 36 * n .saving

/-- BED_REPAIR (R103). -/
def BedMap.word (b : BedMap) : Nat :=
  b.rowA + 2 ^ 8 * b.rowB + 2 ^ 16 * b.colA + 2 ^ 24 * b.colB + 2 ^ 32 * b2n b.unrepairable + 2 ^ 33 * b2n b.fromTable

/-- MOV_OCC (R491). -/
def Mover.word (m : Mover) : Nat :=
  (64 - m.queued.length - m.executing.length) + 2 ^ 8 * m.queued.length + 2 ^ 16 * m.executing.length

/-- Codes of the steady set states (R366). -/
def SetState.code : SetState → Nat
  | .on => 0 | .retention => 1 | .off => 2

/-- RES_SET (R366). -/
def SetPower.word (p : SetPower) : Nat :=
  (match p.target with
   | some t => 3 + 4 * t.code
   | none => p.state.code)
    + 16 * b2n p.waiting.isSome + 32 * b2n p.withdrawn + 64 * b2n p.contentsLost

/-- RES_SPARE_GROUP (R359). -/
def SpareGroup.word (g : SpareGroup) : Nat :=
  g.spare0.toNat + 2 ^ 6 * b2n g.used0 + 2 ^ 8 * g.spare1.toNat + 2 ^ 14 * b2n g.used1 + 2 ^ 15 * b2n g.fromTable
    + 2 ^ 16 * b2n g.unrepairable

/-- RES_BANK_STAT (R367). -/
def BankStat.word (b : BankStat) : Nat := b.collisions + 2 ^ 16 * b.corrected + 2 ^ 32 * b.uncorrected

/-- HBM_STACK (R377). -/
def Stack.word (k : Stack) : Nat :=
  let pc := fun (o : Option (BitVec 6)) => (o.map BitVec.toNat).getD 0 + 64 * b2n o.isSome
  k.state + 2 ^ 8 * pc k.retiredA + 2 ^ 16 * pc k.retiredB + 2 ^ 32 * k.corrected + 2 ^ 48 * k.uncorrected

/-- LNK_PARTNER (R392). -/
def Link.partnerWord (l : Link) : Nat :=
  l.expectNode.toNat + 2 ^ 16 * (l.expectLink % 32) + 2 ^ 21 * b2n l.expectBlank + 2 ^ 24 * l.seenNode.toNat
    + 2 ^ 40 * (l.seenLink % 32)

/-- LNK_COUNTS (R393). -/
def Link.countsWord (l : Link) : Nat := l.replays + 2 ^ 16 * l.crcFail + 2 ^ 32 * l.fecUncorr + 2 ^ 48 * l.substitutions

/-- SLU_STATUS (R458). -/
def Link.sluiceWord (l : Link) : Nat :=
  (64 - l.entries.countP (fun e => e.2.state ≠ 0)) + 2 ^ 8 * l.reserveFree + 2 ^ 32 * l.escalations + 2 ^ 48 * l.badVerdicts

/-- EVT_RING (R555). -/
def Ring.indexWord (r : Ring) : Nat := r.producer.toNat + 2 ^ 32 * r.consumer.toNat

/-- EVT_RING_STAT (R558). -/
def Ring.statWord (r : Ring) : Nat := b2n r.armed + 2 * min 64 r.held + 2 ^ 8 * r.dropped + 2 ^ 24 * r.badDoorbells

/-- EVC_SRC (R563). -/
def EvcSrc.word (e : EvcSrc) : Nat := b2n e.enable + 2 * b2n e.fast + 4 * e.state

/-! ## Selectors -/

/-- Instances of each register code (R546); 0 for a code outside the table. -/
def regInstances (code : Nat) : Nat :=
  [0, 1, 1, 16, 8, 8, 8, 8, 8, 8, 8, 8, 8, 256, 64, 120, 240, 15360, 16, 32, 32, 32, 32, 17, 17, 960].getD code 0

/-- A selector names a register instance (R546). -/
def selectorOk (sel : Nat) : Bool := sel % 8 = 0 && decide (sel % 2 ^ 20 / 8 < regInstances (sel / 2 ^ 20))

/-- The field or link unit behind an instance is absent from the grade (R546). -/
def regAbsent (g : Grade) (code i : Nat) : Bool :=
  let beyond := fun (f : Nat) => decide (Grade.fields g ≤ f)
  if 4 ≤ code && code ≤ 0x0C then beyond i
  else match code with
    | 0x0D => beyond (i / 32)
    | 0x0E => beyond (i / 8)
    | 0x0F => beyond (i / 15)
    | 0x10 => beyond (i / 30)
    | 0x11 => beyond (i / 1920)
    | 0x12 => beyond (i / 2)
    | 0x13 | 0x14 | 0x15 | 0x16 => beyond (i / 4)
    | 0x19 => if i < 512 then decide (i < 448) && beyond (i / 56) else beyond ((i - 512) / 56)
    | _ => false

/-- What a register of a present unit reads as. -/
def State.regWord (s : State) (code i : Nat) : Nat :=
  match code with
  | 0x01 => s.own
  | 0x02 => s.service
  | 0x03 => (s.ctx i).stateWord
  | 0x04 => (s.field i).stateWord
  | 0x05 => (s.field i).hangLimit.toNat
  | 0x06 => (s.field i).faultWord
  | 0x07 => (s.field i).passes.toNat + 2 ^ 32 * (s.field i).stalls.toNat
  | 0x08 => (s.field i).basinWord
  | 0x09 => (s.field i).savedCount.toNat + 2 ^ 32 * (s.field i).restoredCount.toNat
  | 0x0A => (s.field i).tilesRead.toNat + 2 ^ 32 * (s.field i).tilesWritten.toNat
  | 0x0B => (s.field i).requant.toNat + 2 ^ 32 * (s.field i).badIndex
  | 0x0C => (16384 - 256 * (s.field i).poolGranted) + 2 ^ 15 * (s.field i).poolGranted
  | 0x0D => (tableGet (s.field (i / 32)).beds (i % 32) BedMap.reset).word
  | 0x0E => ((s.field (i / 8)).movers.getD (i % 8) { queued := [], executing := [] }).word
  | 0x0F => ((s.field (i / 15)).sets.getD (i % 15) SetPower.reset).word
  | 0x10 => (tableGet (s.field (i / 30)).groups (i % 30) SpareGroup.reset).word
  | 0x11 => (tableGet (s.field (i / 1920)).banks (i % 1920) BankStat.reset).word
  | 0x12 => (s.stack i).word
  | 0x13 => (s.link i).status
  | 0x14 => (s.link i).partnerWord
  | 0x15 => (s.link i).countsWord
  | 0x16 => (s.link i).sluiceWord
  | 0x17 => (s.ring i).indexWord
  | 0x18 => (s.ring i).statWord
  | _ => (tableGet s.evc i EvcSrc.reset).word

/-- What a selector reads as (R546). -/
def State.readReg (s : State) (sel : Nat) : Nat :=
  let code := sel / 2 ^ 20
  let i := sel % 2 ^ 20 / 8
  if regAbsent s.grade code i then (if code = 4 then 5 else 0) else s.regWord code i

/-! ## Writes -/

/-- A write-1-to-clear count: any 1 in its bits clears it. -/
def clear1 (v lo len old : Nat) : Nat := if bitsOf v lo len = 0 then old else 0

/-- A write to EVC_SRC: enable, fast, and the completion of a service (R562, R563). -/
def EvcSrc.write (v : Nat) (e : EvcSrc) : EvcSrc :=
  let e := { e with enable := bitOf v 0, fast := bitOf v 1 }
  if bitOf v 4 then e.complete else e

/-- A write to a register of a present unit, by the access codes of its fields. -/
def writeRegAt (code i v : Nat) : Fx :=
  match code with
  | 0x04 => Fx.field i (fun f => { f with resets := clear1 v 8 8 f.resets, hung := f.hung &&& ~~~(BitVec.ofNat 20 (v / 2 ^ 16)) })
  | 0x05 => Fx.field i (fun f => { f with hangLimit := BitVec.ofNat 32 v })
  | 0x06 => Fx.field i (fun f => { f with arith := clear1 v 0 16 f.arith, sealFails := clear1 v 16 16 f.sealFails
                                          parity := clear1 v 32 16 f.parity, poisonedOps := clear1 v 48 16 f.poisonedOps })
  | 0x0F => Fx.field (i / 15) (fun f =>
      { f with sets := f.sets.modify (i % 15) (fun p => { p with contentsLost := p.contentsLost && !bitOf v 6 }) })
  | 0x11 => Fx.field (i / 1920) (fun f =>
      let b := tableGet f.banks (i % 1920) BankStat.reset
      let c := { b with collisions := clear1 v 0 16 b.collisions, corrected := clear1 v 16 16 b.corrected
                        uncorrected := clear1 v 32 16 b.uncorrected }
      { f with banks := tablePut f.banks (i % 1920) c })
  | 0x12 => Fx.stack i (fun k => { k with corrected := clear1 v 32 16 k.corrected, uncorrected := clear1 v 48 16 k.uncorrected })
  | 0x14 => Fx.link i (fun l => { l with expectNode := BitVec.ofNat 16 v, expectLink := bitsOf v 16 5, expectBlank := bitOf v 21 })
  | 0x15 => Fx.link i (fun l => { l with replays := clear1 v 0 16 l.replays, crcFail := clear1 v 16 16 l.crcFail
                                         fecUncorr := clear1 v 32 16 l.fecUncorr, substitutions := clear1 v 48 8 l.substitutions })
  | 0x16 => Fx.link i (fun l => { l with escalations := clear1 v 32 16 l.escalations, badVerdicts := clear1 v 48 16 l.badVerdicts })
  | 0x18 => Fx.ring i (fun r => { r with dropped := clear1 v 8 16 r.dropped, badDoorbells := clear1 v 24 16 r.badDoorbells })
  | 0x19 => Fx.evc (fun l => tablePut l i ((tableGet l i EvcSrc.reset).write v))
  | _ => Fx.skip

/-- A write by selector (R546): instances of absent units ignore it. -/
def writeReg (sel v : Nat) : Fx :=
  Fx.look fun s => Fx.when (!regAbsent s.grade (sel / 2 ^ 20) (sel % 2 ^ 20 / 8)) (writeRegAt (sel / 2 ^ 20) (sel % 2 ^ 20 / 8) v)

end Sys2Proof.Machine
end

