-- ==== Sys2Proof/Machine/Supply.lean ====
section
/-! DEFINITION. Minimum power (19 R598), in-band interrupts (20 R615), the smallest working set (15 R500), loss of power
(11 R378). -/
namespace Sys2Proof.Machine

/-- A destination once the queue pairs of a condition have closed. -/
def Dest.without (cond : Nat → Bool) : Dest → Dest
  | .port qp => if cond qp then .closed else .port qp
  | d => d

/-- Queue pairs close: windows on them are unmapped, rings detached, and the replies still to come on them discarded (R619). -/
def closeQps (cond : Nat → Bool) : Fx :=
  Fx.all [
    Fx.port (fun p =>
      { p with qps := p.qps.filter (fun q => !cond q.num), reads := p.reads.filter (fun r => !cond r.qp)
               waits := p.waits.map (fun w => { w with dest := w.dest.without cond })
               delayed := p.delayed.map (fun d => { d with dest := d.dest.without cond }) }),
    Fx.hub (fun h => { h with windows := h.windows.map (fun w => w.filter (fun w => !cond w.qp)) }),
    Fx.each (List.range 17) (fun i => Fx.ring i (fun r => if cond r.qp then { r with attached := false } else r))]

/-- A 64-bit register as 8 bytes. -/
def word8 (v : Nat) : List Byte := leBytes 8 v

/-- An effect after which every field whose level changed raises THROTTLE (R597, R599). -/
def withThrottle (cause : Nat) (e : Fx) : Fx :=
  Fx.look fun s => e.andThen (Fx.look fun t =>
    Fx.each ((List.range (Grade.fields s.grade)).filter (fun f => s.level f != t.level f))
      (fun f => raise (56 * f + 29) 1 0x0701 none (2 ^ f) (levelMhz (t.level f)) cause))

/-- The module enters minimum power for a cause (R598): 2 to 5 of R601, 8 and 9 rails of R590, 10 the working set. -/
def addMin (cause : Nat) : Fx :=
  withThrottle 7 (Fx.power (fun p => { p with minCauses := insertNat p.minCauses cause, minPower := true }))

/-- A cause of minimum power ends; the module leaves minimum power 1 s later (R598). -/
def dropMin (cause : Nat) : Fx :=
  Fx.look fun s => Fx.when (s.power.minCauses.contains cause)
    (Fx.power (fun p => { p with minCauses := p.minCauses.erase cause, minSince := s.now }))

/-- A feed reaches the 40 V of R565 step 1. -/
def Power.atForty (p : Power) : Bool := p.feeds.any (fun f => f.qualified && decide (40000 ≤ f.mv))

/-- The smallest working set (R500): the root of trust works in every module that has left step 3 of bring-up (R565). A peer relays
commands through a link that is up where relay is enabled, or where the module has no node ID yet (R548). -/
def State.workingSet (s : State) : Bool :=
  decide (0 < s.hub.cores) && (s.port.up || (!s.upLinks.isEmpty && (s.hub.relayOn || s.hub.node == 0xFFFF#16)))
    && (List.range (Grade.fields s.grade)).any (fun f =>
      (s.field f).state ≤ 1 && decide (4 ≤ (s.field f).seqUse.length)
        && ((s.stack (2 * f)).state = 0 || (s.stack (2 * f + 1)).state = 0))
    && s.power.serving.isSome && !(s.power.minCauses.contains 3 && s.power.flow = 0)

/-- A module that serves, by its port or through a peer (R549), and loses its smallest working set tears down every context and holds
minimum power (R500). -/
def checkSet : Fx :=
  Fx.look fun s =>
    if !(s.hub.stage = 8 || s.hub.stage = 9) || s.hub.warm then Fx.skip
    else if s.workingSet then (Fx.hub (fun h => { h with served := true })).andThen (dropMin 10)
    else Fx.when s.hub.served (Fx.all [
      Fx.hub (fun h => { h with served := false }), Fx.each (List.range 16) (fun c => tearCtx c stAborted), addMin 10])

/-- The hub after loss of power: the non-volatile store and the fuses stay. -/
def Hub.unpowered (h : Hub) : Hub :=
  { Hub.reset with
    banks := h.banks, activeBank := h.activeBank, stepping := h.stepping, optionFuses := h.optionFuses, revoked := h.revoked
    debugLocked := h.debugLocked, romRev := h.romRev, bedFuses := h.bedFuses, groupFuses := h.groupFuses
    faultyBanks := h.faultyBanks, bedFaults := h.bedFaults, repair := h.repair }

/-- A stack after loss of power: its retirement map is in the repair store (R376). -/
def Stack.unpowered (k : Stack) : Stack := { Stack.reset with retiredA := k.retiredA, retiredB := k.retiredB }

/-- Causes of minimum power that outlast a loss of power: rails 8 and 9 below N (R590), a wet leak sensor (R601). -/
def Power.standing (p : Power) : List Nat :=
  (if p.leakWet then [5] else []) ++ [8, 9].filter (fun r => decide (p.phases.getD r 0 < railN r))

/-- Loss of power (R378): memories and every volatile register are lost. The sideband, the feeds and what is non-volatile
stay: a rail short of its minimum and a wet leak sensor hold minimum power still (R590, R601). -/
def losePower : Fx :=
  Fx.all [
    Fx.memPoison 0 (2 ^ 64),
    Fx.hub Hub.unpowered,
    Fx.port (fun p => { Port.reset with pluggableHeld := p.pluggableHeld }),
    Fx.each (List.range 16) (fun c => Fx.ctx c (fun _ => Ctx.reset)),
    Fx.each (List.range 8) (fun f => Fx.field f (fun _ => Field.reset)),
    Fx.each (List.range 16) (fun k => Fx.stack k Stack.unpowered),
    Fx.each (List.range 32) (fun i => Fx.link i (fun _ => Link.reset)),
    Fx.each (List.range 17) (fun r => Fx.ring r (fun _ => Ring.reset)),
    Fx.evc (fun _ => []), Fx.ditch (fun _ => { partials := [], lent := [] }),
    Fx.look fun s => Fx.power (fun p =>
      { Power.reset with feeds := p.feeds, serving := p.serving, phases := p.phases, leak := p.leak, leakWet := p.leakWet, down := p.down
                         hostCap := Grade.capMax s.grade, minCauses := p.standing, minPower := !p.standing.isEmpty })]

end Sys2Proof.Machine
end

