-- ==== Sys2Proof/Machine/HostPort.lean ====
section
/-! DEFINITION. Host commands: parsing, the checks of 17 R539 in their order, commands that wait (R540), and relay through a
peer (R547, R548). -/
namespace Sys2Proof
open Sys2Proof.Machine

/-! ## Header fields of a message (R537) -/

/-- Opcode of a message. -/
def HostMsg.op (m : HostMsg) : Nat := field m.bytes 2 2

/-- Context byte of a message. -/
def HostMsg.ctx (m : HostMsg) : Nat := field m.bytes 4 1

/-- Node that is to execute a message's command (R537). -/
def HostMsg.relayNode (m : HostMsg) : Nat := field m.bytes 12 2

/-- The byte of a kind of traffic (a row of R516) whose parity fails, if one does. -/
def HostMsg.fault? (m : HostMsg) (traffic : Nat) : Option ParityFault := m.parity.filter (fun z => z.traffic == traffic)

/-- Header fields that R13 wants zero: byte 5, bytes 14 to 63, and the flags but for `relayed` of a relayed command. -/
def HostMsg.reservedOk (m : HostMsg) (relayed : Bool) : Bool :=
  field m.bytes 1 1 = (if relayed then 1 else 0) && field m.bytes 5 1 = 0 && allZero (bytesAt m.bytes 14 50)

end Sys2Proof

namespace Sys2Proof.Machine

/-! ## A command (R537) -/

/-- A command as it is executed: opcode, context byte, tag, parameters, where its reply goes, the message itself. -/
structure Cmd where
  op : Nat
  ctx : Nat
  tag : Nat
  params : List Byte
  dest : Dest
  msg : HostMsg
  deriving DecidableEq, Repr

/-- The command of a message. -/
def Cmd.parse (dest : Dest) (m : HostMsg) : Cmd :=
  { op := field m.bytes 2 2, ctx := field m.bytes 4 1, tag := field m.bytes 8 4, params := m.bytes.drop 64, dest := dest, msg := m }

/-- A parameter field; bytes beyond `param_len` read as zero (R543; log 17). -/
def Cmd.p (k : Cmd) (off len : Nat) : Nat := field k.params off len

/-- Answer a command. -/
def Cmd.ans (k : Cmd) (status : Nat) (result : List Byte) : Fx := reply k.dest (field k.msg.bytes 1 1 % 2) k.tag k.op k.ctx status result

/-- A command's end without a result. -/
def Cmd.done (k : Cmd) (status : Nat) : Fx := k.ans status []

/-- The command waits for an end (R540). -/
def Cmd.waits (k : Cmd) (kind : WaitKind) : Fx :=
  Fx.port (fun p => { p with waits := p.waits ++
    [{ kind := kind, tag := BitVec.ofNat 32 k.tag, opcode := BitVec.ofNat 16 k.op, ctx := BitVec.ofNat 8 k.ctx, dest := k.dest
       key := 0#32, got := [], left := 0, parity := none }] })

/-! ## The command table (R543) -/

/-- How a command names a context. -/
inductive Slot where
  | none | must | may
  deriving DecidableEq, Repr

/-- A row of R543: context column, bytes of fixed parameters, reserved ranges, and the list of entries behind them as
(count offset, count size, least, most, entry size). -/
structure CmdInfo where
  slot : Slot
  size : Nat
  resv : List (Nat × Nat)
  list : Option (Nat × Nat × Nat × Nat × Nat)
  deriving DecidableEq, Repr

/-- The command table. -/
def cmdInfo (op : Nat) : Option CmdInfo :=
  let row := fun (slot : Slot) (size : Nat) (resv : List (Nat × Nat)) => some (⟨slot, size, resv, none⟩ : CmdInfo)
  let lst := fun (slot : Slot) (size : Nat) (resv : List (Nat × Nat)) (l : Nat × Nat × Nat × Nat × Nat) =>
    some (⟨slot, size, resv, some l⟩ : CmdInfo)
  match op with
  | 0x0100 | 0x0101 | 0x0802 => row .none 0 []
  | 0x0102 => row .none 32 [(1, 3), (12, 4)]
  | 0x0103 => row .none 4 [(1, 1)]
  | 0x0104 => row .none 12 []
  | 0x0105 => row .none 24 [(17, 7)]
  | 0x0200 => row .must 128 []
  | 0x0201 | 0x0206 => row .must 0 []
  | 0x0202 => row .must 1 []
  | 0x0203 => row .must 16 [(1, 7)]
  | 0x0204 => lst .must 8 [(4, 4)] (2, 2, 0, 253, 32)
  | 0x0205 | 0x0207 => row .must 4 []
  | 0x0208 => row .none 2 []
  | 0x0300 => lst .must 8 [(4, 4)] (2, 2, 0, 126, 64)
  | 0x0301 => lst .must 8 [(2, 6)] (0, 2, 1, 63, 128)
  | 0x0302 => row .must 16 [(4, 4)]
  | 0x0400 => row .none 3 []
  | 0x0500 => row .none 2 []
  | 0x0501 => lst .none 8 [(4, 4)] (2, 2, 0, 2030, 4)
  | 0x0502 | 0x0503 => row .none 4 []
  | 0x0504 => row .none 3 []
  | 0x0600 => row .none 16 [(3, 5)]
  | 0x0601 => row .none 1 []
  | 0x0602 => lst .none 8 [(2, 6)] (0, 2, 0, 1015, 8)
  | 0x0603 => row .none 4 []
  | 0x0604 => row .none 2 []
  | 0x0605 => row .none 24 [(4, 4)]
  | 0x0606 => row .may 48 [(9, 7), (36, 4)]
  | 0x0607 => row .none 16 [(2, 6)]
  | 0x0700 => row .none 32 []
  | 0x0701 => row .none 1 []
  | 0x0702 => row .none 24 [(1, 7)]
  | 0x0800 => lst .none 4 [(2, 2)] (0, 2, 1, 1016, 4)
  | 0x0801 => lst .none 8 [(2, 6)] (0, 2, 1, 676, 12)
  | _ => none

/-- The parameters obey their row's layout: reserved bytes zero, the entries' count in range and their bytes all there
(R13, R543). -/
def CmdInfo.paramsOk (i : CmdInfo) (k : Cmd) : Bool :=
  i.resv.all (fun r => k.p r.1 r.2 = 0) &&
    (match i.list with
     | none => allZero (k.params.drop i.size)
     | some (off, len, lo, hi, es) =>
       let n := k.p off len
       decide (lo ≤ n) && decide (n ≤ hi) && (k.params.drop i.size).length = n * es)

/-- Entry `i` of a command's list. -/
def Cmd.entry (k : Cmd) (i : CmdInfo) (n : Nat) : List Byte :=
  match i.list with
  | some (_, _, _, _, es) => bytesAt k.params (i.size + n * es) es
  | none => []

/-- The entries of a command's list. -/
def Cmd.entries (k : Cmd) : List (List Byte) :=
  match cmdInfo k.op with
  | some ⟨slot, size, resv, some (off, len, lo, hi, es)⟩ =>
    (List.range (k.p off len)).map (fun n => k.entry ⟨slot, size, resv, some (off, len, lo, hi, es)⟩ n)
  | _ => []

/-- The context byte obeys the context column. -/
def Slot.ok (t : Slot) (ctx : Nat) : Bool :=
  match t with
  | .none => ctx = 0xFF
  | .must => ctx < 16
  | .may => ctx < 16 || ctx = 0xFF

/-- What the state of the named slot answers at once (R541, R475). DEDUCED (log 121): CREATE on a slot in teardown or quarantine is
`SLOT_BUSY`, RESUME there `ABORTED`. -/
def slotStatus? (s : State) (op ctx : Nat) : Option Nat :=
  if 16 ≤ ctx || op = 0x0201 || op = 0x0206 then none
  else match (s.ctx ctx).state with
    | .teardown | .quarantine => some (if op = 0x0200 then stSlotBusy else stAborted)
    | .free => if op = 0x0200 then none else some stBadParam
    | _ => if op = 0x0200 then some stSlotBusy else none

/-- A command of this context waits for an end (R540); a relayed one does not hold others back. -/
def State.ctxWaits (s : State) (ctx : Nat) : Bool :=
  decide (ctx < 16) && s.port.waits.any (fun w => w.ctx.toNat == ctx && (match w.kind with
    | .relayed _ _ => false
    | _ => true))

/-- A command of this context waits for an end, or stands behind one that does (R540). -/
def State.blocked (s : State) (ctx : Nat) : Bool :=
  s.ctxWaits ctx || (decide (ctx < 16) && s.port.delayed.any (fun d => d.msg.ctx == ctx))

/-- Commands of the recovery mode (R575). -/
def recoveryServes : List Nat := [0x0100, 0x0102, 0x0701, 0x0700, 0x0702, 0x0101, 0x0802]

/-- Run a command that has passed the checks of its header, or hold it behind an earlier one of its context (R540). -/
def startCmd (run : Cmd → Fx) (k : Cmd) (info : CmdInfo) : Fx :=
  Fx.look fun s =>
    match slotStatus? s k.op k.ctx with
    | some st => k.done st
    | none =>
      if s.blocked k.ctx then
        Fx.port (fun p => { p with delayed := p.delayed ++ [{ opcode := BitVec.ofNat 16 k.op, dest := k.dest, msg := k.msg }] })
      else if info.paramsOk k then run k
      else k.done stBadParam

/-- A PARITY event of a command: the hub's, with the command's tag (R530). -/
def Cmd.parityFailed (k : Cmd) (z : ParityFault) : Fx := parityEvent 448 z.traffic z.offset k.tag none

/-- The status with which a message's header fails the checks of R539 that every command meets, in their order, if it fails one; in
recovery mode the commands that are not served fail with their signature (R575). -/
def State.headStatus? (s : State) (relayed : Bool) (m : HostMsg) : Option Nat :=
  if Machine.field m.bytes 0 1 ≠ 1 || 8192 < m.bytes.length || m.bytes.length ≠ 64 + Machine.field m.bytes 6 2 then some stBadParam
  else if (cmdInfo m.op).isNone then some stBadOpcode
  else if !m.reservedOk relayed then some stBadParam
  else if s.hub.stage = 15 && !recoveryServes.contains m.op then some stSignature
  else if 256 ≤ s.port.waits.length + s.port.delayed.length then some stBusy
  else none

/-! ## Relay (R547) -/

/-- A link that trained as a blank link and carries flits (R503, R566). -/
def Link.blank (l : Link) : Bool := l.blankTrained && (l.state == 2 || l.state == 5)

/-- The link on which a relay leaves: the blank link of a TAKEOVER that names the ID to adopt, else the route's, while it carries
flits. -/
def State.relayLink (s : State) (m : HostMsg) : Option Nat :=
  let node := m.relayNode
  let adopt := if m.op = 0x0607 then s.linkIds.find? (fun i => (s.link i).blank && (s.link i).expectNode.toNat == node) else none
  let routed := (s.routeFor node 0).filter (fun i => s.own != 0xFFFF && s.upLinks.contains i && s.reaches hubPort 1 i && !(s.link i).blank)
  (adopt.map some).getD routed

/-- Send a command on to the node that it names (R547). -/
def relayOut (dest : Dest) (m : HostMsg) : Fx :=
  Fx.look fun s =>
    let k := Cmd.parse dest m
    if 512 < m.bytes.length then k.done stBadParam
    else if 16 ≤ s.port.waits.countP (fun w => match w.kind with
        | .relayed _ _ => true
        | _ => false) then k.done stBusy
    else match s.relayLink m with
      | none => k.done stNoResource
      | some i => withTag (fun tag =>
          let bytes := patch m.bytes 1 [BitVec.ofNat 8 (field m.bytes 1 1 ||| 1)]
          let p := Packet.request 0x05 m.relayNode s.own 0 0 0 tag.toNat 0 0 (pad32 bytes)
          (Fx.port (fun q => { q with waits := q.waits ++
            [{ kind := .relayed (BitVec.ofNat 16 m.relayNode) i, tag := BitVec.ofNat 32 k.tag, opcode := BitVec.ofNat 16 k.op
               ctx := BitVec.ofNat 8 k.ctx, dest := dest, key := tag, got := [], left := 0, parity := none }] })).andThen
          (injectAt i hubPort p))

/-- The message names another node (R547). -/
def State.foreign (s : State) (m : HostMsg) : Bool :=
  decide (64 ≤ m.bytes.length) && m.relayNode != 0xFFFF && m.relayNode != s.own

/-- The checks of R539, in their order. A command of the port that names another node is sent on when those of its header hold (R547). -/
def checkCmd (run : Cmd → Fx) (relayed : Bool) (dest : Dest) (m : HostMsg) : Fx :=
  Fx.look fun s =>
    let k := Cmd.parse dest m
    if m.bytes.length < 64 then reply dest dest.relayed 0xFFFFFFFF 0 0xFF stBadParam []
    else match m.fault? 0, s.headStatus? relayed m, cmdInfo k.op with
      | some z, _, _ => (k.parityFailed z).andThen (k.done stPoisoned)
      | none, some st, _ => k.done st
      | none, none, none => k.done stBadOpcode
      | none, none, some info =>
        if !relayed && s.foreign m then relayOut dest m
        else if info.slot.ok k.ctx then startCmd run k info
        else k.done stBadParam

/-- The headgate takes SENDs of a connected queue pair from bring-up step 9 on, and in recovery mode (R565, R575). -/
def State.takesSends (s : State) (qp : Nat) : Bool :=
  (s.hub.stage = 9 || s.hub.stage = 15) && !s.outcast && s.port.up && s.port.qps.any (fun q => q.num == qp && q.connected)

/-- A SEND on a queue pair fills a receive buffer; one that finds none gets an RNR NAK (R533). DEDUCED (log 122): a command keeps its
buffer while it stands behind another of its context (R540). -/
def receive (qp : Nat) (fx : Fx) : Fx :=
  Fx.look fun s => Fx.when (s.takesSends qp)
    (if 16 ≤ s.port.delayed.countP (fun d => d.dest == .port qp) then Fx.emit (.rnrNak qp) else fx)

/-- A command message at the headgate. A row takes the messages that carry its opcode, and any message that fails before its
opcode is known; a message with another row's opcode is that row's. -/
def hostRow (op : Nat) (run : Cmd → Fx) (m : HostMsg) : Fx :=
  Fx.when (!(m.op != op && (cmdInfo m.op).isSome && decide (64 ≤ m.bytes.length)))
    (receive m.qp (checkCmd run false (.port m.qp) m))

end Sys2Proof.Machine
end

