-- ==== Sys2Proof/Machine/Lifecycle.lean ====
section
/-! DEFINITION. The shared operations of contexts, resets and bring-up: the end of a teardown (14 R468, R475), the field reset
(04 R104, 11 R358 to R360, 15 R495, 14 R484), firmware (18 R570 to R574), link training (12 R387), the module warm reset
(14 R490, 18 R567). -/
namespace Sys2Proof.Machine

/-! ## Teardown's end (R468, R475) -/

/-- A slot enters quarantine. -/
def Ctx.quarantined (now : Nat) (x : Ctx) : Ctx := { x with state := .quarantine, quarStart := now }

/-- The teardown event, with the generation that was torn down (R468, R552). -/
def teardownEvent (c : Nat) : Fx :=
  Fx.look fun s =>
    let x := s.ctx c
    raise 448 0 0x0301 (some (c, x.tearGen.toNat)) x.tearCause.toNat 0 x.tearSeq.toNat

/-- Commands that wait for teardowns, of which context `c` no longer runs one. -/
def teardownWaits (c : Nat) : Fx :=
  Fx.all [
    finishWaits (fun k => match k with
      | .destroy d => d == c
      | _ => false) stOk [],
    Fx.port (fun p => { p with waits := p.waits.map (fun w => match w.kind with
      | .jobAbort l => { w with kind := .jobAbort (l.filter (fun d => d != c)) }
      | _ => w) }),
    finishWaits (fun k => match k with
      | .jobAbort l => l.isEmpty
      | _ => false) stOk []]

/-- Teardown of a context completes (R468). -/
def endTeardown (c : Nat) : Fx :=
  Fx.look fun s => Fx.when ((s.ctx c).state = .teardown)
    (Fx.all [teardownEvent c, Fx.ctx c (Ctx.quarantined s.now), teardownWaits c])

/-- A slot after its quarantine: FREE, with its generation (R459, R475). -/
def Ctx.freed (x : Ctx) : Ctx := { Ctx.reset with gen := x.gen }

/-- Quarantine ends: the slot is FREE, and its mover descriptors are free (R473, R475). -/
def endQuarantine (c : Nat) : Fx :=
  Fx.all [
    Fx.ctx c Ctx.freed,
    Fx.each (List.range 8) (fun f => Fx.field f (fun g =>
      { g with movers := g.movers.map (fun m => { m with executing := m.executing.filter (fun e => e.1 != c) }) }))]

/-! ## Repair (R103, R104, R358 to R360, R495 to R497) -/

/-- The value of the repair entry of a kind, field and unit (R497). -/
def repairValue (table : List (List Byte)) (kind fld unit : Nat) : Option Nat :=
  (table.find? (fun e => field e 0 1 == kind && field e 1 1 == fld && field e 2 2 == unit)).map (fun e => field e 4 4)

/-- A bed map as loaded, with the ranges of R103; `faulty` says that the bed has more faulty rows or columns than spares. -/
def bedMapOf (v : Nat) (fromTable faulty : Bool) : BedMap :=
  let a := v % 256
  let b := bitsOf v 8 8
  let c := bitsOf v 16 8
  let d := bitsOf v 24 8
  { rowA := a, rowB := b, colA := c, colB := d, fromTable := fromTable
    unrepairable := faulty || !(decide (a ≤ 128) && decide (a < b) && decide (b ≤ 129) && decide (c ≤ 128) && decide (c < d)
      && decide (d ≤ 129)) }

/-- The hub knows the faulty rows and columns of beds, and the faulty banks, that a check found (R103, R358). -/
def Hub.sees (beds : List BedFault) (banks : List Nat) (h : Hub) : Hub :=
  { h with bedFaults := beds.foldl (fun l b => tablePut l b.bed (b.rows, b.cols)) h.bedFaults
           faultyBanks := banks.foldl insertNat h.faultyBanks }

/-- A bed has more faulty physical rows, or columns, than its two spares of each (R102, R103). -/
def Hub.bedFaulty (h : Hub) (f bed : Nat) : Bool :=
  match tableGet? h.bedFaults (32 * f + bed) with
  | some (rows, cols) => decide (2 < rows.length) || decide (2 < cols.length)
  | none => false

/-- The map a bed loads at a field reset (R104). -/
def Hub.bedMap (h : Hub) (f bed : Nat) : BedMap :=
  match repairValue h.repair 1 f bed with
  | some v => bedMapOf v true (h.bedFaulty f bed)
  | none => match tableGet? h.bedFuses (32 * f + bed) with
    | some v => bedMapOf v.toNat false (h.bedFaulty f bed)
    | none => { BedMap.reset with unrepairable := h.bedFaulty f bed }

/-- Physical rows or columns of a bed in use, in ascending order: all 130 but the two excluded (R102). -/
def inUse (a b : Nat) : List Nat := (List.range 130).filter (fun i => i != a && i != b)

/-- The physical row of an active row of a bed (R102). -/
def BedMap.rowAt (m : BedMap) (i : Nat) : Nat := (inUse m.rowA m.rowB).getD i 0

/-- The physical column of an active column of a bed (R102). -/
def BedMap.colAt (m : BedMap) (i : Nat) : Nat := (inUse m.colA m.colB).getD i 0

/-- The beds whose map differs from the one without repair. -/
def Hub.bedMaps (h : Hub) (f : Nat) : List (Nat × BedMap) :=
  ((List.range 32).map (fun b => (b, h.bedMap f b))).filter (fun e => e.2 != BedMap.reset)

/-- Spare assignments of a group as loaded from a value (R497). -/
def spareOf (v : Nat) (fromTable : Bool) : SpareGroup :=
  { spare0 := BitVec.ofNat 6 v, used0 := bitOf v 6, spare1 := BitVec.ofNat 6 (v / 256), used1 := bitOf v 14
    fromTable := fromTable && (bitOf v 6 || bitOf v 14), unrepairable := false }

/-- Faulty banks of a group, by number within the group. -/
def Hub.faulty (h : Hub) (f g : Nat) : List Nat :=
  (h.faultyBanks.filter (fun b => b / 64 == 30 * f + g)).map (fun b => b % 64)

/-- A spare stands in for bank `b` of the group. -/
def SpareGroup.covers (g : SpareGroup) (b : Nat) : Bool :=
  (g.used0 && g.spare0.toNat == b) || (g.used1 && g.spare1.toNat == b)

/-- The assignment a group loads at a field reset (R358, R359). -/
def Hub.spareGroup (h : Hub) (f g : Nat) : SpareGroup :=
  let e := match repairValue h.repair 2 f g with
    | some v => spareOf v true
    | none => match tableGet? h.groupFuses (30 * f + g) with
      | some v => spareOf v.toNat false
      | none => SpareGroup.reset
  { e with unrepairable := decide (2 < (h.faulty f g).length) }

/-- The groups whose register differs from its reset value. -/
def Hub.spareGroups (h : Hub) (f : Nat) : List (Nat × SpareGroup) :=
  ((List.range 30).map (fun g => (g, h.spareGroup f g))).filter (fun e => e.2 != SpareGroup.reset)

/-- Interleave sets that hold a faulty bank without a spare in an unrepairable group (R360). -/
def Hub.withdrawn (h : Hub) (f : Nat) : List Nat :=
  ((h.spareGroups f).filter (fun e => e.2.unrepairable)).foldl (fun l e =>
    ((h.faulty f e.1).filter (fun b => !e.2.covers b)).foldl (fun l b => insertNat l ((64 * e.1 + b) / 128)) l) []

/-- The sequencers a field uses: the first four that pass and are not marked faulty (R495). -/
def Hub.sequencers (h : Hub) (f : Nat) (pass : BitVec 5) : List Nat :=
  ((List.range 5).filter (fun i => pass.getLsbD i && !bitOf ((repairValue h.repair 3 f i).getD 0) 0)).take 4

/-- The headgate's cores (R496). -/
def Hub.coreCount (h : Hub) (pass : BitVec 5) : Nat :=
  (((List.range 5).filter (fun i => pass.getLsbD i && !bitOf ((repairValue h.repair 4 0xFF i).getD 0) 0)).take 4).length

/-! ## The field reset (R484) -/

/-- A field after a field reset: every engine in its initial state; the counters that count since the last field reset, the
reservoir and its counts start anew, the fault counts, hang limit, clock settings and hung bits stay (R378, R480, R489). -/
def Field.afterReset (h : Hub) (f : Nat) (pass : BitVec 5) (g : Field) : Field :=
  { Field.reset with
    state := 0, resets := g.resets, hung := g.hung, hangLimit := g.hangLimit, arith := g.arith
    sealFails := g.sealFails, parity := g.parity, poisonedOps := g.poisonedOps, beds := h.bedMaps f, groups := h.spareGroups f
    seqUse := h.sequencers f pass, poolGranted := g.poolGranted, hostStep := g.hostStep, capLevel := g.capLevel
    dieLevel := g.dieLevel, hbmLevel := g.hbmLevel, overCap := g.overCap
    sets := (List.range 15).map (fun i => { SetPower.reset with withdrawn := (h.withdrawn f).contains i }) }

/-- A stack after its field's reset: as it was where its field had failed, its counts cleared (R377, R378, R485). -/
def Stack.afterReset (k : Stack) : Stack :=
  { k with state := if k.state ≠ 3 then k.state else if k.failed then 2 else if k.retiring.isSome then 1 else 0
           corrected := 0, uncorrected := 0 }

/-- The transitions of a field's sets run to their end, and the commands that wait for them are answered (R363): at most two commands
of two transitions each, with the one in progress. -/
def endTransitions (f : Nat) : Fx := Fx.each (List.range 15) (fun i => Fx.each (List.range 6) (fun _ => endTransition f i))

/-- A field reset completes (R484, R105, R360, R495): it returns to service, or fails. -/
def finishFieldReset (f : Nat) (found : ResetCheck) : Fx :=
  (endTransitions f).andThen ((Fx.hub (Hub.sees found.beds found.banks)).andThen (Fx.look fun s =>
    let h := s.hub
    let lost := h.withdrawn f
    let bad := decide ((h.sequencers f found.seqPass).length < 4) || (h.bedMaps f).any (fun e => e.2.unrepairable)
    Fx.all [
      poisonField f,
      Fx.field f (Field.afterReset h f found.seqPass),
      Fx.each [2 * f, 2 * f + 1] (fun k => Fx.stack k Stack.afterReset),
      Fx.each ((List.range 4).map (fun i => 4 * f + i)) resetSluice,
      Fx.when (!lost.isEmpty) (raise (56 * f + 24) 2 0x0601 none f (lost.map (fun i => 2 ^ i)).sum 0),
      if bad then failField f
      else (fieldChange f).andThen (finishWaits (fun k => match k with
        | .fieldReset g => g == f
        | _ => false) stOk [])]))

/-! ## Firmware (R570 to R574, R579) -/

/-- The bank a kind loads: the active one, else the other; none where neither verifies (R573). -/
def Hub.loadBank (h : Hub) (kind : Nat) : Option Nat :=
  let act := b2n (h.activeBank.getLsbD kind)
  let ok := fun (b : Nat) => (h.banks.getD (2 * kind + b) Image.empty).valid
  if ok act then some act else if ok (1 - act) then some (1 - act) else none

/-- Load the firmware and form the numerics identity word (R565 step 4, R573, R579). -/
def Hub.loadImages (h : Hub) : Hub :=
  let kinds := List.range 3
  let pick := kinds.map h.loadBank
  let mask := fun (f : Nat → Bool) => BitVec.ofNat 3 ((kinds.filter f).map (fun k => 2 ^ k)).sum
  let bankOf := fun k => (pick.getD k none).getD 0
  let imgs := kinds.map (fun k => (pick.getD k none).map (fun b => h.banks.getD (2 * k + b) Image.empty))
  { h with
    noImage := mask (fun k => (pick.getD k none).isNone)
    fallback := mask (fun k => (pick.getD k none).isSome && bankOf k != b2n (h.activeBank.getLsbD k))
    bank := mask (fun k => bankOf k = 1)
    loaded := imgs
    numericsRev := (((imgs.getD 1 none).map Image.numericsRev)).getD 0#16
    tableRev := (((imgs.getD 2 none).map Image.tableRev)).getD 0#16 }

/-- The numerics identity word (R579). -/
def Hub.identity (h : Hub) : Nat :=
  h.optionFuses.toNat + 2 ^ 16 * h.numericsRev.toNat + 2 ^ 32 * h.tableRev.toNat + 2 ^ 48 * h.stepping.toNat

/-! ## Link training (R387) -/

/-- What a link has received and not passed on is gone, and its receive slots return. DESIGN CHOICE (log 132): training clears the credit
books of these packets (R387 step 8), so they are discarded as those queued for the link are (R390). -/
def dropReceived (i : Nat) : Fx :=
  Fx.look fun s =>
    let l := s.link i
    let jobs := (l.rx.map (fun q => q.2.job.toNat) ++ l.staged.map (fun b => b.job.toNat)).eraseDups.filter (fun j => j != 0)
    (Fx.each l.rx (fun q => takePacket i q.2)).andThen (Fx.each jobs (fun j => abortJob j stAborted))

/-- A link starts training: what it held is discarded (R390, R392). -/
def startTraining (i : Nat) : Fx := (dropReceived i).andThen (dropLink i 1)

/-- A link as training leaves it up: sequence numbers, credit books, arbitration pointers and reserve start anew (R387 step 8,
R445). Packets and blocks that wait to leave on it stay. -/
def Link.trained (l : Link) : Link :=
  { l with txSeq := 0#12, replay := [], rxExpect := 0#12, rxLast := none, nack := false, nacked := none
           vls := vlReserve.map Vl.reset, rx := [], rxPart := [], txPart := [], txFirst := 0xFF#8, nextVl := 1, nextIn := [0, 0, 0, 0]
           reserveFree := 327, staged := [], acc := [] }

/-- Clear the lanes of a link and give back the shared blocks that they hold (R387 step 8, R411). -/
def returnBlocks (i : Nat) : Fx :=
  Fx.look fun s =>
    let n := ((s.link i).vls.map Vl.granted).sum
    (Fx.link i (fun l => { l with vls := vlReserve.map Vl.reset })).andThen
      ((Fx.field (i / 4) (fun g => { g with poolGranted := g.poolGranted - n })).andThen
        (Fx.each (List.range n) (fun _ => grantBlock (i / 4))))

/-- The cause with which training refuses a link, 0 for none (R387). -/
def refuseCause (own : U16) (l : Link) (t : Training) : Nat :=
  let opened := ((List.range 9).filter (fun i => t.openLanes.getLsbD i)).length
  let blankSelf := own == 0xFFFF#16 && l.expectNode == 0xFFFF#16
  let nodeOk := t.seenNode == l.expectNode || (l.expectBlank && t.seenNode == 0xFFFF#16)
  if 1 < opened then 3
  else if 1 < t.order then 2
  else if !blankSelf && !(nodeOk && t.seenLink == l.expectLink) then 1
  else if 512 < t.roundTrip then 4
  else 0

/-- What training leaves in a link (R387, R391, R392): up or refused, with what the steps before a failing one found. DESIGN
CHOICE (log 106): a round trip that the ten bits of `round_trip` cannot hold reads as 1,023. -/
def Link.afterTraining (own : U16) (t : Training) (l : Link) : Link :=
  let cause := refuseCause own l t
  let lane := ((List.range 9).filter (fun i => t.openLanes.getLsbD i)).headD 8
  let l := { l with cause := cause, state := if cause = 0 then 2 else 3 }
  if cause = 3 then l
  else
    let l := { l with spareUsed := decide (lane < 8), spareFor := if lane < 8 then lane else 0 }
    if cause = 2 then l
    else
      let l := { l with reversed := t.order == 1, polarity := t.polarity, seenNode := t.seenNode, seenLink := t.seenLink,
                         blankTrained := l.expectBlank && t.seenNode == 0xFFFF#16 }
      if cause = 1 then l
      else
        let l := if own == 0xFFFF#16 && l.expectNode == 0xFFFF#16 then { l with expectNode := t.seenNode, expectLink := t.seenLink } else l
        let l := { l with roundTrip := min 1023 t.roundTrip }
        if cause = 4 then l else l.trained

/-- Mask of a set of links. -/
def linkMask (l : List Nat) : Nat := (l.map (fun i => 2 ^ i)).sum

/-- LINK_TRAIN commands whose links have all ended training reply with the links that are up. -/
def trainingWaits : Fx :=
  Fx.look fun s =>
    let busy := linkMask (s.linkIds.filter (fun i => (s.link i).state == 1))
    let ready := fun (k : WaitKind) => match k with
      | .linkTrain m => m.toNat &&& busy == 0
      | _ => false
    (Fx.port (fun p => { p with waits := p.waits.filter (fun w => !ready w.kind) })).andThen
      (Fx.each (s.port.waits.filter (fun w => ready w.kind)) (fun w => w.answer stOk
        (match w.kind with
         | .linkTrain m => leBytes 4 (m.toNat &&& linkMask s.upLinks)
         | _ => [])))

/-! ## The module warm reset (R490, R567) -/

/-- A field is fenced or resetting. -/
def State.fieldsBusy (s : State) : Bool := (List.range (Grade.fields s.grade)).any (fun f => (s.field f).state = 2 || (s.field f).state = 3)

/-- The links of a warm reset train once every field's reset has ended (R490 step 4). -/
def retrainLinks : Fx :=
  Fx.look fun s => Fx.when (s.hub.warm && s.hub.retrain && !s.fieldsBusy)
    ((Fx.hub (fun h => { h with retrain := false })).andThen (Fx.each s.linkIds startTraining))

/-- A warm reset goes on when no field is fenced or resetting, and ends when no link trains any more: every slot that was not FREE is in
quarantine from here (R490 step 5). -/
def checkWarm : Fx :=
  retrainLinks.andThen (Fx.look fun s =>
    let present := List.range (Grade.fields s.grade)
    let busy := s.fieldsBusy || s.hub.retrain || s.linkIds.any (fun i => (s.link i).state = 1)
    Fx.when (s.hub.warm && (!busy || s.hub.stage = 15)) (Fx.all [
      Fx.hub (fun h => { h with warm := false }),
      Fx.each (List.range 16) endTeardown,
      Fx.each ((List.range 16).filter (fun c => (s.ctx c).state != .free)) (fun c => Fx.ctx c (Ctx.quarantined s.now)),
      finishWaits (fun k => match k with
        | .warmReset => true
        | _ => false) (if present.all (fun f => (s.field f).state ≤ 1) then stOk else stDegraded) []]))

/-- A stack trains and is filled with poison (R565 step 6, R626); one that does not train fails by itself (R377). -/
def trainStack (k : Nat) : Fx :=
  (Fx.memPoison (memKey 0 (k * 2 ^ 36) / 8) (memKey 0 ((k + 1) * 2 ^ 36) / 8)).andThen (Fx.stack k (fun x => { x with trained := true }))

/-- Firmware banks whose image fails its check at this boot (R565 step 4). -/
def Hub.checked (bad : BitVec 6) (h : Hub) : Hub :=
  { h with banks := (h.banks.zip (List.range 6)).map (fun p => { p.1 with valid := p.1.valid && !bad.getLsbD p.2 }) }

/-- Steps 3 and 4 of bring-up in the hub: firmware and headgate cores (R496, R565, R567). -/
def Hub.booted (found : BootCheck) (h : Hub) : Hub :=
  { (h.checked found.bankBad).loadImages with corePass := found.corePass, cores := h.coreCount found.corePass }

/-- A module warm reset up to the point where fields reset (R490 steps 1 to 3, R567, R496, R626), with what its boot finds; one whose boot
ROM does not run holds in step 3. DESIGN CHOICE (log 127): recovery mode keeps the first four queue pairs of R575. -/
def startWarm (found : BootCheck) : Fx :=
  Fx.look fun s => Fx.all [
    Fx.each ((((List.range 16).filter (fun c => (s.ctx c).state != .free)).map (fun c => (s.ctx c).job.toNat)).eraseDups)
      (fun j => abortJob j stAborted),
    Fx.each (List.range 16) (fun c => tearCtx c stAborted),
    Fx.hub (fun h => { h with warm := true, retrain := true }),
    if !found.romOk then Fx.hub (fun h => { h with stage := 3 })
    else Fx.all [
      Fx.hub (Hub.booted found),
      Fx.look fun t =>
        if t.hub.noImage = 0#3 then Fx.all [
          Fx.when (decide (t.hub.cores < 4)) (raise 448 2 0x0801 none t.hub.cores 0 0),
          Fx.hub (fun h => { h with stage := if h.stage = 15 || h.stage = 3 then (if t.port.up then 9 else 8) else h.stage }),
          Fx.each ((List.range (Grade.hbmStacks s.grade)).filter (fun k => !(s.stack k).trained && (s.stack k).state = 0)) trainStack,
          Fx.each (List.range (Grade.fields s.grade)) fenceField]
        else Fx.all [
          Fx.hub (fun h => { h with stage := 15, retrain := false }),
          closeQps (fun n => !((t.port.qps.take 4).any (fun q => q.num == n))),
          Fx.each (List.range (Grade.fields s.grade)) fenceField],
      checkWarm]]

end Sys2Proof.Machine
end

