-- ==== Sys2Proof/Machine/HostModule.lean ====
section
/-! DEFINITION. Host commands on the module: identity, windows, power, rings, registers, fabric and memory (17 R543, R546; 12
R380, R412; 11 R363; 18 R577, R578; 19 R595). Each takes a command that has passed its checks. -/
namespace Sys2Proof.Machine

/-! ## Identity -/

/-- Code of a grade in MOD_INFO. -/
def Grade.code : Grade → Nat
  | .nx8h64 => 0 | .nx8h48 => 1 | .nx4h64 => 2

/-- ASCII of the identity string of a grade (R543), zero-padded to 32 bytes. -/
def identityString (g : Grade) : List Byte :=
  let name := match g with
    | .nx8h64 => "PLORDARUN NAXANE NX8-H64 ISVAN"
    | .nx8h48 => "PLORDARUN NAXANE NX8-H48 ISVAN"
    | .nx4h64 => "PLORDARUN NAXANE NX4-H64 ISVAN"
  padTo 32 (name.toList.map (fun c => BitVec.ofNat 8 c.toNat))

/-- The 128 bytes of MOD_INFO (R543, R575). -/
def State.modInfo (s : State) : List Byte :=
  let rev := fun (k : Nat) => (((s.hub.loaded.getD k none).map (fun i => i.version.toNat))).getD 0
  identityString s.grade ++ leBytes 8 s.hub.identity ++ leBytes 2 s.own ++ leBytes 1 (Grade.code s.grade)
    ++ leBytes 1 (s.service % 256) ++ ((List.range 3).map (fun i => leBytes 4 (Config.memoryKey i).toNat)).flatten
    ++ ((List.range 3).map (fun k => leBytes 4 (rev k))).flatten ++ List.replicate 60 0#8

/-- MOD_INFO. -/
def modInfo (k : Cmd) : Fx := Fx.look fun s => k.ans stOk s.modInfo

/-- Bytes 0 to 263 of an attestation report (R578). -/
def State.report (s : State) (nonce : List Byte) : List Byte :=
  let meas := fun (k : Nat) => padTo 64 ((((s.hub.loaded.getD k none).map Image.measurement).getD []).take 64)
  leBytes 2 1 ++ leBytes 2 396 ++ leBytes 4 0 ++ padTo 32 nonce ++ leBytes 8 s.hub.identity ++ leBytes 2 s.own
    ++ leBytes 1 (Grade.code s.grade) ++ leBytes 1 (s.service % 256)
    ++ leBytes 4 (s.hub.optionFuses.toNat + 2 ^ 16 * s.hub.revoked.toNat + 2 ^ 20 * b2n s.hub.debugLocked)
    ++ leBytes 8 s.cycle.toNat ++ meas 0 ++ meas 1 ++ meas 2 ++ leBytes 4 s.hub.romRev.toNat
    ++ leBytes 1 (s.hub.bank.toNat + 8 * s.hub.fallback.toNat) ++ leBytes 3 0

/-- ATTEST: the report and the device key's signature over its digest (R571, R578). -/
def attest (k : Cmd) : Fx :=
  Fx.look fun s =>
    let body := s.report (bytesAt k.params 0 32)
    k.ans stOk (body ++ sigBytes (Config.deviceSignature (sha512 body)))

/-- CERT_READ (R577). -/
def certRead (k : Cmd) : Fx :=
  if k.p 0 1 ≤ 2 then k.ans stOk (Config.certificate (k.p 0 1)) else k.done stBadParam

/-- CYCLE_READ. -/
def cycleRead (k : Cmd) : Fx := Fx.look fun s => k.ans stOk (leBytes 8 s.cycle.toNat)

/-! ## Windows, relay, rings -/

/-- HOST_WINDOW (R536): length 0 unmaps. A length beyond a window's 2^40 offsets is refused (log 18). -/
def hostWindow (k : Cmd) : Fx :=
  if 15 < k.p 0 1 || 2 ^ 40 < k.p 24 8 then k.done stBadParam
  else
    let w : Option Window := if k.p 24 8 = 0 then none
      else some { qp := k.p 4 4 % 2 ^ 24, key := BitVec.ofNat 32 (k.p 8 4), va := BitVec.ofNat 64 (k.p 16 8), len := k.p 24 8 }
    (Fx.hub (fun h => { h with windows := h.windows.set (k.p 0 1) w })).andThen (k.done stOk)

/-- RELAY_CFG (R548). -/
def relayCfg (k : Cmd) : Fx :=
  if 1 < k.p 0 1 then k.done stBadParam
  else (Fx.hub (fun h => { h with relayOn := decide (k.p 0 1 = 1), relayNode := BitVec.ofNat 16 (k.p 2 2) })).andThen (k.done stOk)

/-- A ring after its configuration (R553, R554, R560, R619). -/
def Ring.configured (qp : Nat) (key : U32) (va : U64) (r : Ring) : Ring :=
  { r with attached := true, qp := qp, key := key, va := va, producer := 0#32, consumer := 0#32, armed := true }

/-- RING_SET. -/
def ringSet (k : Cmd) : Fx :=
  Fx.look fun s =>
    let i := k.p 16 1
    if 16 < i || (decide (i < 16) && (s.ctx i).state = .free) then k.done stBadParam
    else Fx.all [
      Fx.ring i (Ring.configured (k.p 0 4 % 2 ^ 24) (BitVec.ofNat 32 (k.p 4 4)) (BitVec.ofNat 64 (k.p 8 8))),
      refillRing i, k.done stOk]

/-! ## Power (R595) -/

/-- The code of the step in force on a field (R595). -/
def State.stepCode (s : State) (f : Nat) : Nat := if f < Grade.fields s.grade then min 3 (s.level f) else 0xFF

/-- POWER_SET. -/
def powerSet (k : Cmd) : Fx :=
  Fx.look fun s =>
    let cap := k.p 0 4
    let code := fun f => k.p (4 + f) 1
    let ok := (List.range 8).all (fun f => code f = 0xFF || (decide (code f ≤ 3) && decide (f < Grade.fields s.grade)))
    if cap < 1500 || Grade.capMax s.grade < cap || !ok then k.done stBadParam
    else if s.power.minPower then k.done stNotPermitted
    else Fx.all [
      withThrottle 0 (Fx.all [
        Fx.power (fun p => { p with hostCap := cap }),
        Fx.each (List.range 8) (fun f => Fx.when (decide (code f ≤ 3)) (Fx.field f (fun g => { g with hostStep := code f })))]),
      Fx.look fun t => k.ans stOk ((List.range 8).map (fun f => BitVec.ofNat 8 (t.stepCode f)))]

/-! ## Registers (R546) -/

/-- REG_READ. -/
def regRead (k : Cmd) : Fx :=
  Fx.look fun s =>
    let sels := k.entries.map leNat
    if (k.msg.fault? 6).isSome then (Fx.each (k.msg.fault? 6).toList k.parityFailed).andThen (k.done stPoisoned)
    else if sels.all selectorOk then k.ans stOk ((sels.map (fun v => leBytes 8 (s.readReg v))).flatten) else k.done stBadParam

/-- REG_WRITE. DESIGN CHOICE (log 123): a parity failure in a control-space access keeps every write of its command from being performed
(R516). -/
def regWrite (k : Cmd) : Fx :=
  let pairs := k.entries.map (fun e => (field e 0 4, field e 4 8))
  if (k.msg.fault? 6).isSome then (Fx.each (k.msg.fault? 6).toList k.parityFailed).andThen (k.done stPoisoned)
  else if pairs.all (fun p => selectorOk p.1) then (Fx.each pairs (fun p => writeReg p.1 p.2)).andThen (k.done stOk)
  else k.done stBadParam

/-! ## Fabric -/

/-- NODE_SET (R380). -/
def nodeSet (k : Cmd) : Fx :=
  Fx.look fun s =>
    if s.ctxs.any (fun x => x.state ≠ .free) then k.done stNotPermitted
    else (Fx.hub (fun h => { h with node := BitVec.ofNat 16 (k.p 0 2) })).andThen (k.done stOk)

/-- An entry of the routing table obeys R412: bit 6 of each byte is zero, a valid path names a link or 0x3F, and valid paths
fill from path 0. -/
def routeOk (e : Nat) : Bool :=
  let b := fun p => e / 256 ^ p % 256
  (List.range 4).all (fun p => !bitOf (b p) 6 && (!bitOf (b p) 7 || decide (b p % 64 < 32) || b p % 64 = 63)
    && (p = 0 || !bitOf (b p) 7 || bitOf (b (p - 1)) 7))

/-- ROUTE_WRITE (R412). -/
def routeWrite (k : Cmd) : Fx :=
  let es := k.entries.map leNat
  if 65535 < k.p 0 2 + es.length || !es.all routeOk then k.done stBadParam
  else (Fx.hub (fun h => { h with routes := (es.zip (List.range es.length)).foldl (fun l e =>
      if e.1 = 0 then tableErase l (k.p 0 2 + e.2) else tablePut l (k.p 0 2 + e.2) (BitVec.ofNat 32 e.1)) h.routes })).andThen
    (k.done stOk)

/-- Links of the module that a mask names. -/
def State.named (s : State) (mask : Nat) : List Nat := s.linkIds.filter (fun i => bitOf mask i)

/-- LINK_TRAIN (R387). -/
def linkTrain (k : Cmd) : Fx :=
  Fx.look fun s => withInBand (Fx.all [
    Fx.each ((s.named (k.p 0 4)).filter (fun i => (s.link i).state != 1)) startTraining,
    k.waits (.linkTrain (BitVec.ofNat 32 (k.p 0 4))),
    trainingWaits, checkSet])

/-- LINK_FENCE (R392). -/
def linkFence (k : Cmd) : Fx :=
  Fx.look fun s => withInBand (Fx.all [Fx.each (s.named (k.p 0 4)) fenceLink, trainingWaits, k.done stOk, checkSet])

/-- The 32 bytes of a job-table entry (R427). -/
def JobEntry.bytes (e : JobEntry) : List Byte :=
  leBytes 2 e.job.toNat ++ leBytes 2 e.redNo.toNat ++ leBytes 1 e.state ++ leBytes 1 e.ctx ++ leBytes 2 e.gen.toNat
    ++ leBytes 2 (lowBits 16 e.anchor) ++ [e.policy, e.floor] ++ leBytes 2 e.members ++ leBytes 2 e.rank ++ leBytes 4 e.expected
    ++ leBytes 4 e.added ++ leBytes 4 e.delivered ++ leBytes 1 e.shared.toNat ++ leBytes 2 e.ready.length ++ leBytes 1 0

/-- SLU_READ (R427). -/
def sluRead (k : Cmd) : Fx :=
  Fx.look fun s =>
    let n := k.p 2 1
    if !s.linkIds.contains (k.p 0 1) || n < 1 || 64 < k.p 1 1 + n then k.done stBadParam
    else k.ans stOk (((List.range n).map (fun i =>
      match tableGet? (s.link (k.p 0 1)).entries (k.p 1 1 + i) with
      | some e => e.bytes
      | none => List.replicate 32 0#8)).flatten)

/-! ## Reservoir power (R361 to R363) -/

/-- A state code of SET_POWER. -/
def setStateOf (code : Nat) : SetState := if code = 0 then .on else if code = 1 then .retention else .off

/-- SET_POWER (R363). DESIGN CHOICE (log 101): a field that is fenced or resetting, whose sets all come on (R378), is busy. -/
def setPower (k : Cmd) : Fx :=
  Fx.look fun s =>
    let f := k.p 0 1
    let i := k.p 1 1
    let want := setStateOf (k.p 2 1)
    let p := (s.field f).sets.getD i SetPower.reset
    let put := fun (q : SetPower) => Fx.field f (fun g => { g with sets := g.sets.set i q })
    if Grade.fields s.grade ≤ f || 14 < i || 2 < k.p 2 1 then k.done stBadParam
    else if (s.field f).state = 2 || (s.field f).state = 3 then k.done stBusy
    else match p.target with
      | none =>
        if p.state = want then k.done stOk
        else (put (p.start want false)).andThen (k.waits (.setPower f i))
      | some _ =>
        if p.waiting.isSome then k.done stBusy
        else (put { p with waiting := some want, waitingLost := decide (p.state = .off) }).andThen (k.waits (.setPower f i))

end Sys2Proof.Machine
end

