-- ==== Sys2Proof/Machine/HostContext.lean ====
section
/-! DEFINITION. Host commands on contexts: CREATE to JOB_ABORT, descriptors and submissions (17 R543 to R545; 14 R460 to R467,
R492; 08 R240, R249, R256). -/
namespace Sys2Proof.Machine

/-! ## CREATE (R544, R462) -/

/-- A global address names this module (R544). -/
def State.isOwn (s : State) (ga : Nat) : Bool := gaNode ga = 0xFFFF || gaNode ga = s.own

/-- A 64-byte aligned area in the HBM space of one stack, all of it addressable (R369). -/
def State.areaOk (s : State) (ga len : Nat) : Bool :=
  s.isOwn ga && gaSpace ga = 0 && gaOffset ga % 64 = 0 && mapped s.grade 0 (gaOffset ga) len

/-- Two ranges of offsets meet. -/
def meets (a la b lb : Nat) : Bool := decide (0 < la) && decide (0 < lb) && decide (a < b + lb) && decide (b < a + la)

/-- No two ranges of a list meet. -/
def apart : List (Nat × Nat) → Bool
  | [] => true
  | a :: l => l.all (fun b => !meets a.1 a.2 b.1 b.2) && apart l

/-- Bytes of a save area (R462). -/
def saveBytes : Nat := 75513856

/-- The save areas of a slot as ranges of HBM offsets. -/
def Ctx.saveRanges (x : Ctx) : List (Nat × Nat) :=
  (groupFields x.fieldGroup.toNat).map (fun f => (gaOffset (x.saveArea.getD f 0#64).toNat, saveBytes))

/-- Save areas of every context but one. -/
def State.otherSaves (s : State) (c : Nat) : List (Nat × Nat) :=
  (((List.range 16).filter (fun d => d != c && (s.ctx d).state != .free)).map (fun d => (s.ctx d).saveRanges)).flatten

/-- The parameters of CREATE obey R544. -/
def createOk (s : State) (c : Nat) (k : Cmd) : Bool :=
  let group := k.p 1 1
  let save := fun f => k.p (16 + 8 * f) 8
  let fs := groupFields group
  let saves := fs.map (fun f => (gaOffset (save f), saveBytes))
  let witness := if k.p 88 4 = 0 then [] else [(gaOffset (k.p 80 8), 4160 * k.p 88 4)]
  let areas := saves ++ witness ++ [(gaOffset (k.p 96 8), 16384)]
  k.p 0 1 < 4 && groupOk s.grade group && k.p 4 4 = 0 && k.p 92 4 = 0 && k.p 107 1 = 0 && k.p 120 8 = 0
    && (List.range 8).all (fun f =>
      if fs.contains f then s.areaOk (save f) saveBytes && gaOffset (save f) / 2 ^ 37 = f else save f = 0)
    && k.p 88 4 ≤ 65536 && (k.p 88 4 = 0 || s.areaOk (k.p 80 8) (4160 * k.p 88 4)) && s.areaOk (k.p 96 8) 16384
    && apart areas && saves.all (fun a => (s.otherSaves c).all (fun b => !meets a.1 a.2 b.1 b.2))
    && k.p 112 8 % 64 = 0 && s.port.qps.any (fun q => q.num == k.p 104 3 && q.connected)

/-- The context that CREATE makes in a slot (R459). -/
def createdCtx (k : Cmd) (x : Ctx) : Ctx :=
  { Ctx.reset with
    state := .active, gen := x.gen, priority := BitVec.ofNat 2 (k.p 0 1), fieldGroup := BitVec.ofNat 8 (k.p 1 1)
    job := BitVec.ofNat 16 (k.p 2 2), seeds := [BitVec.ofNat 64 (k.p 8 8), 0#64, 0#64, 0#64]
    saveArea := (List.range 8).map (fun f => BitVec.ofNat 64 (k.p (16 + 8 * f) 8))
    witnessBase := BitVec.ofNat 64 (k.p 80 8), witnessSlots := k.p 88 4, lensBase := BitVec.ofNat 64 (k.p 96 8) }

/-- CREATE. -/
def create (k : Cmd) : Fx :=
  Fx.look fun s =>
    if !createOk s k.ctx k then k.done stBadParam
    else Fx.all [
      Fx.ctx k.ctx (createdCtx k),
      Fx.ring k.ctx (Ring.configured (k.p 104 3) (BitVec.ofNat 32 (k.p 108 4)) (BitVec.ofNat 64 (k.p 112 8))),
      refillRing k.ctx,
      k.ans stOk (leBytes 2 (s.ctx k.ctx).gen.toNat)]

/-! ## The life of a context -/

/-- DESTROY (R467). -/
def destroy (k : Cmd) : Fx :=
  Fx.look fun s =>
    match (s.ctx k.ctx).state with
    | .free | .quarantine => k.done stOk
    | .teardown => k.waits (.destroy k.ctx)
    | _ => (tearCtx k.ctx stAborted).andThen (k.waits (.destroy k.ctx))

/-- A context that issues again (R466). -/
def Ctx.resumed (mode : Nat) (x : Ctx) : Ctx :=
  let x := { x with state := .active, stopStatus := 0#16 }
  if mode = 0 then x
  else
    { x with stream := []
             nextSeq := match x.lastIssued with
               | some q => q + 1#32
               | none => match x.stream with
                 | b :: _ => BitVec.ofNat 32 (field b 8 4)
                 | [] => x.nextSeq }

/-- Preloads for records that a context has not issued are gone: another record or descriptor under the same sequence number, or what was
written to memory while the context was stopped, would be another operand (R14, R124; log 50). -/
def dropPreloads (c : Nat) : Fx :=
  Fx.look fun s =>
    let issued := fun (q : U32) => (s.ctx c).ops.any (fun o => o.seq == q)
    Fx.each (List.range (Grade.fields s.grade)) (fun f =>
      Fx.field f (fun g => { g with shadow := g.shadow.filter (fun b => b.ctx != c || issued b.seq) }))

/-- RESUME. -/
def resume (k : Cmd) : Fx :=
  Fx.look fun s =>
    let x := s.ctx k.ctx
    if 1 < k.p 0 1 || x.state ≠ .stopped || !x.ops.isEmpty then k.done stBadParam
    else Fx.all [Fx.ctx k.ctx (Ctx.resumed (k.p 0 1)), dropPreloads k.ctx, k.done stOk]

/-- SEED_SET (R249, R545). -/
def seedSet (k : Cmd) : Fx :=
  if k.p 0 1 < 1 || 3 < k.p 0 1 then k.done stBadParam
  else (Fx.ctx k.ctx (fun x => { x with seeds := x.seeds.set (k.p 0 1) (BitVec.ofNat 64 (k.p 8 8)) })).andThen (k.done stOk)

/-- A keeper entry as the table holds it: the reserved bits of its history word read zero (R12, R337). -/
def keptBytes (e : List Byte) : List Byte := bytesAt e 0 16 ++ leBytes 4 (field e 16 4 % 2 ^ 19) ++ bytesAt e 20 12

/-- KEEPER_WRITE (R333, R545): reserved bytes are zero; the other fields are checked where they are used (R334; log 19). -/
def keeperWrite (k : Cmd) : Fx :=
  let es := k.entries
  if 4096 < k.p 0 2 + es.length || !es.all (fun e => allZero (e.drop 20)) then k.done stBadParam
  else (Fx.ctx k.ctx (fun x => { x with keeper := (es.zip (List.range es.length)).foldl (fun l e =>
      if allZero (keptBytes e.1) then tableErase l (k.p 0 2 + e.2) else tablePut l (k.p 0 2 + e.2) (keptBytes e.1)) x.keeper })).andThen (k.done stOk)

/-- KEEPER_READ. -/
def keeperRead (k : Cmd) : Fx :=
  Fx.look fun s =>
    let n := k.p 2 2
    if n < 1 || 254 < n || 4096 < k.p 0 2 + n then k.done stBadParam
    else k.ans stOk (((List.range n).map (fun i =>
      tableGet (s.ctx k.ctx).keeper (k.p 0 2 + i) (List.replicate 32 0#8))).flatten)

/-- CTX_QUERY. -/
def ctxQuery (k : Cmd) : Fx :=
  Fx.look fun s =>
    let x := s.ctx k.ctx
    k.ans stOk (leBytes 8 x.stateWord ++ leBytes 4 x.step.toNat ++ leBytes 4 x.updates.toNat ++ leBytes 4 x.flags.toNat
      ++ leBytes 4 x.nextSeq.toNat ++ leBytes 1 (b2n x.windowOpen) ++ leBytes 7 0)

/-- STATS_READ. -/
def statsRead (k : Cmd) : Fx :=
  Fx.look fun s =>
    let n := k.p 2 2
    if n < 1 || 126 < n || 4096 < k.p 0 2 + n then k.done stBadParam
    else k.ans stOk (((List.range n).map (fun i => (tableGet (s.ctx k.ctx).stats (k.p 0 2 + i) StatRec.zero).bytes)).flatten)

/-- JOB_ABORT (R492). Job 0x0000 names no job (R384; log 20). -/
def jobAbort (k : Cmd) : Fx :=
  let job := k.p 0 2
  if job = 0 then k.done stBadParam
  else (abortJob job stAborted).andThen (Fx.look fun s =>
    let left := (s.boundTo job).filter (fun c => (s.ctx c).state == .teardown)
    if left.isEmpty then k.done stOk else k.waits (.jobAbort left))

/-! ## Descriptors and submissions -/

/-- Load descriptors in order until one fails (R240, R242): table, entries loaded, status. -/
def loadDescs (bad : Option Nat) : Nat → List (List Byte) → List (Nat × DescEntry) → List (Nat × DescEntry) × Nat × Nat
  | _, [], t => (t, 0, stOk)
  | i, e :: es, t =>
    let st := if bad = some i then stPoisoned else descStatus e
    if st ≠ stOk then (t, 0, st)
    else
      let (t, n, st) := loadDescs bad (i + 1) es (tablePut t i { bytes := e, aliasFree := (Desc.parse e).aliasFree })
      (t, n + 1, st)

/-- DESC_LOAD. -/
def descLoad (k : Cmd) : Fx :=
  Fx.look fun s =>
    let es := k.entries
    if 4096 < k.p 0 2 + es.length then k.done stBadParam
    else
      let z := k.msg.fault? 2
      let (t, n, st) := loadDescs (z.map (fun z => k.p 0 2 + z.item)) (k.p 0 2) es (s.ctx k.ctx).descs
      Fx.all [
        Fx.ctx k.ctx (fun x => { x with descs := t }),
        dropPreloads k.ctx,
        Fx.each (z.filter (fun z => st = stPoisoned && z.item == n)).toList k.parityFailed,
        k.ans st (leBytes 2 n ++ leBytes 2 (if st = stOk then 0xFFFF else k.p 0 2 + n))]

/-- Accept a submission whole, or reject it whole (R256). -/
def acceptRecords (rs : List (List Byte)) (x : Ctx) : Ctx :=
  { x with stream := x.stream ++ rs, nextSeq := x.nextSeq + BitVec.ofNat 32 rs.length }

/-- The status of a submission to a context (R256, R461). -/
def State.submission (s : State) (c : Nat) (rs : List (List Byte)) : Nat :=
  submitStatus s.grade (s.ctx c).fieldGroup.toNat (s.ctx c).nextSeq.toNat rs

/-- Submit records and answer with the next expected sequence number. A byte whose parity fails rejects them all (R516). -/
def submitRecords (c tag : Nat) (bad : Option ParityFault) (rs : List (List Byte)) (answer : Nat → List Byte → Fx) : Fx :=
  Fx.look fun s =>
    let st := if bad.isSome then stPoisoned else s.submission c rs
    Fx.all [
      Fx.each bad.toList (fun z => parityEvent 448 1 z.offset tag none),
      Fx.when (st = stOk) (Fx.ctx c (acceptRecords rs)),
      Fx.look fun t => answer st (leBytes 4 (t.ctx c).nextSeq.toNat)]

/-- SUBMIT. -/
def submit (k : Cmd) : Fx := submitRecords k.ctx k.tag (k.msg.fault? 1) k.entries k.ans

/-- An RDMA READ leaves, or waits: at most 16 of a queue pair are outstanding (R533). -/
def askHost (qp : Nat) (key : U32) (va len : Nat) (tag : U32) : Fx :=
  Fx.look fun s =>
    let go := decide (s.port.reads.countP (fun r => r.sent && r.qp == qp) < 16)
    (Fx.port (fun p => { p with reads := p.reads ++ [{ qp := qp, key := key, va := va, len := len, tag := tag, sent := go }] })).andThen
      (Fx.when go (Fx.emit (.rdmaRead qp key va len tag)))

/-- The next waiting RDMA READ of a queue pair leaves (R533). -/
def askNext (qp : Nat) : Fx :=
  Fx.look fun s => match s.port.reads.find? (fun r => !r.sent && r.qp == qp) with
    | some r => (Fx.port (fun p => { p with reads := p.reads.map (fun k => if k = r then { r with sent := true } else k) })).andThen
        ((Fx.emit (.rdmaRead r.qp r.key r.va r.len r.tag)).andThen (startDescriptor r.tag))
    | none => Fx.skip

/-- Bytes come in answer to an RDMA READ; with the last of them the queue pair's next one leaves (R533). -/
def hostAnswers (tag : U32) (n : Nat) : Fx :=
  Fx.look fun s => match s.port.reads.find? (fun r => r.sent && r.tag == tag) with
    | some r =>
      if n < r.len then Fx.port (fun p => { p with reads := p.reads.map (fun k => if k = r then { r with len := r.len - n } else k) })
      else (Fx.port (fun p => { p with reads := p.reads.erase r })).andThen (askNext r.qp)
    | none => Fx.skip

/-- Read host memory through a window (R536): the command waits for the response; an unmapped range is BAD_PARAM. -/
def hostRead (k : Cmd) (kind : WaitKind) (ga len : Nat) : Fx :=
  Fx.look fun s =>
    match (if s.isOwn ga && gaSpace ga = 3 then s.window? (gaOffset ga) len else none) with
    | none => k.done stBadParam
    | some w => withTag (fun tag =>
        (Fx.port (fun p => { p with waits := p.waits ++
          [{ kind := kind, tag := BitVec.ofNat 32 k.tag, opcode := BitVec.ofNat 16 k.op, ctx := BitVec.ofNat 8 k.ctx
             dest := k.dest, key := tag, got := [], left := len, parity := k.msg.fault? 1 }] })).andThen
        (askHost w.qp w.key (w.va.toNat + gaOffset ga % 2 ^ 40) len tag))

/-- SUBMIT_HOST: the records come with the response (R256, R536). -/
def submitHost (k : Cmd) : Fx :=
  let n := k.p 0 4
  if n < 1 || 65536 < n then k.done stBadParam else hostRead k (.submitHost k.ctx n) (k.p 8 8) (128 * n)

end Sys2Proof.Machine
end

