-- ==== Sys2Proof/Machine/HostService.lean ====
section
/-! DEFINITION. Resilience, takeover, mirror and firmware commands (17 R543; 16 R523, R529; 14 R488, R490; 15 R497, R498, R501,
R504, R506; 11 R373, R375; 18 R574). -/
namespace Sys2Proof.Machine

/-- MODULE_RESET (R490): the reply follows the end of the reset. -/
def moduleReset (k : Cmd) : Fx :=
  Fx.look fun s => (k.waits .warmReset).andThen
    (withInBand (startWarm (k.msg.found.getD { romOk := true, bankBad := 0#6, corePass := s.hub.corePass })))

/-- FIELD_TEST (R523, R529). -/
def fieldTest (k : Cmd) : Fx :=
  Fx.look fun s =>
    let f := k.p 0 1
    if 7 < f || 1 < k.p 1 1 || 1 < k.p 2 1 then k.done stBadParam
    else if Grade.fields s.grade ≤ f || 1 < (s.field f).state then k.done stFieldFailed
    else if (s.field f).test.isSome then k.done stBusy
    else
      let t : FieldTest := { kind := k.p 1 1, onFail := k.p 2 1, deadline := k.p 8 8, accepted := s.now, borrowed := none }
      (Fx.field f (fun g => { g with test := some t })).andThen (k.waits (.fieldTest f))

/-- FIELD_RESET (R488). -/
def fieldReset (k : Cmd) : Fx :=
  Fx.look fun s =>
    let f := k.p 0 1
    if 7 < f then k.done stBadParam
    else if Grade.fields s.grade ≤ f then k.done stFieldFailed
    else if (s.field f).state = 2 || (s.field f).state = 3 then k.waits (.fieldReset f)
    else Fx.all [k.waits (.fieldReset f), withInBand ((fenceField f).andThen checkSet)]

/-! ## The repair table (R497, R498) -/

/-- An entry's kind, field and unit are in range (R497). -/
def repairOk (kind fld unit : Nat) : Bool :=
  match kind with
  | 1 => decide (fld ≤ 7) && decide (unit ≤ 31)
  | 2 => decide (fld ≤ 7) && decide (unit ≤ 29)
  | 3 => decide (fld ≤ 7) && decide (unit ≤ 4)
  | 4 => fld == 0xFF && decide (unit ≤ 4)
  | _ => false

/-- Same kind, field and unit. -/
def sameRepair (a b : List Byte) : Bool := a.take 4 == b.take 4

/-- Write an entry in place of the one with its key, or behind the others. -/
def putRepair (table : List (List Byte)) (e : List Byte) : List (List Byte) :=
  if table.any (sameRepair e) then table.map (fun o => if sameRepair e o then e else o) else table ++ [e]

/-- REPAIR_WRITE. -/
def repairWrite (k : Cmd) : Fx :=
  Fx.look fun s =>
    let es := k.entries
    let t := es.foldl putRepair s.hub.repair
    if !es.all (fun e => repairOk (field e 0 1) (field e 1 1) (field e 2 2)) then k.done stBadParam
    else if 1024 < t.length then k.done stNoResource
    else (Fx.hub (fun h => { h with repair := t })).andThen (k.done stOk)

/-- REPAIR_CLEAR. -/
def repairClear (k : Cmd) : Fx :=
  if k.p 0 1 = 0 then (Fx.hub (fun h => { h with repair := [] })).andThen (k.done stOk)
  else if !repairOk (k.p 0 1) (k.p 1 1) (k.p 2 2) then k.done stBadParam
  else (Fx.hub (fun h => { h with repair := h.repair.filter (fun e => !sameRepair (bytesAt k.params 0 4) e) })).andThen
    (k.done stOk)

/-- HBM_RETIRE (R373, R375). A pseudo-channel that is retired already holds nothing to retire (log 21). -/
def hbmRetire (k : Cmd) : Fx :=
  Fx.look fun s =>
    let i := k.p 0 1
    let st := s.stack i
    let pc := BitVec.ofNat 6 (k.p 1 1)
    if Grade.hbmStacks s.grade ≤ i || 63 < k.p 1 1 || st.retiredA == some pc || st.retiredB == some pc then k.done stBadParam
    else if st.state ≠ 0 || st.retiring.isSome || (st.retiredA.isSome && st.retiredB.isSome) then k.done stNoResource
    else (Fx.stack i (fun x => { x with state := 1, retiring := some pc })).andThen ((k.waits (.hbmRetire i)).andThen checkSet)

/-! ## Mirror (R504, R506) -/

/-- MIRROR_REGION (R504). -/
def mirrorRegion (k : Cmd) : Fx :=
  Fx.look fun s =>
    let i := k.p 0 1
    let len := k.p 16 8
    let base := k.p 8 8
    let others := ((List.range 16).filter (fun j => j != i)).filterMap (fun j => s.hub.regions.getD j none)
    let ok := k.p 1 1 ≤ 1 && base % 64 = 0 && len % 64 = 0 && mapped s.grade 0 base len
      && (k.p 1 1 = 1 || k.p 2 2 ≠ 0xFFFF)
      && others.all (fun r => !meets base len r.base r.len) && (s.otherSaves 16).all (fun a => !meets base len a.1 a.2)
    if 15 < i then k.done stBadParam
    else if len = 0 then (Fx.hub (fun h => { h with regions := h.regions.set i none })).andThen (k.done stOk)
    else if !ok then k.done stBadParam
    else
      let r : Region := { kind := k.p 1 1, src := BitVec.ofNat 16 (k.p 2 2), base := base, len := len, claim := none }
      (Fx.hub (fun h => { h with regions := h.regions.set i (some r) })).andThen (k.done stOk)

/-- The links that MIRROR_COPY names. -/
def Cmd.copyLinks (k : Cmd) : List Nat := (List.range (k.p 1 1)).map (fun i => k.p (2 + i) 1)

/-- MIRROR_COPY (R506): checks and queues. -/
def mirrorCopy (k : Cmd) : Fx :=
  Fx.look fun s =>
    let f := k.p 0 1
    let ls := k.copyLinks
    let toRegion := decide (k.ctx < 16)
    let linkFine := ls.all (fun i => i / 4 == f && s.upLinks.contains i && (s.link i).seenNode.toNat == k.p 6 2)
      && ls.eraseDups.length == ls.length
    let ok := decide (f < Grade.fields s.grade) && decide (k.p 1 1 ≤ 4) && linkFine && decide (k.p 8 1 ≤ 15)
      && !(toRegion && (ls.isEmpty || k.p 40 8 ≠ 0))
      && k.p 16 8 % 64 = 0 && decide (0 < k.p 24 8) && mapped s.grade 0 (k.p 16 8) (k.p 24 8)
    if !ok then k.done stBadParam
    else if s.hub.node = 0xFFFF#16 || (ls.isEmpty && (s.routeFor (k.p 6 2) 0).isNone) then k.done stNoResource
    else
      let id := s.hub.nextCopy
      let c : Copy :=
        { ctx := if toRegion then some k.ctx else none, field := f, links := ls, target := BitVec.ofNat 16 (k.p 6 2)
          region := k.p 8 1, src := k.p 16 8, len := k.p 24 8, serial := BitVec.ofNat 32 (k.p 32 4), dst := k.p 40 8
          running := false, stage := 0, next := k.p 16 8, sent := 0, round := [], acks := 0, step := 0#32, updates := 0#32, keeper := [] }
      Fx.all [Fx.hub (fun h => { h with nextCopy := id + 1, copies := h.copies ++ [(id, c)] }), k.waits (.mirrorCopy id), progress f 7]

/-! ## Takeover and firmware -/

/-- TAKEOVER (R501): a relayed one also enables relay from the relaying node. 0xFFFF is no node ID to adopt (log 20). -/
def takeover (k : Cmd) : Fx :=
  Fx.look fun s =>
    if k.p 0 2 = 0xFFFF then k.done stBadParam
    else if s.hub.node ≠ 0xFFFF#16 then k.done stNotPermitted
    else if k.p 8 8 ≠ s.hub.identity then k.done stIdentity
    else Fx.all [
      Fx.hub (fun h => { h with node := BitVec.ofNat 16 (k.p 0 2) }),
      (match k.dest with
       | .relay _ p => Fx.hub (fun h => { h with relayOn := true, relayNode := p.src })
       | _ => Fx.skip),
      k.done stOk]

/-- FW_UPDATE (R574): the image comes with the response. -/
def fwUpdate (k : Cmd) : Fx :=
  Fx.look fun s =>
    if 2 < k.p 0 1 || k.p 16 8 = 0 then k.done stBadParam
    else if s.port.waits.any (fun w => match w.kind with
        | .fwUpdate _ => true
        | _ => false) then k.done stBusy
    else hostRead k (.fwUpdate (k.p 0 1)) (k.p 8 8) (k.p 16 8)

/-- Greatest payload of an image kind (R570). -/
def imageLimit (kind : Nat) : Nat := if kind = 0 then 2 ^ 23 else if kind = 1 then 2 ^ 22 else 2 ^ 24

/-- The digest that an image's signature covers (R571). -/
def imageDigest (bs : List Byte) : List Byte := sha512 (bs.take (bs.length - 132))

/-- An image is valid (R570 to R572). -/
def imageOk (h : Hub) (kind : Nat) (bs : List Byte) : Bool :=
  field bs 0 4 = 0x4E584657 && field bs 4 1 = kind && field bs 5 1 ≤ 3 && field bs 6 2 = 0 && field bs 20 4 = 0
    && allZero (bytesAt bs 32 96) && (kind = 1 || field bs 12 2 = 0) && (kind = 2 || field bs 14 2 = 0)
    && field bs 24 8 ≤ imageLimit kind && bs.length = 260 + field bs 24 8
    && field bs 16 2 ≤ h.stepping.toNat && h.stepping.toNat ≤ field bs 18 2
    && !h.revoked.getLsbD (field bs 5 1)
    && ecdsaVerifies (Config.vendorKey (field bs 5 1)) (imageDigest bs) (sigR (bs.drop (bs.length - 132))) (sigS (bs.drop (bs.length - 132)))

/-- Write a valid image into the inactive bank of its kind and mark that bank active (R574). -/
def installImage (kind : Nat) (bs : List Byte) (h : Hub) : Hub :=
  let b := 1 - b2n (h.activeBank.getLsbD kind)
  let i : Image :=
    { valid := true, version := BitVec.ofNat 32 (field bs 8 4), numericsRev := BitVec.ofNat 16 (field bs 12 2)
      tableRev := BitVec.ofNat 16 (field bs 14 2), measurement := imageDigest bs }
  { h with activeBank := h.activeBank ^^^ BitVec.ofNat 3 (2 ^ kind), banks := h.banks.set (2 * kind + b) i }

/-- The end of FW_UPDATE when its image has been read. -/
def endUpdate (w : Wait) (kind : Nat) (bs : List Byte) : Fx :=
  Fx.look fun s =>
    if field bs 4 1 ≠ kind then w.answer stBadParam []
    else if !imageOk s.hub kind bs then w.answer stSignature []
    else (Fx.hub (installImage kind bs)).andThen (w.answer stOk [])

/-! ## Every command, by its opcode -/

/-- What each opcode of R543 runs; the relay and the commands that waited behind another take this way too (R540, R548). -/
def runCmd (k : Cmd) : Fx :=
  match k.op with
  | 0x0100 => modInfo k
  | 0x0101 => moduleReset k
  | 0x0102 => hostWindow k
  | 0x0103 => relayCfg k
  | 0x0104 => powerSet k
  | 0x0105 => ringSet k
  | 0x0200 => create k
  | 0x0201 => destroy k
  | 0x0202 => resume k
  | 0x0203 => seedSet k
  | 0x0204 => keeperWrite k
  | 0x0205 => keeperRead k
  | 0x0206 => ctxQuery k
  | 0x0207 => statsRead k
  | 0x0208 => jobAbort k
  | 0x0300 => descLoad k
  | 0x0301 => submit k
  | 0x0302 => submitHost k
  | 0x0400 => setPower k
  | 0x0500 => nodeSet k
  | 0x0501 => routeWrite k
  | 0x0502 => linkTrain k
  | 0x0503 => linkFence k
  | 0x0504 => sluRead k
  | 0x0600 => fieldTest k
  | 0x0601 => fieldReset k
  | 0x0602 => repairWrite k
  | 0x0603 => repairClear k
  | 0x0604 => hbmRetire k
  | 0x0605 => mirrorRegion k
  | 0x0606 => mirrorCopy k
  | 0x0607 => takeover k
  | 0x0700 => attest k
  | 0x0701 => certRead k
  | 0x0702 => fwUpdate k
  | 0x0800 => regRead k
  | 0x0801 => regWrite k
  | _ => cycleRead k

/-- Start a command that stood behind another of its context, unless one still runs (R540); recovery mode serves few (R575). -/
def startDelayed (d : Delayed) : Fx :=
  Fx.look fun s =>
    let k := Cmd.parse d.dest d.msg
    let before := s.port.delayed.takeWhile (fun e => e != d)
    let held := s.ctxWaits k.ctx || before.any (fun e => e.msg.ctx == k.ctx)
    Fx.when (!held) ((Fx.port (fun p => { p with delayed := p.delayed.erase d })).andThen
      (if s.hub.stage = 15 && !recoveryServes.contains k.op then k.done stSignature
       else match slotStatus? s k.op k.ctx, cmdInfo k.op with
       | some st, _ => k.done st
       | none, some info => if info.paramsOk k then runCmd k else k.done stBadParam
       | none, none => k.done stBadOpcode))

/-- One local cycle in which no command is taken: the counter advances, and commands that waited behind one that has ended
start, in the order in which they came (R477, R540; log 16). -/
def tick : Fx :=
  Fx.look fun s => (Fx.setNow (s.now + 1)).andThen (Fx.each s.port.delayed startDelayed)

end Sys2Proof.Machine
end

