-- ==== Sys2Proof/Machine/HostExec.lean ====
section
/-! DEFINITION. The host command rows: each is the message at the headgate with the checks of R539 (17) before it. -/
namespace Sys2Proof.Machine

/-- MOD_INFO (R543). -/
def execModInfo (m : HostMsg) (s : State) : Host.Outcome State Fault Refusal := (hostRow 0x0100 modInfo m).outcome s

/-- MODULE_RESET (R490). -/
def execModuleReset (m : HostMsg) (s : State) : Host.Outcome State Fault Refusal := (hostRow 0x0101 moduleReset m).outcome s

/-- HOST_WINDOW (R536). -/
def execHostWindow (m : HostMsg) (s : State) : Host.Outcome State Fault Refusal := (hostRow 0x0102 hostWindow m).outcome s

/-- RELAY_CFG (R548). -/
def execRelayCfg (m : HostMsg) (s : State) : Host.Outcome State Fault Refusal := (hostRow 0x0103 relayCfg m).outcome s

/-- POWER_SET (R595). -/
def execPowerSet (m : HostMsg) (s : State) : Host.Outcome State Fault Refusal := (hostRow 0x0104 powerSet m).outcome s

/-- RING_SET (R553). -/
def execRingSet (m : HostMsg) (s : State) : Host.Outcome State Fault Refusal := (hostRow 0x0105 ringSet m).outcome s

/-- CREATE (R544). -/
def execCreate (m : HostMsg) (s : State) : Host.Outcome State Fault Refusal := (hostRow 0x0200 create m).outcome s

/-- DESTROY (R467). -/
def execDestroy (m : HostMsg) (s : State) : Host.Outcome State Fault Refusal := (hostRow 0x0201 destroy m).outcome s

/-- RESUME (R466). -/
def execResume (m : HostMsg) (s : State) : Host.Outcome State Fault Refusal := (hostRow 0x0202 resume m).outcome s

/-- SEED_SET (R249). -/
def execSeedSet (m : HostMsg) (s : State) : Host.Outcome State Fault Refusal := (hostRow 0x0203 seedSet m).outcome s

/-- KEEPER_WRITE (R545). -/
def execKeeperWrite (m : HostMsg) (s : State) : Host.Outcome State Fault Refusal := (hostRow 0x0204 keeperWrite m).outcome s

/-- KEEPER_READ (R543). -/
def execKeeperRead (m : HostMsg) (s : State) : Host.Outcome State Fault Refusal := (hostRow 0x0205 keeperRead m).outcome s

/-- CTX_QUERY (R543). -/
def execCtxQuery (m : HostMsg) (s : State) : Host.Outcome State Fault Refusal := (hostRow 0x0206 ctxQuery m).outcome s

/-- STATS_READ (R543). -/
def execStatsRead (m : HostMsg) (s : State) : Host.Outcome State Fault Refusal := (hostRow 0x0207 statsRead m).outcome s

/-- JOB_ABORT (R492). -/
def execJobAbort (m : HostMsg) (s : State) : Host.Outcome State Fault Refusal := (hostRow 0x0208 jobAbort m).outcome s

/-- DESC_LOAD (R240). -/
def execDescLoad (m : HostMsg) (s : State) : Host.Outcome State Fault Refusal := (hostRow 0x0300 descLoad m).outcome s

/-- SUBMIT (R256). -/
def execSubmit (m : HostMsg) (s : State) : Host.Outcome State Fault Refusal := (hostRow 0x0301 submit m).outcome s

/-- SUBMIT_HOST (R256). -/
def execSubmitHost (m : HostMsg) (s : State) : Host.Outcome State Fault Refusal := (hostRow 0x0302 submitHost m).outcome s

/-- SET_POWER (R363). -/
def execSetPower (m : HostMsg) (s : State) : Host.Outcome State Fault Refusal := (hostRow 0x0400 setPower m).outcome s

/-- NODE_SET (R380). -/
def execNodeSet (m : HostMsg) (s : State) : Host.Outcome State Fault Refusal := (hostRow 0x0500 nodeSet m).outcome s

/-- ROUTE_WRITE (R412). -/
def execRouteWrite (m : HostMsg) (s : State) : Host.Outcome State Fault Refusal := (hostRow 0x0501 routeWrite m).outcome s

/-- LINK_TRAIN (R387). -/
def execLinkTrain (m : HostMsg) (s : State) : Host.Outcome State Fault Refusal := (hostRow 0x0502 linkTrain m).outcome s

/-- LINK_FENCE (R392). -/
def execLinkFence (m : HostMsg) (s : State) : Host.Outcome State Fault Refusal := (hostRow 0x0503 linkFence m).outcome s

/-- SLU_READ (R427). -/
def execSluRead (m : HostMsg) (s : State) : Host.Outcome State Fault Refusal := (hostRow 0x0504 sluRead m).outcome s

/-- FIELD_TEST (R523). -/
def execFieldTest (m : HostMsg) (s : State) : Host.Outcome State Fault Refusal := (hostRow 0x0600 fieldTest m).outcome s

/-- FIELD_RESET (R488). -/
def execFieldReset (m : HostMsg) (s : State) : Host.Outcome State Fault Refusal := (hostRow 0x0601 fieldReset m).outcome s

/-- REPAIR_WRITE (R498). -/
def execRepairWrite (m : HostMsg) (s : State) : Host.Outcome State Fault Refusal := (hostRow 0x0602 repairWrite m).outcome s

/-- REPAIR_CLEAR (R497). -/
def execRepairClear (m : HostMsg) (s : State) : Host.Outcome State Fault Refusal := (hostRow 0x0603 repairClear m).outcome s

/-- HBM_RETIRE (R373). -/
def execHbmRetire (m : HostMsg) (s : State) : Host.Outcome State Fault Refusal := (hostRow 0x0604 hbmRetire m).outcome s

/-- MIRROR_REGION (R504). -/
def execMirrorRegion (m : HostMsg) (s : State) : Host.Outcome State Fault Refusal := (hostRow 0x0605 mirrorRegion m).outcome s

/-- MIRROR_COPY (R506). -/
def execMirrorCopy (m : HostMsg) (s : State) : Host.Outcome State Fault Refusal := (hostRow 0x0606 mirrorCopy m).outcome s

/-- TAKEOVER (R501). -/
def execTakeover (m : HostMsg) (s : State) : Host.Outcome State Fault Refusal := (hostRow 0x0607 takeover m).outcome s

/-- ATTEST (R578). -/
def execAttest (m : HostMsg) (s : State) : Host.Outcome State Fault Refusal := (hostRow 0x0700 attest m).outcome s

/-- CERT_READ (R577). -/
def execCertRead (m : HostMsg) (s : State) : Host.Outcome State Fault Refusal := (hostRow 0x0701 certRead m).outcome s

/-- FW_UPDATE (R574). -/
def execFwUpdate (m : HostMsg) (s : State) : Host.Outcome State Fault Refusal := (hostRow 0x0702 fwUpdate m).outcome s

/-- REG_READ (R546). -/
def execRegRead (m : HostMsg) (s : State) : Host.Outcome State Fault Refusal := (hostRow 0x0800 regRead m).outcome s

/-- REG_WRITE (R546). -/
def execRegWrite (m : HostMsg) (s : State) : Host.Outcome State Fault Refusal := (hostRow 0x0801 regWrite m).outcome s

/-- CYCLE_READ (R543). -/
def execCycleRead (m : HostMsg) (s : State) : Host.Outcome State Fault Refusal := (hostRow 0x0802 cycleRead m).outcome s

/-- COMMAND_RELAY: a message that names another node is sent on once its header has passed the checks of R539 (R547). -/
def execCommandRelay (m : HostMsg) (s : State) : Host.Outcome State Fault Refusal :=
  (Fx.when (s.foreign m) (receive m.qp (checkCmd runCmd false (.port m.qp) m))).outcome s

/-- The message in a RELAY packet: the payload up to the length its header gives, or all of it where the packet is not as long as that
(R400, R537, R547). -/
def relayedMsg (r : RelayIn) : HostMsg :=
  let n := 64 + field r.packet.payload 6 2
  { qp := 0, parity := r.parity, found := r.found
    bytes := if r.packet.payload.length = 32 * ceilDiv n 32 then r.packet.payload.take n else r.packet.payload }

/-- The module executes a relayed command (R548). -/
def State.permits (s : State) (p : Packet) : Bool :=
  if s.hub.node = 0xFFFF#16 then Machine.field p.payload 2 2 = 0x0607
  else s.hub.relayOn && (s.hub.relayNode = 0xFFFF#16 || s.hub.relayNode = p.src)

/-- RELAY: a peer passes a command on (R548); one of a job that no context here is bound to is refused with an event (R384). -/
def execRelay (link : Nat) (r : RelayIn) (s : State) : Host.Outcome State Fault Refusal :=
  let p := r.packet
  let m := relayedMsg r
  let dest := Dest.relay link p
  let stray := p.job != 0#16 && !s.serves p.job.toNat false
  (onPacket 0x05 link p (Fx.all [
    takePacket link p,
    Fx.when stray (discardEvent link p 5),
    if s.outcast then Fx.skip
    else if s.permits p && !stray then checkCmd runCmd true dest m else (Cmd.parse dest m).done stNotPermitted])).outcome s

/-- RELAY_REPLY: the reply goes to the host whose command was relayed (R547). -/
def execRelayReply (link : Nat) (p : Packet) (s : State) : Host.Outcome State Fault Refusal :=
  let mine := fun (w : Wait) => w.key == p.tag && (match w.kind with
    | .relayed _ _ => true
    | _ => false)
  let bytes := p.payload.take (64 + field p.payload 6 2)
  (onPacket 0x13 link p (Fx.all [
    takePacket link p,
    Fx.port (fun q => { q with waits := q.waits.filter (fun w => !mine w) }),
    Fx.each (s.port.waits.filter mine) (fun w => match w.dest with
      | .port qp => Fx.when (s.port.qps.any (fun q => q.num == qp && q.connected)) (Fx.emit (.send qp bytes))
      | _ => Fx.skip)])).outcome s

/-- EOI: completion of a source's service at an event controller (R562, R563). -/
def execEoi (source : Nat) (s : State) : Host.Outcome State Fault Refusal :=
  (Fx.when (!regAbsent s.grade 0x19 source && decide (source < 960))
    (Fx.evc (fun l => tablePut l source (tableGet l source EvcSrc.reset).complete))).outcome s

end Sys2Proof.Machine
end

