-- ==== Sys2Proof/Machine/EventEv.lean ====
section
/-! DEFINITION. Event rings and doorbells (17 R553 to R561), event controllers (R562 to R564), and the queue pairs of the port
(R533). -/
namespace Sys2Proof.Machine

/-! ## Rings -/

/-- A notification on a ring's queue pair (R559). -/
def notify (i : Nat) : Fx :=
  Fx.look fun s =>
    let r := s.ring i
    Fx.emit (.send r.qp (leBytes 2 i ++ leBytes 2 0 ++ leBytes 4 r.producer.toNat ++ leBytes 8 s.cycle.toNat))

/-- A consumer index from a doorbell is acceptable (R555): neither behind the last one nor beyond the producer index. -/
def Ring.accepts (r : Ring) (c : U32) : Bool := decide ((c - r.consumer).toNat ≤ (r.producer - r.consumer).toNat)

/-- A doorbell lands (R555, R557, R561); a detached ring keeps its indices too, and notifies nothing (R619),
nor does a module without its smallest working set (R500). -/
def ringDoorbell (i : Nat) (v : U64) : Fx :=
  Fx.look fun s =>
    let r := s.ring i
    let c := v.setWidth 32
    let arm := v.getLsbD 32
    if !r.accepts c then Fx.ring i (fun r => { r with badDoorbells := satAdd 65535 r.badDoorbells 1 })
    else Fx.all [
      Fx.ring i (fun r => { r with consumer := c, armed := r.armed || (arm && c == r.producer) }),
      Fx.when (arm && c != r.producer && r.attached && !s.outcast) (notify i),
      refillRing i]

/-- DOORBELL. -/
def execDoorbell (ring : Nat) (value : U64) (s : State) : Host.Outcome State Fault Refusal := (ringDoorbell ring value).outcome s

/-- The module writes the oldest waiting record of a ring, then the producer index, and notifies while the ring is armed
(R554, R556, R560). A record that fails its parity, at byte `parity`, is replaced (R516);
recovery mode, and a module without its smallest working set, write no ring (R500, R575). -/
def writeRecord (i : Nat) (parity : Option Nat) : Fx :=
  Fx.look fun s =>
    let r := s.ring i
    match r.waiting with
    | [] => Fx.skip
    | e :: rest =>
      let e := if parity.isNone then e else lostRecord s i
      let n := r.producer.toNat
      Fx.when (decide (0 < r.space) && s.hub.stage != 15 && !s.outcast) (Fx.all [
        Fx.ring i (fun r => { r with waiting := rest, producer := r.producer + 1#32, armed := false }),
        Fx.emit (.rdmaWrite r.qp r.key (r.va.toNat + 32 * (n % 4096)) (EventRec.bytes e n)),
        Fx.emit (.rdmaWrite r.qp r.key (r.va.toNat + 131072) (leBytes 4 ((n + 1) % 2 ^ 32))),
        Fx.when r.armed (notify i),
        Fx.each parity.toList (fun off => (fireSource 511).andThen (parityEvent 448 5 off 0 none))])

/-- EVENT_RECORD_WRITE. -/
def execEventRecordWrite (ring : Nat) (parity : Option Nat) (s : State) : Host.Outcome State Fault Refusal :=
  (writeRecord ring parity).outcome s

/-! ## Event controllers -/

/-- Keys of the sources that present to a controller: 0 to 7 for the fields' controllers, 8 for the headgate's (R563). -/
def controllerHas (ctl key : Nat) : Bool :=
  if ctl = 8 then decide (key < 512) else decide (512 ≤ key) && (key - 512) / 56 == ctl

/-- The source a controller takes next (R564): fast before normal, one at a time in each class, a source that completed while
pending ahead of the others, then the lowest number. -/
def nextSource (ctl : Nat) (l : List (Nat × EvcSrc)) : Option Nat :=
  let mine := l.filter (fun e => controllerHas ctl e.1)
  let active := mine.filter (fun e => e.2.state = 2 || e.2.state = 3)
  let pend := fun (fast : Bool) => mine.filter (fun e => e.2.state = 1 && e.2.enable && e.2.fast == fast)
  let pick := fun (c : List (Nat × EvcSrc)) => ((c.filter (fun e => e.2.again)) ++ c).head?.map Prod.fst
  if active.any (fun e => e.2.takenFast) then none
  else if !(pend true).isEmpty then pick (pend true)
  else if !active.isEmpty then none
  else pick (pend false)

/-- EVC_TAKE. -/
def execEvcTake (controller : Nat) (s : State) : Host.Outcome State Fault Refusal :=
  (match nextSource controller s.evc with
   | none => Fx.skip
   | some k => Fx.evc (fun l =>
       let e := tableGet l k EvcSrc.reset
       tablePut l k { e with state := 2, takenFast := e.fast, again := false })).outcome s

/-! ## Queue pairs (R533) -/

/-- Line rate in the unit of `Qp.rate`. -/
def lineRate : Nat := 16 * 2 ^ 16

/-- Change a connected queue pair. -/
def onQp (n : Nat) (f : Qp → Qp) : Fx :=
  Fx.port (fun p => { p with qps := p.qps.map (fun q => if q.num = n ∧ q.connected then f q else q) })

/-- A connected queue pair. -/
def State.qp? (s : State) (n : Nat) : Option Qp := s.port.qps.find? (fun q => q.num == n && q.connected)

/-- CONGESTION_NOTIFICATION: the send rate halves. -/
def execCongestionNotification (qp : Nat) (s : State) : Host.Outcome State Fault Refusal :=
  (onQp qp (fun q => { q with rate := q.rate / 2, lastHit := some s.now })).outcome s

/-- RATE_RESTORE: 50 µs without a notification give back 1/16 of line rate. -/
def execRateRestore (qp : Nat) (s : State) : Host.Outcome State Fault Refusal :=
  (match s.qp? qp with
   | some q => match q.lastHit with
     | some t => Fx.when (decide (q.rate < lineRate)) ((Fx.setNow (t + 5000)).andThen (Fx.look fun u =>
         onQp qp (fun q => { q with rate := min lineRate (q.rate + 2 ^ 16), lastHit := some u.now })))
     | none => Fx.skip
   | none => Fx.skip).outcome s

/-- CE_MARKED_PACKET: a notification packet goes back, at most one per queue pair every 50 µs. -/
def execCeMarkedPacket (qp : Nat) (s : State) : Host.Outcome State Fault Refusal :=
  (match s.qp? qp with
   | some q => Fx.when (q.lastCnp.all (fun t => decide (t + 5000 ≤ s.now)))
       ((Fx.emit (.cnp qp)).andThen (onQp qp (fun q => { q with lastCnp := some s.now })))
   | none => Fx.skip).outcome s

/-- Queue pairs the port can hold (R533, R575). -/
def State.qpLimit (s : State) : Nat := if s.hub.stage = 15 then 4 else 64

/-- CONNECTION_MANAGEMENT: REQ is answered with REP, RTU opens, DREQ is answered with DREP and closes. -/
def execConnectionManagement (msg : CmMsg) (qp : Nat) (s : State) : Host.Outcome State Fault Refusal :=
  (Fx.when s.port.up (match msg with
   | .req => Fx.when (!s.port.qps.any (fun q => q.num == qp) && decide (s.port.qps.length < s.qpLimit) && decide (1 < qp))
       ((Fx.port (fun p => { p with qps := p.qps ++
           [{ num := qp, connected := false, rate := lineRate, lastCnp := none, lastHit := none }] })).andThen
         (Fx.emit (.cm qp .rep)))
   | .rtu => Fx.port (fun p => { p with qps := p.qps.map (fun q => if q.num = qp then { q with connected := true } else q) })
   | .dreq => (closeQps (fun n => n == qp)).andThen (Fx.emit (.cm qp .drep))
   | .rep | .drep => Fx.skip)).outcome s

end Sys2Proof.Machine
end

