-- ==== Sys2Proof/Machine/LifecycleEv.lean ====
section
/-! DEFINITION. Bring-up (18 R565, R568, R575) and what ends a teardown, a quarantine, an engine or field reset and a field
test (14 R468 to R489; 16 R523 to R529). -/
namespace Sys2Proof.Machine

/-! ## Bring-up (R565) -/

/-- Step 7 of bring-up ends when no link trains. -/
def checkBringUp : Fx :=
  Fx.look fun s => Fx.when (s.hub.stage = 7 && !s.linkIds.any (fun i => (s.link i).state == 1))
    (Fx.hub (fun h => { h with stage := 8 }))

/-- A field comes up with the reset of R484, or fails (R565 step 5). -/
def bringField (found : BringUp) (f : Nat) : Fx :=
  Fx.look fun s =>
    let h := s.hub
    let pass := (found.resets.getD f { seqPass := 0#5, beds := [], banks := [] }).seqPass
    let lost := h.withdrawn f
    let bad := !found.fieldOk.getLsbD f || decide ((h.sequencers f pass).length < 4)
      || (h.bedMaps f).any (fun e => e.2.unrepairable)
    Fx.all [
      poisonField f,
      Fx.field f (fun _ => { Field.afterReset h f pass Field.reset with resets := 0 }),
      Fx.when (!lost.isEmpty) (raise (56 * f + 24) 2 0x0601 none f (lost.map (fun i => 2 ^ i)).sum 0),
      Fx.when bad (failField f)]

/-- A stack trains and is filled with poison, or fails (R565 step 6, R626, R377). -/
def bringStack (found : BringUp) (k : Nat) : Fx :=
  (Fx.memPoison (memKey 0 (k * 2 ^ 36) / 8) (memKey 0 ((k + 1) * 2 ^ 36) / 8)).andThen
    (Fx.stack k (fun x => { x with trained := found.stackOk.getLsbD k, failed := !found.stackOk.getLsbD k, corrected := 0, uncorrected := 0
                                   state := if x.state = 3 then 3 else if found.stackOk.getLsbD k then 0 else 2 }))

/-- Training that is in progress ends without a result: bring-up starts again (R568). -/
def stopTraining : Fx :=
  Fx.look fun s => Fx.each (s.linkIds.filter (fun i => (s.link i).state == 1)) (fun i => Fx.link i (fun l => { l with state := 0 }))

/-- Steps 3 to 7 of bring-up: boot ROM, firmware, fields, HBM, and the start of training on every link with signal. -/
def bringUpFrom3 (found : BringUp) : Fx :=
  stopTraining.andThen (if !found.boot.romOk then Fx.hub (fun h => { h with stage := 3 })
  else Fx.all [
    Fx.hub (Hub.booted found.boot),
    Fx.look fun s =>
      let fields := List.range (Grade.fields s.grade)
      if s.hub.noImage ≠ 0#3 then Fx.all [
        Fx.hub (fun h => { h with stage := 15 }),
        Fx.each fields (fun f => Fx.field f (fun g => { g with state := 3 }))]
      else Fx.all [
        Fx.hub (fun h => { h with stage := 7 }),
        Fx.each found.resets (fun r => Fx.hub (Hub.sees r.beds r.banks)),
        Fx.each fields (fun f => Fx.field f (fun g => { g with state := 0 })),
        Fx.each (List.range (Grade.hbmStacks s.grade)) (fun k => Fx.stack k (fun x => { x with state := 0 })),
        Fx.look fun t => Fx.when (decide (t.hub.cores < 4)) (raise 448 2 0x0801 none t.hub.cores 0 0),
        Fx.each fields (bringField found),
        Fx.each (List.range (Grade.hbmStacks s.grade)) (bringStack found),
        Fx.each s.linkIds (fun i => Fx.link i (fun l =>
          { l with state := if found.signal.getLsbD i then 1 else l.state })),
        checkBringUp]])

/-- Steps 1 and 2, then the rest: a feed at 40 V and good regulators; the reference, or the fallback oscillator, and PLLs that lock.
The default
MAC address is the one that the FRU data holds: where in it, the manual leaves open (log 7). -/
def bringUp (found : BringUp) : Fx :=
  Fx.look fun s =>
    Fx.when (found.powerGood && s.power.serving.isSome && s.power.atForty) (Fx.all [
      Fx.power (fun p => { p with external := found.refclk }),
      Fx.port (fun p => { p with mac := Config.defaultMac s.sideband.fruBytes }),
      if found.pllLock then bringUpFrom3 found else Fx.hub (fun h => { h with stage := 2 })])

/-- POWER_UP: from stage 1, or from a stage in which an earlier bring-up holds. -/
def execPowerUp (found : BringUp) (s : State) : Host.Outcome State Fault Refusal :=
  (withInBand (Fx.when (decide (s.hub.stage ≤ 3) && !s.hub.warm) (bringUp found))).outcome s

/-! ## Teardown and quarantine -/

/-- A deadline of `d` cycles that starts in cycle `start` has expired (R478). -/
def State.expired (s : State) (start d : Nat) : Bool := decide (start + d < s.now)

/-- Every engine that still holds work of a context is reset: its teardown's deadline has expired (R474, R478, R482). -/
def resetUnfinished (c : Nat) : Fx :=
  Fx.look fun s => Fx.each (List.range (Grade.fields s.grade)) (fun f => Fx.each ((List.range 20).filter (fun e => s.worksIn f e c)) (resetEngine f))

/-- TEARDOWN_DONE: every engine has finished its steps and every local write has landed (R468); the teardowns of a warm reset end with
it (R490). One that comes after the deadline finds the engines reset that still held work of the context (R474, R478; log 128). -/
def execTeardownDone (ctx : Nat) (s : State) : Host.Outcome State Fault Refusal :=
  (Fx.when (!s.hub.warm && (s.ctx ctx).state = .teardown)
    ((Fx.when (s.expired (s.ctx ctx).tearStart 200000) (resetUnfinished ctx)).andThen (endTeardown ctx))).outcome s

/-- TEARDOWN_TIMEOUT: the deadline passes and an engine that has not finished is reset (R474, R478, R482); a warm reset has no
teardown deadline (R490). -/
def execTeardownTimeout (ctx field engine : Nat) (s : State) : Host.Outcome State Fault Refusal :=
  (Fx.when ((s.ctx ctx).state = .teardown && !s.hub.warm && decide (field < Grade.fields s.grade)) ((Fx.setNow ((s.ctx ctx).tearStart + 200001)).andThen
    (resetEngine field engine))).outcome s

/-- QUARANTINE_END (R475, R478); a warm reset enters every slot into a new quarantine (R490). -/
def execQuarantineEnd (ctx : Nat) (s : State) : Host.Outcome State Fault Refusal :=
  (Fx.when ((s.ctx ctx).state = .quarantine && !s.hub.warm) ((Fx.setNow ((s.ctx ctx).quarStart + 25601)).andThen (endQuarantine ctx))).outcome s

/-! ## Hung engines and resets (R481 to R485) -/

/-- An engine reset of a field has missed its deadline: the field is fenced and reset (R483, R484). -/
def resetMissed (f : Nat) : Fx := withInBand (Fx.all [fenceField f, trainingWaits, checkSet])

/-- The cycle in which an engine's reset began, while it runs. -/
def State.engineReset? (s : State) (f e : Nat) : Option Nat :=
  (tableGet? (s.field f).engineResets e).filter (fun _ => decide (f < Grade.fields s.grade))

/-- ENGINE_RESET_DONE (R482): one that comes after the deadline is late (R478). -/
def execEngineResetDone (field engine : Nat) (s : State) : Host.Outcome State Fault Refusal :=
  (match s.engineReset? field engine with
   | some start =>
     if s.expired start 10000 then resetMissed field
     else Fx.field field (fun g => { g with engineResets := tableErase g.engineResets engine })
   | none => Fx.skip).outcome s

/-- ENGINE_RESET_TIMEOUT (R482, R478). -/
def execEngineResetTimeout (field engine : Nat) (s : State) : Host.Outcome State Fault Refusal :=
  (match s.engineReset? field engine with
   | some start => (Fx.setNow (start + 10001)).andThen (resetMissed field)
   | none => Fx.skip).outcome s

/-- A field in its reset, which recovery mode holds there (R575). -/
def State.resetting (s : State) (f : Nat) : Bool :=
  decide (f < Grade.fields s.grade) && (s.field f).state == 3 && s.hub.stage != 15

/-- What a reset finds in its own field. -/
def onlyField (f : Nat) (r : ResetCheck) : ResetCheck :=
  { r with beds := r.beds.filter (fun b => b.bed / 32 == f), banks := r.banks.filter (fun b => b / 1920 == f) }

/-- FIELD_RESET_DONE (R484): one that comes after the deadline finds the field failed (R485, R478). -/
def execFieldResetDone (field : Nat) (found : ResetCheck) (s : State) : Host.Outcome State Fault Refusal :=
  (withInBand (Fx.when (s.resetting field) (Fx.all [
    if s.expired (s.field field).resetStart 1000000 then failField field else finishFieldReset field (onlyField field found),
    checkWarm, checkSet]))).outcome s

/-- FIELD_RESET_TIMEOUT (R485, R478). -/
def execFieldResetTimeout (field : Nat) (s : State) : Host.Outcome State Fault Refusal :=
  (withInBand (Fx.when (s.resetting field) (Fx.all [
    Fx.setNow ((s.field field).resetStart + 1000001), failField field, checkWarm, checkSet]))).outcome s

/-! ## Field tests (R525 to R529) -/

/-- The field can be borrowed (R525). -/
def State.idle (s : State) (f : Nat) : Bool :=
  (s.field f).running.isNone && (s.field f).tileRows.all (fun r => r.state == .free)
    && s.ctxs.all (fun x => x.ops.all (fun o => !((groupFields (recGroup o.record)).contains f && recNoShrink o.record)))

/-- Cycles from a test's acceptance to its borrow, saturating in 32 bits. -/
def FieldTest.waited (t : FieldTest) : Nat := min (2 ^ 32 - 1) (t.borrowed.getD t.accepted - t.accepted)

/-- A queued test can begin (R525) on a field that works, also on one that an earlier test left borrowed (R527). -/
def State.canBorrow (s : State) (f : Nat) (t : FieldTest) : Bool := t.borrowed.isNone && s.idle f && decide ((s.field f).state ≤ 1)

/-- The deadline of a queued test has passed (R525). -/
def FieldTest.late (now : Nat) (t : FieldTest) : Bool := decide (t.deadline ≠ 0) && decide (t.accepted + t.deadline < now)

/-- The field is borrowed (R525). -/
def borrow (f : Nat) (t : FieldTest) : Fx :=
  Fx.look fun s =>
    let t := { t with borrowed := some s.now }
    (Fx.field f (fun g => { g with state := 1, test := some t })).andThen (raise 456 0 0x0A06 none f t.kind t.waited)

/-- Answer the FIELD_TEST that waits for a field. -/
def answerTest (f status : Nat) (result : List Byte) : Fx :=
  finishWaits (fun k => match k with
    | .fieldTest g => g == f
    | _ => false) status result

/-- A queued test does not run (R525). -/
def dropTest (f : Nat) : Fx := (Fx.field f (fun g => { g with test := none })).andThen (answerTest f stBusy [])

/-- FIELD_TEST_BORROW (R525): a test whose deadline has passed no longer runs. -/
def execFieldTestBorrow (field : Nat) (s : State) : Host.Outcome State Fault Refusal :=
  (match (s.field field).test with
   | some t =>
     if t.borrowed.isNone && t.late s.now then dropTest field
     else Fx.when (s.canBorrow field t) (borrow field t)
   | none => Fx.skip).outcome s

/-- FIELD_TEST_WAIT_TIMEOUT: the borrow has not come by the command's deadline (R525, R478); where the field can be borrowed before it,
the borrow comes first. -/
def execFieldTestWaitTimeout (field : Nat) (s : State) : Host.Outcome State Fault Refusal :=
  (match (s.field field).test with
   | some t => Fx.when (t.borrowed.isNone && decide (t.deadline ≠ 0))
       (if s.canBorrow field t && !t.late s.now then borrow field t
        else (Fx.setNow (t.accepted + t.deadline + 1)).andThen (dropTest field))
   | none => Fx.skip).outcome s

/-- Engines that a quick test touches return to their state after a field reset, with the counts that start there: array, basin, weir,
vector unit; the reservoir keeps its contents (R524, R527). -/
def Field.quickTested (g : Field) : Field :=
  { g with tileRows := List.replicate 256 TileRow.reset, running := none, shadow := none, stationary := none, shadowWords := [], cellWords := []
           passes := 0#32, stalls := 0#32, savedCount := 0#32, restoredCount := 0#32, test := none
           progress := g.progress.filter (fun e => !([0, 1, 2, 4].contains e.1)) }

/-- The engines that a test of a kind touches return to their state after a field reset: a full test touches the prism, the witness
engine and the sequencers too (R524, R527). -/
def Field.tested (kind : Nat) (g : Field) : Field :=
  if kind = 0 then g.quickTested
  else
    { g.quickTested with
      tilesRead := 0#32, tilesWritten := 0#32, requant := 0#32, badIndex := 0, comparisons := [], lastStarted := 15
      progress := g.progress.filter (fun e => !decide (e.1 < 7)) }

/-- What a test of a kind can find: a quick one reports no prism, witness engine or sequencer (R524, R528). -/
def coveredBy (kind : Nat) (r : TestResult) : TestResult :=
  if kind = 0 then { r with unitsFailed := r.unitsFailed &&& 0x0F#8, seqFail := 0#5 } else { r with unitsFailed := r.unitsFailed &&& 0x7F#8 }

/-- The record of R528. -/
def testRecord (g : Field) (f : Nat) (t : FieldTest) (cycles : Nat) (r : TestResult) : List Byte :=
  leBytes 1 f ++ leBytes 1 t.kind ++ leBytes 1 r.verdict ++ [r.unitsFailed] ++ leBytes 4 r.bedFail.toNat
    ++ leBytes 4 t.waited ++ leBytes 4 cycles ++ leBytes 1 r.seqFail.toNat ++ leBytes 7 0
    ++ ((List.range 32).map (fun b =>
      let current := (tableGet g.beds b BedMap.reset).word % 2 ^ 33
      leBytes 8 (if r.bedFail.getLsbD b then (tableGet r.maps b 0#64).toNat % 2 ^ 33 else current))).flatten

/-- Longest duration of a test kind (R524). -/
def testLimit (kind : Nat) : Nat := if kind = 0 then 200000 else 40000000

/-- A test exceeds its longest duration (R529). -/
def overrunTest (f : Nat) : Fx := withInBand (Fx.all [answerTest f stTimeout [], fenceField f, trainingWaits, checkSet])

/-- A test that ends in time (R527, R528, R530): its record, and the field back in service, or borrowed still. -/
def endTest (f start : Nat) (t : FieldTest) (found : TestResult) : Fx :=
  Fx.look fun s =>
    let r := coveredBy t.kind found
    let cycles := min (2 ^ 32 - 1) (s.now - start)
    let keep := decide (r.verdict ≠ 0) && t.onFail == 1
    Fx.all [
      Fx.hub (Hub.sees (r.beds.filter (fun b => b.bed / 32 == f)) []),
      Fx.field f (fun g => { g.tested t.kind with state := if keep then 1 else 0 }),
      raise 456 0 0x0A07 none f r.verdict cycles,
      answerTest f stOk (testRecord (s.field f) f t cycles r)]

/-- TEST_DONE: one that comes after the longest duration exceeds it (R524, R529). -/
def execTestDone (field : Nat) (found : TestResult) (s : State) : Host.Outcome State Fault Refusal :=
  (match (s.field field).test with
   | some t => match t.borrowed with
     | some start => Fx.when ((s.field field).state == 1)
         (if start + testLimit t.kind < s.now then overrunTest field else endTest field start t found)
     | none => Fx.skip
   | none => Fx.skip).outcome s

/-- FIELD_TEST_TIMEOUT: a test exceeds its longest duration (R529, R478). -/
def execFieldTestTimeout (field : Nat) (s : State) : Host.Outcome State Fault Refusal :=
  (match (s.field field).test with
   | some t => match t.borrowed with
     | some start => (Fx.setNow (start + testLimit t.kind + 1)).andThen (overrunTest field)
     | none => Fx.skip
   | none => Fx.skip).outcome s

end Sys2Proof.Machine
end

