-- ==== Sys2Proof/Machine/LinkEv.lean ====
section
/-! DEFINITION. Links (12 R387 to R415, R420, R421): training, lanes, flits and replay, credits, forwarding, residency, aborts. -/
namespace Sys2Proof.Machine

/-! ## Training and lanes -/

/-- LINK_TRAINING_DONE: the link is up or refused (R387); training in bring-up, a command or a warm reset may end with it. -/
def execLinkTrainingDone (link : Nat) (found : Training) (s : State) : Host.Outcome State Fault Refusal :=
  (Fx.when ((s.link link).state == 1)
    (let cause := refuseCause s.hub.node (s.link link) found
     withInBand (Fx.all [
       Fx.when (cause == 0) (returnBlocks link),
       Fx.link link (Link.afterTraining s.hub.node found),
       linkChange link (if cause = 0 then 5 else 3),
       trainingWaits, checkBringUp, checkWarm, checkSet]))).outcome s

/-- The link carries flits (R391: up or substituting). -/
def Link.carries (l : Link) : Bool := l.state == 2 || l.state == 5

/-- A link goes down (R390). -/
def linkGone (i : Nat) : Fx := withInBand (Fx.all [dropLink i 0, linkChange i 2, checkSet])

/-- LANE_SUBSTITUTE: the spare takes the lane's place, and the link is up again when the row ends (R389; log 24); with the
spare in use the link goes down (R390). -/
def execLaneSubstitute (link lane : Nat) (s : State) : Host.Outcome State Fault Refusal :=
  (Fx.when (s.link link).carries
    (if (s.link link).spareUsed then linkGone link
     else (Fx.link link (fun l => { l with state := 2, spareUsed := true, spareFor := lane
                                           substitutions := satAdd 255 l.substitutions 1 })).andThen (linkChange link 1))).outcome s

/-- LINK_DOWN: a link loses a second lane (R390), or its cable is unmated (R610). -/
def execLinkDown (link : Nat) (s : State) : Host.Outcome State Fault Refusal := (Fx.when (s.link link).carries (linkGone link)).outcome s

/-- PARTNER_TRAINING_START: this side trains because its partner starts (R566). A fenced or refused link waits for its own
host (R387, R392; log 82). -/
def execPartnerTrainingStart (link : Nat) (s : State) : Host.Outcome State Fault Refusal :=
  (Fx.when (decide (link < Grade.links s.grade) && decide (7 ≤ s.hub.stage) && decide (s.hub.stage ≤ 9)
      && ((s.link link).carries || (s.link link).state == 0))
    (withInBand ((startTraining link).andThen checkSet))).outcome s

/-! ## Aborts (R421) -/

/-- The module has seen an abort's job, origin and serial within the last 256 µs. -/
def State.seenAbort (s : State) (r : AbortRecord) : Bool :=
  s.hub.aborts.any (fun e => e.1.job == r.job && e.1.origin == r.origin && e.1.serial == r.serial && decide (s.now ≤ e.2 + 25600))

/-- An abort record arrives: it is seen now; a new one goes on to every other up link, and tears down the job's contexts. -/
def receiveAbort (i : Nat) (r : AbortRecord) : Fx :=
  Fx.look fun s => Fx.when (r.job != 0#16) ((noteAbort r).andThen
    (Fx.when (!s.seenAbort r) ((sendAbort r (some i)).andThen (tearJob r.job.toNat r.cause.toNat))))

/-- ABORT_RECORD. -/
def execAbortRecord (link : Nat) (record : AbortRecord) (s : State) : Host.Outcome State Fault Refusal :=
  (receiveAbort link record).outcome s

/-! ## Discards (R401, R402, R413, R415, R503) -/

/-- A discard that aborts the packet's job (R413, R415). -/
def discardAbort (i : Nat) (p : Packet) (code : Nat) : Fx := (discardEvent i p code).andThen (abortJob p.job.toNat stAborted)

/-- What a link to a module without a node ID carries: link management, a relayed TAKEOVER and its reply (R503). -/
def blankCarries (p : Packet) : Bool :=
  p.ptype == 0x30#8 || (p.job == 0#16 && (p.ptype == 0x13#8 || p.ptype == 0x05#8) && field p.payload 2 2 == 0x0607)

/-- The restriction of R503 is in force on a link. -/
def State.blankLink (s : State) (i : Nat) : Bool := s.hub.node == 0xFFFF#16 || (s.link i).blank

/-- A packet arrives whole: it is checked, and waits in a receive queue (R401, R402, R406, R413); one that the ditch cannot carry to its
link has no path (R487). -/
def arrive (i : Nat) (p : Packet) : Fx :=
  Fx.look fun s =>
    let vl := p.route.toNat / 4 % 4
    let gone := fun (fx : Fx) => ((storeUnits i vl p.units).andThen (returnUnits i vl p.units)).andThen fx
    if !p.parityOk then gone (Fx.all [discardEvent i p 0, parityEvent (linkSource i) 4 p.badByte 0 none, Fx.when p.jobParityOk (abortJob p.job.toNat stAborted)])
    else if (vlOfType p.ptype.toNat).isNone then gone (discardEvent i p 1)
    else if s.blankLink i && !blankCarries p then gone (discardEvent i p 6)
    else if !s.isHere p && (s.outputOf p).isNone then gone (discardAbort i p 4)
    -- the bridges of a fenced field clamp (R419)
    else if !s.isHere p && (s.outputOf p).any (fun k => (s.link k).state == 4) then gone Fx.skip
    else if !s.isHere p && (s.outputOf p).any (fun k => !s.reaches i p.vl k) then gone (discardAbort i p 4)
    else (storeUnits i p.vl p.units).andThen (Fx.link i (fun l => { l with rx := l.rx ++ [(p.vl, p)] }))

/-! ## Flits (R394 to R398) -/

/-- Send the unacknowledged flits again, with the acknowledgement and CRC of the moment: one replay event (R397, R393). -/
def replayAll (i : Nat) : Fx :=
  Fx.look fun s => Fx.all [
    Fx.each (s.link i).replay (fun f => Fx.emit (.flit i ((s.link i).wire f))),
    Fx.link i (fun l => { l with replays := satAdd 65535 l.replays 1 }),
    linkChange i 0]

/-- Acknowledgement fields of the partner's flit (R396, R397): a repeated `nack` is one replay event. -/
def takeAck (i ack : Nat) (nack : Bool) : Fx :=
  Fx.look fun s =>
    let l := s.link i
    match l.replay.findIdx? (fun f => f.seq.toNat == ack) with
    | some n =>
      if nack then
        (Fx.link i (fun l => { l with replay := l.replay.drop n, nacked := some (BitVec.ofNat 12 ack) })).andThen
          (Fx.when (l.nacked != some (BitVec.ofNat 12 ack)) (replayAll i))
      else Fx.link i (fun l => { l with replay := l.replay.drop (n + 1), nacked := none })
    | none => Fx.when (nack && l.txSeq.toNat == ack) (Fx.link i (fun l => { l with replay := [], nacked := none }))

/-- A packet cut from a byte stream; zero bytes where a header would start fill the body's rest (log 25). -/
def takePackets : Nat → List Byte → List Packet × List Byte
  | 0, bs => ([], bs)
  | n + 1, bs =>
    if allZero (bs.take 32) then ([], [])
    else if bs.length < 32 || bs.length < 32 + field bs 24 2 then ([], bs)
    else
      let len := field bs 24 2
      let (ps, rest) := takePackets n (bs.drop (32 + len))
      (Packet.parse (bs.take 32) (bytesAt bs 32 len) :: ps, rest)

/-- The bytes of a data flit that continue or start packets (R394). -/
def Link.stream (l : Link) (flit : List Byte) : List Byte :=
  let body := flit.drop 16
  if !l.rxPart.isEmpty then l.rxPart ++ body
  else if field flit 9 1 = 0xFF then [] else body.drop (16 * field flit 9 1)

/-- The abort records of a body (R420). -/
def abortsOf (body : List Byte) : List AbortRecord :=
  (List.range 15).map (fun k =>
    let w := fun off => BitVec.ofNat 16 (field body (16 * k + off) 2)
    { job := w 0, origin := w 2, serial := w 4, cause := w 6 })

/-- The body of an accepted flit. -/
def takeBody (i ftype : Nat) (flit : List Byte) : Fx :=
  Fx.look fun s =>
    match ftype with
    | 0 =>
      let (ps, rest) := takePackets 64 ((s.link i).stream flit)
      (Fx.link i (fun l => { l with rxPart := rest })).andThen (Fx.each ps (arrive i))
    | 2 => Fx.each (abortsOf (flit.drop 16)) (receiveAbort i)
    | _ => Fx.skip

/-- Credits and a grant that an accepted flit brings to the sender (R394, R395, R409); units of VL3 refill the escalation
reserve first (R446). -/
def Link.creditsFrom (flit : List Byte) (l : Link) : Link :=
  let pool := field flit 8 1
  { l with reserveFree := min 327 (l.reserveFree + field flit 7 1), vls := (l.vls.zip (List.range 4)).map (fun p =>
      { p.1 with credits := p.1.credits + field flit (4 + p.2) 1 + (if bitOf pool 2 && pool % 4 = p.2 then 1024 else 0) }) }

/-- A sequenced flit with the expected number is accepted (R395 to R397). -/
def acceptFlit (i : Nat) (flit : List Byte) : Fx :=
  let seq := BitVec.ofNat 12 (field flit 0 2)
  let ack := field flit 2 2
  Fx.all [
    Fx.link i (fun l => Link.creditsFrom flit { l with rxExpect := seq + 1#12, rxLast := some seq, nack := false }),
    Fx.when (bitOf ack 13) (takeAck i (ack % 4096) (bitOf ack 12)),
    flushHeld i,
    takeBody i (bitsOf (field flit 0 2) 12 2) flit]

/-- The flit slot after a received flit carries its acknowledgement (R396, R397): an idle flit does, unless a sequenced one went
out already. -/
def answerFlit (i : Nat) (before : BitVec 12) : Fx :=
  Fx.look fun s => Fx.when ((s.link i).carries && (s.link i).txSeq == before) (sendIdle i)

/-- FLIT_RECEIVE: a CRC failure asks for a replay, and until the expected flit comes every flit is discarded (R397). -/
def execFlitReceive (link : Nat) (flit : List Byte) (fecUncorrectable : Nat) (s : State) : Host.Outcome State Fault Refusal :=
  let l := s.link link
  let ack := field flit 2 2
  (Fx.when l.carries ((Fx.link link (fun l => { l with fecUncorr := satAdd 65535 l.fecUncorr fecUncorrectable })).andThen
    ((if !flitCrcOk flit then Fx.link link (fun l => { l with crcFail := satAdd 65535 l.crcFail 1, nack := true })
      else if bitsOf (field flit 0 2) 12 2 != 1 && field flit 0 2 % 4096 == l.rxExpect.toNat then acceptFlit link flit
      else Fx.when (!l.nack && bitOf ack 13) ((takeAck link (ack % 4096) (bitOf ack 12)).andThen (flushHeld link))).andThen
      (answerFlit link l.txSeq)))).outcome s

/-- REPLAY_TIMEOUT: no acknowledgement of the oldest flit in time (R398). -/
def execReplayTimeout (link : Nat) (s : State) : Host.Outcome State Fault Refusal :=
  (Fx.when ((s.link link).carries && !(s.link link).replay.isEmpty) (replayAll link)).outcome s

/-! ## Forwarding (R408, R413 to R415) -/

/-- The next packet of the block that leaves on a link, whose credits are taken (R446). -/
def Link.paid? (l : Link) : Option Packet := l.leaving.bind (fun b => b.packets.head?)

/-- The packet that stands first for virtual lane `v` at input `j` of output link `i`: a block of the link's sluice goes in by its field's
port. -/
def State.headAt (s : State) (i v j : Nat) : Option Packet :=
  if j = 32 + i / 4 && v = 3 && (s.link i).paid?.isSome then (s.link i).paid?
  else if j < 32 then ((s.link j).rx.find? (fun (q : Nat × Packet) => q.1 == v)).bind (fun q =>
    if !s.isHere q.2 && s.outputOf q.2 == some i then some q.2 else none)
  else ((s.link i).inject.find? (fun (q : Nat × Packet) => q.1 == j && q.2.vl == v)).map Prod.snd

/-- Credits of a virtual lane for ordinary traffic: the escalation reserve is set aside from VL3 (R445). -/
def Link.ordinary (l : Link) (v : Nat) : Nat := (l.vls.getD v (Vl.reset 0)).credits - (if v = 3 then l.reserveFree else 0)

/-- The packet of an input is the next of the block whose credits are taken. -/
def Link.pays (l : Link) (i v j : Nat) (p : Packet) : Bool := j = 32 + i / 4 && v = 3 && l.paid? == some p

/-- The input and packet that virtual lane `v` of an output would send: the next input whose packet has its credits. -/
def State.offer (s : State) (i v : Nat) : Option (Nat × Packet) :=
  let l := s.link i
  let ins := (List.range 41).map (fun k => (l.nextIn.getD v 0 + k) % 41)
  ins.findSome? (fun j => (s.headAt i v j).bind (fun p =>
    if l.pays i v j p || p.units ≤ l.ordinary v then some (j, p) else none))

/-- The virtual lanes of an output in the order of R414. -/
def Link.vlOrder (l : Link) : List Nat := 0 :: (List.range 3).map (fun k => (l.nextVl - 1 + k) % 3 + 1)

/-- The arbitration pointers after a grant to input `j` of lane `v`. -/
def Link.granted (v j : Nat) (l : Link) : Link :=
  { l with nextIn := l.nextIn.set v ((j + 1) % 41), nextVl := if v = 0 then l.nextVl else v % 3 + 1 }

/-- Remove a packet from its input. -/
def leaveInput (i j : Nat) (p : Packet) : Fx :=
  if j < 32 then takePacket j p else Fx.link i (fun l => { l with inject := l.inject.erase (j, p) })

/-- The bytes of a link's packets that fill no body yet, with those of one more packet behind them (R400). -/
def Link.packed (l : Link) (p : Packet) : List Byte := l.txPart ++ p.bytes

/-- The bodies that a packet fills (R400). -/
def Link.fullBodies (l : Link) (p : Packet) : List (List Byte) := (flitBodies 4 (l.packed p)).take ((l.packed p).length / 240)

/-- The first header of the body that a packet comes to stand in (R394). -/
def Link.firstWith (l : Link) : Byte := if l.txFirst = 0xFF#8 then BitVec.ofNat 8 (l.txPart.length / 16) else l.txFirst

/-- The link's part of a body behind a packet. -/
def Link.sent (p : Packet) (l : Link) : Link :=
  let n := (l.packed p).length / 240
  { l with txPart := (l.packed p).drop (240 * n), txFirst := if n = 0 then l.firstWith else 0xFF#8 }

/-- A packet follows the one before it, end to end (R400): every body that it fills leaves as a flit, and the rest of it waits for the
next packet, or for a slot without one (log 25). -/
def sendPacketFlits (i : Nat) (p : Packet) : Fx :=
  Fx.look fun s =>
    let bodies := (s.link i).fullBodies p
    (Fx.each (bodies.zip (List.range bodies.length)) (fun b => pushFlit i 0 (if b.2 = 0 then (s.link i).firstWith else 0xFF#8) b.1)).andThen
      (Fx.link i (Link.sent p))

/-- RESIDENCY_TIMEOUT: the oldest packet of a virtual lane has stayed 2 µs (R415); a reduction packet for this module never does,
because its sluice takes it in at once (R425). -/
def execResidencyTimeout (link vl : Nat) (s : State) : Host.Outcome State Fault Refusal :=
  (match (s.link link).rx.find? (fun (q : Nat × Packet) => q.1 == vl && !(q.1 == 3 && s.isHere q.2)) with
   | some (_, p) => (takePacket link p).andThen (discardAbort link p 3)
   | none => Fx.skip).outcome s

end Sys2Proof.Machine
end

