-- ==== Sys2Proof/Machine/Sluice.lean ====
section
/-! DEFINITION. Reduction blocks (13 R431 to R443): their forms on the wire, entering a reduction, adding in flight. -/
namespace Sys2Proof.Machine

/-! ## Words of a block -/

/-- Order of the forms by width: zero, 32-bit slice, 64-bit slice, L128. -/
def sliceWidth (form : Nat) : Nat := if form = 1 then 32 else 64

/-- A FIN word that is zero and clean. -/
def L128.isZero (w : L128) : Bool := w.tag = .fin && w.t = 0 && !w.poison

/-- The finite words of a block. -/
def finWords (ws : List L128) : List L128 := ws.filter (fun w => w.tag = .fin && !w.poison)

/-- Trailing zeros of a non-zero integer. -/
def trailingZeros (t : Int) : Nat := ((List.range 132).find? (fun i => t.natAbs / 2 ^ i % 2 = 1)).getD 128

/-- The least count of trailing zeros among the non-zero FIN words (R437). -/
def leastZeros (ws : List L128) : Nat :=
  (finWords ws).foldl (fun m w => if w.t = 0 then m else min m (trailingZeros w.t)) 128

/-- Every finite word fits a slice of width w and base b (R437). -/
def fitsSlice (ws : List L128) (w b : Nat) : Bool :=
  (finWords ws).all (fun x => decide (-(2 ^ (b + w - 1) : Int) ≤ x.t) && decide (x.t ≤ 2 ^ (b + w - 1) - 1))

/-- The narrowest form from `least` on that holds the words, with its base (R437, R440): `b` gives the base of a width. -/
def chooseForm (ws : List L128) (least : Nat) (b : Nat → Nat) : Nat × Nat :=
  if least = 0 && ws.all L128.isZero then (0, 0)
  else if least ≤ 1 && fitsSlice ws 32 (b 32) then (1, b 32)
  else if least ≤ 2 && fitsSlice ws 64 (b 64) then (2, b 64)
  else (3, 0)

/-- The block residue (R435). -/
def blockResidue (ws : List L128) : Nat := res255 ((finWords ws).map L128.t).sum

/-- A word rounded to a multiple of 2^floor, and whether it changed (R438). -/
def lossyWord (floor : Nat) (w : L128) : L128 × Bool :=
  if w.tag = .fin && !w.poison then
    let t := rneInt ((w.t : Rat) / ((2 ^ floor : Nat) : Rat)) * (2 ^ floor : Nat)
    (writeSum t, t != w.t)
  else (w, false)

/-- How an entry slices its blocks: compact-lossy, starting form, floor (R438, R450). -/
structure Slicing where
  lossy : Bool
  width : Nat
  floor : Nat
  deriving DecidableEq, Repr

/-- The slicing of a collective. -/
def CollParams.slicing (p : CollParams) : Slicing := { lossy := p.lossy, width := p.width, floor := p.floor }

/-- An empty block of a key. -/
def RedBlock.blank (job redNo : U16) (index : U32) (anchor : Int) : RedBlock :=
  { job := job, redNo := redNo, index := index, anchor := anchor, form := 0, tags := false, lost := false, poison := false
    reserve := false, stats := false, base := 0, count := 0, residue := 0, shared := 0#7, words := [], slot := [] }

/-- A contribution as a block of count 1 (R437, R438). -/
def RedBlock.contribution (k : RedBlock) (z : Slicing) (shared : BitVec 7) (ws : List L128) : RedBlock :=
  let rs := if z.lossy then ws.map (lossyWord z.floor) else ws.map (fun w => (w, false))
  let ws := rs.map Prod.fst
  let (f, b) := if z.lossy then chooseForm ws z.width (fun _ => z.floor) else chooseForm ws 0 (fun w => min (leastZeros ws) (128 - w))
  { k with form := f, base := b, tags := ws.any (fun w => w.tag ≠ .fin || w.poison), lost := rs.any Prod.snd, count := 1
           residue := blockResidue ws, shared := shared, words := ws }

/-- Two blocks of one key and index. -/
def RedBlock.sameKey (a b : RedBlock) : Bool := a.job == b.job && a.redNo == b.redNo && a.index == b.index

/-- A poisoned block (R443): zero form. -/
def RedBlock.poisoned (b : RedBlock) : RedBlock :=
  { b with form := 0, base := 0, tags := false, poison := true, stats := false, residue := 0, words := [], slot := [] }

/-- The words of a block; a zero form holds zeros. -/
def RedBlock.ws (b : RedBlock) : List L128 := if b.words.isEmpty then List.replicate 1024 L128.zero else b.words

/-- The base a form offers to a sum (R440): a zero form counts as base 128. -/
def RedBlock.sumBase (b : RedBlock) : Nat := if b.form = 0 then 128 else b.base

/-- The sum of two blocks (R439, R440). -/
def RedBlock.add (z : Slicing) (a b : RedBlock) : RedBlock :=
  let ws := (a.ws.zip b.ws).map (fun p => p.1.add p.2)
  let least := max a.form b.form
  let (f, base) := if z.lossy then chooseForm ws least (fun _ => z.floor)
    else chooseForm ws least (fun w => min (min a.sumBase b.sumBase) (128 - w))
  { a with form := f, base := base, tags := ws.any (fun w => w.tag ≠ .fin || w.poison), lost := a.lost || b.lost
           poison := a.poison || b.poison, count := a.count + b.count, residue := blockResidue ws, shared := a.shared ||| b.shared
           words := ws }

/-- The block residues of two operands agree with their sum's (R441): over the elements that are FIN in all three. -/
def residuesAgree (a b sum : RedBlock) : Bool :=
  let fin := fun (w : L128) => w.tag = .fin && !w.poison
  let rows := a.ws.zip (b.ws.zip sum.ws)
  let both := rows.filter (fun r => fin r.1 && fin r.2.1 && fin r.2.2)
  let away := rows.filter (fun r => fin r.1 && !(fin r.2.1 && fin r.2.2))
  let got := (a.residue : Int) - ((away.map (fun r => r.1.t)).sum) + ((both.map (fun r => r.2.1.t)).sum)
  res255 got = res255 ((both.map (fun r => r.2.2.t)).sum)

/-! ## Byte forms (R432 to R434) -/

/-- The nibbles of 1,024 tags (R433). -/
def tagNibbles : List L128 → List Byte
  | a :: b :: t =>
    let n := fun (w : L128) => Tag.code w.tag + 8 * b2n w.poison
    BitVec.ofNat 8 (n a + 16 * n b) :: tagNibbles t
  | _ => []

/-- A block's payload. -/
def RedBlock.payload (b : RedBlock) : List Byte :=
  match b.form with
  | 0 => []
  | 3 => l128Payload b.ws
  | 4 => b.slot
  | f =>
    let w := sliceWidth f
    (b.ws.map (fun x => leBytes (w / 8) (lowBits w (if x.tag = .fin && !x.poison then x.t / 2 ^ b.base else 0)))).flatten
      ++ (if b.tags then tagNibbles b.ws else [])

/-- A block's 64-byte header. -/
def RedBlock.header (b : RedBlock) : List Byte :=
  leBytes 2 b.job.toNat ++ leBytes 2 b.redNo.toNat ++ leBytes 4 b.index.toNat ++ leBytes 2 (lowBits 16 b.anchor)
    ++ leBytes 1 (b.form + 8 * b2n b.tags + 16 * b2n b.lost + 32 * b2n b.poison + 64 * b2n b.reserve + 128 * b2n b.stats)
    ++ leBytes 1 b.base ++ leBytes 2 b.count ++ leBytes 1 b.residue ++ leBytes 1 b.shared.toNat ++ List.replicate 48 0#8

/-- The seal of a block (R434). -/
def blockSeal (header payload : List Byte) : Nat := (crc32c (header ++ payload)).toNat

/-- The trailer of a block that leaves: a valid seal and a good verdict (R434, R443). -/
def RedBlock.trailer (b : RedBlock) : List Byte := leBytes 4 (blockSeal b.header b.payload) ++ List.replicate 28 0#8

/-- A word of a slice with its nibble. -/
def sliceWord (w base bits nibble : Nat) : L128 :=
  if bitOf nibble 3 then L128.poisoned
  else if nibble % 8 = 0 then L128.ofInt (signedOf w bits * 2 ^ base)
  else L128.ofParts 0 (nibble % 8) 0

/-- The words of a payload. -/
def blockWords (form base : Nat) (tags : Bool) (payload : List Byte) : List L128 :=
  match form with
  | 3 => (unpackWords payload).toList
  | 1 | 2 =>
    let w := sliceWidth form
    let nibs := ((payload.drop (128 * w)).map (fun b => [b.toNat % 16, b.toNat / 16])).flatten
    let ns := if tags then nibs else List.replicate 1024 0
    ((chunks (w / 8) 1024 payload).zip ns).map (fun p => sliceWord w base (leNat p.1) p.2)
  | _ => []

/-- A block as it arrives. -/
def RedBlock.parse (h payload : List Byte) : RedBlock :=
  let f := field h 10 1
  { job := BitVec.ofNat 16 (field h 0 2), redNo := BitVec.ofNat 16 (field h 2 2), index := BitVec.ofNat 32 (field h 4 4)
    anchor := fieldS h 8 2, form := f % 8, tags := bitOf f 3, lost := bitOf f 4, poison := bitOf f 5, reserve := bitOf f 6
    stats := bitOf f 7, base := field h 11 1, count := field h 12 2, residue := field h 14 1
    shared := BitVec.ofNat 7 (field h 15 1), words := blockWords (f % 8) (field h 11 1) (bitOf f 3) payload
    slot := if f % 8 = 4 then payload else [] }

/-- The packets of a block: type, chunk and payload (R431). -/
def RedBlock.parts (b : RedBlock) : List (Nat × Nat × List Byte) :=
  let ds := cut512 64 0 b.payload
  [(0x20, 0, b.header)] ++ (ds.zip (List.range ds.length)).map (fun d => (0x21, d.2, d.1.2)) ++ [(0x22, 0, b.trailer)]

/-- The packets of a block to a partner. -/
def RedBlock.packets (b : RedBlock) (own ctx gen dst : Nat) : List Packet :=
  b.parts.map (fun p => Packet.request p.1 dst own b.job.toNat ctx gen 0 (b.redNo.toNat + 65536 * b.index.toNat) p.2.1 p.2.2)

/-- Credit units of a block (R433). -/
def RedBlock.units (b : RedBlock) : Nat := (b.parts.map (fun p => ceilDiv (32 + p.2.2.length) 64)).sum

/-- The working buffer that a sluice forms another sum in: one of three, or, for a block on the escalation reserve, the kept one
(R426, R447). -/
def Link.bufferFor (l : Link) (reserve : Bool) : Option Bool :=
  if l.holds.countP (fun h => h.buffer == some false) < 3 then some false
  else if reserve && !l.holds.any (fun h => h.buffer == some true) then some true
  else none

/-- Return the receive slots of blocks that have left (R408, R425). -/
def returnAll (units : List (Nat × Nat)) : Fx := Fx.each units (fun u => returnUnits u.1 3 u.2)

/-- The index of a flags-only block (R432). -/
def flagsOnly : U32 := 0xFFFFFFFF#32

/-- The narrowest exact form of finished words, as ALL_REDUCE sends an L128 result on (R452). -/
def RedBlock.narrow (b : RedBlock) : RedBlock :=
  let (f, base) := chooseForm b.ws 0 (fun w => min (leastZeros b.ws) (128 - w))
  { b with form := f, base := base, residue := blockResidue b.ws }

/-- The block of a stored tile (R433, R452). -/
def RedBlock.stored (k : RedBlock) (count : Nat) (shared : BitVec 7) (slot : List Byte) (stats : Option StatRec) : RedBlock :=
  { k with form := 4, stats := stats.isSome, count := count, shared := shared
           slot := slot ++ (match stats with
             | some d => d.bytes
             | none => []) }

end Sys2Proof.Machine
end

