-- ==== Sys2Proof/Machine/Collective.lean ====
section
/-! DEFINITION. Collectives (13 R425 to R458): the parts of a member, its start, blocks that arrive, leave and are delivered. -/
namespace Sys2Proof.Machine

/-! ## A member's part (R450 to R453) -/

/-- A running collective of a context as its rules see it: parameters, view and tiles of in0, run. -/
structure Part where
  c : Nat
  o : Op
  p : CollParams
  src : Desc
  out : Desc
  b : Nat
  u : CollRun

/-- The part of a running collective. -/
def State.part? (s : State) (c : Nat) (seq : U32) : Option Part :=
  (s.op? c seq).bind (fun o => o.coll.bind (fun u =>
    if o.phase = .running && o.status = 0#16 then
      let x := (s.ctx c).asIssued o
      let a := x.desc (recIn o.record 0)
      some { c := c, o := o, p := collOf o.record, src := a, out := x.desc (recOut o.record), b := a.tileCount, u := u }
    else none))

/-- Reduces: REDUCE_SCATTER, ALL_REDUCE, REDUCE. -/
def CollParams.reduces (p : CollParams) : Bool := p.op ≤ 0x5002

/-- The previous rank of a ring. -/
def CollParams.prev (p : CollParams) : Nat := (p.rank + p.members - 1) % p.members

/-- A rank whose chunk holds no block (R449, R451). -/
def CollParams.empty (p : CollParams) (b r : Nat) : Bool := let (lo, hi) := chunkRange b p.members r; decide (hi ≤ lo)

/-- Flags-only blocks belong to `share_flags` reductions by chunks (R449). -/
def CollParams.flagged (p : CollParams) : Bool := p.share && (p.op = 0x5000 || p.op = 0x5001)

/-- Ranks with an empty chunk that get a flags-only block. -/
def CollParams.empties (p : CollParams) (b : Nat) : List Nat :=
  if p.flagged then (List.range p.members).filter (p.empty b) else []

/-- The link whose sluice adds for a stripe (R452, R453). -/
def CollParams.adder (p : CollParams) (st : Nat × Nat) : Nat := if p.tree then st.1 else st.2

/-- The adding links of a collective. -/
def CollParams.adders (p : CollParams) : List Nat := (p.stripes.map p.adder).eraseDups

/-- The stripe of a block (R451); flags-only blocks take stripe 0 (log 32). -/
def CollParams.stripe (p : CollParams) (b : Nat) (index : U32) : Nat × Nat :=
  let i := index.toNat
  let j := if index = flagsOnly then 0
    else if p.op = 0x5000 || p.op = 0x5001 then i % chunkSize b p.members
    else if p.op = 0x5003 then i % b
    else i
  p.stripes.getD (j % p.stripes.length) (0, 0)

/-! ### The tree (R453) -/

/-- The top of a tree. -/
def CollParams.top (p : CollParams) : Nat := if p.op = 0x5002 || p.op = 0x5004 then p.root else 0

/-- The leader of a group. -/
def CollParams.leader (p : CollParams) (g : Nat) : Nat := if p.top / p.group1 = g then p.top else g * p.group1

/-- Members of the own group but the own rank. -/
def CollParams.fellows (p : CollParams) : List Nat :=
  ((List.range p.group1).map (fun i => p.rank / p.group1 * p.group1 + i)).filter (fun r => r ≠ p.rank)

/-- Leaders of the other groups. -/
def CollParams.otherLeaders (p : CollParams) : List Nat :=
  ((List.range (p.members / p.group1)).filter (fun g => g ≠ p.rank / p.group1)).map p.leader

/-- The own rank leads its group. -/
def CollParams.leads (p : CollParams) : Bool := p.leader (p.rank / p.group1) = p.rank

/-- Where a rank sends upward: its leader, a leader to the top, the top nowhere. -/
def CollParams.parent? (p : CollParams) : Option Nat :=
  if p.rank = p.top then none else if p.leads then some p.top else some (p.leader (p.rank / p.group1))

/-- Who sends upward to the own rank, and whom it sends to on the way down. -/
def CollParams.children (p : CollParams) : List Nat :=
  if p.rank = p.top then p.otherLeaders ++ p.fellows else if p.leads then p.fellows else []

/-- Contributions that a rank's sum holds when it is whole. -/
def CollParams.wanted (p : CollParams) : Nat := if p.rank = p.top then p.members else p.group1

/-- The own rank sums the blocks of others. -/
def CollParams.sums (p : CollParams) : Bool := p.rank = p.top || (p.leads && 1 < p.group1)

/-- The node of a rank in a tree. -/
def CollParams.node (p : CollParams) (r : Nat) : U16 := BitVec.ofNat 16 (p.node0 + r)

/-! ### Counts -/

/-- Local contributions that an adding link adds over the whole reduction (R427). -/
def CollParams.expected (p : CollParams) (b link : Nat) : Nat :=
  let on := fun (i : Nat) => p.adder (p.stripe b (BitVec.ofNat 32 i)) = link
  if !p.reduces then 0
  else if p.tree then (if p.sums then (List.range b).countP on else 0)
  else if p.op = 0x5002 then (if p.rank = (p.root + 1) % p.members then 0 else (List.range b).countP on)
  else (List.range b).countP (fun i => on i && i / chunkSize b p.members ≠ p.prev)

/-- Indices of the blocks of ranks that gather (R452, R453). -/
def gatherIndices (b : Nat) (ranks : List Nat) : List U32 :=
  (ranks.map (fun r => (List.range b).map (fun j => BitVec.ofNat 32 (r * b + j)))).flatten

/-- Indices of the blocks of a chunk, and of the flags-only block in place of none (R449, R451). -/
def CollParams.chunkIndices (p : CollParams) (b r : Nat) : List U32 :=
  let (lo, hi) := chunkRange b p.members r
  ((List.range hi).drop lo).map (BitVec.ofNat 32) ++ (if p.flagged && p.empty b r then [flagsOnly] else [])

/-- Blocks that a member delivers (R454, R449). -/
def CollParams.delivered (p : CollParams) (b : Nat) : List U32 :=
  let all := (List.range b).map (BitVec.ofNat 32)
  match p.op with
  | 0x5000 => p.chunkIndices b p.rank
  | 0x5001 => all ++ (if p.flagged && p.empty b p.rank then [flagsOnly] else [])
  | 0x5002 => if p.rank = p.root then all else []
  | 0x5003 => gatherIndices b ((List.range p.members).filter (fun r => decide (r ≠ p.rank) || (p.tree && decide (p.rank ≠ p.top))))
  | _ => if p.rank = p.root then [] else all

/-- How many blocks a member delivers, in all and through one adding link. -/
def CollParams.deliveries (p : CollParams) (b : Nat) : Nat := (p.delivered b).length
def CollParams.deliveriesOn (p : CollParams) (b link : Nat) : Nat := (p.delivered b).countP (fun i => p.adder (p.stripe b i) = link)

/-- Flags-only blocks that a member passes on or sums. -/
def CollParams.passes (p : CollParams) (b : Nat) : Nat :=
  let l := p.empties b
  if p.tree then b2n (!l.isEmpty && p.sums) else (l.filter (fun r => r ≠ p.rank)).length

/-- Blocks that reach a member of a ring from the one before it (R452). -/
def CollParams.fromPrev (p : CollParams) (b : Nat) : List U32 :=
  let all := (List.range b).map (BitVec.ofNat 32)
  let flags := if (p.empties b).isEmpty then [] else [flagsOnly]
  match p.op with
  | 0x5000 => all.filter (fun i => decide (i.toNat / chunkSize b p.members ≠ p.prev)) ++ flags
  | 0x5001 => all ++ flags
  | 0x5002 => if p.rank = (p.root + 1) % p.members then [] else all
  | 0x5003 => gatherIndices b ((List.range p.members).filter (fun r => r ≠ p.rank))
  | _ => if p.rank = p.root then [] else all

/-- Ranks whose blocks a child sends up in an ALL_GATHER (R453). -/
def CollParams.gathers (p : CollParams) (r : Nat) : List Nat :=
  if p.rank = p.top && r / p.group1 ≠ p.rank / p.group1 then (List.range p.group1).map (fun i => r / p.group1 * p.group1 + i) else [r]

/-- Blocks that reach a member of a tree, by the rank that sends them (R453). -/
def CollParams.incoming (p : CollParams) (b : Nat) : List (Nat × List U32) :=
  let all := (List.range b).map (BitVec.ofNat 32)
  let flags := if (p.empties b).isEmpty then [] else [flagsOnly]
  let mine := if p.flagged && p.empty b p.rank then [flagsOnly] else []
  let up := if p.reduces then p.children.map (fun r => (r, all ++ flags))
    else if p.op = 0x5003 then p.children.map (fun r => (r, gatherIndices b (p.gathers r))) else []
  let down := match p.parent? with
    | none => []
    | some q => match p.op with
      | 0x5000 => [(p.top, p.chunkIndices b p.rank)]
      | 0x5001 => [(q, all), (p.top, mine)]
      | 0x5002 => []
      | 0x5003 => [(q, gatherIndices b (List.range p.members))]
      | _ => [(q, all)]
  up ++ down

/-- Ranks that a member of a tree sends blocks to (R453). -/
def CollParams.targets (p : CollParams) (b : Nat) : List Nat :=
  let up := if p.reduces || p.op = 0x5003 then p.parent?.toList else []
  let down := match p.op with
    | 0x5000 => if p.rank = p.top then (List.range p.members).filter (fun r => r ≠ p.rank && !(p.chunkIndices b r).isEmpty) else []
    | 0x5001 => p.children ++ (if p.rank = p.top then (p.empties b).filter (fun r => r ≠ p.rank) else [])
    | 0x5002 => []
    | _ => p.children
  (up ++ down).eraseDups

/-- The partners that will send blocks of an adding link (R429), by node, with the link when it is a ring's. -/
def Part.senders (s : State) (t : Part) (link : Nat) : List (U16 × Option Nat) :=
  let p := t.p
  let here := fun (l : List U32) => l.any (fun i => p.adder (p.stripe t.b i) = link)
  if p.tree then ((p.incoming t.b).filter (fun q => here q.2)).map (fun q => (p.node q.1, none)) |>.eraseDups
  else if here (p.fromPrev t.b) then [((s.link link).seenNode, some link)] else []

/-! ## Job-table entries (R427 to R430) -/

/-- An entry of a key. -/
def keyed (job redNo : U16) (e : Nat × JobEntry) : Bool := e.2.job == job && e.2.redNo == redNo && e.2.state != 0

/-- A sluice's entry of a key. -/
def Link.entry? (l : Link) (job redNo : U16) : Option (Nat × JobEntry) := l.entries.find? (keyed job redNo)

/-- The lowest table index in state 0. -/
def Link.freeEntry? (l : Link) : Option Nat := (List.range 64).find? (fun i => (tableGet? l.entries i).all (fun e => e.state == 0))

/-- An entry that records an early RED_READY (R429). -/
def JobEntry.waiting (job redNo src : U16) : JobEntry :=
  { job := job, redNo := redNo, state := 3, ctx := 0, gen := 0#12, anchor := 0, policy := 0#8, floor := 0#8, members := 0, rank := 0
    expected := 0, added := 0, delivered := 0, shared := 0#7, ready := [src], started := [], seq := 0#32 }

/-- Change a link's entry of a key. -/
def onEntry (link : Nat) (job redNo : U16) (f : JobEntry → JobEntry) : Fx :=
  Fx.link link (fun l => { l with entries := l.entries.map (fun e => if keyed job redNo e then (e.1, f e.2) else e) })

/-- Free every entry of a key, and discard its blocks (R422, R430). -/
def freeKey (job redNo : U16) : Fx := freeEntries (fun j n => j == job && n == redNo)

/-- The reduction number of a packet, and its block index (R431). -/
def redNoOf (p : Packet) : U16 := BitVec.ofNat 16 (p.addr.toNat % 65536)
def indexOf (p : Packet) : U32 := BitVec.ofNat 32 (p.addr.toNat / 65536)

/-- A RED_READY packet (R431). -/
def readyPacket (own : Nat) (job redNo : U16) (ctx gen : Nat) (dst : U16) : Packet :=
  Packet.request 0x23 dst.toNat own job.toNat ctx gen 0 redNo.toNat 0 (List.replicate 32 0#8)

/-- Send RED_READY to partners of an adding link. -/
def sendReady (link : Nat) (e : JobEntry) (dst : List (U16 × Option Nat)) : Fx :=
  Fx.look fun s => Fx.each dst (fun q =>
    let p := readyPacket s.own e.job e.redNo e.ctx e.gen.toNat q.1
    match q.2 with
    | some i => injectAt i (32 + link / 4) p
    | none => sendPacket (32 + link / 4) p)

/-! ## Ends (R430, R436, R443, R449) -/

/-- A collective ends with a status; where its rule says so, the module aborts the job with it. -/
def endCollective (c : Nat) (o : Op) (status : Nat) (aborts : Bool) : Fx :=
  Fx.look fun s =>
    let job := (s.ctx c).job
    (endOp c o status).andThen (Fx.when aborts (abortJob job.toNat status))

/-- The same for a member's part. -/
def collFail (t : Part) (status : Nat) (aborts : Bool) : Fx := endCollective t.c t.o status aborts

/-- Event source of a sluice. -/
def sluiceSource (link : Nat) : Nat := 56 * (link / 4) + 16 + link % 4

/-- The sluice of a link has added, forwarded or delivered a block (R479). -/
def sluiceProgress (link : Nat) : Fx := progress (link / 4) (16 + link % 4)

/-- Poison arises at a sluice (R443): an event, and the job is aborted. -/
def sluicePoison (link : Nat) (t : Part) (index : U32) : Fx :=
  Fx.look fun s =>
    let job := (s.ctx t.c).job
    Fx.all [
      Fx.link link (fun l => { l with badVerdicts := satAdd 65535 l.badVerdicts 1 }),
      raise (sluiceSource link) 2 0x0503 (s.who t.c) job.toNat index.toNat t.p.redNo,
      abortJob job.toNat stPoisoned]

/-- A link still has blocks of the part that an adding link answers for: held sums, staged packets, waiting sends. -/
def State.partHolds (s : State) (t : Part) (i : Nat) : Bool :=
  let job := (s.ctx t.c).job
  let red := BitVec.ofNat 16 t.p.redNo
  let on := fun (j n : U16) (index : U32) => j == job && n == red && decide (t.p.adder (t.p.stripe t.b index) = i)
  (s.link i).holds.any (fun h => h.block.job == job && h.block.redNo == red) || s.linkIds.any (fun k =>
    (s.link k).staged.any (fun b => on b.job b.redNo b.index) || (s.link k).sends.any (fun q => on q.block.job q.block.redNo q.block.index)
      || (s.link k).leaving.any (fun b => on b.send.block.job b.send.block.redNo b.send.block.index))

/-- An adding link has added, delivered, passed on and sent all that its entry stands for (R430). -/
def State.adderQuiet (s : State) (t : Part) (i : Nat) : Bool :=
  ((s.link i).entry? (s.ctx t.c).job (BitVec.ofNat 16 t.p.redNo)).all (fun e => e.2.state == 3
    || (e.2.added == e.2.expected && e.2.delivered == t.p.deliveriesOn t.b i))
    && !s.partHolds t i && (t.u.toPass == 0 || t.p.adder (t.p.stripe t.b flagsOnly) != i)

/-- An entry whose last held block has left is free (R430). DEDUCED (log 109): while other adding links of the part have blocks to send,
a ready set that it recorded stands on as that of an early RED_READY (R429). -/
def JobEntry.rest (e : JobEntry) : Option JobEntry :=
  if e.ready.isEmpty then none else some { JobEntry.waiting e.job e.redNo 0#16 with ready := e.ready }

/-- Entries whose last held block has left are free (R430); with the last one the member's part is over, and the flags it gathered
join its step flags (R449). -/
def collEnd (c : Nat) (seq : U32) : Fx :=
  Fx.look fun s =>
    match s.part? c seq with
    | none => Fx.skip
    | some t =>
      let job := (s.ctx c).job
      let red := BitVec.ofNat 16 t.p.redNo
      if t.p.adders.all (s.adderQuiet t) then Fx.all [
        Fx.when t.p.share (setFlags c t.u.gathered.toNat),
        freeKey job red,
        onOp c seq (fun o => { o with phase := .landing })]
      else Fx.each (t.p.adders.filter (s.adderQuiet t)) (fun i => Fx.link i (fun l =>
        { l with entries := l.entries.filterMap (fun e => if keyed job red e && e.2.state != 3 then e.2.rest.map (fun r => (e.1, r)) else some e) }))

/-! ## Sending (R425, R426, R429, R446, R451 to R453) -/

/-- A block has left toward one of its targets: behind the last one its buffer is free and its receive slots return (R425). -/
def sentFrom (home : Nat) (b : RedBlock) : Fx :=
  Fx.look fun s =>
    match (s.link home).holds.find? (fun h => h.block.sameKey b && decide (0 < h.sending)) with
    | none => Fx.skip
    | some h =>
      if 1 < h.sending then Fx.link home (fun l => { l with holds := l.holds.map (fun k => if k = h then { k with sending := k.sending - 1 } else k) })
      else (Fx.link home (fun l => { l with holds := l.holds.erase h })).andThen (returnAll h.units)

/-- A block has left the sluice that holds it, if one does. -/
def leftHome (home : Option Nat) (b : RedBlock) : Fx :=
  match home with
  | some i => sentFrom i b
  | none => Fx.skip

/-- Context and generation that a block's packets carry (R431). -/
def State.senderOf (s : State) (b : RedBlock) : Nat × Nat :=
  (s.linkIds.findSome? (fun i => ((s.link i).entry? b.job b.redNo).bind (fun e =>
    if e.2.state = 3 then none else some (e.2.ctx, e.2.gen.toNat)))).getD (0, 0)

/-- Queue a block toward a rank or a ring's next member; one for local delivery arrives at once (R412), one for a fenced link is dropped
(R392, R419), one without a path ends the collective (R413). -/
def queueBlock (t : Part) (b : RedBlock) (dst : Option Nat) (originated escalated : Bool) (home : Option Nat) : Fx :=
  Fx.look fun s =>
    let put := fun (i : Nat) (dst : U16) =>
      if (s.link i).state == 4 then leftHome home b
      else Fx.link i (fun l => { l with sends := l.sends ++
        [{ block := b, dst := dst, tree := t.p.tree, originated := originated, escalated := escalated, home := home }] })
    match dst with
    | none => let i := (t.p.stripe t.b b.index).1; put i (s.link i).seenNode
    | some r => match s.routeFor (t.p.node r).toNat (s.ctx t.c).job.toNat with
      | some i =>
        if i < 32 then put i (t.p.node r)
        else
          let (c, g) := s.senderOf b
          (Fx.hub (fun h => { h with loop := h.loop ++ b.packets s.own c g (t.p.node r).toNat })).andThen (leftHome home b)
      | none => collFail t stNoResource false

/-- A sluice holds a block until it has left toward every target (R425, R426). -/
def queueHeld (link : Nat) (t : Part) (b : RedBlock) (dst : List (Option Nat)) (escalated : Bool) (buffer : Option Bool)
    (units : List (Nat × Nat)) : Fx :=
  if dst.isEmpty then returnAll units
  else (Fx.link link (fun l => { l with holds := l.holds ++ [{ block := b, buffer := buffer, units := units, sending := dst.length, escalated := escalated }] })).andThen
    (Fx.each dst (fun r => queueBlock t b r false escalated (some link)))

/-- The partner has announced that it takes blocks of the key (R429): a ring's on its link, a tree's on any link. -/
def State.partnerReady (s : State) (link : Nat) (q : ToSend) : Bool :=
  let has := fun (i : Nat) => ((s.link i).entry? q.block.job q.block.redNo).any (fun e => e.2.ready.contains q.dst)
  if q.tree then s.linkIds.any has else has link

/-- How a block may leave (R446): with ordinary credits, or on the reserve. -/
def Link.sendWay (l : Link) (q : ToSend) : Option Bool :=
  let n := q.block.units
  if (if q.originated then 2 * n else n) ≤ l.ordinary 3 then some false
  else if q.escalated && decide (n ≤ l.reserveFree) then some true
  else none

/-- The block that a link sends next: transit blocks before originated ones. -/
def State.nextSend (s : State) (link : Nat) : Option (ToSend × Bool) :=
  let l := s.link link
  let ready := l.sends.filter (s.partnerReady link)
  let pick := fun (qs : List ToSend) => qs.findSome? (fun q => (l.sendWay q).map (fun w => (q, w)))
  let transit := ready.filter (fun q => !q.originated)
  if transit.isEmpty then pick ready else pick transit

/-- A block begins to leave on a link, once the one before has left whole (R446): its credits are taken, and its packets go at the turns of
VL3 (R414). -/
def sendBlock (link : Nat) (q : ToSend) (lent : Bool) : Fx :=
  Fx.look fun s =>
    let (c, g) := s.senderOf q.block
    let b := { q.block with reserve := lent }
    Fx.when ((s.link link).carries && (s.link link).leaving.isNone) (Fx.all [
      Fx.link link (fun l => { l with sends := l.sends.erase q, reserveFree := l.reserveFree - (if lent then b.units else 0)
                                      leaving := some { send := q, packets := b.packets s.own c g q.dst.toNat } }),
      onVl link 3 (fun x => { x with credits := x.credits - b.units })])

/-- The packet that an input gave leaves; behind the last one of a block the sluice that held it lets it go (R425, R430). -/
def leavePacket (i v j : Nat) (p : Packet) : Fx :=
  Fx.look fun s => match (if (s.link i).pays i v j p then (s.link i).leaving else none) with
    | none => (leaveInput i j p).andThen (Fx.when (p.ptype = 0x01#8 && decide (32 ≤ j)) (startDescriptor p.tag))
    | some b =>
      let c := (s.senderOf b.send.block).1
      if 1 < b.packets.length then Fx.link i (fun l => { l with leaving := some { b with packets := b.packets.drop 1 } })
      else Fx.all [
        Fx.link i (fun l => { l with leaving := none }),
        leftHome b.send.home b.send.block,
        sluiceProgress i,
        Fx.each ((s.ctx c).ops.filter (fun (o : Op) => o.coll.isSome)) (fun o => collEnd c o.seq)]

/-- PACKET_FORWARD: the output sends one packet; each sending counts one hop, the source's own too (R415; log 36). A slot that
carries no packet, for want of one or of room in the replay buffer, is filled (R395, R398; log 72). -/
def execPacketForward (link : Nat) (s : State) : Host.Outcome State Fault Refusal :=
  let l := s.link link
  (match (if l.carries then l.vlOrder.findSome? (fun v => (s.offer link v).map (fun q => (v, q))) else none) with
   | none => Fx.when l.carries (fillSlot link)
   | some (v, j, p) =>
     let out := Packet.sealed { p with hops := p.hops + 1#8 }
     let paid := l.pays link v j p
     let unused := Fx.when paid (onVl link v (fun x => { x with credits := x.credits + p.units }))
     if 63 ≤ p.hops.toNat then Fx.all [leavePacket link v j p, unused, discardAbort link p 2]
     else if s.blankLink link && !blankCarries p then Fx.all [leavePacket link v j p, unused, discardEvent link p 6]
     else if 1024 < l.replay.length + (l.fullBodies out).length then fillSlot link
     else Fx.all [
       leavePacket link v j p,
       Fx.link link (fun l => (l.granted v j)),
       Fx.when (!paid) (onVl link v (fun x => { x with credits := x.credits - p.units })),
       sendPacketFlits link out]).outcome s

/-- Where poison arises the block goes on in zero form, and then the event is raised and the job aborted (R443). DESIGN CHOICE
(log 107): it begins to leave before the abort discards it where it is the block that its link sends next (R446) and none is leaving. -/
def poisonHere (link : Nat) (t : Part) (index : U32) (go : Fx) : Fx :=
  Fx.all [
    go,
    Fx.look fun s => Fx.each s.linkIds (fun i => match s.nextSend i with
      | some (q, lent) => Fx.when (q.block.poison && q.block.job == (s.ctx t.c).job && q.block.redNo == BitVec.ofNat 16 t.p.redNo
          && q.block.index == index) (sendBlock i q lent)
      | none => Fx.skip),
    sluicePoison link t index]

/-- The flags a member puts into blocks (R449). -/
def Part.flags (t : Part) : BitVec 7 := if t.p.share then t.u.startFlags else 0#7

/-- An empty block of the part. -/
def Part.blank (s : State) (t : Part) (index : U32) : RedBlock :=
  RedBlock.blank (s.ctx t.c).job (BitVec.ofNat 16 t.p.redNo) index t.u.anchor

/-! ## Contributions (R436, R443) -/

/-- The state in which a part reads its tiles. -/
def Part.view (s : State) (t : Part) : State := s.asIssued t.c t.o

/-- What a tile of in0 on this module meets as a part reads it (R360, R377). -/
def Part.access (s : State) (t : Part) (i : Nat) : Access :=
  let j := unrank t.src.grid i
  if t.src.offGrid j || !isLocal s.own (t.src.slotAddr j) then .ok
  else s.slotAccess 0 t.o.fields (t.src.slotAddr j) (slotBytes t.src.code)

/-- Memory of a tile of in0 that serves no access ends the part (R377). -/
def Part.served (s : State) (t : Part) (i : Nat) : Except Stop Unit :=
  match t.access s i with
  | .stop st => .error (Stop.plain st)
  | _ => .ok ()

/-- A part reads a tile of in0 (R350): it waits for a set that is coming on (R364). -/
def Part.meet (t : Part) (i : Nat) : Fx :=
  Fx.look fun s =>
    let j := unrank t.src.grid i
    let ga := t.src.slotAddr j
    let n := slotBytes t.src.code
    match t.served s i with
    | .error _ => Fx.skip
    | .ok _ => Fx.when (!t.src.offGrid j && isLocal s.own ga) ((awaitSets (gaSpace ga) (gaOffset ga) n).andThen (touchRange (localKey ga) n))

/-- The words of the local contribution to a block, by stored position (R436); a poisoned word makes the contribution a poisoned one
(R89, R443, R517; log 107). -/
def Part.words (s : State) (t : Part) (i : Nat) : Except Stop (List L128) := do
  let j := unrank t.src.grid i
  let _ ← t.served s i
  let d ← readTile (t.view s) t.o t.src j
  if t.src.code = 0x18 && !t.src.offGrid j && d.hdr.anchor ≠ t.u.anchor then .error (Stop.plain stAnchor)
  let word := fun (y : List Nat) =>
    let p := t.src.pos y
    if t.src.code = 0x18 then d.words.getD p L128.zero
    else enterPre t.u.anchor (elemVal t.src.code ((d.hdr.scales.getD (p / 32) 0x7F#8).toNat) (d.elems.getD p 0)).pre
  let ws := (gatherTile t.src j word).map (fun w => w.getD L128.zero)
  if ws.any L128.poison then .error (Stop.plain stPoisoned) else .ok ws

/-- The local contribution to a block. -/
def Part.contribution (s : State) (t : Part) (index : U32) : Except Stop RedBlock :=
  if index = flagsOnly then .ok { t.blank s index with count := 1, shared := t.flags }
  else (t.words s index.toNat).map ((t.blank s index).contribution t.p.slicing t.flags)

/-- A slot of zeros under a sound header: what stands for a tile of the grid whose slot holds none (R205, R238). -/
def zeroSlot (d : Desc) (j : List Nat) (anchor : Int) : List Byte :=
  let h : Header := { scales := plainScales, format := d.code, flags := 0, ceil := -32768, shape := d.shape, valid := (d.elems j).length
                      tid := d.tid % 2 ^ 32, tidx := d.tidx j, tail := if d.code = 0x18 then anchorTail anchor else List.replicate 8 0#8 }
  h.slot (if d.code = 0x18 then l128Payload (List.replicate 1024 L128.zero) else List.replicate (payloadBytes d.code) 0#8)

/-- A tile of in0 as it stands, for a chain that carries stored tiles (R452). DESIGN CHOICE (log 124): for a tile whose slot holds none
(R205) a tile of zeros goes. -/
def Part.tile (s : State) (t : Part) (i : Nat) (index : U32) : Except Stop RedBlock := do
  let j := unrank t.src.grid i
  let _ ← t.served s i
  let _ ← readTile (t.view s) t.o t.src j
  .ok ((t.blank s index).stored 1 t.flags (if t.src.offGrid j then zeroSlot t.src j t.u.anchor
    else (slotBytesOf (t.view s) t.o (t.src.slotAddr j) (slotBytes t.src.code)).1) none)

/-- A contribution that cannot be read: poison arises at the sluice, and `go` takes the poisoned block on; a wrong anchor aborts the
job, any other status ends the collective (R211, R436, R443), and the receive slots of a block already taken return (R425, R430). -/
def contribFail (link : Nat) (t : Part) (index : U32) (e : Stop) (units : List (Nat × Nat)) (go : Fx) : Fx :=
  let there := e.events.map (fun v => if v.code = 0x0A02 then { v with src := sluiceSource link, p1 := 16 + link % 4 } else v)
  (raiseEvs t.c t.o.seq there).andThen
    (if e.status = stPoisoned then poisonHere link t index go else (returnAll units).andThen (collFail t e.status (e.status == stAnchor)))

/-! ## Delivery (R448, R449, R321) -/

/-- A statistics record of 64 bytes (R190). -/
def StatRec.parse (b : List Byte) : StatRec :=
  { step := BitVec.ofNat 32 (field b 0 4), ceilMax := fieldS b 4 2, maxMag := BitVec.ofNat 32 (field b 8 4), tiles := field b 12 4
    valid := field b 16 8, overflowed := field b 24 8, saturated := field b 32 8, flushed := field b 40 8, subnormal := field b 48 8
    nan := field b 56 4, inf := field b 60 4 }

/-- The tile of out that a block lands in (R454). -/
def Part.outTile (t : Part) (index : U32) : Nat :=
  if t.p.op = 0x5000 then index.toNat - t.p.rank * chunkSize t.b t.p.members else index.toNat

/-- The piece of a poisoned block (R194, R443); an L128 tile keeps the group's anchor (R94). -/
def poisonPiece (f : Nat) (anchor : Int) (d : Desc) (j : List Nat) : Piece :=
  let h : Header := { scales := plainScales, format := d.code, flags := 1, ceil := -32768, shape := d.shape
                      valid := (d.elems j).length, tid := d.tid % 2 ^ 32, tidx := d.tidx j
                      tail := if d.code = 0x18 then anchorTail anchor else List.replicate 8 0#8 }
  { ga := d.slotAddr j, slot := h.slot (List.replicate (payloadBytes d.code) 0#8), bad := [], acc := false, stats := none, flags := 8
    witness := none, field := f }

/-- The piece of a carried slot; in ALL_REDUCE its header's NaN and infinity set step flags (R321; log 33). -/
def carriedPiece (f : Nat) (t : Part) (j : List Nat) (b : RedBlock) : Piece :=
  let n := slotBytes t.out.code
  let slot := b.slot.take n
  let h := (Header.parse slot).flags
  { ga := t.out.slotAddr j, slot := slot, bad := [], acc := false
    stats := if b.stats then some (t.out.stats, StatRec.parse (b.slot.drop n)) else none
    flags := if t.p.op = 0x5001 then b2n (bitOf h 1) + 2 * b2n (bitOf h 2) else 0
    witness := none, field := f }

/-- The piece that a block's delivery writes: the weir of the sluice's field makes it (R448). -/
def Part.piece (s : State) (t : Part) (link : Nat) (b : RedBlock) : Piece :=
  let j := unrank t.out.grid (t.outTile b.index)
  if b.poison then poisonPiece (link / 4) t.u.anchor t.out j
  else if b.form = 4 then carriedPiece (link / 4) t j b
  else
    let ws := b.ws.toArray
    { wordsPiece ((t.view s).ctx t.c) t.o t.out none t.u.anchor j (fun y => ws.getD (t.out.pos y) L128.zero) with field := link / 4 }

/-- A delivered block is counted, and its flags gathered. -/
def bookDelivery (link : Nat) (t : Part) (b : RedBlock) : Fx :=
  Fx.look fun s => Fx.all [
    onEntry link b.job b.redNo (fun e => { e with delivered := e.delivered + 1, shared := e.shared ||| b.shared }),
    Fx.when b.lost (setFlags t.c 0x20),
    sluiceProgress link,
    onOp t.c t.o.seq (fun o => { o with coll := o.coll.map (fun u =>
      { u with toDeliver := u.toDeliver - 1, gathered := u.gathered ||| b.shared }) }),
    Fx.when (b.poison || bitOf (t.piece s link b).flags 3) ((failOp t.c t.o.seq stPoisoned).andThen
      (onOp t.c t.o.seq (fun o => { o with phase := .landing })))]

/-- Deliver a block at this member; an output tile off the grid holds nothing (R205), and a flags-only block writes nothing. -/
def deliver (link : Nat) (t : Part) (b : RedBlock) : Fx :=
  Fx.look fun s =>
    (if b.index = flagsOnly || t.out.offGrid (unrank t.out.grid (t.outTile b.index)) then Fx.skip
     else landPiece t.c t.o.seq (t.piece s link b)).andThen (bookDelivery link t b)

/-! ## A finished sum (R448, R452, R453) -/

/-- The block that carries ALL_REDUCE's result on: a stored tile with statistics, or the narrowest exact form (R452). -/
def Part.result (s : State) (t : Part) (link : Nat) (b : RedBlock) : RedBlock :=
  if b.poison then { b.poisoned with count := t.p.members }
  else if t.out.code = 0x18 then b.narrow
  else
    let q := t.piece s link b
    { (t.blank s b.index).stored t.p.members b.shared q.slot (q.stats.map (fun r => { r.2 with step := t.o.step })) with lost := b.lost }

/-- Deliver a finished sum, or send it to its owner; ALL_REDUCE sends the result on (R448, R452, R453). -/
def passSum (link : Nat) (t : Part) (b : RedBlock) (escalated : Bool) (buffer : Option Bool) (units : List (Nat × Nat)) : Fx :=
  Fx.look fun s =>
    if b.index = flagsOnly then
      -- only a tree sums these: each member with an empty chunk gets the word
      let l := t.p.empties t.b
      (Fx.when (l.contains t.p.rank) (deliver link t b)).andThen
        (queueHeld link t b ((l.filter (fun r => r ≠ t.p.rank)).map some) escalated buffer units)
    else match t.p.op with
      | 0x5000 =>
        let c := b.index.toNat / chunkSize t.b t.p.members
        if c = t.p.rank then (deliver link t b).andThen (returnAll units) else queueHeld link t b [some c] escalated buffer units
      | 0x5001 =>
        let q := t.result s link b
        (deliver link t b).andThen (if t.p.tree then queueHeld link t q (t.p.children.map some) (escalated && decide (q.form = b.form)) buffer units
          else (queueBlock t q none true false none).andThen (returnAll units))
      | _ => (deliver link t b).andThen (returnAll units)

/-- A sum that holds every contribution, at the member that finishes it; with a wrong count it is poisoned (R448). -/
def finishSum (link : Nat) (t : Part) (b : RedBlock) (escalated : Bool) (buffer : Option Bool) (units : List (Nat × Nat)) : Fx :=
  if b.count ≠ t.p.members && !b.poison then poisonHere link t b.index (passSum link t b.poisoned false buffer units)
  else passSum link t b escalated buffer units

/-! ## Adding (R439 to R443) -/

/-- Count an addition of the local contribution (R427, R430). -/
def bookAdd (link : Nat) (b : RedBlock) : Fx :=
  (sluiceProgress link).andThen (Fx.when (b.index != flagsOnly) (onEntry link b.job b.redNo (fun e =>
    { e with added := e.added + 1, state := if e.added + 1 = e.expected then 2 else e.state })))

/-- A lane's check, or the block's, finds a mismatch (R91, R441). -/
def blockFault (b d sum : RedBlock) (laneFault : Bool) : Bool :=
  laneFault || (b.ws.zip d.ws).any (fun p => p.1.addFault p.2) || !residuesAgree b d sum

/-- A poisoned sum of two blocks (R439, R443). -/
def RedBlock.poisonSum (b d : RedBlock) : RedBlock :=
  { b.poisoned with count := b.count + d.count, shared := b.shared ||| d.shared, lost := b.lost || d.lost }

/-- Add a contribution to a block; `k` takes the sum and whether it escalated. A check that fails poisons the sum, and raises an
arithmetic fault beside the sluice's event (R92, R443, R530). -/
def addTo (link : Nat) (t : Part) (b d : RedBlock) (laneFault : Bool) (k : RedBlock → Bool → Fx) : Fx :=
  let sum := RedBlock.add t.p.slicing b d
  if b.poison || d.poison then k (b.poisonSum d) false
  else if blockFault b d sum laneFault then
    (raiseEvs t.c t.o.seq [⟨sluiceSource link, 2, 0x0A01, 16 + link % 4, b.index.toNat⟩]).andThen
      (poisonHere link t b.index (k (b.poisonSum d) false))
  else
    let wider := decide (b.form < sum.form)
    (Fx.when wider (Fx.link link (fun l => { l with escalations := satAdd 65535 l.escalations 1 }))).andThen (k sum wider)

/-- Add the local contribution to a block; one that is poisoned takes it in without reading it (R439, R443). -/
def addLocal (link : Nat) (t : Part) (b : RedBlock) (units : List (Nat × Nat)) (laneFault : Bool) (k : RedBlock → Bool → Fx) : Fx :=
  Fx.look fun s =>
    let none' := { t.blank s b.index with count := 1, shared := t.flags }
    let go := fun (sum : RedBlock) (wider : Bool) => (bookAdd link b).andThen (k sum wider)
    if b.poison then go (b.poisonSum none') false
    else (Fx.when (b.index != flagsOnly) (t.meet b.index.toNat)).andThen (Fx.look fun s => match t.contribution s b.index with
      | .error e => contribFail link t b.index e units (go (b.poisonSum none') false)
      | .ok d => addTo link t b d laneFault go)

/-- A ring's sluice takes a block of a reduction (R439, R452). -/
def ringAdd (link : Nat) (t : Part) (b : RedBlock) (buffer : Option Bool) (units : Nat) (laneFault final : Bool) : Fx :=
  addLocal link t b [(link, units)] laneFault (fun sum wider =>
    if final then finishSum link t sum wider buffer [(link, units)] else queueHeld link t sum [none] wider buffer [(link, units)])

/-- A flags-only block on a ring: back at its origin it is delivered, elsewhere it takes the member's flags on (R449; log 32). -/
def ringFlags (link : Nat) (t : Part) (b : RedBlock) (units : Nat) : Fx :=
  if b.count = t.p.members then (deliver link t b).andThen (returnUnits link 3 units)
  else (onOp t.c t.o.seq (fun o => { o with coll := o.coll.map (fun u => { u with toPass := u.toPass - 1 }) })).andThen
    (queueHeld link t { b with count := b.count + 1, shared := b.shared ||| t.flags } [none] false none [(link, units)])

/-- A chain that carries finished tiles: delivered here, and sent on unless the next member started it (R452). -/
def ringCarry (link : Nat) (t : Part) (b : RedBlock) (units origin : Nat) : Fx :=
  (deliver link t b).andThen (if (t.p.rank + 1) % t.p.members = origin then returnUnits link 3 units
    else queueHeld link t b [none] false none [(link, units)])

/-- A block on a ring that carries a finished tile rather than a sum. -/
def Part.carries (t : Part) (b : RedBlock) : Bool := !t.p.reduces || (t.p.op = 0x5001 && b.count = t.p.members)

/-- A block on a ring. -/
def ringBlock (link : Nat) (t : Part) (b : RedBlock) (buffer : Option Bool) (units : Nat) (laneFault : Bool) : Fx :=
  let c := b.index.toNat / chunkSize t.b t.p.members
  if b.index = flagsOnly then ringFlags link t b units
  else if t.carries b then
    ringCarry link t b units (if t.p.op = 0x5001 then c else if t.p.op = 0x5003 then b.index.toNat / t.b else t.p.root)
  else ringAdd link t b buffer units laneFault (if t.p.op = 0x5002 then t.p.rank = t.p.root else c = t.p.rank)

/-- A tree's sum is kept until it is whole; then it goes up, or, at the top, is finished (R453): `wider` says that an addition to it here
has widened it (R446). -/
def treeKeep (link : Nat) (t : Part) (buffer : Option Bool) (units : List (Nat × Nat)) (sum : RedBlock) (wider : Bool) : Fx :=
  (Fx.link link (fun l => { l with holds := l.holds.filter (fun h => !(h.sending == 0 && h.block.sameKey sum)) })).andThen
    (if sum.count < t.p.wanted then
      Fx.link link (fun l => { l with holds := l.holds ++ [{ block := sum, buffer := buffer, units := units, sending := 0, escalated := wider }] })
    else (Fx.when (sum.index == flagsOnly) (onOp t.c t.o.seq (fun o => { o with coll := o.coll.map (fun u => { u with toPass := u.toPass - 1 }) }))).andThen
      (match t.p.parent? with
       | some r => queueHeld link t sum [some r] wider buffer units
       | none => finishSum link t sum wider buffer units))

/-- A sum of the block's key that the sluice holds. -/
def Link.sumOf? (l : Link) (b : RedBlock) : Option HeldBlock := l.holds.find? (fun h => h.sending == 0 && h.block.sameKey b)

/-- A tree's sluice takes a block on its way up: the first one meets the local contribution (R439, R453). -/
def treeAdd (link inLink : Nat) (t : Part) (b : RedBlock) (buffer : Option Bool) (units : Nat) (laneFault : Bool) : Fx :=
  Fx.look fun s =>
    match (s.link link).sumOf? b with
    | some h => addTo link t b h.block laneFault (fun sum wider =>
        (sluiceProgress link).andThen (treeKeep link t h.buffer (h.units ++ [(inLink, units)]) sum (wider || h.escalated)))
    | none => addLocal link t b [(inLink, units)] laneFault (treeKeep link t buffer [(inLink, units)])

/-- A block of a tree is on its way down: its parent, or the top, sent it (R453). -/
def Part.down (t : Part) (src : U16) : Bool :=
  match t.p.parent? with
  | some r => src == t.p.node r || (src == t.p.node t.p.top && t.p.rank ≠ t.p.top)
  | none => false

/-- A block of a tree (R453). -/
def treeBlock (link inLink : Nat) (t : Part) (src : U16) (b : RedBlock) (buffer : Option Bool) (units : Nat) (laneFault : Bool) : Fx :=
  let on := fun (b : RedBlock) (dst : List (Option Nat)) => queueHeld link t b dst false none [(inLink, units)]
  if t.down src then
    let go := fun (b : RedBlock) =>
      (deliver link t b).andThen (on b (if b.index = flagsOnly || t.p.op = 0x5000 then [] else t.p.children.map some))
    -- a final block that lacks contributions is poisoned (R448)
    if t.p.reduces && b.count ≠ t.p.members && !b.poison then poisonHere link t b.index (go b.poisoned) else go b
  else if t.p.reduces then treeAdd link inLink t b buffer units laneFault
  else match t.p.parent? with
    | some r => on b [some r]
    | none => (deliver link t b).andThen (on b (t.p.children.map some))

/-- A taken block starts a sum, for which its sluice needs a working buffer (R426). -/
def Part.needsBuffer (s : State) (t : Part) (i : Nat) (src : U16) (b : RedBlock) : Bool :=
  if t.p.tree then t.p.reduces && !t.down src && ((s.link i).sumOf? b).isNone
  else b.index != flagsOnly && !t.carries b

/-! ## Arrivals (R425, R429 to R431, R442) -/

/-- Packets of a job are late: an abort of it that the module remembers has taken its entries (R421, R422, R430), and no context serves the
job again. -/
def State.jobGone (s : State) (job : U16) : Bool :=
  s.hub.aborts.any (fun e => e.1.job == job && decide (s.now ≤ e.2 + 25600)) && !s.serves job.toNat false

/-- RED_READY: the sender joins the ready set of the link's entry, or a waiting entry is made (R429); a late one is discarded (R422). -/
def execRedReady (link : Nat) (p : Packet) (s : State) : Host.Outcome State Fault Refusal :=
  (onPacket 0x23 link p ((takePacket link p).andThen
    (match (s.link link).entry? p.job (redNoOf p) with
     | some _ => onEntry link p.job (redNoOf p) (fun e => { e with ready := if e.ready.contains p.src then e.ready else e.ready ++ [p.src] })
     | none => match (if s.jobGone p.job then none else (s.link link).freeEntry?) with
       | some i => Fx.link link (fun l => { l with entries := tablePut l.entries i (JobEntry.waiting p.job (redNoOf p) p.src) })
       | none => Fx.skip))).outcome s

/-- RED_READY_RESEND: to every partner whose first block has not come (R429). -/
def execRedReadyResend (link entry : Nat) (s : State) : Host.Outcome State Fault Refusal :=
  (match tableGet? (s.link link).entries entry with
   | none => Fx.skip
   | some e => match s.part? e.ctx e.seq with
     | none => Fx.skip
     | some t => Fx.when (e.state == 1 || e.state == 2)
         (sendReady link e ((t.senders s link).filter (fun q => !e.started.contains q.1)))).outcome s

/-- The adding link, its entry and the part that take a block: on a ring those of the link that brought it, in a tree those of
its stripe's home link (R452, R453). -/
def State.takerOf (s : State) (link : Nat) (p : Packet) : Option (Nat × JobEntry × Part) :=
  (link :: s.linkIds).findSome? (fun i => ((s.link i).entry? p.job (redNoOf p)).bind (fun e =>
    if e.2.state = 3 then none
    else (s.part? e.2.ctx e.2.seq).bind (fun t =>
      if (if t.p.tree then t.p.adder (t.p.stripe t.b (indexOf p)) = i else i = link) then some (i, e.2, t) else none)))

/-- The block that staged packets spell, under the key that they carry. -/
def Staged.block (b : Staged) : RedBlock :=
  { RedBlock.parse b.header b.payload with job := b.job, redNo := b.redNo, index := b.index }

/-- A staged block that a packet belongs to. -/
def Staged.takes (b : Staged) (p : Packet) : Bool :=
  b.src == p.src && b.job == p.job && b.redNo == redNoOf p && b.index == indexOf p

/-- A packet stays in its receive slots (R425): it leaves the queue without its credits. -/
def keepPacket (i : Nat) (p : Packet) : Fx :=
  Fx.look fun s =>
    if (s.link i).rx.contains (p.vl, p) then Fx.link i (fun l => { l with rx := l.rx.erase (p.vl, p) })
    else Fx.hub (fun h => { h with loop := h.loop.erase p })

/-- The receive slots' units that a packet keeps: none for an own packet that was delivered locally. -/
def State.keptUnits (s : State) (i : Nat) (p : Packet) : Nat := if (s.link i).rx.contains (p.vl, p) then p.units else 0

/-- RED_HEAD: a packet of a job without an active entry is discarded (R422, R430). -/
def execRedHead (link : Nat) (p : Packet) (s : State) : Host.Outcome State Fault Refusal :=
  (onPacket 0x20 link p (match s.takerOf link p with
   | none => takePacket link p
   | some (i, e, _) => Fx.all [
       keepPacket link p,
       onEntry i e.job e.redNo (fun e => { e with started := if e.started.contains p.src then e.started else e.started ++ [p.src] }),
       (let x : Staged := { src := p.src, job := p.job, redNo := redNoOf p, index := indexOf p, header := p.payload, payload := [],
                            chunks := 0, units := s.keptUnits link p }
        Fx.link link (fun l => { l with staged := l.staged ++ [x] }))])).outcome s

/-- RED_DATA. -/
def execRedData (link : Nat) (p : Packet) (s : State) : Host.Outcome State Fault Refusal :=
  (onPacket 0x21 link p (if (s.link link).staged.any (fun b => b.takes p) then
     (keepPacket link p).andThen (Fx.link link (fun l => { l with staged := l.staged.map (fun b =>
       if b.takes p then { b with payload := b.payload ++ p.payload, chunks := b.chunks + 1, units := b.units + s.keptUnits link p } else b) }))
   else takePacket link p)).outcome s

/-- A whole block is taken: seal, verdict, anchor, poison (R434, R436, R442, R443). -/
def acceptBlock (link i : Nat) (t : Part) (b : Staged) (trailer : List Byte) (buffer : Option Bool) (units : Nat) (laneFault : Bool) : Fx :=
  let r := b.block
  let take := fun (r : RedBlock) =>
    if t.p.tree then treeBlock i link t b.src r buffer units laneFault else ringBlock i t r buffer units laneFault
  if field trailer 0 4 ≠ blockSeal b.header b.payload || field trailer 4 1 ≠ 0 then poisonHere i t b.index (take r.poisoned)
  else if r.anchor ≠ t.u.anchor then (returnUnits link 3 units).andThen (collFail t stAnchor true)
  else take r

/-- RED_TAIL: `laneFault` is a mismatch that a lane's residue check finds (R441). A block whose sum finds no working buffer free
waits (R426; log 108). -/
def execRedTail (link : Nat) (p : Packet) (laneFault : Bool) (s : State) : Host.Outcome State Fault Refusal :=
  (onPacket 0x22 link p (match (s.link link).staged.find? (fun (b : Staged) => b.takes p), s.takerOf link p with
   | some b, some (i, _, t) =>
     let buffer := (s.link i).bufferFor b.block.reserve
     Fx.when (buffer.isSome || !t.needsBuffer s i b.src b.block) (Fx.all [
       keepPacket link p,
       Fx.link link (fun l => { l with staged := l.staged.erase b }),
       acceptBlock link i t b p.payload buffer (b.units + s.keptUnits link p) laneFault,
       collEnd t.c t.o.seq])
   | some b, none => Fx.all [
       takePacket link p, Fx.link link (fun l => { l with staged := l.staged.erase b }), returnUnits link 3 b.units]
   | none, _ => takePacket link p)).outcome s

/-- BLOCK_SEND: the sluice hands its next block to the output, which sends its packets one by one. -/
def execBlockSend (link : Nat) (s : State) : Host.Outcome State Fault Refusal :=
  (match s.nextSend link with
   | none => Fx.skip
   | some (q, lent) => sendBlock link q lent).outcome s

/-! ## Start (R428, R429, R436, R449, R454) -/

/-- An adding link cannot take the key: BAD_PARAM where it runs already, NO_RESOURCE without an entry (R428). -/
def entryStatus (l : Link) (job redNo : U16) : Nat :=
  match l.entry? job redNo with
  | some (_, e) => if e.state = 3 then stOk else stBadParam
  | none => if l.freeEntry?.isSome then stOk else stNoResource

/-- Make the key active in an adding link: a waiting entry is adopted, else a free one taken (R428). -/
def openEntry (link : Nat) (job redNo : U16) (e : JobEntry) : Fx :=
  Fx.look fun s =>
    match (s.link link).entry? job redNo, (s.link link).freeEntry? with
    | some (i, w), _ => Fx.link link (fun l => { l with entries := tablePut l.entries i { e with ready := w.ready } })
    | none, some i => Fx.link link (fun l => { l with entries := tablePut l.entries i e })
    | none, none => Fx.skip

/-- Blocks of in0 that a member of a reduction originates, with their targets (R452, R453). -/
def Part.originates (t : Part) : List (U32 × Option Nat) :=
  let p := t.p
  let all := (List.range t.b).map (BitVec.ofNat 32)
  if p.tree then
    match p.parent? with
    | some r => if p.sums then [] else (all ++ (if (p.empties t.b).isEmpty then [] else [flagsOnly])).map (fun i => (i, some r))
    | none => []
  else if p.op = 0x5002 then (if p.rank = (p.root + 1) % p.members then all.map (fun i => (i, none)) else [])
  else
    let (lo, hi) := chunkRange t.b p.members p.prev
    (((all.take hi).drop lo) ++ (if (p.empties t.b).contains p.rank then [flagsOnly] else [])).map (fun i => (i, none))

/-- Queue the contributions that a member originates, until one cannot be read. -/
def originate (t : Part) : List (U32 × Option Nat) → Fx
  | [] => Fx.skip
  | (i, dst) :: l => (Fx.when (i != flagsOnly) (t.meet i.toNat)).andThen (Fx.look fun s =>
    match t.contribution s i with
    | .ok b => (queueBlock t b dst true false none).andThen (originate t l)
    | .error e => contribFail (t.p.adder (t.p.stripe t.b i)) t i e []
        (queueBlock t { (t.blank s i).poisoned with count := 1, shared := t.flags } dst true false none))

/-- The stored tiles that a member sends: ALL_GATHER's own, BROADCAST's at root (R452, R453). -/
def carryOut (t : Part) : List Nat → Fx
  | [] => Fx.skip
  | i :: l => (t.meet i).andThen (Fx.look fun s =>
    let index := BitVec.ofNat 32 (if t.p.op = 0x5003 then t.p.rank * t.b + i else i)
    let dst := if t.p.tree then (match t.p.parent? with
      | some r => [some r]
      | none => t.p.children.map some) else [none]
    let out := fun (b : RedBlock) => Fx.each dst (fun r => queueBlock t b r true false none)
    match t.tile s i index with
    | .error e => contribFail (t.p.adder (t.p.stripe t.b index)) t index e []
        (out { (t.blank s index).poisoned with count := 1, shared := t.flags })
    | .ok b => (out b).andThen (carryOut t l))

/-- The tile of out that the own tile i of a member goes to (R454). -/
def Part.ownTile (t : Part) (i : Nat) : List Nat := unrank t.out.grid (if t.p.op = 0x5003 then t.p.rank * t.b + i else i)

/-- The own tiles that a member copies into its out (R454), where both slots hold tiles (R205). -/
def localCopies (s : State) (t : Part) : List Piece :=
  if recOut t.o.record = recIn t.o.record 0 || t.out.sameView s.own t.src then []
  else ((List.range t.b).filter (fun i => !t.src.offGrid (unrank t.src.grid i) && !t.out.offGrid (t.ownTile i))).map (fun i =>
    let ga := t.src.slotAddr (unrank t.src.grid i)
    let (bytes, bad) := slotBytesOf (t.view s) t.o ga (slotBytes t.src.code)
    { ga := t.out.slotAddr (t.ownTile i), slot := bytes
      bad := bad.map (fun w => (w - ga) / 64), acc := false, stats := none, flags := 0, witness := none
      field := t.o.fields.headD 0 })

/-- The group anchor (R436), with the keeper table of the record's issue (R545). -/
def collAnchor (x : Ctx) (r : List Byte) : Int :=
  if recAnchorMode r = 1 then signedOf 16 (recAnchorValue r) else keepAnchor (x.entry (recAnchorValue r))

/-- A started collective. -/
def CollParams.run (p : CollParams) (b : Nat) (anchor : Int) (flags : BitVec 7) : CollRun :=
  { anchor := anchor, startFlags := flags, toDeliver := p.deliveries b, toPass := p.passes b, gathered := 0#7 }

/-- The entry of an adding link. -/
def Part.entry (s : State) (t : Part) (link : Nat) : JobEntry :=
  { job := (s.ctx t.c).job, redNo := BitVec.ofNat 16 t.p.redNo, state := 1, ctx := t.c
    gen := (s.ctx t.c).gen, anchor := t.u.anchor, policy := BitVec.ofNat 8 (recParam t.o.record 33 1)
    floor := BitVec.ofNat 8 t.p.floor, members := t.p.members, rank := t.p.rank, expected := t.p.expected t.b link, added := 0
    delivered := 0, shared := 0#7, ready := [], started := [], seq := t.o.seq }

/-- Every partner of a tree has a path (R413). -/
def Part.routed (s : State) (t : Part) : Bool :=
  !t.p.tree || ((t.p.incoming t.b).map Prod.fst ++ t.p.targets t.b).all (fun r => (s.routeFor (t.p.node r).toNat (s.ctx t.c).job.toNat).isSome)

/-- A member's part once its entries are active; a partner without a path ends it (R413). -/
def runPart (t : Part) : Fx :=
  Fx.look fun s => (Fx.each t.p.adders (fun i => openEntry i (s.ctx t.c).job (BitVec.ofNat 16 t.p.redNo) (t.entry s i))).andThen (
   if !t.routed s then collFail t stNoResource false
   else Fx.all [
    Fx.each t.p.adders (fun i => sendReady i (t.entry s i) (t.senders s i)),
    (if t.p.reduces then originate t t.originates
     else if t.p.op = 0x5003 || t.p.rank = t.p.root then
       (Fx.each (localCopies s t) (landPiece t.c t.o.seq)).andThen (carryOut t (List.range t.b))
     else Fx.skip),
    collEnd t.c t.o.seq])

/-- A collective starts. -/
def startCollective (c : Nat) (seq : U32) : Fx :=
  Fx.look fun s =>
    match s.op? c seq with
    | none => Fx.skip
    | some o =>
      let x := (s.ctx c).asIssued o
      let p := collOf o.record
      let b := (x.desc (recIn o.record 0)).tileCount
      (onOp c seq (fun o => { o with coll := some (p.run b (collAnchor x o.record) x.flags) })).andThen
        (Fx.look fun s => match s.part? c seq with
          | none => Fx.skip
          | some t =>
            let sts := p.adders.map (fun i => entryStatus (s.link i) x.job (BitVec.ofNat 16 p.redNo))
            match sts.find? (fun st => st != stOk) with
            | some st => (endOp c t.o st).andThen (abortJob x.job.toNat st)
            | none => runPart t)

/-- A running collective waits for blocks of its peers (R479): an adding link has more to add, deliver or pass on. -/
def State.awaitsBlock (s : State) (c : Nat) (o : Op) : Bool :=
  (s.part? c o.seq).any (fun t => t.u.toPass != 0 || t.p.adders.any (fun i =>
    ((s.link i).entry? (s.ctx c).job (BitVec.ofNat 16 t.p.redNo)).any (fun e =>
      e.2.state != 3 && !(e.2.added == e.2.expected && e.2.delivered == t.p.deliveriesOn t.b i))))

/-! ## Deadlines (R456) -/

/-- An escalated block of a job waits for credits: its partner is ready, and neither its credits nor the reserve are there (R446). -/
def State.escalatedWaits (s : State) (job : U16) : Bool :=
  s.linkIds.any (fun i => (s.link i).sends.any (fun q => q.escalated && q.block.job == job && s.partnerReady i q
    && ((s.link i).sendWay q).isNone))

/-- The running collective of a context whose deadline passes first, with the last cycle that it allows (R456). -/
def Ctx.dueCollective (x : Ctx) : Option (Op × Nat) :=
  x.ops.foldl (fun b o =>
    let d := (collOf o.record).deadline
    if isCollective (recOp o.record) && decide (o.phase = .running) && o.status = 0#16 && d ≠ 0
        && b.all (fun q => decide (o.startCycle + d < q.2)) then some (o, o.startCycle + d) else b) none

/-- COLLECTIVE_TIMEOUT: the first deadline of a running collective of a context passes. -/
def execCollectiveTimeout (ctx : Nat) (s : State) : Host.Outcome State Fault Refusal :=
  (match (s.ctx ctx).dueCollective with
   | none => Fx.skip
   | some (o, d) => Fx.all [
       Fx.setNow (d + 1),
       Fx.when (s.escalatedWaits (s.ctx ctx).job) (setFlags ctx 0x40),
       endCollective ctx o stTimeout true]).outcome s

end Sys2Proof.Machine
end

