-- ==== Sys2Proof/Machine/MemoryEv.lean ====
section
/-! DEFINITION. Memory events (11): write-backs and scrubs (R350, R351), power transitions (R362, R363), refresh and
retirement (R372, R373), the failure of a stack (R377), and host RDMA (17 R534, R555; 11 R354, R355). -/
namespace Sys2Proof.Machine

/-! ## Write-back and scrub -/

/-- ECC_WRITEBACK: the bank writes a waiting corrected word back (R350); a bank that is not on serves no access (R361). -/
def execEccWriteback (field bank row : Nat) (s : State) : Host.Outcome State Fault Refusal :=
  let w := memKey 1 (resOffset field bank row) / 64
  let on := (s.field field).sets.getD (bank / 128) SetPower.reset
  (Fx.when (on.state = .on && on.target = none && s.mem.writeBack.contains w) (Fx.memScrub w)).outcome s

/-- The upsets of a bank, by memory granule: word after word of its rows, eight granules each. -/
def bankUpsets (field bank : Nat) (l : List Upset) : List (Nat × BitVec 72) :=
  l.map (fun u => (memKey 1 (resOffset field bank (u.granule / 8)) / 8 + u.granule % 8, u.flips))

/-- SCRUB: the bank reads its next row (R351). DESIGN CHOICE (log 103): the upsets that have hit its words come with the command. -/
def execScrub (field : Nat) (b : BankScrub) (s : State) : Host.Outcome State Fault Refusal :=
  let stat := tableGet (s.field field).banks b.bank BankStat.reset
  let on := (s.field field).sets.getD (b.bank / 128) SetPower.reset
  (Fx.when (on.state = .on && on.target = none) (Fx.all [
    Fx.memUpset (bankUpsets field b.bank b.upsets),
    plainRead none 0 (memKey 1 (resOffset field b.bank stat.scrubRow)) 64,
    Fx.field field (fun f =>
      let c := tableGet f.banks b.bank BankStat.reset
      { f with banks := tablePut f.banks b.bank { c with scrubRow := (c.scrubRow + 1) % 32768 } })])).outcome s

/-! ## Power transitions -/

/-- SET_TRANSITION_DONE. -/
def execSetTransitionDone (field set : Nat) (s : State) : Host.Outcome State Fault Refusal := (endTransition field set).outcome s

/-! ## HBM -/

/-- Words of a stack that wait for their write-back. -/
def State.waitingWords (s : State) (stack : Nat) : List Nat :=
  s.mem.writeBack.filter (fun w => decide (memKey 0 (stack * 2 ^ 36) ≤ 64 * w) && decide (64 * w < memKey 0 ((stack + 1) * 2 ^ 36)))

/-- HBM_REFRESH: refresh shifts the time of accesses and changes no byte that a read returns (R372). Beside it, corrected words that
wait are written back (R350, R371), and the corrections that the stack itself reports count (R371). DESIGN CHOICE (log 103): the
upsets that have hit the stack's words come with the command. -/
def execHbmRefresh (r : StackRefresh) (s : State) : Host.Outcome State Fault Refusal :=
  (Fx.when (decide (r.stack < Grade.hbmStacks s.grade)) (Fx.all [
    Fx.each (s.waitingWords r.stack) Fx.memScrub,
    Fx.memUpset (r.upsets.map (fun u => (memKey 0 (r.stack * 2 ^ 36) / 8 + u.granule, u.flips))),
    Fx.stack r.stack (fun k => { k with corrected := satAdd 65535 k.corrected r.reports })])).outcome s

/-- The retirement of a pseudo-channel ends (R373): its copy reads the words (R350, R371); granules with a double error are poison in their new place, corrected
words are clean. -/
def execHbmRetireDone (stack : Nat) (s : State) : Host.Outcome State Fault Refusal :=
  (match (s.stack stack).retiring.filter (fun _ => (s.stack stack).state = 1) with
   | none => Fx.skip
   | some pc =>
     let key := memKey 0 (stack * 2 ^ 36)
     let moved := (s.mem.errorWords key (2 ^ 36)).filter (fun w => s.pcOf (64 * w) == pc.toNat)
     withInBand (Fx.all [
       Fx.each moved (fun w => plainRead none 0 (64 * w) 64),
       Fx.each (moved.filter s.mem.wordDouble) (fun w => Fx.memPoison (w / 4 * 32) (w / 4 * 32 + 32)),
       Fx.each (moved.filter (fun w => !s.mem.wordDouble w)) Fx.memScrub,
       Fx.stack stack (fun k =>
         { k with retiring := none, state := 0
                  retiredA := if k.retiredA.isNone then some pc else k.retiredA
                  retiredB := if k.retiredA.isNone then k.retiredB else some pc }),
       finishWaits (fun k => match k with
         | .hbmRetire n => n == stack
         | _ => false) stOk [],
       checkSet])).outcome s

/-- HBM_STACK_FAILED (R377). A retirement that runs there ends without its resource. -/
def execHbmStackFailed (stack : Nat) (s : State) : Host.Outcome State Fault Refusal :=
  (Fx.when (decide (stack < Grade.hbmStacks s.grade)) (Fx.all [
    Fx.stack stack (fun k => { k with state := if k.state = 3 then 3 else 2, failed := true, retiring := none }),
    finishWaits (fun k => match k with
      | .hbmRetire n => n == stack
      | _ => false) stNoResource [],
    checkSet])).outcome s

/-! ## Host RDMA (R534) -/

/-- The space that a memory key opens; 2 is the doorbell page. -/
def keySpace (key : U32) : Option Nat := (List.range 3).find? (fun i => Config.memoryKey i == key)

/-- The space, offset and length of a host access, or none where it gets a remote access error (R534, R364), for want of a route
across the ditch too (R487); a stack serves no
access before it has trained and is filled (R626). -/
def State.hostAccess (s : State) (key : U32) (va len : Nat) : Option Nat :=
  match keySpace key with
  | some sp => if sp ≤ 1 && decide (0 < len) && s.crosses 1 .hub [.field (ownerField sp va)] && (sp = 1 || (s.stack (va / 2 ^ 36)).trained) && (match s.access sp va len with
      | .stop _ => false
      | _ => true) then some sp else none
  | none => none

/-- Doorbells that a write to the page rings (R555); none where it is no write of whole doorbells. -/
def doorbellsOf (va : Nat) (data : List Byte) : Option (List (Nat × U64)) :=
  if va % 8 = 0 && data.length % 8 = 0 && !data.isEmpty && decide (va + data.length ≤ 136) then
    some ((List.range (data.length / 8)).map (fun i => (va / 8 + i, BitVec.ofNat 64 (field data (8 * i) 8))))
  else none

/-- Writes by port A to words that port B writes in the same cycle land over them, and their banks count (R354). -/
def collisionsFx (words : List Nat) (l : List Collision) : Fx :=
  Fx.each l (fun c => Fx.when (words.contains (memKey 1 (64 * c.word) / 64) && decide (c.offset + c.data.length ≤ 64))
    ((Fx.memWrite (memKey 1 (64 * c.word + c.offset)) c.data).andThen
      (Fx.field (64 * c.word / 2 ^ 32) (fun f =>
        let b := tableGet f.banks (resBank (64 * c.word)) BankStat.reset
        { f with banks := tablePut f.banks (resBank (64 * c.word)) { b with collisions := satAdd 65535 b.collisions 1 } }))))

/-- RDMA_WRITE. -/
def execRdmaWrite (qp : Nat) (key : U32) (va : Nat) (data : List Byte) (collide : List Collision) (s : State) :
    Host.Outcome State Fault Refusal :=
  (Fx.when ((s.qp? qp).isSome && !s.outcast) (match s.hostAccess key va data.length with
   | some sp => Fx.all [
       awaitSets sp va data.length,
       partialReads (memKey sp va) data.length, Fx.memWrite (memKey sp va) data, collisionsFx (wordsOf (memKey sp va) data.length) collide, Fx.emit (.writeAck qp)]
   | none => match (if keySpace key = some 2 then doorbellsOf va data else none) with
     | some ds => (Fx.each ds (fun d => ringDoorbell d.1 d.2)).andThen (Fx.emit (.writeAck qp))
     | none => Fx.emit (.accessNak qp))).outcome s

/-- RDMA_READ: a poisoned word is returned as the poison mark, whose data is zero (R349, R350; log 22). -/
def execRdmaRead (qp : Nat) (key : U32) (va len : Nat) (s : State) : Host.Outcome State Fault Refusal :=
  (Fx.when ((s.qp? qp).isSome && !s.outcast) (match s.hostAccess key va len with
   | some sp => Fx.all [
       awaitSets sp va len,
       Fx.look fun t => Fx.emit (.readData qp (t.mem.readOut (memKey sp va) len)),
       plainRead none 0 (memKey sp va) len]
   | none => Fx.emit (.accessNak qp))).outcome s

end Sys2Proof.Machine
end

