-- ==== Sys2Proof/Machine/Mirror.lean ====
section
/-! DEFINITION. Mirror copies (15 R505 to R509): start and end at the source, claims and writes at the target. The wire form of
a copy is the model's (log 23): job 0 WRITE packets whose context byte is the region. -/
namespace Sys2Proof.Machine

/-! ## At the target (R384, R504, R508, R509) -/

/-- What a job 0 write that is permitted does: where its bytes land, and the claim that it leaves, if it changes it. -/
structure MirrorHit where
  off : Nat
  claim : Option (Option U32)
  deriving DecidableEq, Repr

/-- The hit of a manifest: state 0 claims a free region for its serial, the complete one ends its serial's claim (R508, R509). -/
def Region.manifest (r : Region) (bytes : List Byte) : Option MirrorHit :=
  let serial := BitVec.ofNat 32 (field bytes 40 4)
  match r.claim, field bytes 4 1 with
  | none, 0 => some ⟨r.base, some (some serial)⟩
  | some c, 0 => if c = serial then some ⟨r.base, none⟩ else none
  | some c, 1 => if c = serial then some ⟨r.base, some none⟩ else none
  | _, _ => none

/-- The hit of a job 0 write; none when it is not permitted. In a mirror region only the claiming serial writes tiles, and its write of no
bytes gives up the claim (log 23). -/
def State.mirrorTarget (s : State) (p : Packet) : Option MirrorHit :=
  match s.hub.regions.getD p.ctx.toNat none with
  | none => none
  | some r =>
    let off := gaOffset p.addr.toNat
    let n := p.payload.length
    if gaSpace p.addr.toNat ≠ 0 || !(r.src == p.src || (r.kind == 1 && r.src == 0xFFFF#16)) then none
    else if r.kind = 1 then (if r.base ≤ off && off + n ≤ r.base + r.len then some ⟨off, none⟩ else none)
    else if r.len < off + n then none
    else if n = 0 then (if r.claim = some p.tag then some ⟨r.base, some none⟩ else none)
    else if off = 0 then (if n = 64 then r.manifest p.payload else none)
    else if r.claim = some p.tag then some ⟨r.base + off, none⟩ else none

/-- Set a region's claim. -/
def claimRegion (i : Nat) (c : Option U32) : Fx :=
  Fx.hub (fun h => { h with regions := h.regions.modify i (fun r => r.map (fun r => { r with claim := c })) })

/-! ## At the source (R505 to R508) -/

/-- Change a copy. -/
def onCopy (id : Nat) (f : Copy → Copy) : Fx :=
  Fx.hub (fun h => { h with copies := h.copies.map (fun k => if k.1 = id then (k.1, f k.2) else k) })

/-- A range of HBM that a copy reads may be read (R377) and holds no poison (R509, R513), or the stop that ends the copy. -/
def State.copyReads (s : State) (o len : Nat) : Except Stop Unit :=
  match s.access 0 o len with
  | .stop st => .error (Stop.plain st)
  | _ =>
    if s.mem.rangeOk (memKey 0 o) len then .ok ()
    else
      let w := ((wordsOf (memKey 0 o) len).filter (fun w => !s.mem.wordOk w)).headD 0 * 64
      .error { status := stPoisoned, events := [⟨memSource 0 w, 2, 0x0A03, s.own * 2 ^ 48 + w, s.placeOf 0 w⟩] }

/-- The bytes of the source slot at offset `o`, once its seal is verified (R508, R509), or the stop that ends the copy. A slot whose format
byte names no format has no seal to pass; one that reaches beyond the range is no whole slot of it (R506). -/
def State.copySlot (s : State) (fld stop o : Nat) : Except Stop (List Byte) :=
  let key := memKey 0 o
  let h := Header.parse (s.mem.bytes key 64)
  let n := slotBytes h.format
  let broken : Except Stop (List Byte) :=
    .error { status := stPoisoned, events := [⟨56 * fld + 7, 2, 0x0A02, s.own * 2 ^ 48 + o, 7⟩] }
  (s.copyReads o 64).bind fun _ =>
    if (formatKind h.format).isNone then broken
    else (s.copyReads o n).bind fun _ =>
      if !sealOk (s.mem.bytes key n) then broken
      else if bitOf h.flags 0 then .error (Stop.plain stPoisoned)
      else if stop < o + n then .error (Stop.plain stBadParam)
      else .ok (s.mem.bytes key n)

/-- How many bytes the copy reads at a source offset, also where its checks fail (R350, R371). -/
def State.copyLength (s : State) (o : Nat) : Nat :=
  let n := slotBytes (Header.parse (s.mem.bytes (memKey 0 o) 64)).format
  let read := fun (len less : Nat) => match s.copyReads o len with
    | .error e => if e.status = stPoisoned then len else less
    | .ok _ => len
  let first := read 64 0
  if first == 0 || (s.copyReads o 64).toOption.isNone || (formatKind (Header.parse (s.mem.bytes (memKey 0 o) 64)).format).isNone then first
  else read n 64

/-- The keeper table of a context as it is copied (R505). -/
def Ctx.keeperBytes (x : Ctx) : List Byte := ((List.range 4096).map x.entry).flatten

/-- The manifest of a copy (R505). -/
def manifest (s : State) (k : Copy) (state : Nat) : List Byte :=
  let x := s.ctx (k.ctx.getD 0)
  let body := leBytes 1 state ++ leBytes 1 (k.ctx.getD 0) ++ leBytes 2 s.own ++ leBytes 2 x.job.toNat ++ leBytes 2 0
    ++ leBytes 4 k.step.toNat ++ leBytes 8 (s.own * 2 ^ 48 + k.src) ++ leBytes 8 k.len ++ leBytes 8 s.hub.identity
    ++ leBytes 4 k.serial.toNat ++ leBytes 4 k.updates.toNat ++ List.replicate 16 0#8
  leBytes 4 (crc32c (body ++ Ctx.keeperBytes { x with keeper := k.keeper })).toNat ++ body

/-- Send bytes of a copy to a target offset in packets of at most 512 bytes, each to be acknowledged. -/
def sendBytes (id : Nat) (k : Copy) (j off : Nat) (bs : List Byte) : Fx :=
  Fx.look fun s => Fx.each (cut512 256 0 bs) (fun q =>
    (onCopy id (fun k => { k with acks := k.acks + 1 })).andThen
      (sendCopy k.links k.field j (k.packet s.own (off + q.1) 0 q.2)))

/-- A copy may start (R507): its engine runs no other, and its source context is between two steps. -/
def State.copyReady (s : State) (k : Copy) : Bool :=
  !k.running && s.available k.field && s.hub.copies.all (fun o => !(o.2.running && o.2.field == k.field))
    && (match k.ctx with
        | some c => ((s.ctx c).state == .active || (s.ctx c).state == .stopped) && !(s.ctx c).windowOpen && (s.ctx c).ops.isEmpty
        | none => true)

/-- Where the slot at a source offset goes: behind the manifest and the table of a region, or to its place in a window (R505, R508). -/
def Copy.place (k : Copy) (o : Nat) : Nat := if k.ctx.isSome then 131136 + (o - k.src) else k.dst + (o - k.src)

/-- The next tile goes out on its link, after its checks; one that fails them ends the copy (R508 step 2, R509). -/
def copyTile (id : Nat) : Fx :=
  Fx.look fun s =>
    match (tableGet? s.hub.copies id).filter (fun k => decide (k.next < k.src + k.len)) with
    | none => Fx.skip
    | some k => match s.copySlot k.field (k.src + k.len) k.next with
      | .error e => Fx.all [
          Fx.each e.events (fun v => raise v.src v.cls v.code (k.ctx.bind s.who) v.p0 v.p1 0),
          touchRange (memKey 0 k.next) (s.copyLength k.next),
          endCopies (fun o => o == k) e.status]
      | .ok bytes =>
        let slot := (k.target.toNat * 2 ^ 48 + k.place k.next, bytes.length)
        Fx.all [
          touchRange (memKey 0 k.next) (s.copyLength k.next),
          onCopy id (fun k => { k with next := k.next + bytes.length, sent := k.sent + 1, round := k.round ++ [slot] }),
          sendBytes id k k.sent (k.place k.next) bytes, progress k.field 7]

/-- A tile for each named link, or one by the routing table. -/
def copyRound (id : Nat) : Fx :=
  Fx.look fun s => match tableGet? s.hub.copies id with
    | none => Fx.skip
    | some k => (onCopy id (fun k => { k with stage := 2, round := [] })).andThen
        (Fx.each (List.range (max 1 k.links.length)) (fun _ => copyTile id))

/-- The step of R508 that follows when every write of a copy is acknowledged. DESIGN CHOICE (log 23): the next tiles leave when the last
ones are acknowledged. -/
def copyGoesOn (id : Nat) : Fx :=
  Fx.look fun s => match tableGet? s.hub.copies id with
    | none => Fx.skip
    | some k => Fx.when (k.running && k.acks == 0)
        (if (k.stage = 1 || k.stage = 2) && k.next < k.src + k.len then copyRound id
         else if k.stage = 2 && k.ctx.isSome then
           (onCopy id (fun k => { k with stage := 3, round := [] })).andThen
             (sendBytes id k 0 64 (Ctx.keeperBytes { s.ctx (k.ctx.getD 0) with keeper := k.keeper }))
         else if k.stage = 5 then
           (Fx.hub (fun h => { h with copies := tableErase h.copies id })).andThen (finishWaits (fun w => match w with
             | .mirrorCopy n => n == id
             | _ => false) stOk [])
         else onCopy id (fun k => { k with stage := 4, round := [] }))

/-- A copy starts: the manifest of a region claims it, and its acknowledgement lets the tiles go; a window takes them at once (R508). -/
def runCopy (id : Nat) (k : Copy) : Fx :=
  Fx.look fun s =>
    let x := s.ctx (k.ctx.getD 0)
    let k := { k with running := true, stage := 1, step := x.step, updates := x.updates, keeper := x.keeper }
    Fx.all [
      onCopy id (fun _ => k), progress k.field 7,
      if k.ctx.isSome then sendBytes id k 0 0 (manifest s k 0) else copyRound id]

/-- MIRROR_COPY_START. -/
def execMirrorCopyStart (copy : Nat) (s : State) : Host.Outcome State Fault Refusal :=
  (match tableGet? s.hub.copies copy with
   | none => Fx.skip
   | some k => Fx.when (s.copyReady k)
       (if s.hub.node = 0xFFFF#16 || !k.links.all s.upLinks.contains || (k.links.isEmpty && (s.routeFor k.target.toNat 0).isNone) then
          endCopies (fun o => o == k) stNoResource
        else runCopy copy k)).outcome s

/-- MIRROR_COPY_DONE: every write is acknowledged, and the complete manifest goes to its region; its acknowledgement completes the copy. A
copy toward a window completes here (R508). -/
def execMirrorCopyDone (copy : Nat) (s : State) : Host.Outcome State Fault Refusal :=
  (match tableGet? s.hub.copies copy with
   | none => Fx.skip
   | some k => Fx.when (k.running && k.acks == 0 && k.stage == 4)
       ((onCopy copy (fun k => { k with stage := 5 })).andThen
         (if k.ctx.isSome then sendBytes copy k 0 0 (manifest s k 1) else copyGoesOn copy))).outcome s

end Sys2Proof.Machine
end

