-- ==== Sys2Proof/Machine/PeerEv.lean ====
section
/-! DEFINITION. Peer requests and their answers (12 R381 to R384, R403, R404; 08 R263; 14 R471): reads, writes, accumulate-writes,
signals, acknowledgements and link management. -/
namespace Sys2Proof.Machine

/-- The injection port of an answer: that of the field whose link brought the request (R414; log 26). -/
def answerPort (i : Nat) : Nat := 32 + i / 4

/-- The field whose memory a request addresses is fenced, resetting or failed: its bridges discard the request (R419). -/
def State.clamped (s : State) (ga : Nat) : Bool :=
  decide (gaSpace ga ≤ 1) && decide (ownerField (gaSpace ga) (gaOffset ga) < Grade.fields s.grade) && s.shut (ownerField (gaSpace ga) (gaOffset ga))

/-- What a request of `len` bytes that a link brought meets (R383, R384); one that the ditch cannot carry to its memory has no resource
(R487). -/
def State.peerAccess (s : State) (link : Nat) (p : Packet) (writes : Bool) (ga len : Nat) : Access :=
  if !s.serves p.job.toNat writes then .stop stNotPermitted
  else if len = 0 then .stop stBadParam
  else match gaSpace ga with
    | 0 | 1 =>
      let a := s.access (gaSpace ga) (gaOffset ga) len
      if a ≠ .stop stBadParam && !s.crosses p.vl (portEnd link) [.field (ownerField (gaSpace ga) (gaOffset ga))] then .stop stNoResource else a
    | 2 | 3 | 15 => .stop stNotPermitted
    | _ => .stop stBadParam

/-- The event of a request whose job no context serves (R384). -/
def permissionEvent (i : Nat) (p : Packet) (writes : Bool) : Fx :=
  Fx.look fun s => Fx.when (!s.serves p.job.toNat writes) (discardEvent i p 5)

/-- Poison bits of `len` bytes from a key on: bit i for bytes 64i to 64i + 63 (R401). -/
def Mem.poisonBits (m : Mem) (key len : Nat) : Nat :=
  ((List.range (ceilDiv len 64)).map (fun i => if m.rangeOk (key + 64 * i) (min 64 (len - 64 * i)) then 0 else 2 ^ i)).sum

/-- The size a read asks for is one that R401 allows. -/
def readSizeOk (n : Nat) : Bool := decide (0 < n) && n % 32 == 0 && decide (n ≤ 512)

/-- READ_REQ: a module without a node ID answers nothing (R382); a request that meets a set coming on waits. -/
def execReadReq (link : Nat) (p : Packet) (s : State) : Host.Outcome State Fault Refusal :=
  let ga := p.addr.toNat
  let n := p.aux.toNat
  let answer := fun (st : Nat) => Fx.all [
    takePacket link p, permissionEvent link p false, answerPacket (answerPort link) p 0x10 st []]
  (onPacket 0x01 link p (if s.hub.node = 0xFFFF#16 then takePacket link p
   else if s.clamped ga then takePacket link p
   else match s.peerAccess link p false ga n with
     | .stall => Fx.skip
     | .stop st => answer st
     | .ok => if !readSizeOk n then answer stBadParam else Fx.all [
         takePacket link p, plainRead none 0 (localKey ga) n,
         answerPacket (answerPort link) p 0x10 (s.mem.poisonBits (localKey ga) n) (s.mem.readOut (localKey ga) n)])).outcome s

/-- The payload words that arrive as poison (R401). -/
def badWords (bits : Nat) : List Nat := (List.range 8).filter (bitOf bits)

/-- A write of job 0 (R384, R508): only into a mirror region or restore window that admits it. -/
def mirrorWrite (link : Nat) (p : Packet) : Fx :=
  Fx.look fun s =>
    let answer := fun (st : Nat) => (takePacket link p).andThen (answerPacket (answerPort link) p 0x11 st [])
    match s.mirrorTarget p with
    | none => (discardEvent link p 5).andThen (answer stNotPermitted)
    | some hit =>
      let lands := Fx.all [
        Fx.when (!p.payload.isEmpty) (writeLocal (memKey 0 hit.off) p.payload (badWords (p.aux.toNat % 256))),
        Fx.each hit.claim.toList (claimRegion p.ctx.toNat), answer stOk]
      if s.shut (ownerField 0 hit.off) then takePacket link p
      else if p.payload.isEmpty then lands
      else match s.access 0 hit.off p.payload.length with
        | .ok => lands
        | .stop st => answer st
        | .stall => Fx.skip

/-- WRITE: a module without its smallest working set takes no mirror copy (R500). -/
def execWrite (link : Nat) (w : PeerWrite) (s : State) : Host.Outcome State Fault Refusal :=
  let p := w.packet
  let ga := p.addr.toNat
  let answer := fun (st : Nat) => Fx.all [
    takePacket link p, permissionEvent link p true, answerPacket (answerPort link) p 0x11 st []]
  (onPacket 0x02 link p (if s.hub.node = 0xFFFF#16 then takePacket link p
   else if p.job = 0#16 then (if s.outcast then takePacket link p else mirrorWrite link p)
   else if s.clamped ga then takePacket link p
   else match s.peerAccess link p true ga p.payload.length with
     | .stall => Fx.skip
     | .stop st => answer st
     | .ok => Fx.all [
         partialReads (localKey ga) p.payload.length, writeLocal (localKey ga) p.payload (badWords (p.aux.toNat % 256)),
         collisionsFx (wordsOf (localKey ga) p.payload.length) w.collide, answer stOk])).outcome s

/-! ## Accumulate-writes (R403, R97, R98) -/

/-- The tile that a packet belongs to. -/
def AccStage.takes (a : AccStage) (p : Packet) : Bool :=
  a.src == p.src && a.job == p.job && a.ctx == p.ctx && a.gen == p.gen && a.tag == p.tag

/-- A tile whose first packet arrives. -/
def AccStage.start (p : Packet) : AccStage :=
  { src := p.src, job := p.job, ctx := p.ctx, gen := p.gen, tag := p.tag, addr := p.addr.toNat, bytes := [], poison := false
    next := 0 }

/-- A tile with one packet more. -/
def AccStage.more (a : AccStage) (p : Packet) : AccStage :=
  { a with bytes := a.bytes ++ p.payload, poison := a.poison || decide (p.aux.toNat % 256 ≠ 0), next := a.next + 1 }

/-- Add a whole staged tile to the stored one: the new slot, or the status and the events (R97, R211, R513; log 27: the events
name the link's sluice); the adders' own checks fail at the positions `faults` (R511). -/
def accumulateAt (s : State) (i : Nat) (a : AccStage) (faults : List Nat) : Except Stop AccTile :=
  let key := localKey a.addr
  let n := slotBytes 0x18
  let inc := a.bytes.take n
  let sealEv : List Ev := [⟨linkSource i, 2, 0x0A02, a.addr, 16 + i % 4⟩]
  let bad := (wordsOf key n).filter (fun w => !s.mem.wordOk w)
  let (st, sealBad) := slotStatus 0x18 (Header.parse inc).shape inc
  if a.poison then .error (Stop.plain stPoisoned)
  else if st ≠ stOk then .error { status := st, events := if sealBad then sealEv else [] }
  else if !bad.isEmpty then
    let off := gaOffset (64 * bad.headD 0)
    .error { status := stPoisoned
             events := [⟨memSource (gaSpace a.addr) off, 2, 0x0A03, s.own * 2 ^ 48 + a.addr % 2 ^ 48 / 2 ^ 44 * 2 ^ 44 + off,
               s.placeOf (gaSpace a.addr) off⟩] }
  else match accumulate (s.mem.bytes key n) inc faults with
    | .ok new => .ok new
    | .error (st, sb) => .error { status := st, events := if sb then sealEv else [] }

/-- The tile is whole: it is checked, added and answered once. -/
def finishAcc (i : Nat) (p : Packet) (a : AccStage) (faults : List Nat) : Fx :=
  Fx.look fun s =>
    let answer := fun (st : Nat) => (permissionEvent i p true).andThen (answerPacket (answerPort i) p 0x11 st [])
    match s.peerAccess i p true a.addr (slotBytes 0x18) with
    | .stop st => answer st
    | .stall => answer stNoResource
    | .ok => match accumulateAt s i a faults with
      | .ok new => Fx.all [
          touchRange (localKey a.addr) (slotBytes 0x18), Fx.memWrite (localKey a.addr) new.slot,
          Fx.each (accFaults (i / 4) new.faults) (fun v => raise v.src v.cls v.code none v.p0 v.p1 0),
          answer (if new.poison then stPoisoned else stOk)]
      | .error e => Fx.all [touchRange (localKey a.addr) (slotBytes 0x18),
          Fx.each e.events (fun v => raise v.src v.cls v.code none v.p0 v.p1 0), answer e.status]

/-- ACC_WRITE: a packet out of its turn ends the tile that was staged. The last packet waits while a set is coming on. -/
def execAccWrite (link : Nat) (w : PeerAdd) (s : State) : Host.Outcome State Fault Refusal :=
  let p := w.packet
  let idx := p.aux.toNat / 256
  let staged := if idx = 0 then some (AccStage.start p) else (s.link link).acc.find? (fun a => a.takes p)
  let rest := fun (l : Link) => { l with acc := l.acc.filter (fun a => !a.takes p) }
  (onPacket 0x03 link p (if s.hub.node = 0xFFFF#16 then takePacket link p
   else match staged with
     | none => takePacket link p
     | some a =>
       if a.next ≠ idx then (takePacket link p).andThen (Fx.link link rest)
       else
         let b := a.more p
         if b.bytes.length < slotBytes 0x18 then
           (takePacket link p).andThen (Fx.link link (fun l => { rest l with acc := (rest l).acc ++ [b] }))
         else if s.clamped b.addr then (takePacket link p).andThen (Fx.link link rest)
         else if s.peerAccess link p true b.addr (slotBytes 0x18) = .stall then Fx.skip
         else Fx.all [takePacket link p, Fx.link link rest, finishAcc link p b w.residue])).outcome s

/-! ## Signals (R263) -/

/-- The context and counter that a SIGNAL packet names, if the context is bound to its job. -/
def State.signalTarget (s : State) (p : Packet) : Option (Nat × Nat) :=
  let c := Machine.field p.payload 0 1
  let n := Machine.field p.payload 1 1
  let x := s.ctx c
  if p.job ≠ 0#16 && decide (c < 16) && decide (n < 16) && x.job = p.job && (x.state = .active || x.state = .stopped) then some (c, n)
  else none

/-- The condition of a WAIT holds (R264): counters wrap. -/
def waitMet (x : Ctx) (r : List Byte) : Bool :=
  decide ((x.sync.getD (recParam r 32 1 % 16) 0#32 - BitVec.ofNat 32 (recParam r 36 4)).toNat < 2 ^ 31)

/-- A started WAIT. -/
def Op.isWaiting (o : Op) : Bool := o.phase = .running && recOp o.record = 0x7000

/-- The last cycle of a WAIT with a deadline has passed (R264). -/
def Op.pastDeadline (now : Nat) (o : Op) : Bool :=
  recParam o.record 40 8 ≠ 0 && o.startCycle + recParam o.record 40 8 < now

/-- A WAIT whose condition holds by its deadline is done (R264). -/
def Ctx.wake (now : Nat) (x : Ctx) : Ctx :=
  { x with ops := x.ops.map (fun o =>
      if o.isWaiting && waitMet x o.record && !o.pastDeadline now then { o with phase := .landing } else o) }

/-- Add to a sync counter, modulo 2^32; WAITs that it meets are done. -/
def addSync (c n : Nat) (v : U32) : Fx :=
  Fx.look fun s => Fx.ctx c (fun x => Ctx.wake s.now { x with sync := x.sync.modify n (fun k => k + v) })

/-- SIGNAL_PACKET. -/
def execSignalPacket (link : Nat) (p : Packet) (s : State) : Host.Outcome State Fault Refusal :=
  (onPacket 0x04 link p (if s.hub.node = 0xFFFF#16 then takePacket link p
   else match s.signalTarget p with
     | some (c, n) => Fx.all [
         takePacket link p, addSync c n (BitVec.ofNat 32 (Machine.field p.payload 4 4)),
         answerPacket (answerPort link) p 0x12 stOk []]
     | none => Fx.all [
         takePacket link p,
         raise (linkSource link) 1 0x0302 none p.src.toNat p.job.toNat
           (Machine.field p.payload 0 1 % 16 * 16 + field p.payload 1 1 % 16),
         answerPacket (answerPort link) p 0x12 stNotPermitted []])).outcome s

/-! ## Acknowledgements (R404) -/

/-- The context whose request a reply answers: a reply of another generation is dropped (R404, R472). -/
def State.replyCtx (s : State) (p : Packet) : Option Nat :=
  let c := p.ctx.toNat % 16
  if p.job ≠ 0#16 && p.gen.toNat % 4096 = (s.ctx c).gen.toNat then some c else none

/-- An acknowledgement of an operation's packet: the first bad status stays (R260, R263, R383). -/
def Op.acked (tag : U32) (st : Nat) (o : Op) : Op :=
  if o.acks.contains tag then
    { o with acks := o.acks.erase tag, status := if o.status = 0#16 then BitVec.ofNat 16 st else o.status }
  else o

/-- A copy waits for this acknowledgement: it comes from its target with its region and serial (log 23). -/
def Copy.awaits (p : Packet) (k : Copy) : Bool :=
  k.running && decide (0 < k.acks) && k.target == p.src && k.serial == p.tag && k.region == p.ctx.toNat % 16

/-- An acknowledgement of a mirror copy's packet: with the last one the copy goes on, and a bad status ends it (R508, R509). -/
def copyAcked (p : Packet) : Fx :=
  Fx.look fun s => match s.hub.copies.find? (fun k => k.2.awaits p) with
    | none => Fx.skip
    | some (id, k) =>
      if p.aux.toNat = stOk then (onCopy id (fun k => { k with acks := k.acks - 1 })).andThen (copyGoesOn id)
      else endCopies (fun o => o == k) p.aux.toNat

/-- An acknowledgement reaches its requester. -/
def acknowledge (link : Nat) (p : Packet) : Fx :=
  Fx.look fun s => (takePacket link p).andThen
    (if p.job = 0#16 then copyAcked p
     else match s.replyCtx p with
       | some c => Fx.ctx c (fun x => { x with ops := x.ops.map (Op.acked p.tag p.aux.toNat) })
       | none => Fx.skip)

/-- WRITE_ACK. -/
def execWriteAck (link : Nat) (p : Packet) (s : State) : Host.Outcome State Fault Refusal :=
  (onPacket 0x11 link p (acknowledge link p)).outcome s

/-- SIGNAL_ACK. -/
def execSignalAck (link : Nat) (p : Packet) (s : State) : Host.Outcome State Fault Refusal :=
  (onPacket 0x12 link p (acknowledge link p)).outcome s

/-- LINK_MGMT: the packet is consumed; its subtypes have no effect that the manual names (R401). -/
def execLinkMgmt (link : Nat) (p : Packet) (s : State) : Host.Outcome State Fault Refusal :=
  (onPacket 0x30 link p (takePacket link p)).outcome s

end Sys2Proof.Machine
end

