-- ==== Sys2Proof/Machine/PowerEv.lean ====
section
/-! DEFINITION. Supply, clocks and cooling (19 R582 to R603; 20 R607, R612): what the feeds, the regulators, the clock root, the
power-cap loop and the temperature sensors do to the module. -/
namespace Sys2Proof.Machine

/-! ## Feeds (R582 to R587, R607) -/

/-- A feed that does not serve carries no current (R582, R586). -/
def Feed.settled (f : Feed) : Feed := { f with current := if f.state = 2 then f.current else 0 }

/-- Bring-up restarts at step 1 when both feeds lie below 40 V in steps 1 to 7 (R568). -/
def restartAt1 : Fx :=
  Fx.look fun s => Fx.when (decide (s.hub.stage ≤ 7) && !s.hub.warm && s.power.feeds.all (fun f => decide (f.mv < 40000)))
    ((Fx.hub (fun h => { h with stage := 1 })).andThen stopTraining)

/-- Change one feed; the sideband runs from AUX_3V3 while both are absent (R622), a shutdown at 120 °C ends when the feeds have been
cycled (R602), and bring-up restarts where both lie below 40 V (R568). -/
def onFeed (i : Nat) (f : Feed → Feed) : Fx :=
  Fx.all [
    Fx.power (fun p => { p with feeds := p.feeds.modify i (fun g => (f g).settled) }),
    Fx.look fun s => Fx.sideband (fun b => { b with auxOnly := s.power.feeds.all (fun f => f.state == 0) }),
    Fx.power (fun p => { p with down := p.down && !p.feeds.all (fun f => !f.qualified) }), restartAt1]

/-- A feed's register. -/
def State.feed (s : State) (i : Nat) : Feed :=
  s.power.feeds.getD i { mv := 0, current := 0, state := 0, enabled := false, qualified := false }

/-- A SUPPLY event of a feed (R587): the hub raises it while a feed serves. -/
def supplyEvent (i cause cls : Nat) (mv : Int) : Fx :=
  Fx.look fun s => Fx.when s.power.serving.isSome (raise (452 + i) cls 0x0703 none i cause (lowBits 32 mv))

/-- A feed carries the load. -/
def serveFeed (i : Nat) : Fx := (Fx.power (fun p => { p with serving := some i })).andThen (onFeed i (fun f => { f with state := 2 }))

/-- A feed has gone: the other one serves, or the module has lost power; a lost standby leaves no backup (R583, R585, R587). -/
def feedGone (i : Nat) (mv : Int) (was : Feed) : Fx :=
  Fx.look fun s =>
    let other := 1 - i
    if s.power.serving = some i then
      if (s.feed other).qualified then (serveFeed other).andThen (supplyEvent i 0 1 mv)
      else Fx.all [Fx.power (fun p => { p with serving := none }), Fx.sideband (fun b => { b with thermtrip := false }), losePower]
    else Fx.when was.qualified (supplyEvent i 6 3 mv)

/-- FEED_QUALIFY: 10 ms within the operating range with the enable contact low (R582, R607). A tripped fuse stays open, and its
voltage reads (R586). -/
def execFeedQualify (feed : Nat) (mv : Int) (s : State) : Host.Outcome State Fault Refusal :=
  let g := s.feed feed
  (withInBand (Fx.when (decide (feed < 2) && decide (40000 ≤ mv) && decide (mv ≤ 60000))
    (if g.state = 4 then onFeed feed (fun f => { f with mv := mv })
     else (onFeed feed (fun f =>
         { f with mv := mv, enabled := true, qualified := true, state := if f.qualified then f.state else 1 })).andThen
       (Fx.look fun t => Fx.when (t.power.serving.isNone && !t.power.down) (serveFeed feed))))).outcome s

/-- State of a feed that lies outside the disqualifying limits (R582, R585, R586): a fuse closes below 5 V, a reversed feed is released
when its polarity is correct. -/
def Feed.outside (mv : Int) (f : Feed) : Feed :=
  let st := if f.state = 4 && 5000 ≤ mv then 4 else if f.state = 3 && mv < 0 then 3 else if 61000 < mv then 5 else 0
  { f with mv := mv, qualified := false, state := st }

/-- FEED_DISQUALIFY: below 39.0 V or above 61.0 V (R582, R583); between the two limits a feed keeps its standing, and its voltage
reads (R586). -/
def execFeedDisqualify (feed : Nat) (mv : Int) (s : State) : Host.Outcome State Fault Refusal :=
  let g := s.feed feed
  (withInBand (Fx.when (decide (feed < 2))
    (if decide (mv < 39000) || decide (61000 < mv) then Fx.all [
       onFeed feed (Feed.outside mv),
       Fx.when (decide (61000 < mv) && g.state != 5) (supplyEvent feed 4 2 mv),
       feedGone feed mv g]
     else onFeed feed (fun f => { f with mv := mv, state := if f.state = 3 then 0 else f.state })))).outcome s

/-- FEED_RETURN: feed A has qualified for 100 ms while feed B serves (R583). -/
def execFeedReturn (mv : Int) (s : State) : Host.Outcome State Fault Refusal :=
  (withInBand (Fx.when ((s.feed 0).qualified && s.power.serving == some 1) (Fx.all [
    onFeed 0 (fun f => { f with mv := mv }), serveFeed 0, onFeed 1 (fun f => { f with state := 1 }),
    supplyEvent 0 1 0 mv]))).outcome s

/-- FUSE_TRIP: the fuse stays open until it is rearmed or the feed falls below 5 V (R582, R585). -/
def execFuseTrip (feed : Nat) (mv : Int) (s : State) : Host.Outcome State Fault Refusal :=
  let g := s.feed feed
  (withInBand (Fx.when (decide (feed < 2)) (Fx.all [
    onFeed feed (fun f => { f with mv := mv, qualified := false, state := 4 }),
    supplyEvent feed 3 2 mv, feedGone feed mv g]))).outcome s

/-- FEED_ENABLE_RELEASE: the enable contact goes high and the fuse opens (R607). -/
def execFeedEnableRelease (feed : Nat) (mv : Int) (s : State) : Host.Outcome State Fault Refusal :=
  let g := s.feed feed
  (withInBand (Fx.when (decide (feed < 2)) (Fx.all [
    onFeed feed (fun f => { f with mv := mv, enabled := false, qualified := false, state := if f.state = 4 then 4 else 0 }),
    feedGone feed mv g]))).outcome s

/-- FEED_REVERSED (R585). -/
def execFeedReversed (feed : Nat) (mv : Int) (s : State) : Host.Outcome State Fault Refusal :=
  let g := s.feed feed
  (withInBand (Fx.when (decide (feed < 2) && decide (mv < 0)) (Fx.all [
    onFeed feed (fun f => { f with mv := mv, qualified := false, state := 3 }),
    supplyEvent feed 2 2 mv, feedGone feed mv g]))).outcome s

/-- A write of 1 to `rearm` closes a tripped fuse (R585, R586). -/
def rearmFeed (feed : Nat) : Fx := onFeed feed (fun f => { f with state := if f.state = 4 then 0 else f.state })

/-- REARM: a sideband write, lost while both buses are faulty (R585, R620). -/
def execRearm (feed : Nat) (s : State) : Host.Outcome State Fault Refusal :=
  (withInBand (Fx.when (s.sideband.busA = 0 || s.sideband.busB = 0) (rearmFeed feed))).outcome s

/-! ## Regulators (R589, R590) -/

/-- A rail that the module has. -/
def railFitted (g : Grade) (r : Nat) : Bool := decide (r < Grade.fields g) || r == 8 || r == 9

/-- PHASE_FAIL: the phase is switched out; the first time a rail falls below N is an event of its own (R589, R590). -/
def execPhaseFail (rail : Nat) (s : State) : Host.Outcome State Fault Refusal :=
  let n := s.power.phases.getD rail 0
  let left := n - 1
  (withInBand (Fx.when (railFitted s.grade rail && decide (0 < n)) (Fx.all [
    Fx.power (fun p => { p with phases := p.phases.set rail left }),
    raise 457 2 0x0703 none rail 7 left,
    Fx.when (left + 1 == railN rail) (raise 457 3 0x0703 none rail 8 left),
    Fx.when (decide (8 ≤ rail) && left + 1 == railN rail) (addMin rail)]))).outcome s

/-! ## The power-cap loop (R584, R590, R597) -/

/-- The input limit of R584 in mW: 170 A × the serving feed's voltage. -/
def State.feedLimit (s : State) : Nat :=
  match s.power.serving with
  | some i => 170 * (s.feed i).mv.toNat
  | none => 0

/-- The limit of a field's own draw in units of 1/18 W, where its rail has fewer than N phases (R590). -/
def State.railLimit (s : State) (f : Nat) : Option Nat :=
  let n := s.power.phases.getD f 0
  if n < 18 then some (720 * n) else none

/-- A field draws more than its rail's limit. -/
def State.overRail (s : State) (draw : List Nat) (f : Nat) : Bool :=
  match s.railLimit f with
  | some l => decide (l < 18 * draw.getD f 0)
  | none => false

/-- Everything stays below 95 % of its limit. -/
def State.underCap (s : State) (watts : Nat) (draw : List Nat) : Bool :=
  decide (100 * watts < 95 * s.power.hostCap) && decide (100000 * watts < 95 * s.feedLimit)
    && s.serving.all (fun f => match s.railLimit f with
      | some l => decide (1800 * draw.getD f 0 < 95 * l)
      | none => true)

/-- The cause for which the loop slows the fields, in THROTTLE's code (R599); none where nothing is above its limit. -/
def State.capCause (s : State) (watts : Nat) (draw : List Nat) : Option Nat :=
  if s.serving.any (s.overRail draw) then some 5
  else if s.power.hostCap < watts && 1000 * s.power.hostCap ≤ s.feedLimit then some 1
  else if s.feedLimit < 1000 * watts then some 6
  else if s.power.hostCap < watts then some 1
  else if s.power.inletHot then some 4
  else none

/-- The loop slows every field in service by one level; where all are at the slowest already it raises THROTTLE. -/
def slowFields (cause : Nat) : Fx :=
  Fx.look fun s =>
    if s.serving.all (fun f => s.level f == 4) then
      Fx.each s.serving (fun f => raise (56 * f + 29) 1 0x0701 none (2 ^ f) (levelMhz 4) cause)
    else withThrottle cause (Fx.each s.serving (fun f => Fx.field f (fun g => { g with capLevel := min 4 (s.level f + 1) })))

/-- The loop speeds every field in service up by one level, never beyond the host's setting. -/
def speedFields (cause : Nat) : Fx :=
  Fx.look fun s => withThrottle cause (Fx.each s.serving (fun f =>
    Fx.field f (fun g => { g with capLevel := if g.capLevel ≤ g.hostStep then g.capLevel else g.capLevel - 1 })))

/-- A field whose own draw stays above its rail's limit for ten periods at the slowest level is fenced and failed (R597). -/
def overdrawn (draw : List Nat) (f : Nat) : Fx :=
  Fx.look fun s =>
    if s.level f = 4 && s.overRail draw f then
      if (s.field f).overCap = 9 then Fx.all [fenceOnly f, failField f, trainingWaits, checkSet]
      else Fx.field f (fun g => { g with overCap := g.overCap + 1 })
    else Fx.field f (fun g => { g with overCap := 0 })

/-- The start of the power-cap loop's next period after a cycle (R597). -/
def nextPeriod (n : Nat) : Nat := (n / 1000 + 1) * 1000

/-- POWER_CAP_PERIOD: the average input power, and each field's own draw, over the last 1,000 local cycles. -/
def execPowerCapPeriod (watts : Nat) (fieldWatts : List Nat) (s : State) : Host.Outcome State Fault Refusal :=
  (withInBand (Fx.when s.power.serving.isSome (Fx.all [
    Fx.setNow (nextPeriod s.now),
    Fx.each s.power.serving.toList (fun i => onFeed i (fun f => { f with current := watts * 10000 / f.mv.toNat })),
    Fx.each s.serving (overdrawn fieldWatts),
    (match s.capCause watts fieldWatts with
     | some c => Fx.all [
         Fx.when (c == 6) (Fx.each s.power.serving.toList (fun i => supplyEvent i 5 1 (s.feed i).mv)),
         Fx.power (fun p => { p with under := 0 }), slowFields c]
     | none =>
       if s.underCap watts fieldWatts then
         if s.power.under = 9 then (Fx.power (fun p => { p with under := 0 })).andThen (speedFields 1)
         else Fx.power (fun p => { p with under := p.under + 1 })
       else Fx.power (fun p => { p with under := 0 }))]))).outcome s

/-- MIN_POWER_EXIT: no cause of minimum power has remained for 1 s (R598). -/
def execMinPowerExit (s : State) : Host.Outcome State Fault Refusal :=
  (Fx.when (s.power.minPower && s.power.minCauses.isEmpty) ((Fx.setNow (s.power.minSince + 100000000)).andThen
    (withThrottle 7 (Fx.power (fun p => { p with minPower := false }))))).outcome s

/-! ## Temperature (R601, R602) -/

/-- The level that a sensor's reading asks for: one step more above the limit, the slowest at the critical temperature. -/
def hotter (limit critical celsius old : Nat) : Nat :=
  if critical ≤ celsius then 4 else if limit < celsius then max old (min 3 (old + 1)) else old

/-- THERMAL_THROTTLE: sensor 0 is the field's die, 1 its HBM stacks. -/
def execThermalThrottle (field sensor celsius : Nat) (s : State) : Host.Outcome State Fault Refusal :=
  (Fx.when (decide (field < Grade.fields s.grade))
    (if sensor = 0 then withThrottle 2 (Fx.field field (fun g => { g with dieLevel := hotter 100 110 celsius g.dieLevel }))
     else withThrottle 3 (Fx.field field (fun g => { g with hbmLevel := hotter 90 95 celsius g.hbmLevel })))).outcome s

/-- THERMAL_RELEASE. -/
def execThermalRelease (field sensor celsius : Nat) (s : State) : Host.Outcome State Fault Refusal :=
  (Fx.when (decide (field < Grade.fields s.grade))
    (if sensor = 0 then withThrottle 2 (Fx.field field (fun g => { g with dieLevel := if celsius ≤ 95 then 0 else g.dieLevel }))
     else withThrottle 3 (Fx.field field (fun g => { g with hbmLevel := if celsius ≤ 85 then 0 else g.hbmLevel })))).outcome s

/-- THERMTRIP: every regulator goes off; the module restarts only when the feeds have been cycled (R602, R614, R622). -/
def execThermtrip (s : State) : Host.Outcome State Fault Refusal :=
  (withInBand (Fx.all [
    Fx.power (fun p => { p with serving := none, down := true
                                feeds := p.feeds.map (fun f => Feed.settled { f with state := if f.state = 2 then 1 else f.state }) }),
    Fx.sideband (fun b => { b with thermtrip := true }), losePower])).outcome s

/-- The estimated flow in 0.1 L/min (R601, R603): the flow whose heat capacity carries the input power at the measured temperature rise.
DEDUCED (log 129): PG25's 1.02 kg/L and 3.9 kJ/(kg·K) of R600; no rise saturates the estimate. -/
def estimatedFlow (r : Coolant) : Nat :=
  if r.outlet ≤ r.inlet then 255 else min 255 (6000 * r.watts / (3978 * (r.outlet - r.inlet)))

/-- The cycle since which a condition has held, if it holds at a reading. -/
def heldSince (now : Nat) (since : Option Nat) (holds : Bool) : Option Nat := if holds then some (since.getD now) else none

/-- A condition has held for 1 s. -/
def heldLong (now : Nat) (since : Option Nat) : Bool := since.any (fun c => decide (c + 100000000 ≤ now))

/-- The sensors' registers after a reading in a cycle (R601, R603). -/
def Power.sense (now : Nat) (r : Coolant) (p : Power) : Power :=
  let cold := heldSince now p.coldSince (decide (r.outlet + 10 < r.inlet) && decide (500 < r.watts))
  { p with inlet := min 4095 r.inlet, outlet := min 4095 r.outlet, flow := estimatedFlow r, leak := p.leak || r.leak, leakWet := r.leak
           slowSince := heldSince now p.slowSince (decide (estimatedFlow r < 100) && decide (1500 < r.watts)), coldSince := cold
           reversedFlow := heldLong now cold, inletHot := decide (450 < r.inlet) || (p.inletHot && decide (440 < r.inlet)) }

/-- The conditions of R601 that a reading meets, by cause; causes 3 and 4 after 1 s. -/
def Power.coolingCauses (now : Nat) (r : Coolant) (p : Power) : List Nat :=
  (if 450 < r.inlet then [1] else []) ++ (if 500 < r.inlet then [2] else []) ++ (if heldLong now p.slowSince then [3] else [])
    ++ (if heldLong now p.coldSince then [4] else []) ++ (if r.leak then [5] else [])

/-- Class of a COOLING event (R601). -/
def coolingClass (c : Nat) : Nat := if c = 1 then 1 else if c = 5 then 3 else 2

/-- Causes of R601 in force. -/
def Power.cooling (p : Power) : List Nat := (if p.inletHot then [1] else []) ++ p.minCauses.filter (fun c => decide (c ≤ 5))

/-- COOLING: a reading some cycles after the last one; each condition that it begins raises its event, and conditions act while they hold
(R601, R603). -/
def execCooling (reading : Coolant) (s : State) : Host.Outcome State Fault Refusal :=
  (withInBand (Fx.all [
    Fx.setNow (s.now + reading.after),
    Fx.look fun u => Fx.power (Power.sense u.now reading),
    Fx.look fun u =>
      let holds := u.power.coolingCauses u.now reading
      let fresh := holds.filter (fun c => !s.power.cooling.contains c)
      Fx.all [
        Fx.each fresh (fun c => raise 454 (coolingClass c) 0x0704 none c reading.inlet reading.outlet),
        Fx.each (fresh.filter (fun c => decide (2 ≤ c))) addMin,
        Fx.each ([2, 3, 4, 5].filter (fun c => !holds.contains c)) dropMin],
    checkSet])).outcome s

/-! ## Clocks (R592, R593) and the port's pluggable (R612) -/

/-- The clock root selects a source (R592). -/
def selectClock (external : Bool) : Fx :=
  (Fx.power (fun p => { p with external := external })).andThen (raise 451 1 0x0702 none (b2n (!external)) 0 0)

/-- REFCLK_LOST. -/
def execRefclkLost (s : State) : Host.Outcome State Fault Refusal :=
  (withInBand (Fx.when s.power.external (selectClock false))).outcome s

/-- REFCLK_RETURN. -/
def execRefclkReturn (s : State) : Host.Outcome State Fault Refusal :=
  (withInBand (Fx.when (!s.power.external) (selectClock true))).outcome s

/-- PLL_LOCK_LOSS: the clocks that a locked PLL feeds stop, and the module warm-resets (R593). PLLs lock in step 2 of R565. -/
def execPllLockLoss (p : PllLoss) (s : State) : Host.Outcome State Fault Refusal :=
  (withInBand (Fx.when (decide (3 ≤ s.hub.stage)) (startWarm p.found))).outcome s

/-- PLUGGABLE_INSERT: one that declares more than 18 W is held in low power, and the port stays down, so that no queue pair is left
(R612; log 130). The manual gives its event no code and no class: free values (log 3). -/
def execPluggableInsert (watts : Nat) (s : State) : Host.Outcome State Fault Refusal :=
  let v := (Config.freeValue s.freeCtr).toNat
  (if 18 < watts then withInBand (Fx.all [
     Fx.port (fun p => { p with pluggableHeld := true, up := false }), closeQps (fun _ => true),
     Fx.bumpFree, raise 449 (v % 4) (v / 4 % 65536) none 0 0 0, checkSet])
   else Fx.port (fun p => { p with pluggableHeld := false })).outcome s

end Sys2Proof.Machine
end

