-- ==== Sys2Proof/Machine/Saving.lean ====
section
/-! DEFINITION. Preemption, and tile rows on their way to and from the save areas (05 R154 to R162). -/
namespace Sys2Proof.Machine

/-! ## Preemption (R160, R161) -/

/-- A field is free again when a preempted operation has no row left to save on it (R161). -/
def freeIfSaved (f c : Nat) (seq : U32) : Fx :=
  Fx.look fun s => Fx.when (!(s.field f).tileRows.any (fun r => r.state = .saving && r.ctx == c))
    (Fx.field f (fun g => { g with running := g.running.filter (fun e => !(e.1 == c && e.2 == seq)) }))

/-- Stop an operation at its pass boundary: its context's open and held rows on its fields are to be saved, and the shadow is
discarded (R114, R160). -/
def preemptOp (c : Nat) (o : Op) : Fx :=
  Fx.all [
    onOp c o.seq (fun p => { p with preempted := true }),
    Fx.each o.fields (fun f => (Fx.field f (fun g =>
      { g with shadow := none
               tileRows := g.tileRows.map (fun r => if (r.state = .open || r.state = .held) && r.ctx == c then
                 { r with state := .saving, resumes := r.state } else r) })).andThen (freeIfSaved f c o.seq))]

/-- The running operations of lower priority that hold a field which a context's operation needs (R160). DESIGN CHOICE (log 137): one
without passes, which waits for its inputs, stops where it stands. -/
def State.preemptible (s : State) (c : Nat) (o : Op) : List (Nat × Op) :=
  ((s.wants o).filterMap (fun f => (s.field f).running)).eraseDups.filterMap (fun e =>
    (s.op? e.1 e.2).bind (fun q =>
      if q.phase = .running && !q.preempted && decide ((s.ctx e.1).priority.toNat < (s.ctx c).priority.toNat) then some (e.1, q) else none))

/-- PREEMPT: the context's ready operations, its next one and those that were preempted themselves (R160). -/
def execPreempt (ctx : Nat) (s : State) : Host.Outcome State Fault Refusal :=
  (Fx.each (s.readyOps ctx) (fun o => Fx.look fun s => Fx.each (s.preemptible ctx o) (fun e => preemptOp e.1 e.2))).outcome s

/-- A preempted operation may take its fields again: they are available, free and saved, and no ready operation goes first
(R130, R162). -/
def State.mayResume (s : State) (c : Nat) (o : Op) : Bool :=
  o.preempted && o.fields.all (fun f => s.available f && (s.field f).running = none
    && !(s.field f).tileRows.any (fun r => r.state = .saving && r.ctx == c)) && !s.outranked c o

/-! ## Saving (R154 to R157) -/

/-- Bytes of a saved record. -/
def recordBytes : Nat := 294976

/-- The header bytes 4 to 63 of a saved record (R155). -/
def recordBody (f t : Nat) (r : TileRow) : List Byte :=
  leBytes 2 (lowBits 16 r.anchor) ++ leBytes 1 r.ctx ++ leBytes 1 (if r.resumes = .held then 2 else 1) ++ leBytes 2 r.gen.toNat
    ++ leBytes 1 f ++ leBytes 1 t ++ leBytes 4 r.seq.toNat ++ leBytes 4 r.passesDone ++ leBytes 4 r.partials.toNat
    ++ List.replicate 40 0#8

/-- A listed word or a fresh one for each key from `k` on. -/
def wordBytes : Nat → Nat → List (Nat × L128) → List (List Byte)
  | 0, _, _ => []
  | n + 1, k, [] => L128.zero.bytes :: wordBytes n (k + 1) []
  | n + 1, k, (j, w) :: l => if j = k then w.bytes :: wordBytes n (k + 1) l else L128.zero.bytes :: wordBytes n (k + 1) ((j, w) :: l)

/-- A saved record (R154, R155). -/
def savedRecord (f t : Nat) (r : TileRow) : List Byte :=
  let payload := (wordBytes 16384 0 r.words).flatten
  let body := recordBody f t r
  leBytes 4 (crc32c (body ++ payload)).toNat ++ body ++ payload

/-- The rank of a record among a context's saved tile rows of a field in ascending index; of equal indices the one saved first comes
first (R156). `before` are the records saved before it. -/
def saveRank (k : SavedRow) (before after : List SavedRow) : Nat :=
  before.countP (fun q => q.field == k.field && decide (q.index ≤ k.index))
    + after.countP (fun q => q.field == k.field && decide (q.index < k.index))

/-- A context's records with their slots: every record of the field stands at its rank (R156; log 98). -/
def rankedRows (f : Nat) (before : List SavedRow) : List SavedRow → List SavedRow
  | [] => []
  | k :: l => (if k.field = f then { k with slot := saveRank k before l } else k) :: rankedRows f (before ++ [k]) l

/-- The memory key of a context's record slot on a field (R156). -/
def Ctx.recordKey (x : Ctx) (f slot : Nat) : Nat := memKey 0 (gaOffset (x.saveArea.getD f 0#64).toNat + recordBytes * slot)

/-- Records that change their slot move as they stand, with their poison: `new` lists them, and what is saved beside them, at their new
slots. -/
def moveRecords (f c : Nat) (new : List SavedRow) : Fx :=
  Fx.look fun s =>
    let x := s.ctx c
    let moves := (x.saved.zip new).filter (fun p => p.1.slot ≠ p.2.slot)
    (Fx.each (moves.map (fun p =>
        let key := x.recordKey f p.1.slot
        (x.recordKey f p.2.slot, s.mem.bytes key recordBytes,
          ((wordsOf key recordBytes).filter (fun w => !s.mem.wordOk w)).map (fun w => w - key / 64))))
      (fun m => writeLocal m.1 m.2.1 m.2.2)).andThen (Fx.ctx c (fun x => { x with saved := new }))

/-- A tile row as the basin reads it for its save (R150). -/
def TileRow.readOut (r : TileRow) : TileRow := { r with words := r.words.map (fun w => (w.1, w.2.checked)) }

/-- A context's records once a tile row is saved beside them, the new one last. -/
def State.savedWith (s : State) (f t : Nat) (r : TileRow) : List SavedRow :=
  let x := s.ctx r.ctx
  rankedRows f [] (x.saved ++ [{ field := f, slot := 0, index := t, preempt := x.ops.any (fun o => o.preempted && o.fields.contains f)
                                 row := { r with words := [] } }])

/-- TILE_ROW_SAVE. DESIGN CHOICE (log 99): a row waits while its context's 256 slots on the field are full. Memory that serves no access
ends the operation whose row it is (R377). -/
def execTileRowSave (field tileRow : Nat) (s : State) : Host.Outcome State Fault Refusal :=
  let r := (s.field field).tileRows.getD tileRow TileRow.reset
  let x := s.ctx r.ctx
  let new := s.savedWith field tileRow r
  let off := gaOffset (x.saveArea.getD field 0#64).toNat + recordBytes * ((new.getLast?.map SavedRow.slot).getD 0)
  (Fx.when (r.state = .saving && decide (x.saved.countP (fun k => k.field == field) < 256)) (match s.access 0 off recordBytes with
    | .stall => Fx.skip
    | .stop st => match s.op? r.ctx r.seq with
      | some o => matFail r.ctx o (Stop.plain st)
      | none => Fx.skip
    | .ok => Fx.all [
        raiseEvs r.ctx r.seq (rowFaults field tileRow r.words),
        moveRecords field r.ctx new,
        Fx.memWrite (memKey 0 off) (savedRecord field tileRow r.readOut),
        Fx.field field (fun g => { g with tileRows := g.tileRows.set tileRow TileRow.reset, savedCount := g.savedCount + 1#32 }),
        progress field 1,
        Fx.each (x.ops.filter (fun o => o.preempted && o.fields.contains field)) (fun o => freeIfSaved field r.ctx o.seq)])).outcome s

/-! ## Restoring (R158, R159, R162) -/

/-- The record that a field restores next for a context, and the operation it serves: rows of a resumed operation, or held rows
of the chain that the running operation continues. -/
def State.restorable (s : State) (f c : Nat) : Option (SavedRow × Op) :=
  (s.matOn f).bind (fun e =>
    let (d, o, u, _) := e
    if d ≠ c then none
    else ((s.ctx c).saved.find? (fun k => k.field == f && (k.preempt || (!u.granted && u.chain && k.row.out == recOut o.record)))).map
      (fun k => (k, o)))

/-- The words of a record's payload that are not zero words. -/
def recordWords (payload : List Byte) : List (Nat × L128) :=
  (((List.range 16384).zip (chunks 18 16384 payload)).map (fun p => (p.1, L128.ofBytes p.2))).filter (fun p => p.2 != L128.zero)

/-- The stored residue of a word's 18 bytes agrees with its S + W (R90, R158). -/
def storedOk (b : List Byte) : Bool :=
  field b 17 1 == res255 (signedOf 128 (field b 0 16) + signedOf 4 (field b 16 1 / 16) * 2 ^ 128)

/-- The checks of R158. DESIGN CHOICE (log 100): a reserved state value fails them too. -/
def recordOk (s : State) (c : Nat) (key : Nat) (bs : List Byte) : Bool :=
  s.mem.rangeOk key recordBytes && field bs 0 4 == (crc32c (bs.drop 4)).toNat && field bs 6 1 % 16 == c
    && (field bs 7 1 == 1 || field bs 7 1 == 2) && field bs 8 2 % 4096 == (s.ctx c).gen.toNat
    && (chunks 18 16384 (bs.drop 64)).all storedOk

/-- A tile row as a record restores it; what the record does not hold, the basin kept. -/
def restoredRow (k : SavedRow) (bs : List Byte) : TileRow :=
  { k.row with
    state := if field bs 7 1 = 2 then .held else .open, anchor := fieldS bs 4 2, passesDone := field bs 16 4
    partials := BitVec.ofNat 8 (field bs 20 4), resumes := .open, words := recordWords (bs.drop 64) }

/-- The events of the words of a record that cannot be corrected (R513), as its restore reads them for an operation. -/
def recordEvents (s : State) (key : Nat) : List Ev :=
  ((s.mem.errorWords key recordBytes).filter s.mem.wordDouble).map (fun w =>
    let off := 64 * w % 2 ^ 44
    ⟨memSource 0 off, 2, 0x0A03, s.own * 2 ^ 48 + off, s.placeOf 0 off⟩)

/-- A record whose checks fail ends the operation (R158); a held row of the chain stays saved (R159), and any other's record is
dropped. DESIGN CHOICE (log 95): the operation's other records stay among those that the context's next operation restores. -/
def keepRecord (k : SavedRow) (l : List SavedRow) : List SavedRow :=
  if k.row.resumes = .held then l.map (fun q => if q = k then { q with preempt := false } else q) else l.erase k

/-- TILE_ROW_RESTORE. Where no row is free the field evicts held ones, for a chain's restore (R159) and, DESIGN CHOICE (log 138), for that of a
preempted operation too. -/
def execTileRowRestore (field ctx : Nat) (s : State) : Host.Outcome State Fault Refusal :=
  (match s.restorable field ctx with
   | none => Fx.skip
   | some (k, o) =>
     let key := memKey 0 (gaOffset ((s.ctx ctx).saveArea.getD field 0#64).toNat + recordBytes * k.slot)
     let bs := s.mem.bytes key recordBytes
     if (s.field field).tileRows.all (fun r => decide (r.state ≠ TileState.free)) then evictFor ctx field 1 (fun r => r.ctx == ctx && r.out == k.row.out)
     else match s.access 0 (key % 2 ^ 44) recordBytes with
       | .stall => Fx.skip
       | .stop st => (Fx.ctx ctx (fun x => { x with saved := keepRecord k x.saved })).andThen (matFail ctx o (Stop.plain st))
       | .ok => Fx.all [
           raiseEvs ctx o.seq (recordEvents s key),
           touchRange key recordBytes,
           if recordOk s ctx key bs then Fx.all [
             Fx.ctx ctx (fun x => { x with saved := x.saved.erase k }),
             Fx.field field (fun g => { g with tileRows := takeFree (restoredRow k bs) 1 g.tileRows, restoredCount := g.restoredCount + 1#32 }),
             progress field 1]
           else (Fx.ctx ctx (fun x => { x with saved := keepRecord k x.saved })).andThen (matFail ctx o (Stop.plain stPoisoned))]).outcome s

end Sys2Proof.Machine
end

