-- ==== Sys2Proof/Machine/SidebandEv.lean ====
section
/-! DEFINITION. The sideband (20 R614 to R622; 18 R568): register writes, the start of the Ethernet port, the reset line, the
faults of the buses. -/
namespace Sys2Proof.Machine

/-! ## NET_CTRL and apply (R618, R619) -/

/-- The read-write fields of NET_CTRL. -/
def Port.netCtrl (v : Nat) (p : Port) : Port :=
  { p with priority := BitVec.ofNat 3 v, ipv4On := bitOf v 3, ipv6On := bitOf v 4, ipv6Len := BitVec.ofNat 8 (v / 32) }

/-- The port can come up with the values it holds: one address family, and a valid IPv6 prefix (R619). -/
def Port.usable (p : Port) : Bool := (p.ipv4On || p.ipv6On) && decide (p.ipv6Len.toNat ≤ 128)

/-- A write of 1 to `apply`: every queue pair closes, and the port comes up with the held values, or stays down; before
bring-up step 8 the values are only held, and step 8 waits for values with which the port can come up (R565 step 8, R619; log 69). A pluggable in low power keeps the port down (R612). -/
def applyPort : Fx :=
  Fx.look fun s => Fx.when (decide (8 ≤ s.hub.stage)) (Fx.all [
    closeQps (fun _ => true),
    Fx.port (fun p => { p with up := p.usable && !p.pluggableHeld }),
    Fx.hub (fun h => { h with stage := if h.stage = 8 && s.port.usable then 9 else h.stage }),
    checkSet])

/-- A write to NET_CTRL. -/
def writeNetCtrl (v : Nat) : Fx := (Fx.port (Port.netCtrl v)).andThen (Fx.when (bitOf v 13) applyPort)

/-- A bus takes transfers (R620). -/
def State.busOk (s : State) (bus : Nat) : Bool := if bus = 0 then s.sideband.busA == 0 else s.sideband.busB == 0

/-- A register write that has arrived on a bus: of two to one register that finish in the same cycle, bus A's stands (R616; log 131). -/
def busWrite (bus addr : Nat) (fx : Fx) : Fx :=
  Fx.look fun s =>
    if bus = 0 then (Fx.sideband (fun b => { b with lastA := some (addr, s.now) })).andThen fx
    else Fx.when (s.sideband.lastA != some (addr, s.now)) fx

/-- APPLY: a write to NET_CTRL with `apply` set. -/
def execApply (bus : Nat) (value : U64) (s : State) : Host.Outcome State Fault Refusal :=
  (withInBand (Fx.when (s.busOk bus && bitOf value.toNat 13) (busWrite bus 0x0050 (writeNetCtrl value.toNat)))).outcome s

/-! ## Registers (R569, R586, R603, R616 to R618) -/

/-- BOOT_STAGE (R569). -/
def Hub.bootWord (h : Hub) : Nat := h.stage + 2 ^ 4 * h.noImage.toNat + 2 ^ 7 * h.fallback.toNat + 2 ^ 10 * h.bank.toNat

/-- PWR_FEED (R586). -/
def Feed.word (f : Feed) : Nat := lowBits 16 (f.mv / 10) + 2 ^ 16 * min 65535 f.current + 2 ^ 32 * f.state

/-- COOLANT (R603). -/
def Power.coolantWord (p : Power) : Nat :=
  p.inlet + 2 ^ 12 * p.outlet + 2 ^ 24 * p.flow + 2 ^ 32 * b2n p.leak + 2 ^ 33 * b2n p.reversedFlow + 2 ^ 34 * b2n p.minPower

/-- NET_CTRL (R618). -/
def Port.ctrlWord (p : Port) : Nat :=
  p.priority.toNat + 2 ^ 3 * b2n p.ipv4On + 2 ^ 4 * b2n p.ipv6On + 2 ^ 5 * p.ipv6Len.toNat + 2 ^ 14 * b2n p.up

/-- What a sideband address reads as (R617); one that the map does not name reads as zero (R616). No row of the table reads it. -/
def State.sidebandWord (s : State) (addr : Nat) : Nat :=
  match addr with
  | 0x0000 => s.hub.bootWord
  | 0x0008 => (s.feed 0).word
  | 0x0010 => (s.feed 1).word
  | 0x0018 => s.power.coolantWord
  | 0x0020 => s.service
  | 0x0028 => s.sideband.word
  | 0x0030 => s.port.mac.toNat
  | 0x0038 => s.port.ipv4.toNat
  | 0x0040 => s.port.ipv6.toNat % 2 ^ 64
  | 0x0048 => s.port.ipv6.toNat / 2 ^ 64
  | 0x0050 => s.port.ctrlWord
  | a => if 0x0100 ≤ a && a ≤ 0x02F8 && a % 8 = 0 then leNat ((List.range 8).map (fun i => tableGet s.sideband.fru (a - 0x0100 + i) 0#8))
         else 0


/-- A write of eight bytes to an address of the map (R617): read-only registers and other addresses ignore it. -/
def writeSideband (addr v : Nat) : Fx :=
  match addr with
  | 0x0008 => Fx.when (bitOf v 35) (rearmFeed 0)
  | 0x0010 => Fx.when (bitOf v 35) (rearmFeed 1)
  | 0x0018 => Fx.power (fun p => { p with leak := p.leakWet || (p.leak && !bitOf v 32) })
  | 0x0028 => Fx.sideband (fun b => { b with resetIgnored := clear1 v 5 8 b.resetIgnored })
  | 0x0030 => Fx.port (fun p => { p with mac := BitVec.ofNat 48 v })
  | 0x0038 => Fx.port (fun p => { p with ipv4 := BitVec.ofNat 40 v })
  | 0x0040 => Fx.port (fun p => { p with ipv6 := BitVec.ofNat 128 (p.ipv6.toNat / 2 ^ 64 * 2 ^ 64 + v % 2 ^ 64) })
  | 0x0048 => Fx.port (fun p => { p with ipv6 := BitVec.ofNat 128 (p.ipv6.toNat % 2 ^ 64 + v * 2 ^ 64) })
  | 0x0050 => writeNetCtrl v
  | _ => Fx.skip

/-- SIDEBAND_WRITE: it takes effect when its 2 address and 8 data bytes have all arrived with correct parity (R616). -/
def execSidebandWrite (bus : Nat) (addr : U16) (data : List Byte) (parityOk : Bool) (s : State) : Host.Outcome State Fault Refusal :=
  (withInBand (Fx.when (s.busOk bus && parityOk && data.length == 8) (busWrite bus addr.toNat (writeSideband addr.toNat (leNat data))))).outcome s

/-! ## The reset line (R568, R620, R621) -/

/-- A pulse on the line is ignored and counted (R622). -/
def ignorePulse : Fx := Fx.sideband (fun b => { b with resetIgnored := satAdd 255 b.resetIgnored 1 })

/-- SB_RESET_PULSE: the line returns high after `micros` µs. During bring-up the module restarts at step 3 (R568); without a feed that
serves there is no module to restart. -/
def execSbResetPulse (micros : Nat) (found : BringUp) (s : State) : Host.Outcome State Fault Refusal :=
  (withInBand (
    if s.sideband.resetStuck || micros < 1000 then ignorePulse
    else Fx.when (decide (micros ≤ 100000) && (decide (2 ≤ s.hub.stage) || s.power.serving.isSome))
      (if s.hub.stage ≤ 7 && !s.hub.warm then bringUpFrom3 found else startWarm found.boot))).outcome s

/-- RESET_STUCK: the line has been low for 100 ms. -/
def execResetStuck (s : State) : Host.Outcome State Fault Refusal :=
  (withInBand (Fx.sideband (fun b => { b with resetStuck := true }))).outcome s

/-- RESET_STUCK_RELEASE: the line has been high for 100 ms. -/
def execResetStuckRelease (s : State) : Host.Outcome State Fault Refusal :=
  (withInBand (Fx.sideband (fun b => { b with resetStuck := false }))).outcome s

/-! ## Output pins (R614) -/

/-- The level of SB_LEAK_N: low while the leak sensor is wet. -/
def State.sbLeakN (s : State) : Bool := !s.power.leakWet

/-- The level of SB_THERMTRIP_N: low after a shutdown at 120 °C, until the feeds are cycled (R602). -/
def State.sbThermtripN (s : State) : Bool := !s.power.down

/-- The level of PRESENT_N, tied to ground on the module. -/
def presentN : Bool := false

/-! ## Bus faults (R620, R622) -/

/-- The state of a bus in SB_STATUS. -/
def setBus (bus st : Nat) : Fx := Fx.sideband (fun b => if bus = 0 then { b with busA := st } else { b with busB := st })

/-- SIDEBAND_BUS_FAULT. -/
def execSidebandBusFault (bus : Nat) (fault : BusFault) (s : State) : Host.Outcome State Fault Refusal :=
  (withInBand (setBus bus (match fault with
    | .shortedLow => 1
    | .openOrHigh => 2))).outcome s

/-- SIDEBAND_BUS_RECOVER. -/
def execSidebandBusRecover (bus : Nat) (s : State) : Host.Outcome State Fault Refusal := (withInBand (setBus bus 0)).outcome s

end Sys2Proof.Machine
end

