-- ==== Sys2Proof/Machine/Witness.lean ====
section
/-! DEFINITION. Witness comparisons (10 R339 to R343): which tiles an operation compares, the recomputation in FP32, the bound. -/
namespace Sys2Proof.Machine

/-! ## What an operation compares (R341) -/

/-- The group of a row (R274). -/
def groupOf (offsets : List Nat) (m : Nat) : Nat :=
  ((List.range (offsets.length - 1)).find? (fun g => decide (offsets.getD g 0 ≤ m) && decide (m < offsets.getD (g + 1) 0))).getD 0

/-- The coordinate of operand 0 (A) or 1 (B) that an output element reads at k. -/
def operandAt (r : List Byte) (g : Geo) (offsets : List Nat) (operand : Nat) (y : List Nat) (k : Nat) : Option (List Nat) :=
  let (p, m, n) := placeOfOut r g y
  if operand = 0 then g.aAt p m k else some (g.bAt p (groupOf offsets m) k n)

/-- The view of an operand. -/
def Geo.operand (g : Geo) (i : Nat) : Desc := if i = 0 then g.a else g.b

/-- An output tile depends on a tile of an operand. -/
def dependsOn (r : List Byte) (g : Geo) (offsets : List Nat) (operand picked : Nat) (j : List Nat) : Bool :=
  let d := g.operand operand
  (g.out.elems j).any (fun e => (List.range g.k).any (fun k =>
    (operandAt r g offsets operand e.2 k).any (fun z => d.tidx (d.tileOf z) == picked)))

/-- The memory key of a context's witness slot (R339). -/
def Ctx.witnessKey (x : Ctx) (k : Nat) : Nat := memKey 0 (gaOffset x.witnessBase.toNat + 4160 * k)

/-- What reading a witness slot meets: a poisoned word, a failed seal or a poison flag (R24, R211, R513, R514). -/
def witnessFault (s : State) (f : Nat) (x : Ctx) (k : Nat) : Option (List Ev) :=
  let key := x.witnessKey k
  let slot := s.mem.bytes key 4160
  match (wordsOf key 4160).find? (fun w => !s.mem.wordOk w) with
  | some w => some [⟨memSource 0 (64 * w), 2, 0x0A03, s.own * 2 ^ 48 + 64 * w, s.placeOf 0 (64 * w)⟩]
  | none =>
    if !sealOk slot then some [⟨56 * f + 5, 2, 0x0A02, s.own * 2 ^ 48 + key, 5⟩]
    else if bitOf (Header.parse slot).flags 0 then some []
    else none

/-- The first used slot whose header a lookup cannot read (R513). -/
def lookupFault (s : State) (f : Nat) (x : Ctx) : Option (List Ev) :=
  ((List.range (min x.witnessUsed x.witnessSlots)).find? (fun k => !s.mem.wordOk (x.witnessKey k / 64))).bind (witnessFault s f x)

/-- The headers that a lookup reads: those of the used slots. -/
def lookupReads (x : Ctx) : List Nat := (List.range (min x.witnessUsed x.witnessSlots)).map x.witnessKey

/-- The witness slot of a stored tile in a context's area: the newest with its tensor ID, index and step. -/
def witnessOf (s : State) (x : Ctx) (step : U32) (h : Header) : Option Nat :=
  ((List.range (min x.witnessUsed x.witnessSlots)).filter (fun k =>
    let w := Header.parse (s.mem.bytes (x.witnessKey k) 64)
    s.mem.wordOk (x.witnessKey k / 64) && w.tid = h.tid && w.tidx = h.tidx && field w.tail 0 4 = step.toNat)).getLast?

/-- The comparisons that a `witness` operation starts: for each input tile with a witness slot, the output tile of lowest linear index
that depends on it, of those that the output stores (R205). -/
def comparisonsOf (s : State) (c : Nat) (o : Op) (u : MatRun) : List Comparison :=
  let x := s.ctx c
  let r := o.record
  let g := geoOf x r
  if !recWitness r || g.k = 0 then []
  else ([0, 1].map (fun i =>
    let d := g.operand i
    ((List.range d.tileCount).filter (fun t => !d.offGrid (unrank d.grid t))).filterMap (fun t =>
      let h := Header.parse (slotBytesOf s o (d.slotAddr (unrank d.grid t)) 64).1
      if bitOf h.flags 3 then none
      else (witnessOf s x o.step h).bind (fun k =>
        (g.out.outTiles.find? (dependsOn r g u.offsets i t)).map (fun j =>
          { ctx := c, seq := o.seq, tile := g.out.tidx j, operand := i, picked := t, slot := k, anchor := u.anchor, sums := [], base := [] }))))).flatten

/-! ## The recomputation (R341) -/

/-- The quantum of a stored element (R341) before its block scale: of a float its last place, of an integer one unit. -/
def quantumOf (code bits : Nat) : Rat :=
  match formatKind code with
  | some (.float _ m b _ _) => match decodeElem code bits with
    | .fin q => pow2 (if q = 0 then 1 - b - m else quantumExp m b (ratAbs q))
    | _ => 0
  | some .mxint => pow2 (-6)
  | _ => 1

/-- The smallest normal value of a format. -/
def smallestNormal (code : Nat) : Rat :=
  match formatKind code with
  | some (.float _ _ b _ _) => pow2 (1 - b)
  | _ => 0

/-- The rounding bound of a stored element (R341): under `ftz` the format's smallest normal value, where it has one (log 31). -/
def roundingBound (code mode scale bits : Nat) : Rat :=
  let q := quantumOf code bits
  let e := if mode % 8 = 0 then q / 2 else q
  (if bitOf mode 5 && smallestNormal code ≠ 0 then smallestNormal code else e) * pow2 ((scale : Int) - 127)

/-- A running FP32 sum: none once it has no finite value. -/
def addRound (up : Bool) (acc : Option Rat) (x : Option Rat) : Option Rat :=
  match acc, x with
  | some a, some b => match fp32Val (if up then fp32Up (a + b) else fp32Of false (a + b)) with
    | .fin q => some q
    | _ => none
  | _, _ => none

/-- One term of the three sums: o_k x_k, |o_k| e_k, |o_k x_k|. -/
structure WitTerm where
  w : Option Rat
  e : Option Rat
  p : Option Rat
  deriving DecidableEq, Repr

/-- The finite value of an operand. -/
def Val.fin? : Val → Option Rat
  | .fin q => some q
  | _ => none

/-- The term of an output element at k: the picked tile's elements take their witness values and bounds, every other element
its stored value. -/
def witTerm (r : List Byte) (g : Geo) (offsets : List Nat) (k : Comparison) (ta tb : Tens) (mode : Nat) (wit : Array Nat)
    (y : List Nat) (i : Nat) : WitTerm :=
  let d := g.operand k.operand
  let tp := if k.operand = 0 then ta else tb
  let other := if k.operand = 0 then tb else ta
  let ov := match operandAt r g offsets (1 - k.operand) y i with
    | some z => (other.pre z).val.fin?
    | none => some 0
  match operandAt r g offsets k.operand y i with
  | none => ⟨some 0, some 0, some 0⟩
  | some z =>
    let here := d.tidx (d.tileOf z) == k.picked
    let xv := if here then (fp32Val (wit.getD (d.pos z) 0)).fin? else (tp.pre z).val.fin?
    let e : Rat := if here then roundingBound d.code mode (tp.scale z) (tp.bits z) else 0
    let prod := ov.bind (fun a => xv.map (fun b => a * b))
    ⟨prod, ov.map (fun a => ratAbs a * e), prod.map ratAbs⟩

/-- The ratio of an output (R342) as FP32 bits rounded up, and whether it exceeds 1; none where a sum has no finite value. -/
def ratioOf (kk : Nat) (anchor : Int) (w e p : Option Rat) (y : Val) : Option (Nat × Bool) :=
  match w, e, p, y with
  | some w, some e, some p, .fin y =>
    let beta := e + ((kk + 1 : Nat) : Rat) * pow2 (-24) * p + (kk : Rat) * pow2 (anchor - 96)
    let diff := ratAbs (y - w)
    some (if beta = 0 then (if diff = 0 then (0, false) else (fp32Inf, true)) else (fp32Up (diff / beta), decide (beta < diff)))
  | _, _, _, _ => none

/-- A word at a stored position. -/
def wordAt (l : List (Nat × L128)) (p : Nat) : L128 := ((l.find? (fun q => q.1 == p)).map Prod.snd).getD L128.zero

/-- The sum that an operation has added at a stored position: what its words came to beyond the held ones that it continued. DEDUCED
(log 30): this is the y of R342 in a chain. -/
def Comparison.sumAt (k : Comparison) (p : Nat) : L128 :=
  let w := wordAt k.sums p
  let b := wordAt k.base p
  if w.tag = .fin && b.tag = .fin then L128.ofInt (w.t - b.t) else w

/-- The ratios of a comparison's outputs. -/
def ratios (s : State) (o : Op) (u : MatRun) (x : Ctx) (k : Comparison) (ta tb : Tens) : List (Option (Nat × Bool)) :=
  let g := geoOf x o.record
  let slot := s.mem.bytes (x.witnessKey k.slot) 4160
  let mode := field slot 60 1
  let wit := unpackElems 0x00 (slot.drop 64)
  (g.out.elems (unrank g.out.grid k.tile)).map (fun e =>
    let ts := (List.range g.k).map (witTerm o.record g u.offsets k ta tb mode wit e.2)
    let sum := fun (up : Bool) (f : WitTerm → Option Rat) => ts.foldl (fun a t => addRound up a (f t)) (some 0)
    let y := (k.sumAt e.1).resolve k.anchor
    ratioOf g.k k.anchor (sum false WitTerm.w) (sum true WitTerm.e) (sum true WitTerm.p) y.val)

/-- The data of a comparison (R14, R341): the picked tile's place and step, the witness values, both operands, the exact sums by stored
position. -/
def Comparison.key (o : Op) (k : Comparison) (wit : Array Nat) (ta tb : Tens) : List Int :=
  let elems := fun (t : Tens) => (t.tiles.toList.map (fun d => d.elems.toList)).flatten
  ([k.tile, k.operand, k.picked, o.step.toNat, o.seed.toNat] ++ wit.toList ++ elems ta ++ elems tb).map (fun (n : Nat) => (n : Int))
    ++ [k.anchor] ++ (List.range 1024).map (fun p => (k.sumAt p).t)

/-- Ratios whose value the manual does not state are free and fixed by the comparison's data (log 30). -/
def freeRatios (key : List Int) (l : List (Option (Nat × Bool))) : List (Nat × Bool) :=
  (l.zip (List.range l.length)).map (fun q => q.1.getD
    (let b := (Config.freeOf key q.2).toNat % 2 ^ 31; (b, decide (0x3F800000 < b))))

/-- The comparison is over. -/
def endComparison (f : Nat) (k : Comparison) : Fx :=
  ((Fx.field f (fun g => { g with comparisons := g.comparisons.erase k })).andThen (progress f 5)).andThen
    (onOp k.ctx k.seq (fun o => { o with comparisons := o.comparisons - 1 }))

/-- The lens takes a comparison's ratios; each output above 1 raises an event (R342, R344, R552). -/
def bookRatios (f : Nat) (k : Comparison) (tid : Nat) (l : List (Nat × Bool)) : Fx :=
  let top := l.foldl (fun m q => max m q.1) 0
  let overs := l.countP Prod.snd
  Fx.all [
    Fx.ctx k.ctx (fun x => { x with lens :=
      { x.lens with compared := x.lens.compared + l.length, disagree := x.lens.disagree + overs
                    maxRatio := if x.lens.maxRatio.toNat < top then BitVec.ofNat 32 top else x.lens.maxRatio } }),
    raiseEvs k.ctx k.seq (List.replicate overs ⟨56 * f + 5, 1, 0x0202, tid, k.tile⟩),
    endComparison f k]

/-- A comparison that meets poison ends its operation with `POISONED` (R24, R512). -/
def poisonedComparison (f : Nat) (k : Comparison) (l : List Ev) : Fx :=
  Fx.all [raiseEvs k.ctx k.seq l, poisonOp k.ctx k.seq, endComparison f k]

/-- A tile of an operand that a comparison reads: the compared output tile depends on it. -/
def Comparison.reads (r : List Byte) (g : Geo) (offsets : List Nat) (k : Comparison) (i : Nat) (j : List Nat) : Bool :=
  dependsOn r g offsets i ((g.operand i).tidx j) (unrank g.out.grid k.tile)

/-- WITNESS_COMPARE: the first comparison whose exact sums are there; what it reads counts (R350). -/
def execWitnessCompare (field : Nat) (s : State) : Host.Outcome State Fault Refusal :=
  (match (s.field field).comparisons.find? (fun (k : Comparison) => !k.sums.isEmpty) with
   | none => Fx.skip
   | some k => match s.op? k.ctx k.seq with
     | none => endComparison field k
     | some o => match o.mat with
       | none => endComparison field k
       | some u =>
         let v := s.asIssued k.ctx o
         let x := v.ctx k.ctx
         let g := geoOf x o.record
         let meets := k.reads o.record g u.offsets
         if k.sums.any (fun w => w.2.poison) then poisonedComparison field k []
         else (touchRange (x.witnessKey k.slot) 4160).andThen <| match witnessFault s field x k.slot with
           | some l => poisonedComparison field k l
           | none => (Fx.each (tileSlots s.own g.a (meets 0) ++ tileSlots s.own g.b (meets 1)) (fun q => touchRange (localKey q.1) q.2)).andThen <|
             match readWhere v { o with fields := [field] } g.a (meets 0), readWhere v { o with fields := [field] } g.b (meets 1) with
             | .error e, _ => poisonedComparison field k e.events
             | _, .error e => poisonedComparison field k e.events
             | .ok ta, .ok tb =>
               let wit := unpackElems 0x00 ((s.mem.bytes (x.witnessKey k.slot) 4160).drop 64)
               bookRatios field k g.out.tid (freeRatios (k.key o wit ta tb) (ratios v o u x k ta tb))).outcome s

end Sys2Proof.Machine
end

