-- ==== Sys2Proof/Machine/Start.lean ====
section
/-! DEFINITION. Operations from their start to their end (08 R255, R258 to R264; 04 R129 to R131; 09, 10, 13): guards, the
fields taken, inputs fetched from peers and host windows, the work of each opcode, signals, waits and completion. -/
namespace Sys2Proof.Machine

/-! ## What an opcode does -/

/-- The work of an opcode that reads whole tensors and writes whole tensors (R265). -/
def workOf (op : Nat) : Option (State → Nat → Op → Result) :=
  match op with
  | 0x2000 => some (reduceSumWork false)
  | 0x2001 => some (reduceSumWork true)
  | 0x2002 => some reduceMaxWork
  | 0x2010 => some normalizeWork
  | 0x2020 => some scatterWork
  | 0x3000 => some vectorWork
  | 0x3001 => some convertWork
  | 0x3002 => some randomWork
  | 0x4000 => some copyWork
  | 0x4001 => some fillWork
  | 0x4002 | 0x4003 => some prismWork
  | 0x6002 => some optimizeWork
  | _ => none

/-- An operation's work is done; its last writes are landing (R260). -/
def land (c : Nat) (seq : U32) : Fx := onOp c seq (fun o => { o with phase := .landing })

/-- An operation of the basin before its grant: ATTENTION runs by rows of its own (R286). -/
def MatRun.waiting (fields : Nat) : MatRun :=
  { anchor := 0, chosen := false, axis := 0, shares := [], grant := 0, rows := [], firstLoad := [], granted := false
    progress := List.replicate fields 0, waits := [], offsets := [], chain := false, poisoned := false, staged := [] }

/-- A matrix operation starts (R67, R127, R152, R275, R341): one with M = 0 or N = 0 runs no pass and writes nothing. -/
def startMatrix (c : Nat) (o : Op) : Fx :=
  Fx.look fun s =>
    let v := s.asIssued c o
    let ends := fun (x : Stop) => Fx.all [raiseEvs c o.seq x.events, failOp c o.seq x.status, land c o.seq]
    (Fx.each (matReads v c o) (fun p => touchRange (localKey p.1) p.2)).andThen (
    if emptyProduct o.record then match matEnter v c o with
      | .error x => ends x
      | .ok _ => land c o.seq
    else match matStart v c o with
      | .error x => ends x
      | .ok u =>
        let ks := comparisonsOf v c o u
        Fx.all [
          onOp c o.seq (fun p => { p with mat := some u, comparisons := ks.length }),
          (match (if recWitness o.record then lookupFault v (o.fields.headD 0) (v.ctx c) else none) with
           | some l => (raiseEvs c o.seq l).andThen (poisonOp c o.seq)
           | none => Fx.skip),
          Fx.when (recWitness o.record) (Fx.each (lookupReads (v.ctx c)) (fun k => touchRange k 64)),
          Fx.when (!ks.isEmpty) ((Fx.field (o.fields.headD 0) (fun g => { g with comparisons := g.comparisons ++ ks })).andThen
            (progress (o.fields.headD 0) 5))])

/-- SCALE_UPDATE's work (R334 to R337). -/
def runScale (c : Nat) (o : Op) : Fx :=
  Fx.look fun s =>
    match scaleWork (s.asIssued c o) c o with
    | .error x => applyResult c o.seq (Result.stop x)
    | .ok (new, pieces) => (Fx.ctx c (fun x => { x with keeper := keptEntries new x.keeper })).andThen
        (applyResult c o.seq (Result.of pieces))

/-! ## Synchronisation (R263, R264, R314) -/

/-- The payload of a SIGNAL packet (R401). -/
def signalPayload (r : List Byte) : List Byte :=
  pad32 (leBytes 1 (recParam r 34 1 % 16) ++ leBytes 1 (recParam r 35 1 % 16) ++ leBytes 2 0 ++ leBytes 4 (recParam r 36 4))

/-- SIGNAL's work: a counter of a context of this module, or a packet to a peer (R263). -/
def runSignal (c : Nat) (o : Op) : Fx :=
  Fx.look fun s =>
    let r := o.record
    let node := recParam r 32 2
    let t := recParam r 34 1 % 16
    if node = 0xFFFF || node = s.own then
      (if (s.ctx t).state = .active || (s.ctx t).state = .stopped then
        addSync t (recParam r 35 1 % 16) (BitVec.ofNat 32 (recParam r 36 4))
       else failOp c o.seq stNotPermitted).andThen (land c o.seq)
    else if s.own = 0xFFFF || (s.pathTo (s.opPort c o.seq) 1 node (s.ctx c).job.toNat).isNone then
      (failOp c o.seq stNoResource).andThen (land c o.seq)
    else withTag (fun tag => Fx.all [
      onOp c o.seq (fun p => { p with acks := p.acks ++ [tag] }),
      sendPacket (s.opPort c o.seq) (Packet.request 0x04 node s.own (s.ctx c).job.toNat c (s.ctx c).gen.toNat tag.toNat 0 0
        (signalPayload r)),
      land c o.seq])

/-! ## Running (R257, R260) -/

/-- An operation whose inputs are all there does its work. -/
def runWork (c : Nat) (o : Op) : Fx :=
  Fx.look fun s =>
    let op := recOp o.record
    if isArrayOp op then startMatrix c o
    else if op = 0x1010 && emptyProduct o.record then land c o.seq
    else if op = 0x1010 then onOp c o.seq (fun p => { p with mat := some (MatRun.waiting o.fields.length) })
    else if isCollective op then startCollective c o.seq
    else if op = 0x6000 then (Fx.ctx c (Ctx.stepBegin o.record)).andThen (land c o.seq)
    else if op = 0x6001 then (stepEndFx c o.seq (s.leadField (recGroup o.record))).andThen (land c o.seq)
    else if op = 0x6003 then runScale c o
    else if op = 0x7000 then Fx.when (waitMet (s.ctx c) o.record) (land c o.seq)
    else if op = 0x7001 then runSignal c o
    else match workOf op with
      | some w => applyResult c o.seq (w (s.asIssued c o) c o)
      | none => land c o.seq

/-- An operation that has waited for its inputs meets its slots on this module again: memory that serves no access any more ends it,
and sets that are coming on are awaited (R364, R377). -/
def meetAgain (c : Nat) (o : Op) (go : Fx) : Fx :=
  Fx.look fun s =>
    match s.readsAgain c o with
    | .stop st => (failOp c o.seq st).andThen (land c o.seq)
    | _ => (Fx.each (s.localReads c o) (fun p => awaitSets (gaSpace p.1) (gaOffset p.1) p.2)).andThen go

/-- Go on with an operation when nothing is outstanding and it is not preempted; a fetch that failed ends it (R162, R260, R383). -/
def goOn (c : Nat) (seq : U32) : Fx :=
  Fx.look fun s =>
    match s.op? c seq with
    | none => Fx.skip
    | some o =>
      if !o.needs.isEmpty || !o.later.isEmpty || o.phase ≠ .running || o.preempted then Fx.skip
      else if o.status ≠ 0#16 then land c seq
      else if o.fetched.isEmpty then runWork c o
      else meetAgain c o (runWork c o)

/-- PREEMPTED_RESUME: the operation has its fields again; one that had not begun its work goes on as its inputs allow (R162). -/
def execPreemptedResume (ctx : Nat) (s : State) : Host.Outcome State Fault Refusal :=
  (match (s.ctx ctx).ops.find? (s.mayResume ctx) with
   | none => Fx.skip
   | some o => Fx.all [
       onOp ctx o.seq (fun p => { p with preempted := false }),
       Fx.each o.fields (fun f => (Fx.field f (fun g => { g with running := some (ctx, o.seq) })).andThen (progress f 0)),
       Fx.when o.mat.isNone (goOn ctx o.seq)]).outcome s

/-! ## Inputs that lie off the module (R381, R401, R536) -/

/-- Pieces of at most 512 bytes: address and length. -/
def cutRange : Nat → Nat → Nat → List (Nat × Nat)
  | 0, _, _ => []
  | n + 1, ga, len => if len = 0 then [] else (ga, min 512 len) :: cutRange n (ga + 512) (len - 512)

/-- A mover has a free descriptor (R491). -/
def Mover.hasFree (m : Mover) : Bool := decide (m.queued.length + m.executing.length < 64)

/-- The mover of a field that takes the next descriptor (R491). DESIGN CHOICE (log 74): the lowest with the most free ones. -/
def Field.freeMover (g : Field) : Option Nat :=
  (List.range 64).findSome? (fun n => g.movers.findIdx? (fun m => decide (m.queued.length + m.executing.length = n)))

/-- A mover queues a descriptor for a read of a COPY (R491); its work begins (R479). -/
def takeDescriptor (f m c : Nat) (tag : U32) : Fx :=
  Fx.look fun s =>
    let idle := (s.field f).movers[m]?.any (fun v => v.queued.isEmpty && v.executing.isEmpty)
    (Fx.field f (fun g => { g with movers := g.movers.modify m (fun v => { v with queued := v.queued ++ [(c, tag)] }) })).andThen
      (Fx.when idle (progress f (8 + m)))

/-- An operation asks for bytes that lie off the module, and waits for them. -/
def need (c : Nat) (seq : U32) (tag : U32) (ga len : Nat) : Fx :=
  onOp c seq (fun o => { o with needs := o.needs ++ [{ tag := tag, addr := ga, len := len }] })

/-- The field whose movers fetch a slot: for COPY that of the destination supertile (R216, R309), else the operation's first. -/
def State.fetchField (s : State) (c : Nat) (o : Op) (ga : Nat) : Nat :=
  let x := (s.ctx c).asIssued o
  let first := o.fields.headD (s.leadField (recGroup o.record))
  if recOp o.record = 0x4000 then
    let a := x.desc (recIn o.record 0)
    ((copyTiles a (x.desc (recOut o.record))).find? (fun p =>
      decide (a.slotAddr p.2 ≤ ga) && decide (ga < a.slotAddr p.2 + slotBytes a.code))).elim first
      (fun p => fieldOfTile o.fields (x.desc (recOut o.record)) p.1)
  else first

/-- Ask for a piece of a slot: by RDMA READ through a host window, else by a READ_REQ packet (R381, R401, R536). A COPY's read takes a
descriptor of a mover of its field, and waits while none is free (R309, R491). -/
def fetchPiece (c : Nat) (o : Op) (ga len : Nat) : Fx :=
  Fx.look fun s =>
    let f := s.fetchField c o ga
    let mover := (s.field f).freeMover
    let isCopy := recOp o.record = 0x4000
    let taken := fun (tag : U32) => (need c o.seq tag ga len).andThen (match mover with
      | some m => Fx.when isCopy (takeDescriptor f m c tag)
      | none => Fx.skip)
    if isCopy && mover.isNone then onOp c o.seq (fun p => { p with later := p.later ++ [(ga, len)] })
    else if gaNode ga = 0xFFFF || gaNode ga = s.own then
      match s.window? (gaOffset ga) len with
      | some w => withTag (fun tag => Fx.all [
          taken tag, askHost w.qp w.key (w.va.toNat + gaOffset ga % 2 ^ 40) len tag,
          Fx.look fun t => Fx.when (t.port.reads.any (fun r => r.sent && r.tag == tag)) (startDescriptor tag)])
      | none => failOp c o.seq stBadParam
    else if (s.pathTo (32 + f) 1 (gaNode ga) (s.ctx c).job.toNat).isNone then failOp c o.seq stNoResource
    else withTag (fun tag => (taken tag).andThen (sendPacket (32 + f)
      (Packet.request 0x01 (gaNode ga) s.own (s.ctx c).job.toNat c (s.ctx c).gen.toNat tag.toNat ga len [])))

/-- Ask for a slot that lies off the module: a host window gives it whole, a peer in pieces of at most 512 bytes (R401, R536). -/
def fetchSlot (c : Nat) (o : Op) (ga len : Nat) : Fx :=
  Fx.look fun s =>
    if gaNode ga = 0xFFFF || gaNode ga = s.own then fetchPiece c o ga len
    else Fx.each (cutRange 64 ga len) (fun q => fetchPiece c o q.1 q.2)

/-- A piece that waits for a descriptor asks again (R491). -/
def fetchLater (c : Nat) : Fx :=
  Fx.look fun s =>
    match (s.ctx c).ops.find? (fun o => !o.later.isEmpty && (s.field (s.fetchField c o (o.later.headD (0, 0)).1)).freeMover.isSome) with
    | none => Fx.skip
    | some o => (onOp c o.seq (fun p => { p with later := p.later.drop 1 })).andThen
        (fetchPiece c o (o.later.headD (0, 0)).1 (o.later.headD (0, 0)).2)

/-! ## Start (R129 to R131, R255, R258, R486) -/

/-- The fields that an operation runs on: those of its chain (R152), the lowest alone for a prism operation in place (R216), else
the available ones of its group (R131). -/
def State.runFields (s : State) (c : Nat) (o : Op) : List Nat :=
  let x := (s.ctx c).asIssued o
  let av := s.groupAvail (recGroup o.record)
  match x.chain? o with
  | some k => k.fields
  | none =>
    if isPrism (recOp o.record) && (x.desc (recIn o.record 0)).sameRange s.own (x.desc (recOut o.record)) then av.take 1 else av

/-- The anchor of a destination on this module that a record's mode asks for, as the operation starts (R253). -/
def State.destStart (s : State) (c : Nat) (o : Op) : Option (Except Stop Int) :=
  let d := ((s.ctx c).asIssued o).desc (recOut o.record)
  if recAnchorMode o.record = 3 && recOut o.record ≠ 0xFFFF && !emptyProduct o.record && isLocal s.own d.base then
    some (destAnchor (s.asIssued c o) o d)
  else none

/-- An operation as it begins to run (R131, R152, R253, R486), with the residue checks that fail in its own additions; those of the
matrix operations come with their passes (R512). -/
def State.begun (s : State) (x : Launch) (o : Op) : Op :=
  { o with
    phase := .running, startCycle := s.now, degraded := groupFailed s o.record, fields := s.runFields x.ctx o
    dest := match s.destStart x.ctx o with
      | some (.ok a) => some a
      | _ => none
    faults := if isMatrixOp (recOp o.record) then [] else x.faults }

/-- A field runs an operation; a shadow that was loaded for another is discarded (R124, R129, R130). -/
def Field.runs (c : Nat) (seq : U32) (g : Field) : Field :=
  { g with running := some (c, seq), lastStarted := c, shadow := g.shadow.filter (fun b => b.ctx == c && b.seq == seq) }

/-- An operation takes its fields, whose engines begin to work (R479), and reads its slots on this module (R350): a COPY, which is no tile
read (R513), word by word; a product or a collective reads as it goes. -/
def takeOp (x : Launch) (o : Op) : Fx :=
  Fx.look fun s =>
    let c := x.ctx
    let op := recOp o.record
    let o' := s.begun x o
    Fx.all [
      onOp c o.seq (fun _ => o'),
      progress (s.leadField (recGroup o.record)) 6,
      Fx.when (holdsFields op) (Fx.each o'.fields (fun f =>
        (Fx.field f (Field.runs c o.seq)).andThen (Fx.each [0, 3, 4] (progress f)))),
      Fx.when (!isArrayOp op && !isCollective op) (Fx.each (s.localReads c o) (fun p =>
        if op = 0x4000 then plainRead (s.who c) o.seq.toNat (localKey p.1) p.2 else touchRange (localKey p.1) p.2))]

/-- An operation begins on its fields. -/
def begin (x : Launch) (o : Op) : Fx :=
  Fx.look fun s =>
    let c := x.ctx
    let o' := s.begun x o
    let away := (readSlots ((s.ctx c).asIssued o) o.record).filter (fun p => !isLocal s.own p.1)
    Fx.all [
      takeOp x o,
      -- R253: an operation that waits for inputs has its destination's anchor, or fails for want of one, from its start
      match (if away.isEmpty then none else s.destStart c o) with
      | some (.error e) => (raiseEvs c o.seq e.events).andThen (failOp c o.seq e.status)
      | _ => Fx.each away (fun p => fetchSlot c o' p.1 p.2),
      goOn c o.seq]

/-- The fields that an operation will run on are free for it: those of its chain, or the available ones of its group
(R129, R131, R152); a preempted operation of the context keeps its own. -/
def canStart (s : State) (c : Nat) (o : Op) : Bool :=
  let r := o.record
  let x := (s.ctx c).asIssued o
  let fs := match x.chain? o with
    | some k => k.fields
    | none => s.groupAvail (recGroup r)
  if holdsFields (recOp r) then
    fieldsReady s r && !s.outranked c o && fs.all (fun f => s.available f && (s.field f).running = none)
      && !(s.ctx c).ops.any (fun p => p.preempted && p.fields.any (fun f => fs.contains f))
  else
    !(s.groupAvail (recGroup r)).isEmpty
      && (!recNoShrink r || (s.groupAvail (recGroup r)).length = (groupFields (recGroup r)).length)

/-- Start an operation that is next in its context. -/
def startOp (x : Launch) (o : Op) : Fx :=
  Fx.look fun s =>
    let c := x.ctx
    let r := o.record
    match x.parity with
    | some off => heldParity c o off
    | none => if (s.ctx c).guardHolds (recGuard r) then
      (Fx.when (decide (recOp r = 0x6002)) (Fx.ctx c (fun x => { x with skipped := true }))).andThen (endOp c o stSkipped)
    else if groupDead s r then endOp c o stFieldFailed
    else if !canStart s c o then Fx.skip
    else if isPrism (recOp r) && !prismOverlapOk s.own ((s.ctx c).asIssued o) r then endOp c o stOverlap
    else match s.recordAccess ((s.ctx c).asIssued o) r with
      | .stall => Fx.skip
      | .stop st => endOp c o st
      | .ok => begin x o

/-- The row of an opcode: the context's next operation, when it has that opcode. -/
def startRow (op : Nat) (x : Launch) : Fx :=
  Fx.look fun s =>
    match s.nextOp? x.ctx with
    | none => Fx.skip
    | some o => Fx.when (decide (recOp o.record = op)) (startOp x o)

/-! ## The rows -/

/-- MATMUL (R270 to R273). -/
def execMatmul (x : Launch) (s : State) : Host.Outcome State Fault Refusal := (startRow 0x1000 x).outcome s
/-- MATMUL_GROUPED (R274 to R276). -/
def execMatmulGrouped (x : Launch) (s : State) : Host.Outcome State Fault Refusal := (startRow 0x1001 x).outcome s
/-- CONV (R277 to R280). -/
def execConv (x : Launch) (s : State) : Host.Outcome State Fault Refusal := (startRow 0x1002 x).outcome s
/-- ATTENTION (R281 to R286). -/
def execAttention (x : Launch) (s : State) : Host.Outcome State Fault Refusal := (startRow 0x1010 x).outcome s
/-- REDUCE_SUM (R287 to R289). -/
def execReduceSum (x : Launch) (s : State) : Host.Outcome State Fault Refusal := (startRow 0x2000 x).outcome s
/-- REDUCE_SUMSQ (R287 to R289). -/
def execReduceSumsq (x : Launch) (s : State) : Host.Outcome State Fault Refusal := (startRow 0x2001 x).outcome s
/-- REDUCE_MAX (R287 to R289). -/
def execReduceMax (x : Launch) (s : State) : Host.Outcome State Fault Refusal := (startRow 0x2002 x).outcome s
/-- NORMALIZE (R290 to R292). -/
def execNormalize (x : Launch) (s : State) : Host.Outcome State Fault Refusal := (startRow 0x2010 x).outcome s
/-- SCATTER_ADD (R293 to R296). -/
def execScatterAdd (x : Launch) (s : State) : Host.Outcome State Fault Refusal := (startRow 0x2020 x).outcome s
/-- VECTOR (R297 to R304). -/
def execVector (x : Launch) (s : State) : Host.Outcome State Fault Refusal := (startRow 0x3000 x).outcome s
/-- CONVERT (R305, R306). -/
def execConvert (x : Launch) (s : State) : Host.Outcome State Fault Refusal := (startRow 0x3001 x).outcome s
/-- RANDOM (R307, R308). -/
def execRandom (x : Launch) (s : State) : Host.Outcome State Fault Refusal := (startRow 0x3002 x).outcome s
/-- COPY (R309). -/
def execCopy (x : Launch) (s : State) : Host.Outcome State Fault Refusal := (startRow 0x4000 x).outcome s
/-- FILL (R310). -/
def execFill (x : Launch) (s : State) : Host.Outcome State Fault Refusal := (startRow 0x4001 x).outcome s
/-- PERMUTE (R311). -/
def execPermute (x : Launch) (s : State) : Host.Outcome State Fault Refusal := (startRow 0x4002 x).outcome s
/-- GATHER (R311). -/
def execGather (x : Launch) (s : State) : Host.Outcome State Fault Refusal := (startRow 0x4003 x).outcome s
/-- REDUCE_SCATTER (R451, R452). -/
def execReduceScatter (x : Launch) (s : State) : Host.Outcome State Fault Refusal := (startRow 0x5000 x).outcome s
/-- ALL_REDUCE (R451 to R453). -/
def execAllReduce (x : Launch) (s : State) : Host.Outcome State Fault Refusal := (startRow 0x5001 x).outcome s
/-- REDUCE (R451 to R453). -/
def execReduce (x : Launch) (s : State) : Host.Outcome State Fault Refusal := (startRow 0x5002 x).outcome s
/-- ALL_GATHER (R451 to R453). -/
def execAllGather (x : Launch) (s : State) : Host.Outcome State Fault Refusal := (startRow 0x5003 x).outcome s
/-- BROADCAST (R451 to R453). -/
def execBroadcast (x : Launch) (s : State) : Host.Outcome State Fault Refusal := (startRow 0x5004 x).outcome s
/-- STEP_BEGIN (R317 to R319). -/
def execStepBegin (x : Launch) (s : State) : Host.Outcome State Fault Refusal := (startRow 0x6000 x).outcome s
/-- STEP_END (R317, R320). -/
def execStepEnd (x : Launch) (s : State) : Host.Outcome State Fault Refusal := (startRow 0x6001 x).outcome s
/-- OPTIMIZE (R324 to R333). -/
def execOptimize (x : Launch) (s : State) : Host.Outcome State Fault Refusal := (startRow 0x6002 x).outcome s
/-- SCALE_UPDATE (R334 to R337). -/
def execScaleUpdate (x : Launch) (s : State) : Host.Outcome State Fault Refusal := (startRow 0x6003 x).outcome s
/-- WAIT (R264). -/
def execWait (x : Launch) (s : State) : Host.Outcome State Fault Refusal := (startRow 0x7000 x).outcome s
/-- SIGNAL (R263). -/
def execSignal (x : Launch) (s : State) : Host.Outcome State Fault Refusal := (startRow 0x7001 x).outcome s

/-! ## The end (R260, R264) -/

/-- An operation has nothing left to wait for (R260); a WAIT's condition counts up to its deadline's cycle (R264). -/
def Op.isOver (now : Nat) (x : Ctx) (o : Op) : Bool :=
  (o.phase = .landing && o.acks.isEmpty && o.needs.isEmpty && o.comparisons = 0)
    || (o.isWaiting && waitMet x o.record && !o.pastDeadline now)

/-- A WAIT with a deadline that its condition has not met by it (R264). -/
def Op.runsOut (now : Nat) (x : Ctx) (o : Op) : Bool :=
  o.isWaiting && decide (recParam o.record 40 8 ≠ 0) && (!waitMet x o.record || o.pastDeadline now)

/-- Reservoir words that an operation of the movers or the prism writes through port B (R352), the scratch tensor of a CONV among them
(R278), whatever its status: one that fails has written some of them. -/
def State.portBWords (s : State) (c : Nat) (o : Op) : List Nat :=
  let x := (s.ctx c).asIssued o
  let slots := if recOp o.record = 0x4000 || isPrism (recOp o.record) then writeSlots x o.record
    else if recOp o.record = 0x1002 then slotsOf (x.desc (recScratch o.record)) else []
  ((slots.filter (fun p => isLocal s.own p.1 && gaSpace p.1 = 1)).map (fun p => wordsOf (localKey p.1) p.2)).flatten

/-- OPERATION_COMPLETE. DESIGN CHOICE (log 104): the collisions that the writes of a mover or prism operation met come with it. -/
def execOperationComplete (ctx : Nat) (e : OpEnd) (s : State) : Host.Outcome State Fault Refusal :=
  (match s.op? ctx e.seq with
   | none => Fx.skip
   | some o => Fx.when (o.isOver s.now (s.ctx ctx)) ((collisionsFx (s.portBWords ctx o) e.collide).andThen <| (Fx.when (recOp o.record = 0x6002 && goodStatus o.status.toNat)
       (Fx.ctx ctx (fun x => { x with applied := true }))).andThen (endOp ctx o o.status.toNat))).outcome s

/-- WAIT_TIMEOUT: the deadline of a context's WAIT passes; the job of a bound context aborts (R32, R264). -/
def execWaitTimeout (ctx : Nat) (s : State) : Host.Outcome State Fault Refusal :=
  (match (s.ctx ctx).ops.find? (Op.runsOut s.now (s.ctx ctx)) with
   | none => Fx.skip
   | some o => Fx.all [
       Fx.setNow (o.startCycle + recParam o.record 40 8 + 1),
       endOp ctx o stTimeout,
       abortJob (s.ctx ctx).job.toNat stTimeout]).outcome s

/-! ## Hung engines (R479 to R481) -/

/-- An issued operation keeps the sequencers busy: it is no WAIT and no collective that waits for a peer's block, and it waits neither for
fields nor for a grant (R479). -/
def State.seqBusy (s : State) (c : Nat) (o : Op) : Bool :=
  recOp o.record ≠ 0x7000 && !s.awaitsBlock c o && !(o.mat.any (fun u => !u.granted) && o.phase = .running)
    && !(o.phase = .issued && !canStart s c o)

/-- A field has a row that a restore can take now (R143, R159); one that has none waits as for a grant, which is no hang (R144). -/
def State.restoreRuns (s : State) (f c : Nat) : Bool :=
  (s.restorable f c).any (fun q => (s.field f).tileRows.any (fun r =>
    r.state = .free || (s.evictable c r && !(r.ctx == c && r.out == q.1.row.out))))

/-- A field of a CONV has a chunk to lower for the passes before it (R278). -/
def State.lowers (s : State) (f c : Nat) (o : Op) : Bool :=
  recOp o.record = 0x1002 && o.mat.any (fun u =>
    let i := o.fields.idxOf f
    u.granted && ((matPasses ((s.ctx c).asIssued o) o u i).drop (u.progress.getD i 0)).any (fun p => p.first && p.blk.n0 == (u.share i).nLo))

/-- An engine of a field has work pending (R479). -/
def State.pendingWork (s : State) (f e : Nat) : Bool :=
  let g := s.field f
  let ops := ((List.range 16).map (fun c => (s.ctx c).ops.map (fun o => (c, o)))).flatten
  let started := fun (lo hi : Nat) => ops.any (fun p => p.2.fields.contains f && p.2.phase ≠ .issued && decide (lo ≤ recOp p.2.record)
    && decide (recOp p.2.record ≤ hi))
  match e with
  | 0 => g.running.any (fun r => (s.op? r.1 r.2).any (fun o => !o.preempted && o.mat.all (fun u => u.granted)))
  | 1 => g.tileRows.any (fun r => r.state = .saving) || s.ditch.partials.any (fun p => p.owner == f)
      || (List.range 16).any (s.restoreRuns f)
  | 2 => g.tileRows.any (fun r => r.state = .draining)
  | 3 => started 0x4002 0x4003 || ops.any (fun p => p.2.fields.contains f && p.2.phase = .running && s.lowers f p.1 p.2)
  | 4 => started 0x2000 0x3FFF || started 0x6002 0x6002
      || ops.any (fun p => p.2.fields.contains f && recOp p.2.record = 0x1010 && p.2.mat.any (fun u => u.granted))
  | 5 => !g.comparisons.isEmpty
  | 6 => ops.any (fun p => s.leadField (recGroup p.2.record) == f && s.seqBusy p.1 p.2)
  | 7 => s.hub.copies.any (fun k => k.2.field == f)
  | _ =>
    if e < 16 then let m := g.movers.getD (e - 8) { queued := [], executing := [] }; !m.queued.isEmpty || !m.executing.isEmpty
    else let l := s.link (4 * f + (e - 16)); !l.staged.isEmpty || !l.holds.isEmpty || !l.sends.isEmpty || l.leaving.isSome

/-- ENGINE_HUNG: the hang limit passes without progress of an engine that has work pending (R478 to R480): the hang bit, the event, the
engine reset (R481). A hang limit of 0 disables detection (R480). -/
def execEngineHung (field engine : Nat) (s : State) : Host.Outcome State Fault Refusal :=
  (Fx.when (decide (field < Grade.fields s.grade) && (s.field field).hangLimit != 0#32 && decide ((s.field field).state ≤ 1)
      && s.pendingWork field engine) (Fx.all [
    Fx.setNow (tableGet (s.field field).progress engine s.now + (s.field field).hangLimit.toNat + 1),
    Fx.field field (fun g => { g with hung := g.hung ||| BitVec.ofNat 20 (2 ^ engine) }),
    raise (56 * field + engine) 2 0x0401 none field engine 0,
    resetEngine field engine])).outcome s

/-! ## Answers to reads (R404, R473, R536) -/

/-- A mover's descriptor is free again, and pieces that wait for one ask (R491); `whole` says that it has its tile whole (R479). -/
def freeDescriptor (tag : U32) (whole : Bool) : Fx :=
  Fx.look fun s => (Fx.each (List.range (Grade.fields s.grade)) (fun f =>
    (Fx.when whole (Fx.each ((List.range 8).filter (fun m => (s.field f).movers[m]?.any (fun v => v.executing.any (fun e => e.2 == tag))))
      (fun m => progress f (8 + m)))).andThen
    (Fx.field f (fun g => { g with movers := g.movers.map (fun m => { m with executing := m.executing.filter (fun e => e.2 != tag) }) })))).andThen
    (Fx.each (List.range 16) fetchLater)

/-- Store bytes at rising addresses. -/
def putBytes (ga : Nat) : List Byte → List (Nat × Byte) → List (Nat × Byte)
  | [], t => t
  | b :: bs, t => tablePut (putBytes (ga + 1) bs t) ga b

/-- An operation takes the answer to one of its reads: a status, or bytes and the words among them that are poison. -/
def Op.fetch (n : Need) (status : Nat) (data : List Byte) (bad : List Nat) (o : Op) : Op :=
  let rest := o.needs.erase n
  if data.isEmpty then { o with needs := rest, status := if o.status = 0#16 then BitVec.ofNat 16 status else o.status }
  else
    let got := data.take n.len
    let left := n.len - got.length
    { o with fetched := putBytes n.addr got o.fetched, fetchedBad := o.fetchedBad ++ bad.map (fun i => n.addr / 64 + i)
             needs := if left = 0 then rest else rest ++ [{ n with addr := n.addr + got.length, len := left }] }

/-- The operation of a context that waits for a tag. -/
def Ctx.needOf (x : Ctx) (tag : U32) : Option (Op × Need) :=
  x.ops.findSome? (fun o => (o.needs.find? (fun n => n.tag == tag)).map (fun n => (o, n)))

/-- A read's answer of `len` bytes makes a slot whole that an operation reads: no other piece of it is outstanding. -/
def slotWhole (x : Ctx) (o : Op) (n : Need) (len : Nat) : Bool :=
  decide (n.len ≤ len) && (readSlots (x.asIssued o) o.record).any (fun p =>
    let inSlot := fun (ga : Nat) => decide (p.1 ≤ ga) && decide (ga < p.1 + p.2)
    inSlot n.addr && !(o.needs.erase n).any (fun q => inSlot q.addr) && !o.later.any (fun q => inSlot q.1))

/-- READ_RESP. -/
def execReadResp (link : Nat) (p : Packet) (s : State) : Host.Outcome State Fault Refusal :=
  (onPacket 0x10 link p (Fx.all [
    takePacket link p,
    freeDescriptor p.tag ((s.replyCtx p).any (fun c => ((s.ctx c).needOf p.tag).any (fun q => slotWhole (s.ctx c) q.1 q.2 p.payload.length))),
    match s.replyCtx p with
    | none => Fx.skip
    | some c => match (s.ctx c).needOf p.tag with
      | none => Fx.skip
      | some (o, n) => (onOp c o.seq (Op.fetch n p.aux.toNat p.payload (badWords (p.aux.toNat % 256)))).andThen (goOn c o.seq)])).outcome s

/-- A waiting command's host memory has come whole (R256, R574). -/
def endHostRead (w : Wait) (bs : List Byte) : Fx :=
  match w.kind with
  | .submitHost c n => submitRecords c w.tag.toNat w.parity (splitRecords n bs) w.answer
  | .fwUpdate kind => endUpdate w kind bs
  | _ => Fx.skip

/-- Bytes of host memory go to the command or operation that asked (R256, R536). -/
def hostBytes (tag : U32) (data : List Byte) : Fx :=
  Fx.look fun s => match s.port.waits.find? (fun (w : Wait) => w.key == tag && decide (0 < w.left)) with
   | some w =>
     let got := data.take w.left
     let v := { w with got := w.got ++ got, left := w.left - got.length }
     if v.left = 0 then (Fx.port (fun p => { p with waits := p.waits.erase w })).andThen (endHostRead v v.got)
     else Fx.port (fun p => { p with waits := p.waits.map (fun k => if k = w then v else k) })
   | none =>
     match (List.range 16).findSome? (fun c => ((s.ctx c).needOf tag).map (fun q => (c, q))) with
     | none =>
       -- R473: the last bytes of a read whose operation is gone
       Fx.when (s.port.reads.any (fun r => r.sent && r.tag == tag && decide (r.len ≤ data.length))) (freeDescriptor tag false)
     | some (c, o, n) => Fx.when (!data.isEmpty) (Fx.all [
         Fx.when (decide (n.len ≤ data.length)) (freeDescriptor tag (slotWhole (s.ctx c) o n data.length)),
         onOp c o.seq (Op.fetch n 0 data []),
         goOn c o.seq])

/-- RDMA_READ_RESPONSE. -/
def execRdmaReadResponse (tag : U32) (data : List Byte) (s : State) : Host.Outcome State Fault Refusal :=
  ((hostBytes tag data).andThen (hostAnswers tag data.length)).outcome s

end Sys2Proof.Machine
end

