-- ==== Sys2Proof/Machine/Dispatch.lean ====
section
/-! DEFINITION. One command's effect on everything but the queue: one arm for each constructor. -/
namespace Sys2Proof.Machine

def exec (i : Instr) (s : State) : Host.Outcome State Fault Refusal :=
  match i with
  | .modInfo m => Sys2Proof.Machine.execModInfo m s
  | .moduleReset m => Sys2Proof.Machine.execModuleReset m s
  | .hostWindow m => Sys2Proof.Machine.execHostWindow m s
  | .relayCfg m => Sys2Proof.Machine.execRelayCfg m s
  | .powerSet m => Sys2Proof.Machine.execPowerSet m s
  | .ringSet m => Sys2Proof.Machine.execRingSet m s
  | .create m => Sys2Proof.Machine.execCreate m s
  | .destroy m => Sys2Proof.Machine.execDestroy m s
  | .resume m => Sys2Proof.Machine.execResume m s
  | .seedSet m => Sys2Proof.Machine.execSeedSet m s
  | .keeperWrite m => Sys2Proof.Machine.execKeeperWrite m s
  | .keeperRead m => Sys2Proof.Machine.execKeeperRead m s
  | .ctxQuery m => Sys2Proof.Machine.execCtxQuery m s
  | .statsRead m => Sys2Proof.Machine.execStatsRead m s
  | .jobAbort m => Sys2Proof.Machine.execJobAbort m s
  | .descLoad m => Sys2Proof.Machine.execDescLoad m s
  | .submit m => Sys2Proof.Machine.execSubmit m s
  | .submitHost m => Sys2Proof.Machine.execSubmitHost m s
  | .setPower m => Sys2Proof.Machine.execSetPower m s
  | .nodeSet m => Sys2Proof.Machine.execNodeSet m s
  | .routeWrite m => Sys2Proof.Machine.execRouteWrite m s
  | .linkTrain m => Sys2Proof.Machine.execLinkTrain m s
  | .linkFence m => Sys2Proof.Machine.execLinkFence m s
  | .sluRead m => Sys2Proof.Machine.execSluRead m s
  | .fieldTest m => Sys2Proof.Machine.execFieldTest m s
  | .fieldReset m => Sys2Proof.Machine.execFieldReset m s
  | .repairWrite m => Sys2Proof.Machine.execRepairWrite m s
  | .repairClear m => Sys2Proof.Machine.execRepairClear m s
  | .hbmRetire m => Sys2Proof.Machine.execHbmRetire m s
  | .mirrorRegion m => Sys2Proof.Machine.execMirrorRegion m s
  | .mirrorCopy m => Sys2Proof.Machine.execMirrorCopy m s
  | .takeover m => Sys2Proof.Machine.execTakeover m s
  | .attest m => Sys2Proof.Machine.execAttest m s
  | .certRead m => Sys2Proof.Machine.execCertRead m s
  | .fwUpdate m => Sys2Proof.Machine.execFwUpdate m s
  | .regRead m => Sys2Proof.Machine.execRegRead m s
  | .regWrite m => Sys2Proof.Machine.execRegWrite m s
  | .eoi source => Sys2Proof.Machine.execEoi source s
  | .cycleRead m => Sys2Proof.Machine.execCycleRead m s
  | .commandRelay m => Sys2Proof.Machine.execCommandRelay m s
  | .relay link r => Sys2Proof.Machine.execRelay link r s
  | .relayReply link p => Sys2Proof.Machine.execRelayReply link p s
  | .operationIssue n => Sys2Proof.Machine.execOperationIssue n s
  | .matmul x => Sys2Proof.Machine.execMatmul x s
  | .matmulGrouped x => Sys2Proof.Machine.execMatmulGrouped x s
  | .conv x => Sys2Proof.Machine.execConv x s
  | .attention x => Sys2Proof.Machine.execAttention x s
  | .reduceSum x => Sys2Proof.Machine.execReduceSum x s
  | .reduceSumsq x => Sys2Proof.Machine.execReduceSumsq x s
  | .reduceMax x => Sys2Proof.Machine.execReduceMax x s
  | .normalize x => Sys2Proof.Machine.execNormalize x s
  | .scatterAdd x => Sys2Proof.Machine.execScatterAdd x s
  | .vector x => Sys2Proof.Machine.execVector x s
  | .convert x => Sys2Proof.Machine.execConvert x s
  | .random x => Sys2Proof.Machine.execRandom x s
  | .copy x => Sys2Proof.Machine.execCopy x s
  | .fill x => Sys2Proof.Machine.execFill x s
  | .permute x => Sys2Proof.Machine.execPermute x s
  | .gather x => Sys2Proof.Machine.execGather x s
  | .reduceScatter x => Sys2Proof.Machine.execReduceScatter x s
  | .allReduce x => Sys2Proof.Machine.execAllReduce x s
  | .reduce x => Sys2Proof.Machine.execReduce x s
  | .allGather x => Sys2Proof.Machine.execAllGather x s
  | .broadcast x => Sys2Proof.Machine.execBroadcast x s
  | .stepBegin x => Sys2Proof.Machine.execStepBegin x s
  | .stepEnd x => Sys2Proof.Machine.execStepEnd x s
  | .optimize x => Sys2Proof.Machine.execOptimize x s
  | .scaleUpdate x => Sys2Proof.Machine.execScaleUpdate x s
  | .wait x => Sys2Proof.Machine.execWait x s
  | .signal x => Sys2Proof.Machine.execSignal x s
  | .operationComplete ctx e => Sys2Proof.Machine.execOperationComplete ctx e s
  | .basinGrant n => Sys2Proof.Machine.execBasinGrant n s
  | .passStart field n => Sys2Proof.Machine.execPassStart field n s
  | .partialSend field => Sys2Proof.Machine.execPartialSend field s
  | .partialArrival field residue => Sys2Proof.Machine.execPartialArrival field residue s
  | .drainStart field tileRow residue => Sys2Proof.Machine.execDrainStart field tileRow residue s
  | .preempt ctx => Sys2Proof.Machine.execPreempt ctx s
  | .tileRowSave field tileRow => Sys2Proof.Machine.execTileRowSave field tileRow s
  | .tileRowRestore field ctx => Sys2Proof.Machine.execTileRowRestore field ctx s
  | .preemptedResume ctx => Sys2Proof.Machine.execPreemptedResume ctx s
  | .witnessCompare field => Sys2Proof.Machine.execWitnessCompare field s
  | .eccWriteback field bank row => Sys2Proof.Machine.execEccWriteback field bank row s
  | .scrub field b => Sys2Proof.Machine.execScrub field b s
  | .setTransitionDone field set => Sys2Proof.Machine.execSetTransitionDone field set s
  | .hbmRefresh r => Sys2Proof.Machine.execHbmRefresh r s
  | .hbmRetireDone stack => Sys2Proof.Machine.execHbmRetireDone stack s
  | .rdmaWrite qp key va data collide => Sys2Proof.Machine.execRdmaWrite qp key va data collide s
  | .rdmaRead qp key va len => Sys2Proof.Machine.execRdmaRead qp key va len s
  | .congestionNotification qp => Sys2Proof.Machine.execCongestionNotification qp s
  | .rateRestore qp => Sys2Proof.Machine.execRateRestore qp s
  | .ceMarkedPacket qp => Sys2Proof.Machine.execCeMarkedPacket qp s
  | .connectionManagement msg qp => Sys2Proof.Machine.execConnectionManagement msg qp s
  | .doorbell ring value => Sys2Proof.Machine.execDoorbell ring value s
  | .eventRecordWrite ring parity => Sys2Proof.Machine.execEventRecordWrite ring parity s
  | .evcTake controller => Sys2Proof.Machine.execEvcTake controller s
  | .linkTrainingDone link found => Sys2Proof.Machine.execLinkTrainingDone link found s
  | .laneSubstitute link lane => Sys2Proof.Machine.execLaneSubstitute link lane s
  | .linkDown link => Sys2Proof.Machine.execLinkDown link s
  | .flitReceive link flit fecUncorrectable => Sys2Proof.Machine.execFlitReceive link flit fecUncorrectable s
  | .replayTimeout link => Sys2Proof.Machine.execReplayTimeout link s
  | .packetForward link => Sys2Proof.Machine.execPacketForward link s
  | .residencyTimeout link vl => Sys2Proof.Machine.execResidencyTimeout link vl s
  | .readReq link p => Sys2Proof.Machine.execReadReq link p s
  | .write link w => Sys2Proof.Machine.execWrite link w s
  | .accWrite link p => Sys2Proof.Machine.execAccWrite link p s
  | .signalPacket link p => Sys2Proof.Machine.execSignalPacket link p s
  | .readResp link p => Sys2Proof.Machine.execReadResp link p s
  | .writeAck link p => Sys2Proof.Machine.execWriteAck link p s
  | .signalAck link p => Sys2Proof.Machine.execSignalAck link p s
  | .linkMgmt link p => Sys2Proof.Machine.execLinkMgmt link p s
  | .abortRecord link record => Sys2Proof.Machine.execAbortRecord link record s
  | .redReady link p => Sys2Proof.Machine.execRedReady link p s
  | .redReadyResend link entry => Sys2Proof.Machine.execRedReadyResend link entry s
  | .redHead link p => Sys2Proof.Machine.execRedHead link p s
  | .redData link p => Sys2Proof.Machine.execRedData link p s
  | .redTail link p laneFault => Sys2Proof.Machine.execRedTail link p laneFault s
  | .blockSend link => Sys2Proof.Machine.execBlockSend link s
  | .collectiveTimeout ctx => Sys2Proof.Machine.execCollectiveTimeout ctx s
  | .waitTimeout ctx => Sys2Proof.Machine.execWaitTimeout ctx s
  | .teardownDone ctx => Sys2Proof.Machine.execTeardownDone ctx s
  | .teardownTimeout ctx field engine => Sys2Proof.Machine.execTeardownTimeout ctx field engine s
  | .quarantineEnd ctx => Sys2Proof.Machine.execQuarantineEnd ctx s
  | .engineHung field engine => Sys2Proof.Machine.execEngineHung field engine s
  | .engineResetTimeout field engine => Sys2Proof.Machine.execEngineResetTimeout field engine s
  | .fieldResetDone field found => Sys2Proof.Machine.execFieldResetDone field found s
  | .fieldResetTimeout field => Sys2Proof.Machine.execFieldResetTimeout field s
  | .fieldTestBorrow field => Sys2Proof.Machine.execFieldTestBorrow field s
  | .fieldTestWaitTimeout field => Sys2Proof.Machine.execFieldTestWaitTimeout field s
  | .testDone field found => Sys2Proof.Machine.execTestDone field found s
  | .fieldTestTimeout field => Sys2Proof.Machine.execFieldTestTimeout field s
  | .mirrorCopyStart copy => Sys2Proof.Machine.execMirrorCopyStart copy s
  | .mirrorCopyDone copy => Sys2Proof.Machine.execMirrorCopyDone copy s
  | .powerUp found => Sys2Proof.Machine.execPowerUp found s
  | .feedQualify feed mv => Sys2Proof.Machine.execFeedQualify feed mv s
  | .feedDisqualify feed mv => Sys2Proof.Machine.execFeedDisqualify feed mv s
  | .feedReturn mv => Sys2Proof.Machine.execFeedReturn mv s
  | .fuseTrip feed mv => Sys2Proof.Machine.execFuseTrip feed mv s
  | .feedEnableRelease feed mv => Sys2Proof.Machine.execFeedEnableRelease feed mv s
  | .feedReversed feed mv => Sys2Proof.Machine.execFeedReversed feed mv s
  | .rearm feed => Sys2Proof.Machine.execRearm feed s
  | .phaseFail rail => Sys2Proof.Machine.execPhaseFail rail s
  | .powerCapPeriod watts fieldWatts => Sys2Proof.Machine.execPowerCapPeriod watts fieldWatts s
  | .minPowerExit => Sys2Proof.Machine.execMinPowerExit s
  | .thermalThrottle field sensor celsius => Sys2Proof.Machine.execThermalThrottle field sensor celsius s
  | .thermtrip => Sys2Proof.Machine.execThermtrip s
  | .cooling reading => Sys2Proof.Machine.execCooling reading s
  | .refclkLost => Sys2Proof.Machine.execRefclkLost s
  | .refclkReturn => Sys2Proof.Machine.execRefclkReturn s
  | .pllLockLoss p => Sys2Proof.Machine.execPllLockLoss p s
  | .pluggableInsert watts => Sys2Proof.Machine.execPluggableInsert watts s
  | .sidebandWrite bus addr data parityOk => Sys2Proof.Machine.execSidebandWrite bus addr data parityOk s
  | .apply bus value => Sys2Proof.Machine.execApply bus value s
  | .sbResetPulse micros found => Sys2Proof.Machine.execSbResetPulse micros found s
  | .resetStuck => Sys2Proof.Machine.execResetStuck s
  | .sidebandBusFault bus fault => Sys2Proof.Machine.execSidebandBusFault bus fault s
  | .sidebandBusRecover bus => Sys2Proof.Machine.execSidebandBusRecover bus s
  | .engineResetDone field engine => Sys2Proof.Machine.execEngineResetDone field engine s
  | .hbmStackFailed stack => Sys2Proof.Machine.execHbmStackFailed stack s
  | .partnerTrainingStart link => Sys2Proof.Machine.execPartnerTrainingStart link s
  | .rdmaReadResponse tag data => Sys2Proof.Machine.execRdmaReadResponse tag data s
  | .thermalRelease field sensor celsius => Sys2Proof.Machine.execThermalRelease field sensor celsius s
  | .resetStuckRelease => Sys2Proof.Machine.execResetStuckRelease s

end Sys2Proof.Machine
end

