-- ==== Sys2Proof/Machine/Step.lean ====
section
/-! DEFINITION. One step: the command at the front of the queue takes effect; an empty queue lets one local cycle pass. -/
namespace Sys2Proof.Machine

/-- The module with its queue shortened to `q`. -/
def State.withQueue (s : State) (q : List Instr) : State := { s with pending := q }

/-- One step. On an empty queue one local cycle passes (R477, R540; log 16). -/
def step (s : State) : Host.Outcome State Fault Refusal :=
  match s.pending with
  | [] => tick.outcome s
  | c :: q => exec c (s.withQueue q)

/-- The machine with the command of a table word in front; the table has no words, so the machine unchanged. -/
def State.withFetchWord (s : State) (nbits w : Nat) : State :=
  match Sys2Proof.decodeTableWord nbits w with
  | some c => s.withQueue (c :: s.pending)
  | none => s

end Sys2Proof.Machine
end

