-- ==== Sys2Proof/Safety.lean ====
section
/-! DEFINITION. The terms in which claims are made: the invariant of the machine, a host command that passes its checks, an
operation that will start, and the states that such a command leaves. -/
namespace Sys2Proof.Machine

/-! ## The machine -/

/-- Memory is in its canonical form and every table has its parts. -/
def ModInv (s : State) : Prop :=
  s.mem.wf = true ∧ s.ctxs.length = 16 ∧ s.fields.length = 8 ∧ s.hbmStacks.length = 16 ∧ s.links.length = 32 ∧ s.rings.length = 17

/-- The books of R423 that the module keeps by itself. The five counts of BASIN_OCC sum to 256 (R165); the shared slots that POOL_OCC has
granted, and the descriptors that MOV_OCC has queued or executing, leave a free rest of their total (R411, R491); a replay buffer holds
at most 1,024 flits (R398), a ring at most 4,095 records that are not consumed (R557). -/
def Books (s : State) : Prop :=
  (∀ g ∈ s.fields,
    (([.free, .open, .draining, .saving, .held] : List TileState).map (fun x => g.tileRows.countP (fun r => decide (r.state = x)))).sum = 256
      ∧ 256 * g.poolGranted ≤ 16384 ∧ ∀ m ∈ g.movers, m.queued.length + m.executing.length ≤ 64) ∧
  (∀ l ∈ s.links, l.replay.length ≤ 1024) ∧
  (∀ r ∈ s.rings, (r.producer - r.consumer).toNat ≤ 4095)

/-- A step from this state is neither a fault nor a refusal. -/
def Safe (s : State) : Prop := ∃ t, step s = .next t

/-- What a change of `MOD_SERVICE` or `SB_STATUS` between two states announces on the working buses (R615). -/
def State.announced (s t : State) : State :=
  if s.service != t.service || s.sideband.word != t.sideband.word then
    { t with out := t.out ++ (if t.sideband.busA = 0 then [.inBand 0] else []) ++ (if t.sideband.busB = 0 then [.inBand 1] else []) }
  else t

/-! ## Host commands (R537 to R540) -/

/-- The command of a message that came on the port. -/
def cmdOf (m : HostMsg) : Cmd := Cmd.parse (.port m.qp) m

/-- The module in service takes a message on its queue pair, which has a receive buffer (R533), the message carries this opcode, is for this module, passes every
check of R539, names a slot in a state that takes it (R541), and no earlier command of its context holds it back (R540). -/
def State.accepts (s : State) (m : HostMsg) (op : Nat) : Bool :=
  s.hub.stage == 9 && s.takesSends m.qp && m.op == op && decide (64 ≤ m.bytes.length) && decide (m.bytes.length ≤ 8192)
    && m.bytes.length == 64 + Machine.field m.bytes 6 2 && m.parity.isNone && Machine.field m.bytes 0 1 == 1 && m.reservedOk false && !s.foreign m
    && decide (s.port.waits.length + s.port.delayed.length < 256) && decide (s.port.delayed.countP (fun d => d.dest == .port m.qp) < 16)
    && (match cmdInfo op with
        | some i => i.slot.ok m.ctx && i.paramsOk (cmdOf m)
        | none => false)
    && (slotStatus? s op m.ctx).isNone && !s.blocked m.ctx

/-- The module takes a message on its queue pair that names another node, and its header passes the checks of R539. -/
def State.passesOn (s : State) (m : HostMsg) : Bool :=
  s.takesSends m.qp && decide (s.port.delayed.countP (fun d => d.dest == .port m.qp) < 16) && (m.fault? 0).isNone
    && (s.headStatus? false m).isNone && s.foreign m

/-- The module with its reply to a message sent on the queue pair that brought it (R538). -/
def State.answered (s : State) (m : HostMsg) (status : Nat) (result : List Byte) : State :=
  if s.port.qps.any (fun q => q.num == m.qp && q.connected) then
    s.emit (.send m.qp (replyBytes 0 m.op m.ctx (Machine.field m.bytes 8 4) status s.cycle.toNat result))
  else s

/-- The module with a message's command waiting for its end (R540). -/
def State.waiting (s : State) (m : HostMsg) (kind : WaitKind) : State :=
  s.modPort (fun p => { p with waits := p.waits ++
    [{ kind := kind, tag := BitVec.ofNat 32 (Machine.field m.bytes 8 4), opcode := BitVec.ofNat 16 m.op, ctx := BitVec.ofNat 8 m.ctx
       dest := .port m.qp, key := 0#32, got := [], left := 0, parity := none }] })

/-- A message's parameter field (R543). -/
def param (m : HostMsg) (off len : Nat) : Nat := (cmdOf m).p off len

/-- What an RDMA READ of a queue pair sends at once: with 16 outstanding it waits (R533). -/
def State.asks (s : State) (qp : Nat) (r : Out) : List Out :=
  if s.port.reads.countP (fun k => k.sent && k.qp == qp) < 16 then [r] else []

/-- No piece of an off-module read waits for a descriptor (R491). -/
def State.noneLater (s : State) : Bool := s.ctxs.all (fun x => x.ops.all (fun o => o.later.isEmpty))

/-- No context runs a COPY: the end of a context finishes no tile (R468). -/
def State.noCopyRuns (s : State) : Bool :=
  (List.range 16).all (fun c => (s.ctx c).ops.all (fun o => !(decide (recOp o.record = 0x4000) && decide (o.phase = .running))))

/-- Between two states the fields lose the shadows of records that a context has not issued, and nothing else (R124; log 50). -/
def State.dropsShadows (s t : State) (c : Nat) : Prop :=
  ∀ f, t.field f = { s.field f with
    shadow := (s.field f).shadow.filter (fun b => b.ctx != c || decide (Grade.fields s.grade ≤ f) || (s.ctx c).ops.any (fun o => o.seq == b.seq)) }

/-- A module that comes to a state holds its smallest working set there as before, or a warm reset runs (R500). -/
def State.holdsSet (s t : State) : Bool := s.hub.warm || (s.hub.served && t.workingSet)

/-- The region that MIRROR_REGION's parameters set is one that R504 allows. -/
def State.regionOk (s : State) (m : HostMsg) : Bool :=
  let base := param m 8 8
  let len := param m 16 8
  decide (param m 1 1 ≤ 1) && decide (base % 64 = 0) && decide (len % 64 = 0) && mapped s.grade 0 base len
    && (param m 1 1 == 1 || param m 2 2 != 0xFFFF)
    && (List.range 16).all (fun j => j == param m 0 1 || (s.hub.regions.getD j none).all (fun r => !meets base len r.base r.len))
    && (s.otherSaves 16).all (fun a => !meets base len a.1 a.2)

/-- The host window that HOST_WINDOW's parameters describe (R536). -/
def windowOf (m : HostMsg) : Window :=
  { qp := param m 4 4 % 2 ^ 24, key := BitVec.ofNat 32 (param m 8 4), va := BitVec.ofNat 64 (param m 16 8), len := param m 24 8 }

/-! ## Operations (R255 to R260) -/

/-- The slots that an operation reads. -/
def State.reads (s : State) (c : Nat) (o : Op) : List (Nat × Nat) := readSlots ((s.ctx c).asIssued o) o.record

/-- The context's next operation, when it has this opcode and starts at once: its guard holds nothing, a field of its group
works, its fields are free, every slot that it names is there and on this module, it has asked for no bytes, and it is not preempted. -/
def State.starting (s : State) (c op : Nat) : Option Op :=
  (s.nextOp? c).filter (fun o => decide (recOp o.record = op) && !o.preempted && o.needs.isEmpty && o.later.isEmpty && o.fetched.isEmpty && decide (o.status = 0#16)
    && !(s.ctx c).guardHolds (recGuard o.record) && !groupDead s o.record && canStart s c o
    && (!isPrism op || prismOverlapOk s.own ((s.ctx c).asIssued o) o.record)
    && (s.recordAccess ((s.ctx c).asIssued o) o.record == .ok) && (s.reads c o).all (fun p => isLocal s.own p.1))

/-- The slots of these tiles of a tensor lie on this module, are served and whole, and do not overlap, and the elements of a tile have
places of their own (R201, R206). -/
def State.holds (s : State) (d : Desc) (l : List (List Nat)) : Prop :=
  (∀ j ∈ l, isLocal s.own (d.slotAddr j) = true ∧ d.slotAddr j % 64 = 0 ∧
    s.access (gaSpace (d.slotAddr j)) (gaOffset (d.slotAddr j)) (slotBytes d.code) = .ok ∧ ((d.elems j).map Prod.fst).Nodup ∧
    ∀ e ∈ d.elems j, e.1 < 1024) ∧
  l.Pairwise (fun i j => localKey (d.slotAddr i) + slotBytes d.code ≤ localKey (d.slotAddr j) ∨
    localKey (d.slotAddr j) + slotBytes d.code ≤ localKey (d.slotAddr i))

/-- The module with an operation begun: the operation runs, its fields are its own, and reads of words with errors are
counted (R350). -/
def State.beginning (s : State) (x : Launch) (o : Op) : State := (takeOp x o).run s

/-- The phase of an operation of a context. -/
def State.phaseOf (s : State) (c : Nat) (seq : U32) : Option OpPhase := (s.op? c seq).map Op.phase

/-! ## Packets -/

/-- Between two states a packet of an injection port joined the queue of its output link, unless that is fenced or the ditch has no way
to it, and no other queue of an injection port changed (R413, R414, R487). -/
def Queued (s t : State) (port : Nat) (q : Packet) : Prop :=
  ∀ j, j < s.links.length → (t.link j).inject = (s.link j).inject ++ (if s.outputOf q = some j ∧ j < 32 ∧ (s.link j).state ≠ 4 ∧ s.reaches port q.vl j = true then [(port, q)] else [])

/-- The rows in which a local unit takes a packet, with its type (R401). -/
def packetRows (i : Nat) (p : Packet) : List (Nat × Instr) :=
  [(0x01, .readReq i p), (0x02, .write i ⟨p, []⟩), (0x03, .accWrite i ⟨p, []⟩), (0x04, .signalPacket i p), (0x05, .relay i ⟨p, none, none⟩),
   (0x10, .readResp i p), (0x11, .writeAck i p), (0x12, .signalAck i p), (0x13, .relayReply i p), (0x20, .redHead i p),
   (0x21, .redData i p), (0x22, .redTail i p false), (0x23, .redReady i p), (0x30, .linkMgmt i p)]

/-- The rows of host commands, with their opcodes (R541). -/
def hostRows : List (Nat × (HostMsg → Instr)) :=
  [(0x0100, .modInfo), (0x0101, .moduleReset), (0x0102, .hostWindow), (0x0103, .relayCfg), (0x0104, .powerSet), (0x0105, .ringSet)]
  ++ [(0x0200, .create), (0x0201, .destroy), (0x0202, .resume), (0x0203, .seedSet), (0x0204, .keeperWrite), (0x0205, .keeperRead),
      (0x0206, .ctxQuery), (0x0207, .statsRead), (0x0208, .jobAbort)]
  ++ [(0x0300, .descLoad), (0x0301, .submit), (0x0302, .submitHost), (0x0400, .setPower), (0x0500, .nodeSet), (0x0501, .routeWrite),
      (0x0502, .linkTrain), (0x0503, .linkFence), (0x0504, .sluRead)]
  ++ [(0x0600, .fieldTest), (0x0601, .fieldReset), (0x0602, .repairWrite), (0x0603, .repairClear), (0x0604, .hbmRetire),
      (0x0605, .mirrorRegion), (0x0606, .mirrorCopy), (0x0607, .takeover)]
  ++ [(0x0700, .attest), (0x0701, .certRead), (0x0702, .fwUpdate), (0x0800, .regRead), (0x0801, .regWrite), (0x0802, .cycleRead)]

/-- A relayed message passes the checks of R539 and carries this opcode. -/
def State.acceptsRelayed (s : State) (m : HostMsg) (op : Nat) : Bool :=
  m.op == op && decide (64 ≤ m.bytes.length) && decide (m.bytes.length ≤ 8192) && m.bytes.length == 64 + Machine.field m.bytes 6 2 && Machine.field m.bytes 0 1 == 1
    && m.reservedOk true && decide (s.port.waits.length + s.port.delayed.length < 256) && s.hub.stage == 9
    && (match cmdInfo op with
        | some i => i.slot.ok m.ctx && i.paramsOk (cmdOf m)
        | none => false)
    && (slotStatus? s op m.ctx).isNone && !s.blocked m.ctx

/-- A waiting command that was relayed to another module. -/
def Wait.relayed (w : Wait) : Bool :=
  match w.kind with
  | .relayed _ _ => true
  | _ => false

/-! ## Rows of operations -/

/-- The rows of the operations that read whole tensors and write whole tensors, with their opcodes (R265). -/
def workRows (x : Launch) : List (Nat × Instr) :=
  [(0x2000, .reduceSum x), (0x2001, .reduceSumsq x), (0x2002, .reduceMax x), (0x2010, .normalize x), (0x2020, .scatterAdd x),
   (0x3000, .vector x), (0x3001, .convert x), (0x3002, .random x), (0x4000, .copy x), (0x4001, .fill x), (0x4002, .permute x),
   (0x4003, .gather x), (0x6002, .optimize x)]

/-- The rows of matrix products, with their opcodes (R265). -/
def matrixRows (x : Launch) : List (Nat × Instr) := [(0x1000, .matmul x), (0x1001, .matmulGrouped x), (0x1002, .conv x)]

/-- The rows of collectives, with their opcodes (R452). -/
def collectiveRows (x : Launch) : List (Nat × Instr) :=
  [(0x5000, .reduceScatter x), (0x5001, .allReduce x), (0x5002, .reduce x), (0x5003, .allGather x), (0x5004, .broadcast x)]

/-- The rows of synchronisation and of the scale keeper, with their opcodes (R265). -/
def syncRows (x : Launch) : List (Nat × Instr) :=
  [(0x6000, .stepBegin x), (0x6001, .stepEnd x), (0x6003, .scaleUpdate x), (0x7000, .wait x), (0x7001, .signal x)]

/-- The rows that start an operation, with their opcodes (R265). -/
def operationRows (x : Launch) : List (Nat × Instr) :=
  workRows x ++ matrixRows x ++ [(0x1010, .attention x)] ++ collectiveRows x ++ syncRows x

/-- A member's part as its collective begins (R450, R454). -/
def State.memberPart (s : State) (l : Launch) (o : Op) : Part :=
  let c := l.ctx
  let x := (s.ctx c).asIssued o
  let a := x.desc (recIn o.record 0)
  let u := (collOf o.record).run a.tileCount (collAnchor x o.record) x.flags
  { c := c, o := { s.begun l o with coll := some u }, p := collOf o.record, src := a, out := x.desc (recOut o.record)
    b := a.tileCount, u := u }

end Sys2Proof.Machine
end

