-- ==== Sys2Proof/Certificates/Slice0/Obligations.lean ====
section
/-! DEFINITION. The statements about the model, for the provers. The docstring of each names the rules of the spec that it
formalises, or the log entry of a choice that it rests on. -/
open Sys2Proof Sys2Proof.Machine

/-! ## The machine as a whole -/

/-- A step from any state whose memory is in its canonical form (log 2), with sixteen context slots (R459), eight fields, sixteen
stacks, 32 links and 17 event rings (R553), leads to such a state. -/
def Obligations.StepKeepsInv : Prop := ∀ s t : State, ModInv s → step s = .next t → ModInv t

/-- R423, R165, R411, R491, R398, R557: a step from any state in which the books of the basins, the shared pools, the movers, the replay
buffers and the event rings balance leads to such a state. -/
def Obligations.StepKeepsBooks : Prop := ∀ s t : State, ModInv s → Books s → step s = .next t → Books t

/-- The state at reset has both invariants, no command waits in it, and nothing has left the module. -/
def Obligations.ResetInv : Prop := ModInv State.reset ∧ Books State.reset ∧ State.reset.pending = [] ∧ State.reset.out = []

/-- A step takes the command at the front of the queue and runs it on the state with the rest of the queue. R477, log 16 (the
model's choice): on an empty queue the local counter advances by at least one cycle; with no command held back (R540) by
exactly one, and nothing else changes. -/
def Obligations.StepRunsFront : Prop :=
  (∀ (s : State) (c : Instr) (q : List Instr), step (s.withQueue (c :: q)) = exec c (s.withQueue q)) ∧
  (∀ s : State, s.pending = [] →
      (∃ t, step s = .next t ∧ s.now < t.now) ∧ (s.port.delayed = [] → step s = .next (s.setNow (s.now + 1))))

/-- No command ends a run: every command answers a next state, also where its condition does not hold (log 1), leaves the queue and the
module's grade (log 6), takes back nothing of the list of what has left the module (log 4), and never turns the local counter back. -/
def Obligations.EveryCommandAnswers : Prop :=
  ∀ (c : Instr) (s : State), ∃ t, exec c s = .next t ∧ t.pending = s.pending ∧ t.grade = s.grade ∧ s.out <+: t.out
    ∧ s.now ≤ t.now

/-! ## Host commands -/

/-- R543, R546, R578, R577: commands that read answer `OK` with what they read, and change nothing else. R543: a read beyond the
end of its table answers `BAD_PARAM` and changes nothing. -/
def Obligations.HostReads : Prop :=
  (∀ (s : State) (m : HostMsg),
      (s.accepts m 0x0100 → exec (.modInfo m) s = .next (s.answered m stOk s.modInfo)) ∧
      (s.accepts m 0x0802 → exec (.cycleRead m) s = .next (s.answered m stOk (leBytes 8 (s.now % 2 ^ 48)))) ∧
      (s.accepts m 0x0206 → exec (.ctxQuery m) s = .next (s.answered m stOk
        (leBytes 8 (s.ctx m.ctx).stateWord ++ leBytes 4 (s.ctx m.ctx).step.toNat ++ leBytes 4 (s.ctx m.ctx).updates.toNat
          ++ leBytes 4 (s.ctx m.ctx).flags.toNat ++ leBytes 4 (s.ctx m.ctx).nextSeq.toNat
          ++ leBytes 1 (b2n (s.ctx m.ctx).windowOpen) ++ leBytes 7 0))) ∧
      (s.accepts m 0x0205 → 1 ≤ param m 2 2 → param m 2 2 ≤ 254 → param m 0 2 + param m 2 2 ≤ 4096 →
        exec (.keeperRead m) s = .next (s.answered m stOk ((List.range (param m 2 2)).map (fun i =>
          tableGet (s.ctx m.ctx).keeper (param m 0 2 + i) (List.replicate 32 0#8))).flatten)) ∧
      (s.accepts m 0x0207 → 1 ≤ param m 2 2 → param m 2 2 ≤ 126 → param m 0 2 + param m 2 2 ≤ 4096 →
        exec (.statsRead m) s = .next (s.answered m stOk ((List.range (param m 2 2)).map (fun i =>
          (tableGet (s.ctx m.ctx).stats (param m 0 2 + i) StatRec.zero).bytes)).flatten)) ∧
      (s.accepts m 0x0504 → param m 0 1 ∈ s.linkIds → 1 ≤ param m 2 1 → param m 1 1 + param m 2 1 ≤ 64 →
        exec (.sluRead m) s = .next (s.answered m stOk ((List.range (param m 2 1)).map (fun i =>
          match tableGet? (s.link (param m 0 1)).entries (param m 1 1 + i) with
          | some e => e.bytes
          | none => List.replicate 32 0#8)).flatten)) ∧
      (s.accepts m 0x0800 → (∀ e ∈ (cmdOf m).entries, selectorOk (leNat e)) →
        exec (.regRead m) s = .next (s.answered m stOk
          ((cmdOf m).entries.map (fun e => leBytes 8 (s.readReg (leNat e)))).flatten)) ∧
      (s.accepts m 0x0701 → param m 0 1 ≤ 2 →
        exec (.certRead m) s = .next (s.answered m stOk (Config.certificate (param m 0 1)))) ∧
      (s.accepts m 0x0700 → ∃ sig : List Byte, exec (.attest m) s = .next (s.answered m stOk
        (s.report (bytesAt (cmdOf m).params 0 32) ++ sig)))) ∧
  (∀ (s : State) (m : HostMsg),
      (s.accepts m 0x0205 → 4096 < param m 0 2 + param m 2 2 → exec (.keeperRead m) s = .next (s.answered m stBadParam [])) ∧
      (s.accepts m 0x0207 → 4096 < param m 0 2 + param m 2 2 → exec (.statsRead m) s = .next (s.answered m stBadParam [])) ∧
      (s.accepts m 0x0504 → 64 < param m 1 1 + param m 2 1 → exec (.sluRead m) s = .next (s.answered m stBadParam [])) ∧
      (s.accepts m 0x0701 → 2 < param m 0 1 → exec (.certRead m) s = .next (s.answered m stBadParam [])))

/-- R536, R548, R380, R412, R497, R498, R504, R501: commands that write the hub's registers and tables write those fields with
their parameters, answer `OK`, and change nothing else. R504: a region that is not aligned, lies outside the HBM or overlaps another
region or a context's save area answers `BAD_PARAM`. R380, R501: `NODE_SET` answers `NOT_PERMITTED` while a context is not
`FREE`, and so does `TAKEOVER` of a module that has a node ID; a wrong identity answers `IDENTITY_MISMATCH`. Nothing changes. -/
def Obligations.HostWritesHub : Prop :=
  (∀ (s : State) (m : HostMsg),
      (s.accepts m 0x0102 → param m 0 1 ≤ 15 → 0 < param m 24 8 → param m 24 8 ≤ 2 ^ 40 →
        exec (.hostWindow m) s = .next ((s.modHub (fun h => { h with windows := h.windows.set (param m 0 1) (some (windowOf m)) })).answered m stOk [])) ∧
      (s.accepts m 0x0102 → param m 0 1 ≤ 15 → param m 24 8 = 0 →
        exec (.hostWindow m) s = .next ((s.modHub (fun h => { h with windows := h.windows.set (param m 0 1) none })).answered m stOk [])) ∧
      (s.accepts m 0x0103 → param m 0 1 ≤ 1 →
        exec (.relayCfg m) s = .next ((s.modHub (fun h =>
          { h with relayOn := decide (param m 0 1 = 1), relayNode := BitVec.ofNat 16 (param m 2 2) })).answered m stOk [])) ∧
      (s.accepts m 0x0500 → (∀ x ∈ s.ctxs, x.state = .free) →
        exec (.nodeSet m) s = .next ((s.modHub (fun h => { h with node := BitVec.ofNat 16 (param m 0 2) })).answered m stOk [])) ∧
      (s.accepts m 0x0501 → param m 0 2 + (cmdOf m).entries.length ≤ 65535 → (∀ e ∈ (cmdOf m).entries, routeOk (leNat e)) →
        ∃ routes, exec (.routeWrite m) s = .next ((s.modHub (fun h => { h with routes := routes })).answered m stOk []) ∧
          ∀ n, tableGet routes n 0#32 =
            if param m 0 2 ≤ n ∧ n < param m 0 2 + (cmdOf m).entries.length
            then BitVec.ofNat 32 (leNat ((cmdOf m).entries.getD (n - param m 0 2) [])) else tableGet s.hub.routes n 0#32) ∧
      (s.accepts m 0x0602 → (∀ e ∈ (cmdOf m).entries, repairOk (Machine.field e 0 1) (Machine.field e 1 1) (Machine.field e 2 2)) →
        ((cmdOf m).entries.foldl putRepair s.hub.repair).length ≤ 1024 →
        exec (.repairWrite m) s = .next ((s.modHub (fun h =>
          { h with repair := (cmdOf m).entries.foldl putRepair h.repair })).answered m stOk [])) ∧
      (s.accepts m 0x0603 → param m 0 1 = 0 →
        exec (.repairClear m) s = .next ((s.modHub (fun h => { h with repair := [] })).answered m stOk [])) ∧
      (s.accepts m 0x0605 → param m 0 1 ≤ 15 → param m 16 8 = 0 →
        exec (.mirrorRegion m) s = .next ((s.modHub (fun h =>
          { h with regions := h.regions.set (param m 0 1) none })).answered m stOk [])) ∧
      (s.accepts m 0x0605 → param m 0 1 ≤ 15 → 0 < param m 16 8 → s.regionOk m = true →
        exec (.mirrorRegion m) s = .next ((s.modHub (fun h =>
          { h with regions := h.regions.set (param m 0 1) (some ⟨param m 1 1, BitVec.ofNat 16 (param m 2 2), param m 8 8, param m 16 8, none⟩) })).answered
            m stOk [])) ∧
      (s.accepts m 0x0607 → s.hub.node = 0xFFFF#16 → param m 0 2 ≠ 0xFFFF → param m 8 8 = s.hub.identity →
        exec (.takeover m) s = .next ((s.modHub (fun h => { h with node := BitVec.ofNat 16 (param m 0 2) })).answered m stOk []))) ∧
  (∀ (s : State) (m : HostMsg),
      (s.accepts m 0x0605 → 15 < param m 0 1 ∨ (0 < param m 16 8 ∧ s.regionOk m = false) →
        exec (.mirrorRegion m) s = .next (s.answered m stBadParam [])) ∧
      (s.accepts m 0x0500 → (∃ x ∈ s.ctxs, x.state ≠ .free) → exec (.nodeSet m) s = .next (s.answered m stNotPermitted [])) ∧
      (s.accepts m 0x0607 → s.hub.node ≠ 0xFFFF#16 → param m 0 2 ≠ 0xFFFF →
        exec (.takeover m) s = .next (s.answered m stNotPermitted [])) ∧
      (s.accepts m 0x0607 → s.hub.node = 0xFFFF#16 → param m 0 2 ≠ 0xFFFF → param m 8 8 ≠ s.hub.identity →
        exec (.takeover m) s = .next (s.answered m stIdentity [])))

/-- R466, R249, R545, R333, R240, R256: commands that write a context write that context alone and answer. RESUME in mode 0 and DESC_LOAD
also drop the preloads of records that the context has not issued (log 50). KEEPER_WRITE takes every entry whose bytes 20 to 31 are zero,
and the table keeps no reserved bits of it (log 19, the model's reading). -/
def Obligations.HostWritesContext : Prop :=
  ∀ (s : State) (m : HostMsg),
    (s.accepts m 0x0202 → param m 0 1 = 0 → (s.ctx m.ctx).state = .stopped → (s.ctx m.ctx).ops = [] →
      ∃ t, exec (.resume m) s = .next t ∧ s.dropsShadows t m.ctx ∧
        { t with fields := s.fields } = (s.modCtx m.ctx (fun x => { x with state := .active, stopStatus := 0#16 })).answered m stOk []) ∧
    (s.accepts m 0x0203 → 1 ≤ param m 0 1 → param m 0 1 ≤ 3 →
      exec (.seedSet m) s = .next ((s.modCtx m.ctx (fun x =>
        { x with seeds := x.seeds.set (param m 0 1) (BitVec.ofNat 64 (param m 8 8)) })).answered m stOk [])) ∧
    (s.accepts m 0x0204 → param m 0 2 + (cmdOf m).entries.length ≤ 4096 → (∀ e ∈ (cmdOf m).entries, allZero (e.drop 20)) →
      ∃ t, exec (.keeperWrite m) s = .next ((s.modCtx m.ctx (fun x => { x with keeper := t })).answered m stOk []) ∧
        ∀ n, tableGet t n (List.replicate 32 0#8) =
          if param m 0 2 ≤ n ∧ n < param m 0 2 + (cmdOf m).entries.length ∧ ¬ allZero (keptBytes ((cmdOf m).entries.getD (n - param m 0 2) []))
          then keptBytes ((cmdOf m).entries.getD (n - param m 0 2) [])
          else if param m 0 2 ≤ n ∧ n < param m 0 2 + (cmdOf m).entries.length then List.replicate 32 0#8
          else tableGet (s.ctx m.ctx).keeper n (List.replicate 32 0#8)) ∧
    (s.accepts m 0x0300 → param m 0 2 + (cmdOf m).entries.length ≤ 4096 → (∀ e ∈ (cmdOf m).entries, descStatus e = stOk) →
      ∃ u t, exec (.descLoad m) s = .next u ∧ s.dropsShadows u m.ctx ∧
        { u with fields := s.fields } = (s.modCtx m.ctx (fun x => { x with descs := t })).answered m stOk
          (leBytes 2 (cmdOf m).entries.length ++ leBytes 2 0xFFFF) ∧
        ∀ n, tableGet? t n =
          if param m 0 2 ≤ n ∧ n < param m 0 2 + (cmdOf m).entries.length
          then some { bytes := (cmdOf m).entries.getD (n - param m 0 2) []
                      aliasFree := (Desc.parse ((cmdOf m).entries.getD (n - param m 0 2) [])).aliasFree }
          else tableGet? (s.ctx m.ctx).descs n) ∧
    (s.accepts m 0x0301 → m.ctx < s.ctxs.length → s.submission m.ctx (cmdOf m).entries = stOk →
      exec (.submit m) s = .next ((s.modCtx m.ctx (fun x =>
        { x with stream := x.stream ++ (cmdOf m).entries
                 nextSeq := x.nextSeq + BitVec.ofNat 32 (cmdOf m).entries.length })).answered m stOk
          (leBytes 4 ((s.ctx m.ctx).nextSeq + BitVec.ofNat 32 (cmdOf m).entries.length).toNat))) ∧
    (s.accepts m 0x0301 → s.submission m.ctx (cmdOf m).entries ≠ stOk →
      exec (.submit m) s = .next (s.answered m (s.submission m.ctx (cmdOf m).entries) (leBytes 4 (s.ctx m.ctx).nextSeq.toNat)))

/-- R544, R459, R462: `CREATE` makes the context that its parameters name in the `FREE` slot, with the slot's generation, and
answers with that generation; the context's ring is attached to the queue pair that CREATE gives, and armed. R544, R541: a
parameter of `CREATE` that R544 does not allow answers `BAD_PARAM` and makes nothing. -/
def Obligations.CreateMakesContext : Prop :=
  (∀ (s : State) (m : HostMsg), s.accepts m 0x0200 → createOk s m.ctx (cmdOf m) → m.ctx < s.ctxs.length → m.ctx < s.rings.length →
      ∃ t, exec (.create m) s = .next t ∧
        (t.ctx m.ctx).state = .active ∧ (t.ctx m.ctx).gen = (s.ctx m.ctx).gen ∧
        (t.ctx m.ctx).priority = BitVec.ofNat 2 (param m 0 1) ∧ (t.ctx m.ctx).fieldGroup = BitVec.ofNat 8 (param m 1 1) ∧
        (t.ctx m.ctx).job = BitVec.ofNat 16 (param m 2 2) ∧ (t.ctx m.ctx).seeds = [BitVec.ofNat 64 (param m 8 8), 0#64, 0#64, 0#64] ∧
        (t.ctx m.ctx).ops = [] ∧ (t.ctx m.ctx).descs = [] ∧ (t.ctx m.ctx).nextSeq = 0#32 ∧ (t.ctx m.ctx).step = 0#32 ∧
        (t.ctx m.ctx).windowOpen = false ∧
        (t.ring m.ctx).attached = true ∧ (t.ring m.ctx).qp = param m 104 3 ∧ (t.ring m.ctx).armed = true ∧
        (∀ c, c ≠ m.ctx → t.ctx c = s.ctx c) ∧ t.mem = s.mem ∧ t.hub = s.hub ∧ t.port = s.port ∧ t.fields = s.fields
        ∧ t.hbmStacks = s.hbmStacks ∧ t.links = s.links ∧ t.power = s.power
        ∧ (s.answered m stOk (leBytes 2 (s.ctx m.ctx).gen.toNat)).out = t.out) ∧
  (∀ (s : State) (m : HostMsg), s.accepts m 0x0200 → ¬ createOk s m.ctx (cmdOf m) →
      exec (.create m) s = .next (s.answered m stBadParam []))

/-- R540, R363, R373, R506, R523, R536, R574: commands that wait for an end leave their request in the machine, get no reply yet,
and change only what they request: SET_POWER, FIELD_TEST, HBM_RETIRE, SUBMIT_HOST, FW_UPDATE and MIRROR_COPY. A read of host memory
leaves at once unless sixteen of its queue pair are outstanding (R533). -/
def Obligations.HostWaits : Prop :=
  ∀ (s : State) (m : HostMsg),
    (s.accepts m 0x0400 → param m 0 1 < Grade.fields s.grade → param m 1 1 ≤ 14 → param m 2 1 ≤ 2 →
      (s.field (param m 0 1)).state ≠ 2 → (s.field (param m 0 1)).state ≠ 3 →
      ((s.field (param m 0 1)).sets.getD (param m 1 1) SetPower.reset).target = none →
      ((s.field (param m 0 1)).sets.getD (param m 1 1) SetPower.reset).state ≠ setStateOf (param m 2 1) →
      exec (.setPower m) s = .next ((s.modField (param m 0 1) (fun g =>
        { g with sets := g.sets.set (param m 1 1) (((s.field (param m 0 1)).sets.getD (param m 1 1) SetPower.reset).start
          (setStateOf (param m 2 1)) false) })).waiting m (.setPower (param m 0 1) (param m 1 1)))) ∧
    (s.accepts m 0x0600 → param m 0 1 < Grade.fields s.grade → param m 1 1 ≤ 1 → param m 2 1 ≤ 1 →
      (s.field (param m 0 1)).state ≤ 1 → (s.field (param m 0 1)).test = none →
      exec (.fieldTest m) s = .next ((s.modField (param m 0 1) (fun g =>
        { g with test := some { kind := param m 1 1, onFail := param m 2 1, deadline := param m 8 8, accepted := s.now
                                borrowed := none } })).waiting m (.fieldTest (param m 0 1)))) ∧
    (s.accepts m 0x0604 → param m 0 1 < Grade.hbmStacks s.grade → param m 1 1 ≤ 63 → (s.stack (param m 0 1)).state = 0 →
      (s.stack (param m 0 1)).retiring = none → (s.stack (param m 0 1)).retiredA = none → (s.stack (param m 0 1)).retiredB = none →
      ∀ u, (s.modStack (param m 0 1) (fun k =>
        { k with state := 1, retiring := some (BitVec.ofNat 6 (param m 1 1)) })).waiting m (.hbmRetire (param m 0 1)) = u →
      (s.holdsSet u → exec (.hbmRetire m) s = .next u) ∧
      ∃ t, exec (.hbmRetire m) s = .next t ∧ t.hbmStacks = u.hbmStacks ∧ (∃ x ∈ t.port.waits, x.kind = .hbmRetire (param m 0 1)) ∧
        (s.noCopyRuns → t.mem = s.mem)) ∧
    (s.accepts m 0x0302 → 1 ≤ param m 0 4 → param m 0 4 ≤ 65536 → s.isOwn (param m 8 8) → gaSpace (param m 8 8) = 3 →
      ∀ w, s.window? (gaOffset (param m 8 8)) (128 * param m 0 4) = some w →
      ∃ t, exec (.submitHost m) s = .next t ∧
        t.out = s.out ++ s.asks w.qp (.rdmaRead w.qp w.key (w.va.toNat + gaOffset (param m 8 8) % 2 ^ 40) (128 * param m 0 4) s.hub.nextTag) ∧
        (∃ r ∈ t.port.reads, r.tag = s.hub.nextTag ∧ r.qp = w.qp ∧ r.len = 128 * param m 0 4) ∧
        t.port.waits.length = s.port.waits.length + 1 ∧
        (∃ x ∈ t.port.waits, x.kind = .submitHost m.ctx (param m 0 4) ∧ x.key = s.hub.nextTag ∧ x.left = 128 * param m 0 4) ∧
        t.hub.nextTag = s.hub.nextTag + 1#32 ∧ t.ctxs = s.ctxs ∧ t.mem = s.mem ∧ t.fields = s.fields) ∧
    (s.accepts m 0x0702 → param m 0 1 ≤ 2 → 0 < param m 16 8 → (∀ x ∈ s.port.waits, ∀ k, x.kind ≠ .fwUpdate k) →
      s.isOwn (param m 8 8) → gaSpace (param m 8 8) = 3 →
      ∀ w, s.window? (gaOffset (param m 8 8)) (param m 16 8) = some w →
      ∃ t, exec (.fwUpdate m) s = .next t ∧
        t.out = s.out ++ s.asks w.qp (.rdmaRead w.qp w.key (w.va.toNat + gaOffset (param m 8 8) % 2 ^ 40) (param m 16 8) s.hub.nextTag) ∧
        (∃ x ∈ t.port.waits, x.kind = .fwUpdate (param m 0 1) ∧ x.key = s.hub.nextTag ∧ x.left = param m 16 8) ∧
        t.hub.banks = s.hub.banks ∧ t.ctxs = s.ctxs ∧ t.mem = s.mem ∧ t.fields = s.fields) ∧
    (s.accepts m 0x0606 → m.ctx = 0xFF → param m 0 1 < Grade.fields s.grade → param m 1 1 = 0 → param m 8 1 ≤ 15 →
      param m 16 8 % 64 = 0 → 0 < param m 24 8 → mapped s.grade 0 (param m 16 8) (param m 24 8) →
      s.hub.node ≠ 0xFFFF#16 → (s.routeFor (param m 6 2) 0).isSome →
      ∃ t k, exec (.mirrorCopy m) s = .next t ∧ t.hub.copies = s.hub.copies ++ [(s.hub.nextCopy, k)] ∧ k.running = false ∧
        k.ctx = none ∧ k.field = param m 0 1 ∧ k.target = BitVec.ofNat 16 (param m 6 2) ∧ k.src = param m 16 8 ∧
        k.len = param m 24 8 ∧ (∃ x ∈ t.port.waits, x.kind = .mirrorCopy s.hub.nextCopy) ∧ t.out = s.out ∧ t.mem = s.mem ∧
        t.ctxs = s.ctxs ∧ t.links = s.links)

/-- R488, R484, R468: `FIELD_RESET` of a field that is neither fenced nor resetting starts its reset; the command waits. R387, R392:
`LINK_FENCE` of one link leaves that link fenced. R387: `LINK_TRAIN` of one link that does not train yet starts its training;
the command waits for the end of it. Memory changes only by the tiles of a COPY that a teardown finishes. -/
def Obligations.LinksAndFieldsOnCommand : Prop :=
  (∀ (s : State) (m : HostMsg), ModInv s → s.accepts m 0x0601 → param m 0 1 < Grade.fields s.grade →
      (s.field (param m 0 1)).state ≠ 2 → (s.field (param m 0 1)).state ≠ 3 →
      ∃ t, exec (.fieldReset m) s = .next t ∧ (t.field (param m 0 1)).state = 3 ∧ (t.field (param m 0 1)).test = none ∧
        (s.noCopyRuns → t.mem = s.mem) ∧ (∃ x ∈ t.port.waits, x.kind = .fieldReset (param m 0 1))) ∧
  (∀ (s : State) (m : HostMsg) (i : Nat), ModInv s → s.accepts m 0x0503 → i < Grade.links s.grade → param m 0 4 = 2 ^ i →
      ∃ t, exec (.linkFence m) s = .next t ∧ (t.link i).state = 4 ∧ (t.link i).replay = [] ∧ (s.noCopyRuns → t.mem = s.mem)) ∧
  (∀ (s : State) (m : HostMsg) (i : Nat), ModInv s → s.accepts m 0x0502 → i < Grade.links s.grade → param m 0 4 = 2 ^ i →
      (s.link i).state ≠ 1 →
      ∃ t, exec (.linkTrain m) s = .next t ∧ (t.link i).state = 1 ∧ (t.link i).replay = [] ∧ (s.noCopyRuns → t.mem = s.mem) ∧
        (∃ x ∈ t.port.waits, x.kind = .linkTrain (BitVec.ofNat 32 (2 ^ i))))

/-- R490: `MODULE_RESET` leaves no context running. R593: after step 2 of bring-up, a PLL that loses its lock leaves no context
running. R568, R620 to R622: a pulse shorter than 1 ms, or any pulse while the line is ignored, is counted and resets
nothing; a pulse of 1 ms to 100 ms leaves no context running; 100 ms low makes the module ignore the line, 100 ms high ends
that. -/
def Obligations.ResetsTearDown : Prop :=
  (∀ (s : State) (m : HostMsg), ModInv s → s.accepts m 0x0101 →
      ∃ t, exec (.moduleReset m) s = .next t ∧ ∀ c, c < 16 → (t.ctx c).state ≠ .active ∧ (t.ctx c).state ≠ .stopped) ∧
  (∀ (s : State) (p : PllLoss), ModInv s → 3 ≤ s.hub.stage →
      ∃ t, exec (.pllLockLoss p) s = .next t ∧ ∀ c, c < 16 → (t.ctx c).state ≠ .active ∧ (t.ctx c).state ≠ .stopped) ∧
  (∀ (s : State) (n : Nat) (f : BringUp),
      (n < 1000 ∨ s.sideband.resetStuck = true →
        exec (.sbResetPulse n f) s = .next (s.announced { s with sideband := { s.sideband with resetIgnored := min 255 (s.sideband.resetIgnored + 1) } })) ∧
      (1000 ≤ n → n ≤ 100000 → s.sideband.resetStuck = false → 8 ≤ s.hub.stage → ModInv s →
        ∃ t, exec (.sbResetPulse n f) s = .next t ∧ ∀ c, c < 16 → (t.ctx c).state ≠ .active ∧ (t.ctx c).state ≠ .stopped) ∧
      exec .resetStuck s = .next (s.announced { s with sideband := { s.sideband with resetStuck := true } }) ∧
      exec .resetStuckRelease s = .next (s.announced { s with sideband := { s.sideband with resetStuck := false } }))

/-- R595: `POWER_SET` sets the power cap and the steps that it names; code 0xFF keeps a field's step. R546, R480, R389: a
`REG_WRITE` of HANG_CFG or LNK_PARTNER gives the register the value that a following read answers; a write to the read-only
CTX_STATE answers `OK` and changes nothing. -/
def Obligations.PowerCapAndRegisters : Prop :=
  (∀ (s : State) (m : HostMsg), ModInv s → s.accepts m 0x0104 → 1500 ≤ param m 0 4 → param m 0 4 ≤ Grade.capMax s.grade →
      (∀ f, f < 8 → param m (4 + f) 1 = 0xFF ∨ (param m (4 + f) 1 ≤ 3 ∧ f < Grade.fields s.grade)) → s.power.minPower = false →
      ∃ t, exec (.powerSet m) s = .next t ∧ t.power = { s.power with hostCap := param m 0 4 } ∧
        (∀ f, f < 8 → (t.field f).hostStep = if param m (4 + f) 1 ≤ 3 then param m (4 + f) 1 else (s.field f).hostStep) ∧
        t.mem = s.mem ∧ t.hub = s.hub ∧ t.ctxs = s.ctxs ∧ t.links = s.links) ∧
  (∀ (s : State) (m : HostMsg) (sel v : Nat), s.accepts m 0x0801 → v < 2 ^ 64 →
      (cmdOf m).entries.map (fun e => (Machine.field e 0 4, Machine.field e 4 8)) = [(sel, v)] → selectorOk sel →
      (sel / 2 ^ 20 = 5 → sel % 2 ^ 20 / 8 < Grade.fields s.grade → s.fields.length = 8 →
        ∃ t, exec (.regWrite m) s = .next t ∧ t.readReg sel = v % 2 ^ 32 ∧ t.mem = s.mem ∧ t.hub = s.hub ∧ t.ctxs = s.ctxs) ∧
      (sel / 2 ^ 20 = 0x14 → sel % 2 ^ 20 / 8 < Grade.links s.grade → s.links.length = 32 →
        ∃ t, exec (.regWrite m) s = .next t ∧ t.readReg sel % 2 ^ 22 = v % 2 ^ 22 ∧ t.mem = s.mem ∧ t.hub = s.hub ∧ t.ctxs = s.ctxs) ∧
      (sel / 2 ^ 20 = 3 → exec (.regWrite m) s = .next (s.answered m stOk [])))

/-! ## Rings, event controllers, queue pairs -/

/-- R553, R554: `RING_SET` gives a ring its queue pair, key and address, empty and armed. R555, R561: a doorbell whose consumer
index lies between the ring's consumer and producer index sets the consumer index, and arms the ring when it asks for that
and nothing is unread; any other index is refused and counted, and the ring keeps its indices. A detached ring
checks and records too, and sends nothing (R619). No other ring changes. -/
def Obligations.RingsAndDoorbells : Prop :=
  (∀ (s : State) (m : HostMsg), s.accepts m 0x0105 → param m 16 1 ≤ 16 → (param m 16 1 < 16 → (s.ctx (param m 16 1)).state ≠ .free) →
      param m 16 1 < s.rings.length →
      ∃ t, exec (.ringSet m) s = .next t ∧ (t.ring (param m 16 1)).attached = true ∧
        (t.ring (param m 16 1)).qp = param m 0 4 % 2 ^ 24 ∧ (t.ring (param m 16 1)).key = BitVec.ofNat 32 (param m 4 4) ∧
        (t.ring (param m 16 1)).va = BitVec.ofNat 64 (param m 8 8) ∧ (t.ring (param m 16 1)).producer = 0#32 ∧
        (t.ring (param m 16 1)).consumer = 0#32 ∧ (t.ring (param m 16 1)).armed = true ∧
        (∀ r, r ≠ param m 16 1 → t.ring r = s.ring r) ∧ t.ctxs = s.ctxs ∧ t.mem = s.mem ∧ t.hub = s.hub ∧
        t.port = s.port ∧ t.fields = s.fields ∧ (s.answered m stOk []).out = t.out) ∧
  (∀ (s : State) (i : Nat) (v : U64), i < s.rings.length →
      ((v.setWidth 32 - (s.ring i).consumer).toNat ≤ ((s.ring i).producer - (s.ring i).consumer).toNat →
        ∃ t, exec (.doorbell i v) s = .next t ∧ ((s.ring i).attached = false → t.out = s.out) ∧ (t.ring i).consumer = v.setWidth 32 ∧ (t.ring i).producer = (s.ring i).producer ∧
          (t.ring i).armed = ((s.ring i).armed || (v.getLsbD 32 && (v.setWidth 32 == (s.ring i).producer))) ∧
          (∀ j, j ≠ i → t.ring j = s.ring j) ∧ t.mem = s.mem ∧ t.ctxs = s.ctxs ∧ t.hub = s.hub) ∧
      (((s.ring i).producer - (s.ring i).consumer).toNat < (v.setWidth 32 - (s.ring i).consumer).toNat →
        exec (.doorbell i v) s = .next (s.modRing i (fun r => { r with badDoorbells := min 65535 (r.badDoorbells + 1) }))))

/-- R554, R556, R560: writing a record takes the oldest waiting record, writes its 32 bytes at its place of the ring and then the
new producer index, and disarms the ring. R557: a ring without room writes no record; recovery mode writes none (R575), nor does a
module that has lost its smallest working set (R500). -/
def Obligations.EventRecordsWritten : Prop :=
  (∀ (s : State) (i : Nat) (e : EventRec) (rest : List EventRec), i < s.rings.length → (s.ring i).waiting = e :: rest →
      0 < (s.ring i).space → s.hub.stage ≠ 15 → s.outcast = false →
      ∃ t, exec (.eventRecordWrite i none) s = .next t ∧ (t.ring i).waiting = rest ∧
        (t.ring i).producer = (s.ring i).producer + 1#32 ∧ (t.ring i).armed = false ∧ (t.ring i).consumer = (s.ring i).consumer ∧
        s.out ++ [.rdmaWrite (s.ring i).qp (s.ring i).key ((s.ring i).va.toNat + 32 * ((s.ring i).producer.toNat % 4096))
            (EventRec.bytes e (s.ring i).producer.toNat),
          .rdmaWrite (s.ring i).qp (s.ring i).key ((s.ring i).va.toNat + 131072) (leBytes 4 (((s.ring i).producer.toNat + 1) % 2 ^ 32))]
          <+: t.out ∧
        (∀ j, j ≠ i → t.ring j = s.ring j) ∧ t.mem = s.mem ∧ t.ctxs = s.ctxs ∧ t.hub = s.hub) ∧
  (∀ (s : State) (i : Nat) (bad : Option Nat), (s.ring i).space = 0 ∨ s.hub.stage = 15 ∨ s.outcast = true →
      exec (.eventRecordWrite i bad) s = .next s)

/-- R562: a fire makes an inactive source pending and an active one active and pending, and merges with an earlier fire; the
source a controller takes is pending and becomes active; a completion makes an active source inactive and an active and
pending one pending, and has no effect otherwise; a fire and a completion at once act as that fire, then the completion.
Nothing else changes. R563: a fire of a field's source reaches the field's own controller too. R562, R564: a source that a completion leaves
pending is the next one taken in its class; among the sources of a controller none is taken while a fast source is active, none of the
normal class while any is active or an enabled fast source is pending, and no disabled one. -/
def Obligations.EventControllerServes : Prop :=
  (∀ e : EvcSrc,
    (e.state = 0 ∨ e.state = 1 → e.fire.state = 1) ∧ (e.state = 2 ∨ e.state = 3 → e.fire.state = 3) ∧
    (e.state = 0 ∨ e.state = 2 → e.complete.state = 0) ∧ (e.state = 1 ∨ e.state = 3 → e.complete.state = 1) ∧
    (e.state = 2 → e.fire.complete.state = 1)) ∧
  (∀ (s : State) (k : Nat), k < 512 →
    tableGet ((fireSource k).run s).evc k EvcSrc.reset = (tableGet s.evc k EvcSrc.reset).fire ∧
      (k < 448 → tableGet ((fireSource k).run s).evc (512 + k) EvcSrc.reset = (tableGet s.evc (512 + k) EvcSrc.reset).fire) ∧
      (∀ j, j ≠ k → (k < 448 → j ≠ 512 + k) → tableGet? ((fireSource k).run s).evc j = tableGet? s.evc j)) ∧
  (∀ (s : State) (ctl k : Nat), nextSource ctl s.evc = some k →
    ∃ e, (k, e) ∈ s.evc ∧ controllerHas ctl k = true ∧ e.state = 1 ∧ e.enable = true ∧
      (∀ j a, (j, a) ∈ s.evc → controllerHas ctl j = true → a.state = 1 → a.enable = true → a.fast = e.fast → a.again = true → e.again = true) ∧
      (∀ j a, (j, a) ∈ s.evc → controllerHas ctl j = true → a.state = 2 ∨ a.state = 3 → a.takenFast = false ∧ e.fast = true) ∧
      (e.fast = false → ∀ j a, (j, a) ∈ s.evc → controllerHas ctl j = true → a.state = 1 → a.enable = true → a.fast = false)) ∧
  ∀ (s : State),
    (∀ ctl k, nextSource ctl s.evc = some k →
      ∃ t, exec (.evcTake ctl) s = .next t ∧ (tableGet t.evc k EvcSrc.reset).state = 2 ∧ (tableGet t.evc k EvcSrc.reset).again = false ∧
        (∀ j, j ≠ k → tableGet? t.evc j = tableGet? s.evc j) ∧ { t with evc := s.evc } = s) ∧
    (∀ k, k < 960 → regAbsent s.grade 0x19 k = false → (tableGet s.evc k EvcSrc.reset).state = 2 →
      ∃ t, exec (.eoi k) s = .next t ∧ (tableGet t.evc k EvcSrc.reset).state = 0 ∧
        (∀ j, j ≠ k → tableGet? t.evc j = tableGet? s.evc j) ∧ { t with evc := s.evc } = s) ∧
    (∀ k, k < 960 → regAbsent s.grade 0x19 k = false → (tableGet s.evc k EvcSrc.reset).state = 3 →
      ∃ t, exec (.eoi k) s = .next t ∧ (tableGet t.evc k EvcSrc.reset).state = 1 ∧
        (tableGet t.evc k EvcSrc.reset).again = true ∧ { t with evc := s.evc } = s)

/-- R533: a congestion notification halves the send rate of its connected queue pair, 50 µs later a sixteenth of line rate comes
back, and a marked packet is answered with one notification unless one went out less than 50 µs before; no other queue pair
changes. R533: a connection request makes a queue pair, which opens with the ready-to-use message, and a disconnect closes it. Log 65 (the
model's reading): the disconnect is answered, and unmaps the windows and detaches the rings on the queue pair. -/
def Obligations.QueuePairs : Prop :=
  (∀ (s : State) (n : Nat) (q : Qp), s.qp? n = some q →
      (∃ t, exec (.congestionNotification n) s = .next t ∧
        t.port.qps = s.port.qps.map (fun p => if p.num = n ∧ p.connected then { p with rate := p.rate / 2, lastHit := some s.now } else p) ∧
        { t with port := s.port } = s) ∧
      (∀ c, q.lastHit = some c → q.rate < lineRate →
        ∃ t, exec (.rateRestore n) s = .next t ∧ t.now = max s.now (c + 5000) ∧
          t.port.qps = s.port.qps.map (fun p => if p.num = n ∧ p.connected
            then { p with rate := min lineRate (p.rate + 2 ^ 16), lastHit := some t.now } else p) ∧
          { t with port := s.port, now := s.now } = s) ∧
      ((q.lastCnp = none ∨ ∃ c, q.lastCnp = some c ∧ c + 5000 ≤ s.now) →
        ∃ t, exec (.ceMarkedPacket n) s = .next t ∧ t.out = s.out ++ [.cnp n] ∧
          { t with port := s.port, out := s.out } = s)) ∧
  (∀ (s : State) (n : Nat), s.port.up = true →
      (1 < n → s.port.qps.length < s.qpLimit → (∀ q ∈ s.port.qps, q.num ≠ n) →
        ∃ t, exec (.connectionManagement .req n) s = .next t ∧ t.out = s.out ++ [.cm n .rep] ∧
          (∃ q ∈ t.port.qps, q.num = n ∧ q.connected = false) ∧ { t with port := s.port, out := s.out } = s) ∧
      ((∃ q ∈ s.port.qps, q.num = n) →
        ∃ t, exec (.connectionManagement .rtu n) s = .next t ∧ (t.qp? n).isSome ∧ { t with port := s.port } = s) ∧
      (∃ t, exec (.connectionManagement .dreq n) s = .next t ∧ (∀ q ∈ t.port.qps, q.num ≠ n) ∧
        (∀ w, some w ∈ t.hub.windows → w.qp ≠ n) ∧ (∀ i, i < 17 → i < s.rings.length → (s.ring i).qp = n → (t.ring i).attached = false) ∧
        t.out = s.out ++ [.cm n .drep] ∧ t.mem = s.mem ∧ t.ctxs = s.ctxs ∧ t.fields = s.fields))

/-! ## Memory -/

/-- R355, R11: a write whose partly covered granules all hold sound data is read back byte for byte, and every byte outside it
keeps its value. R355, R349: a write that covers a bad granule in part leaves that word poisoned, all its bytes zero. A write
changes no word that it does not touch: neither its bytes nor its soundness. Reading a range byte by byte and at once give
the same bytes, in every memory in canonical form. -/
def Obligations.MemoryWrites : Prop :=
  (∀ (m : Mem) (k : Nat) (bs : List Byte), m.wf = true →
      (∀ g ∈ granulesOf k bs.length, m.granuleOk g = true ∨ (k ≤ 8 * g ∧ 8 * g + 8 ≤ k + bs.length)) →
      (∀ i, i < bs.length → (m.write k bs).byte (k + i) = bs.getD i 0#8) ∧
      (∀ a, a < k ∨ k + bs.length ≤ a → (m.write k bs).byte a = m.byte a) ∧
      (∀ g ∈ granulesOf k bs.length, (m.write k bs).granuleOk g = true)) ∧
  (∀ (m : Mem) (k : Nat) (bs : List Byte) (g : Nat), m.wf = true → g ∈ granulesOf k bs.length → m.granuleOk g = false →
      ¬ (k ≤ 8 * g ∧ 8 * g + 8 ≤ k + bs.length) →
      (m.write k bs).wordOk (g / 8) = false ∧ ∀ a, a / 64 = g / 8 → (m.write k bs).byte a = 0#8) ∧
  (∀ (m : Mem) (k : Nat) (bs : List Byte) (w : Nat), w ∉ wordsOf k bs.length →
      (∀ a, a / 64 = w → (m.write k bs).byte a = m.byte a) ∧ (m.write k bs).wordOk w = m.wordOk w) ∧
  (∀ (m : Mem) (k n : Nat), m.wf = true → m.bytes k n = (List.range n).map (fun i => m.byte (k + i)))

/-- R347: an offset of a field lies in the set, bank and row that the rule computes; bank and row name one reservoir word of a
field, and every word has such a name. -/
def Obligations.ReservoirAddressMap : Prop :=
  (∀ f o, o < reservoirBytes →
    resBank (f * 2 ^ 32 + o) = 128 * (o / 268435456) + o % 268435456 / 64 % 128 ∧
      resRow (f * 2 ^ 32 + o) = o % 268435456 / 64 / 128 ∧ resBank (f * 2 ^ 32 + o) / 128 = o / 268435456 ∧
      f * 2 ^ 32 + o = resOffset f (resBank (f * 2 ^ 32 + o)) (resRow (f * 2 ^ 32 + o)) + o % 64) ∧
  (∀ o, o % 2 ^ 32 < reservoirBytes → resOffset (o / 2 ^ 32) (resBank o) (resRow o) = o / 64 * 64) ∧
  (∀ f b r, b < 1920 → r < 32768 →
    resBank (resOffset f b r) = b ∧ resRow (resOffset f b r) = r ∧ resOffset f b r / 2 ^ 32 = f ∧
      resOffset f b r % 2 ^ 32 < reservoirBytes ∧ resOffset f b r % 64 = 0)

/-- R354: a port-A write to a word that a port-B write also writes lands over it, and its bank counts the collision; others do
neither. R534, R381, R364, R626: a host write on a connected queue pair to memory of an open space lands there and is
acknowledged; a host read gives the stored bytes, and zeros for a poisoned word
(R349, log 22); an access without a key, outside the space, or to a stack that has not trained gets a negative
acknowledgement and changes nothing. (`hbm` accesses; reservoir accesses also end the transitions they wait for.) A write that covers a
check granule in part reads it first (R350, R355). R500: a module that has lost its smallest working set serves no access. -/
def Obligations.HostRdma : Prop :=
  (∀ (s : State) (key : U32) (va n : Nat), (s.stack (va / 2 ^ 36)).trained = false → s.hostAccess key va n ≠ some 0) ∧
  (∀ (m : Mem) (k n i : Nat), i < n →
      (m.readOut k n).getD i 0#8 = if m.wordOk ((k + i) / 64) then (m.bytes k n).getD i 0#8 else 0#8) ∧
  (∀ (s : State) (ws : List Nat) (c : Collision), c.offset + c.data.length ≤ 64 →
      (memKey 1 (64 * c.word) / 64 ∈ ws → ∃ t, t = (collisionsFx ws [c]).run s ∧
        t.mem = s.mem.write (memKey 1 (64 * c.word + c.offset)) c.data ∧ { t with mem := s.mem, fields := s.fields } = s ∧
        (64 * c.word / 2 ^ 32 < s.fields.length →
          (tableGet (t.field (64 * c.word / 2 ^ 32)).banks (resBank (64 * c.word)) BankStat.reset).collisions =
            min 65535 ((tableGet (s.field (64 * c.word / 2 ^ 32)).banks (resBank (64 * c.word)) BankStat.reset).collisions + 1))) ∧
      (memKey 1 (64 * c.word) / 64 ∉ ws → (collisionsFx ws [c]).run s = s)) ∧
  (∀ (s : State) (qp : Nat) (key : U32) (va n : Nat) (data : List Byte) (collide : List Collision), s.outcast = true →
    exec (.rdmaWrite qp key va data collide) s = .next s ∧ exec (.rdmaRead qp key va n) s = .next s) ∧
  ∀ (s : State) (qp : Nat) (key : U32) (va : Nat) (data : List Byte) (collide : List Collision), (s.qp? qp).isSome → s.outcast = false →
    (s.hostAccess key va data.length = some 0 →
      ∃ t, exec (.rdmaWrite qp key va data collide) s = .next t ∧
        t.mem = ((partialReads va data.length).run s).mem.write va data ∧ t.out = s.out ++ [.writeAck qp] ∧ t.ctxs = s.ctxs ∧ t.hub = s.hub) ∧
    (s.hostAccess key va data.length = some 0 → s.mem.errorWords va data.length = [] →
      exec (.rdmaWrite qp key va data collide) s = .next ((s.memWrite va data).emit (.writeAck qp))) ∧
    (s.hostAccess key va data.length = none → keySpace key ≠ some 2 →
      exec (.rdmaWrite qp key va data collide) s = .next (s.emit (.accessNak qp))) ∧
    (∀ n, s.hostAccess key va n = none → exec (.rdmaRead qp key va n) s = .next (s.emit (.accessNak qp))) ∧
    (∀ n, s.hostAccess key va n = some 0 → s.mem.errorWords va n = [] →
      exec (.rdmaRead qp key va n) s = .next (s.emit (.readData qp (s.mem.readOut va n))))

/-- R350, R371: the write-back of a waiting word on a set that is on rewrites what upsets hit in a readable word and changes no
byte that a read returns; in HBM it comes beside refresh (R372), which changes no such byte either and adds the corrections that
the stack reports to its count. R351: a scrub of a row without errors moves the bank's scrub on by one row. Log 103 (the model's
choice): upsets come with SCRUB and HBM_REFRESH; with them a scrub changes nothing of memory but what they flip and the words that
wait. R373, R375, R377: the end of a retirement records the pseudo-channel, a second one beside the first, and puts the stack back on line; a failed stack is
out of service, also through its field's reset, and its retirement ends. -/
def Obligations.MemoryUpkeep : Prop :=
  (∀ (s : State), s.mem.wf = true →
      (∀ f b r, ((s.field f).sets.getD (b / 128) SetPower.reset).state = .on →
        ((s.field f).sets.getD (b / 128) SetPower.reset).target = none → (memKey 1 (resOffset f b r) / 64) ∈ s.mem.writeBack →
        ∃ t, exec (.eccWriteback f b r) s = .next t ∧ (∀ a, t.mem.byte a = s.mem.byte a) ∧
          (memKey 1 (resOffset f b r) / 64) ∉ t.mem.writeBack ∧
          (s.mem.wordOk (memKey 1 (resOffset f b r) / 64) = true →
            ∀ g, g / 8 = memKey 1 (resOffset f b r) / 64 → tableGet? t.mem.ecc g = none) ∧
          { t with mem := s.mem } = s) ∧
      (∀ f b l, f < s.fields.length → ((s.field f).sets.getD (b / 128) SetPower.reset).state = .on →
        ((s.field f).sets.getD (b / 128) SetPower.reset).target = none →
        (s.mem.errorWords (memKey 1 (resOffset f b (tableGet (s.field f).banks b BankStat.reset).scrubRow)) 64 = [] →
          ∃ t, exec (.scrub f ⟨b, []⟩) s = .next t ∧ t.mem = s.mem ∧ { t with fields := s.fields } = s) ∧
        ∃ t, exec (.scrub f ⟨b, l⟩) s = .next t ∧
          { t.mem with writeBack := s.mem.writeBack } = s.mem.upset (bankUpsets f b l) ∧
          (tableGet (t.field f).banks b BankStat.reset).scrubRow = ((tableGet (s.field f).banks b BankStat.reset).scrubRow + 1) % 32768) ∧
      (∀ k n l, k < Grade.hbmStacks s.grade → k < s.hbmStacks.length →
        ∃ t, exec (.hbmRefresh ⟨k, n, l⟩) s = .next t ∧ (l = [] → ∀ a, t.mem.byte a = s.mem.byte a) ∧
          (t.stack k).corrected = min 65535 ((s.stack k).corrected + n) ∧ (∀ w ∈ s.waitingWords k, w ∉ t.mem.writeBack) ∧
          { t with mem := s.mem, hbmStacks := s.hbmStacks } = s)) ∧
  (∀ (s : State) (k : Nat), ModInv s → k < Grade.hbmStacks s.grade →
      (∀ pc, (s.stack k).retiring = some pc → (s.stack k).state = 1 → (s.hub.served = true → s.workingSet = true) →
        ∃ t, exec (.hbmRetireDone k) s = .next t ∧ (t.stack k).retiring = none ∧ (t.stack k).state = 0 ∧
          ((s.stack k).retiredA = none → (t.stack k).retiredA = some pc ∧ (t.stack k).retiredB = (s.stack k).retiredB) ∧
          ((s.stack k).retiredA ≠ none → (t.stack k).retiredA = (s.stack k).retiredA ∧ (t.stack k).retiredB = some pc) ∧
          (∀ x ∈ t.port.waits, x.kind ≠ .hbmRetire k) ∧
          t.ctxs = s.ctxs ∧ t.fields = s.fields ∧ (∀ j, j ≠ k → t.stack j = s.stack j)) ∧
      (∃ t, exec (.hbmStackFailed k) s = .next t ∧ (t.stack k).state = (if (s.stack k).state = 3 then 3 else 2) ∧
        (t.stack k).afterReset.state = 2 ∧ (t.stack k).retiring = none ∧
        (s.noCopyRuns → t.mem = s.mem) ∧ (∀ j, j ≠ k → t.stack j = s.stack j)))

/-- R362, R363: the last transition of a set ends in its target, and contents that went through off are poison. -/
def Obligations.SetTransitionEnds : Prop :=
  ∀ (s : State) (f i : Nat) (p : SetPower) (goal : SetState), f < s.fields.length → i < (s.field f).sets.length →
    (s.field f).sets.getD i SetPower.reset = p → p.target = some goal → p.steps = [] → p.waiting = none →
    ∃ t, exec (.setTransitionDone f i) s = .next t ∧
      ((t.field f).sets.getD i SetPower.reset).state = goal ∧ ((t.field f).sets.getD i SetPower.reset).target = none ∧
      (goal ≠ .off → p.state ≠ .off → t.mem = s.mem) ∧
      (goal = .off ∨ p.state = .off → t.mem = s.mem.poison (memKey 1 (f * 2 ^ 32 + i * 268435456) / 8)
        (memKey 1 (f * 2 ^ 32 + (i + 1) * 268435456) / 8)) ∧ t.ctxs = s.ctxs ∧ t.hub.node = s.hub.node

/-! ## Supply, power and cooling -/

/-- R582, R607, R583, R585: a feed in range qualifies, and serves when no feed serves. A serving feed below its limit
disqualifies, and the other, qualified feed takes the load. A standby feed whose fuse trips, whose enable contact opens or
whose polarity is reversed stops being qualified, with the state that says why, and the serving one goes on. A tripped feed
is rearmed while a sideband bus works (R620); the return to feed A makes it serve and feed B the standby. -/
def Obligations.FeedsChangeOver : Prop :=
  ∀ (s : State) (f : Nat) (mv : Int), s.power.feeds.length = 2 → f < 2 →
    (40000 ≤ mv → mv ≤ 60000 → (s.feed f).state ≠ 4 → (s.feed f).qualified = false →
      ∃ t, exec (.feedQualify f mv) s = .next t ∧ (t.feed f).qualified = true ∧ (t.feed f).mv = mv ∧
        (s.power.serving = none → s.power.down = false → t.power.serving = some f ∧ (t.feed f).state = 2) ∧
        (∀ g, s.power.serving = some g → t.power.serving = some g ∧ (t.feed f).state = 1) ∧ t.mem = s.mem ∧ t.ctxs = s.ctxs) ∧
    (mv < 39000 → s.power.serving = some f → (s.feed (1 - f)).qualified = true →
      ∃ t, exec (.feedDisqualify f mv) s = .next t ∧ (t.feed f).qualified = false ∧ t.power.serving = some (1 - f) ∧
        (t.feed (1 - f)).state = 2 ∧ t.mem = s.mem ∧ t.ctxs = s.ctxs) ∧
    (s.power.serving = some (1 - f) → ∃ t, exec (.fuseTrip f mv) s = .next t ∧ (t.feed f).qualified = false ∧
      (t.feed f).state = 4 ∧ t.power.serving = some (1 - f) ∧ t.mem = s.mem ∧ t.ctxs = s.ctxs) ∧
    (s.power.serving = some (1 - f) → ∃ t, exec (.feedEnableRelease f mv) s = .next t ∧ (t.feed f).qualified = false ∧
      (t.feed f).enabled = false ∧ t.power.serving = some (1 - f) ∧ t.mem = s.mem ∧ t.ctxs = s.ctxs) ∧
    (mv < 0 → s.power.serving = some (1 - f) → ∃ t, exec (.feedReversed f mv) s = .next t ∧ (t.feed f).qualified = false ∧
      (t.feed f).state = 3 ∧ t.power.serving = some (1 - f) ∧ t.mem = s.mem ∧ t.ctxs = s.ctxs) ∧
    (s.sideband.busA ≠ 0 → s.sideband.busB ≠ 0 → exec (.rearm f) s = .next s) ∧
    ((s.feed f).state = 4 → s.sideband.busA = 0 ∨ s.sideband.busB = 0 → ∃ t, exec (.rearm f) s = .next t ∧ (t.feed f).state = 0 ∧ (t.feed (1 - f)).state = (s.feed (1 - f)).state ∧
      t.power.serving = s.power.serving ∧ t.mem = s.mem ∧ t.ctxs = s.ctxs) ∧
    ((s.feed 0).qualified = true → s.power.serving = some 1 →
      ∃ t, exec (.feedReturn mv) s = .next t ∧ t.power.serving = some 0 ∧ (t.feed 0).state = 2 ∧ (t.feed 1).state = 1 ∧
        t.mem = s.mem ∧ t.ctxs = s.ctxs)

/-- R378, R585: when the serving feed goes and the other is not qualified, the module loses power: contexts are gone, every word
of memory that a key below 2^67 names is poison, and the hub stands before bring-up; the firmware banks and the repair table
stay. R602, R614: THERMTRIP switches the module off: no feed serves, the trip is latched, and bring-up starts over. -/
def Obligations.PowerIsLost : Prop :=
  (∀ (s : State) (f : Nat) (mv : Int), ModInv s → s.power.feeds.length = 2 → f < 2 → s.power.serving = some f →
      (s.feed (1 - f)).qualified = false → mv < 39000 →
      ∃ t, exec (.feedDisqualify f mv) s = .next t ∧ t.power.serving = none ∧ t.hub.stage = 1 ∧ t.hub.banks = s.hub.banks ∧
        t.hub.repair = s.hub.repair ∧ (∀ c, c < 16 → t.ctx c = Ctx.reset) ∧ (∀ i, i < 32 → t.link i = Link.reset) ∧
        (∀ w, w < 2 ^ 61 → t.mem.wordOk w = false) ∧ (∀ a, a < 2 ^ 67 → t.mem.byte a = 0#8)) ∧
  (∀ (s : State), ModInv s →
      ∃ t, exec .thermtrip s = .next t ∧ t.power.serving = none ∧ t.power.down = true ∧ t.sideband.thermtrip = true ∧ t.hub.stage = 1 ∧
        (∀ c, c < 16 → t.ctx c = Ctx.reset) ∧ (∀ a, a < 2 ^ 67 → t.mem.byte a = 0#8))

/-- R589: a failed phase leaves its rail with one phase less. R597: with the power and every field's draw below 95 % of their
limits, the loop counts the period, and at the tenth in a row starts its count anew; every field's draw and the new count are log 60's
reading, and that the local counter then stands at the next period is log 5's. R598: without a cause the module leaves minimum power 1 s after the last cause ended; while a cause remains it does
not. R592, R612: the clock root takes the fallback oscillator when the reference is lost and the reference when it returns; a
pluggable that declares more than 18 W is held in low power with the port down, and no queue pair or ring is left on it (log 130); R500: a module in service that thereby loses its
smallest working set tears down every context and enters minimum power. -/
def Obligations.PowerLimits : Prop :=
  (∀ (s : State) (r : Nat), railFitted s.grade r = true → 0 < s.power.phases.getD r 0 → r < s.power.phases.length →
      ∃ t, exec (.phaseFail r) s = .next t ∧ t.power.phases = s.power.phases.set r (s.power.phases.getD r 0 - 1) ∧
        t.mem = s.mem ∧ t.hub = s.hub ∧ t.ctxs = s.ctxs ∧ t.links = s.links) ∧
  (∀ (s : State) (w : Nat) (l : List Nat) (i : Nat), s.power.serving = some i → s.capCause w l = none → s.underCap w l = true →
      (∀ f, s.overRail l f = false) →
      ∃ t, exec (.powerCapPeriod w l) s = .next t ∧ t.now = (s.now / 1000 + 1) * 1000 ∧
        t.power.under = (if s.power.under = 9 then 0 else s.power.under + 1) ∧ t.power.hostCap = s.power.hostCap ∧
        t.mem = s.mem ∧ t.hub = s.hub ∧ t.ctxs = s.ctxs ∧ t.links = s.links) ∧
  (∀ (s : State),
      (s.power.minPower = true → s.power.minCauses = [] →
        ∃ t, exec .minPowerExit s = .next t ∧ t.power = { s.power with minPower := false } ∧
          t.now = max s.now (s.power.minSince + 100000000) ∧ t.mem = s.mem ∧ t.hub = s.hub ∧ t.ctxs = s.ctxs) ∧
      (s.power.minCauses ≠ [] → exec .minPowerExit s = .next s)) ∧
  (∀ (s : State),
      (s.power.external = true → ∃ t, exec .refclkLost s = .next t ∧ t.power = { s.power with external := false } ∧ t.mem = s.mem ∧
        t.hub = s.hub ∧ t.ctxs = s.ctxs) ∧
      (s.power.external = false → ∃ t, exec .refclkReturn s = .next t ∧ t.power = { s.power with external := true } ∧ t.mem = s.mem ∧
        t.hub = s.hub ∧ t.ctxs = s.ctxs) ∧
      (∀ w, 18 < w → ∃ t, exec (.pluggableInsert w) s = .next t ∧ t.port.pluggableHeld = true ∧ t.port.up = false ∧ t.port.qps = [] ∧
        (∀ i, i < 17 → (t.ring i).attached = false) ∧
        ((s.hub.stage ≠ 8 ∧ s.hub.stage ≠ 9) ∨ s.hub.warm = true ∨ (s.modPort (fun p => { p with up := false })).workingSet = true →
          t.mem = s.mem ∧ t.ctxs = s.ctxs ∧ t.links = s.links) ∧
        (s.hub.stage = 8 ∨ s.hub.stage = 9 → s.hub.warm = false → s.hub.served = true →
          (s.modPort (fun p => { p with up := false })).workingSet = false →
          10 ∈ t.power.minCauses ∧ ∀ c, c < 16 → (t.ctx c).state ≠ .active ∧ (t.ctx c).state ≠ .stopped)) ∧
      (∀ w, w ≤ 18 → exec (.pluggableInsert w) s = .next (s.modPort (fun p => { p with pluggableHeld := false }))))

/-- R601, R602: a die above 100 °C slows its field by one level up to the slowest step, at 110 °C to the throttle level; the
field is released at 95 °C or below. Memory stacks have the limits 90, 95 and 85 °C. No other field's level changes. R601,
R603: a coolant reading is kept as read, saturating; a leak latches; the inlet above 45.0 °C throttles until it is at 44.0 °C
or below. Log 129 (the model's reading): the flow is estimated with the coolant of R600, and the condition on a low flow has held since
the first reading in a row that finds it. Memory keeps its contents where no COPY runs that a teardown would finish (R468, R500). -/
def Obligations.ThermalLevels : Prop :=
  (∀ (s : State) (f c : Nat), f < Grade.fields s.grade → s.fields.length = 8 →
      (∃ t, exec (.thermalThrottle f 0 c) s = .next t ∧
        (t.field f).dieLevel = (if 110 ≤ c then 4 else if 100 < c then max (s.field f).dieLevel (min 3 ((s.field f).dieLevel + 1))
          else (s.field f).dieLevel) ∧ (t.field f).hbmLevel = (s.field f).hbmLevel ∧
        (∀ g, g ≠ f → (t.field g).dieLevel = (s.field g).dieLevel) ∧ t.mem = s.mem ∧ t.hub = s.hub ∧ t.ctxs = s.ctxs) ∧
      (∃ t, exec (.thermalThrottle f 1 c) s = .next t ∧
        (t.field f).hbmLevel = (if 95 ≤ c then 4 else if 90 < c then max (s.field f).hbmLevel (min 3 ((s.field f).hbmLevel + 1))
          else (s.field f).hbmLevel) ∧ (t.field f).dieLevel = (s.field f).dieLevel ∧ t.mem = s.mem ∧ t.hub = s.hub ∧ t.ctxs = s.ctxs) ∧
      (∃ t, exec (.thermalRelease f 0 c) s = .next t ∧
        (t.field f).dieLevel = (if c ≤ 95 then 0 else (s.field f).dieLevel) ∧ (t.field f).hbmLevel = (s.field f).hbmLevel ∧
        t.mem = s.mem ∧ t.hub = s.hub ∧ t.ctxs = s.ctxs) ∧
      (∃ t, exec (.thermalRelease f 1 c) s = .next t ∧
        (t.field f).hbmLevel = (if c ≤ 85 then 0 else (s.field f).hbmLevel) ∧ (t.field f).dieLevel = (s.field f).dieLevel ∧
        t.mem = s.mem ∧ t.hub = s.hub ∧ t.ctxs = s.ctxs)) ∧
  (∀ (s : State) (r : Coolant),
      ∃ t, exec (.cooling r) s = .next t ∧ t.power.inlet = min 4095 r.inlet ∧ t.power.outlet = min 4095 r.outlet ∧
        t.now = s.now + r.after ∧
        (r.outlet ≤ r.inlet → t.power.flow = 255) ∧
        (r.inlet < r.outlet → t.power.flow = min 255 (6000 * r.watts / (3978 * (r.outlet - r.inlet)))) ∧
        t.power.slowSince = (if t.power.flow < 100 ∧ 1500 < r.watts then some (s.power.slowSince.getD t.now) else none) ∧
        t.power.leak = (s.power.leak || r.leak) ∧
        t.power.inletHot = (decide (450 < r.inlet) || (s.power.inletHot && decide (440 < r.inlet))) ∧ (s.noCopyRuns → t.mem = s.mem))

/-! ## The sideband -/

/-- R616, R618: a sideband write of all eight bytes with good parity on a working bus writes NET_MAC or NET_IPV4; of two writes to one
register that finish in the same cycle bus A's stands (log 131 on the cycle); a write with bad parity or of another length changes
nothing. R619, R565 step 8: `apply` with an address family on and a valid prefix
brings the port up, closes every queue pair and ends step 8; without an address family the port is down. R620: a bus shorted
low is in state 1, one that is open or stuck high in state 2, a recovered one in state 0; the other bus keeps its state. -/
def Obligations.Sideband : Prop :=
  (∀ (s : State) (d : List Byte), s.sideband.busA = 0 → d.length = 8 →
      exec (.sidebandWrite 0 0x0030 d true) s = .next { s with
        sideband := { s.sideband with lastA := some (0x0030, s.now) }, port := { s.port with mac := BitVec.ofNat 48 (leNat d) } } ∧
      exec (.sidebandWrite 0 0x0038 d true) s = .next { s with
        sideband := { s.sideband with lastA := some (0x0038, s.now) }, port := { s.port with ipv4 := BitVec.ofNat 40 (leNat d) } } ∧
      (∀ a, s.sideband.busB = 0 → s.sideband.lastA = some (a.toNat, s.now) → exec (.sidebandWrite 1 a d true) s = .next s) ∧
      (∀ a, exec (.sidebandWrite 0 a d false) s = .next s) ∧
      (∀ a d', d'.length ≠ 8 → exec (.sidebandWrite 0 a d' true) s = .next s)) ∧
  (∀ (s : State) (v : U64), s.sideband.busA = 0 → v.getLsbD 13 = true → s.hub.stage = 8 → s.port.pluggableHeld = false →
      (v.getLsbD 3 = true ∨ v.getLsbD 4 = true → v.toNat / 32 % 256 ≤ 128 →
        ∃ t, exec (.apply 0 v) s = .next t ∧ t.port.up = true ∧ t.hub.stage = 9 ∧ t.port.qps = [] ∧ (s.noCopyRuns → t.mem = s.mem)) ∧
      (v.getLsbD 3 = false → v.getLsbD 4 = false →
        ∃ t, exec (.apply 0 v) s = .next t ∧ t.port.up = false ∧ t.hub.stage = 8 ∧ t.port.qps = [] ∧ (s.noCopyRuns → t.mem = s.mem))) ∧
  (∀ (s : State),
      exec (.sidebandBusFault 0 .shortedLow) s = .next (s.announced { s with sideband := { s.sideband with busA := 1 } }) ∧
      exec (.sidebandBusFault 1 .openOrHigh) s = .next (s.announced { s with sideband := { s.sideband with busB := 2 } }) ∧
      exec (.sidebandBusRecover 0) s = .next (s.announced { s with sideband := { s.sideband with busA := 0 } }) ∧
      exec (.sidebandBusRecover 1) s = .next (s.announced { s with sideband := { s.sideband with busB := 0 } }))

/-! ## Bring-up, teardown, resets and tests -/

/-- R565, R575: with a serving feed at 40 V and good regulators, bring-up holds in step 2 while a PLL does not lock and in step 3 while the
boot ROM does not run; else bring-up without a valid image of every kind ends in
recovery mode; else it goes on to the training of every link with a signal, and memory of the stacks is poison (R626). -/
def Obligations.PowerUpBringsUp : Prop :=
  ∀ (s : State) (b : BringUp), ModInv s → s.hub.stage ≤ 3 → s.power.serving.isSome → s.power.atForty = true → b.powerGood = true → s.hub.warm = false →
    ∃ t, exec (.powerUp b) s = .next t ∧ t.power.external = b.refclk ∧
      (b.pllLock = false → t.hub.stage = 2 ∧ t.mem = s.mem ∧ t.ctxs = s.ctxs) ∧
      (b.pllLock = true → b.boot.romOk = false → t.hub.stage = 3 ∧ t.mem = s.mem ∧ t.ctxs = s.ctxs) ∧
      (b.pllLock = true → b.boot.romOk = true → ((s.hub.checked b.boot.bankBad).loadImages).noImage ≠ 0#3 → t.hub.stage = 15) ∧
      (b.pllLock = true → b.boot.romOk = true → ((s.hub.checked b.boot.bankBad).loadImages).noImage = 0#3 →
        (t.hub.stage = 7 ∨ t.hub.stage = 8) ∧
        (∀ i, i < Grade.links s.grade → b.signal.getLsbD i = true → (t.link i).state = 1) ∧
        (∀ k w, k < Grade.hbmStacks s.grade → k * 2 ^ 30 ≤ w → w < (k + 1) * 2 ^ 30 → t.mem.wordOk w = false))

/-- R467, R468, R492, R420: `DESTROY` of an unbound context tears it down: its generation advances, its records and operations
are gone, and the command waits; a `FREE` slot answers `OK` at once. `JOB_ABORT` tears down every context bound to the job.
No other context's slot changes, nor does memory where no COPY runs. R468, R475: the end of a teardown puts the slot into quarantine, and the
end of the quarantine frees it with its generation kept; another slot is not touched; an end that comes after the deadline of R474 is
late (R478; log 128), and the slot is in quarantine all the same; R490: a module warm reset ends both at its own
end. R482: an engine that misses the deadline of a teardown is reset. -/
def Obligations.Teardown : Prop :=
  (∀ (s : State) (m : HostMsg), s.ctxs.length = 16 →
      (s.accepts m 0x0201 → (s.ctx m.ctx).state = .active ∨ (s.ctx m.ctx).state = .stopped → (s.ctx m.ctx).job = 0#16 →
        ∃ t, exec (.destroy m) s = .next t ∧ (t.ctx m.ctx).state = .teardown ∧ (t.ctx m.ctx).gen = (s.ctx m.ctx).gen + 1#12 ∧
          (t.ctx m.ctx).ops = [] ∧ (t.ctx m.ctx).stream = [] ∧ (t.ctx m.ctx).tearCause = BitVec.ofNat 16 stAborted ∧
          (∀ c, c ≠ m.ctx → t.ctx c = s.ctx c) ∧ (∃ x ∈ t.port.waits, x.kind = .destroy m.ctx) ∧ (s.noCopyRuns → t.mem = s.mem)) ∧
      (s.accepts m 0x0201 → (s.ctx m.ctx).state = .free → exec (.destroy m) s = .next (s.answered m stOk [])) ∧
      (s.accepts m 0x0208 → param m 0 2 ≠ 0 →
        ∃ t, exec (.jobAbort m) s = .next t ∧ (s.noCopyRuns → t.mem = s.mem) ∧
          (∀ c, c < 16 → (s.ctx c).job.toNat = param m 0 2 → (s.ctx c).state = .active ∨ (s.ctx c).state = .stopped →
            (t.ctx c).state = .teardown ∧ (t.ctx c).gen = (s.ctx c).gen + 1#12) ∧
          (∀ c, c < 16 → (s.ctx c).job.toNat ≠ param m 0 2 → t.ctx c = s.ctx c))) ∧
  (∀ (s : State) (c : Nat), c < s.ctxs.length →
      ((s.ctx c).state = .teardown → s.hub.warm = false → (s.ctx c).tearStart + 200000 < s.now →
        ∃ t, exec (.teardownDone c) s = .next t ∧ (t.ctx c).state = .quarantine ∧ (s.noCopyRuns → t.mem = s.mem)) ∧
      ((s.ctx c).state = .teardown → s.hub.warm = false → s.now ≤ (s.ctx c).tearStart + 200000 →
        ∃ t, exec (.teardownDone c) s = .next t ∧ (t.ctx c).state = .quarantine ∧ (t.ctx c).quarStart = s.now ∧
          (t.ctx c).gen = (s.ctx c).gen ∧ (∀ d, d ≠ c → t.ctx d = s.ctx d) ∧ (∀ x ∈ t.port.waits, x.kind ≠ .destroy c) ∧
          t.mem = s.mem ∧ t.hub = s.hub) ∧
      ((s.ctx c).state = .quarantine → s.hub.warm = false →
        ∃ t, exec (.quarantineEnd c) s = .next t ∧ t.ctx c = { Ctx.reset with gen := (s.ctx c).gen } ∧
          t.now = max s.now ((s.ctx c).quarStart + 25601) ∧ (∀ d, d ≠ c → t.ctx d = s.ctx d) ∧ t.mem = s.mem ∧ t.hub = s.hub) ∧
      (∀ f e, (s.ctx c).state = .teardown → s.hub.warm = false → f < Grade.fields s.grade → f < s.fields.length →
        ∃ t, exec (.teardownTimeout c f e) s = .next t ∧ (s.ctx c).tearStart + 200001 ≤ t.now ∧
          tableGet? (t.field f).engineResets e = some t.now ∧ (s.noCopyRuns → t.mem = s.mem)) ∧
      (s.hub.warm = true → exec (.teardownDone c) s = .next s ∧ exec (.quarantineEnd c) s = .next s))

/-- R478 to R482: an engine with work that makes no progress for the hang limit is marked and its reset starts; the end of the reset in
time is the end of its entry. R483: an engine whose reset does not end in time, or ends late (log 128), takes its field into a field reset. -/
def Obligations.EnginesHang : Prop :=
  ∀ (s : State) (f e : Nat), ModInv s → f < Grade.fields s.grade →
    (e < 20 → (s.field f).hangLimit ≠ 0#32 → (s.field f).state ≤ 1 → s.pendingWork f e = true →
      ∃ t, exec (.engineHung f e) s = .next t ∧ (t.field f).hung.getLsbD e = true ∧
        t.now = max s.now (tableGet (s.field f).progress e s.now + (s.field f).hangLimit.toNat + 1) ∧
        tableGet? (t.field f).engineResets e = some t.now ∧ (s.noCopyRuns → t.mem = s.mem)) ∧
    ((s.field f).hangLimit = 0#32 ∨ s.pendingWork f e = false → exec (.engineHung f e) s = .next s) ∧
    (∀ c, tableGet? (s.field f).engineResets e = some c →
      (s.now ≤ c + 10000 →
        ∃ t, exec (.engineResetDone f e) s = .next t ∧ tableGet? (t.field f).engineResets e = none ∧ { t with fields := s.fields } = s) ∧
      (c + 10000 < s.now → ∃ t, exec (.engineResetDone f e) s = .next t ∧ (t.field f).state = 3 ∧ (s.noCopyRuns → t.mem = s.mem)) ∧
      ∃ t, exec (.engineResetTimeout f e) s = .next t ∧ (t.field f).state = 3 ∧ c + 10001 ≤ t.now ∧ (s.noCopyRuns → t.mem = s.mem))

/-- R103, R358, R484, R485, R495: a field reset that ends with four good sequencers and every bed repairable, as its checks find them,
puts the field back into service with its reservoir poisoned; one that does not, or exceeds its time (R478; log 128 on a late end), leaves the field failed and
its stacks out of reach. Log 34 (the model's reading): a field reset is counted as it starts, not at its end. -/
def Obligations.FieldResetEnds : Prop :=
  ∀ (s : State) (f : Nat) (r : ResetCheck) (h : Hub), ModInv s → f < Grade.fields s.grade → (s.field f).state = 3 → s.hub.stage ≠ 15 →
    s.hub.sees (onlyField f r).beds (onlyField f r).banks = h →
    ((s.field f).resetStart + 1000000 < s.now →
      ∃ t, exec (.fieldResetDone f r) s = .next t ∧ (t.field f).state = 4 ∧ (t.stack (2 * f)).state = 3 ∧
        (t.stack (2 * f + 1)).state = 3) ∧
    (s.now ≤ (s.field f).resetStart + 1000000 →
    4 ≤ (h.sequencers f r.seqPass).length → (∀ e ∈ h.bedMaps f, e.2.unrepairable = false) →
      ∃ t, exec (.fieldResetDone f r) s = .next t ∧ (t.field f).state = 0 ∧ (t.field f).seqUse = h.sequencers f r.seqPass ∧
        (t.field f).resets = (s.field f).resets ∧ t.hub.bedFaults = h.bedFaults ∧ t.hub.faultyBanks = h.faultyBanks ∧
        (s.noCopyRuns → ∀ w, memKey 1 (f * 2 ^ 32) / 64 ≤ w → w < memKey 1 ((f + 1) * 2 ^ 32) / 64 → t.mem.wordOk w = false)) ∧
    (s.now ≤ (s.field f).resetStart + 1000000 → (h.sequencers f r.seqPass).length < 4 ∨ (∃ e ∈ h.bedMaps f, e.2.unrepairable = true) →
      ∃ t, exec (.fieldResetDone f r) s = .next t ∧ (t.field f).state = 4 ∧ (t.stack (2 * f)).state = 3 ∧
        (t.stack (2 * f + 1)).state = 3) ∧
    (∃ t, exec (.fieldResetTimeout f) s = .next t ∧ (t.field f).state = 4 ∧ (t.stack (2 * f)).state = 3 ∧
      (t.stack (2 * f + 1)).state = 3 ∧
      (s.field f).resetStart + 1000001 ≤ t.now)

/-- R525 to R529: an idle field in service, or one that an earlier test left borrowed, is borrowed for its test while the command's deadline has not passed; the test's end gives it
back, or keeps it out after a failure with `on_fail` 1; a borrow that does not come in time ends the test, and a test that exceeds its
time resets the field, also when its end comes late. -/
def Obligations.FieldTests : Prop :=
  ∀ (s : State) (f : Nat) (k : FieldTest), ModInv s → f < Grade.fields s.grade → (s.field f).test = some k →
    (k.borrowed = none → k.late s.now = false → s.idle f = true → (s.field f).state ≤ 1 →
      ∃ t, exec (.fieldTestBorrow f) s = .next t ∧ (t.field f).state = 1 ∧
        (t.field f).test = some { k with borrowed := some s.now } ∧ t.mem = s.mem ∧ t.ctxs = s.ctxs ∧ t.port = s.port) ∧
    (k.borrowed = none → k.late s.now = true →
      ∃ t, exec (.fieldTestBorrow f) s = .next t ∧ (t.field f).test = none ∧ (t.field f).state = (s.field f).state ∧
        (∀ x ∈ t.port.waits, x.kind ≠ .fieldTest f) ∧ t.mem = s.mem ∧ t.ctxs = s.ctxs) ∧
    (∀ c r, k.borrowed = some c → (s.field f).state = 1 → c + testLimit k.kind < s.now →
      ∃ t, exec (.testDone f r) s = .next t ∧ (t.field f).state = 3 ∧ (t.field f).test = none ∧ (s.noCopyRuns → t.mem = s.mem)) ∧
    (∀ c r, k.borrowed = some c → (s.field f).state = 1 → s.now ≤ c + testLimit k.kind →
      ∃ t, exec (.testDone f r) s = .next t ∧ (t.field f).test = none ∧
        (t.field f).state = (if r.verdict ≠ 0 ∧ k.onFail = 1 then 1 else 0) ∧ (∀ x ∈ t.port.waits, x.kind ≠ .fieldTest f) ∧
        t.mem = s.mem ∧ t.ctxs = s.ctxs) ∧
    (k.borrowed = none → k.deadline ≠ 0 → k.late s.now = true ∨ s.idle f = false ∨ 1 < (s.field f).state →
      ∃ t, exec (.fieldTestWaitTimeout f) s = .next t ∧ (t.field f).test = none ∧ (∀ x ∈ t.port.waits, x.kind ≠ .fieldTest f) ∧
        k.accepted + k.deadline < t.now ∧ t.mem = s.mem ∧ t.ctxs = s.ctxs) ∧
    (∀ c, k.borrowed = some c →
      ∃ t, exec (.fieldTestTimeout f) s = .next t ∧ (t.field f).state = 3 ∧ (t.field f).test = none ∧
        c + testLimit k.kind < t.now ∧ (s.noCopyRuns → t.mem = s.mem))

/-! ## Links and packets -/

/-- R387, R391: the end of training brings a link up, expecting sequence number 0 and with the round trip and the partner that it
found, or refuses it with the first failing step's cause. R389, R390, R566, R610: with the spare free a lost lane is replaced and
counted, and the link is up within the row (log 24); a second lost lane or an unmated cable takes the link down; a partner that starts
training makes this side train. -/
def Obligations.LinkTraining : Prop :=
  (∀ (s : State) (i : Nat) (b : Training), ModInv s → i < Grade.links s.grade → (s.link i).state = 1 →
      (s.hub.warm && s.hub.retrain && !s.fieldsBusy) = false →
      (refuseCause s.hub.node (s.link i) b = 0 →
        ∃ t, exec (.linkTrainingDone i b) s = .next t ∧ (t.link i).state = 2 ∧ (t.link i).cause = 0 ∧ (t.link i).roundTrip = b.roundTrip ∧
          (t.link i).seenNode = b.seenNode ∧ (t.link i).rxExpect = 0#12 ∧ (s.noCopyRuns → t.mem = s.mem)) ∧
      (refuseCause s.hub.node (s.link i) b ≠ 0 →
        ∃ t, exec (.linkTrainingDone i b) s = .next t ∧ (t.link i).state = 3 ∧
          (t.link i).cause = refuseCause s.hub.node (s.link i) b ∧ (s.noCopyRuns → t.mem = s.mem))) ∧
  (∀ (s : State) (i n : Nat), ModInv s → i < Grade.links s.grade → (s.link i).state = 2 ∨ (s.link i).state = 5 →
      ((s.link i).spareUsed = false →
        ∃ t, exec (.laneSubstitute i n) s = .next t ∧ (t.link i).spareUsed = true ∧ (t.link i).spareFor = n ∧ (t.link i).state = 2 ∧
          (t.link i).substitutions = min 255 ((s.link i).substitutions + 1) ∧ t.mem = s.mem ∧ t.ctxs = s.ctxs) ∧
      (∃ t, exec (.linkDown i) s = .next t ∧ (t.link i).state = 0 ∧ (t.link i).replay = [] ∧ (s.noCopyRuns → t.mem = s.mem)) ∧
      (7 ≤ s.hub.stage → s.hub.stage ≤ 9 →
        ∃ t, exec (.partnerTrainingStart i) s = .next t ∧ (t.link i).state = 1 ∧ (t.link i).replay = [] ∧ (s.noCopyRuns → t.mem = s.mem)))

/-- R397, R394, R396: a flit whose CRC fails is counted, accepted in no way, and asks for a replay, at once with an idle flit that carries
`nack` (log 72); the expected flit is accepted and the next number expected. R397, R398: a replay sends every unacknowledged flit again in
order, keeps them, and counts one replay, at the sender (log 73). -/
def Obligations.FlitsAndReplay : Prop :=
  (∀ (s : State) (i n : Nat) (f : List Byte), i < s.links.length → (s.link i).state = 2 →
      (flitCrcOk f = false →
        ∃ t, t = s.modLink i (fun l =>
            { l with fecUncorr := min 65535 (l.fecUncorr + n), crcFail := min 65535 (l.crcFail + 1), nack := true }) ∧
          exec (.flitReceive i f n) s = .next (t.emit (.flit i ((t.link i).wire idleFlit)))) ∧
      (flitCrcOk f = true → Machine.field f 0 2 / 4096 % 4 ≠ 1 → Machine.field f 0 2 % 4096 = (s.link i).rxExpect.toNat →
        ∃ t, exec (.flitReceive i f n) s = .next t ∧ (t.link i).rxExpect = BitVec.ofNat 12 (Machine.field f 0 2) + 1#12 ∧
          (t.link i).nack = false ∧ (s.noCopyRuns → t.mem = s.mem))) ∧
  (∀ (s : State) (i : Nat), i < s.links.length → (s.link i).state = 2 → (s.link i).replay ≠ [] →
      ∃ t, exec (.replayTimeout i) s = .next t ∧
        t.out = s.out ++ (s.link i).replay.map (fun f => .flit i ((s.link i).wire f)) ∧
        (t.link i).replay = (s.link i).replay ∧ (t.link i).replays = min 65535 ((s.link i).replays + 1) ∧ t.mem = s.mem ∧ t.ctxs = s.ctxs)

/-- R408, R413 to R415: an output that has a packet it may send sends it, with one hop more (log 36: also one of an injection port): the
packet's credits are taken, it leaves its input, and its bytes follow those of the packets before it, end to end (R400): every body that
they fill is a flit in the replay buffer, and the rest waits. A packet of the block that is leaving, whose credits are taken already
(R446, log 46), takes none and leaves the block. R395, R398: an output with nothing to send sends the body that packets have begun, filled
up with zeros (log 25), or, with no such body and no credits to return (log 72) or without room in its replay buffer, an idle flit and
nothing else. -/
def Obligations.PacketsLeave : Prop :=
  (∀ (s : State) (i : Nat), (s.link i).state = 2 ∨ (s.link i).state = 5 →
    (s.link i).vlOrder.findSome? (fun v => (s.offer i v).map (fun q => (v, q))) = none →
    ((s.link i).owes = false ∧ (s.link i).txPart = []) ∨ 1024 ≤ (s.link i).replay.length →
    exec (.packetForward i) s = .next (s.emit (.flit i ((s.link i).wire idleFlit)))) ∧
  (∀ (s : State) (i : Nat), i < s.links.length → (s.link i).state = 2 ∨ (s.link i).state = 5 →
    (s.link i).vlOrder.findSome? (fun v => (s.offer i v).map (fun q => (v, q))) = none →
    (s.link i).txPart ≠ [] → (s.link i).replay.length < 1024 →
    ∃ t, exec (.packetForward i) s = .next t ∧ (t.link i).txPart = [] ∧
      (t.link i).replay.map Flit.body = (s.link i).replay.map Flit.body ++ [padTo 240 (s.link i).txPart] ∧ t.mem = s.mem ∧ t.ctxs = s.ctxs) ∧
  ∀ (s : State) (i v j : Nat) (p q : Packet), i < s.links.length → (s.link i).state = 2 → (s.link i).vls.length = 4 → v < 4 →
    (s.link i).vlOrder.findSome? (fun v => (s.offer i v).map (fun q => (v, q))) = some (v, j, p) → p.hops.toNat < 63 →
    s.blankLink i = false → Packet.sealed { p with hops := p.hops + 1#8 } = q → p.payload.length ≤ 512 → (s.link i).txPart.length < 240 →
    (s.link i).replay.length + ((s.link i).txPart.length + q.bytes.length) / 240 ≤ 1024 →
    (∃ t fs, exec (.packetForward i) s = .next t ∧ (t.link i).replay = (s.link i).replay ++ fs ∧ (∀ f ∈ fs, f.body.length = 240) ∧
      (fs.map Flit.body).flatten ++ (t.link i).txPart = (s.link i).txPart ++ q.bytes ∧ (t.link i).txPart.length < 240) ∧
    ((s.link i).pays i v j p = false → ∃ t, exec (.packetForward i) s = .next t ∧
      ((t.link i).vls.getD v (Vl.reset 0)).credits = ((s.link i).vls.getD v (Vl.reset 0)).credits - p.units ∧
      (32 ≤ j → (t.link i).inject = (s.link i).inject.erase (j, p)) ∧
      (j < 32 → p.vl = v → (t.link j).rx = (s.link j).rx.erase (v, p)) ∧
      t.mem = s.mem ∧ t.ctxs = s.ctxs) ∧
    (∀ b next rest, (s.link i).pays i v j p = true → (s.link i).leaving = some b → b.packets = p :: next :: rest →
      ∃ t, exec (.packetForward i) s = .next t ∧ (t.link i).leaving = some { b with packets := next :: rest } ∧
        ((t.link i).vls.getD v (Vl.reset 0)).credits = ((s.link i).vls.getD v (Vl.reset 0)).credits ∧ (t.link i).inject = (s.link i).inject ∧
        t.mem = s.mem ∧ t.ctxs = s.ctxs)

/-- R415, R425: a packet that has stayed 2 µs in a receive queue leaves it, and its job is aborted; a reduction packet for this
module's sluice does not stay. R421: an abort record not seen before tears down every context of its job and no other; one
seen less than 256 µs ago is only noted anew. Log 20 (the model's reading): an abort record of job 0x0000, which names no job, has no
effect. -/
def Obligations.DiscardsAndAborts : Prop :=
  (∀ (s : State) (i v : Nat) (p : Packet), ModInv s → i < Grade.links s.grade →
      (s.link i).rx.find? (fun q => q.1 == v && !(q.1 == 3 && s.isHere q.2)) = some (v, p) → p.vl = v →
      ∃ t, exec (.residencyTimeout i v) s = .next t ∧ (t.link i).rx = (s.link i).rx.erase (v, p) ∧ (s.noCopyRuns → t.mem = s.mem) ∧
        (∀ c, c < 16 → p.job ≠ 0#16 → (s.ctx c).job = p.job → (s.ctx c).state = .active ∨ (s.ctx c).state = .stopped →
          (t.ctx c).state = .teardown)) ∧
  (∀ (s : State) (i : Nat) (r : AbortRecord), s.ctxs.length = 16 →
      (r.job = 0#16 → exec (.abortRecord i r) s = .next s) ∧
      (s.seenAbort r = true → r.job ≠ 0#16 →
        ∃ t, exec (.abortRecord i r) s = .next t ∧ (r, s.now) ∈ t.hub.aborts ∧ { t with hub := s.hub } = s) ∧
      (s.seenAbort r = false → r.job ≠ 0#16 →
        ∃ t, exec (.abortRecord i r) s = .next t ∧ (s.noCopyRuns → t.mem = s.mem) ∧
          (∀ c, c < 16 → (s.ctx c).job = r.job → (s.ctx c).state = .active ∨ (s.ctx c).state = .stopped →
            (t.ctx c).state = .teardown ∧ (t.ctx c).gen = (s.ctx c).gen + 1#12) ∧
          (∀ c, c < 16 → (s.ctx c).job ≠ r.job → t.ctx c = s.ctx c)))

/-- R381 to R384, R401, R404, R263: a peer's request that the module permits leaves its receive queue, has its effect and is
answered once, at the injection port of the field that its link belongs to (log 26): READ_REQ with the bytes and their poison bits,
WRITE with the payload stored and then the collisions that come with it (R354, log 104), a whole ACC_WRITE tile with the sum stored
(poisoned as log 87 says), SIGNAL with the counter advanced. A refused read
or write is answered with the status, the job before the space (log 81), and an early packet of a tile is kept. R419: a read or write of a field that is fenced, resetting or failed is discarded. R405: the module takes a packet when it is the oldest
of its flow. -/
def Obligations.PeerRequests : Prop :=
  ∀ (s : State) (i : Nat) (p : Packet), s.hub.node ≠ 0xFFFF#16 →
    (∀ row ∈ [(0x01, Instr.readReq i p), (0x02, Instr.write i ⟨p, []⟩)], s.delivers row.1 i p → row.1 = 0x01 ∨ p.job ≠ 0#16 →
      s.clamped p.addr.toNat = true →
      ∃ t, exec row.2 s = .next t ∧ (t.link i).rx = (s.link i).rx.erase (p.vl, p) ∧ (∀ j, (t.link j).inject = (s.link j).inject) ∧
        t.mem = s.mem ∧ t.ctxs = s.ctxs ∧ t.out = s.out) ∧
    (s.delivers 0x01 i p → s.clamped p.addr.toNat = false → s.peerAccess i p false p.addr.toNat p.aux.toNat = .ok → readSizeOk p.aux.toNat →
      s.mem.errorWords (localKey p.addr.toNat) p.aux.toNat = [] →
      ∃ t, exec (.readReq i p) s = .next t ∧
        Queued s t (answerPort i) (p.answer s.own 0x10 (s.mem.poisonBits (localKey p.addr.toNat) p.aux.toNat)
          (s.mem.readOut (localKey p.addr.toNat) p.aux.toNat)) ∧
        (t.link i).rx = (s.link i).rx.erase (p.vl, p) ∧ t.mem = s.mem ∧ t.ctxs = s.ctxs ∧ t.out = s.out) ∧
    (∀ st, s.delivers 0x01 i p → s.serves p.job.toNat false → s.clamped p.addr.toNat = false → s.peerAccess i p false p.addr.toNat p.aux.toNat = .stop st →
      ∃ t, exec (.readReq i p) s = .next t ∧ Queued s t (answerPort i) (p.answer s.own 0x10 st []) ∧
        (t.link i).rx = (s.link i).rx.erase (p.vl, p) ∧ t.mem = s.mem ∧ t.ctxs = s.ctxs) ∧
    (∀ collide, s.delivers 0x02 i p → p.job ≠ 0#16 → s.clamped p.addr.toNat = false →
      s.peerAccess i p true p.addr.toNat p.payload.length = .ok → p.aux.toNat % 256 = 0 →
      ∃ t, exec (.write i ⟨p, collide⟩) s = .next t ∧
        (s.mem.errorWords (localKey p.addr.toNat) p.payload.length = [] → t.out = s.out ∧
          (collide = [] → t.mem = s.mem.write (localKey p.addr.toNat) p.payload)) ∧
        t.mem = ((collisionsFx (wordsOf (localKey p.addr.toNat) p.payload.length) collide).run
          (((partialReads (localKey p.addr.toNat) p.payload.length).run s).memWrite (localKey p.addr.toNat) p.payload)).mem ∧
        Queued s t (answerPort i) (p.answer s.own 0x11 stOk []) ∧ (t.link i).rx = (s.link i).rx.erase (p.vl, p) ∧ t.ctxs = s.ctxs) ∧
    (∀ st collide, s.delivers 0x02 i p → p.job ≠ 0#16 → s.serves p.job.toNat true → s.clamped p.addr.toNat = false →
      s.peerAccess i p true p.addr.toNat p.payload.length = .stop st →
      ∃ t, exec (.write i ⟨p, collide⟩) s = .next t ∧ t.mem = s.mem ∧ Queued s t (answerPort i) (p.answer s.own 0x11 st []) ∧
        t.ctxs = s.ctxs) ∧
    (∀ a new bad, s.delivers 0x03 i p → p.aux.toNat / 256 ≠ 0 → (s.link i).acc.find? (fun a => a.takes p) = some a → a.next = p.aux.toNat / 256 →
      slotBytes 0x18 ≤ (a.more p).bytes.length → s.clamped a.addr = false → s.peerAccess i p true a.addr (slotBytes 0x18) = .ok →
      s.mem.errorWords (localKey a.addr) (slotBytes 0x18) = [] →
      accumulateAt s i (a.more p) bad = .ok new →
      ∃ t, exec (.accWrite i ⟨p, bad⟩) s = .next t ∧ t.mem = s.mem.write (localKey a.addr) new.slot ∧
        Queued s t (answerPort i) (p.answer s.own 0x11 (if new.poison then stPoisoned else stOk) []) ∧ t.ctxs = s.ctxs ∧ t.out = s.out) ∧
    (∀ bad, s.delivers 0x03 i p → p.aux.toNat / 256 = 0 → p.payload.length < slotBytes 0x18 → i < s.links.length →
      ∃ t, exec (.accWrite i ⟨p, bad⟩) s = .next t ∧ (AccStage.start p).more p ∈ (t.link i).acc ∧ t.mem = s.mem ∧ t.ctxs = s.ctxs) ∧
    (∀ c n, s.delivers 0x04 i p → s.signalTarget p = some (c, n) →
      ∃ t, exec (.signalPacket i p) s = .next t ∧ t.mem = s.mem ∧
        t.ctxs = s.ctxs.modify c (fun x => Ctx.wake s.now
          { x with sync := x.sync.modify n (fun k => k + BitVec.ofNat 32 (Machine.field p.payload 4 4)) }) ∧
        Queued s t (answerPort i) (p.answer s.own 0x12 stOk []) ∧ t.out = s.out)

/-- R405: a packet that is not the oldest of its flow, or is of another row's type, is not taken, and nothing changes. R404, R260,
R473: an acknowledgement takes its tag out of the operation that waits for it and leaves the operation its
first bad status; a read's answer gives the operation its bytes, and a piece that waited for a descriptor may take the one that falls
free (R491); an answer of another generation changes no context. A
link-management packet is consumed and changes nothing else. -/
def Obligations.PeerAnswers : Prop :=
  ∀ (s : State) (i : Nat) (p : Packet),
    (∀ row ∈ packetRows i p, s.delivers row.1 i p = false → exec row.2 s = .next s) ∧
    (∀ c, p.job ≠ 0#16 → s.replyCtx p = some c → ∀ row ∈ [(0x11, Instr.writeAck i p), (0x12, Instr.signalAck i p)],
      s.delivers row.1 i p →
      ∃ t, exec row.2 s = .next t ∧ (t.link i).rx = (s.link i).rx.erase (p.vl, p) ∧ t.mem = s.mem ∧
        { t.hub with loop := s.hub.loop } = s.hub ∧
        (∀ d, d ≠ c → t.ctx d = s.ctx d) ∧
        ∀ o seq, s.op? c seq = some o → p.tag ∈ o.acks → t.op? c seq = some
          { o with acks := o.acks.erase p.tag, status := if o.status = 0#16 then BitVec.ofNat 16 p.aux.toNat else o.status }) ∧
    (p.job ≠ 0#16 → s.replyCtx p = none →
      ∀ row ∈ [(0x11, Instr.writeAck i p), (0x12, Instr.signalAck i p), (0x10, Instr.readResp i p)], s.delivers row.1 i p →
      row.1 ≠ 0x10 ∨ s.noneLater →
      ∃ t, exec row.2 s = .next t ∧ (t.link i).rx = (s.link i).rx.erase (p.vl, p) ∧ t.mem = s.mem ∧ t.ctxs = s.ctxs) ∧
    (∀ c o n, s.delivers 0x10 i p → s.replyCtx p = some c → (s.ctx c).needOf p.tag = some (o, n) → s.op? c o.seq = some o →
      p.payload ≠ [] →
      n.len ≤ p.payload.length → o.needs.erase n ≠ [] →
      ∃ t u more, exec (.readResp i p) s = .next t ∧ t.op? c o.seq = some u ∧ u.needs = (o.needs ++ more).erase n ∧
        u.fetched = putBytes n.addr (p.payload.take n.len) o.fetched ∧ u.phase = o.phase ∧
        (t.link i).rx = (s.link i).rx.erase (p.vl, p) ∧ t.mem = s.mem ∧
        (s.noneLater → more = [] ∧ u.status = o.status ∧ ∀ d, d ≠ c → t.ctx d = s.ctx d)) ∧
    (∀ c o n, s.delivers 0x10 i p → s.replyCtx p = some c → (s.ctx c).needOf p.tag = some (o, n) → s.op? c o.seq = some o →
      p.payload = [] → s.noneLater →
      o.needs = [n] → o.phase = .running → o.preempted = false → o.status = 0#16 → p.aux ≠ 0#16 →
      ∃ t u, exec (.readResp i p) s = .next t ∧ t.op? c o.seq = some u ∧ u.phase = .landing ∧ u.status = p.aux ∧ u.needs = [] ∧
        t.mem = s.mem ∧ (∀ d, d ≠ c → t.ctx d = s.ctx d)) ∧
    (s.delivers 0x30 i p →
      ∃ t, exec (.linkMgmt i p) s = .next t ∧ (t.link i).rx = (s.link i).rx.erase (p.vl, p) ∧ t.mem = s.mem ∧ t.ctxs = s.ctxs ∧
        { t.hub with loop := s.hub.loop } = s.hub ∧ t.out = s.out)

/-- R539, R547, R548: a message that names another node and whose header passes its checks goes out in a RELAY packet and waits, with 16 such waiting it is answered
`BUSY`, without a route `NO_RESOURCE`, and longer than 512 bytes `BAD_PARAM`; every relayed command that the module permits runs as the
same command runs from the port, with the relaying packet as the place that its reply goes to, and CYCLE_READ is answered by RELAY_REPLY
(log 40 on the checks of a relayed message); one that it does not permit is answered `NOT_PERMITTED`, and so, with an event, is one of a
job that no context is bound to (R384); the reply reaches the queue pair that sent the command, and a reply that no command waits
for only leaves its queue. R500: a module that has lost its smallest working set executes and answers none. -/
def Obligations.RelaysPass : Prop :=
  ∀ (s : State),
    (∀ m, s.passesOn m →
      (512 < m.bytes.length → exec (.commandRelay m) s = .next (s.answered m stBadParam [])) ∧
      (m.bytes.length ≤ 512 → 16 ≤ s.port.waits.countP Wait.relayed → exec (.commandRelay m) s = .next (s.answered m stBusy [])) ∧
      (m.bytes.length ≤ 512 → s.port.waits.countP Wait.relayed < 16 → s.relayLink m = none →
        exec (.commandRelay m) s = .next (s.answered m stNoResource []))) ∧
    (∀ m i, s.passesOn m → m.bytes.length ≤ 512 →
      s.port.waits.countP Wait.relayed < 16 → s.relayLink m = some i → i < s.links.length → (s.link i).state ≠ 4 →
      ∃ t q, exec (.commandRelay m) s = .next t ∧ (t.link i).inject = (s.link i).inject ++ [(hubPort, q)] ∧ q.ptype = 0x05#8 ∧
        q.dst = BitVec.ofNat 16 m.relayNode ∧ q.src = s.hub.node ∧ q.job = 0#16 ∧ q.tag = s.hub.nextTag ∧ q.parityOk ∧
        (∃ w ∈ t.port.waits, w.kind = .relayed (BitVec.ofNat 16 m.relayNode) i ∧ w.key = s.hub.nextTag ∧ w.dest = .port m.qp) ∧
        t.hub.nextTag = s.hub.nextTag + 1#32 ∧ t.out = s.out ∧ t.mem = s.mem ∧ t.ctxs = s.ctxs) ∧
    (∀ op row m, (op, row) ∈ hostRows → s.accepts m op → exec (row m) s = .next ((runCmd (cmdOf m)).run s)) ∧
    (∀ i r m op, relayedMsg r = m → s.delivers 0x05 i r.packet → s.outcast = false →
      r.packet.job = 0#16 ∨ s.serves r.packet.job.toNat false → s.permits r.packet → r.parity = none → s.acceptsRelayed m op →
      exec (.relay i r) s = .next ((runCmd (Cmd.parse (.relay i r.packet) m)).run ((takePacket i r.packet).run s))) ∧
    (∀ i p, s.delivers 0x05 i p → s.outcast = false → p.job = 0#16 ∨ s.serves p.job.toNat false → s.permits p →
      s.acceptsRelayed (relayedMsg ⟨p, none, none⟩) 0x0802 → s.hub.node ≠ 0xFFFF#16 → (s.routeFor p.src.toNat 0).isSome →
      ∃ t, exec (.relay i ⟨p, none, none⟩) s = .next t ∧
        Queued s t hubPort (p.answer s.own 0x13 0 (pad32 (replyBytes 1 0x0802 (relayedMsg ⟨p, none, none⟩).ctx
          (Machine.field (relayedMsg ⟨p, none, none⟩).bytes 8 4) stOk s.cycle.toNat (leBytes 8 (s.now % 2 ^ 48))))) ∧
        (t.link i).rx = (s.link i).rx.erase (p.vl, p) ∧ t.mem = s.mem ∧ t.ctxs = s.ctxs ∧
        { t.hub with loop := s.hub.loop } = s.hub ∧ t.out = s.out) ∧
    (∀ i p, s.delivers 0x05 i p → s.outcast = true →
      ∃ t, exec (.relay i ⟨p, none, none⟩) s = .next t ∧ (t.link i).rx = (s.link i).rx.erase (p.vl, p) ∧ t.mem = s.mem ∧ t.ctxs = s.ctxs ∧
        t.out = s.out ∧ ∀ j, (t.link j).inject = (s.link j).inject) ∧
    (∀ i p, s.delivers 0x05 i p → s.outcast = false → ¬ s.permits p ∨ (p.job ≠ 0#16 ∧ s.serves p.job.toNat false = false) → s.hub.node ≠ 0xFFFF#16 → (s.routeFor p.src.toNat 0).isSome →
      ∃ t, exec (.relay i ⟨p, none, none⟩) s = .next t ∧
        Queued s t hubPort (p.answer s.own 0x13 0 (pad32 (replyBytes (Machine.field (relayedMsg ⟨p, none, none⟩).bytes 1 1 % 2)
          (relayedMsg ⟨p, none, none⟩).op (relayedMsg ⟨p, none, none⟩).ctx
          (Machine.field (relayedMsg ⟨p, none, none⟩).bytes 8 4) stNotPermitted s.cycle.toNat []))) ∧
        (t.link i).rx = (s.link i).rx.erase (p.vl, p) ∧ t.mem = s.mem ∧ t.ctxs = s.ctxs ∧
        { t.hub with loop := s.hub.loop } = s.hub ∧ t.out = s.out ∧
        (p.job ≠ 0#16 → s.serves p.job.toNat false = false → s.hub.stage ≠ 15 →
          tableGet t.evc (linkSource i) EvcSrc.reset = (tableGet s.evc (linkSource i) EvcSrc.reset).fire)) ∧
    (∀ i p, s.delivers 0x13 i p → s.port.waits.filter (fun w => w.key == p.tag && w.relayed) = [] →
      ∃ t, exec (.relayReply i p) s = .next t ∧ (t.link i).rx = (s.link i).rx.erase (p.vl, p) ∧ t.out = s.out ∧
        t.mem = s.mem ∧ t.ctxs = s.ctxs ∧ t.port = s.port ∧ { t.hub with loop := s.hub.loop } = s.hub) ∧
    (∀ i p w n, s.delivers 0x13 i p → s.port.waits.filter (fun w => w.key == p.tag && w.relayed) = [w] → w.dest = .port n → (s.qp? n).isSome →
      ∃ t, exec (.relayReply i p) s = .next t ∧ t.out = s.out ++ [.send n (p.payload.take (64 + Machine.field p.payload 6 2))] ∧
        w ∉ t.port.waits ∧ (t.link i).rx = (s.link i).rx.erase (p.vl, p) ∧ t.mem = s.mem ∧ t.ctxs = s.ctxs ∧
        { t.hub with loop := s.hub.loop } = s.hub)

/-- R507, R508, R509: a copy that may start keeps the step and update counts and the keeper table of its context; toward a region its
manifest goes first, toward a window its first tile, once that tile has passed its checks, and a tile that fails them ends the copy; so
does a start without its links or a route. With every tile acknowledged a copy toward a region sends the complete manifest, whose
acknowledgement ends it and answers its command; one toward a window ends at once. None of them changes memory here, but for corrections
of tiles that are read (R350). The number of writes outstanding, the stages and the form of a claim are log 23's choice. -/
def Obligations.MirrorCopies : Prop :=
  ∀ (s : State) (id : Nat) (k : Copy), tableGet? s.hub.copies id = some k →
    (s.copyReady k → s.hub.node = 0xFFFF#16 ∨ k.links.all s.upLinks.contains = false →
      ∃ t, exec (.mirrorCopyStart id) s = .next t ∧ (∀ x ∈ t.hub.copies, x.2 ≠ k) ∧ t.mem = s.mem ∧ t.ctxs = s.ctxs) ∧
    (∀ c, s.copyReady k → s.hub.node ≠ 0xFFFF#16 → k.links.all s.upLinks.contains →
      (k.links ≠ [] ∨ (s.routeFor k.target.toNat 0).isSome) → k.ctx = some c →
      ∃ t q, exec (.mirrorCopyStart id) s = .next t ∧ tableGet? t.hub.copies id = some q ∧ q.running = true ∧ q.stage = 1 ∧
        q.acks = k.acks + 1 ∧ q.step = (s.ctx c).step ∧ q.updates = (s.ctx c).updates ∧ q.keeper = (s.ctx c).keeper ∧
        q.src = k.src ∧ q.len = k.len ∧ t.mem = s.mem ∧ t.ctxs = s.ctxs) ∧
    (s.copyReady k → s.hub.node ≠ 0xFFFF#16 → k.links.all s.upLinks.contains →
      (k.links ≠ [] ∨ (s.routeFor k.target.toNat 0).isSome) → k.ctx = none → k.next < k.src + k.len →
      (∀ bytes, k.links.length ≤ 1 → s.copySlot k.field (k.src + k.len) k.next = .ok bytes →
        ∃ t q, exec (.mirrorCopyStart id) s = .next t ∧ tableGet? t.hub.copies id = some q ∧ q.running = true ∧ q.stage = 2 ∧
          q.next = k.next + bytes.length ∧ q.sent = k.sent + 1 ∧ q.acks = k.acks + (cut512 256 0 bytes).length ∧
          t.mem.cells = s.mem.cells ∧ t.ctxs = s.ctxs) ∧
      (∀ e, s.copySlot k.field (k.src + k.len) k.next = .error e →
        ∃ t, exec (.mirrorCopyStart id) s = .next t ∧ tableGet? t.hub.copies id = none ∧ t.mem.cells = s.mem.cells ∧ t.ctxs = s.ctxs)) ∧
    (k.running = true → k.acks = 0 → k.stage = 4 →
      (k.ctx.isSome →
        ∃ t, exec (.mirrorCopyDone id) s = .next t ∧ tableGet? t.hub.copies id = some { k with stage := 5, acks := 1 } ∧
          t.port = s.port ∧ t.mem = s.mem ∧ t.ctxs = s.ctxs) ∧
      (k.ctx = none →
        ∃ t, exec (.mirrorCopyDone id) s = .next t ∧ tableGet? t.hub.copies id = none ∧
          (∀ w ∈ t.port.waits, w.kind ≠ .mirrorCopy id) ∧ t.mem = s.mem ∧ t.ctxs = s.ctxs)) ∧
    (∀ i p, s.delivers 0x11 i p → p.job = 0#16 → s.hub.copies.find? (fun x => x.2.awaits p) = some (id, k) → k.stage = 5 → k.acks = 1 →
      p.aux.toNat = stOk →
      ∃ t, exec (.writeAck i p) s = .next t ∧ tableGet? t.hub.copies id = none ∧ (∀ w ∈ t.port.waits, w.kind ≠ .mirrorCopy id) ∧
        (t.link i).rx = (s.link i).rx.erase (p.vl, p) ∧ t.mem = s.mem ∧ t.ctxs = s.ctxs)

/-! ## Operations -/

/-- R257 to R259, R261: issuing takes the oldest record of the stream; a record that passes its checks becomes an issued operation
with the step and the seed of the moment, one that fails them ends at once and stops the context with its status; R516: so does one whose parity fails, `POISONED`. R479: issue is
progress of the sequencer. -/
def Obligations.OperationsIssue : Prop :=
  ∀ (s : State) (c : Nat) (r : List Byte) (rest : List (List Byte)), (s.ctx c).stream = r :: rest → s.mayIssue c →
    (issueStatus s (s.ctx c) r = stOk →
      exec (.operationIssue ⟨c, none⟩) s = .next ((s.modCtx c (fun x =>
        { x with stream := rest, ops := x.ops ++ [Op.issue (s.ctx c) r], lastIssued := some (BitVec.ofNat 32 (recSeq r)) })).modField
          (s.leadField (recGroup r)) (fun g => { g with progress := tablePut g.progress 6 s.now }))) ∧
    (∀ off, (s.ctx c).job = 0#16 →
      ∃ t, exec (.operationIssue ⟨c, some off⟩) s = .next t ∧ (t.ctx c).stream = rest ∧ (t.ctx c).state = .stopped ∧
        (t.ctx c).stopStatus = BitVec.ofNat 16 stPoisoned ∧ t.op? c (BitVec.ofNat 32 (recSeq r)) = none ∧ t.mem = s.mem ∧
        (∀ d, d ≠ c → t.ctx d = s.ctx d) ∧ t.hub = s.hub ∧ t.links = s.links) ∧
    (∀ st, issueStatus s (s.ctx c) r = st → goodStatus st = false → st ≠ stPoisoned →
      ∃ t, exec (.operationIssue ⟨c, none⟩) s = .next t ∧ (t.ctx c).stream = rest ∧ (t.ctx c).state = .stopped ∧
        (t.ctx c).stopStatus = BitVec.ofNat 16 st ∧ t.op? c (BitVec.ofNat 32 (recSeq r)) = none ∧ t.mem = s.mem ∧
        (∀ d, d ≠ c → t.ctx d = s.ctx d) ∧ t.hub = s.hub ∧ t.links = s.links)

/-- R257, R260, R265: an operation that reads and writes whole tensors does its work, in the step in which it starts (log 43, the model's
choice): its status is that of the
work, or `POISONED` where a fault has touched it (R512), its writes are landing, and where they lie in this module's memory and replace
what stands there, memory holds exactly the tiles of the work, in order; no other context changes. R516: an operation whose held record
or descriptors fail their parity as it starts ends `POISONED`, and changes no memory. -/
def Obligations.WorkOperationsRun : Prop :=
  (∀ (s : State) (x : Launch) (op off : Nat) (row : Instr) (o : Op), (op, row) ∈ operationRows x → x.parity = some off →
    s.nextOp? x.ctx = some o → recOp o.record = op → (s.ctx x.ctx).job = 0#16 →
    ∃ t, exec row s = .next t ∧ t.op? x.ctx o.seq = none ∧ (t.ctx x.ctx).state = .stopped ∧ t.mem = s.mem ∧
      (∀ d, d ≠ x.ctx → t.ctx d = s.ctx d) ∧ t.hub = s.hub) ∧
  ∀ (s : State) (x : Launch) (c op : Nat) (row : Instr) (o : Op) (work : State → Nat → Op → Result), (op, row) ∈ workRows x →
    x.parity = none → x.ctx = c → workOf op = some work → s.starting c op = some o →
    ∃ t, exec row s = .next t ∧ t.phaseOf c o.seq = some .landing ∧ (∀ d, d ≠ c → t.ctx d = s.ctx d) ∧
      ∀ r, work ((s.beginning x o).asIssued c (s.begun x o)) c (s.begun x o) = r →
        (∀ p ∈ r.pieces, isLocal s.own p.ga = true ∧ s.access (gaSpace p.ga) (gaOffset p.ga) p.slot.length = .ok ∧ p.acc = false ∧
          p.bad = [] ∧ p.witness = none) →
        (t.op? c o.seq).map Op.status =
            some (BitVec.ofNat 16 (if r.status = 0 ∧ o.poisoned = true then stPoisoned else r.status)) ∧ t.out = (s.beginning x o).out ∧ t.links = s.links ∧ t.hub = s.hub ∧
          t.mem = r.pieces.foldl (fun m p => m.write (localKey p.ga) p.slot) (s.beginning x o).mem

/-- R309, R310, R287, R101, R260: values of operations on whole tensors. COPY leaves in each slot of its output that it writes the bytes of the source
tile's slot; FILL of an INT32 tensor leaves the integer of its parameter in every element; REDUCE_SUM into an L128 tensor, without an
epilogue, leaves in every element the sum of the words of its terms, where no sum is poisoned. (The slots lie on this module, are served,
and do not overlap. Log 43, the model's choice: the work is done as the operation starts.) -/
def Obligations.WorkValues : Prop :=
  ∀ (s : State) (x : Launch) (c : Nat) (o : Op) (out a : Desc), ModInv s → x.parity = none → x.ctx = c → x.faults = [] →
    ((s.ctx c).asIssued o).desc (recOut o.record) = out → ((s.ctx c).asIssued o).desc (recIn o.record 0) = a →
    (s.starting c 0x4000 = some o → a.code = out.code → s.holds out ((copyTiles a out).map Prod.fst) →
      (∀ q ∈ copyTiles a out, s.mem.errorWords (localKey (a.slotAddr q.2)) (slotBytes a.code) = []) →
      ∃ t, exec (.copy x) s = .next t ∧ t.phaseOf c o.seq = some .landing ∧ ∀ q ∈ copyTiles a out,
        t.mem.bytes (localKey (out.slotAddr q.1)) (slotBytes out.code) = s.mem.bytes (localKey (a.slotAddr q.2)) (slotBytes a.code)) ∧
    (s.starting c 0x4001 = some o → out.code = 0x12 → recAnchorMode o.record ≤ 2 → s.holds out out.outTiles →
      ∃ t, exec (.fill x) s = .next t ∧ t.phaseOf c o.seq = some .landing ∧ ∀ j ∈ out.outTiles, ∀ e ∈ out.elems j,
        (unpackElems 0x12 ((t.mem.bytes (localKey (out.slotAddr j)) (slotBytes 0x12)).drop 64)).toList.getD e.1 0 =
          recParam o.record 32 4) ∧
    (∀ v q y k, s.starting c 0x2000 = some o → out.code = 0x18 → recAccWrite o.record = false → recEpilogue o.record = 0 →
      s.holds out out.outTiles → (s.beginning x o).asIssued c (s.begun x o) = v → s.begun x o = q →
      readTensorBy v q (reduceReader (recParam o.record 32 1) q out a) a = .ok y → reduceAnchor v c q out y false = .ok k →
      (∀ j ∈ out.outTiles, ∀ e ∈ out.elems j,
        (sumWords ((reduceCoords (recParam o.record 32 1) 0 a.ext e.2).map (termWord false k y))).poison = false) →
      ∃ t, exec (.reduceSum x) s = .next t ∧ t.phaseOf c o.seq = some .landing ∧ ∀ j ∈ out.outTiles, ∀ e ∈ out.elems j,
        (unpackWords ((t.mem.bytes (localKey (out.slotAddr j)) (slotBytes 0x18)).drop 64)).toList.getD e.1 L128.zero =
          sumWords ((reduceCoords (recParam o.record 32 1) 0 a.ext e.2).map (termWord false k y)))

/-- R127, R133, R152: a matrix product starts by taking its fields, with the anchor and the shares of its start, before any grant;
one without output elements is landing at once, after the checks of its chain and its group offsets (R152, R275), and so is such an
ATTENTION (R127, R270); any other ATTENTION waits for its rows. Memory keeps its contents. -/
def Obligations.MatrixOperationsStart : Prop :=
  (∀ (s : State) (x : Launch) (c op : Nat) (row : Instr) (o : Op) (u : MatRun), (op, row) ∈ matrixRows x → x.parity = none → x.ctx = c →
    s.starting c op = some o →
    (recM o.record ≠ 0 → recN o.record ≠ 0 → matStart ((s.beginning x o).asIssued c (s.begun x o)) c (s.begun x o) = .ok u →
      ∃ t, exec row s = .next t ∧ (t.op? c o.seq).bind Op.mat = some u ∧ t.phaseOf c o.seq = some .running ∧ u.granted = false ∧
        (∀ f ∈ (s.begun x o).fields, f < s.fields.length → (t.field f).running = some (c, o.seq)) ∧ t.mem.cells = s.mem.cells ∧
        (∀ d, d ≠ c → t.ctx d = s.ctx d) ∧ t.hub = s.hub ∧ t.out = s.out) ∧
    (recM o.record = 0 ∨ recN o.record = 0 →
      ∃ t, exec row s = .next t ∧ t.phaseOf c o.seq = some .landing ∧ t.mem.cells = s.mem.cells ∧ (∀ d, d ≠ c → t.ctx d = s.ctx d) ∧
        (∀ l, matEnter ((s.beginning x o).asIssued c (s.begun x o)) c (s.begun x o) = .ok l →
          (t.op? c o.seq).map Op.status = some 0#16) ∧
        (∀ e, matEnter ((s.beginning x o).asIssued c (s.begun x o)) c (s.begun x o) = .error e →
          (t.op? c o.seq).map Op.status = some (BitVec.ofNat 16 e.status)))) ∧
  (∀ (s : State) (x : Launch) (c : Nat) (o : Op), x.parity = none → x.ctx = c → s.starting c 0x1010 = some o →
    recM o.record = 0 ∨ recN o.record = 0 →
    ∃ t, exec (.attention x) s = .next t ∧ t.phaseOf c o.seq = some .landing ∧ t.mem = s.mem ∧ (∀ d, d ≠ c → t.ctx d = s.ctx d) ∧
      t.hub = s.hub ∧ t.out = s.out) ∧
  (∀ (s : State) (x : Launch) (c : Nat) (o : Op), x.parity = none → x.ctx = c → s.starting c 0x1010 = some o →
    recM o.record ≠ 0 → recN o.record ≠ 0 →
    ∃ t, exec (.attention x) s = .next t ∧ (t.op? c o.seq).bind Op.mat = some (MatRun.waiting (s.begun x o).fields.length) ∧
      t.phaseOf c o.seq = some .running ∧ t.mem.cells = s.mem.cells ∧ (∀ d, d ≠ c → t.ctx d = s.ctx d) ∧ t.hub = s.hub)

/-- R427 to R429, R436, R454: a member's collective that starts holds an active job-table entry in every adding link that has
contributions to add or blocks to deliver, in a tree in every adding link, with its counts at zero, and fixes its anchor and
flags; it runs while it has blocks to deliver. (The tiles that it sends are readable, every partner of its tree has a route,
and it has no own tile to copy.) -/
def Obligations.CollectivesStart : Prop :=
  ∀ (s : State) (x : Launch) (c op : Nat) (row : Instr) (o : Op), ModInv s → (op, row) ∈ collectiveRows x → x.parity = none → x.ctx = c →
    s.starting c op = some o → ∀ b t, s.beginning x o = b → s.memberPart x o = t → 0 < t.u.toDeliver → t.p.stripes ≠ [] →
    (∀ i ∈ t.p.adders, i < Grade.links s.grade ∧ entryStatus (s.link i) (s.ctx c).job (BitVec.ofNat 16 t.p.redNo) = stOk) →
    t.routed b = true →
    (t.p.reduces = true → ∀ q ∈ t.originates, ∃ k, t.contribution b q.1 = .ok k) →
    (t.p.reduces = false → t.p.op = 0x5003 ∨ t.p.rank = t.p.root → localCopies b t = [] ∧ ∀ i, i < t.b → ∃ k, t.tile b i
      (BitVec.ofNat 32 (if t.p.op = 0x5003 then t.p.rank * t.b + i else i)) = .ok k) →
    ∃ v, exec row s = .next v ∧ (v.op? c o.seq).bind Op.coll = some t.u ∧ v.phaseOf c o.seq = some .running ∧ v.mem.cells = s.mem.cells ∧
      (∀ d, d ≠ c → v.ctx d = s.ctx d) ∧
      ∀ i ∈ t.p.adders, t.p.tree = true ∨ 0 < t.p.expected t.b i ∨ 0 < t.p.deliveriesOn t.b i →
        ∃ e, (v.link i).entry? (s.ctx c).job (BitVec.ofNat 16 t.p.redNo) = some e ∧ e.2.ctx = c ∧ e.2.seq = o.seq ∧
        e.2.expected = t.p.expected t.b i ∧ e.2.added = 0 ∧ e.2.delivered = 0 ∧ e.2.anchor = t.u.anchor ∧
        e.2.state = 1

/-- R254, R263, R264, R317, R319, R320, R335: STEP_BEGIN opens the window with clear flags and the counters it sets; STEP_END writes
the lens record, closes the window, counts the step and, where an OPTIMIZE of the window was applied, the update, or ends with the status that the record's slot meets (R377); WAIT is over when its counter has reached its value; SIGNAL adds to a
counter of this module; SCALE_UPDATE writes the keeper entries that its work gives. -/
def Obligations.SyncOperationsRun : Prop :=
  ∀ (s : State) (x : Launch) (c : Nat) (o : Op), x.parity = none → x.ctx = c →
    (s.starting c 0x6000 = some o →
      ∃ t, exec (.stepBegin x) s = .next t ∧ t.phaseOf c o.seq = some .landing ∧ (t.ctx c).windowOpen = true ∧ (t.ctx c).flags = 0#7 ∧
        (t.ctx c).lens = Lens.reset ∧
        (t.ctx c).step = (if bitOf (recParam o.record 32 1) 0 then BitVec.ofNat 32 (recParam o.record 36 4) else (s.ctx c).step) ∧
        (t.ctx c).updates = (if bitOf (recParam o.record 32 1) 1 then BitVec.ofNat 32 (recParam o.record 40 4) else (s.ctx c).updates) ∧
        t.mem.cells = s.mem.cells ∧ (∀ d, d ≠ c → t.ctx d = s.ctx d) ∧ t.hub = s.hub ∧ t.links = s.links) ∧
    (∀ st, s.starting c 0x6001 = some o → s.access 0 (gaOffset (s.ctx c).lensBase.toNat + 64 * (s.ctx c).lensSlot) 64 = .stop st →
      ∃ t, exec (.stepEnd x) s = .next t ∧ t.phaseOf c o.seq = some .landing ∧ (t.op? c o.seq).map Op.status = some (BitVec.ofNat 16 st) ∧
        (t.ctx c).windowOpen = (s.ctx c).windowOpen ∧ t.mem.cells = s.mem.cells ∧ (∀ d, d ≠ c → t.ctx d = s.ctx d)) ∧
    (s.starting c 0x6001 = some o → s.access 0 (gaOffset (s.ctx c).lensBase.toNat + 64 * (s.ctx c).lensSlot) 64 = .ok →
      ∃ t, exec (.stepEnd x) s = .next t ∧ t.phaseOf c o.seq = some .landing ∧ (t.ctx c).windowOpen = false ∧
        (t.ctx c).step = (s.ctx c).step + 1#32 ∧
        (t.ctx c).updates = (if (s.ctx c).applied then (s.ctx c).updates + 1#32 else (s.ctx c).updates) ∧
        t.mem = (s.beginning x o).mem.write (memKey 0 (gaOffset (s.ctx c).lensBase.toNat + 64 * (s.ctx c).lensSlot)) (s.ctx c).lensRecord ∧
        (∀ d, d ≠ c → t.ctx d = s.ctx d) ∧ t.hub = s.hub ∧ t.links = s.links) ∧
    (s.starting c 0x7000 = some o →
      ∃ t, exec (.wait x) s = .next t ∧
        t.phaseOf c o.seq = some (if waitMet (s.ctx c) o.record then .landing else .running) ∧ (t.ctx c).sync = (s.ctx c).sync ∧
        t.mem.cells = s.mem.cells ∧ (∀ d, d ≠ c → t.ctx d = s.ctx d) ∧ t.hub = s.hub ∧ t.links = s.links) ∧
    (s.starting c 0x7001 = some o → recParam o.record 32 2 = 0xFFFF ∨ recParam o.record 32 2 = s.own →
      ∀ d, recParam o.record 34 1 % 16 = d → (s.ctx d).state = .active ∨ (s.ctx d).state = .stopped →
      ∃ t, exec (.signal x) s = .next t ∧ t.phaseOf c o.seq = some .landing ∧
        (t.ctx d).sync = (s.ctx d).sync.modify (recParam o.record 35 1 % 16) (fun k => k + BitVec.ofNat 32 (recParam o.record 36 4)) ∧
        (∀ e, e ≠ d → (t.ctx e).sync = (s.ctx e).sync) ∧ t.mem.cells = s.mem.cells ∧ t.hub = s.hub ∧ t.links = s.links) ∧
    (∀ table pieces, s.starting c 0x6003 = some o →
      scaleWork ((s.beginning x o).asIssued c (s.begun x o)) c (s.begun x o) = .ok (table, pieces) →
      ∃ t, exec (.scaleUpdate x) s = .next t ∧ t.phaseOf c o.seq = some .landing ∧ (t.ctx c).keeper = keptEntries table (s.ctx c).keeper ∧
        (pieces = [] → t.mem.cells = s.mem.cells ∧ t.hub = s.hub) ∧ (∀ d, d ≠ c → t.ctx d = s.ctx d))

/-- R260, R261, R264, R32: an operation that has nothing left to wait for ends: its fields are free, its context goes on after a
good status and stops after another; the collisions that its movers' or prism's writes met come with its end (log 104), and memory
changes by nothing else; a WAIT whose time is over ends TIMEOUT. A response to an RDMA READ reaches the operation or
the command that asked; R516: records of which a byte fails its parity are rejected whole. -/
def Obligations.OperationsEnd : Prop :=
  ∀ (s : State) (c : Nat),
    (∀ seq o collide, s.op? c seq = some o → o.isOver s.now (s.ctx c) → goodStatus o.status.toNat = true →
      ∃ t, exec (.operationComplete c ⟨seq, collide⟩) s = .next t ∧ t.op? c seq = none ∧ (t.ctx c).state = (s.ctx c).state ∧
        (∀ f, f < Grade.fields s.grade → (t.field f).running ≠ some (c, seq)) ∧
        (recOp o.record = 0x6002 → (t.ctx c).applied = true) ∧ (collide = [] → t.mem = s.mem) ∧
        t.mem = ((collisionsFx (s.portBWords c o) collide).run s).mem ∧ (∀ d, d ≠ c → t.ctx d = s.ctx d) ∧ t.hub = s.hub ∧
        t.out = s.out) ∧
    (∀ seq o collide, s.op? c seq = some o → o.isOver s.now (s.ctx c) → goodStatus o.status.toNat = false →
      o.status.toNat ≠ stPoisoned → (s.ctx c).state = .active →
      ∃ t, exec (.operationComplete c ⟨seq, collide⟩) s = .next t ∧ t.op? c seq = none ∧ (t.ctx c).state = .stopped ∧
        (t.ctx c).stopStatus = o.status ∧ (collide = [] → t.mem = s.mem) ∧
        t.mem = ((collisionsFx (s.portBWords c o) collide).run s).mem ∧ (∀ d, d ≠ c → t.ctx d = s.ctx d)) ∧
    (∀ o, (s.ctx c).ops.find? (Op.runsOut s.now (s.ctx c)) = some o → c < 16 →
      ∃ t, exec (.waitTimeout c) s = .next t ∧ t.op? c o.seq = none ∧ o.startCycle + recParam o.record 40 8 < t.now ∧
        (s.noCopyRuns → t.mem = s.mem) ∧
        ((s.ctx c).job = 0#16 → (s.ctx c).state = .active →
          (t.ctx c).state = .stopped ∧ (t.ctx c).stopStatus = BitVec.ofNat 16 stTimeout)) ∧
    (∀ tag data w, s.port.waits.find? (fun w => w.key == tag && decide (0 < w.left)) = some w → data.length < w.left →
      ∃ t, exec (.rdmaReadResponse tag data) s = .next t ∧
        { w with got := w.got ++ data, left := w.left - data.length } ∈ t.port.waits ∧ t.mem = s.mem ∧ t.ctxs = s.ctxs ∧ t.hub = s.hub) ∧
    (∀ tag data w n, s.port.waits.find? (fun w => w.key == tag && decide (0 < w.left)) = some w → data.length = w.left →
      w.kind = .submitHost c n →
      (c < s.ctxs.length → w.parity = none → s.submission c (splitRecords n (w.got ++ data)) = stOk →
        ∃ t, exec (.rdmaReadResponse tag data) s = .next t ∧
          (t.ctx c).stream = (s.ctx c).stream ++ splitRecords n (w.got ++ data) ∧ t.mem = s.mem ∧ (∀ d, d ≠ c → t.ctx d = s.ctx d) ∧
          { t.hub with loop := s.hub.loop } = s.hub) ∧
      (∀ z, w.parity = some z →
        ∃ t, exec (.rdmaReadResponse tag data) s = .next t ∧ t.ctxs = s.ctxs ∧ t.mem = s.mem ∧ { t.hub with loop := s.hub.loop } = s.hub)) ∧
    (∀ tag data o n, (∀ w ∈ s.port.waits, w.key ≠ tag) →
      (List.range 16).findSome? (fun d => ((s.ctx d).needOf tag).map (fun q => (d, q))) = some (c, o, n) → s.op? c o.seq = some o →
      data ≠ [] → data.length < n.len →
      ∃ t u, exec (.rdmaReadResponse tag data) s = .next t ∧ t.op? c o.seq = some u ∧ u.fetched = putBytes n.addr data o.fetched ∧
        u.needs = o.needs.erase n ++ [{ n with addr := n.addr + data.length, len := n.len - data.length }] ∧ t.mem = s.mem ∧
        (∀ d, d ≠ c → t.ctx d = s.ctx d))

/-! ## The matrix machine -/

/-- R142 to R145: a matrix product whose grant finds its rows free takes that many rows on every field that takes part, and no
other field's rows change (log 94 on the group's grant); a product of K = 0 without a chain takes its first blocks, whose rows are
complete (R127). Log 70 (the model's choice): ATTENTION runs whole as it is granted, once its slots serve (R364). R123: the first loads that are missing are
noted for each field. -/
def Obligations.BasinGrants : Prop :=
  ∀ (s : State) (c : Nat) (o : Op) (u : MatRun) (p : Plan) (late : List Nat) (faults : List FaultSite),
    s.grantable c = some (o, u, p) → s.op? c o.seq = some o → o.fields.Nodup → (∀ f ∈ o.fields, f < s.fields.length) → (∀ f ∈ grantFields o p, rowsNeeded s c o u p f ≤ s.freeRows f) →
    (recOp o.record ≠ 0x1010 → recAccumulate o.record = true ∨ u.chain = true →
      oneBlock (largest p.shares).1 (largest p.shares).2.1 = true) →
    (recOp o.record ≠ 0x1010 → recK o.record ≠ 0 →
      ∃ t v, exec (.basinGrant ⟨c, late, faults⟩) s = .next t ∧ (t.op? c o.seq).bind Op.mat = some { v with firstLoad := firstLoads s c o v } ∧
        v = { u with chosen := true, axis := p.axis, shares := p.shares, grant := p.grant, rows := p.rows, granted := true } ∧
        (∀ f ∈ grantFields o p, t.freeRows f + rowsNeeded s c o u p f = s.freeRows f) ∧
        (∀ f, f ∉ grantFields o p → (t.field f).tileRows = (s.field f).tileRows) ∧
        (u.chain = false → ∀ f, f ∉ grantFields o p → t.field f = s.field f) ∧ t.mem = s.mem ∧ (∀ d, d ≠ c → t.ctx d = s.ctx d) ∧ t.hub = s.hub) ∧
    (recOp o.record ≠ 0x1010 → recK o.record = 0 → u.chain = false → recAccumulate o.record = false →
      (∀ f ∈ o.fields, ∀ r ∈ (s.field f).tileRows, r.serves c o.seq = false) →
      ∃ t w, exec (.basinGrant ⟨c, late, faults⟩) s = .next t ∧ (t.op? c o.seq).bind Op.mat = some w ∧ w.granted = true ∧
        w.axis = p.axis ∧ w.shares = p.shares ∧ w.rows = p.rows ∧
        (∀ f ∈ grantFields o p, ∀ r ∈ (t.field f).tileRows, r.serves c o.seq = true → r.placed = true → r.complete = true) ∧
        t.mem = s.mem ∧ (∀ d, d ≠ c → t.ctx d = s.ctx d) ∧ t.hub = s.hub) ∧
    (recOp o.record = 0x1010 → (s.asIssued c o).readsAgain c o = .ok →
      ∃ t, exec (.basinGrant ⟨c, late, faults⟩) s = .next t ∧ t.phaseOf c o.seq = some .landing ∧ (∀ d, d ≠ c → t.ctx d = s.ctx d))

/-- R113, R122, R126, R137, R146: a pass of a field that is not ahead of those in step with it (R135) advances its operation by one pass and
counts, with its stall cycles: those of R122 and R123 at the pace of R596, the rows of its load that a preload has not brought (log 50),
and the cycles by which its issue is late (log 49), of which a group in step waits the longest (R135); the block that it multiplies with
is then stationary. R100, R101, R146: each word of the pass is added to the basin word of its row and column, as the read of that
word finds it (R150), and a word whose check fails is added as a poisoned one (R92). R364: it waits while a set that it reads is coming on. A memory that serves no access
(R361, R377), a tile row of another anchor (R146), an operand or a lowered tile that fails its check end the operation with their
status, and so does, once the pass is over, the load of the next pass's block (R122). -/
def Obligations.PassesRun : Prop :=
  ∀ (s : State) (f late c i k : Nat) (o : Op) (u : MatRun) (ps : List Pass) (p : Pass) (rows : List TileRow) (v : State) (g : Geo)
    (z : List FaultSite) (n : Nat),
    s.matOn f = some (c, o, u, i) → u.granted = true → f < s.fields.length → s.asIssued c o = v → matPasses (v.ctx c) o u i = ps →
    geoOf (v.ctx c) o.record = g → u.progress.getD i 0 = k → ps[k]? = some p → i < u.progress.length →
    (p.first = false ∨ blockRoom c o.seq (matBlocks (v.ctx c) o u i) p.blk (s.field f).tileRows = true) →
    placeRows c o.seq (u.rows.getD i 0) (grantedRow s c o u) p.blk.batch p.blk.n0 (if p.first then p.blk.rows else []) (s.field f).tileRows =
      some rows →
    (s.ctx c).saved.any (fun k => k.field == f && k.preempt) = false → inTurn (v.ctx c) o u k = true → o.fields.Nodup →
    missingRows g.cls (u.firstLoad.getD i 0) (v.shadowFor f c o p) k p + late = n →
    (passAccess v f c o u g p = .stall → exec (.passStart f ⟨late, z⟩) s = .next s) ∧
    (∀ ta b, passAccess v f c o u g p = .ok → rows.any (fun r => r.takes c o.seq p && r.anchor ≠ u.anchor) = false →
      (prismRun (lowerTiles v c o u g i f p)).2 = none → passOperands v f c o g p = .ok (ta, b) →
      ∃ t w, exec (.passStart f ⟨late, z⟩) s = .next t ∧ (t.field f).passes = (s.field f).passes + 1#32 ∧
        (t.field f).stalls = (s.field f).stalls + BitVec.ofNat 32 (passStalls (s.groupPace f o u) g.cls (u.firstLoad.getD i 0)
          (inStep (v.ctx c) o u ps) ps k + (if u.axis = 2 then n else n - tableGet u.waits k 0)) ∧
        (∀ j r x y, rows[j]? = some r → r.takes c o.seq p = true → p.blk.n1 ≤ p.blk.n0 + 512 →
          p.r0 ≤ x → x < p.r1 → r.m0 ≤ x → x < r.m0 + 32 → p.blk.n0 ≤ y → y < p.blk.n1 →
          tableGet ((t.field f).tileRows.getD j TileRow.reset).words (512 * (x - r.m0) + (y - r.n0)) L128.zero =
            (tableGet r.words (512 * (x - r.m0) + (y - r.n0)) L128.zero).checked.add
              (if z.any (fun e => e.element == (x - p.r0) * (p.blk.n1 - p.blk.n0) + (y - p.blk.n0)) then L128.poisoned
               else passWord g u.anchor ta (passNan v f c o u g i p) b p x y)) ∧
        (t.field f).stationary = some b ∧ (t.op? c o.seq).bind Op.mat = some w ∧
        w.progress.getD i 0 = k + 1 ∧ w.grant = u.grant ∧ (∀ d, d ≠ c → t.ctx d = s.ctx d) ∧
        (∀ q e, ps[k + 1]? = some q → nextLoad v f c o u g q = .error e →
          t.phaseOf c o.seq = some .landing ∧ (t.op? c o.seq).map Op.status = some (BitVec.ofNat 16 e.status))) ∧
    (∀ e, (∃ st, passAccess v f c o u g p = .stop st ∧ e = Stop.plain st) ∨
      (passAccess v f c o u g p = .ok ∧ rows.any (fun r => r.takes c o.seq p && r.anchor ≠ u.anchor) = true ∧ e = Stop.plain stAnchor) ∨
      (passAccess v f c o u g p = .ok ∧ rows.any (fun r => r.takes c o.seq p && r.anchor ≠ u.anchor) = false ∧
        ((prismRun (lowerTiles v c o u g i f p)).2 = some e ∨
          ((prismRun (lowerTiles v c o u g i f p)).2 = none ∧ passOperands v f c o g p = .error e))) →
      ∃ t, exec (.passStart f ⟨late, z⟩) s = .next t ∧ t.phaseOf c o.seq = some .landing ∧
        (t.op? c o.seq).map Op.status = some (BitVec.ofNat 16 e.status) ∧ (t.field f).passes = (s.field f).passes ∧
        (lowerTiles v c o u g i f p = [] → t.mem = s.mem))

/-- R136, R147 to R150, R197: a basin row of a K split leaves for its owner with its words, those whose check fails poisoned, its
units lent on every bridge of its route (R417, R418; log 105), and ends its operation where no route is left (R487); an arriving one leaves
the ditch and is added word by word to the words of its row (R147; log 70 on its place), one of another anchor than its row's ends the
operation (R146), and one whose operation is gone is dropped; a tile row whose block is complete drains. R167, R193 to R195: every output
tile that a drain makes whole lands with its header, payload and seal, as the weir forms it of the words of that tile, and its statistics
join the record of its index. R8, R418, R487: a route between fields runs along the row, then across, crosses as many bridges as
columns and rows lie between, and no field out of service; a multicast crosses each bridge of its routes once. -/
def Obligations.PartialsAndDrains : Prop :=
  (∀ cls a b, a < 8 → b < 8 →
    fieldRoute (fun _ => true) cls a b = some (rowHops cls (a / 4) (a % 4) (b % 4) ++ columnHop cls (b % 4) (a / 4) (b / 4)) ∧
    ∀ live l, fieldRoute live cls a b = some l →
      l.length = ((a % 4 : Int) - b % 4).natAbs + ((a / 4 : Int) - b / 4).natAbs ∧
      (∀ k n, k ∈ l → k.bridge = .row n → live n = true ∧ live (n + 1) = true) ∧
      (∀ k n, k ∈ l → k.bridge = .column n → live n = true ∧ live (n + 4) = true)) ∧
  (∀ live cls src dsts, (multicast live cls src dsts).Nodup ∧ ∀ k, k ∈ multicast live cls src dsts ↔
    ∃ d ∈ dsts, ∃ l, ditchRoute live cls src d = some l ∧ k ∈ l) ∧
  ∀ (s : State) (f : Nat),
    (∀ c o u i k r way, s.matOn f = some (c, o, u, i) →
      toSend (matBlocks ((s.ctx c).asIssued o) o u i) o u c i (s.field f).tileRows = some (k, r) →
      ditchRoute s.ditchLive arrayClass (.field f) (.field (o.fields.getD (ownerAt o u r.m0 i) f)) = some way →
      ∃ t q, exec (.partialSend f) s = .next t ∧ t.ditch = Ditch.send q s.ditch ∧ q.src = f ∧ q.ctx = c ∧ q.seq = o.seq ∧ q.batch = r.batch ∧
        q.m = r.m0 + r.sent ∧ q.n0 = r.n0 ∧ q.anchor = r.anchor ∧ q.route = way ∧
        (∀ x w, (x, w) ∈ q.words ↔ x < 512 ∧ ∃ v, (512 * r.sent + x, v) ∈ r.words ∧ w = v.checked) ∧ t.mem = s.mem ∧ (∀ d, d ≠ c → t.ctx d = s.ctx d)) ∧
    (∀ c o u i k r, s.matOn f = some (c, o, u, i) →
      toSend (matBlocks ((s.ctx c).asIssued o) o u i) o u c i (s.field f).tileRows = some (k, r) →
      ditchRoute s.ditchLive arrayClass (.field f) (.field (o.fields.getD (ownerAt o u r.m0 i) f)) = none →
      ∃ t, exec (.partialSend f) s = .next t ∧ t.phaseOf c o.seq = some .landing ∧
        (t.op? c o.seq).map Op.status = some (BitVec.ofNat 16 stNoResource) ∧ t.ditch = s.ditch ∧ t.mem = s.mem) ∧
    (∀ z p l, s.arriving f = some p → s.landing f p = .rows l →
      ∃ t, exec (.partialArrival f z) s = .next t ∧ t.ditch = Ditch.take p s.ditch ∧ t.mem = s.mem ∧
        (∀ d, d ≠ p.ctx → t.ctx d = s.ctx d) ∧
        (∀ k r x w, rowIndex p.ctx p.seq p.batch p.n0 p.m l = k → l[k]? = some r → r.anchor = p.anchor → f < s.fields.length → z = [] →
          (p.words.map Prod.fst).Nodup → (x, w) ∈ p.words →
          tableGet ((t.field f).tileRows.getD k TileRow.reset).words (512 * (p.m - r.m0) + x) L128.zero =
            (tableGet r.words (512 * (p.m - r.m0) + x) L128.zero).checked.add w) ∧
        ((l.getD (rowIndex p.ctx p.seq p.batch p.n0 p.m l) TileRow.reset).anchor ≠ p.anchor →
          t.phaseOf p.ctx p.seq = some .landing ∧ (t.op? p.ctx p.seq).map Op.status = some (BitVec.ofNat 16 stAnchor))) ∧
    (∀ z p, s.arriving f = some p → s.landing f p = .drop →
      exec (.partialArrival f z) s = .next (s.modDitch (Ditch.take p))) ∧
    (∀ c o u i k z r away, s.matOn f = some (c, o, u, i) → (s.field f).tileRows.getD k TileRow.reset = r →
      ((s.ctx c).saved.filter (fun k => k.field == f && k.preempt)).map SavedRow.row = away →
      r.serves c o.seq = true → r.ready o u i (matBlocks ((s.ctx c).asIssued o) o u i) ((s.field f).tileRows ++ away) = true →
      drainAccess s c o u i r = .ok →
      ∃ t, exec (.drainStart f k z) s = .next t ∧ (((t.field f).tileRows.getD k TileRow.reset).state = .draining ∨
        ((t.field f).tileRows.getD k TileRow.reset).state = .free) ∧ (∀ d, d ≠ c → t.ctx d = s.ctx d) ∧
        ∀ (v : State) (out : Desc) (st : List (Nat × Nat × L128)) (j : Nat) (p : Piece), s.asIssued c o = v →
          (v.ctx c).desc (recOut o.record) = out → z = [] → (∀ w ∈ r.words, w.2.residueOk = true) → recEpilogue o.record = 0 →
          recK o.record ≠ 0 →
          u.staged ++ (drainWords (geoOf (v.ctx c) o.record) (u.share i) r []).map (fun e => (out.tidx (out.tileOf e.1), out.pos e.1, e.2.1)) = st →
          (∀ e ∈ drainWords (geoOf (v.ctx c) o.record) (u.share i) r [], out.tidx (out.tileOf e.1) = j) →
          (out.elems (unrank out.grid j)).length ≤ (stagedOf st j).length → out.offGrid (unrank out.grid j) = false →
          wordsPiece (v.ctx c) { o with fields := [f] } out none u.anchor (unrank out.grid j) (fun y => wordAt (stagedOf st j) (out.pos y)) = p →
          isLocal s.own p.ga = true → s.access (gaSpace p.ga) (gaOffset p.ga) p.slot.length = .ok → p.acc = false → p.bad = [] →
          p.witness = none →
          t.mem = s.mem.write (localKey p.ga) p.slot ∧
            ∀ n d, p.stats = some (n, d) → n ≤ 4095 → tableGet (t.ctx c).stats n StatRec.zero =
              (tableGet (s.ctx c).stats n StatRec.zero).merge o.step d)

/-- R154 to R162: a ready operation, the context's next one or one that was preempted itself, preempts (R160), and preemption leaves no open
row of the preempted operations; saving a row writes its record, with the words whose
check fails poisoned (R150), at its slot of the save area, moves the other records to their ranks (R156; log 98), and frees the
row; restoring a sound record takes it into a free row, and one that fails its checks ends the operation `POISONED` (R158), a held
row's record staying saved; a preempted operation whose fields are free takes them again. -/
def Obligations.PreemptionSaves : Prop :=
  ∀ (s : State),
    (∀ c o d q, o ∈ s.readyOps c → (d, q) ∈ s.preemptible c o →
      ∃ t, exec (.preempt c) s = .next t ∧ (t.op? d q.seq).map Op.preempted = some true ∧
        (∀ f ∈ q.fields, ∀ r ∈ (t.field f).tileRows, r.ctx = d → r.state ≠ .open ∧ r.state ≠ .held) ∧ t.mem = s.mem ∧ t.hub = s.hub ∧
        t.links = s.links) ∧
    (∀ f k r new x off, (s.field f).tileRows.getD k TileRow.reset = r → r.state = .saving → r.ctx < s.ctxs.length →
      s.savedWith f k r = new → new.getLast? = some x →
      gaOffset ((s.ctx r.ctx).saveArea.getD f 0#64).toNat + recordBytes * x.slot = off → s.access 0 off recordBytes = .ok →
      (s.ctx r.ctx).saved.countP (fun k => k.field == f) < 256 →
      x.field = f ∧ x.index = k ∧
      ∃ t, exec (.tileRowSave f k) s = .next t ∧
        t.mem = ((moveRecords f r.ctx new).run s).mem.write (memKey 0 off) (savedRecord f k r.readOut) ∧
        (new = (s.ctx r.ctx).saved ++ [x] → ((moveRecords f r.ctx new).run s).mem = s.mem) ∧
        (t.field f).tileRows = (s.field f).tileRows.set k TileRow.reset ∧ (t.field f).savedCount = (s.field f).savedCount + 1#32 ∧
        (t.ctx r.ctx).saved = new ∧ (∀ d, d ≠ r.ctx → t.ctx d = s.ctx d) ∧ (∀ g, g ≠ f → t.field g = s.field g)) ∧
    (∀ f c k o key, s.restorable f c = some (k, o) →
      memKey 0 (gaOffset ((s.ctx c).saveArea.getD f 0#64).toNat + recordBytes * k.slot) = key →
      (∃ r ∈ (s.field f).tileRows, r.state = .free) → s.access 0 (key % 2 ^ 44) recordBytes = .ok →
      (recordOk s c key (s.mem.bytes key recordBytes) → s.mem.errorWords key recordBytes = [] →
        ∃ t, exec (.tileRowRestore f c) s = .next t ∧ t.mem = s.mem ∧ (t.ctx c).saved = (s.ctx c).saved.erase k ∧
          (t.field f).tileRows = takeFree (restoredRow k (s.mem.bytes key recordBytes)) 1 (s.field f).tileRows ∧
          (t.field f).restoredCount = (s.field f).restoredCount + 1#32 ∧ (∀ d, d ≠ c → t.ctx d = s.ctx d)) ∧
      (recordOk s c key (s.mem.bytes key recordBytes) = false →
        ∃ t, exec (.tileRowRestore f c) s = .next t ∧ (t.ctx c).saved = keepRecord k (s.ctx c).saved ∧
          (t.field f).tileRows = (s.field f).tileRows ∧ t.phaseOf c o.seq = some .landing ∧
          (t.op? c o.seq).map Op.status = some (BitVec.ofNat 16 stPoisoned) ∧ (∀ d, d ≠ c → t.ctx d = s.ctx d))) ∧
    (∀ c o, (s.ctx c).ops.find? (s.mayResume c) = some o →
      ∃ t, exec (.preemptedResume c) s = .next t ∧ (t.op? c o.seq).map Op.preempted = some false ∧
        (∀ f ∈ o.fields, f < s.fields.length → (t.field f).running = some (c, o.seq)) ∧ t.mem = s.mem ∧ (∀ d, d ≠ c → t.ctx d = s.ctx d))

/-- R342, R344: a comparison whose exact sums are there counts each of its outputs in the lens and is over; no tile
changes. R24: one with a poisoned sum, or a witness slot that fails its checks, counts nothing, is over, and leaves its operation to
end `POISONED`. -/
def Obligations.WitnessCompares : Prop :=
  (∀ (s : State) (f : Nat) (k : Comparison) (o : Op) (u : MatRun),
    (s.field f).comparisons.find? (fun k => !k.sums.isEmpty) = some k → s.op? k.ctx k.seq = some o → o.mat = some u →
    (∃ w ∈ k.sums, w.2.poison = true) ∨ (witnessFault s f ((s.ctx k.ctx).asIssued o) k.slot).isSome →
    ∃ t, exec (.witnessCompare f) s = .next t ∧ (t.field f).comparisons = (s.field f).comparisons.erase k ∧
      (t.ctx k.ctx).lens = (s.ctx k.ctx).lens ∧ t.mem.cells = s.mem.cells ∧ (∀ d, d ≠ k.ctx → t.ctx d = s.ctx d) ∧
      (t.op? k.ctx k.seq).map Op.comparisons = some (o.comparisons - 1) ∧
      (o.phase ≠ .landing → (t.op? k.ctx k.seq).map Op.poisoned = some true) ∧
      (o.phase = .landing → o.status = 0#16 → (t.op? k.ctx k.seq).map Op.status = some (BitVec.ofNat 16 stPoisoned))) ∧
  ∀ (s : State) (f : Nat) (k : Comparison) (o : Op) (u : MatRun) (g : Geo) (ta tb : Tens),
    (s.field f).comparisons.find? (fun k => !k.sums.isEmpty) = some k → s.op? k.ctx k.seq = some o → o.mat = some u →
    geoOf ((s.ctx k.ctx).asIssued o) o.record = g →
    readWhere (s.asIssued k.ctx o) { o with fields := [f] } g.a (k.reads o.record g u.offsets 0) = .ok ta →
    readWhere (s.asIssued k.ctx o) { o with fields := [f] } g.b (k.reads o.record g u.offsets 1) = .ok tb →
    (∀ w ∈ k.sums, w.2.poison = false) → witnessFault s f ((s.ctx k.ctx).asIssued o) k.slot = none →
    ∃ t, exec (.witnessCompare f) s = .next t ∧ (t.field f).comparisons = (s.field f).comparisons.erase k ∧
      (t.ctx k.ctx).lens.compared = (s.ctx k.ctx).lens.compared +
        (g.out.elems (unrank g.out.grid k.tile)).length ∧
      (t.op? k.ctx k.seq).map Op.comparisons = some (o.comparisons - 1) ∧ t.mem.cells = s.mem.cells ∧ (∀ d, d ≠ k.ctx → t.ctx d = s.ctx d)

/-! ## Reductions -/

/-- R429, R431, R442, R452: RED_READY puts its sender into the ready set of its key, in the entry of the sluice on whose link it arrived
(log 46), one of a job that an abort took away is
discarded (R422, R430), and it is sent again to a partner whose blocks have not begun; a head opens a block and keeps its credits, data extend it; a whole sound block of a ring's REDUCE_SCATTER has
the member's contribution added and goes on to the next member. -/
def Obligations.ReductionBlocks : Prop :=
  ∀ (s : State) (i : Nat) (p : Packet), i < s.links.length →
    (s.delivers 0x23 i p → ((s.link i).entry? p.job (redNoOf p)).isSome ∨ (s.jobGone p.job = false ∧ (s.link i).freeEntry?.isSome) →
      ∃ t e, exec (.redReady i p) s = .next t ∧ (t.link i).entry? p.job (redNoOf p) = some e ∧ p.src ∈ e.2.ready ∧
        (t.link i).rx = (s.link i).rx.erase (p.vl, p) ∧ t.mem = s.mem ∧ t.ctxs = s.ctxs) ∧
    (s.delivers 0x23 i p → (s.link i).entry? p.job (redNoOf p) = none → s.jobGone p.job = true →
      ∃ t, exec (.redReady i p) s = .next t ∧ (t.link i).entries = (s.link i).entries ∧
        (t.link i).rx = (s.link i).rx.erase (p.vl, p) ∧ t.mem = s.mem ∧ t.ctxs = s.ctxs) ∧
    (∀ k e t n j, tableGet? (s.link i).entries k = some e → s.part? e.ctx e.seq = some t → e.state = 1 ∨ e.state = 2 →
      t.senders s i = [(n, some j)] → n ∉ e.started → j < s.links.length → (s.link j).state ≠ 4 →
      ∃ v, exec (.redReadyResend i k) s = .next v ∧
        (v.link j).inject = (s.link j).inject ++ [(32 + i / 4, readyPacket s.own e.job e.redNo e.ctx e.gen.toNat n)] ∧
        (∀ g, g ≠ j → v.link g = s.link g) ∧ v.mem = s.mem ∧ v.ctxs = s.ctxs) ∧
    (∀ q, s.delivers 0x20 i p → s.takerOf i p = some q →
      ∃ t b, exec (.redHead i p) s = .next t ∧ (t.link i).staged = (s.link i).staged ++ [b] ∧ b.header = p.payload ∧ b.payload = [] ∧
        b.src = p.src ∧ b.job = p.job ∧ b.redNo = redNoOf p ∧ b.index = indexOf p ∧ b.units = s.keptUnits i p ∧
        (t.link i).rx = (s.link i).rx.erase (p.vl, p) ∧ (t.link i).vls = (s.link i).vls ∧ t.mem = s.mem ∧ t.ctxs = s.ctxs) ∧
    (∀ b, s.delivers 0x21 i p → (s.link i).staged = [b] → b.takes p →
      ∃ t, exec (.redData i p) s = .next t ∧
        (t.link i).staged = [{ b with payload := b.payload ++ p.payload, chunks := b.chunks + 1, units := b.units + s.keptUnits i p }] ∧
        (t.link i).rx = (s.link i).rx.erase (p.vl, p) ∧ (t.link i).vls = (s.link i).vls ∧ t.mem = s.mem ∧ t.ctxs = s.ctxs) ∧
    (∀ b k e t r d j, s.delivers 0x22 i p → (s.link i).staged.find? (fun b => b.takes p) = some b → s.takerOf i p = some (k, e, t) → t.p.tree = false →
      t.p.op = 0x5000 → b.index ≠ flagsOnly → b.index.toNat / chunkSize t.b t.p.members ≠ t.p.rank →
      Machine.field p.payload 0 4 = blockSeal b.header b.payload → Machine.field p.payload 4 1 = 0 →
      b.block = r → r.anchor = t.u.anchor → r.poison = false → ((s.link i).bufferFor r.reserve).isSome →
      t.contribution s b.index = .ok d → blockFault r d (RedBlock.add t.p.slicing r d) false = false →
      (t.p.stripe t.b b.index).1 = j → t.p.stripes ≠ [] → j < s.links.length → j < Grade.links s.grade →
      (s.link j).state ≠ 4 →
      ∃ v x, exec (.redTail i p false) s = .next v ∧ (v.link j).sends = (s.link j).sends ++ [x] ∧
        x.block = RedBlock.add t.p.slicing r d ∧ x.dst = (s.link j).seenNode ∧ x.originated = false ∧ x.home = some i ∧
        v.mem.cells = s.mem.cells)

/-- R446, R456: a block that has its credits begins to leave once the one before it has: it gives up its place in the sluice, its
units are taken, from the reserve where it is lent, and its packets wait for the turns of VL3 (R414); while a block leaves no other
begins (log 46, the model's reading of R446). The deadline of a collective ends it TIMEOUT and aborts its job. -/
def Obligations.BlocksLeave : Prop :=
  ∀ (s : State) (i : Nat),
    (∀ q lent b, i < s.links.length → s.nextSend i = some (q, lent) → (s.link i).carries = true → (s.link i).vls.length = 4 →
      b = { q.block with reserve := lent } →
      ((s.link i).leaving = none →
        ∃ t, exec (.blockSend i) s = .next t ∧ (t.link i).sends = (s.link i).sends.erase q ∧
          (t.link i).leaving = some ⟨q, b.packets s.own (s.senderOf q.block).1 (s.senderOf q.block).2 q.dst.toNat⟩ ∧
          ((t.link i).vls.getD 3 (Vl.reset 3)).credits = ((s.link i).vls.getD 3 (Vl.reset 3)).credits - q.block.units ∧
          (t.link i).reserveFree = (s.link i).reserveFree - (if lent then q.block.units else 0) ∧
          (t.link i).replay = (s.link i).replay ∧ t.mem = s.mem ∧ t.ctxs = s.ctxs ∧ ∀ j, j ≠ i → t.link j = s.link j) ∧
      ((s.link i).leaving ≠ none → exec (.blockSend i) s = .next s)) ∧
    (∀ c o d, (s.ctx c).dueCollective = some (o, d) → s.ctxs.length = 16 → s.op? c o.seq = some o →
      d = o.startCycle + (collOf o.record).deadline ∧ (collOf o.record).deadline ≠ 0 ∧
      (∀ q ∈ (s.ctx c).ops, isCollective (recOp q.record) → q.phase = .running → q.status = 0#16 → (collOf q.record).deadline ≠ 0 →
        d ≤ q.startCycle + (collOf q.record).deadline) ∧
      ∃ v, exec (.collectiveTimeout c) s = .next v ∧ d < v.now ∧ v.op? c o.seq = none ∧
        (s.noCopyRuns → v.mem = s.mem) ∧
        ((s.ctx c).job ≠ 0#16 →
          ∀ d, d < 16 → (s.ctx d).job = (s.ctx c).job → (s.ctx d).state = .active ∨ (s.ctx d).state = .stopped →
            (v.ctx d).state = .teardown))

/-! ## Numbers -/

/-- R78, R79: the sum of two FIN words, where the adder's check of R91 finds nothing, is exact inside the range of a word, with S the low 128 bits as two's complement and W the
rest; outside it the sum is an overflow of its sign. -/
def Obligations.SumsAreExact : Prop :=
  ∀ a b : L128, a.tag = .fin → b.tag = .fin → a.poison = false → b.poison = false → a.addFault b = false →
    (-8 * 2 ^ 128 - 2 ^ 127 ≤ a.t + b.t → a.t + b.t ≤ 7 * 2 ^ 128 + 2 ^ 127 - 1 →
      (a.add b).tag = .fin ∧ (a.add b).t = a.t + b.t ∧ (a.add b).s + (a.add b).wrap * 2 ^ 128 = a.t + b.t ∧
        -(2 ^ 127) ≤ (a.add b).s ∧ (a.add b).s < 2 ^ 127 ∧ -8 ≤ (a.add b).wrap ∧ (a.add b).wrap ≤ 7) ∧
    (a.t + b.t < -8 * 2 ^ 128 - 2 ^ 127 → (a.add b).tag = .ovfn) ∧
    (7 * 2 ^ 128 + 2 ^ 127 - 1 < a.t + b.t → (a.add b).tag = .ovfp)

/-- R84, R82, R101: the sum of a list of words with sound residues does not depend on their order, whatever tags and poison they carry, as long as no
partial sum can leave the range of R78. -/
def Obligations.SumsAreOrderFree : Prop :=
  ∀ l l' : List L128, l.Perm l' → (∀ w ∈ l, w.residueOk = true) → ((l.filter (fun w => w.tag = .fin)).map (fun w => (w.t.natAbs : Int))).sum ≤ sumMax →
    sumWords l = sumWords l'

/-- R84, R82: two words of which one is not FIN combine their tags as the table of R84 gives, which is commutative and associative,
and two FIN words add as R78 and R79 say; a word that is not FIN, and so one that overflowed, never returns to FIN. -/
def Obligations.TagsCombine : Prop :=
  (∀ a b, addTags a b = addTags b a) ∧ (∀ a b c, addTags (addTags a b) c = addTags a (addTags b c)) ∧
    (∀ a, addTags a .fin = a ∧ addTags a .nan = .nan ∧ addTags a a = a) ∧ addTags .pinf .ninf = .nan ∧
    (∀ a ∈ [Tag.ovfp, Tag.ovfn, Tag.ovfx], addTags .pinf a = .pinf ∧ addTags .ninf a = .ninf ∧ addTags .ovfx a = .ovfx) ∧
    addTags .ovfp .ovfn = .ovfx ∧
    (∀ a b : L128, a.poison = false → b.poison = false → a.tag = .fin → b.tag = .fin → a.addFault b = false →
      (sumMin ≤ a.t + b.t → a.t + b.t ≤ sumMax → (a.add b).tag = .fin ∧ (a.add b).t = a.t + b.t) ∧
      (a.t + b.t < sumMin → (a.add b).tag = .ovfn) ∧ (sumMax < a.t + b.t → (a.add b).tag = .ovfp)) ∧
    (∀ a b : L128, a.poison = false → b.poison = false → a.tag ≠ .fin ∨ b.tag ≠ .fin →
      (a.add b).tag = addTags a.tag b.tag ∧ (a.add b).t = 0 ∧ (a.add b).residue = 0) ∧
    ∀ (w : L128) (l : List L128), w.tag ≠ .fin → (l.foldl L128.add w).tag ≠ .fin

/-- R90, R150: the residue of a sum of sound words is the sum of their residues modulo 255, and the sum is sound; the check of R91
finds nothing in sound words, finds a single word whose residue is off modulo 255, and poisons the sum (R92); a word that leaves
and comes back through its 18 bytes is the same word. -/
def Obligations.WordsKeepTheirResidues : Prop :=
  (∀ a b : L128, a.tag = .fin → b.tag = .fin → a.poison = false → b.poison = false →
    (a.residueOk = true → b.residueOk = true → a.addFault b = false) ∧
    (a.residueOk = true → b.residue % 255 ≠ res255 b.t → a.addFault b = true ∧ a.add b = L128.poisoned)) ∧
  (∀ a b : L128, a.tag = .fin → b.tag = .fin → a.poison = false → b.poison = false → a.residueOk = true → b.residueOk = true →
    (a.add b).residueOk = true ∧ ((a.add b).tag = .fin → (a.add b).residue = (a.residue + b.residue) % 255)) ∧
  (∀ w : L128, w.tag = .fin → w.poison = false → sumMin ≤ w.t → w.t ≤ sumMax → w.residue < 256 → L128.ofBytes w.bytes = w) ∧
  (∀ tag, tag ≠ .fin → L128.ofBytes (L128.special tag).bytes = L128.special tag)

/-- R37 to R41, R169: a value that a float format represents is stored as itself, whatever the rounding mode. R169, R170:
rounding to nearest even stores no value while another finite value of the format lies closer, and with a quantum of one it is off by at
most one half, and by one half only to an even number. -/
def Obligations.FloatRounding : Prop :=
  (∀ q : Rat, ratAbs (q - rneInt q) ≤ 1 / 2 ∧ (ratAbs (q - rneInt q) = 1 / 2 → rneInt q % 2 = 0)) ∧
  (∀ (code e m : Nat) (bias : Int) (inf nan : Bool) (cfg : RoundCfg) (u bits : Nat) (q : Rat),
      formatKind code = some (.float e m bias inf nan) → bits < 2 ^ elemBits code → u < 65536 → cfg.ftz = false →
      decodeElem code bits = .fin q →
      (storeElem code cfg u (.fin q)).val = .fin q ∧
        ∃ b, (storeElem code cfg u (.fin q)).bits = some b ∧ decodeElem code b = .fin q) ∧
  (∀ (code e m : Nat) (bias : Int) (inf nan : Bool) (cfg : RoundCfg) (u bits : Nat) (v r q : Rat),
      formatKind code = some (.float e m bias inf nan) → cfg.mode = .rne → cfg.ftz = false →
      (storeElem code cfg u (.fin v)).val = .fin r → bits < 2 ^ elemBits code → decodeElem code bits = .fin q →
      ratAbs (r - v) ≤ ratAbs (q - v))

/-! ## Byte forms -/

/-- R400, R402, R394: a packet is what its header and payload bytes say, the parity of a sealed packet is right, and a single
wrong bit of its destination is found; a flit's CRC is right, and its first bytes give its sequence number and type. R206, R208, R48, R49:
a header in range is read back from the slot it was written to, the slot's seal is right, and elements are read back from the payload they
were packed into. -/
def Obligations.ByteFormsRoundTrip : Prop :=
  (∀ p : Packet, Packet.parse (p.bytes.take 32) (p.bytes.drop 32) = p ∧ p.sealed.parityOk = true ∧
    p.sealed.fields = p.fields) ∧
  (∀ (p : Packet) (i : Nat), i < 16 → p.parityOk = true → Packet.parityOk { p with dst := p.dst ^^^ (1#16 <<< i) } = false) ∧
  (∀ (seq ftype ack : Nat) (nack valid : Bool) (credits : List Nat) (pool first : Byte) (body : List Byte), body.length ≤ 240 →
    flitCrcOk (flitBytes seq ftype ack nack valid credits pool first body) = true ∧
      (ftype < 4 → Machine.field (flitBytes seq ftype ack nack valid credits pool first body) 0 2 = seq % 4096 + 4096 * ftype)) ∧
  (∀ (h : Header) (payload : List Byte), h.scales.length = 32 → h.tail.length = 8 → h.format < 256 → h.flags < 256 →
    -32768 ≤ h.ceil → h.ceil < 32768 → h.shape < 65536 → h.valid < 65536 → h.tid < 2 ^ 32 → h.tidx < 2 ^ 64 →
    Header.parse (h.slot payload) = h ∧ sealOk (h.slot payload) = true ∧ (h.slot payload).length = 64 + payload.length) ∧
  (∀ (code : Nat) (els : List Nat), code ≠ 0x18 → (formatKind code).isSome → els.length = 1024 → (∀ e ∈ els, e < 2 ^ elemBits code) →
    (unpackElems code (packElems code els)).toList = els)
end

