-- ==== Sys2Proof/Laws/Bits.lean ====
section
/-! SUPPORT. Byte strings and checksums: lengths, reading back what was written, and the CRC as a plain fold. -/
namespace Sys2Proof.Machine

/-- A CRC is the fold of its byte step. -/
theorem crcFold_eq (poly : BitVec 32) (bs : List Byte) (c : BitVec 32) : crcFold poly bs c = bs.foldl (crcByte poly) c := by
  induction bs generalizing c with
  | nil => rfl
  | cons b bs ih =>
    have h : c = BitVec.ofNat 32 c.toNat := by simp
    simp only [crcFold, List.foldl_cons]
    split <;> rename_i e
    · rw [ih, h, e]
    · rw [ih, ← Nat.succ_eq_add_one, ← e, ← h]

@[simp] theorem leBytes_length (n v : Nat) : (leBytes n v).length = n := by
  induction n generalizing v with
  | zero => rfl
  | succ n ih => simp [leBytes, ih]

/-- A number that fits its bytes is read back from them. -/
theorem leNat_leBytes (n v : Nat) (h : v < 256 ^ n) : leNat (leBytes n v) = v := by
  induction n generalizing v with
  | zero => simp at h; simp [leBytes, leNat, h]
  | succ n ih =>
    have : v / 256 < 256 ^ n := by rw [Nat.div_lt_iff_lt_mul (by decide)]; rw [Nat.pow_succ] at h; exact h
    simp [leBytes, leNat, ih _ this]
    omega

end Sys2Proof.Machine
end

