-- ==== Sys2Proof/Laws/State.lean ====
section
/-! SUPPORT. What each primitive update of the state leaves and what it writes: one lemma per field per update, true by
definition; the accessors of contexts, fields, stacks, links and rings after an update; the queue. -/
namespace Sys2Proof.Machine

variable (s : State)

/-! ## setNow -/

@[simp] theorem State.setNow_pending (n : Nat) : (s.setNow n).pending = s.pending := rfl
@[simp] theorem State.setNow_out (n : Nat) : (s.setNow n).out = s.out := rfl
@[simp] theorem State.setNow_freeCtr (n : Nat) : (s.setNow n).freeCtr = s.freeCtr := rfl
@[simp] theorem State.setNow_now (n : Nat) : (s.setNow n).now = max s.now n := rfl
@[simp] theorem State.setNow_grade (n : Nat) : (s.setNow n).grade = s.grade := rfl
@[simp] theorem State.setNow_mem (n : Nat) : (s.setNow n).mem = s.mem := rfl
@[simp] theorem State.setNow_hub (n : Nat) : (s.setNow n).hub = s.hub := rfl
@[simp] theorem State.setNow_port (n : Nat) : (s.setNow n).port = s.port := rfl
@[simp] theorem State.setNow_power (n : Nat) : (s.setNow n).power = s.power := rfl
@[simp] theorem State.setNow_sideband (n : Nat) : (s.setNow n).sideband = s.sideband := rfl
@[simp] theorem State.setNow_ctxs (n : Nat) : (s.setNow n).ctxs = s.ctxs := rfl
@[simp] theorem State.setNow_fields (n : Nat) : (s.setNow n).fields = s.fields := rfl
@[simp] theorem State.setNow_hbmStacks (n : Nat) : (s.setNow n).hbmStacks = s.hbmStacks := rfl
@[simp] theorem State.setNow_links (n : Nat) : (s.setNow n).links = s.links := rfl
@[simp] theorem State.setNow_rings (n : Nat) : (s.setNow n).rings = s.rings := rfl
@[simp] theorem State.setNow_evc (n : Nat) : (s.setNow n).evc = s.evc := rfl
@[simp] theorem State.setNow_ditch (n : Nat) : (s.setNow n).ditch = s.ditch := rfl

/-! ## bumpFree -/

@[simp] theorem State.bumpFree_pending : (s.bumpFree).pending = s.pending := rfl
@[simp] theorem State.bumpFree_out : (s.bumpFree).out = s.out := rfl
@[simp] theorem State.bumpFree_freeCtr : (s.bumpFree).freeCtr = s.freeCtr + 1 := rfl
@[simp] theorem State.bumpFree_now : (s.bumpFree).now = s.now := rfl
@[simp] theorem State.bumpFree_grade : (s.bumpFree).grade = s.grade := rfl
@[simp] theorem State.bumpFree_mem : (s.bumpFree).mem = s.mem := rfl
@[simp] theorem State.bumpFree_hub : (s.bumpFree).hub = s.hub := rfl
@[simp] theorem State.bumpFree_port : (s.bumpFree).port = s.port := rfl
@[simp] theorem State.bumpFree_power : (s.bumpFree).power = s.power := rfl
@[simp] theorem State.bumpFree_sideband : (s.bumpFree).sideband = s.sideband := rfl
@[simp] theorem State.bumpFree_ctxs : (s.bumpFree).ctxs = s.ctxs := rfl
@[simp] theorem State.bumpFree_fields : (s.bumpFree).fields = s.fields := rfl
@[simp] theorem State.bumpFree_hbmStacks : (s.bumpFree).hbmStacks = s.hbmStacks := rfl
@[simp] theorem State.bumpFree_links : (s.bumpFree).links = s.links := rfl
@[simp] theorem State.bumpFree_rings : (s.bumpFree).rings = s.rings := rfl
@[simp] theorem State.bumpFree_evc : (s.bumpFree).evc = s.evc := rfl
@[simp] theorem State.bumpFree_ditch : (s.bumpFree).ditch = s.ditch := rfl

/-! ## emit -/

@[simp] theorem State.emit_pending (o : Out) : (s.emit o).pending = s.pending := rfl
@[simp] theorem State.emit_out (o : Out) : (s.emit o).out = s.out ++ [o] := rfl
@[simp] theorem State.emit_freeCtr (o : Out) : (s.emit o).freeCtr = s.freeCtr := rfl
@[simp] theorem State.emit_now (o : Out) : (s.emit o).now = s.now := rfl
@[simp] theorem State.emit_grade (o : Out) : (s.emit o).grade = s.grade := rfl
@[simp] theorem State.emit_mem (o : Out) : (s.emit o).mem = s.mem := rfl
@[simp] theorem State.emit_hub (o : Out) : (s.emit o).hub = s.hub := rfl
@[simp] theorem State.emit_port (o : Out) : (s.emit o).port = s.port := rfl
@[simp] theorem State.emit_power (o : Out) : (s.emit o).power = s.power := rfl
@[simp] theorem State.emit_sideband (o : Out) : (s.emit o).sideband = s.sideband := rfl
@[simp] theorem State.emit_ctxs (o : Out) : (s.emit o).ctxs = s.ctxs := rfl
@[simp] theorem State.emit_fields (o : Out) : (s.emit o).fields = s.fields := rfl
@[simp] theorem State.emit_hbmStacks (o : Out) : (s.emit o).hbmStacks = s.hbmStacks := rfl
@[simp] theorem State.emit_links (o : Out) : (s.emit o).links = s.links := rfl
@[simp] theorem State.emit_rings (o : Out) : (s.emit o).rings = s.rings := rfl
@[simp] theorem State.emit_evc (o : Out) : (s.emit o).evc = s.evc := rfl
@[simp] theorem State.emit_ditch (o : Out) : (s.emit o).ditch = s.ditch := rfl

/-! ## modHub -/

@[simp] theorem State.modHub_pending (f : Hub → Hub) : (s.modHub f).pending = s.pending := rfl
@[simp] theorem State.modHub_out (f : Hub → Hub) : (s.modHub f).out = s.out := rfl
@[simp] theorem State.modHub_freeCtr (f : Hub → Hub) : (s.modHub f).freeCtr = s.freeCtr := rfl
@[simp] theorem State.modHub_now (f : Hub → Hub) : (s.modHub f).now = s.now := rfl
@[simp] theorem State.modHub_grade (f : Hub → Hub) : (s.modHub f).grade = s.grade := rfl
@[simp] theorem State.modHub_mem (f : Hub → Hub) : (s.modHub f).mem = s.mem := rfl
@[simp] theorem State.modHub_hub (f : Hub → Hub) : (s.modHub f).hub = f s.hub := rfl
@[simp] theorem State.modHub_port (f : Hub → Hub) : (s.modHub f).port = s.port := rfl
@[simp] theorem State.modHub_power (f : Hub → Hub) : (s.modHub f).power = s.power := rfl
@[simp] theorem State.modHub_sideband (f : Hub → Hub) : (s.modHub f).sideband = s.sideband := rfl
@[simp] theorem State.modHub_ctxs (f : Hub → Hub) : (s.modHub f).ctxs = s.ctxs := rfl
@[simp] theorem State.modHub_fields (f : Hub → Hub) : (s.modHub f).fields = s.fields := rfl
@[simp] theorem State.modHub_hbmStacks (f : Hub → Hub) : (s.modHub f).hbmStacks = s.hbmStacks := rfl
@[simp] theorem State.modHub_links (f : Hub → Hub) : (s.modHub f).links = s.links := rfl
@[simp] theorem State.modHub_rings (f : Hub → Hub) : (s.modHub f).rings = s.rings := rfl
@[simp] theorem State.modHub_evc (f : Hub → Hub) : (s.modHub f).evc = s.evc := rfl
@[simp] theorem State.modHub_ditch (f : Hub → Hub) : (s.modHub f).ditch = s.ditch := rfl

/-! ## modPort -/

@[simp] theorem State.modPort_pending (f : Port → Port) : (s.modPort f).pending = s.pending := rfl
@[simp] theorem State.modPort_out (f : Port → Port) : (s.modPort f).out = s.out := rfl
@[simp] theorem State.modPort_freeCtr (f : Port → Port) : (s.modPort f).freeCtr = s.freeCtr := rfl
@[simp] theorem State.modPort_now (f : Port → Port) : (s.modPort f).now = s.now := rfl
@[simp] theorem State.modPort_grade (f : Port → Port) : (s.modPort f).grade = s.grade := rfl
@[simp] theorem State.modPort_mem (f : Port → Port) : (s.modPort f).mem = s.mem := rfl
@[simp] theorem State.modPort_hub (f : Port → Port) : (s.modPort f).hub = s.hub := rfl
@[simp] theorem State.modPort_port (f : Port → Port) : (s.modPort f).port = f s.port := rfl
@[simp] theorem State.modPort_power (f : Port → Port) : (s.modPort f).power = s.power := rfl
@[simp] theorem State.modPort_sideband (f : Port → Port) : (s.modPort f).sideband = s.sideband := rfl
@[simp] theorem State.modPort_ctxs (f : Port → Port) : (s.modPort f).ctxs = s.ctxs := rfl
@[simp] theorem State.modPort_fields (f : Port → Port) : (s.modPort f).fields = s.fields := rfl
@[simp] theorem State.modPort_hbmStacks (f : Port → Port) : (s.modPort f).hbmStacks = s.hbmStacks := rfl
@[simp] theorem State.modPort_links (f : Port → Port) : (s.modPort f).links = s.links := rfl
@[simp] theorem State.modPort_rings (f : Port → Port) : (s.modPort f).rings = s.rings := rfl
@[simp] theorem State.modPort_evc (f : Port → Port) : (s.modPort f).evc = s.evc := rfl
@[simp] theorem State.modPort_ditch (f : Port → Port) : (s.modPort f).ditch = s.ditch := rfl

/-! ## modPower -/

@[simp] theorem State.modPower_pending (f : Power → Power) : (s.modPower f).pending = s.pending := rfl
@[simp] theorem State.modPower_out (f : Power → Power) : (s.modPower f).out = s.out := rfl
@[simp] theorem State.modPower_freeCtr (f : Power → Power) : (s.modPower f).freeCtr = s.freeCtr := rfl
@[simp] theorem State.modPower_now (f : Power → Power) : (s.modPower f).now = s.now := rfl
@[simp] theorem State.modPower_grade (f : Power → Power) : (s.modPower f).grade = s.grade := rfl
@[simp] theorem State.modPower_mem (f : Power → Power) : (s.modPower f).mem = s.mem := rfl
@[simp] theorem State.modPower_hub (f : Power → Power) : (s.modPower f).hub = s.hub := rfl
@[simp] theorem State.modPower_port (f : Power → Power) : (s.modPower f).port = s.port := rfl
@[simp] theorem State.modPower_power (f : Power → Power) : (s.modPower f).power = f s.power := rfl
@[simp] theorem State.modPower_sideband (f : Power → Power) : (s.modPower f).sideband = s.sideband := rfl
@[simp] theorem State.modPower_ctxs (f : Power → Power) : (s.modPower f).ctxs = s.ctxs := rfl
@[simp] theorem State.modPower_fields (f : Power → Power) : (s.modPower f).fields = s.fields := rfl
@[simp] theorem State.modPower_hbmStacks (f : Power → Power) : (s.modPower f).hbmStacks = s.hbmStacks := rfl
@[simp] theorem State.modPower_links (f : Power → Power) : (s.modPower f).links = s.links := rfl
@[simp] theorem State.modPower_rings (f : Power → Power) : (s.modPower f).rings = s.rings := rfl
@[simp] theorem State.modPower_evc (f : Power → Power) : (s.modPower f).evc = s.evc := rfl
@[simp] theorem State.modPower_ditch (f : Power → Power) : (s.modPower f).ditch = s.ditch := rfl

/-! ## modSideband -/

@[simp] theorem State.modSideband_pending (f : Sideband → Sideband) : (s.modSideband f).pending = s.pending := rfl
@[simp] theorem State.modSideband_out (f : Sideband → Sideband) : (s.modSideband f).out = s.out := rfl
@[simp] theorem State.modSideband_freeCtr (f : Sideband → Sideband) : (s.modSideband f).freeCtr = s.freeCtr := rfl
@[simp] theorem State.modSideband_now (f : Sideband → Sideband) : (s.modSideband f).now = s.now := rfl
@[simp] theorem State.modSideband_grade (f : Sideband → Sideband) : (s.modSideband f).grade = s.grade := rfl
@[simp] theorem State.modSideband_mem (f : Sideband → Sideband) : (s.modSideband f).mem = s.mem := rfl
@[simp] theorem State.modSideband_hub (f : Sideband → Sideband) : (s.modSideband f).hub = s.hub := rfl
@[simp] theorem State.modSideband_port (f : Sideband → Sideband) : (s.modSideband f).port = s.port := rfl
@[simp] theorem State.modSideband_power (f : Sideband → Sideband) : (s.modSideband f).power = s.power := rfl
@[simp] theorem State.modSideband_sideband (f : Sideband → Sideband) : (s.modSideband f).sideband = f s.sideband := rfl
@[simp] theorem State.modSideband_ctxs (f : Sideband → Sideband) : (s.modSideband f).ctxs = s.ctxs := rfl
@[simp] theorem State.modSideband_fields (f : Sideband → Sideband) : (s.modSideband f).fields = s.fields := rfl
@[simp] theorem State.modSideband_hbmStacks (f : Sideband → Sideband) : (s.modSideband f).hbmStacks = s.hbmStacks := rfl
@[simp] theorem State.modSideband_links (f : Sideband → Sideband) : (s.modSideband f).links = s.links := rfl
@[simp] theorem State.modSideband_rings (f : Sideband → Sideband) : (s.modSideband f).rings = s.rings := rfl
@[simp] theorem State.modSideband_evc (f : Sideband → Sideband) : (s.modSideband f).evc = s.evc := rfl
@[simp] theorem State.modSideband_ditch (f : Sideband → Sideband) : (s.modSideband f).ditch = s.ditch := rfl

/-! ## modCtx -/

@[simp] theorem State.modCtx_pending (i : Nat) (f : Ctx → Ctx) : (s.modCtx i f).pending = s.pending := rfl
@[simp] theorem State.modCtx_out (i : Nat) (f : Ctx → Ctx) : (s.modCtx i f).out = s.out := rfl
@[simp] theorem State.modCtx_freeCtr (i : Nat) (f : Ctx → Ctx) : (s.modCtx i f).freeCtr = s.freeCtr := rfl
@[simp] theorem State.modCtx_now (i : Nat) (f : Ctx → Ctx) : (s.modCtx i f).now = s.now := rfl
@[simp] theorem State.modCtx_grade (i : Nat) (f : Ctx → Ctx) : (s.modCtx i f).grade = s.grade := rfl
@[simp] theorem State.modCtx_mem (i : Nat) (f : Ctx → Ctx) : (s.modCtx i f).mem = s.mem := rfl
@[simp] theorem State.modCtx_hub (i : Nat) (f : Ctx → Ctx) : (s.modCtx i f).hub = s.hub := rfl
@[simp] theorem State.modCtx_port (i : Nat) (f : Ctx → Ctx) : (s.modCtx i f).port = s.port := rfl
@[simp] theorem State.modCtx_power (i : Nat) (f : Ctx → Ctx) : (s.modCtx i f).power = s.power := rfl
@[simp] theorem State.modCtx_sideband (i : Nat) (f : Ctx → Ctx) : (s.modCtx i f).sideband = s.sideband := rfl
@[simp] theorem State.modCtx_ctxs (i : Nat) (f : Ctx → Ctx) : (s.modCtx i f).ctxs = s.ctxs.modify i f := rfl
@[simp] theorem State.modCtx_fields (i : Nat) (f : Ctx → Ctx) : (s.modCtx i f).fields = s.fields := rfl
@[simp] theorem State.modCtx_hbmStacks (i : Nat) (f : Ctx → Ctx) : (s.modCtx i f).hbmStacks = s.hbmStacks := rfl
@[simp] theorem State.modCtx_links (i : Nat) (f : Ctx → Ctx) : (s.modCtx i f).links = s.links := rfl
@[simp] theorem State.modCtx_rings (i : Nat) (f : Ctx → Ctx) : (s.modCtx i f).rings = s.rings := rfl
@[simp] theorem State.modCtx_evc (i : Nat) (f : Ctx → Ctx) : (s.modCtx i f).evc = s.evc := rfl
@[simp] theorem State.modCtx_ditch (i : Nat) (f : Ctx → Ctx) : (s.modCtx i f).ditch = s.ditch := rfl

/-! ## modField -/

@[simp] theorem State.modField_pending (i : Nat) (f : Field → Field) : (s.modField i f).pending = s.pending := rfl
@[simp] theorem State.modField_out (i : Nat) (f : Field → Field) : (s.modField i f).out = s.out := rfl
@[simp] theorem State.modField_freeCtr (i : Nat) (f : Field → Field) : (s.modField i f).freeCtr = s.freeCtr := rfl
@[simp] theorem State.modField_now (i : Nat) (f : Field → Field) : (s.modField i f).now = s.now := rfl
@[simp] theorem State.modField_grade (i : Nat) (f : Field → Field) : (s.modField i f).grade = s.grade := rfl
@[simp] theorem State.modField_mem (i : Nat) (f : Field → Field) : (s.modField i f).mem = s.mem := rfl
@[simp] theorem State.modField_hub (i : Nat) (f : Field → Field) : (s.modField i f).hub = s.hub := rfl
@[simp] theorem State.modField_port (i : Nat) (f : Field → Field) : (s.modField i f).port = s.port := rfl
@[simp] theorem State.modField_power (i : Nat) (f : Field → Field) : (s.modField i f).power = s.power := rfl
@[simp] theorem State.modField_sideband (i : Nat) (f : Field → Field) : (s.modField i f).sideband = s.sideband := rfl
@[simp] theorem State.modField_ctxs (i : Nat) (f : Field → Field) : (s.modField i f).ctxs = s.ctxs := rfl
@[simp] theorem State.modField_fields (i : Nat) (f : Field → Field) : (s.modField i f).fields = s.fields.modify i f := rfl
@[simp] theorem State.modField_hbmStacks (i : Nat) (f : Field → Field) : (s.modField i f).hbmStacks = s.hbmStacks := rfl
@[simp] theorem State.modField_links (i : Nat) (f : Field → Field) : (s.modField i f).links = s.links := rfl
@[simp] theorem State.modField_rings (i : Nat) (f : Field → Field) : (s.modField i f).rings = s.rings := rfl
@[simp] theorem State.modField_evc (i : Nat) (f : Field → Field) : (s.modField i f).evc = s.evc := rfl
@[simp] theorem State.modField_ditch (i : Nat) (f : Field → Field) : (s.modField i f).ditch = s.ditch := rfl

/-! ## modStack -/

@[simp] theorem State.modStack_pending (i : Nat) (f : Stack → Stack) : (s.modStack i f).pending = s.pending := rfl
@[simp] theorem State.modStack_out (i : Nat) (f : Stack → Stack) : (s.modStack i f).out = s.out := rfl
@[simp] theorem State.modStack_freeCtr (i : Nat) (f : Stack → Stack) : (s.modStack i f).freeCtr = s.freeCtr := rfl
@[simp] theorem State.modStack_now (i : Nat) (f : Stack → Stack) : (s.modStack i f).now = s.now := rfl
@[simp] theorem State.modStack_grade (i : Nat) (f : Stack → Stack) : (s.modStack i f).grade = s.grade := rfl
@[simp] theorem State.modStack_mem (i : Nat) (f : Stack → Stack) : (s.modStack i f).mem = s.mem := rfl
@[simp] theorem State.modStack_hub (i : Nat) (f : Stack → Stack) : (s.modStack i f).hub = s.hub := rfl
@[simp] theorem State.modStack_port (i : Nat) (f : Stack → Stack) : (s.modStack i f).port = s.port := rfl
@[simp] theorem State.modStack_power (i : Nat) (f : Stack → Stack) : (s.modStack i f).power = s.power := rfl
@[simp] theorem State.modStack_sideband (i : Nat) (f : Stack → Stack) : (s.modStack i f).sideband = s.sideband := rfl
@[simp] theorem State.modStack_ctxs (i : Nat) (f : Stack → Stack) : (s.modStack i f).ctxs = s.ctxs := rfl
@[simp] theorem State.modStack_fields (i : Nat) (f : Stack → Stack) : (s.modStack i f).fields = s.fields := rfl
@[simp] theorem State.modStack_hbmStacks (i : Nat) (f : Stack → Stack) : (s.modStack i f).hbmStacks = s.hbmStacks.modify i f := rfl
@[simp] theorem State.modStack_links (i : Nat) (f : Stack → Stack) : (s.modStack i f).links = s.links := rfl
@[simp] theorem State.modStack_rings (i : Nat) (f : Stack → Stack) : (s.modStack i f).rings = s.rings := rfl
@[simp] theorem State.modStack_evc (i : Nat) (f : Stack → Stack) : (s.modStack i f).evc = s.evc := rfl
@[simp] theorem State.modStack_ditch (i : Nat) (f : Stack → Stack) : (s.modStack i f).ditch = s.ditch := rfl

/-! ## modLink -/

@[simp] theorem State.modLink_pending (i : Nat) (f : Link → Link) : (s.modLink i f).pending = s.pending := rfl
@[simp] theorem State.modLink_out (i : Nat) (f : Link → Link) : (s.modLink i f).out = s.out := rfl
@[simp] theorem State.modLink_freeCtr (i : Nat) (f : Link → Link) : (s.modLink i f).freeCtr = s.freeCtr := rfl
@[simp] theorem State.modLink_now (i : Nat) (f : Link → Link) : (s.modLink i f).now = s.now := rfl
@[simp] theorem State.modLink_grade (i : Nat) (f : Link → Link) : (s.modLink i f).grade = s.grade := rfl
@[simp] theorem State.modLink_mem (i : Nat) (f : Link → Link) : (s.modLink i f).mem = s.mem := rfl
@[simp] theorem State.modLink_hub (i : Nat) (f : Link → Link) : (s.modLink i f).hub = s.hub := rfl
@[simp] theorem State.modLink_port (i : Nat) (f : Link → Link) : (s.modLink i f).port = s.port := rfl
@[simp] theorem State.modLink_power (i : Nat) (f : Link → Link) : (s.modLink i f).power = s.power := rfl
@[simp] theorem State.modLink_sideband (i : Nat) (f : Link → Link) : (s.modLink i f).sideband = s.sideband := rfl
@[simp] theorem State.modLink_ctxs (i : Nat) (f : Link → Link) : (s.modLink i f).ctxs = s.ctxs := rfl
@[simp] theorem State.modLink_fields (i : Nat) (f : Link → Link) : (s.modLink i f).fields = s.fields := rfl
@[simp] theorem State.modLink_hbmStacks (i : Nat) (f : Link → Link) : (s.modLink i f).hbmStacks = s.hbmStacks := rfl
@[simp] theorem State.modLink_links (i : Nat) (f : Link → Link) : (s.modLink i f).links = s.links.modify i f := rfl
@[simp] theorem State.modLink_rings (i : Nat) (f : Link → Link) : (s.modLink i f).rings = s.rings := rfl
@[simp] theorem State.modLink_evc (i : Nat) (f : Link → Link) : (s.modLink i f).evc = s.evc := rfl
@[simp] theorem State.modLink_ditch (i : Nat) (f : Link → Link) : (s.modLink i f).ditch = s.ditch := rfl

/-! ## modRing -/

@[simp] theorem State.modRing_pending (i : Nat) (f : Ring → Ring) : (s.modRing i f).pending = s.pending := rfl
@[simp] theorem State.modRing_out (i : Nat) (f : Ring → Ring) : (s.modRing i f).out = s.out := rfl
@[simp] theorem State.modRing_freeCtr (i : Nat) (f : Ring → Ring) : (s.modRing i f).freeCtr = s.freeCtr := rfl
@[simp] theorem State.modRing_now (i : Nat) (f : Ring → Ring) : (s.modRing i f).now = s.now := rfl
@[simp] theorem State.modRing_grade (i : Nat) (f : Ring → Ring) : (s.modRing i f).grade = s.grade := rfl
@[simp] theorem State.modRing_mem (i : Nat) (f : Ring → Ring) : (s.modRing i f).mem = s.mem := rfl
@[simp] theorem State.modRing_hub (i : Nat) (f : Ring → Ring) : (s.modRing i f).hub = s.hub := rfl
@[simp] theorem State.modRing_port (i : Nat) (f : Ring → Ring) : (s.modRing i f).port = s.port := rfl
@[simp] theorem State.modRing_power (i : Nat) (f : Ring → Ring) : (s.modRing i f).power = s.power := rfl
@[simp] theorem State.modRing_sideband (i : Nat) (f : Ring → Ring) : (s.modRing i f).sideband = s.sideband := rfl
@[simp] theorem State.modRing_ctxs (i : Nat) (f : Ring → Ring) : (s.modRing i f).ctxs = s.ctxs := rfl
@[simp] theorem State.modRing_fields (i : Nat) (f : Ring → Ring) : (s.modRing i f).fields = s.fields := rfl
@[simp] theorem State.modRing_hbmStacks (i : Nat) (f : Ring → Ring) : (s.modRing i f).hbmStacks = s.hbmStacks := rfl
@[simp] theorem State.modRing_links (i : Nat) (f : Ring → Ring) : (s.modRing i f).links = s.links := rfl
@[simp] theorem State.modRing_rings (i : Nat) (f : Ring → Ring) : (s.modRing i f).rings = s.rings.modify i f := rfl
@[simp] theorem State.modRing_evc (i : Nat) (f : Ring → Ring) : (s.modRing i f).evc = s.evc := rfl
@[simp] theorem State.modRing_ditch (i : Nat) (f : Ring → Ring) : (s.modRing i f).ditch = s.ditch := rfl

/-! ## modEvc -/

@[simp] theorem State.modEvc_pending (f : List (Nat × EvcSrc) → List (Nat × EvcSrc)) : (s.modEvc f).pending = s.pending := rfl
@[simp] theorem State.modEvc_out (f : List (Nat × EvcSrc) → List (Nat × EvcSrc)) : (s.modEvc f).out = s.out := rfl
@[simp] theorem State.modEvc_freeCtr (f : List (Nat × EvcSrc) → List (Nat × EvcSrc)) : (s.modEvc f).freeCtr = s.freeCtr := rfl
@[simp] theorem State.modEvc_now (f : List (Nat × EvcSrc) → List (Nat × EvcSrc)) : (s.modEvc f).now = s.now := rfl
@[simp] theorem State.modEvc_grade (f : List (Nat × EvcSrc) → List (Nat × EvcSrc)) : (s.modEvc f).grade = s.grade := rfl
@[simp] theorem State.modEvc_mem (f : List (Nat × EvcSrc) → List (Nat × EvcSrc)) : (s.modEvc f).mem = s.mem := rfl
@[simp] theorem State.modEvc_hub (f : List (Nat × EvcSrc) → List (Nat × EvcSrc)) : (s.modEvc f).hub = s.hub := rfl
@[simp] theorem State.modEvc_port (f : List (Nat × EvcSrc) → List (Nat × EvcSrc)) : (s.modEvc f).port = s.port := rfl
@[simp] theorem State.modEvc_power (f : List (Nat × EvcSrc) → List (Nat × EvcSrc)) : (s.modEvc f).power = s.power := rfl
@[simp] theorem State.modEvc_sideband (f : List (Nat × EvcSrc) → List (Nat × EvcSrc)) : (s.modEvc f).sideband = s.sideband := rfl
@[simp] theorem State.modEvc_ctxs (f : List (Nat × EvcSrc) → List (Nat × EvcSrc)) : (s.modEvc f).ctxs = s.ctxs := rfl
@[simp] theorem State.modEvc_fields (f : List (Nat × EvcSrc) → List (Nat × EvcSrc)) : (s.modEvc f).fields = s.fields := rfl
@[simp] theorem State.modEvc_hbmStacks (f : List (Nat × EvcSrc) → List (Nat × EvcSrc)) : (s.modEvc f).hbmStacks = s.hbmStacks := rfl
@[simp] theorem State.modEvc_links (f : List (Nat × EvcSrc) → List (Nat × EvcSrc)) : (s.modEvc f).links = s.links := rfl
@[simp] theorem State.modEvc_rings (f : List (Nat × EvcSrc) → List (Nat × EvcSrc)) : (s.modEvc f).rings = s.rings := rfl
@[simp] theorem State.modEvc_evc (f : List (Nat × EvcSrc) → List (Nat × EvcSrc)) : (s.modEvc f).evc = f s.evc := rfl
@[simp] theorem State.modEvc_ditch (f : List (Nat × EvcSrc) → List (Nat × EvcSrc)) : (s.modEvc f).ditch = s.ditch := rfl

/-! ## modDitch -/

@[simp] theorem State.modDitch_pending (f : Ditch → Ditch) : (s.modDitch f).pending = s.pending := rfl
@[simp] theorem State.modDitch_out (f : Ditch → Ditch) : (s.modDitch f).out = s.out := rfl
@[simp] theorem State.modDitch_freeCtr (f : Ditch → Ditch) : (s.modDitch f).freeCtr = s.freeCtr := rfl
@[simp] theorem State.modDitch_now (f : Ditch → Ditch) : (s.modDitch f).now = s.now := rfl
@[simp] theorem State.modDitch_grade (f : Ditch → Ditch) : (s.modDitch f).grade = s.grade := rfl
@[simp] theorem State.modDitch_mem (f : Ditch → Ditch) : (s.modDitch f).mem = s.mem := rfl
@[simp] theorem State.modDitch_hub (f : Ditch → Ditch) : (s.modDitch f).hub = s.hub := rfl
@[simp] theorem State.modDitch_port (f : Ditch → Ditch) : (s.modDitch f).port = s.port := rfl
@[simp] theorem State.modDitch_power (f : Ditch → Ditch) : (s.modDitch f).power = s.power := rfl
@[simp] theorem State.modDitch_sideband (f : Ditch → Ditch) : (s.modDitch f).sideband = s.sideband := rfl
@[simp] theorem State.modDitch_ctxs (f : Ditch → Ditch) : (s.modDitch f).ctxs = s.ctxs := rfl
@[simp] theorem State.modDitch_fields (f : Ditch → Ditch) : (s.modDitch f).fields = s.fields := rfl
@[simp] theorem State.modDitch_hbmStacks (f : Ditch → Ditch) : (s.modDitch f).hbmStacks = s.hbmStacks := rfl
@[simp] theorem State.modDitch_links (f : Ditch → Ditch) : (s.modDitch f).links = s.links := rfl
@[simp] theorem State.modDitch_rings (f : Ditch → Ditch) : (s.modDitch f).rings = s.rings := rfl
@[simp] theorem State.modDitch_evc (f : Ditch → Ditch) : (s.modDitch f).evc = s.evc := rfl
@[simp] theorem State.modDitch_ditch (f : Ditch → Ditch) : (s.modDitch f).ditch = f s.ditch := rfl

/-! ## memWrite -/

@[simp] theorem State.memWrite_pending (k : Nat) (bs : List Byte) : (s.memWrite k bs).pending = s.pending := rfl
@[simp] theorem State.memWrite_out (k : Nat) (bs : List Byte) : (s.memWrite k bs).out = s.out := rfl
@[simp] theorem State.memWrite_freeCtr (k : Nat) (bs : List Byte) : (s.memWrite k bs).freeCtr = s.freeCtr := rfl
@[simp] theorem State.memWrite_now (k : Nat) (bs : List Byte) : (s.memWrite k bs).now = s.now := rfl
@[simp] theorem State.memWrite_grade (k : Nat) (bs : List Byte) : (s.memWrite k bs).grade = s.grade := rfl
@[simp] theorem State.memWrite_mem (k : Nat) (bs : List Byte) : (s.memWrite k bs).mem = s.mem.write k bs := rfl
@[simp] theorem State.memWrite_hub (k : Nat) (bs : List Byte) : (s.memWrite k bs).hub = s.hub := rfl
@[simp] theorem State.memWrite_port (k : Nat) (bs : List Byte) : (s.memWrite k bs).port = s.port := rfl
@[simp] theorem State.memWrite_power (k : Nat) (bs : List Byte) : (s.memWrite k bs).power = s.power := rfl
@[simp] theorem State.memWrite_sideband (k : Nat) (bs : List Byte) : (s.memWrite k bs).sideband = s.sideband := rfl
@[simp] theorem State.memWrite_ctxs (k : Nat) (bs : List Byte) : (s.memWrite k bs).ctxs = s.ctxs := rfl
@[simp] theorem State.memWrite_fields (k : Nat) (bs : List Byte) : (s.memWrite k bs).fields = s.fields := rfl
@[simp] theorem State.memWrite_hbmStacks (k : Nat) (bs : List Byte) : (s.memWrite k bs).hbmStacks = s.hbmStacks := rfl
@[simp] theorem State.memWrite_links (k : Nat) (bs : List Byte) : (s.memWrite k bs).links = s.links := rfl
@[simp] theorem State.memWrite_rings (k : Nat) (bs : List Byte) : (s.memWrite k bs).rings = s.rings := rfl
@[simp] theorem State.memWrite_evc (k : Nat) (bs : List Byte) : (s.memWrite k bs).evc = s.evc := rfl
@[simp] theorem State.memWrite_ditch (k : Nat) (bs : List Byte) : (s.memWrite k bs).ditch = s.ditch := rfl

/-! ## memPoison -/

@[simp] theorem State.memPoison_pending (lo hi : Nat) : (s.memPoison lo hi).pending = s.pending := rfl
@[simp] theorem State.memPoison_out (lo hi : Nat) : (s.memPoison lo hi).out = s.out := rfl
@[simp] theorem State.memPoison_freeCtr (lo hi : Nat) : (s.memPoison lo hi).freeCtr = s.freeCtr := rfl
@[simp] theorem State.memPoison_now (lo hi : Nat) : (s.memPoison lo hi).now = s.now := rfl
@[simp] theorem State.memPoison_grade (lo hi : Nat) : (s.memPoison lo hi).grade = s.grade := rfl
@[simp] theorem State.memPoison_mem (lo hi : Nat) : (s.memPoison lo hi).mem = s.mem.poison lo hi := rfl
@[simp] theorem State.memPoison_hub (lo hi : Nat) : (s.memPoison lo hi).hub = s.hub := rfl
@[simp] theorem State.memPoison_port (lo hi : Nat) : (s.memPoison lo hi).port = s.port := rfl
@[simp] theorem State.memPoison_power (lo hi : Nat) : (s.memPoison lo hi).power = s.power := rfl
@[simp] theorem State.memPoison_sideband (lo hi : Nat) : (s.memPoison lo hi).sideband = s.sideband := rfl
@[simp] theorem State.memPoison_ctxs (lo hi : Nat) : (s.memPoison lo hi).ctxs = s.ctxs := rfl
@[simp] theorem State.memPoison_fields (lo hi : Nat) : (s.memPoison lo hi).fields = s.fields := rfl
@[simp] theorem State.memPoison_hbmStacks (lo hi : Nat) : (s.memPoison lo hi).hbmStacks = s.hbmStacks := rfl
@[simp] theorem State.memPoison_links (lo hi : Nat) : (s.memPoison lo hi).links = s.links := rfl
@[simp] theorem State.memPoison_rings (lo hi : Nat) : (s.memPoison lo hi).rings = s.rings := rfl
@[simp] theorem State.memPoison_evc (lo hi : Nat) : (s.memPoison lo hi).evc = s.evc := rfl
@[simp] theorem State.memPoison_ditch (lo hi : Nat) : (s.memPoison lo hi).ditch = s.ditch := rfl

/-! ## memAwait -/

@[simp] theorem State.memAwait_pending (w : Nat) : (s.memAwait w).pending = s.pending := rfl
@[simp] theorem State.memAwait_out (w : Nat) : (s.memAwait w).out = s.out := rfl
@[simp] theorem State.memAwait_freeCtr (w : Nat) : (s.memAwait w).freeCtr = s.freeCtr := rfl
@[simp] theorem State.memAwait_now (w : Nat) : (s.memAwait w).now = s.now := rfl
@[simp] theorem State.memAwait_grade (w : Nat) : (s.memAwait w).grade = s.grade := rfl
@[simp] theorem State.memAwait_hub (w : Nat) : (s.memAwait w).hub = s.hub := rfl
@[simp] theorem State.memAwait_port (w : Nat) : (s.memAwait w).port = s.port := rfl
@[simp] theorem State.memAwait_power (w : Nat) : (s.memAwait w).power = s.power := rfl
@[simp] theorem State.memAwait_sideband (w : Nat) : (s.memAwait w).sideband = s.sideband := rfl
@[simp] theorem State.memAwait_ctxs (w : Nat) : (s.memAwait w).ctxs = s.ctxs := rfl
@[simp] theorem State.memAwait_fields (w : Nat) : (s.memAwait w).fields = s.fields := rfl
@[simp] theorem State.memAwait_hbmStacks (w : Nat) : (s.memAwait w).hbmStacks = s.hbmStacks := rfl
@[simp] theorem State.memAwait_links (w : Nat) : (s.memAwait w).links = s.links := rfl
@[simp] theorem State.memAwait_rings (w : Nat) : (s.memAwait w).rings = s.rings := rfl
@[simp] theorem State.memAwait_evc (w : Nat) : (s.memAwait w).evc = s.evc := rfl
@[simp] theorem State.memAwait_ditch (w : Nat) : (s.memAwait w).ditch = s.ditch := rfl

/-! ## memScrub -/

@[simp] theorem State.memScrub_pending (w : Nat) : (s.memScrub w).pending = s.pending := rfl
@[simp] theorem State.memScrub_out (w : Nat) : (s.memScrub w).out = s.out := rfl
@[simp] theorem State.memScrub_freeCtr (w : Nat) : (s.memScrub w).freeCtr = s.freeCtr := rfl
@[simp] theorem State.memScrub_now (w : Nat) : (s.memScrub w).now = s.now := rfl
@[simp] theorem State.memScrub_grade (w : Nat) : (s.memScrub w).grade = s.grade := rfl
@[simp] theorem State.memScrub_hub (w : Nat) : (s.memScrub w).hub = s.hub := rfl
@[simp] theorem State.memScrub_port (w : Nat) : (s.memScrub w).port = s.port := rfl
@[simp] theorem State.memScrub_power (w : Nat) : (s.memScrub w).power = s.power := rfl
@[simp] theorem State.memScrub_sideband (w : Nat) : (s.memScrub w).sideband = s.sideband := rfl
@[simp] theorem State.memScrub_ctxs (w : Nat) : (s.memScrub w).ctxs = s.ctxs := rfl
@[simp] theorem State.memScrub_fields (w : Nat) : (s.memScrub w).fields = s.fields := rfl
@[simp] theorem State.memScrub_hbmStacks (w : Nat) : (s.memScrub w).hbmStacks = s.hbmStacks := rfl
@[simp] theorem State.memScrub_links (w : Nat) : (s.memScrub w).links = s.links := rfl
@[simp] theorem State.memScrub_rings (w : Nat) : (s.memScrub w).rings = s.rings := rfl
@[simp] theorem State.memScrub_evc (w : Nat) : (s.memScrub w).evc = s.evc := rfl
@[simp] theorem State.memScrub_ditch (w : Nat) : (s.memScrub w).ditch = s.ditch := rfl

/-! ## memUpset -/

@[simp] theorem State.memUpset_pending (l : List (Nat × BitVec 72)) : (s.memUpset l).pending = s.pending := rfl
@[simp] theorem State.memUpset_out (l : List (Nat × BitVec 72)) : (s.memUpset l).out = s.out := rfl
@[simp] theorem State.memUpset_freeCtr (l : List (Nat × BitVec 72)) : (s.memUpset l).freeCtr = s.freeCtr := rfl
@[simp] theorem State.memUpset_now (l : List (Nat × BitVec 72)) : (s.memUpset l).now = s.now := rfl
@[simp] theorem State.memUpset_grade (l : List (Nat × BitVec 72)) : (s.memUpset l).grade = s.grade := rfl
@[simp] theorem State.memUpset_mem (l : List (Nat × BitVec 72)) : (s.memUpset l).mem = s.mem.upset l := rfl
@[simp] theorem State.memUpset_hub (l : List (Nat × BitVec 72)) : (s.memUpset l).hub = s.hub := rfl
@[simp] theorem State.memUpset_port (l : List (Nat × BitVec 72)) : (s.memUpset l).port = s.port := rfl
@[simp] theorem State.memUpset_power (l : List (Nat × BitVec 72)) : (s.memUpset l).power = s.power := rfl
@[simp] theorem State.memUpset_sideband (l : List (Nat × BitVec 72)) : (s.memUpset l).sideband = s.sideband := rfl
@[simp] theorem State.memUpset_ctxs (l : List (Nat × BitVec 72)) : (s.memUpset l).ctxs = s.ctxs := rfl
@[simp] theorem State.memUpset_fields (l : List (Nat × BitVec 72)) : (s.memUpset l).fields = s.fields := rfl
@[simp] theorem State.memUpset_hbmStacks (l : List (Nat × BitVec 72)) : (s.memUpset l).hbmStacks = s.hbmStacks := rfl
@[simp] theorem State.memUpset_links (l : List (Nat × BitVec 72)) : (s.memUpset l).links = s.links := rfl
@[simp] theorem State.memUpset_rings (l : List (Nat × BitVec 72)) : (s.memUpset l).rings = s.rings := rfl
@[simp] theorem State.memUpset_evc (l : List (Nat × BitVec 72)) : (s.memUpset l).evc = s.evc := rfl
@[simp] theorem State.memUpset_ditch (l : List (Nat × BitVec 72)) : (s.memUpset l).ditch = s.ditch := rfl

/-! ## The queue -/

@[simp] theorem State.withQueue_pending (q : List Instr) : (s.withQueue q).pending = q := rfl
@[simp] theorem State.withQueue_out (q : List Instr) : (s.withQueue q).out = s.out := rfl
@[simp] theorem State.withQueue_freeCtr (q : List Instr) : (s.withQueue q).freeCtr = s.freeCtr := rfl
@[simp] theorem State.withQueue_now (q : List Instr) : (s.withQueue q).now = s.now := rfl
@[simp] theorem State.withQueue_grade (q : List Instr) : (s.withQueue q).grade = s.grade := rfl
@[simp] theorem State.withQueue_mem (q : List Instr) : (s.withQueue q).mem = s.mem := rfl
@[simp] theorem State.withQueue_hub (q : List Instr) : (s.withQueue q).hub = s.hub := rfl
@[simp] theorem State.withQueue_port (q : List Instr) : (s.withQueue q).port = s.port := rfl
@[simp] theorem State.withQueue_power (q : List Instr) : (s.withQueue q).power = s.power := rfl
@[simp] theorem State.withQueue_sideband (q : List Instr) : (s.withQueue q).sideband = s.sideband := rfl
@[simp] theorem State.withQueue_ctxs (q : List Instr) : (s.withQueue q).ctxs = s.ctxs := rfl
@[simp] theorem State.withQueue_fields (q : List Instr) : (s.withQueue q).fields = s.fields := rfl
@[simp] theorem State.withQueue_hbmStacks (q : List Instr) : (s.withQueue q).hbmStacks = s.hbmStacks := rfl
@[simp] theorem State.withQueue_links (q : List Instr) : (s.withQueue q).links = s.links := rfl
@[simp] theorem State.withQueue_rings (q : List Instr) : (s.withQueue q).rings = s.rings := rfl
@[simp] theorem State.withQueue_evc (q : List Instr) : (s.withQueue q).evc = s.evc := rfl
@[simp] theorem State.withQueue_ditch (q : List Instr) : (s.withQueue q).ditch = s.ditch := rfl

/-! ## Accessors -/

/-- A part that is there holds its update. -/
theorem State.ctx_modCtx (i : Nat) (f : Ctx → Ctx) (h : i < s.ctxs.length) : (s.modCtx i f).ctx i = f (s.ctx i) := by
  simp [State.ctx, List.getD_eq_getElem?_getD, h]

/-- The others keep theirs. -/
theorem State.ctx_modCtx_ne (i j : Nat) (f : Ctx → Ctx) (h : i ≠ j) : (s.modCtx i f).ctx j = s.ctx j := by
  simp [State.ctx, List.getD_eq_getElem?_getD, h]

@[simp] theorem State.ctx_setNow (n : Nat) (j : Nat) : (s.setNow n).ctx j = s.ctx j := rfl
@[simp] theorem State.ctx_bumpFree (j : Nat) : (s.bumpFree).ctx j = s.ctx j := rfl
@[simp] theorem State.ctx_emit (o : Out) (j : Nat) : (s.emit o).ctx j = s.ctx j := rfl
@[simp] theorem State.ctx_modHub (f : Hub → Hub) (j : Nat) : (s.modHub f).ctx j = s.ctx j := rfl
@[simp] theorem State.ctx_modPort (f : Port → Port) (j : Nat) : (s.modPort f).ctx j = s.ctx j := rfl
@[simp] theorem State.ctx_modPower (f : Power → Power) (j : Nat) : (s.modPower f).ctx j = s.ctx j := rfl
@[simp] theorem State.ctx_modSideband (f : Sideband → Sideband) (j : Nat) : (s.modSideband f).ctx j = s.ctx j := rfl
@[simp] theorem State.ctx_modField (i : Nat) (f : Field → Field) (j : Nat) : (s.modField i f).ctx j = s.ctx j := rfl
@[simp] theorem State.ctx_modStack (i : Nat) (f : Stack → Stack) (j : Nat) : (s.modStack i f).ctx j = s.ctx j := rfl
@[simp] theorem State.ctx_modLink (i : Nat) (f : Link → Link) (j : Nat) : (s.modLink i f).ctx j = s.ctx j := rfl
@[simp] theorem State.ctx_modRing (i : Nat) (f : Ring → Ring) (j : Nat) : (s.modRing i f).ctx j = s.ctx j := rfl
@[simp] theorem State.ctx_modEvc (f : List (Nat × EvcSrc) → List (Nat × EvcSrc)) (j : Nat) : (s.modEvc f).ctx j = s.ctx j := rfl
@[simp] theorem State.ctx_modDitch (f : Ditch → Ditch) (j : Nat) : (s.modDitch f).ctx j = s.ctx j := rfl
@[simp] theorem State.ctx_memWrite (k : Nat) (bs : List Byte) (j : Nat) : (s.memWrite k bs).ctx j = s.ctx j := rfl
@[simp] theorem State.ctx_memPoison (lo hi : Nat) (j : Nat) : (s.memPoison lo hi).ctx j = s.ctx j := rfl
@[simp] theorem State.ctx_memAwait (w : Nat) (j : Nat) : (s.memAwait w).ctx j = s.ctx j := rfl
@[simp] theorem State.ctx_memScrub (w : Nat) (j : Nat) : (s.memScrub w).ctx j = s.ctx j := rfl
@[simp] theorem State.ctx_memUpset (l : List (Nat × BitVec 72)) (j : Nat) : (s.memUpset l).ctx j = s.ctx j := rfl
@[simp] theorem State.ctx_withQueue (q : List Instr) (j : Nat) : (s.withQueue q).ctx j = s.ctx j := rfl

/-- A part that is there holds its update. -/
theorem State.field_modField (i : Nat) (f : Field → Field) (h : i < s.fields.length) : (s.modField i f).field i = f (s.field i) := by
  simp [State.field, List.getD_eq_getElem?_getD, h]

/-- The others keep theirs. -/
theorem State.field_modField_ne (i j : Nat) (f : Field → Field) (h : i ≠ j) : (s.modField i f).field j = s.field j := by
  simp [State.field, List.getD_eq_getElem?_getD, h]

@[simp] theorem State.field_setNow (n : Nat) (j : Nat) : (s.setNow n).field j = s.field j := rfl
@[simp] theorem State.field_bumpFree (j : Nat) : (s.bumpFree).field j = s.field j := rfl
@[simp] theorem State.field_emit (o : Out) (j : Nat) : (s.emit o).field j = s.field j := rfl
@[simp] theorem State.field_modHub (f : Hub → Hub) (j : Nat) : (s.modHub f).field j = s.field j := rfl
@[simp] theorem State.field_modPort (f : Port → Port) (j : Nat) : (s.modPort f).field j = s.field j := rfl
@[simp] theorem State.field_modPower (f : Power → Power) (j : Nat) : (s.modPower f).field j = s.field j := rfl
@[simp] theorem State.field_modSideband (f : Sideband → Sideband) (j : Nat) : (s.modSideband f).field j = s.field j := rfl
@[simp] theorem State.field_modCtx (i : Nat) (f : Ctx → Ctx) (j : Nat) : (s.modCtx i f).field j = s.field j := rfl
@[simp] theorem State.field_modStack (i : Nat) (f : Stack → Stack) (j : Nat) : (s.modStack i f).field j = s.field j := rfl
@[simp] theorem State.field_modLink (i : Nat) (f : Link → Link) (j : Nat) : (s.modLink i f).field j = s.field j := rfl
@[simp] theorem State.field_modRing (i : Nat) (f : Ring → Ring) (j : Nat) : (s.modRing i f).field j = s.field j := rfl
@[simp] theorem State.field_modEvc (f : List (Nat × EvcSrc) → List (Nat × EvcSrc)) (j : Nat) : (s.modEvc f).field j = s.field j := rfl
@[simp] theorem State.field_modDitch (f : Ditch → Ditch) (j : Nat) : (s.modDitch f).field j = s.field j := rfl
@[simp] theorem State.field_memWrite (k : Nat) (bs : List Byte) (j : Nat) : (s.memWrite k bs).field j = s.field j := rfl
@[simp] theorem State.field_memPoison (lo hi : Nat) (j : Nat) : (s.memPoison lo hi).field j = s.field j := rfl
@[simp] theorem State.field_memAwait (w : Nat) (j : Nat) : (s.memAwait w).field j = s.field j := rfl
@[simp] theorem State.field_memScrub (w : Nat) (j : Nat) : (s.memScrub w).field j = s.field j := rfl
@[simp] theorem State.field_memUpset (l : List (Nat × BitVec 72)) (j : Nat) : (s.memUpset l).field j = s.field j := rfl
@[simp] theorem State.field_withQueue (q : List Instr) (j : Nat) : (s.withQueue q).field j = s.field j := rfl

/-- A part that is there holds its update. -/
theorem State.stack_modStack (i : Nat) (f : Stack → Stack) (h : i < s.hbmStacks.length) : (s.modStack i f).stack i = f (s.stack i) := by
  simp [State.stack, List.getD_eq_getElem?_getD, h]

/-- The others keep theirs. -/
theorem State.stack_modStack_ne (i j : Nat) (f : Stack → Stack) (h : i ≠ j) : (s.modStack i f).stack j = s.stack j := by
  simp [State.stack, List.getD_eq_getElem?_getD, h]

@[simp] theorem State.stack_setNow (n : Nat) (j : Nat) : (s.setNow n).stack j = s.stack j := rfl
@[simp] theorem State.stack_bumpFree (j : Nat) : (s.bumpFree).stack j = s.stack j := rfl
@[simp] theorem State.stack_emit (o : Out) (j : Nat) : (s.emit o).stack j = s.stack j := rfl
@[simp] theorem State.stack_modHub (f : Hub → Hub) (j : Nat) : (s.modHub f).stack j = s.stack j := rfl
@[simp] theorem State.stack_modPort (f : Port → Port) (j : Nat) : (s.modPort f).stack j = s.stack j := rfl
@[simp] theorem State.stack_modPower (f : Power → Power) (j : Nat) : (s.modPower f).stack j = s.stack j := rfl
@[simp] theorem State.stack_modSideband (f : Sideband → Sideband) (j : Nat) : (s.modSideband f).stack j = s.stack j := rfl
@[simp] theorem State.stack_modCtx (i : Nat) (f : Ctx → Ctx) (j : Nat) : (s.modCtx i f).stack j = s.stack j := rfl
@[simp] theorem State.stack_modField (i : Nat) (f : Field → Field) (j : Nat) : (s.modField i f).stack j = s.stack j := rfl
@[simp] theorem State.stack_modLink (i : Nat) (f : Link → Link) (j : Nat) : (s.modLink i f).stack j = s.stack j := rfl
@[simp] theorem State.stack_modRing (i : Nat) (f : Ring → Ring) (j : Nat) : (s.modRing i f).stack j = s.stack j := rfl
@[simp] theorem State.stack_modEvc (f : List (Nat × EvcSrc) → List (Nat × EvcSrc)) (j : Nat) : (s.modEvc f).stack j = s.stack j := rfl
@[simp] theorem State.stack_modDitch (f : Ditch → Ditch) (j : Nat) : (s.modDitch f).stack j = s.stack j := rfl
@[simp] theorem State.stack_memWrite (k : Nat) (bs : List Byte) (j : Nat) : (s.memWrite k bs).stack j = s.stack j := rfl
@[simp] theorem State.stack_memPoison (lo hi : Nat) (j : Nat) : (s.memPoison lo hi).stack j = s.stack j := rfl
@[simp] theorem State.stack_memAwait (w : Nat) (j : Nat) : (s.memAwait w).stack j = s.stack j := rfl
@[simp] theorem State.stack_memScrub (w : Nat) (j : Nat) : (s.memScrub w).stack j = s.stack j := rfl
@[simp] theorem State.stack_memUpset (l : List (Nat × BitVec 72)) (j : Nat) : (s.memUpset l).stack j = s.stack j := rfl
@[simp] theorem State.stack_withQueue (q : List Instr) (j : Nat) : (s.withQueue q).stack j = s.stack j := rfl

/-- A part that is there holds its update. -/
theorem State.link_modLink (i : Nat) (f : Link → Link) (h : i < s.links.length) : (s.modLink i f).link i = f (s.link i) := by
  simp [State.link, List.getD_eq_getElem?_getD, h]

/-- The others keep theirs. -/
theorem State.link_modLink_ne (i j : Nat) (f : Link → Link) (h : i ≠ j) : (s.modLink i f).link j = s.link j := by
  simp [State.link, List.getD_eq_getElem?_getD, h]

@[simp] theorem State.link_setNow (n : Nat) (j : Nat) : (s.setNow n).link j = s.link j := rfl
@[simp] theorem State.link_bumpFree (j : Nat) : (s.bumpFree).link j = s.link j := rfl
@[simp] theorem State.link_emit (o : Out) (j : Nat) : (s.emit o).link j = s.link j := rfl
@[simp] theorem State.link_modHub (f : Hub → Hub) (j : Nat) : (s.modHub f).link j = s.link j := rfl
@[simp] theorem State.link_modPort (f : Port → Port) (j : Nat) : (s.modPort f).link j = s.link j := rfl
@[simp] theorem State.link_modPower (f : Power → Power) (j : Nat) : (s.modPower f).link j = s.link j := rfl
@[simp] theorem State.link_modSideband (f : Sideband → Sideband) (j : Nat) : (s.modSideband f).link j = s.link j := rfl
@[simp] theorem State.link_modCtx (i : Nat) (f : Ctx → Ctx) (j : Nat) : (s.modCtx i f).link j = s.link j := rfl
@[simp] theorem State.link_modField (i : Nat) (f : Field → Field) (j : Nat) : (s.modField i f).link j = s.link j := rfl
@[simp] theorem State.link_modStack (i : Nat) (f : Stack → Stack) (j : Nat) : (s.modStack i f).link j = s.link j := rfl
@[simp] theorem State.link_modRing (i : Nat) (f : Ring → Ring) (j : Nat) : (s.modRing i f).link j = s.link j := rfl
@[simp] theorem State.link_modEvc (f : List (Nat × EvcSrc) → List (Nat × EvcSrc)) (j : Nat) : (s.modEvc f).link j = s.link j := rfl
@[simp] theorem State.link_modDitch (f : Ditch → Ditch) (j : Nat) : (s.modDitch f).link j = s.link j := rfl
@[simp] theorem State.link_memWrite (k : Nat) (bs : List Byte) (j : Nat) : (s.memWrite k bs).link j = s.link j := rfl
@[simp] theorem State.link_memPoison (lo hi : Nat) (j : Nat) : (s.memPoison lo hi).link j = s.link j := rfl
@[simp] theorem State.link_memAwait (w : Nat) (j : Nat) : (s.memAwait w).link j = s.link j := rfl
@[simp] theorem State.link_memScrub (w : Nat) (j : Nat) : (s.memScrub w).link j = s.link j := rfl
@[simp] theorem State.link_memUpset (l : List (Nat × BitVec 72)) (j : Nat) : (s.memUpset l).link j = s.link j := rfl
@[simp] theorem State.link_withQueue (q : List Instr) (j : Nat) : (s.withQueue q).link j = s.link j := rfl

/-- A part that is there holds its update. -/
theorem State.ring_modRing (i : Nat) (f : Ring → Ring) (h : i < s.rings.length) : (s.modRing i f).ring i = f (s.ring i) := by
  simp [State.ring, List.getD_eq_getElem?_getD, h]

/-- The others keep theirs. -/
theorem State.ring_modRing_ne (i j : Nat) (f : Ring → Ring) (h : i ≠ j) : (s.modRing i f).ring j = s.ring j := by
  simp [State.ring, List.getD_eq_getElem?_getD, h]

@[simp] theorem State.ring_setNow (n : Nat) (j : Nat) : (s.setNow n).ring j = s.ring j := rfl
@[simp] theorem State.ring_bumpFree (j : Nat) : (s.bumpFree).ring j = s.ring j := rfl
@[simp] theorem State.ring_emit (o : Out) (j : Nat) : (s.emit o).ring j = s.ring j := rfl
@[simp] theorem State.ring_modHub (f : Hub → Hub) (j : Nat) : (s.modHub f).ring j = s.ring j := rfl
@[simp] theorem State.ring_modPort (f : Port → Port) (j : Nat) : (s.modPort f).ring j = s.ring j := rfl
@[simp] theorem State.ring_modPower (f : Power → Power) (j : Nat) : (s.modPower f).ring j = s.ring j := rfl
@[simp] theorem State.ring_modSideband (f : Sideband → Sideband) (j : Nat) : (s.modSideband f).ring j = s.ring j := rfl
@[simp] theorem State.ring_modCtx (i : Nat) (f : Ctx → Ctx) (j : Nat) : (s.modCtx i f).ring j = s.ring j := rfl
@[simp] theorem State.ring_modField (i : Nat) (f : Field → Field) (j : Nat) : (s.modField i f).ring j = s.ring j := rfl
@[simp] theorem State.ring_modStack (i : Nat) (f : Stack → Stack) (j : Nat) : (s.modStack i f).ring j = s.ring j := rfl
@[simp] theorem State.ring_modLink (i : Nat) (f : Link → Link) (j : Nat) : (s.modLink i f).ring j = s.ring j := rfl
@[simp] theorem State.ring_modEvc (f : List (Nat × EvcSrc) → List (Nat × EvcSrc)) (j : Nat) : (s.modEvc f).ring j = s.ring j := rfl
@[simp] theorem State.ring_modDitch (f : Ditch → Ditch) (j : Nat) : (s.modDitch f).ring j = s.ring j := rfl
@[simp] theorem State.ring_memWrite (k : Nat) (bs : List Byte) (j : Nat) : (s.memWrite k bs).ring j = s.ring j := rfl
@[simp] theorem State.ring_memPoison (lo hi : Nat) (j : Nat) : (s.memPoison lo hi).ring j = s.ring j := rfl
@[simp] theorem State.ring_memAwait (w : Nat) (j : Nat) : (s.memAwait w).ring j = s.ring j := rfl
@[simp] theorem State.ring_memScrub (w : Nat) (j : Nat) : (s.memScrub w).ring j = s.ring j := rfl
@[simp] theorem State.ring_memUpset (l : List (Nat × BitVec 72)) (j : Nat) : (s.memUpset l).ring j = s.ring j := rfl
@[simp] theorem State.ring_withQueue (q : List Instr) (j : Nat) : (s.withQueue q).ring j = s.ring j := rfl

end Sys2Proof.Machine
end

