-- ==== Sys2Proof/Laws/Effect.lean ====
section
/-! SUPPORT. How effects run: the composition of effects, and the primitive effects as updates of the state. -/
namespace Sys2Proof.Machine

@[simp] theorem Fx.run_skip (s : State) : Fx.skip.run s = s := rfl
@[simp] theorem Fx.run_andThen (a b : Fx) (s : State) : (a.andThen b).run s = b.run (a.run s) := rfl
@[simp] theorem Fx.run_look (f : State → Fx) (s : State) : (Fx.look f).run s = (f s).run s := rfl
@[simp] theorem Fx.run_all_nil (s : State) : (Fx.all []).run s = s := rfl
@[simp] theorem Fx.run_all_cons (a : Fx) (l : List Fx) (s : State) : (Fx.all (a :: l)).run s = (Fx.all l).run (a.run s) := rfl
@[simp] theorem Fx.run_each_nil {α : Type} (f : α → Fx) (s : State) : (Fx.each [] f).run s = s := rfl
@[simp] theorem Fx.run_each_cons {α : Type} (x : α) (l : List α) (f : α → Fx) (s : State) :
    (Fx.each (x :: l) f).run s = (Fx.each l f).run ((f x).run s) := rfl
@[simp] theorem Fx.run_when_true (a : Fx) (s : State) : (Fx.when true a).run s = a.run s := rfl
@[simp] theorem Fx.run_when_false (a : Fx) (s : State) : (Fx.when false a).run s = s := rfl
theorem Fx.run_when (c : Bool) (a : Fx) (s : State) : (Fx.when c a).run s = if c then a.run s else s := by cases c <;> rfl

@[simp] theorem Fx.run_setNow (n : Nat) (s : State) : (Fx.setNow n).run s = s.setNow n := rfl
@[simp] theorem Fx.run_bumpFree (s : State) : Fx.bumpFree.run s = s.bumpFree := rfl
@[simp] theorem Fx.run_emit (o : Out) (s : State) : (Fx.emit o).run s = s.emit o := rfl
@[simp] theorem Fx.run_hub (f : Hub → Hub) (s : State) : (Fx.hub f).run s = s.modHub f := rfl
@[simp] theorem Fx.run_port (f : Port → Port) (s : State) : (Fx.port f).run s = s.modPort f := rfl
@[simp] theorem Fx.run_power (f : Power → Power) (s : State) : (Fx.power f).run s = s.modPower f := rfl
@[simp] theorem Fx.run_sideband (f : Sideband → Sideband) (s : State) : (Fx.sideband f).run s = s.modSideband f := rfl
@[simp] theorem Fx.run_ctx (i : Nat) (f : Ctx → Ctx) (s : State) : (Fx.ctx i f).run s = s.modCtx i f := rfl
@[simp] theorem Fx.run_field (i : Nat) (f : Field → Field) (s : State) : (Fx.field i f).run s = s.modField i f := rfl
@[simp] theorem Fx.run_stack (i : Nat) (f : Stack → Stack) (s : State) : (Fx.stack i f).run s = s.modStack i f := rfl
@[simp] theorem Fx.run_link (i : Nat) (f : Link → Link) (s : State) : (Fx.link i f).run s = s.modLink i f := rfl
@[simp] theorem Fx.run_ring (i : Nat) (f : Ring → Ring) (s : State) : (Fx.ring i f).run s = s.modRing i f := rfl
@[simp] theorem Fx.run_evc (f : List (Nat × EvcSrc) → List (Nat × EvcSrc)) (s : State) : (Fx.evc f).run s = s.modEvc f := rfl
@[simp] theorem Fx.run_ditch (f : Ditch → Ditch) (s : State) : (Fx.ditch f).run s = s.modDitch f := rfl
@[simp] theorem Fx.run_memWrite (k : Nat) (bs : List Byte) (s : State) : (Fx.memWrite k bs).run s = s.memWrite k bs := rfl
@[simp] theorem Fx.run_memPoison (lo hi : Nat) (s : State) : (Fx.memPoison lo hi).run s = s.memPoison lo hi := rfl
@[simp] theorem Fx.run_memAwait (w : Nat) (s : State) : (Fx.memAwait w).run s = s.memAwait w := rfl
@[simp] theorem Fx.run_memScrub (w : Nat) (s : State) : (Fx.memScrub w).run s = s.memScrub w := rfl
@[simp] theorem Fx.run_memUpset (l : List (Nat × BitVec 72)) (s : State) : (Fx.memUpset l).run s = s.memUpset l := rfl

/-- An effect answers the state it runs to. -/
@[simp] theorem Fx.outcome_eq (a : Fx) (s : State) : a.outcome s = .next (a.run s) := rfl

/-! ## What every effect keeps: laws that follow from the primitive updates -/

/-- No effect reads or changes the queue. -/
theorem Fx.run_pending (a : Fx) (s : State) : (a.run s).pending = s.pending :=
  a.keeps (fun t => t.pending = s.pending)
    ⟨fun _ _ h => h, fun _ h => h, fun _ _ h => h, fun _ _ h => h, fun _ _ h => h, fun _ _ h => h, fun _ _ h => h,
     fun _ _ _ h => h, fun _ _ _ h => h, fun _ _ _ h => h, fun _ _ _ h => h, fun _ _ _ h => h, fun _ _ h => h, fun _ _ h => h,
     fun _ _ _ h => h, fun _ _ _ h => h, fun _ _ h => h, fun _ _ h => h, fun _ _ h => h⟩ s rfl

/-- No effect changes the grade of the module. -/
theorem Fx.run_grade (a : Fx) (s : State) : (a.run s).grade = s.grade :=
  a.keeps (fun t => t.grade = s.grade)
    ⟨fun _ _ h => h, fun _ h => h, fun _ _ h => h, fun _ _ h => h, fun _ _ h => h, fun _ _ h => h, fun _ _ h => h,
     fun _ _ _ h => h, fun _ _ _ h => h, fun _ _ _ h => h, fun _ _ _ h => h, fun _ _ _ h => h, fun _ _ h => h, fun _ _ h => h,
     fun _ _ _ h => h, fun _ _ _ h => h, fun _ _ h => h, fun _ _ h => h, fun _ _ h => h⟩ s rfl

/-- Each table keeps its number of parts. -/
theorem Fx.run_lengths (a : Fx) (s : State) :
    (a.run s).ctxs.length = s.ctxs.length ∧ (a.run s).fields.length = s.fields.length ∧
    (a.run s).hbmStacks.length = s.hbmStacks.length ∧ (a.run s).links.length = s.links.length ∧
    (a.run s).rings.length = s.rings.length :=
  a.keeps (fun t => t.ctxs.length = s.ctxs.length ∧ t.fields.length = s.fields.length ∧ t.hbmStacks.length = s.hbmStacks.length ∧
      t.links.length = s.links.length ∧ t.rings.length = s.rings.length)
    (by constructor <;> intros <;> simp_all) s ⟨rfl, rfl, rfl, rfl, rfl⟩

/-- Nothing that has left the module is taken back. -/
theorem Fx.run_out (a : Fx) (s : State) : s.out <+: (a.run s).out :=
  a.keeps (fun t => s.out <+: t.out)
    (by
      constructor <;> intros <;> try assumption
      rename_i h
      exact h.trans (List.prefix_append _ _)) s (List.prefix_refl _)

/-- The local counter never runs backward, nor does the count of free values drawn. -/
theorem Fx.run_now (a : Fx) (s : State) : s.now ≤ (a.run s).now ∧ s.freeCtr ≤ (a.run s).freeCtr :=
  a.keeps (fun t => s.now ≤ t.now ∧ s.freeCtr ≤ t.freeCtr)
    (by constructor <;> (intros; simp_all); omega) s ⟨Nat.le_refl _, Nat.le_refl _⟩

end Sys2Proof.Machine
end

