-- ==== Sys2Proof/Laws/Events.lean ====
section
/-! SUPPORT. What raising an event, refilling a ring, announcing a change of state and counting a throttle leave unchanged: an
event touches its ring, the event controllers and the fault counts of its field, nothing else. -/
namespace Sys2Proof.Machine

/-! ## fireSource and countFault -/

@[simp] theorem fireSource_pending (src : Nat) (s : State) : ((fireSource src).run s).pending = s.pending := by
  simp only [fireSource, Fx.run_andThen, Fx.run_when]
  split <;> rfl

@[simp] theorem fireSource_out (src : Nat) (s : State) : ((fireSource src).run s).out = s.out := by
  simp only [fireSource, Fx.run_andThen, Fx.run_when]
  split <;> rfl

@[simp] theorem fireSource_freeCtr (src : Nat) (s : State) : ((fireSource src).run s).freeCtr = s.freeCtr := by
  simp only [fireSource, Fx.run_andThen, Fx.run_when]
  split <;> rfl

@[simp] theorem fireSource_now (src : Nat) (s : State) : ((fireSource src).run s).now = s.now := by
  simp only [fireSource, Fx.run_andThen, Fx.run_when]
  split <;> rfl

@[simp] theorem fireSource_grade (src : Nat) (s : State) : ((fireSource src).run s).grade = s.grade := by
  simp only [fireSource, Fx.run_andThen, Fx.run_when]
  split <;> rfl

@[simp] theorem fireSource_mem (src : Nat) (s : State) : ((fireSource src).run s).mem = s.mem := by
  simp only [fireSource, Fx.run_andThen, Fx.run_when]
  split <;> rfl

@[simp] theorem fireSource_hub (src : Nat) (s : State) : ((fireSource src).run s).hub = s.hub := by
  simp only [fireSource, Fx.run_andThen, Fx.run_when]
  split <;> rfl

@[simp] theorem fireSource_port (src : Nat) (s : State) : ((fireSource src).run s).port = s.port := by
  simp only [fireSource, Fx.run_andThen, Fx.run_when]
  split <;> rfl

@[simp] theorem fireSource_power (src : Nat) (s : State) : ((fireSource src).run s).power = s.power := by
  simp only [fireSource, Fx.run_andThen, Fx.run_when]
  split <;> rfl

@[simp] theorem fireSource_sideband (src : Nat) (s : State) : ((fireSource src).run s).sideband = s.sideband := by
  simp only [fireSource, Fx.run_andThen, Fx.run_when]
  split <;> rfl

@[simp] theorem fireSource_ctxs (src : Nat) (s : State) : ((fireSource src).run s).ctxs = s.ctxs := by
  simp only [fireSource, Fx.run_andThen, Fx.run_when]
  split <;> rfl

@[simp] theorem fireSource_hbmStacks (src : Nat) (s : State) : ((fireSource src).run s).hbmStacks = s.hbmStacks := by
  simp only [fireSource, Fx.run_andThen, Fx.run_when]
  split <;> rfl

@[simp] theorem fireSource_links (src : Nat) (s : State) : ((fireSource src).run s).links = s.links := by
  simp only [fireSource, Fx.run_andThen, Fx.run_when]
  split <;> rfl

@[simp] theorem fireSource_ditch (src : Nat) (s : State) : ((fireSource src).run s).ditch = s.ditch := by
  simp only [fireSource, Fx.run_andThen, Fx.run_when]
  split <;> rfl

@[simp] theorem fireSource_fields (src : Nat) (s : State) : ((fireSource src).run s).fields = s.fields := by
  simp only [fireSource, Fx.run_andThen, Fx.run_when]
  split <;> rfl

@[simp] theorem fireSource_rings (src : Nat) (s : State) : ((fireSource src).run s).rings = s.rings := by
  simp only [fireSource, Fx.run_andThen, Fx.run_when]
  split <;> rfl

@[simp] theorem countFault_pending (src code : Nat) (s : State) : ((countFault src code).run s).pending = s.pending := by
  simp only [countFault, Fx.run_when]
  split <;> rfl

@[simp] theorem countFault_out (src code : Nat) (s : State) : ((countFault src code).run s).out = s.out := by
  simp only [countFault, Fx.run_when]
  split <;> rfl

@[simp] theorem countFault_freeCtr (src code : Nat) (s : State) : ((countFault src code).run s).freeCtr = s.freeCtr := by
  simp only [countFault, Fx.run_when]
  split <;> rfl

@[simp] theorem countFault_now (src code : Nat) (s : State) : ((countFault src code).run s).now = s.now := by
  simp only [countFault, Fx.run_when]
  split <;> rfl

@[simp] theorem countFault_grade (src code : Nat) (s : State) : ((countFault src code).run s).grade = s.grade := by
  simp only [countFault, Fx.run_when]
  split <;> rfl

@[simp] theorem countFault_mem (src code : Nat) (s : State) : ((countFault src code).run s).mem = s.mem := by
  simp only [countFault, Fx.run_when]
  split <;> rfl

@[simp] theorem countFault_hub (src code : Nat) (s : State) : ((countFault src code).run s).hub = s.hub := by
  simp only [countFault, Fx.run_when]
  split <;> rfl

@[simp] theorem countFault_port (src code : Nat) (s : State) : ((countFault src code).run s).port = s.port := by
  simp only [countFault, Fx.run_when]
  split <;> rfl

@[simp] theorem countFault_power (src code : Nat) (s : State) : ((countFault src code).run s).power = s.power := by
  simp only [countFault, Fx.run_when]
  split <;> rfl

@[simp] theorem countFault_sideband (src code : Nat) (s : State) : ((countFault src code).run s).sideband = s.sideband := by
  simp only [countFault, Fx.run_when]
  split <;> rfl

@[simp] theorem countFault_ctxs (src code : Nat) (s : State) : ((countFault src code).run s).ctxs = s.ctxs := by
  simp only [countFault, Fx.run_when]
  split <;> rfl

@[simp] theorem countFault_hbmStacks (src code : Nat) (s : State) : ((countFault src code).run s).hbmStacks = s.hbmStacks := by
  simp only [countFault, Fx.run_when]
  split <;> rfl

@[simp] theorem countFault_links (src code : Nat) (s : State) : ((countFault src code).run s).links = s.links := by
  simp only [countFault, Fx.run_when]
  split <;> rfl

@[simp] theorem countFault_ditch (src code : Nat) (s : State) : ((countFault src code).run s).ditch = s.ditch := by
  simp only [countFault, Fx.run_when]
  split <;> rfl

@[simp] theorem countFault_evc (src code : Nat) (s : State) : ((countFault src code).run s).evc = s.evc := by
  simp only [countFault, Fx.run_when]
  split <;> rfl

@[simp] theorem countFault_rings (src code : Nat) (s : State) : ((countFault src code).run s).rings = s.rings := by
  simp only [countFault, Fx.run_when]
  split <;> rfl

/-! ## raise -/

@[simp] theorem raise_pending (src cls code : Nat) (who : Option (Nat × Nat)) (p0 p1 p2 : Nat) (s : State) :
    ((raise src cls code who p0 p1 p2).run s).pending = s.pending := by
  simp only [raise, Fx.run_look, Fx.run_when]
  split <;> simp

@[simp] theorem raise_out (src cls code : Nat) (who : Option (Nat × Nat)) (p0 p1 p2 : Nat) (s : State) :
    ((raise src cls code who p0 p1 p2).run s).out = s.out := by
  simp only [raise, Fx.run_look, Fx.run_when]
  split <;> simp

@[simp] theorem raise_freeCtr (src cls code : Nat) (who : Option (Nat × Nat)) (p0 p1 p2 : Nat) (s : State) :
    ((raise src cls code who p0 p1 p2).run s).freeCtr = s.freeCtr := by
  simp only [raise, Fx.run_look, Fx.run_when]
  split <;> simp

@[simp] theorem raise_now (src cls code : Nat) (who : Option (Nat × Nat)) (p0 p1 p2 : Nat) (s : State) :
    ((raise src cls code who p0 p1 p2).run s).now = s.now := by
  simp only [raise, Fx.run_look, Fx.run_when]
  split <;> simp

@[simp] theorem raise_grade (src cls code : Nat) (who : Option (Nat × Nat)) (p0 p1 p2 : Nat) (s : State) :
    ((raise src cls code who p0 p1 p2).run s).grade = s.grade := by
  simp only [raise, Fx.run_look, Fx.run_when]
  split <;> simp

@[simp] theorem raise_mem (src cls code : Nat) (who : Option (Nat × Nat)) (p0 p1 p2 : Nat) (s : State) :
    ((raise src cls code who p0 p1 p2).run s).mem = s.mem := by
  simp only [raise, Fx.run_look, Fx.run_when]
  split <;> simp

@[simp] theorem raise_hub (src cls code : Nat) (who : Option (Nat × Nat)) (p0 p1 p2 : Nat) (s : State) :
    ((raise src cls code who p0 p1 p2).run s).hub = s.hub := by
  simp only [raise, Fx.run_look, Fx.run_when]
  split <;> simp

@[simp] theorem raise_port (src cls code : Nat) (who : Option (Nat × Nat)) (p0 p1 p2 : Nat) (s : State) :
    ((raise src cls code who p0 p1 p2).run s).port = s.port := by
  simp only [raise, Fx.run_look, Fx.run_when]
  split <;> simp

@[simp] theorem raise_power (src cls code : Nat) (who : Option (Nat × Nat)) (p0 p1 p2 : Nat) (s : State) :
    ((raise src cls code who p0 p1 p2).run s).power = s.power := by
  simp only [raise, Fx.run_look, Fx.run_when]
  split <;> simp

@[simp] theorem raise_sideband (src cls code : Nat) (who : Option (Nat × Nat)) (p0 p1 p2 : Nat) (s : State) :
    ((raise src cls code who p0 p1 p2).run s).sideband = s.sideband := by
  simp only [raise, Fx.run_look, Fx.run_when]
  split <;> simp

@[simp] theorem raise_ctxs (src cls code : Nat) (who : Option (Nat × Nat)) (p0 p1 p2 : Nat) (s : State) :
    ((raise src cls code who p0 p1 p2).run s).ctxs = s.ctxs := by
  simp only [raise, Fx.run_look, Fx.run_when]
  split <;> simp

@[simp] theorem raise_hbmStacks (src cls code : Nat) (who : Option (Nat × Nat)) (p0 p1 p2 : Nat) (s : State) :
    ((raise src cls code who p0 p1 p2).run s).hbmStacks = s.hbmStacks := by
  simp only [raise, Fx.run_look, Fx.run_when]
  split <;> simp

@[simp] theorem raise_links (src cls code : Nat) (who : Option (Nat × Nat)) (p0 p1 p2 : Nat) (s : State) :
    ((raise src cls code who p0 p1 p2).run s).links = s.links := by
  simp only [raise, Fx.run_look, Fx.run_when]
  split <;> simp

@[simp] theorem raise_ditch (src cls code : Nat) (who : Option (Nat × Nat)) (p0 p1 p2 : Nat) (s : State) :
    ((raise src cls code who p0 p1 p2).run s).ditch = s.ditch := by
  simp only [raise, Fx.run_look, Fx.run_when]
  split <;> simp

/-! ## refillRing -/

@[simp] theorem refillRing_pending (i : Nat) (s : State) : ((refillRing i).run s).pending = s.pending := by
  simp only [refillRing, Fx.run_look, Fx.run_when]
  split <;> simp

@[simp] theorem refillRing_out (i : Nat) (s : State) : ((refillRing i).run s).out = s.out := by
  simp only [refillRing, Fx.run_look, Fx.run_when]
  split <;> simp

@[simp] theorem refillRing_freeCtr (i : Nat) (s : State) : ((refillRing i).run s).freeCtr = s.freeCtr := by
  simp only [refillRing, Fx.run_look, Fx.run_when]
  split <;> simp

@[simp] theorem refillRing_now (i : Nat) (s : State) : ((refillRing i).run s).now = s.now := by
  simp only [refillRing, Fx.run_look, Fx.run_when]
  split <;> simp

@[simp] theorem refillRing_grade (i : Nat) (s : State) : ((refillRing i).run s).grade = s.grade := by
  simp only [refillRing, Fx.run_look, Fx.run_when]
  split <;> simp

@[simp] theorem refillRing_mem (i : Nat) (s : State) : ((refillRing i).run s).mem = s.mem := by
  simp only [refillRing, Fx.run_look, Fx.run_when]
  split <;> simp

@[simp] theorem refillRing_hub (i : Nat) (s : State) : ((refillRing i).run s).hub = s.hub := by
  simp only [refillRing, Fx.run_look, Fx.run_when]
  split <;> simp

@[simp] theorem refillRing_port (i : Nat) (s : State) : ((refillRing i).run s).port = s.port := by
  simp only [refillRing, Fx.run_look, Fx.run_when]
  split <;> simp

@[simp] theorem refillRing_power (i : Nat) (s : State) : ((refillRing i).run s).power = s.power := by
  simp only [refillRing, Fx.run_look, Fx.run_when]
  split <;> simp

@[simp] theorem refillRing_sideband (i : Nat) (s : State) : ((refillRing i).run s).sideband = s.sideband := by
  simp only [refillRing, Fx.run_look, Fx.run_when]
  split <;> simp

@[simp] theorem refillRing_ctxs (i : Nat) (s : State) : ((refillRing i).run s).ctxs = s.ctxs := by
  simp only [refillRing, Fx.run_look, Fx.run_when]
  split <;> simp

@[simp] theorem refillRing_hbmStacks (i : Nat) (s : State) : ((refillRing i).run s).hbmStacks = s.hbmStacks := by
  simp only [refillRing, Fx.run_look, Fx.run_when]
  split <;> simp

@[simp] theorem refillRing_links (i : Nat) (s : State) : ((refillRing i).run s).links = s.links := by
  simp only [refillRing, Fx.run_look, Fx.run_when]
  split <;> simp

@[simp] theorem refillRing_ditch (i : Nat) (s : State) : ((refillRing i).run s).ditch = s.ditch := by
  simp only [refillRing, Fx.run_look, Fx.run_when]
  split <;> simp

@[simp] theorem refillRing_fields (i : Nat) (s : State) : ((refillRing i).run s).fields = s.fields := by
  simp only [refillRing, Fx.run_look, Fx.run_when]
  split <;> simp

/-! ## A chain of raised events -/

theorem each_raise_pending {α : Type} (l : List α) (src cls code p0 p1 p2 : α → Nat) (who : α → Option (Nat × Nat)) (s : State) :
    ((Fx.each l (fun x => raise (src x) (cls x) (code x) (who x) (p0 x) (p1 x) (p2 x))).run s).pending = s.pending := by
  induction l generalizing s with
  | nil => rfl
  | cons a t ih => rw [Fx.run_each_cons, ih, raise_pending]

theorem each_raise_out {α : Type} (l : List α) (src cls code p0 p1 p2 : α → Nat) (who : α → Option (Nat × Nat)) (s : State) :
    ((Fx.each l (fun x => raise (src x) (cls x) (code x) (who x) (p0 x) (p1 x) (p2 x))).run s).out = s.out := by
  induction l generalizing s with
  | nil => rfl
  | cons a t ih => rw [Fx.run_each_cons, ih, raise_out]

theorem each_raise_freeCtr {α : Type} (l : List α) (src cls code p0 p1 p2 : α → Nat) (who : α → Option (Nat × Nat)) (s : State) :
    ((Fx.each l (fun x => raise (src x) (cls x) (code x) (who x) (p0 x) (p1 x) (p2 x))).run s).freeCtr = s.freeCtr := by
  induction l generalizing s with
  | nil => rfl
  | cons a t ih => rw [Fx.run_each_cons, ih, raise_freeCtr]

theorem each_raise_now {α : Type} (l : List α) (src cls code p0 p1 p2 : α → Nat) (who : α → Option (Nat × Nat)) (s : State) :
    ((Fx.each l (fun x => raise (src x) (cls x) (code x) (who x) (p0 x) (p1 x) (p2 x))).run s).now = s.now := by
  induction l generalizing s with
  | nil => rfl
  | cons a t ih => rw [Fx.run_each_cons, ih, raise_now]

theorem each_raise_grade {α : Type} (l : List α) (src cls code p0 p1 p2 : α → Nat) (who : α → Option (Nat × Nat)) (s : State) :
    ((Fx.each l (fun x => raise (src x) (cls x) (code x) (who x) (p0 x) (p1 x) (p2 x))).run s).grade = s.grade := by
  induction l generalizing s with
  | nil => rfl
  | cons a t ih => rw [Fx.run_each_cons, ih, raise_grade]

theorem each_raise_mem {α : Type} (l : List α) (src cls code p0 p1 p2 : α → Nat) (who : α → Option (Nat × Nat)) (s : State) :
    ((Fx.each l (fun x => raise (src x) (cls x) (code x) (who x) (p0 x) (p1 x) (p2 x))).run s).mem = s.mem := by
  induction l generalizing s with
  | nil => rfl
  | cons a t ih => rw [Fx.run_each_cons, ih, raise_mem]

theorem each_raise_hub {α : Type} (l : List α) (src cls code p0 p1 p2 : α → Nat) (who : α → Option (Nat × Nat)) (s : State) :
    ((Fx.each l (fun x => raise (src x) (cls x) (code x) (who x) (p0 x) (p1 x) (p2 x))).run s).hub = s.hub := by
  induction l generalizing s with
  | nil => rfl
  | cons a t ih => rw [Fx.run_each_cons, ih, raise_hub]

theorem each_raise_port {α : Type} (l : List α) (src cls code p0 p1 p2 : α → Nat) (who : α → Option (Nat × Nat)) (s : State) :
    ((Fx.each l (fun x => raise (src x) (cls x) (code x) (who x) (p0 x) (p1 x) (p2 x))).run s).port = s.port := by
  induction l generalizing s with
  | nil => rfl
  | cons a t ih => rw [Fx.run_each_cons, ih, raise_port]

theorem each_raise_power {α : Type} (l : List α) (src cls code p0 p1 p2 : α → Nat) (who : α → Option (Nat × Nat)) (s : State) :
    ((Fx.each l (fun x => raise (src x) (cls x) (code x) (who x) (p0 x) (p1 x) (p2 x))).run s).power = s.power := by
  induction l generalizing s with
  | nil => rfl
  | cons a t ih => rw [Fx.run_each_cons, ih, raise_power]

theorem each_raise_sideband {α : Type} (l : List α) (src cls code p0 p1 p2 : α → Nat) (who : α → Option (Nat × Nat)) (s : State) :
    ((Fx.each l (fun x => raise (src x) (cls x) (code x) (who x) (p0 x) (p1 x) (p2 x))).run s).sideband = s.sideband := by
  induction l generalizing s with
  | nil => rfl
  | cons a t ih => rw [Fx.run_each_cons, ih, raise_sideband]

theorem each_raise_ctxs {α : Type} (l : List α) (src cls code p0 p1 p2 : α → Nat) (who : α → Option (Nat × Nat)) (s : State) :
    ((Fx.each l (fun x => raise (src x) (cls x) (code x) (who x) (p0 x) (p1 x) (p2 x))).run s).ctxs = s.ctxs := by
  induction l generalizing s with
  | nil => rfl
  | cons a t ih => rw [Fx.run_each_cons, ih, raise_ctxs]

theorem each_raise_hbmStacks {α : Type} (l : List α) (src cls code p0 p1 p2 : α → Nat) (who : α → Option (Nat × Nat)) (s : State) :
    ((Fx.each l (fun x => raise (src x) (cls x) (code x) (who x) (p0 x) (p1 x) (p2 x))).run s).hbmStacks = s.hbmStacks := by
  induction l generalizing s with
  | nil => rfl
  | cons a t ih => rw [Fx.run_each_cons, ih, raise_hbmStacks]

theorem each_raise_links {α : Type} (l : List α) (src cls code p0 p1 p2 : α → Nat) (who : α → Option (Nat × Nat)) (s : State) :
    ((Fx.each l (fun x => raise (src x) (cls x) (code x) (who x) (p0 x) (p1 x) (p2 x))).run s).links = s.links := by
  induction l generalizing s with
  | nil => rfl
  | cons a t ih => rw [Fx.run_each_cons, ih, raise_links]

theorem each_raise_ditch {α : Type} (l : List α) (src cls code p0 p1 p2 : α → Nat) (who : α → Option (Nat × Nat)) (s : State) :
    ((Fx.each l (fun x => raise (src x) (cls x) (code x) (who x) (p0 x) (p1 x) (p2 x))).run s).ditch = s.ditch := by
  induction l generalizing s with
  | nil => rfl
  | cons a t ih => rw [Fx.run_each_cons, ih, raise_ditch]

/-! ## withThrottle and withInBand -/

@[simp] theorem withThrottle_pending (cause : Nat) (e : Fx) (s : State) : ((withThrottle cause e).run s).pending = (e.run s).pending := by
  simp only [withThrottle, Fx.run_look, Fx.run_andThen]
  exact each_raise_pending _ (fun f => 56 * f + 29) (fun _ => 1) (fun _ => 0x0701) (fun f => 2 ^ f) _ (fun _ => cause) (fun _ => none) _

@[simp] theorem withThrottle_out (cause : Nat) (e : Fx) (s : State) : ((withThrottle cause e).run s).out = (e.run s).out := by
  simp only [withThrottle, Fx.run_look, Fx.run_andThen]
  exact each_raise_out _ (fun f => 56 * f + 29) (fun _ => 1) (fun _ => 0x0701) (fun f => 2 ^ f) _ (fun _ => cause) (fun _ => none) _

@[simp] theorem withThrottle_freeCtr (cause : Nat) (e : Fx) (s : State) : ((withThrottle cause e).run s).freeCtr = (e.run s).freeCtr := by
  simp only [withThrottle, Fx.run_look, Fx.run_andThen]
  exact each_raise_freeCtr _ (fun f => 56 * f + 29) (fun _ => 1) (fun _ => 0x0701) (fun f => 2 ^ f) _ (fun _ => cause) (fun _ => none) _

@[simp] theorem withThrottle_now (cause : Nat) (e : Fx) (s : State) : ((withThrottle cause e).run s).now = (e.run s).now := by
  simp only [withThrottle, Fx.run_look, Fx.run_andThen]
  exact each_raise_now _ (fun f => 56 * f + 29) (fun _ => 1) (fun _ => 0x0701) (fun f => 2 ^ f) _ (fun _ => cause) (fun _ => none) _

@[simp] theorem withThrottle_grade (cause : Nat) (e : Fx) (s : State) : ((withThrottle cause e).run s).grade = (e.run s).grade := by
  simp only [withThrottle, Fx.run_look, Fx.run_andThen]
  exact each_raise_grade _ (fun f => 56 * f + 29) (fun _ => 1) (fun _ => 0x0701) (fun f => 2 ^ f) _ (fun _ => cause) (fun _ => none) _

@[simp] theorem withThrottle_mem (cause : Nat) (e : Fx) (s : State) : ((withThrottle cause e).run s).mem = (e.run s).mem := by
  simp only [withThrottle, Fx.run_look, Fx.run_andThen]
  exact each_raise_mem _ (fun f => 56 * f + 29) (fun _ => 1) (fun _ => 0x0701) (fun f => 2 ^ f) _ (fun _ => cause) (fun _ => none) _

@[simp] theorem withThrottle_hub (cause : Nat) (e : Fx) (s : State) : ((withThrottle cause e).run s).hub = (e.run s).hub := by
  simp only [withThrottle, Fx.run_look, Fx.run_andThen]
  exact each_raise_hub _ (fun f => 56 * f + 29) (fun _ => 1) (fun _ => 0x0701) (fun f => 2 ^ f) _ (fun _ => cause) (fun _ => none) _

@[simp] theorem withThrottle_port (cause : Nat) (e : Fx) (s : State) : ((withThrottle cause e).run s).port = (e.run s).port := by
  simp only [withThrottle, Fx.run_look, Fx.run_andThen]
  exact each_raise_port _ (fun f => 56 * f + 29) (fun _ => 1) (fun _ => 0x0701) (fun f => 2 ^ f) _ (fun _ => cause) (fun _ => none) _

@[simp] theorem withThrottle_power (cause : Nat) (e : Fx) (s : State) : ((withThrottle cause e).run s).power = (e.run s).power := by
  simp only [withThrottle, Fx.run_look, Fx.run_andThen]
  exact each_raise_power _ (fun f => 56 * f + 29) (fun _ => 1) (fun _ => 0x0701) (fun f => 2 ^ f) _ (fun _ => cause) (fun _ => none) _

@[simp] theorem withThrottle_sideband (cause : Nat) (e : Fx) (s : State) : ((withThrottle cause e).run s).sideband = (e.run s).sideband := by
  simp only [withThrottle, Fx.run_look, Fx.run_andThen]
  exact each_raise_sideband _ (fun f => 56 * f + 29) (fun _ => 1) (fun _ => 0x0701) (fun f => 2 ^ f) _ (fun _ => cause) (fun _ => none) _

@[simp] theorem withThrottle_ctxs (cause : Nat) (e : Fx) (s : State) : ((withThrottle cause e).run s).ctxs = (e.run s).ctxs := by
  simp only [withThrottle, Fx.run_look, Fx.run_andThen]
  exact each_raise_ctxs _ (fun f => 56 * f + 29) (fun _ => 1) (fun _ => 0x0701) (fun f => 2 ^ f) _ (fun _ => cause) (fun _ => none) _

@[simp] theorem withThrottle_hbmStacks (cause : Nat) (e : Fx) (s : State) : ((withThrottle cause e).run s).hbmStacks = (e.run s).hbmStacks := by
  simp only [withThrottle, Fx.run_look, Fx.run_andThen]
  exact each_raise_hbmStacks _ (fun f => 56 * f + 29) (fun _ => 1) (fun _ => 0x0701) (fun f => 2 ^ f) _ (fun _ => cause) (fun _ => none) _

@[simp] theorem withThrottle_links (cause : Nat) (e : Fx) (s : State) : ((withThrottle cause e).run s).links = (e.run s).links := by
  simp only [withThrottle, Fx.run_look, Fx.run_andThen]
  exact each_raise_links _ (fun f => 56 * f + 29) (fun _ => 1) (fun _ => 0x0701) (fun f => 2 ^ f) _ (fun _ => cause) (fun _ => none) _

@[simp] theorem withThrottle_ditch (cause : Nat) (e : Fx) (s : State) : ((withThrottle cause e).run s).ditch = (e.run s).ditch := by
  simp only [withThrottle, Fx.run_look, Fx.run_andThen]
  exact each_raise_ditch _ (fun f => 56 * f + 29) (fun _ => 1) (fun _ => 0x0701) (fun f => 2 ^ f) _ (fun _ => cause) (fun _ => none) _

@[simp] theorem withInBand_pending (e : Fx) (s : State) : ((withInBand e).run s).pending = (e.run s).pending := by
  simp only [withInBand, Fx.run_look, Fx.run_andThen, Fx.run_when]
  split <;> (try split) <;> (try split) <;> rfl

@[simp] theorem withInBand_freeCtr (e : Fx) (s : State) : ((withInBand e).run s).freeCtr = (e.run s).freeCtr := by
  simp only [withInBand, Fx.run_look, Fx.run_andThen, Fx.run_when]
  split <;> (try split) <;> (try split) <;> rfl

@[simp] theorem withInBand_now (e : Fx) (s : State) : ((withInBand e).run s).now = (e.run s).now := by
  simp only [withInBand, Fx.run_look, Fx.run_andThen, Fx.run_when]
  split <;> (try split) <;> (try split) <;> rfl

@[simp] theorem withInBand_grade (e : Fx) (s : State) : ((withInBand e).run s).grade = (e.run s).grade := by
  simp only [withInBand, Fx.run_look, Fx.run_andThen, Fx.run_when]
  split <;> (try split) <;> (try split) <;> rfl

@[simp] theorem withInBand_mem (e : Fx) (s : State) : ((withInBand e).run s).mem = (e.run s).mem := by
  simp only [withInBand, Fx.run_look, Fx.run_andThen, Fx.run_when]
  split <;> (try split) <;> (try split) <;> rfl

@[simp] theorem withInBand_hub (e : Fx) (s : State) : ((withInBand e).run s).hub = (e.run s).hub := by
  simp only [withInBand, Fx.run_look, Fx.run_andThen, Fx.run_when]
  split <;> (try split) <;> (try split) <;> rfl

@[simp] theorem withInBand_port (e : Fx) (s : State) : ((withInBand e).run s).port = (e.run s).port := by
  simp only [withInBand, Fx.run_look, Fx.run_andThen, Fx.run_when]
  split <;> (try split) <;> (try split) <;> rfl

@[simp] theorem withInBand_power (e : Fx) (s : State) : ((withInBand e).run s).power = (e.run s).power := by
  simp only [withInBand, Fx.run_look, Fx.run_andThen, Fx.run_when]
  split <;> (try split) <;> (try split) <;> rfl

@[simp] theorem withInBand_sideband (e : Fx) (s : State) : ((withInBand e).run s).sideband = (e.run s).sideband := by
  simp only [withInBand, Fx.run_look, Fx.run_andThen, Fx.run_when]
  split <;> (try split) <;> (try split) <;> rfl

@[simp] theorem withInBand_ctxs (e : Fx) (s : State) : ((withInBand e).run s).ctxs = (e.run s).ctxs := by
  simp only [withInBand, Fx.run_look, Fx.run_andThen, Fx.run_when]
  split <;> (try split) <;> (try split) <;> rfl

@[simp] theorem withInBand_hbmStacks (e : Fx) (s : State) : ((withInBand e).run s).hbmStacks = (e.run s).hbmStacks := by
  simp only [withInBand, Fx.run_look, Fx.run_andThen, Fx.run_when]
  split <;> (try split) <;> (try split) <;> rfl

@[simp] theorem withInBand_links (e : Fx) (s : State) : ((withInBand e).run s).links = (e.run s).links := by
  simp only [withInBand, Fx.run_look, Fx.run_andThen, Fx.run_when]
  split <;> (try split) <;> (try split) <;> rfl

@[simp] theorem withInBand_ditch (e : Fx) (s : State) : ((withInBand e).run s).ditch = (e.run s).ditch := by
  simp only [withInBand, Fx.run_look, Fx.run_andThen, Fx.run_when]
  split <;> (try split) <;> (try split) <;> rfl

@[simp] theorem withInBand_fields (e : Fx) (s : State) : ((withInBand e).run s).fields = (e.run s).fields := by
  simp only [withInBand, Fx.run_look, Fx.run_andThen, Fx.run_when]
  split <;> (try split) <;> (try split) <;> rfl

@[simp] theorem withInBand_rings (e : Fx) (s : State) : ((withInBand e).run s).rings = (e.run s).rings := by
  simp only [withInBand, Fx.run_look, Fx.run_andThen, Fx.run_when]
  split <;> (try split) <;> (try split) <;> rfl

@[simp] theorem withInBand_evc (e : Fx) (s : State) : ((withInBand e).run s).evc = (e.run s).evc := by
  simp only [withInBand, Fx.run_look, Fx.run_andThen, Fx.run_when]
  split <;> (try split) <;> (try split) <;> rfl

@[simp] theorem raise_ctx (src cls code : Nat) (who : Option (Nat × Nat)) (p0 p1 p2 : Nat) (s : State) (i : Nat) :
    ((raise src cls code who p0 p1 p2).run s).ctx i = s.ctx i := by simp [State.ctx]
@[simp] theorem refillRing_ctx (j : Nat) (s : State) (i : Nat) : ((refillRing j).run s).ctx i = s.ctx i := by simp [State.ctx]
@[simp] theorem withInBand_ctx (e : Fx) (s : State) (i : Nat) : ((withInBand e).run s).ctx i = (e.run s).ctx i := by simp [State.ctx]
@[simp] theorem withThrottle_ctx (cause : Nat) (e : Fx) (s : State) (i : Nat) :
    ((withThrottle cause e).run s).ctx i = (e.run s).ctx i := by simp [State.ctx]

@[simp] theorem raise_stack (src cls code : Nat) (who : Option (Nat × Nat)) (p0 p1 p2 : Nat) (s : State) (i : Nat) :
    ((raise src cls code who p0 p1 p2).run s).stack i = s.stack i := by simp [State.stack]
@[simp] theorem refillRing_stack (j : Nat) (s : State) (i : Nat) : ((refillRing j).run s).stack i = s.stack i := by simp [State.stack]
@[simp] theorem withInBand_stack (e : Fx) (s : State) (i : Nat) : ((withInBand e).run s).stack i = (e.run s).stack i := by simp [State.stack]
@[simp] theorem withThrottle_stack (cause : Nat) (e : Fx) (s : State) (i : Nat) :
    ((withThrottle cause e).run s).stack i = (e.run s).stack i := by simp [State.stack]

@[simp] theorem raise_link (src cls code : Nat) (who : Option (Nat × Nat)) (p0 p1 p2 : Nat) (s : State) (i : Nat) :
    ((raise src cls code who p0 p1 p2).run s).link i = s.link i := by simp [State.link]
@[simp] theorem refillRing_link (j : Nat) (s : State) (i : Nat) : ((refillRing j).run s).link i = s.link i := by simp [State.link]
@[simp] theorem withInBand_link (e : Fx) (s : State) (i : Nat) : ((withInBand e).run s).link i = (e.run s).link i := by simp [State.link]
@[simp] theorem withThrottle_link (cause : Nat) (e : Fx) (s : State) (i : Nat) :
    ((withThrottle cause e).run s).link i = (e.run s).link i := by simp [State.link]

/-! ## Rings -/

/-- Refilling a ring leaves every other ring. -/
theorem refillRing_ring_ne (i j : Nat) (s : State) (h : i ≠ j) : ((refillRing i).run s).ring j = s.ring j := by
  simp only [refillRing, Fx.run_look, Fx.run_when]
  split
  · simp only [Fx.run_andThen, Fx.run_ring]
    rw [State.ring_modRing_ne _ _ _ _ h]
    simp [State.ring]
  · rfl

/-- Refilling a ring changes what it holds back and its mark, nothing else of it. -/
theorem refillRing_ring (i : Nat) (s : State) : ∃ w l, ((refillRing i).run s).ring i = { s.ring i with waiting := w, lostMark := l } := by
  simp only [refillRing, Fx.run_look, Fx.run_when]
  split
  · by_cases h : i < s.rings.length
    · refine ⟨lostRecord s i :: (s.ring i).waiting, false, ?_⟩
      simp only [Fx.run_andThen, Fx.run_ring]
      rw [State.ring_modRing _ _ _ (by simpa using h)]
      simp only [State.ring, fireSource_rings]
    · refine ⟨(s.ring i).waiting, (s.ring i).lostMark, ?_⟩
      simp [State.ring, Nat.not_lt.mp h]
  · exact ⟨_, _, rfl⟩

/-- An event goes to one ring. -/
theorem raise_ring_ne (src cls code : Nat) (who : Option (Nat × Nat)) (p0 p1 p2 j : Nat) (s : State) (h : s.ringOf who ≠ j) :
    ((raise src cls code who p0 p1 p2).run s).ring j = s.ring j := by
  simp only [raise, Fx.run_look, Fx.run_when]
  split
  · simp only [Fx.run_andThen, Fx.run_look, Fx.run_ring]
    rw [State.ring_modRing_ne]
    · simp [State.ring]
    · simpa [State.ringOf, State.ctx] using h
  · rfl

end Sys2Proof.Machine
end

