-- ==== Sys2Proof/Laws/Host.lean ====
section
/-! SUPPORT. Host commands: a message that passes its checks runs its command; the reply and the wait as updates of the state. -/
namespace Sys2Proof.Machine

/-- A message that the module accepts runs its command, and nothing else happens (R539). -/
theorem hostRow_run {s : State} {m : HostMsg} {op : Nat} (run : Cmd → Fx) (h : s.accepts m op = true) :
    (hostRow op run m).run s = (run (cmdOf m)).run s := by
  simp only [State.accepts, Bool.and_eq_true, beq_iff_eq, decide_eq_true_eq, Bool.not_eq_true', Option.isNone_iff_eq_none] at h
  obtain ⟨⟨⟨⟨⟨⟨⟨⟨⟨⟨⟨⟨⟨h1, h2⟩, h3⟩, h4⟩, h5⟩, h6⟩, h7⟩, h8⟩, h9⟩, h10⟩, h11⟩, h12⟩, h13⟩, h14⟩ := h
  have hop : (cmdOf m).op = op := h2
  have hctx : (cmdOf m).ctx = m.ctx := rfl
  cases hi : cmdInfo op with
  | none => simp [hi] at h12
  | some i =>
    simp only [hi, Bool.and_eq_true] at h12
    have e : (cmdOf m) = Cmd.parse (.port m.qp) m := rfl
    have hrow : (m.op != op && (cmdInfo m.op).isSome && decide (64 ≤ m.bytes.length)) = false := by simp [h2]
    have hhead : s.headStatus? false m = none := by
      have h4' : ¬ 8192 < 64 + field m.bytes 6 2 := by omega
      have hw : ¬ 256 ≤ s.port.waits.length + s.port.delayed.length := by omega
      simp only [State.headStatus?, h7, h5, h4', h2, hi, h8, h1.1, hw]
      simp
    have hle : ¬ m.bytes.length < 64 := by omega
    have hq : ¬ 16 ≤ s.port.delayed.countP (fun d => d.dest == .port m.qp) := by omega
    have hf : m.fault? 0 = none := by simp [HostMsg.fault?, h6]
    simp only [hostRow, Fx.run_when, hrow, receive, Fx.run_look, h1.2, hq, checkCmd, hle, hf, ← e, hop, hi, hctx, startCmd]
    simp [hhead, h9, h12.1, h13, h14, h12.2]

/-- A message that the module accepts is not relayed (R538). -/
theorem accepts_plain {s : State} {m : HostMsg} {op : Nat} (h : s.accepts m op = true) : field m.bytes 1 1 = 0 := by
  simp only [State.accepts, Bool.and_eq_true] at h
  have h8 : m.reservedOk false = true := h.1.1.1.1.1.1.2
  simp only [HostMsg.reservedOk, Bool.and_eq_true, decide_eq_true_eq] at h8
  simpa using h8.1.1

/-- The reply to a message on the port that no relay brought. -/
theorem done_run (s : State) (m : HostMsg) (st : Nat) (r : List Byte) (h : field m.bytes 1 1 = 0) :
    ((cmdOf m).ans st r).run s = s.answered m st r := by
  simp only [Cmd.ans, reply, Fx.run_look, cmdOf, Cmd.parse, Fx.run_when, State.answered, HostMsg.op, HostMsg.ctx, Fx.run_emit, h]

/-- A command that waits. -/
theorem waits_run (s : State) (m : HostMsg) (k : WaitKind) : ((cmdOf m).waits k).run s = s.waiting m k := rfl

/-- A change of the service or sideband state is announced on the buses that work (R615). -/
theorem withInBand_run (e : Fx) (s : State) : (withInBand e).run s = s.announced (e.run s) := by
  simp only [withInBand, Fx.run_look, Fx.run_andThen, Fx.run_when, State.announced]
  split
  · simp only [Fx.run_emit]
    by_cases ha : (e.run s).sideband.busA = 0 <;> by_cases hb : (e.run s).sideband.busB = 0 <;> simp [ha, hb, State.emit]
  · rfl

end Sys2Proof.Machine
end

