-- ==== Sys2Proof/Laws/Table.lean ====
section
/-! SUPPORT. Tables with rising keys: reading after a put or an erase, and that both keep the keys rising. -/
namespace Sys2Proof.Machine

variable {α : Type}

@[simp] theorem tableGet?_put_self (l : List (Nat × α)) (k : Nat) (v : α) : tableGet? (tablePut l k v) k = some v := by
  induction l with
  | nil => simp [tablePut, tableGet?]
  | cons e t ih =>
    obtain ⟨j, w⟩ := e
    simp only [tablePut]
    split
    · simp [tableGet?]
    · split
      · simp [tableGet?]
      · rename_i h
        simp [tableGet?, ih, Ne.symm h]

theorem tableGet?_put_ne (l : List (Nat × α)) {k i : Nat} (v : α) (h : i ≠ k) : tableGet? (tablePut l k v) i = tableGet? l i := by
  induction l with
  | nil => simp [tablePut, tableGet?, Ne.symm h]
  | cons e t ih =>
    obtain ⟨j, w⟩ := e
    simp only [tablePut]
    split
    · simp [tableGet?, Ne.symm h]
    · split
      · rename_i h2
        subst h2
        simp [tableGet?, Ne.symm h]
      · simp [tableGet?, ih]

@[simp] theorem tableGet?_erase_self (l : List (Nat × α)) (k : Nat) : tableGet? (tableErase l k) k = none := by
  induction l with
  | nil => rfl
  | cons e t ih =>
    obtain ⟨j, w⟩ := e
    simp only [tableErase, List.filter_cons] at ih ⊢
    split
    · rename_i h
      simp only [tableGet?, ih]
      simp at h
      simp [h]
    · exact ih

theorem tableGet?_erase_ne (l : List (Nat × α)) {k i : Nat} (h : i ≠ k) : tableGet? (tableErase l k) i = tableGet? l i := by
  induction l with
  | nil => rfl
  | cons e t ih =>
    obtain ⟨j, w⟩ := e
    simp only [tableErase, List.filter_cons] at ih ⊢
    split
    · simp only [tableGet?, ih]
    · rename_i h2
      simp at h2
      subst h2
      simp [tableGet?, Ne.symm h, ih]

theorem mem_tablePut {l : List (Nat × α)} {k : Nat} {v : α} {e : Nat × α} (h : e ∈ tablePut l k v) : e = (k, v) ∨ e ∈ l := by
  induction l with
  | nil => simpa [tablePut] using h
  | cons c t ih =>
    obtain ⟨j, w⟩ := c
    simp only [tablePut] at h
    split at h
    · simpa using h
    · split at h
      · rcases List.mem_cons.mp h with h | h
        · exact .inl h
        · exact .inr (List.mem_cons_of_mem _ h)
      · rcases List.mem_cons.mp h with h | h
        · exact .inr (h ▸ List.mem_cons_self)
        · rcases ih h with h | h
          · exact .inl h
          · exact .inr (List.mem_cons_of_mem _ h)

theorem tablePut_rising {l : List (Nat × α)} (k : Nat) (v : α) (h : l.Pairwise (fun a b => a.1 < b.1)) :
    (tablePut l k v).Pairwise (fun a b => a.1 < b.1) := by
  induction l with
  | nil => simp [tablePut]
  | cons c t ih =>
    obtain ⟨j, w⟩ := c
    obtain ⟨h1, h2⟩ := List.pairwise_cons.mp h
    simp only [tablePut]
    split
    · rename_i hk
      refine List.pairwise_cons.mpr ⟨?_, h⟩
      intro e he
      rcases List.mem_cons.mp he with rfl | he
      · exact hk
      · exact Nat.lt_trans hk (h1 e he)
    · split
      · rename_i hk
        subst hk
        exact List.pairwise_cons.mpr ⟨h1, h2⟩
      · refine List.pairwise_cons.mpr ⟨?_, ih h2⟩
        intro e he
        rcases mem_tablePut he with rfl | he
        · simp; omega
        · exact h1 e he

theorem tableErase_rising {l : List (Nat × α)} (k : Nat) (h : l.Pairwise (fun a b => a.1 < b.1)) :
    (tableErase l k).Pairwise (fun a b => a.1 < b.1) := h.filter _

theorem mem_insertNat {l : List Nat} {k e : Nat} : e ∈ insertNat l k ↔ e = k ∨ e ∈ l := by
  induction l with
  | nil => simp [insertNat]
  | cons j t ih =>
    simp only [insertNat]
    split
    · simp
    · split
      · rename_i h
        subst h
        simp
      · simp [ih]
        exact or_left_comm

theorem insertNat_rising {l : List Nat} (k : Nat) (h : l.Pairwise (· < ·)) : (insertNat l k).Pairwise (· < ·) := by
  induction l with
  | nil => simp [insertNat]
  | cons j t ih =>
    obtain ⟨h1, h2⟩ := List.pairwise_cons.mp h
    simp only [insertNat]
    split
    · rename_i hk
      refine List.pairwise_cons.mpr ⟨?_, h⟩
      intro e he
      rcases List.mem_cons.mp he with rfl | he
      · exact hk
      · exact Nat.lt_trans hk (h1 e he)
    · split
      · exact h
      · refine List.pairwise_cons.mpr ⟨?_, ih h2⟩
        intro e he
        rcases mem_insertNat.mp he with rfl | he
        · omega
        · exact h1 e he

end Sys2Proof.Machine
end

