-- ==== Sys2Proof/Laws/Memory.lean ====
section
/-! SUPPORT. Memory keeps its canonical form (Mem.wf) under every operation on it, and the memory at reset has it. -/
namespace Sys2Proof.Machine

theorem Mem.wf_iff (m : Mem) : m.wf = true ↔
    m.cells.Pairwise (fun a b => a.1 < b.1) ∧ (∀ c ∈ m.cells, c.2 ≠ Mem.default ∧ c.1 / 8 ∈ m.clean) ∧
    m.clean.Pairwise (· < ·) ∧ m.ecc.Pairwise (fun a b => a.1 < b.1) ∧ m.writeBack.Pairwise (· < ·) := by
  simp [Mem.wf, and_assoc]

theorem Mem.reset_wf : Mem.reset.wf = true := by decide

/-- A property of memory kept by every step of a fold is kept by the fold. -/
theorem foldl_keeps {α β : Type} (P : β → Prop) (f : β → α → β) (h : ∀ b a, P b → P (f b a)) (l : List α) (b : β) (hb : P b) :
    P (l.foldl f b) := by
  induction l generalizing b with
  | nil => exact hb
  | cons a t ih => exact ih _ (h b a hb)

theorem Mem.setByte_wf {m : Mem} (k : Nat) (b : Byte) (h : m.wf = true) : (m.setByte k b).wf = true := by
  unfold Mem.setByte
  split
  · rename_i hc
    rw [Mem.wf_iff] at h ⊢
    obtain ⟨h1, h2, h3, h4, h5⟩ := h
    refine ⟨?_, ?_, h3, h4, h5⟩
    · dsimp only
      split
      · exact tableErase_rising k h1
      · exact tablePut_rising k b h1
    · intro c hcell
      dsimp only at hcell ⊢
      split at hcell
      · exact h2 c (List.mem_filter.mp hcell).1
      · rename_i hb
        rcases mem_tablePut hcell with rfl | hcell
        · exact ⟨hb, by simpa using hc⟩
        · exact h2 c hcell
  · exact h

theorem Mem.cleanGranule_wf {m : Mem} (g : Nat) (h : m.wf = true) : (m.cleanGranule g).wf = true := by
  have hn : ({ m with clean := insertNat m.clean g, ecc := tableErase m.ecc g } : Mem).wf = true := by
    rw [Mem.wf_iff] at h ⊢
    obtain ⟨h1, h2, h3, h4, h5⟩ := h
    exact ⟨h1, fun c hc => ⟨(h2 c hc).1, mem_insertNat.mpr (.inr (h2 c hc).2)⟩, insertNat_rising g h3, tableErase_rising g h4, h5⟩
  unfold Mem.cleanGranule
  dsimp only
  split
  · exact hn
  · exact foldl_keeps (fun (m : Mem) => m.wf = true) _ (fun _ _ h => Mem.setByte_wf _ _ h) _ _ hn

theorem Mem.scrubWord_wf {m : Mem} (w : Nat) (h : m.wf = true) : (m.scrubWord w).wf = true := by
  unfold Mem.scrubWord
  split
  · exact foldl_keeps (fun (m : Mem) => m.wf = true) _ (fun _ _ h => Mem.cleanGranule_wf _ h) _ _ h
  · exact h

theorem Mem.upset_wf {m : Mem} (l : List (Nat × BitVec 72)) (h : m.wf = true) : (m.upset l).wf = true := by
  induction l generalizing m with
  | nil => exact h
  | cons a t ih =>
    refine ih ?_
    rw [Mem.wf_iff] at h ⊢
    obtain ⟨h1, h2, h3, h4, h5⟩ := h
    refine ⟨h1, h2, h3, ?_, h5⟩
    dsimp only
    repeat' split
    all_goals first | exact tableErase_rising _ h4 | exact tablePut_rising _ _ h4

theorem Mem.poison_wf {m : Mem} (lo hi : Nat) (h : m.wf = true) : (m.poison lo hi).wf = true := by
  rw [Mem.wf_iff] at h ⊢
  obtain ⟨h1, h2, h3, h4, h5⟩ := h
  refine ⟨h1.filter _, ?_, h3.filter _, h4.filter _, h5.filter _⟩
  intro c hc
  obtain ⟨hc, ho⟩ := List.mem_filter.mp hc
  exact ⟨(h2 c hc).1, List.mem_filter.mpr ⟨(h2 c hc).2, ho⟩⟩

theorem Mem.putGranule_wf {m : Mem} (k : Nat) (bs : List Byte) (h : m.wf = true) : (m.putGranule k bs).wf = true :=
  foldl_keeps (fun (m : Mem) => m.wf = true) _ (fun _ _ h => Mem.setByte_wf _ _ h) _ _ (Mem.cleanGranule_wf _ h)

theorem Mem.writeWord_wf {m : Mem} (k : Nat) (bs : List Byte) (h : m.wf = true) : (m.writeWord k bs).wf = true := by
  unfold Mem.writeWord
  dsimp only
  split
  · exact Mem.poison_wf _ _ h
  · exact foldl_keeps (fun (m : Mem) => m.wf = true) _ (fun _ _ h => Mem.putGranule_wf _ _ h) _ _ h

theorem Mem.write_wf {m : Mem} (k : Nat) (bs : List Byte) (h : m.wf = true) : (m.write k bs).wf = true :=
  foldl_keeps (fun (m : Mem) => m.wf = true) _ (fun _ _ h => Mem.writeWord_wf _ _ h) _ _ h

theorem State.memAwait_wf {s : State} (w : Nat) (h : s.mem.wf = true) : (s.memAwait w).mem.wf = true := by
  rw [Mem.wf_iff] at h ⊢
  obtain ⟨h1, h2, h3, h4, h5⟩ := h
  exact ⟨h1, h2, h3, h4, insertNat_rising w h5⟩

theorem State.memScrub_wf {s : State} (w : Nat) (h : s.mem.wf = true) : (s.memScrub w).mem.wf = true := by
  have h' := Mem.scrubWord_wf w h
  rw [Mem.wf_iff] at h' ⊢
  obtain ⟨h1, h2, h3, h4, -⟩ := h'
  rw [Mem.wf_iff] at h
  exact ⟨h1, h2, h3, h4, h.2.2.2.2.filter _⟩

/-- Every effect keeps memory in its canonical form. -/
theorem Fx.run_wf (a : Fx) (s : State) (h : s.mem.wf = true) : (a.run s).mem.wf = true :=
  a.keeps (fun t => t.mem.wf = true)
    ⟨fun _ _ h => h, fun _ h => h, fun _ _ h => h, fun _ _ h => h, fun _ _ h => h, fun _ _ h => h, fun _ _ h => h,
     fun _ _ _ h => h, fun _ _ _ h => h, fun _ _ _ h => h, fun _ _ _ h => h, fun _ _ _ h => h, fun _ _ h => h, fun _ _ h => h,
     fun _ _ _ h => Mem.write_wf _ _ h, fun _ _ _ h => Mem.poison_wf _ _ h, fun _ _ h => State.memAwait_wf _ h,
     fun _ _ h => State.memScrub_wf _ h, fun _ _ h => Mem.upset_wf _ h⟩ s h

end Sys2Proof.Machine
end

