-- ==== Sys2Proof/Laws/Ops.lean ====
section
/-! SUPPORT. What the shared operations leave unchanged: replies, packets out, credits, waits, flits, tags, notifications, the
changes of one operation of a context. Each lemma names an operation and a part of the state that it leaves. -/
namespace Sys2Proof.Machine

/-- What every effect of a chain leaves, the chain leaves. -/
theorem Fx.each_keeps {α β : Type} (g : State → β) (l : List α) (f : α → Fx) (h : ∀ x s, g ((f x).run s) = g s) (s : State) :
    g ((Fx.each l f).run s) = g s := by
  induction l generalizing s with
  | nil => rfl
  | cons a t ih => rw [Fx.run_each_cons, ih, h]

/-- What every effect of a list leaves, the list leaves. -/
theorem Fx.all_keeps {β : Type} (g : State → β) (l : List Fx) (h : ∀ a ∈ l, ∀ s, g (a.run s) = g s) (s : State) :
    g ((Fx.all l).run s) = g s := by
  induction l generalizing s with
  | nil => rfl
  | cons a t ih =>
    rw [Fx.run_all_cons, ih (fun b hb => h b (List.mem_cons_of_mem _ hb)), h a List.mem_cons_self]

/-- What an effect leaves, the effect under a condition leaves. -/
theorem Fx.when_keeps {β : Type} (g : State → β) (c : Bool) (a : Fx) (h : ∀ s, g (a.run s) = g s) (s : State) :
    g ((Fx.when c a).run s) = g s := by
  rw [Fx.run_when]
  split
  · exact h s
  · rfl

/-! ## injectAt -/

@[simp] theorem injectAt_pending (i port : Nat) (p : Packet) (s : State) : ((injectAt i port p).run s).pending = s.pending := by
  rfl

@[simp] theorem injectAt_out (i port : Nat) (p : Packet) (s : State) : ((injectAt i port p).run s).out = s.out := by
  rfl

@[simp] theorem injectAt_freeCtr (i port : Nat) (p : Packet) (s : State) : ((injectAt i port p).run s).freeCtr = s.freeCtr := by
  rfl

@[simp] theorem injectAt_now (i port : Nat) (p : Packet) (s : State) : ((injectAt i port p).run s).now = s.now := by
  rfl

@[simp] theorem injectAt_grade (i port : Nat) (p : Packet) (s : State) : ((injectAt i port p).run s).grade = s.grade := by
  rfl

@[simp] theorem injectAt_mem (i port : Nat) (p : Packet) (s : State) : ((injectAt i port p).run s).mem = s.mem := by
  rfl

@[simp] theorem injectAt_hub (i port : Nat) (p : Packet) (s : State) : ((injectAt i port p).run s).hub = s.hub := by
  rfl

@[simp] theorem injectAt_port (i port : Nat) (p : Packet) (s : State) : ((injectAt i port p).run s).port = s.port := by
  rfl

@[simp] theorem injectAt_power (i port : Nat) (p : Packet) (s : State) : ((injectAt i port p).run s).power = s.power := by
  rfl

@[simp] theorem injectAt_sideband (i port : Nat) (p : Packet) (s : State) : ((injectAt i port p).run s).sideband = s.sideband := by
  rfl

@[simp] theorem injectAt_ctxs (i port : Nat) (p : Packet) (s : State) : ((injectAt i port p).run s).ctxs = s.ctxs := by
  rfl

@[simp] theorem injectAt_fields (i port : Nat) (p : Packet) (s : State) : ((injectAt i port p).run s).fields = s.fields := by
  rfl

@[simp] theorem injectAt_hbmStacks (i port : Nat) (p : Packet) (s : State) : ((injectAt i port p).run s).hbmStacks = s.hbmStacks := by
  rfl

@[simp] theorem injectAt_rings (i port : Nat) (p : Packet) (s : State) : ((injectAt i port p).run s).rings = s.rings := by
  rfl

@[simp] theorem injectAt_evc (i port : Nat) (p : Packet) (s : State) : ((injectAt i port p).run s).evc = s.evc := by
  rfl

@[simp] theorem injectAt_ditch (i port : Nat) (p : Packet) (s : State) : ((injectAt i port p).run s).ditch = s.ditch := by
  rfl

/-! ## sendPacket -/

/-- Of the hub only the own packets for local delivery change. -/
theorem sendPacket_loop (port : Nat) (p : Packet) (s : State) :
    { ((sendPacket port p).run s).hub with loop := [] } = { s.hub with loop := [] } := by
  simp only [sendPacket, Fx.run_look]
  split
  · split
    · rfl
    · simp only [Fx.run_when]
      split <;> rfl
  · rfl

@[simp] theorem sendPacket_pending (port : Nat) (p : Packet) (s : State) : ((sendPacket port p).run s).pending = s.pending := by
  simp only [sendPacket, Fx.run_look]
  split
  · split
    · rfl
    · simp only [Fx.run_when]
      split <;> rfl
  · rfl

@[simp] theorem sendPacket_out (port : Nat) (p : Packet) (s : State) : ((sendPacket port p).run s).out = s.out := by
  simp only [sendPacket, Fx.run_look]
  split
  · split
    · rfl
    · simp only [Fx.run_when]
      split <;> rfl
  · rfl

@[simp] theorem sendPacket_freeCtr (port : Nat) (p : Packet) (s : State) : ((sendPacket port p).run s).freeCtr = s.freeCtr := by
  simp only [sendPacket, Fx.run_look]
  split
  · split
    · rfl
    · simp only [Fx.run_when]
      split <;> rfl
  · rfl

@[simp] theorem sendPacket_now (port : Nat) (p : Packet) (s : State) : ((sendPacket port p).run s).now = s.now := by
  simp only [sendPacket, Fx.run_look]
  split
  · split
    · rfl
    · simp only [Fx.run_when]
      split <;> rfl
  · rfl

@[simp] theorem sendPacket_grade (port : Nat) (p : Packet) (s : State) : ((sendPacket port p).run s).grade = s.grade := by
  simp only [sendPacket, Fx.run_look]
  split
  · split
    · rfl
    · simp only [Fx.run_when]
      split <;> rfl
  · rfl

@[simp] theorem sendPacket_mem (port : Nat) (p : Packet) (s : State) : ((sendPacket port p).run s).mem = s.mem := by
  simp only [sendPacket, Fx.run_look]
  split
  · split
    · rfl
    · simp only [Fx.run_when]
      split <;> rfl
  · rfl

@[simp] theorem sendPacket_port (port : Nat) (p : Packet) (s : State) : ((sendPacket port p).run s).port = s.port := by
  simp only [sendPacket, Fx.run_look]
  split
  · split
    · rfl
    · simp only [Fx.run_when]
      split <;> rfl
  · rfl

@[simp] theorem sendPacket_power (port : Nat) (p : Packet) (s : State) : ((sendPacket port p).run s).power = s.power := by
  simp only [sendPacket, Fx.run_look]
  split
  · split
    · rfl
    · simp only [Fx.run_when]
      split <;> rfl
  · rfl

@[simp] theorem sendPacket_sideband (port : Nat) (p : Packet) (s : State) : ((sendPacket port p).run s).sideband = s.sideband := by
  simp only [sendPacket, Fx.run_look]
  split
  · split
    · rfl
    · simp only [Fx.run_when]
      split <;> rfl
  · rfl

@[simp] theorem sendPacket_ctxs (port : Nat) (p : Packet) (s : State) : ((sendPacket port p).run s).ctxs = s.ctxs := by
  simp only [sendPacket, Fx.run_look]
  split
  · split
    · rfl
    · simp only [Fx.run_when]
      split <;> rfl
  · rfl

@[simp] theorem sendPacket_fields (port : Nat) (p : Packet) (s : State) : ((sendPacket port p).run s).fields = s.fields := by
  simp only [sendPacket, Fx.run_look]
  split
  · split
    · rfl
    · simp only [Fx.run_when]
      split <;> rfl
  · rfl

@[simp] theorem sendPacket_hbmStacks (port : Nat) (p : Packet) (s : State) : ((sendPacket port p).run s).hbmStacks = s.hbmStacks := by
  simp only [sendPacket, Fx.run_look]
  split
  · split
    · rfl
    · simp only [Fx.run_when]
      split <;> rfl
  · rfl

@[simp] theorem sendPacket_rings (port : Nat) (p : Packet) (s : State) : ((sendPacket port p).run s).rings = s.rings := by
  simp only [sendPacket, Fx.run_look]
  split
  · split
    · rfl
    · simp only [Fx.run_when]
      split <;> rfl
  · rfl

@[simp] theorem sendPacket_evc (port : Nat) (p : Packet) (s : State) : ((sendPacket port p).run s).evc = s.evc := by
  simp only [sendPacket, Fx.run_look]
  split
  · split
    · rfl
    · simp only [Fx.run_when]
      split <;> rfl
  · rfl

@[simp] theorem sendPacket_ditch (port : Nat) (p : Packet) (s : State) : ((sendPacket port p).run s).ditch = s.ditch := by
  simp only [sendPacket, Fx.run_look]
  split
  · split
    · rfl
    · simp only [Fx.run_when]
      split <;> rfl
  · rfl

/-! ## answerPacket -/

/-- Of the hub only the own packets for local delivery change. -/
theorem answerPacket_loop (port : Nat) (p : Packet) (t a : Nat) (b : List Byte) (s : State) :
    { ((answerPacket port p t a b).run s).hub with loop := [] } = { s.hub with loop := [] } := by
  simp only [answerPacket, Fx.run_look, Fx.run_when]
  split
  · exact sendPacket_loop _ _ _
  · rfl

@[simp] theorem answerPacket_pending (port : Nat) (p : Packet) (t a : Nat) (b : List Byte) (s : State) : ((answerPacket port p t a b).run s).pending = s.pending := by
  simp only [answerPacket, Fx.run_look, Fx.run_when]
  split <;> simp

@[simp] theorem answerPacket_out (port : Nat) (p : Packet) (t a : Nat) (b : List Byte) (s : State) : ((answerPacket port p t a b).run s).out = s.out := by
  simp only [answerPacket, Fx.run_look, Fx.run_when]
  split <;> simp

@[simp] theorem answerPacket_freeCtr (port : Nat) (p : Packet) (t a : Nat) (b : List Byte) (s : State) : ((answerPacket port p t a b).run s).freeCtr = s.freeCtr := by
  simp only [answerPacket, Fx.run_look, Fx.run_when]
  split <;> simp

@[simp] theorem answerPacket_now (port : Nat) (p : Packet) (t a : Nat) (b : List Byte) (s : State) : ((answerPacket port p t a b).run s).now = s.now := by
  simp only [answerPacket, Fx.run_look, Fx.run_when]
  split <;> simp

@[simp] theorem answerPacket_grade (port : Nat) (p : Packet) (t a : Nat) (b : List Byte) (s : State) : ((answerPacket port p t a b).run s).grade = s.grade := by
  simp only [answerPacket, Fx.run_look, Fx.run_when]
  split <;> simp

@[simp] theorem answerPacket_mem (port : Nat) (p : Packet) (t a : Nat) (b : List Byte) (s : State) : ((answerPacket port p t a b).run s).mem = s.mem := by
  simp only [answerPacket, Fx.run_look, Fx.run_when]
  split <;> simp

@[simp] theorem answerPacket_port (port : Nat) (p : Packet) (t a : Nat) (b : List Byte) (s : State) : ((answerPacket port p t a b).run s).port = s.port := by
  simp only [answerPacket, Fx.run_look, Fx.run_when]
  split <;> simp

@[simp] theorem answerPacket_power (port : Nat) (p : Packet) (t a : Nat) (b : List Byte) (s : State) : ((answerPacket port p t a b).run s).power = s.power := by
  simp only [answerPacket, Fx.run_look, Fx.run_when]
  split <;> simp

@[simp] theorem answerPacket_sideband (port : Nat) (p : Packet) (t a : Nat) (b : List Byte) (s : State) : ((answerPacket port p t a b).run s).sideband = s.sideband := by
  simp only [answerPacket, Fx.run_look, Fx.run_when]
  split <;> simp

@[simp] theorem answerPacket_ctxs (port : Nat) (p : Packet) (t a : Nat) (b : List Byte) (s : State) : ((answerPacket port p t a b).run s).ctxs = s.ctxs := by
  simp only [answerPacket, Fx.run_look, Fx.run_when]
  split <;> simp

@[simp] theorem answerPacket_fields (port : Nat) (p : Packet) (t a : Nat) (b : List Byte) (s : State) : ((answerPacket port p t a b).run s).fields = s.fields := by
  simp only [answerPacket, Fx.run_look, Fx.run_when]
  split <;> simp

@[simp] theorem answerPacket_hbmStacks (port : Nat) (p : Packet) (t a : Nat) (b : List Byte) (s : State) : ((answerPacket port p t a b).run s).hbmStacks = s.hbmStacks := by
  simp only [answerPacket, Fx.run_look, Fx.run_when]
  split <;> simp

@[simp] theorem answerPacket_rings (port : Nat) (p : Packet) (t a : Nat) (b : List Byte) (s : State) : ((answerPacket port p t a b).run s).rings = s.rings := by
  simp only [answerPacket, Fx.run_look, Fx.run_when]
  split <;> simp

@[simp] theorem answerPacket_evc (port : Nat) (p : Packet) (t a : Nat) (b : List Byte) (s : State) : ((answerPacket port p t a b).run s).evc = s.evc := by
  simp only [answerPacket, Fx.run_look, Fx.run_when]
  split <;> simp

@[simp] theorem answerPacket_ditch (port : Nat) (p : Packet) (t a : Nat) (b : List Byte) (s : State) : ((answerPacket port p t a b).run s).ditch = s.ditch := by
  simp only [answerPacket, Fx.run_look, Fx.run_when]
  split <;> simp

/-! ## reply -/

/-- Of the hub only the own packets for local delivery change. -/
theorem reply_loop (d : Dest) (rel tag op c st : Nat) (r : List Byte) (s : State) :
    { ((reply d rel tag op c st r).run s).hub with loop := [] } = { s.hub with loop := [] } := by
  simp only [reply, Fx.run_look]
  split
  · rw [Fx.run_when]
    split <;> rfl
  · split
    · exact sendPacket_loop _ _ _
    · rfl
  · rfl

@[simp] theorem reply_pending (d : Dest) (rel tag op c st : Nat) (r : List Byte) (s : State) : ((reply d rel tag op c st r).run s).pending = s.pending := by
  simp only [reply, Fx.run_look]
  split
  · rw [Fx.run_when]
    split <;> simp
  · split <;> simp
  · rfl

@[simp] theorem reply_freeCtr (d : Dest) (rel tag op c st : Nat) (r : List Byte) (s : State) : ((reply d rel tag op c st r).run s).freeCtr = s.freeCtr := by
  simp only [reply, Fx.run_look]
  split
  · rw [Fx.run_when]
    split <;> simp
  · split <;> simp
  · rfl

@[simp] theorem reply_now (d : Dest) (rel tag op c st : Nat) (r : List Byte) (s : State) : ((reply d rel tag op c st r).run s).now = s.now := by
  simp only [reply, Fx.run_look]
  split
  · rw [Fx.run_when]
    split <;> simp
  · split <;> simp
  · rfl

@[simp] theorem reply_grade (d : Dest) (rel tag op c st : Nat) (r : List Byte) (s : State) : ((reply d rel tag op c st r).run s).grade = s.grade := by
  simp only [reply, Fx.run_look]
  split
  · rw [Fx.run_when]
    split <;> simp
  · split <;> simp
  · rfl

@[simp] theorem reply_mem (d : Dest) (rel tag op c st : Nat) (r : List Byte) (s : State) : ((reply d rel tag op c st r).run s).mem = s.mem := by
  simp only [reply, Fx.run_look]
  split
  · rw [Fx.run_when]
    split <;> simp
  · split <;> simp
  · rfl

@[simp] theorem reply_port (d : Dest) (rel tag op c st : Nat) (r : List Byte) (s : State) : ((reply d rel tag op c st r).run s).port = s.port := by
  simp only [reply, Fx.run_look]
  split
  · rw [Fx.run_when]
    split <;> simp
  · split <;> simp
  · rfl

@[simp] theorem reply_power (d : Dest) (rel tag op c st : Nat) (r : List Byte) (s : State) : ((reply d rel tag op c st r).run s).power = s.power := by
  simp only [reply, Fx.run_look]
  split
  · rw [Fx.run_when]
    split <;> simp
  · split <;> simp
  · rfl

@[simp] theorem reply_sideband (d : Dest) (rel tag op c st : Nat) (r : List Byte) (s : State) : ((reply d rel tag op c st r).run s).sideband = s.sideband := by
  simp only [reply, Fx.run_look]
  split
  · rw [Fx.run_when]
    split <;> simp
  · split <;> simp
  · rfl

@[simp] theorem reply_ctxs (d : Dest) (rel tag op c st : Nat) (r : List Byte) (s : State) : ((reply d rel tag op c st r).run s).ctxs = s.ctxs := by
  simp only [reply, Fx.run_look]
  split
  · rw [Fx.run_when]
    split <;> simp
  · split <;> simp
  · rfl

@[simp] theorem reply_fields (d : Dest) (rel tag op c st : Nat) (r : List Byte) (s : State) : ((reply d rel tag op c st r).run s).fields = s.fields := by
  simp only [reply, Fx.run_look]
  split
  · rw [Fx.run_when]
    split <;> simp
  · split <;> simp
  · rfl

@[simp] theorem reply_hbmStacks (d : Dest) (rel tag op c st : Nat) (r : List Byte) (s : State) : ((reply d rel tag op c st r).run s).hbmStacks = s.hbmStacks := by
  simp only [reply, Fx.run_look]
  split
  · rw [Fx.run_when]
    split <;> simp
  · split <;> simp
  · rfl

@[simp] theorem reply_rings (d : Dest) (rel tag op c st : Nat) (r : List Byte) (s : State) : ((reply d rel tag op c st r).run s).rings = s.rings := by
  simp only [reply, Fx.run_look]
  split
  · rw [Fx.run_when]
    split <;> simp
  · split <;> simp
  · rfl

@[simp] theorem reply_evc (d : Dest) (rel tag op c st : Nat) (r : List Byte) (s : State) : ((reply d rel tag op c st r).run s).evc = s.evc := by
  simp only [reply, Fx.run_look]
  split
  · rw [Fx.run_when]
    split <;> simp
  · split <;> simp
  · rfl

@[simp] theorem reply_ditch (d : Dest) (rel tag op c st : Nat) (r : List Byte) (s : State) : ((reply d rel tag op c st r).run s).ditch = s.ditch := by
  simp only [reply, Fx.run_look]
  split
  · rw [Fx.run_when]
    split <;> simp
  · split <;> simp
  · rfl

/-! ## Wait.answer -/

/-- Of the hub only the own packets for local delivery change. -/
theorem Wait.answer_loop (w : Wait) (st : Nat) (r : List Byte) (s : State) :
    { ((w.answer st r).run s).hub with loop := [] } = { s.hub with loop := [] } := by
  exact reply_loop _ _ _ _ _ _ _ _

@[simp] theorem Wait.answer_pending (w : Wait) (st : Nat) (r : List Byte) (s : State) : ((w.answer st r).run s).pending = s.pending := by
  simp [Wait.answer]

@[simp] theorem Wait.answer_freeCtr (w : Wait) (st : Nat) (r : List Byte) (s : State) : ((w.answer st r).run s).freeCtr = s.freeCtr := by
  simp [Wait.answer]

@[simp] theorem Wait.answer_now (w : Wait) (st : Nat) (r : List Byte) (s : State) : ((w.answer st r).run s).now = s.now := by
  simp [Wait.answer]

@[simp] theorem Wait.answer_grade (w : Wait) (st : Nat) (r : List Byte) (s : State) : ((w.answer st r).run s).grade = s.grade := by
  simp [Wait.answer]

@[simp] theorem Wait.answer_mem (w : Wait) (st : Nat) (r : List Byte) (s : State) : ((w.answer st r).run s).mem = s.mem := by
  simp [Wait.answer]

@[simp] theorem Wait.answer_port (w : Wait) (st : Nat) (r : List Byte) (s : State) : ((w.answer st r).run s).port = s.port := by
  simp [Wait.answer]

@[simp] theorem Wait.answer_power (w : Wait) (st : Nat) (r : List Byte) (s : State) : ((w.answer st r).run s).power = s.power := by
  simp [Wait.answer]

@[simp] theorem Wait.answer_sideband (w : Wait) (st : Nat) (r : List Byte) (s : State) : ((w.answer st r).run s).sideband = s.sideband := by
  simp [Wait.answer]

@[simp] theorem Wait.answer_ctxs (w : Wait) (st : Nat) (r : List Byte) (s : State) : ((w.answer st r).run s).ctxs = s.ctxs := by
  simp [Wait.answer]

@[simp] theorem Wait.answer_fields (w : Wait) (st : Nat) (r : List Byte) (s : State) : ((w.answer st r).run s).fields = s.fields := by
  simp [Wait.answer]

@[simp] theorem Wait.answer_hbmStacks (w : Wait) (st : Nat) (r : List Byte) (s : State) : ((w.answer st r).run s).hbmStacks = s.hbmStacks := by
  simp [Wait.answer]

@[simp] theorem Wait.answer_rings (w : Wait) (st : Nat) (r : List Byte) (s : State) : ((w.answer st r).run s).rings = s.rings := by
  simp [Wait.answer]

@[simp] theorem Wait.answer_evc (w : Wait) (st : Nat) (r : List Byte) (s : State) : ((w.answer st r).run s).evc = s.evc := by
  simp [Wait.answer]

@[simp] theorem Wait.answer_ditch (w : Wait) (st : Nat) (r : List Byte) (s : State) : ((w.answer st r).run s).ditch = s.ditch := by
  simp [Wait.answer]

/-! ## finishWaits -/

/-- Of the hub only the own packets for local delivery change. -/
theorem finishWaits_loop (c : WaitKind → Bool) (st : Nat) (r : List Byte) (s : State) :
    { ((finishWaits c st r).run s).hub with loop := [] } = { s.hub with loop := [] } := by
  simp only [finishWaits, Fx.run_look, Fx.run_andThen]
  rw [Fx.each_keeps (fun t => ({ t.hub with loop := [] } : Hub)) _ _ (fun w t => Wait.answer_loop w st r t)]
  rfl

@[simp] theorem finishWaits_pending (c : WaitKind → Bool) (st : Nat) (r : List Byte) (s : State) : ((finishWaits c st r).run s).pending = s.pending := by
  simp only [finishWaits, Fx.run_look, Fx.run_andThen]
  rw [Fx.each_keeps (fun t => t.pending) _ _ (fun w t => Wait.answer_pending w st r t)]
  rfl

@[simp] theorem finishWaits_freeCtr (c : WaitKind → Bool) (st : Nat) (r : List Byte) (s : State) : ((finishWaits c st r).run s).freeCtr = s.freeCtr := by
  simp only [finishWaits, Fx.run_look, Fx.run_andThen]
  rw [Fx.each_keeps (fun t => t.freeCtr) _ _ (fun w t => Wait.answer_freeCtr w st r t)]
  rfl

@[simp] theorem finishWaits_now (c : WaitKind → Bool) (st : Nat) (r : List Byte) (s : State) : ((finishWaits c st r).run s).now = s.now := by
  simp only [finishWaits, Fx.run_look, Fx.run_andThen]
  rw [Fx.each_keeps (fun t => t.now) _ _ (fun w t => Wait.answer_now w st r t)]
  rfl

@[simp] theorem finishWaits_grade (c : WaitKind → Bool) (st : Nat) (r : List Byte) (s : State) : ((finishWaits c st r).run s).grade = s.grade := by
  simp only [finishWaits, Fx.run_look, Fx.run_andThen]
  rw [Fx.each_keeps (fun t => t.grade) _ _ (fun w t => Wait.answer_grade w st r t)]
  rfl

@[simp] theorem finishWaits_mem (c : WaitKind → Bool) (st : Nat) (r : List Byte) (s : State) : ((finishWaits c st r).run s).mem = s.mem := by
  simp only [finishWaits, Fx.run_look, Fx.run_andThen]
  rw [Fx.each_keeps (fun t => t.mem) _ _ (fun w t => Wait.answer_mem w st r t)]
  rfl

@[simp] theorem finishWaits_power (c : WaitKind → Bool) (st : Nat) (r : List Byte) (s : State) : ((finishWaits c st r).run s).power = s.power := by
  simp only [finishWaits, Fx.run_look, Fx.run_andThen]
  rw [Fx.each_keeps (fun t => t.power) _ _ (fun w t => Wait.answer_power w st r t)]
  rfl

@[simp] theorem finishWaits_sideband (c : WaitKind → Bool) (st : Nat) (r : List Byte) (s : State) : ((finishWaits c st r).run s).sideband = s.sideband := by
  simp only [finishWaits, Fx.run_look, Fx.run_andThen]
  rw [Fx.each_keeps (fun t => t.sideband) _ _ (fun w t => Wait.answer_sideband w st r t)]
  rfl

@[simp] theorem finishWaits_ctxs (c : WaitKind → Bool) (st : Nat) (r : List Byte) (s : State) : ((finishWaits c st r).run s).ctxs = s.ctxs := by
  simp only [finishWaits, Fx.run_look, Fx.run_andThen]
  rw [Fx.each_keeps (fun t => t.ctxs) _ _ (fun w t => Wait.answer_ctxs w st r t)]
  rfl

@[simp] theorem finishWaits_fields (c : WaitKind → Bool) (st : Nat) (r : List Byte) (s : State) : ((finishWaits c st r).run s).fields = s.fields := by
  simp only [finishWaits, Fx.run_look, Fx.run_andThen]
  rw [Fx.each_keeps (fun t => t.fields) _ _ (fun w t => Wait.answer_fields w st r t)]
  rfl

@[simp] theorem finishWaits_hbmStacks (c : WaitKind → Bool) (st : Nat) (r : List Byte) (s : State) : ((finishWaits c st r).run s).hbmStacks = s.hbmStacks := by
  simp only [finishWaits, Fx.run_look, Fx.run_andThen]
  rw [Fx.each_keeps (fun t => t.hbmStacks) _ _ (fun w t => Wait.answer_hbmStacks w st r t)]
  rfl

@[simp] theorem finishWaits_rings (c : WaitKind → Bool) (st : Nat) (r : List Byte) (s : State) : ((finishWaits c st r).run s).rings = s.rings := by
  simp only [finishWaits, Fx.run_look, Fx.run_andThen]
  rw [Fx.each_keeps (fun t => t.rings) _ _ (fun w t => Wait.answer_rings w st r t)]
  rfl

@[simp] theorem finishWaits_evc (c : WaitKind → Bool) (st : Nat) (r : List Byte) (s : State) : ((finishWaits c st r).run s).evc = s.evc := by
  simp only [finishWaits, Fx.run_look, Fx.run_andThen]
  rw [Fx.each_keeps (fun t => t.evc) _ _ (fun w t => Wait.answer_evc w st r t)]
  rfl

@[simp] theorem finishWaits_ditch (c : WaitKind → Bool) (st : Nat) (r : List Byte) (s : State) : ((finishWaits c st r).run s).ditch = s.ditch := by
  simp only [finishWaits, Fx.run_look, Fx.run_andThen]
  rw [Fx.each_keeps (fun t => t.ditch) _ _ (fun w t => Wait.answer_ditch w st r t)]
  rfl

/-! ## onVl -/

@[simp] theorem onVl_pending (i v : Nat) (f : Vl → Vl) (s : State) : ((onVl i v f).run s).pending = s.pending := by
  rfl

@[simp] theorem onVl_out (i v : Nat) (f : Vl → Vl) (s : State) : ((onVl i v f).run s).out = s.out := by
  rfl

@[simp] theorem onVl_freeCtr (i v : Nat) (f : Vl → Vl) (s : State) : ((onVl i v f).run s).freeCtr = s.freeCtr := by
  rfl

@[simp] theorem onVl_now (i v : Nat) (f : Vl → Vl) (s : State) : ((onVl i v f).run s).now = s.now := by
  rfl

@[simp] theorem onVl_grade (i v : Nat) (f : Vl → Vl) (s : State) : ((onVl i v f).run s).grade = s.grade := by
  rfl

@[simp] theorem onVl_mem (i v : Nat) (f : Vl → Vl) (s : State) : ((onVl i v f).run s).mem = s.mem := by
  rfl

@[simp] theorem onVl_hub (i v : Nat) (f : Vl → Vl) (s : State) : ((onVl i v f).run s).hub = s.hub := by
  rfl

@[simp] theorem onVl_port (i v : Nat) (f : Vl → Vl) (s : State) : ((onVl i v f).run s).port = s.port := by
  rfl

@[simp] theorem onVl_power (i v : Nat) (f : Vl → Vl) (s : State) : ((onVl i v f).run s).power = s.power := by
  rfl

@[simp] theorem onVl_sideband (i v : Nat) (f : Vl → Vl) (s : State) : ((onVl i v f).run s).sideband = s.sideband := by
  rfl

@[simp] theorem onVl_ctxs (i v : Nat) (f : Vl → Vl) (s : State) : ((onVl i v f).run s).ctxs = s.ctxs := by
  rfl

@[simp] theorem onVl_hbmStacks (i v : Nat) (f : Vl → Vl) (s : State) : ((onVl i v f).run s).hbmStacks = s.hbmStacks := by
  rfl

@[simp] theorem onVl_rings (i v : Nat) (f : Vl → Vl) (s : State) : ((onVl i v f).run s).rings = s.rings := by
  rfl

@[simp] theorem onVl_evc (i v : Nat) (f : Vl → Vl) (s : State) : ((onVl i v f).run s).evc = s.evc := by
  rfl

@[simp] theorem onVl_ditch (i v : Nat) (f : Vl → Vl) (s : State) : ((onVl i v f).run s).ditch = s.ditch := by
  rfl

/-! ## grantBlock -/

@[simp] theorem grantBlock_pending (f : Nat) (s : State) : ((grantBlock f).run s).pending = s.pending := by
  simp only [grantBlock, Fx.run_look, Fx.run_when]
  split
  · split <;> rfl
  · rfl

@[simp] theorem grantBlock_out (f : Nat) (s : State) : ((grantBlock f).run s).out = s.out := by
  simp only [grantBlock, Fx.run_look, Fx.run_when]
  split
  · split <;> rfl
  · rfl

@[simp] theorem grantBlock_freeCtr (f : Nat) (s : State) : ((grantBlock f).run s).freeCtr = s.freeCtr := by
  simp only [grantBlock, Fx.run_look, Fx.run_when]
  split
  · split <;> rfl
  · rfl

@[simp] theorem grantBlock_now (f : Nat) (s : State) : ((grantBlock f).run s).now = s.now := by
  simp only [grantBlock, Fx.run_look, Fx.run_when]
  split
  · split <;> rfl
  · rfl

@[simp] theorem grantBlock_grade (f : Nat) (s : State) : ((grantBlock f).run s).grade = s.grade := by
  simp only [grantBlock, Fx.run_look, Fx.run_when]
  split
  · split <;> rfl
  · rfl

@[simp] theorem grantBlock_mem (f : Nat) (s : State) : ((grantBlock f).run s).mem = s.mem := by
  simp only [grantBlock, Fx.run_look, Fx.run_when]
  split
  · split <;> rfl
  · rfl

@[simp] theorem grantBlock_hub (f : Nat) (s : State) : ((grantBlock f).run s).hub = s.hub := by
  simp only [grantBlock, Fx.run_look, Fx.run_when]
  split
  · split <;> rfl
  · rfl

@[simp] theorem grantBlock_port (f : Nat) (s : State) : ((grantBlock f).run s).port = s.port := by
  simp only [grantBlock, Fx.run_look, Fx.run_when]
  split
  · split <;> rfl
  · rfl

@[simp] theorem grantBlock_power (f : Nat) (s : State) : ((grantBlock f).run s).power = s.power := by
  simp only [grantBlock, Fx.run_look, Fx.run_when]
  split
  · split <;> rfl
  · rfl

@[simp] theorem grantBlock_sideband (f : Nat) (s : State) : ((grantBlock f).run s).sideband = s.sideband := by
  simp only [grantBlock, Fx.run_look, Fx.run_when]
  split
  · split <;> rfl
  · rfl

@[simp] theorem grantBlock_ctxs (f : Nat) (s : State) : ((grantBlock f).run s).ctxs = s.ctxs := by
  simp only [grantBlock, Fx.run_look, Fx.run_when]
  split
  · split <;> rfl
  · rfl

@[simp] theorem grantBlock_hbmStacks (f : Nat) (s : State) : ((grantBlock f).run s).hbmStacks = s.hbmStacks := by
  simp only [grantBlock, Fx.run_look, Fx.run_when]
  split
  · split <;> rfl
  · rfl

@[simp] theorem grantBlock_rings (f : Nat) (s : State) : ((grantBlock f).run s).rings = s.rings := by
  simp only [grantBlock, Fx.run_look, Fx.run_when]
  split
  · split <;> rfl
  · rfl

@[simp] theorem grantBlock_evc (f : Nat) (s : State) : ((grantBlock f).run s).evc = s.evc := by
  simp only [grantBlock, Fx.run_look, Fx.run_when]
  split
  · split <;> rfl
  · rfl

@[simp] theorem grantBlock_ditch (f : Nat) (s : State) : ((grantBlock f).run s).ditch = s.ditch := by
  simp only [grantBlock, Fx.run_look, Fx.run_when]
  split
  · split <;> rfl
  · rfl

/-! ## returnUnits -/

@[simp] theorem returnUnits_pending (i v n : Nat) (s : State) : ((returnUnits i v n).run s).pending = s.pending := by
  simp [returnUnits]

@[simp] theorem returnUnits_out (i v n : Nat) (s : State) : ((returnUnits i v n).run s).out = s.out := by
  simp [returnUnits]

@[simp] theorem returnUnits_freeCtr (i v n : Nat) (s : State) : ((returnUnits i v n).run s).freeCtr = s.freeCtr := by
  simp [returnUnits]

@[simp] theorem returnUnits_now (i v n : Nat) (s : State) : ((returnUnits i v n).run s).now = s.now := by
  simp [returnUnits]

@[simp] theorem returnUnits_grade (i v n : Nat) (s : State) : ((returnUnits i v n).run s).grade = s.grade := by
  simp [returnUnits]

@[simp] theorem returnUnits_mem (i v n : Nat) (s : State) : ((returnUnits i v n).run s).mem = s.mem := by
  simp [returnUnits]

@[simp] theorem returnUnits_hub (i v n : Nat) (s : State) : ((returnUnits i v n).run s).hub = s.hub := by
  simp [returnUnits]

@[simp] theorem returnUnits_port (i v n : Nat) (s : State) : ((returnUnits i v n).run s).port = s.port := by
  simp [returnUnits]

@[simp] theorem returnUnits_power (i v n : Nat) (s : State) : ((returnUnits i v n).run s).power = s.power := by
  simp [returnUnits]

@[simp] theorem returnUnits_sideband (i v n : Nat) (s : State) : ((returnUnits i v n).run s).sideband = s.sideband := by
  simp [returnUnits]

@[simp] theorem returnUnits_ctxs (i v n : Nat) (s : State) : ((returnUnits i v n).run s).ctxs = s.ctxs := by
  simp [returnUnits]

@[simp] theorem returnUnits_hbmStacks (i v n : Nat) (s : State) : ((returnUnits i v n).run s).hbmStacks = s.hbmStacks := by
  simp [returnUnits]

@[simp] theorem returnUnits_rings (i v n : Nat) (s : State) : ((returnUnits i v n).run s).rings = s.rings := by
  simp [returnUnits]

@[simp] theorem returnUnits_evc (i v n : Nat) (s : State) : ((returnUnits i v n).run s).evc = s.evc := by
  simp [returnUnits]

@[simp] theorem returnUnits_ditch (i v n : Nat) (s : State) : ((returnUnits i v n).run s).ditch = s.ditch := by
  simp [returnUnits]

/-! ## storeUnits -/

@[simp] theorem storeUnits_pending (i v n : Nat) (s : State) : ((storeUnits i v n).run s).pending = s.pending := by
  simp [storeUnits]

@[simp] theorem storeUnits_out (i v n : Nat) (s : State) : ((storeUnits i v n).run s).out = s.out := by
  simp [storeUnits]

@[simp] theorem storeUnits_freeCtr (i v n : Nat) (s : State) : ((storeUnits i v n).run s).freeCtr = s.freeCtr := by
  simp [storeUnits]

@[simp] theorem storeUnits_now (i v n : Nat) (s : State) : ((storeUnits i v n).run s).now = s.now := by
  simp [storeUnits]

@[simp] theorem storeUnits_grade (i v n : Nat) (s : State) : ((storeUnits i v n).run s).grade = s.grade := by
  simp [storeUnits]

@[simp] theorem storeUnits_mem (i v n : Nat) (s : State) : ((storeUnits i v n).run s).mem = s.mem := by
  simp [storeUnits]

@[simp] theorem storeUnits_hub (i v n : Nat) (s : State) : ((storeUnits i v n).run s).hub = s.hub := by
  simp [storeUnits]

@[simp] theorem storeUnits_port (i v n : Nat) (s : State) : ((storeUnits i v n).run s).port = s.port := by
  simp [storeUnits]

@[simp] theorem storeUnits_power (i v n : Nat) (s : State) : ((storeUnits i v n).run s).power = s.power := by
  simp [storeUnits]

@[simp] theorem storeUnits_sideband (i v n : Nat) (s : State) : ((storeUnits i v n).run s).sideband = s.sideband := by
  simp [storeUnits]

@[simp] theorem storeUnits_ctxs (i v n : Nat) (s : State) : ((storeUnits i v n).run s).ctxs = s.ctxs := by
  simp [storeUnits]

@[simp] theorem storeUnits_hbmStacks (i v n : Nat) (s : State) : ((storeUnits i v n).run s).hbmStacks = s.hbmStacks := by
  simp [storeUnits]

@[simp] theorem storeUnits_rings (i v n : Nat) (s : State) : ((storeUnits i v n).run s).rings = s.rings := by
  simp [storeUnits]

@[simp] theorem storeUnits_evc (i v n : Nat) (s : State) : ((storeUnits i v n).run s).evc = s.evc := by
  simp [storeUnits]

@[simp] theorem storeUnits_ditch (i v n : Nat) (s : State) : ((storeUnits i v n).run s).ditch = s.ditch := by
  simp [storeUnits]

/-! ## takePacket -/

/-- Of the hub only the own packets for local delivery change. -/
theorem takePacket_loop (i : Nat) (p : Packet) (s : State) :
    { ((takePacket i p).run s).hub with loop := [] } = { s.hub with loop := [] } := by
  simp only [takePacket, Fx.run_look]
  split
  · simp
  · rw [Fx.run_when]
    split <;> rfl

@[simp] theorem takePacket_pending (i : Nat) (p : Packet) (s : State) : ((takePacket i p).run s).pending = s.pending := by
  simp only [takePacket, Fx.run_look]
  split
  · simp
  · rw [Fx.run_when]
    split <;> rfl

@[simp] theorem takePacket_out (i : Nat) (p : Packet) (s : State) : ((takePacket i p).run s).out = s.out := by
  simp only [takePacket, Fx.run_look]
  split
  · simp
  · rw [Fx.run_when]
    split <;> rfl

@[simp] theorem takePacket_freeCtr (i : Nat) (p : Packet) (s : State) : ((takePacket i p).run s).freeCtr = s.freeCtr := by
  simp only [takePacket, Fx.run_look]
  split
  · simp
  · rw [Fx.run_when]
    split <;> rfl

@[simp] theorem takePacket_now (i : Nat) (p : Packet) (s : State) : ((takePacket i p).run s).now = s.now := by
  simp only [takePacket, Fx.run_look]
  split
  · simp
  · rw [Fx.run_when]
    split <;> rfl

@[simp] theorem takePacket_grade (i : Nat) (p : Packet) (s : State) : ((takePacket i p).run s).grade = s.grade := by
  simp only [takePacket, Fx.run_look]
  split
  · simp
  · rw [Fx.run_when]
    split <;> rfl

@[simp] theorem takePacket_mem (i : Nat) (p : Packet) (s : State) : ((takePacket i p).run s).mem = s.mem := by
  simp only [takePacket, Fx.run_look]
  split
  · simp
  · rw [Fx.run_when]
    split <;> rfl

@[simp] theorem takePacket_port (i : Nat) (p : Packet) (s : State) : ((takePacket i p).run s).port = s.port := by
  simp only [takePacket, Fx.run_look]
  split
  · simp
  · rw [Fx.run_when]
    split <;> rfl

@[simp] theorem takePacket_power (i : Nat) (p : Packet) (s : State) : ((takePacket i p).run s).power = s.power := by
  simp only [takePacket, Fx.run_look]
  split
  · simp
  · rw [Fx.run_when]
    split <;> rfl

@[simp] theorem takePacket_sideband (i : Nat) (p : Packet) (s : State) : ((takePacket i p).run s).sideband = s.sideband := by
  simp only [takePacket, Fx.run_look]
  split
  · simp
  · rw [Fx.run_when]
    split <;> rfl

@[simp] theorem takePacket_ctxs (i : Nat) (p : Packet) (s : State) : ((takePacket i p).run s).ctxs = s.ctxs := by
  simp only [takePacket, Fx.run_look]
  split
  · simp
  · rw [Fx.run_when]
    split <;> rfl

@[simp] theorem takePacket_hbmStacks (i : Nat) (p : Packet) (s : State) : ((takePacket i p).run s).hbmStacks = s.hbmStacks := by
  simp only [takePacket, Fx.run_look]
  split
  · simp
  · rw [Fx.run_when]
    split <;> rfl

@[simp] theorem takePacket_rings (i : Nat) (p : Packet) (s : State) : ((takePacket i p).run s).rings = s.rings := by
  simp only [takePacket, Fx.run_look]
  split
  · simp
  · rw [Fx.run_when]
    split <;> rfl

@[simp] theorem takePacket_evc (i : Nat) (p : Packet) (s : State) : ((takePacket i p).run s).evc = s.evc := by
  simp only [takePacket, Fx.run_look]
  split
  · simp
  · rw [Fx.run_when]
    split <;> rfl

@[simp] theorem takePacket_ditch (i : Nat) (p : Packet) (s : State) : ((takePacket i p).run s).ditch = s.ditch := by
  simp only [takePacket, Fx.run_look]
  split
  · simp
  · rw [Fx.run_when]
    split <;> rfl

/-! ## pushFlit -/

@[simp] theorem pushFlit_pending (i t : Nat) (b : Byte) (x : List Byte) (s : State) : ((pushFlit i t b x).run s).pending = s.pending := by
  rfl

@[simp] theorem pushFlit_freeCtr (i t : Nat) (b : Byte) (x : List Byte) (s : State) : ((pushFlit i t b x).run s).freeCtr = s.freeCtr := by
  rfl

@[simp] theorem pushFlit_now (i t : Nat) (b : Byte) (x : List Byte) (s : State) : ((pushFlit i t b x).run s).now = s.now := by
  rfl

@[simp] theorem pushFlit_grade (i t : Nat) (b : Byte) (x : List Byte) (s : State) : ((pushFlit i t b x).run s).grade = s.grade := by
  rfl

@[simp] theorem pushFlit_mem (i t : Nat) (b : Byte) (x : List Byte) (s : State) : ((pushFlit i t b x).run s).mem = s.mem := by
  rfl

@[simp] theorem pushFlit_hub (i t : Nat) (b : Byte) (x : List Byte) (s : State) : ((pushFlit i t b x).run s).hub = s.hub := by
  rfl

@[simp] theorem pushFlit_port (i t : Nat) (b : Byte) (x : List Byte) (s : State) : ((pushFlit i t b x).run s).port = s.port := by
  rfl

@[simp] theorem pushFlit_power (i t : Nat) (b : Byte) (x : List Byte) (s : State) : ((pushFlit i t b x).run s).power = s.power := by
  rfl

@[simp] theorem pushFlit_sideband (i t : Nat) (b : Byte) (x : List Byte) (s : State) : ((pushFlit i t b x).run s).sideband = s.sideband := by
  rfl

@[simp] theorem pushFlit_ctxs (i t : Nat) (b : Byte) (x : List Byte) (s : State) : ((pushFlit i t b x).run s).ctxs = s.ctxs := by
  rfl

@[simp] theorem pushFlit_fields (i t : Nat) (b : Byte) (x : List Byte) (s : State) : ((pushFlit i t b x).run s).fields = s.fields := by
  rfl

@[simp] theorem pushFlit_hbmStacks (i t : Nat) (b : Byte) (x : List Byte) (s : State) : ((pushFlit i t b x).run s).hbmStacks = s.hbmStacks := by
  rfl

@[simp] theorem pushFlit_rings (i t : Nat) (b : Byte) (x : List Byte) (s : State) : ((pushFlit i t b x).run s).rings = s.rings := by
  rfl

@[simp] theorem pushFlit_evc (i t : Nat) (b : Byte) (x : List Byte) (s : State) : ((pushFlit i t b x).run s).evc = s.evc := by
  rfl

@[simp] theorem pushFlit_ditch (i t : Nat) (b : Byte) (x : List Byte) (s : State) : ((pushFlit i t b x).run s).ditch = s.ditch := by
  rfl

/-! ## sendIdle -/

@[simp] theorem sendIdle_pending (i : Nat) (s : State) : ((sendIdle i).run s).pending = s.pending := by
  rfl

@[simp] theorem sendIdle_freeCtr (i : Nat) (s : State) : ((sendIdle i).run s).freeCtr = s.freeCtr := by
  rfl

@[simp] theorem sendIdle_now (i : Nat) (s : State) : ((sendIdle i).run s).now = s.now := by
  rfl

@[simp] theorem sendIdle_grade (i : Nat) (s : State) : ((sendIdle i).run s).grade = s.grade := by
  rfl

@[simp] theorem sendIdle_mem (i : Nat) (s : State) : ((sendIdle i).run s).mem = s.mem := by
  rfl

@[simp] theorem sendIdle_hub (i : Nat) (s : State) : ((sendIdle i).run s).hub = s.hub := by
  rfl

@[simp] theorem sendIdle_port (i : Nat) (s : State) : ((sendIdle i).run s).port = s.port := by
  rfl

@[simp] theorem sendIdle_power (i : Nat) (s : State) : ((sendIdle i).run s).power = s.power := by
  rfl

@[simp] theorem sendIdle_sideband (i : Nat) (s : State) : ((sendIdle i).run s).sideband = s.sideband := by
  rfl

@[simp] theorem sendIdle_ctxs (i : Nat) (s : State) : ((sendIdle i).run s).ctxs = s.ctxs := by
  rfl

@[simp] theorem sendIdle_fields (i : Nat) (s : State) : ((sendIdle i).run s).fields = s.fields := by
  rfl

@[simp] theorem sendIdle_hbmStacks (i : Nat) (s : State) : ((sendIdle i).run s).hbmStacks = s.hbmStacks := by
  rfl

@[simp] theorem sendIdle_links (i : Nat) (s : State) : ((sendIdle i).run s).links = s.links := by
  rfl

@[simp] theorem sendIdle_rings (i : Nat) (s : State) : ((sendIdle i).run s).rings = s.rings := by
  rfl

@[simp] theorem sendIdle_evc (i : Nat) (s : State) : ((sendIdle i).run s).evc = s.evc := by
  rfl

@[simp] theorem sendIdle_ditch (i : Nat) (s : State) : ((sendIdle i).run s).ditch = s.ditch := by
  rfl

/-! ## fillSlot -/

@[simp] theorem fillSlot_pending (i : Nat) (s : State) : ((fillSlot i).run s).pending = s.pending := by
  simp only [fillSlot, Fx.run_look]
  split <;> simp

@[simp] theorem fillSlot_freeCtr (i : Nat) (s : State) : ((fillSlot i).run s).freeCtr = s.freeCtr := by
  simp only [fillSlot, Fx.run_look]
  split <;> simp

@[simp] theorem fillSlot_now (i : Nat) (s : State) : ((fillSlot i).run s).now = s.now := by
  simp only [fillSlot, Fx.run_look]
  split <;> simp

@[simp] theorem fillSlot_grade (i : Nat) (s : State) : ((fillSlot i).run s).grade = s.grade := by
  simp only [fillSlot, Fx.run_look]
  split <;> simp

@[simp] theorem fillSlot_mem (i : Nat) (s : State) : ((fillSlot i).run s).mem = s.mem := by
  simp only [fillSlot, Fx.run_look]
  split <;> simp

@[simp] theorem fillSlot_hub (i : Nat) (s : State) : ((fillSlot i).run s).hub = s.hub := by
  simp only [fillSlot, Fx.run_look]
  split <;> simp

@[simp] theorem fillSlot_port (i : Nat) (s : State) : ((fillSlot i).run s).port = s.port := by
  simp only [fillSlot, Fx.run_look]
  split <;> simp

@[simp] theorem fillSlot_power (i : Nat) (s : State) : ((fillSlot i).run s).power = s.power := by
  simp only [fillSlot, Fx.run_look]
  split <;> simp

@[simp] theorem fillSlot_sideband (i : Nat) (s : State) : ((fillSlot i).run s).sideband = s.sideband := by
  simp only [fillSlot, Fx.run_look]
  split <;> simp

@[simp] theorem fillSlot_ctxs (i : Nat) (s : State) : ((fillSlot i).run s).ctxs = s.ctxs := by
  simp only [fillSlot, Fx.run_look]
  split <;> simp

@[simp] theorem fillSlot_fields (i : Nat) (s : State) : ((fillSlot i).run s).fields = s.fields := by
  simp only [fillSlot, Fx.run_look]
  split <;> simp

@[simp] theorem fillSlot_hbmStacks (i : Nat) (s : State) : ((fillSlot i).run s).hbmStacks = s.hbmStacks := by
  simp only [fillSlot, Fx.run_look]
  split <;> simp

@[simp] theorem fillSlot_rings (i : Nat) (s : State) : ((fillSlot i).run s).rings = s.rings := by
  simp only [fillSlot, Fx.run_look]
  split <;> simp

@[simp] theorem fillSlot_evc (i : Nat) (s : State) : ((fillSlot i).run s).evc = s.evc := by
  simp only [fillSlot, Fx.run_look]
  split <;> simp

@[simp] theorem fillSlot_ditch (i : Nat) (s : State) : ((fillSlot i).run s).ditch = s.ditch := by
  simp only [fillSlot, Fx.run_look]
  split <;> simp

/-! ## sendFlit -/

@[simp] theorem sendFlit_pending (i t : Nat) (x : List Byte) (s : State) : ((sendFlit i t x).run s).pending = s.pending := by
  simp only [sendFlit, Fx.run_look]
  split <;> simp

@[simp] theorem sendFlit_freeCtr (i t : Nat) (x : List Byte) (s : State) : ((sendFlit i t x).run s).freeCtr = s.freeCtr := by
  simp only [sendFlit, Fx.run_look]
  split <;> simp

@[simp] theorem sendFlit_now (i t : Nat) (x : List Byte) (s : State) : ((sendFlit i t x).run s).now = s.now := by
  simp only [sendFlit, Fx.run_look]
  split <;> simp

@[simp] theorem sendFlit_grade (i t : Nat) (x : List Byte) (s : State) : ((sendFlit i t x).run s).grade = s.grade := by
  simp only [sendFlit, Fx.run_look]
  split <;> simp

@[simp] theorem sendFlit_mem (i t : Nat) (x : List Byte) (s : State) : ((sendFlit i t x).run s).mem = s.mem := by
  simp only [sendFlit, Fx.run_look]
  split <;> simp

@[simp] theorem sendFlit_hub (i t : Nat) (x : List Byte) (s : State) : ((sendFlit i t x).run s).hub = s.hub := by
  simp only [sendFlit, Fx.run_look]
  split <;> simp

@[simp] theorem sendFlit_port (i t : Nat) (x : List Byte) (s : State) : ((sendFlit i t x).run s).port = s.port := by
  simp only [sendFlit, Fx.run_look]
  split <;> simp

@[simp] theorem sendFlit_power (i t : Nat) (x : List Byte) (s : State) : ((sendFlit i t x).run s).power = s.power := by
  simp only [sendFlit, Fx.run_look]
  split <;> simp

@[simp] theorem sendFlit_sideband (i t : Nat) (x : List Byte) (s : State) : ((sendFlit i t x).run s).sideband = s.sideband := by
  simp only [sendFlit, Fx.run_look]
  split <;> simp

@[simp] theorem sendFlit_ctxs (i t : Nat) (x : List Byte) (s : State) : ((sendFlit i t x).run s).ctxs = s.ctxs := by
  simp only [sendFlit, Fx.run_look]
  split <;> simp

@[simp] theorem sendFlit_fields (i t : Nat) (x : List Byte) (s : State) : ((sendFlit i t x).run s).fields = s.fields := by
  simp only [sendFlit, Fx.run_look]
  split <;> simp

@[simp] theorem sendFlit_hbmStacks (i t : Nat) (x : List Byte) (s : State) : ((sendFlit i t x).run s).hbmStacks = s.hbmStacks := by
  simp only [sendFlit, Fx.run_look]
  split <;> simp

@[simp] theorem sendFlit_rings (i t : Nat) (x : List Byte) (s : State) : ((sendFlit i t x).run s).rings = s.rings := by
  simp only [sendFlit, Fx.run_look]
  split <;> simp

@[simp] theorem sendFlit_evc (i t : Nat) (x : List Byte) (s : State) : ((sendFlit i t x).run s).evc = s.evc := by
  simp only [sendFlit, Fx.run_look]
  split <;> simp

@[simp] theorem sendFlit_ditch (i t : Nat) (x : List Byte) (s : State) : ((sendFlit i t x).run s).ditch = s.ditch := by
  simp only [sendFlit, Fx.run_look]
  split <;> simp

/-! ## notify -/

@[simp] theorem notify_pending (i : Nat) (s : State) : ((notify i).run s).pending = s.pending := by
  rfl

@[simp] theorem notify_freeCtr (i : Nat) (s : State) : ((notify i).run s).freeCtr = s.freeCtr := by
  rfl

@[simp] theorem notify_now (i : Nat) (s : State) : ((notify i).run s).now = s.now := by
  rfl

@[simp] theorem notify_grade (i : Nat) (s : State) : ((notify i).run s).grade = s.grade := by
  rfl

@[simp] theorem notify_mem (i : Nat) (s : State) : ((notify i).run s).mem = s.mem := by
  rfl

@[simp] theorem notify_hub (i : Nat) (s : State) : ((notify i).run s).hub = s.hub := by
  rfl

@[simp] theorem notify_port (i : Nat) (s : State) : ((notify i).run s).port = s.port := by
  rfl

@[simp] theorem notify_power (i : Nat) (s : State) : ((notify i).run s).power = s.power := by
  rfl

@[simp] theorem notify_sideband (i : Nat) (s : State) : ((notify i).run s).sideband = s.sideband := by
  rfl

@[simp] theorem notify_ctxs (i : Nat) (s : State) : ((notify i).run s).ctxs = s.ctxs := by
  rfl

@[simp] theorem notify_fields (i : Nat) (s : State) : ((notify i).run s).fields = s.fields := by
  rfl

@[simp] theorem notify_hbmStacks (i : Nat) (s : State) : ((notify i).run s).hbmStacks = s.hbmStacks := by
  rfl

@[simp] theorem notify_links (i : Nat) (s : State) : ((notify i).run s).links = s.links := by
  rfl

@[simp] theorem notify_rings (i : Nat) (s : State) : ((notify i).run s).rings = s.rings := by
  rfl

@[simp] theorem notify_evc (i : Nat) (s : State) : ((notify i).run s).evc = s.evc := by
  rfl

@[simp] theorem notify_ditch (i : Nat) (s : State) : ((notify i).run s).ditch = s.ditch := by
  rfl

/-! ## progress -/

/-- An engine's progress is noted with the cycle in which it comes, and nothing else changes (R479). -/
@[simp] theorem progress_run (f e : Nat) (s : State) :
    (progress f e).run s = s.modField f (fun g => { g with progress := tablePut g.progress e s.now }) := rfl

/-! ## onOp -/

@[simp] theorem onOp_pending (c : Nat) (q : U32) (f : Op → Op) (s : State) : ((onOp c q f).run s).pending = s.pending := by
  rfl

@[simp] theorem onOp_out (c : Nat) (q : U32) (f : Op → Op) (s : State) : ((onOp c q f).run s).out = s.out := by
  rfl

@[simp] theorem onOp_freeCtr (c : Nat) (q : U32) (f : Op → Op) (s : State) : ((onOp c q f).run s).freeCtr = s.freeCtr := by
  rfl

@[simp] theorem onOp_now (c : Nat) (q : U32) (f : Op → Op) (s : State) : ((onOp c q f).run s).now = s.now := by
  rfl

@[simp] theorem onOp_grade (c : Nat) (q : U32) (f : Op → Op) (s : State) : ((onOp c q f).run s).grade = s.grade := by
  rfl

@[simp] theorem onOp_mem (c : Nat) (q : U32) (f : Op → Op) (s : State) : ((onOp c q f).run s).mem = s.mem := by
  rfl

@[simp] theorem onOp_hub (c : Nat) (q : U32) (f : Op → Op) (s : State) : ((onOp c q f).run s).hub = s.hub := by
  rfl

@[simp] theorem onOp_port (c : Nat) (q : U32) (f : Op → Op) (s : State) : ((onOp c q f).run s).port = s.port := by
  rfl

@[simp] theorem onOp_power (c : Nat) (q : U32) (f : Op → Op) (s : State) : ((onOp c q f).run s).power = s.power := by
  rfl

@[simp] theorem onOp_sideband (c : Nat) (q : U32) (f : Op → Op) (s : State) : ((onOp c q f).run s).sideband = s.sideband := by
  rfl

@[simp] theorem onOp_fields (c : Nat) (q : U32) (f : Op → Op) (s : State) : ((onOp c q f).run s).fields = s.fields := by
  rfl

@[simp] theorem onOp_hbmStacks (c : Nat) (q : U32) (f : Op → Op) (s : State) : ((onOp c q f).run s).hbmStacks = s.hbmStacks := by
  rfl

@[simp] theorem onOp_links (c : Nat) (q : U32) (f : Op → Op) (s : State) : ((onOp c q f).run s).links = s.links := by
  rfl

@[simp] theorem onOp_rings (c : Nat) (q : U32) (f : Op → Op) (s : State) : ((onOp c q f).run s).rings = s.rings := by
  rfl

@[simp] theorem onOp_evc (c : Nat) (q : U32) (f : Op → Op) (s : State) : ((onOp c q f).run s).evc = s.evc := by
  rfl

@[simp] theorem onOp_ditch (c : Nat) (q : U32) (f : Op → Op) (s : State) : ((onOp c q f).run s).ditch = s.ditch := by
  rfl

/-! ## setFlags -/

@[simp] theorem setFlags_pending (c f : Nat) (s : State) : ((setFlags c f).run s).pending = s.pending := by
  rfl

@[simp] theorem setFlags_out (c f : Nat) (s : State) : ((setFlags c f).run s).out = s.out := by
  rfl

@[simp] theorem setFlags_freeCtr (c f : Nat) (s : State) : ((setFlags c f).run s).freeCtr = s.freeCtr := by
  rfl

@[simp] theorem setFlags_now (c f : Nat) (s : State) : ((setFlags c f).run s).now = s.now := by
  rfl

@[simp] theorem setFlags_grade (c f : Nat) (s : State) : ((setFlags c f).run s).grade = s.grade := by
  rfl

@[simp] theorem setFlags_mem (c f : Nat) (s : State) : ((setFlags c f).run s).mem = s.mem := by
  rfl

@[simp] theorem setFlags_hub (c f : Nat) (s : State) : ((setFlags c f).run s).hub = s.hub := by
  rfl

@[simp] theorem setFlags_port (c f : Nat) (s : State) : ((setFlags c f).run s).port = s.port := by
  rfl

@[simp] theorem setFlags_power (c f : Nat) (s : State) : ((setFlags c f).run s).power = s.power := by
  rfl

@[simp] theorem setFlags_sideband (c f : Nat) (s : State) : ((setFlags c f).run s).sideband = s.sideband := by
  rfl

@[simp] theorem setFlags_fields (c f : Nat) (s : State) : ((setFlags c f).run s).fields = s.fields := by
  rfl

@[simp] theorem setFlags_hbmStacks (c f : Nat) (s : State) : ((setFlags c f).run s).hbmStacks = s.hbmStacks := by
  rfl

@[simp] theorem setFlags_links (c f : Nat) (s : State) : ((setFlags c f).run s).links = s.links := by
  rfl

@[simp] theorem setFlags_rings (c f : Nat) (s : State) : ((setFlags c f).run s).rings = s.rings := by
  rfl

@[simp] theorem setFlags_evc (c f : Nat) (s : State) : ((setFlags c f).run s).evc = s.evc := by
  rfl

@[simp] theorem setFlags_ditch (c f : Nat) (s : State) : ((setFlags c f).run s).ditch = s.ditch := by
  rfl

/-! ## failOp -/

@[simp] theorem failOp_pending (c : Nat) (q : U32) (st : Nat) (s : State) : ((failOp c q st).run s).pending = s.pending := by
  rfl

@[simp] theorem failOp_out (c : Nat) (q : U32) (st : Nat) (s : State) : ((failOp c q st).run s).out = s.out := by
  rfl

@[simp] theorem failOp_freeCtr (c : Nat) (q : U32) (st : Nat) (s : State) : ((failOp c q st).run s).freeCtr = s.freeCtr := by
  rfl

@[simp] theorem failOp_now (c : Nat) (q : U32) (st : Nat) (s : State) : ((failOp c q st).run s).now = s.now := by
  rfl

@[simp] theorem failOp_grade (c : Nat) (q : U32) (st : Nat) (s : State) : ((failOp c q st).run s).grade = s.grade := by
  rfl

@[simp] theorem failOp_mem (c : Nat) (q : U32) (st : Nat) (s : State) : ((failOp c q st).run s).mem = s.mem := by
  rfl

@[simp] theorem failOp_hub (c : Nat) (q : U32) (st : Nat) (s : State) : ((failOp c q st).run s).hub = s.hub := by
  rfl

@[simp] theorem failOp_port (c : Nat) (q : U32) (st : Nat) (s : State) : ((failOp c q st).run s).port = s.port := by
  rfl

@[simp] theorem failOp_power (c : Nat) (q : U32) (st : Nat) (s : State) : ((failOp c q st).run s).power = s.power := by
  rfl

@[simp] theorem failOp_sideband (c : Nat) (q : U32) (st : Nat) (s : State) : ((failOp c q st).run s).sideband = s.sideband := by
  rfl

@[simp] theorem failOp_fields (c : Nat) (q : U32) (st : Nat) (s : State) : ((failOp c q st).run s).fields = s.fields := by
  rfl

@[simp] theorem failOp_hbmStacks (c : Nat) (q : U32) (st : Nat) (s : State) : ((failOp c q st).run s).hbmStacks = s.hbmStacks := by
  rfl

@[simp] theorem failOp_links (c : Nat) (q : U32) (st : Nat) (s : State) : ((failOp c q st).run s).links = s.links := by
  rfl

@[simp] theorem failOp_rings (c : Nat) (q : U32) (st : Nat) (s : State) : ((failOp c q st).run s).rings = s.rings := by
  rfl

@[simp] theorem failOp_evc (c : Nat) (q : U32) (st : Nat) (s : State) : ((failOp c q st).run s).evc = s.evc := by
  rfl

@[simp] theorem failOp_ditch (c : Nat) (q : U32) (st : Nat) (s : State) : ((failOp c q st).run s).ditch = s.ditch := by
  rfl

/-! ## touchWord -/

@[simp] theorem touchWord_pending (w : Nat) (s : State) : ((touchWord w).run s).pending = s.pending := by
  simp only [touchWord, Fx.run_look]
  split
  · split
    · simp
    · simp [Fx.run_when]
      split <;> simp
  · rw [Fx.run_when]
    split
    · simp only [Fx.run_andThen]
      split <;> simp
    · rfl

@[simp] theorem touchWord_freeCtr (w : Nat) (s : State) : ((touchWord w).run s).freeCtr = s.freeCtr := by
  simp only [touchWord, Fx.run_look]
  split
  · split
    · simp
    · simp [Fx.run_when]
      split <;> simp
  · rw [Fx.run_when]
    split
    · simp only [Fx.run_andThen]
      split <;> simp
    · rfl

@[simp] theorem touchWord_now (w : Nat) (s : State) : ((touchWord w).run s).now = s.now := by
  simp only [touchWord, Fx.run_look]
  split
  · split
    · simp
    · simp [Fx.run_when]
      split <;> simp
  · rw [Fx.run_when]
    split
    · simp only [Fx.run_andThen]
      split <;> simp
    · rfl

@[simp] theorem touchWord_grade (w : Nat) (s : State) : ((touchWord w).run s).grade = s.grade := by
  simp only [touchWord, Fx.run_look]
  split
  · split
    · simp
    · simp [Fx.run_when]
      split <;> simp
  · rw [Fx.run_when]
    split
    · simp only [Fx.run_andThen]
      split <;> simp
    · rfl

@[simp] theorem touchWord_hub (w : Nat) (s : State) : ((touchWord w).run s).hub = s.hub := by
  simp only [touchWord, Fx.run_look]
  split
  · split
    · simp
    · simp [Fx.run_when]
      split <;> simp
  · rw [Fx.run_when]
    split
    · simp only [Fx.run_andThen]
      split <;> simp
    · rfl

@[simp] theorem touchWord_port (w : Nat) (s : State) : ((touchWord w).run s).port = s.port := by
  simp only [touchWord, Fx.run_look]
  split
  · split
    · simp
    · simp [Fx.run_when]
      split <;> simp
  · rw [Fx.run_when]
    split
    · simp only [Fx.run_andThen]
      split <;> simp
    · rfl

@[simp] theorem touchWord_power (w : Nat) (s : State) : ((touchWord w).run s).power = s.power := by
  simp only [touchWord, Fx.run_look]
  split
  · split
    · simp
    · simp [Fx.run_when]
      split <;> simp
  · rw [Fx.run_when]
    split
    · simp only [Fx.run_andThen]
      split <;> simp
    · rfl

@[simp] theorem touchWord_sideband (w : Nat) (s : State) : ((touchWord w).run s).sideband = s.sideband := by
  simp only [touchWord, Fx.run_look]
  split
  · split
    · simp
    · simp [Fx.run_when]
      split <;> simp
  · rw [Fx.run_when]
    split
    · simp only [Fx.run_andThen]
      split <;> simp
    · rfl

@[simp] theorem touchWord_ctxs (w : Nat) (s : State) : ((touchWord w).run s).ctxs = s.ctxs := by
  simp only [touchWord, Fx.run_look]
  split
  · split
    · simp
    · simp [Fx.run_when]
      split <;> simp
  · rw [Fx.run_when]
    split
    · simp only [Fx.run_andThen]
      split <;> simp
    · rfl

@[simp] theorem touchWord_links (w : Nat) (s : State) : ((touchWord w).run s).links = s.links := by
  simp only [touchWord, Fx.run_look]
  split
  · split
    · simp
    · simp [Fx.run_when]
      split <;> simp
  · rw [Fx.run_when]
    split
    · simp only [Fx.run_andThen]
      split <;> simp
    · rfl

@[simp] theorem touchWord_ditch (w : Nat) (s : State) : ((touchWord w).run s).ditch = s.ditch := by
  simp only [touchWord, Fx.run_look]
  split
  · split
    · simp
    · simp [Fx.run_when]
      split <;> simp
  · rw [Fx.run_when]
    split
    · simp only [Fx.run_andThen]
      split <;> simp
    · rfl

/-! ## touchRange -/

@[simp] theorem touchRange_pending (k n : Nat) (s : State) : ((touchRange k n).run s).pending = s.pending := by
  simp only [touchRange, Fx.run_look]
  exact Fx.each_keeps (fun t => t.pending) _ _ (fun w t => touchWord_pending w t) s

@[simp] theorem touchRange_freeCtr (k n : Nat) (s : State) : ((touchRange k n).run s).freeCtr = s.freeCtr := by
  simp only [touchRange, Fx.run_look]
  exact Fx.each_keeps (fun t => t.freeCtr) _ _ (fun w t => touchWord_freeCtr w t) s

@[simp] theorem touchRange_now (k n : Nat) (s : State) : ((touchRange k n).run s).now = s.now := by
  simp only [touchRange, Fx.run_look]
  exact Fx.each_keeps (fun t => t.now) _ _ (fun w t => touchWord_now w t) s

@[simp] theorem touchRange_grade (k n : Nat) (s : State) : ((touchRange k n).run s).grade = s.grade := by
  simp only [touchRange, Fx.run_look]
  exact Fx.each_keeps (fun t => t.grade) _ _ (fun w t => touchWord_grade w t) s

@[simp] theorem touchRange_hub (k n : Nat) (s : State) : ((touchRange k n).run s).hub = s.hub := by
  simp only [touchRange, Fx.run_look]
  exact Fx.each_keeps (fun t => t.hub) _ _ (fun w t => touchWord_hub w t) s

@[simp] theorem touchRange_port (k n : Nat) (s : State) : ((touchRange k n).run s).port = s.port := by
  simp only [touchRange, Fx.run_look]
  exact Fx.each_keeps (fun t => t.port) _ _ (fun w t => touchWord_port w t) s

@[simp] theorem touchRange_power (k n : Nat) (s : State) : ((touchRange k n).run s).power = s.power := by
  simp only [touchRange, Fx.run_look]
  exact Fx.each_keeps (fun t => t.power) _ _ (fun w t => touchWord_power w t) s

@[simp] theorem touchRange_sideband (k n : Nat) (s : State) : ((touchRange k n).run s).sideband = s.sideband := by
  simp only [touchRange, Fx.run_look]
  exact Fx.each_keeps (fun t => t.sideband) _ _ (fun w t => touchWord_sideband w t) s

@[simp] theorem touchRange_ctxs (k n : Nat) (s : State) : ((touchRange k n).run s).ctxs = s.ctxs := by
  simp only [touchRange, Fx.run_look]
  exact Fx.each_keeps (fun t => t.ctxs) _ _ (fun w t => touchWord_ctxs w t) s

@[simp] theorem touchRange_links (k n : Nat) (s : State) : ((touchRange k n).run s).links = s.links := by
  simp only [touchRange, Fx.run_look]
  exact Fx.each_keeps (fun t => t.links) _ _ (fun w t => touchWord_links w t) s

@[simp] theorem touchRange_ditch (k n : Nat) (s : State) : ((touchRange k n).run s).ditch = s.ditch := by
  simp only [touchRange, Fx.run_look]
  exact Fx.each_keeps (fun t => t.ditch) _ _ (fun w t => touchWord_ditch w t) s

/-! ## Answers and waits of the port -/

@[simp] theorem State.answered_pending (s : State) (m : HostMsg) (st : Nat) (r : List Byte) : (s.answered m st r).pending = s.pending := by
  simp only [State.answered]
  split <;> rfl

@[simp] theorem State.waiting_pending (s : State) (m : HostMsg) (k : WaitKind) : (s.waiting m k).pending = s.pending := rfl

@[simp] theorem State.announced_pending (s t : State) : (s.announced t).pending = t.pending := by
  simp only [State.announced]
  split <;> rfl

@[simp] theorem State.waiting_out (s : State) (m : HostMsg) (k : WaitKind) : (s.waiting m k).out = s.out := rfl

@[simp] theorem State.answered_freeCtr (s : State) (m : HostMsg) (st : Nat) (r : List Byte) : (s.answered m st r).freeCtr = s.freeCtr := by
  simp only [State.answered]
  split <;> rfl

@[simp] theorem State.waiting_freeCtr (s : State) (m : HostMsg) (k : WaitKind) : (s.waiting m k).freeCtr = s.freeCtr := rfl

@[simp] theorem State.announced_freeCtr (s t : State) : (s.announced t).freeCtr = t.freeCtr := by
  simp only [State.announced]
  split <;> rfl

@[simp] theorem State.answered_now (s : State) (m : HostMsg) (st : Nat) (r : List Byte) : (s.answered m st r).now = s.now := by
  simp only [State.answered]
  split <;> rfl

@[simp] theorem State.waiting_now (s : State) (m : HostMsg) (k : WaitKind) : (s.waiting m k).now = s.now := rfl

@[simp] theorem State.announced_now (s t : State) : (s.announced t).now = t.now := by
  simp only [State.announced]
  split <;> rfl

@[simp] theorem State.answered_grade (s : State) (m : HostMsg) (st : Nat) (r : List Byte) : (s.answered m st r).grade = s.grade := by
  simp only [State.answered]
  split <;> rfl

@[simp] theorem State.waiting_grade (s : State) (m : HostMsg) (k : WaitKind) : (s.waiting m k).grade = s.grade := rfl

@[simp] theorem State.announced_grade (s t : State) : (s.announced t).grade = t.grade := by
  simp only [State.announced]
  split <;> rfl

@[simp] theorem State.answered_mem (s : State) (m : HostMsg) (st : Nat) (r : List Byte) : (s.answered m st r).mem = s.mem := by
  simp only [State.answered]
  split <;> rfl

@[simp] theorem State.waiting_mem (s : State) (m : HostMsg) (k : WaitKind) : (s.waiting m k).mem = s.mem := rfl

@[simp] theorem State.announced_mem (s t : State) : (s.announced t).mem = t.mem := by
  simp only [State.announced]
  split <;> rfl

@[simp] theorem State.answered_hub (s : State) (m : HostMsg) (st : Nat) (r : List Byte) : (s.answered m st r).hub = s.hub := by
  simp only [State.answered]
  split <;> rfl

@[simp] theorem State.waiting_hub (s : State) (m : HostMsg) (k : WaitKind) : (s.waiting m k).hub = s.hub := rfl

@[simp] theorem State.announced_hub (s t : State) : (s.announced t).hub = t.hub := by
  simp only [State.announced]
  split <;> rfl

@[simp] theorem State.answered_port (s : State) (m : HostMsg) (st : Nat) (r : List Byte) : (s.answered m st r).port = s.port := by
  simp only [State.answered]
  split <;> rfl

@[simp] theorem State.announced_port (s t : State) : (s.announced t).port = t.port := by
  simp only [State.announced]
  split <;> rfl

@[simp] theorem State.answered_power (s : State) (m : HostMsg) (st : Nat) (r : List Byte) : (s.answered m st r).power = s.power := by
  simp only [State.answered]
  split <;> rfl

@[simp] theorem State.waiting_power (s : State) (m : HostMsg) (k : WaitKind) : (s.waiting m k).power = s.power := rfl

@[simp] theorem State.announced_power (s t : State) : (s.announced t).power = t.power := by
  simp only [State.announced]
  split <;> rfl

@[simp] theorem State.answered_sideband (s : State) (m : HostMsg) (st : Nat) (r : List Byte) : (s.answered m st r).sideband = s.sideband := by
  simp only [State.answered]
  split <;> rfl

@[simp] theorem State.waiting_sideband (s : State) (m : HostMsg) (k : WaitKind) : (s.waiting m k).sideband = s.sideband := rfl

@[simp] theorem State.announced_sideband (s t : State) : (s.announced t).sideband = t.sideband := by
  simp only [State.announced]
  split <;> rfl

@[simp] theorem State.answered_ctxs (s : State) (m : HostMsg) (st : Nat) (r : List Byte) : (s.answered m st r).ctxs = s.ctxs := by
  simp only [State.answered]
  split <;> rfl

@[simp] theorem State.waiting_ctxs (s : State) (m : HostMsg) (k : WaitKind) : (s.waiting m k).ctxs = s.ctxs := rfl

@[simp] theorem State.announced_ctxs (s t : State) : (s.announced t).ctxs = t.ctxs := by
  simp only [State.announced]
  split <;> rfl

@[simp] theorem State.answered_fields (s : State) (m : HostMsg) (st : Nat) (r : List Byte) : (s.answered m st r).fields = s.fields := by
  simp only [State.answered]
  split <;> rfl

@[simp] theorem State.waiting_fields (s : State) (m : HostMsg) (k : WaitKind) : (s.waiting m k).fields = s.fields := rfl

@[simp] theorem State.announced_fields (s t : State) : (s.announced t).fields = t.fields := by
  simp only [State.announced]
  split <;> rfl

@[simp] theorem State.answered_hbmStacks (s : State) (m : HostMsg) (st : Nat) (r : List Byte) : (s.answered m st r).hbmStacks = s.hbmStacks := by
  simp only [State.answered]
  split <;> rfl

@[simp] theorem State.waiting_hbmStacks (s : State) (m : HostMsg) (k : WaitKind) : (s.waiting m k).hbmStacks = s.hbmStacks := rfl

@[simp] theorem State.announced_hbmStacks (s t : State) : (s.announced t).hbmStacks = t.hbmStacks := by
  simp only [State.announced]
  split <;> rfl

@[simp] theorem State.answered_links (s : State) (m : HostMsg) (st : Nat) (r : List Byte) : (s.answered m st r).links = s.links := by
  simp only [State.answered]
  split <;> rfl

@[simp] theorem State.waiting_links (s : State) (m : HostMsg) (k : WaitKind) : (s.waiting m k).links = s.links := rfl

@[simp] theorem State.announced_links (s t : State) : (s.announced t).links = t.links := by
  simp only [State.announced]
  split <;> rfl

@[simp] theorem State.answered_rings (s : State) (m : HostMsg) (st : Nat) (r : List Byte) : (s.answered m st r).rings = s.rings := by
  simp only [State.answered]
  split <;> rfl

@[simp] theorem State.waiting_rings (s : State) (m : HostMsg) (k : WaitKind) : (s.waiting m k).rings = s.rings := rfl

@[simp] theorem State.announced_rings (s t : State) : (s.announced t).rings = t.rings := by
  simp only [State.announced]
  split <;> rfl

@[simp] theorem State.answered_evc (s : State) (m : HostMsg) (st : Nat) (r : List Byte) : (s.answered m st r).evc = s.evc := by
  simp only [State.answered]
  split <;> rfl

@[simp] theorem State.waiting_evc (s : State) (m : HostMsg) (k : WaitKind) : (s.waiting m k).evc = s.evc := rfl

@[simp] theorem State.announced_evc (s t : State) : (s.announced t).evc = t.evc := by
  simp only [State.announced]
  split <;> rfl

@[simp] theorem State.answered_ditch (s : State) (m : HostMsg) (st : Nat) (r : List Byte) : (s.answered m st r).ditch = s.ditch := by
  simp only [State.answered]
  split <;> rfl

@[simp] theorem State.waiting_ditch (s : State) (m : HostMsg) (k : WaitKind) : (s.waiting m k).ditch = s.ditch := rfl

@[simp] theorem State.announced_ditch (s t : State) : (s.announced t).ditch = t.ditch := by
  simp only [State.announced]
  split <;> rfl

end Sys2Proof.Machine
end

