-- ==== Sys2Proof/WellFormed.lean ====
section
/-! DEFINITION. Well-formed commands: every operand lies in the range that its row gives it. A command outside its range
names nothing of the module, and has no effect. -/
namespace Sys2Proof

/-- A queue pair number has 24 bits (R533, 17). -/
def qpOk (q : Nat) : Bool := decide (q < 2 ^ 24)

/-- A SEND message comes on a queue pair and has at most the 8,192 bytes that a receive buffer holds (R537, 17); a shorter
one than a header is answered (R539). -/
def HostMsg.ok (m : HostMsg) : Bool := qpOk m.qp && decide (m.bytes.length ≤ 8192)

/-- A packet's payload is its length, in 32-byte units (R400, 12). -/
def Packet.ok (p : Packet) : Bool :=
  p.payload.length == p.len.toNat && p.payload.length % 32 == 0 && p.payload.length ≤ 512

/-- Sixteen context slots (R2, 00). -/
def ctxOk (c : Nat) : Bool := c < 16
/-- Up to eight fields. -/
def fieldOk (f : Nat) : Bool := f < 8
/-- Up to 32 links. -/
def linkOk (l : Nat) : Bool := l < 32
/-- Up to sixteen HBM stacks. -/
def stackOk (k : Nat) : Bool := k < 16
/-- Twenty engines of a field (R479, 14). -/
def engineOk (e : Nat) : Bool := e < 20
/-- Two supply feeds. -/
def feedOk (f : Nat) : Bool := f < 2
/-- Two sideband buses. -/
def busOk (b : Nat) : Bool := b < 2
/-- A field tile row of the basin (R139, 05). -/
def rowOk (r : Nat) : Bool := r < 256

/-- A residue check fails in one of these engines of R479: those whose arithmetic carries residues (R511, 16). -/
def FaultSite.ofEngine (l : List Nat) (z : FaultSite) : Bool := l.contains z.engine

/-- A bed of a field with physical rows and columns out of its 130 (R102, 04). -/
def BedFault.ok (b : BedFault) : Bool := decide (b.bed < 256) && (b.rows ++ b.cols).all (fun i => decide (i < 130))

/-- What a field reset finds names beds and banks that exist (R102, R358). -/
def ResetCheck.ok (r : ResetCheck) : Bool := r.beds.all BedFault.ok && r.banks.all (fun b => decide (b < 15360))

/-- What bring-up finds has an entry for every field. -/
def BringUp.ok (b : BringUp) : Bool := b.resets.length == 8 && b.resets.all ResetCheck.ok

/-- The command is well formed. -/
def Instr.wf (i : Instr) : Bool :=
  match i with
  | .modInfo m | .moduleReset m | .hostWindow m | .relayCfg m | .powerSet m | .ringSet m | .create m | .destroy m
  | .resume m | .seedSet m | .keeperWrite m | .keeperRead m | .ctxQuery m | .statsRead m | .jobAbort m | .descLoad m
  | .submit m | .submitHost m | .setPower m | .nodeSet m | .routeWrite m | .linkTrain m | .linkFence m | .sluRead m
  | .fieldTest m | .fieldReset m | .repairWrite m | .repairClear m | .hbmRetire m | .mirrorRegion m | .mirrorCopy m
  | .takeover m | .attest m | .certRead m | .fwUpdate m | .regRead m | .regWrite m | .cycleRead m | .commandRelay m => m.ok
  | .eoi source => source < 960
  | .evcTake controller => controller < 9
  | .relay l ⟨p, _, _⟩ | .relayReply l p | .readReq l p | .write l ⟨p, _⟩ | .accWrite l ⟨p, _⟩ | .signalPacket l p | .readResp l p
  | .writeAck l p | .signalAck l p | .linkMgmt l p | .redReady l p | .redHead l p | .redData l p | .redTail l p _ =>
    linkOk l && p.ok
  | .matmul x | .matmulGrouped x | .conv x | .attention x | .reduceMax x | .vector x | .random x | .copy x | .fill x
  | .permute x | .gather x | .reduceScatter x | .allReduce x | .reduce x | .allGather x | .broadcast x | .stepBegin x | .stepEnd x
  | .optimize x | .scaleUpdate x | .wait x | .signal x => ctxOk x.ctx && x.faults.isEmpty
  -- R530 names the basin and the weir: the exact sums, the epilogue addition and the accumulate-write (log 88)
  | .reduceSum x | .reduceSumsq x | .scatterAdd x => ctxOk x.ctx && x.faults.all (FaultSite.ofEngine [1, 2])
  | .normalize x => ctxOk x.ctx && x.faults.all (FaultSite.ofEngine [1])
  | .convert x => ctxOk x.ctx && x.faults.all (FaultSite.ofEngine [2])
  | .operationIssue n => ctxOk n.ctx
  | .basinGrant n => ctxOk n.ctx && n.faults.all (FaultSite.ofEngine [0, 1, 2])
  | .preempt c | .preemptedResume c
  | .collectiveTimeout c | .waitTimeout c | .teardownDone c | .quarantineEnd c => ctxOk c
  | .operationComplete c _ => ctxOk c
  | .passStart f n => fieldOk f && n.residue.all (FaultSite.ofEngine [0, 1])
  | .partialArrival f l => fieldOk f && l.all (FaultSite.ofEngine [1])
  | .partialSend f | .witnessCompare f | .fieldResetTimeout f
  | .fieldTestBorrow f | .fieldTestWaitTimeout f | .fieldTestTimeout f => fieldOk f
  | .fieldResetDone f found => fieldOk f && found.ok
  | .testDone f found => fieldOk f && decide (found.verdict ≤ 2) && found.beds.all BedFault.ok
  | .drainStart f r l => fieldOk f && rowOk r && l.all (FaultSite.ofEngine [1, 2])
  | .tileRowSave f r => fieldOk f && rowOk r
  | .tileRowRestore f c => fieldOk f && ctxOk c
  | .eccWriteback f b r => fieldOk f && decide (b < 1920) && decide (r < 32768)
  | .scrub f ⟨b, l⟩ => fieldOk f && decide (b < 1920) && l.all (fun u => decide (u.granule < 8 * 32768))
  | .setTransitionDone f s => fieldOk f && decide (s < 15)
  | .hbmRefresh ⟨k, _, l⟩ => stackOk k && l.all (fun u => decide (u.granule < 2 ^ 33))
  | .hbmRetireDone k | .hbmStackFailed k => stackOk k
  | .rdmaWrite q _ va data _ => qpOk q && decide (va + data.length ≤ 2 ^ 64)
  | .rdmaRead q _ va len => qpOk q && decide (va + len ≤ 2 ^ 64)
  | .congestionNotification q | .rateRestore q | .ceMarkedPacket q | .connectionManagement _ q => qpOk q
  | .doorbell r _ | .eventRecordWrite r _ => r < 17
  | .linkTrainingDone l _ | .linkDown l | .replayTimeout l | .packetForward l | .blockSend l | .partnerTrainingStart l
  | .abortRecord l _ => linkOk l
  | .laneSubstitute l lane => linkOk l && decide (lane < 8)
  | .flitReceive l flit n => linkOk l && flit.length == 256 && decide (n ≤ 16)
  | .residencyTimeout l v => linkOk l && decide (v < 4)
  | .redReadyResend l e => linkOk l && decide (e < 64)
  | .teardownTimeout c f e => ctxOk c && fieldOk f && engineOk e
  | .engineHung f e | .engineResetTimeout f e | .engineResetDone f e => fieldOk f && engineOk e
  | .mirrorCopyStart _ | .mirrorCopyDone _ => true
  | .powerUp found => found.ok
  | .feedQualify f _ | .feedDisqualify f _ | .fuseTrip f _ | .feedEnableRelease f _ | .feedReversed f _ | .rearm f => feedOk f
  | .feedReturn _ => true
  | .phaseFail r => r < 10
  | .powerCapPeriod _ l => l.length ≤ 8
  | .minPowerExit | .thermtrip | .cooling _ | .refclkLost | .refclkReturn | .pllLockLoss _ | .pluggableInsert _ | .resetStuck
  | .resetStuckRelease => true
  | .thermalThrottle f k _ | .thermalRelease f k _ => fieldOk f && decide (k < 2)
  | .sidebandWrite b _ _ _ | .apply b _ | .sidebandBusFault b _ | .sidebandBusRecover b => busOk b
  | .sbResetPulse _ found => found.ok
  | .rdmaReadResponse _ _ => true

end Sys2Proof
end

