-- ==== Sys2Proof/Tests/Slice0.lean ====
section
/-! SUPPORT. Tests: the spec's worked examples, ill-formed commands, and for every statement a state and operands that meet its
hypotheses. -/
namespace Sys2Proof.Tests
open Sys2Proof Sys2Proof.Machine

set_option Elab.async false

/-- The outcome is a next state. -/
def isNext (o : Host.Outcome State Fault Refusal) : Bool :=
  match o with
  | .next _ => true
  | _ => false

/-! ## Small states and messages -/

/-- Little-endian bytes of a list of (size, value). -/
def fieldsOf (l : List (Nat × Nat)) : List Byte := (l.map (fun p => leBytes p.1 p.2)).flatten

/-- A command message on queue pair 2. -/
def msg (op ctx : Nat) (params : List Byte) : HostMsg :=
  { qp := 2, parity := none, found := none
    bytes := fieldsOf [(1, 1), (1, 0), (2, op), (1, ctx), (1, 0), (2, params.length), (4, 7), (2, 0xFFFF), (50, 0)] ++ params }

/-- A module in service with queue pair 2 open. -/
def up : State :=
  { State.reset with
    hub := { Hub.reset with stage := 9 }
    port := { Port.reset with up := true, qps := [{ num := 2, connected := true, rate := lineRate, lastCnp := none, lastHit := none }] } }

/-- The same with an active context 0 bound to no job, field group 0. -/
def busy : State := up.modCtx 0 (fun x => { x with state := .active, fieldGroup := 0#8 })

/-- The same, its context stopped. -/
def halted : State := up.modCtx 0 (fun x => { x with state := .stopped, fieldGroup := 0#8, stopStatus := 5#16 })

/-- The same with node ID 5. -/
def named (s : State) : State := s.modHub (fun h => { h with node := 5#16 })

/-- The machine keeps its invariant in these states. -/
theorem witness_inv : ModInv State.reset ∧ ModInv up ∧ ModInv busy ∧ ModInv (named busy) := by unfold ModInv; decide +kernel

/-- StepKeepsBooks: the books balance at reset and in these. -/
theorem witness_books : Books State.reset ∧ Books busy := by unfold Books; decide +kernel

/-- StepKeepsInv, StepKeepsBooks, StepRunsFront: a step from a state with the invariant, and an empty queue without delayed commands. -/
theorem witness_step : isNext (step State.reset) = true ∧ State.reset.pending = [] ∧ State.reset.port.delayed = [] := by decide +kernel
/-! ## Host commands -/

/-- A record without operands: WAIT (R264) for counter 3 at least 1, deadline `d`. -/
def waitRecord (seq d : Nat) : List Byte :=
  fieldsOf [(2, 0x7000), (1, 0), (1, 0), (2, 0), (1, 0), (1, 0), (4, seq), (4, 0), (8, 2 ^ 64 - 1), (2, 0xFFFF), (2, 0xFFFF), (4, 0),
    (1, 3), (3, 0), (4, 1), (8, d), (80, 0)]

theorem witness_host_reads :
    up.accepts (msg 0x0100 0xFF []) 0x0100 ∧ up.accepts (msg 0x0802 0xFF []) 0x0802 ∧ busy.accepts (msg 0x0206 0 []) 0x0206 ∧
    busy.accepts (msg 0x0205 0 (fieldsOf [(2, 4095), (2, 1)])) 0x0205 ∧ busy.accepts (msg 0x0205 0 (fieldsOf [(2, 0), (2, 254)])) 0x0205 ∧
    busy.accepts (msg 0x0207 0 (fieldsOf [(2, 4095), (2, 1)])) 0x0207 ∧ busy.accepts (msg 0x0207 0 (fieldsOf [(2, 0), (2, 126)])) 0x0207 ∧
    up.accepts (msg 0x0504 0xFF (fieldsOf [(1, 31), (1, 63), (1, 1)])) 0x0504 ∧ 31 ∈ up.linkIds ∧
    up.accepts (msg 0x0800 0xFF (fieldsOf [(2, 1), (2, 0), (4, 0x500000)])) 0x0800 ∧ selectorOk 0x500000 ∧
    up.accepts (msg 0x0701 0xFF [2#8]) 0x0701 ∧ up.accepts (msg 0x0700 0xFF (fieldsOf [(32, 9)])) 0x0700 := by decide +kernel

theorem witness_host_reads_beyond :
    busy.accepts (msg 0x0205 0 (fieldsOf [(2, 4095), (2, 2)])) 0x0205 ∧ busy.accepts (msg 0x0207 0 (fieldsOf [(2, 4095), (2, 2)])) 0x0207 ∧
    up.accepts (msg 0x0504 0xFF (fieldsOf [(1, 0), (1, 63), (1, 2)])) 0x0504 ∧ up.accepts (msg 0x0701 0xFF [3#8]) 0x0701 := by decide +kernel

/-- Parameters of HOST_WINDOW: window 15, queue pair 2, key 1, address 4096, this length. -/
def windowParams (len : Nat) : List Byte := fieldsOf [(1, 15), (3, 0), (4, 2), (4, 1), (4, 0), (8, 4096), (8, len)]

theorem witness_host_writes_hub :
    up.accepts (msg 0x0102 0xFF (windowParams (2 ^ 40))) 0x0102 ∧ up.accepts (msg 0x0102 0xFF (windowParams 0)) 0x0102 ∧
    up.accepts (msg 0x0103 0xFF (fieldsOf [(1, 1), (1, 0), (2, 9)])) 0x0103 ∧
    (up.accepts (msg 0x0500 0xFF (fieldsOf [(2, 6)])) 0x0500 ∧ ∀ x ∈ up.ctxs, x.state = .free) ∧
    (up.accepts (msg 0x0501 0xFF (fieldsOf [(2, 65534), (2, 1), (4, 0), (4, 0xBFBFBFBF)])) 0x0501 ∧
      65534 + (cmdOf (msg 0x0501 0xFF (fieldsOf [(2, 65534), (2, 1), (4, 0), (4, 0xBFBFBFBF)]))).entries.length = 65535 ∧ routeOk 0xBFBFBFBF) ∧
    (up.accepts (msg 0x0602 0xFF (fieldsOf [(2, 1), (6, 0), (1, 1), (1, 7), (2, 31), (4, 0)])) 0x0602 ∧ repairOk 1 7 31) ∧
    up.accepts (msg 0x0603 0xFF (fieldsOf [(4, 0)])) 0x0603 ∧
    up.accepts (msg 0x0605 0xFF (fieldsOf [(1, 15), (1, 0), (2, 0), (4, 0), (8, 0), (8, 0)])) 0x0605 ∧
    (up.accepts (msg 0x0607 0xFF (fieldsOf [(2, 6), (6, 0), (8, 0)])) 0x0607 ∧ up.hub.node = 0xFFFF#16 ∧ up.hub.identity = 0) := by
  decide +kernel

/-- MIRROR_REGION of region `n`, source node 5, at this base with 64 bytes. -/
def regionMsg (n base : Nat) : HostMsg := msg 0x0605 0xFF (fieldsOf [(1, n), (1, 0), (2, 5), (4, 0), (8, base), (8, 64)])

theorem witness_mirror_region :
    (up.accepts (regionMsg 15 64) 0x0605 ∧ up.regionOk (regionMsg 15 64) = true) ∧
    (up.accepts (regionMsg 16 64) 0x0605 ∧ 15 < param (regionMsg 16 64) 0 1) ∧
    (up.accepts (regionMsg 15 1) 0x0605 ∧ 0 < param (regionMsg 15 1) 16 8 ∧ up.regionOk (regionMsg 15 1) = false) := by decide +kernel

theorem witness_node_changes_refused :
    (busy.accepts (msg 0x0500 0xFF (fieldsOf [(2, 6)])) 0x0500 ∧ ∃ x ∈ busy.ctxs, x.state ≠ .free) ∧
    ((named up).accepts (msg 0x0607 0xFF (fieldsOf [(2, 6), (6, 0), (8, 0)])) 0x0607 ∧ (named up).hub.node ≠ 0xFFFF#16) ∧
    (up.accepts (msg 0x0607 0xFF (fieldsOf [(2, 6), (6, 0), (8, 1)])) 0x0607 ∧ up.hub.identity ≠ 1) := by decide +kernel

/-- The descriptor of an n × n view at this HBM offset; with flips, its one tile lies on padding, which reads as zeros (R238). -/
def flippedView (off fmt flips n : Nat) : List Byte :=
  fieldsOf [(8, 0xFFFF * 2 ^ 48 + off), (1, fmt), (1, 2), (2, 0x0201), (4, n), (4, n), (12, 0), (4, 1), (4, 1), (12, 0), (1, flips),
    (1, 255), (2, 0xFFFF), (6, 7), (2, 0)]

/-- A 32 × 32 view without flips. -/
def viewBytes (off fmt : Nat) : List Byte := flippedView off fmt 0 32

theorem witness_host_writes_context :
    (halted.accepts (msg 0x0202 0 [0#8]) 0x0202 ∧ (halted.ctx 0).state = .stopped ∧ (halted.ctx 0).ops = []) ∧
    busy.accepts (msg 0x0203 0 (fieldsOf [(1, 3), (7, 0), (8, 5)])) 0x0203 ∧
    (busy.accepts (msg 0x0204 0 (fieldsOf [(2, 4095), (2, 1), (4, 0), (1, 1), (31, 0)])) 0x0204 ∧
      4095 + (cmdOf (msg 0x0204 0 (fieldsOf [(2, 4095), (2, 1), (4, 0), (1, 1), (31, 0)]))).entries.length = 4096) ∧
    (busy.accepts (msg 0x0300 0 (fieldsOf [(2, 4095), (2, 1), (4, 0)] ++ viewBytes 0 2)) 0x0300 ∧ descStatus (viewBytes 0 2) = stOk) ∧
    (busy.accepts (msg 0x0301 0 (fieldsOf [(2, 1), (6, 0)] ++ waitRecord 0 9)) 0x0301 ∧ busy.submission 0 [waitRecord 0 9] = stOk) ∧
    (busy.accepts (msg 0x0301 0 (fieldsOf [(2, 1), (6, 0)] ++ waitRecord 1 9)) 0x0301 ∧ busy.submission 0 [waitRecord 1 9] ≠ stOk) := by
  decide +kernel
/-- Parameters of CREATE for field group `group`, with a save area in stack 0 and the lens area behind it. -/
def createParams (group : Nat) : List Byte :=
  fieldsOf [(1, 3), (1, group), (2, 0), (4, 0), (8, 77), (8, 0xFFFF * 2 ^ 48), (56, 0), (8, 0), (4, 0), (4, 0), (8, 0xFFFF * 2 ^ 48 + 2 ^ 35), (3, 2), (1, 0), (4, 1),
    (8, 64), (8, 0)]

theorem witness_create :
    (up.accepts (msg 0x0200 15 (createParams 0)) 0x0200 ∧ createOk up 15 (cmdOf (msg 0x0200 15 (createParams 0)))) ∧
    (up.accepts (msg 0x0200 0 (createParams 9)) 0x0200 ∧ ¬ createOk up 0 (cmdOf (msg 0x0200 0 (createParams 9)))) := by decide +kernel

/-- The module with host window 0 on queue pair 2, routes of node 9 through link 0, and link 0 up. -/
def peered : State :=
  ((named busy).modHub (fun h => { h with
    windows := h.windows.set 0 (some { qp := 2, key := 3#32, va := 4096#64, len := 2 ^ 20 })
    routes := [(9, 0x80808080#32)] })).modLink 0 (fun l => { l with state := 2, seenNode := 9#16 })

/-- A global address in host window 0. -/
def windowAddr : Nat := 0xFFFF * 2 ^ 48 + 3 * 2 ^ 44

theorem witness_host_waits :
    (up.accepts (msg 0x0400 0xFF (fieldsOf [(1, 7), (1, 14), (1, 2)])) 0x0400 ∧
      ((up.field 7).sets.getD 14 SetPower.reset).target = none ∧ ((up.field 7).sets.getD 14 SetPower.reset).state ≠ setStateOf 2 ∧
      (up.field 7).state = 0) ∧
    (up.accepts (msg 0x0600 0xFF (fieldsOf [(1, 7), (1, 1), (1, 1), (5, 0), (8, 9)])) 0x0600 ∧ (up.field 7).test = none ∧
      (up.field 7).state ≤ 1) ∧
    (up.accepts (msg 0x0604 0xFF (fieldsOf [(1, 15), (1, 63)])) 0x0604 ∧ (up.stack 15).state = 0 ∧ (up.stack 15).retiredA = none ∧
      (up.stack 15).retiredB = none ∧ (up.stack 15).retiring = none) ∧
    (peered.accepts (msg 0x0302 0 (fieldsOf [(4, 1), (4, 0), (8, windowAddr)])) 0x0302 ∧ peered.isOwn windowAddr ∧
      gaSpace windowAddr = 3 ∧ (peered.window? (gaOffset windowAddr) 128).isSome) ∧
    (peered.accepts (msg 0x0702 0xFF (fieldsOf [(1, 2), (7, 0), (8, windowAddr), (8, 64)])) 0x0702 ∧ peered.port.waits = [] ∧
      (peered.window? (gaOffset windowAddr) 64).isSome) ∧
    (peered.accepts (msg 0x0606 0xFF (fieldsOf [(1, 7), (1, 0), (4, 0), (2, 9), (1, 15), (7, 0), (8, 0), (8, 64), (16, 0)])) 0x0606 ∧
      mapped peered.grade 0 0 64 ∧ peered.hub.node ≠ 0xFFFF#16 ∧ (peered.routeFor 9 0).isSome) := by decide +kernel

/-- Sixteen reads of host memory are outstanding on queue pair 2. -/
def reading : State :=
  peered.modPort (fun p => { p with reads := List.replicate 16 { tag := 0#32, qp := 2, key := 3#32, va := 4096, len := 64, sent := true } })

theorem witness_reads_outstanding :
    reading.port.reads.countP (fun k => k.sent && k.qp == 2) = 16 ∧ peered.port.reads = [] ∧
    reading.accepts (msg 0x0302 0 (fieldsOf [(4, 1), (4, 0), (8, windowAddr)])) 0x0302 := by decide +kernel

theorem witness_links_and_fields :
    (up.accepts (msg 0x0601 0xFF [7#8]) 0x0601 ∧ (up.field 7).state = 0 ∧ up.noCopyRuns = true) ∧
    up.accepts (msg 0x0503 0xFF (fieldsOf [(4, 2 ^ 31)])) 0x0503 ∧
    (up.accepts (msg 0x0502 0xFF (fieldsOf [(4, 2 ^ 31)])) 0x0502 ∧ (up.link 31).state = 0) := by decide +kernel

theorem witness_resets :
    (busy.accepts (msg 0x0101 0xFF []) 0x0101 ∧ 3 ≤ busy.hub.stage ∧ 8 ≤ busy.hub.stage ∧ busy.sideband.resetStuck = false) ∧
    ({ busy with sideband := { busy.sideband with resetStuck := true } }).sideband.resetStuck = true := by decide +kernel

theorem witness_power_cap_and_registers :
    (up.accepts (msg 0x0104 0xFF (fieldsOf [(4, 7200), (1, 3), (1, 0xFF), (1, 0), (5, 0)])) 0x0104 ∧ Grade.capMax up.grade = 7200 ∧
      up.power.minPower = false) ∧
    (up.accepts (msg 0x0801 0xFF (fieldsOf [(2, 1), (6, 0), (4, 0x500038), (8, 2 ^ 64 - 1)])) 0x0801 ∧ selectorOk 0x500038 ∧
      (cmdOf (msg 0x0801 0xFF (fieldsOf [(2, 1), (6, 0), (4, 0x500038), (8, 2 ^ 64 - 1)]))).entries.map
        (fun e => (Machine.field e 0 4, Machine.field e 4 8)) = [(0x500038, 2 ^ 64 - 1)]) ∧
    (up.accepts (msg 0x0801 0xFF (fieldsOf [(2, 1), (6, 0), (4, 0x14000F8), (8, 5)])) 0x0801 ∧ selectorOk 0x14000F8) ∧
    (up.accepts (msg 0x0801 0xFF (fieldsOf [(2, 1), (6, 0), (4, 0x300000), (8, 5)])) 0x0801 ∧ selectorOk 0x300000) := by decide +kernel

/-! ## Rings, event controllers, queue pairs -/

/-- Ring 16 attached, two records written, one read, one waiting. -/
def ringing : State :=
  busy.modRing 16 (fun r => { r with
    attached := true, qp := 2, producer := 2#32, consumer := 1#32
    waiting := [{ source := 448, cls := 2, ctxGen := 0#16, code := 1#16, stamp := 0#48, p0 := 0#64, p1 := 0#64, p2 := 0#32 }] })

theorem witness_rings :
    (busy.accepts (msg 0x0105 0xFF (fieldsOf [(4, 2), (4, 1), (8, 64), (1, 16), (7, 0)])) 0x0105) ∧
    (busy.accepts (msg 0x0105 0xFF (fieldsOf [(4, 2), (4, 1), (8, 64), (1, 0), (7, 0)])) 0x0105 ∧ (busy.ctx 0).state ≠ .free) ∧
    ((ringing.ring 16).attached = true ∧ (2#64).setWidth 32 - (ringing.ring 16).consumer = 1#32 ∧
      (ringing.ring 16).producer - (ringing.ring 16).consumer = 1#32) ∧
    (((ringing.ring 16).producer - (ringing.ring 16).consumer).toNat < ((0#64).setWidth 32 - (ringing.ring 16).consumer).toNat) ∧
    (ringing.ring 0).attached = false := by decide +kernel

theorem witness_event_records :
    ((ringing.ring 16).waiting ≠ [] ∧ 0 < (ringing.ring 16).space ∧ ringing.hub.stage ≠ 15 ∧ ringing.outcast = false) ∧
    (ringing.modPower (fun p => { p with minCauses := [10] })).outcast = true ∧
    ((ringing.modRing 16 (fun r => { r with consumer := 2#32 - 4096#32 })).ring 16).space = 0 := by decide +kernel

/-- Source 448 of the hub in a given state. -/
def source (st : Nat) : State := { up with evc := [(448, { EvcSrc.reset with state := st })] }

/-- Two pending sources of the hub, the later one to be taken again. -/
theorem witness_again :
    let e := { EvcSrc.reset with state := 1, enable := true }
    nextSource 8 [(448, e), (449, { e with again := true })] = some 449 ∧ controllerHas 8 448 = true ∧ controllerHas 8 449 = true := by
  decide +kernel

theorem witness_event_controllers :
    nextSource 8 (source 1).evc = some 448 ∧ (tableGet (source 2).evc 448 EvcSrc.reset).state = 2 ∧
    (tableGet (source 3).evc 448 EvcSrc.reset).state = 3 ∧ regAbsent up.grade 0x19 448 = false ∧ regAbsent up.grade 0x19 959 = false := by
  decide +kernel

theorem witness_queue_pairs :
    (∃ q, up.qp? 2 = some q ∧ q.lastCnp = none ∧ q.num = 2) ∧
    (∃ q, (up.modPort (fun p => { p with qps := p.qps.map (fun q => { q with rate := 0, lastHit := some 0 }) })).qp? 2 = some q ∧
      q.lastHit = some 0 ∧ q.rate < lineRate) ∧
    (up.port.up = true ∧ up.port.qps.length < up.qpLimit ∧ ∀ q ∈ up.port.qps, q.num ≠ 3) ∧ ∃ q ∈ up.port.qps, q.num = 2 := by
  refine ⟨⟨_, rfl, by decide⟩, ⟨_, rfl, by decide⟩, by decide, by decide⟩
/-! ## Memory -/

/-- Memory with two whole words written at 0, the second of them then poisoned. -/
def someMem : Mem := (Mem.reset.write 0 (List.replicate 128 5#8)).poison 8 16

theorem witness_memory_writes :
    (someMem.wf = true ∧ (∀ g ∈ granulesOf 3 2, someMem.granuleOk g = true ∨ (3 ≤ 8 * g ∧ 8 * g + 8 ≤ 3 + 2)) ∧
      (∀ g ∈ granulesOf 64 8, someMem.granuleOk g = true ∨ (64 ≤ 8 * g ∧ 8 * g + 8 ≤ 64 + 8))) ∧
    (8 ∈ granulesOf 66 2 ∧ someMem.granuleOk 8 = false ∧ ¬ (66 ≤ 8 * 8 ∧ 8 * 8 + 8 ≤ 66 + 2)) ∧ 0 ∉ wordsOf 64 8 := by decide +kernel

theorem witness_reservoir_map :
    2 ^ 32 * 7 + 64 < 2 ^ 35 ∧ (2 ^ 32 * 7 + 64) % 2 ^ 32 < reservoirBytes ∧ 1919 < 1920 ∧ 32767 < 32768 := by decide

/-- The module with both memories written at offset 0, and a single error in each. -/
def stored : State :=
  { busy.modStack 0 (fun k => { k with trained := true }) with mem := (someMem.write (memKey 1 0) (List.replicate 64 7#8)) }

theorem witness_host_rdma :
    (stored.modPower (fun p => { p with minCauses := [10] })).outcast = true ∧ stored.outcast = false ∧
    (stored.qp? 2).isSome ∧ keySpace (Config.memoryKey 0) = some 0 ∧
    stored.hostAccess (Config.memoryKey 0) 0 64 = some 0 ∧ stored.hostAccess (Config.memoryKey 0) (2 ^ 44) 64 = none ∧
    stored.mem.errorWords 0 64 = [] ∧ (up.stack (0 / 2 ^ 36)).trained = false ∧ stored.mem.wordOk ((64 + 1) / 64) = false ∧
    (0 + ([1#8] : List Byte).length ≤ 64 ∧ memKey 1 (64 * 3) / 64 ∈ wordsOf (memKey 1 192) 64 ∧ memKey 1 (64 * 4) / 64 ∉ wordsOf (memKey 1 192) 64) := by
  have h : keySpace (Config.memoryKey 0) = some 0 := by simp [keySpace, List.range, List.range.loop]
  refine ⟨by decide +kernel, by decide +kernel, by decide +kernel, h, ?_, ?_, by decide +kernel⟩ <;> simp only [State.hostAccess, h] <;> decide +kernel

/-- A word with one flipped check bit, waiting for its write-back. -/
def waitingWord : State :=
  { stored with mem := { stored.mem with ecc := [(memKey 1 0 / 8, 1#72 <<< 64)], writeBack := [memKey 1 0 / 64] } }

/-- A stack retires pseudo-channel 63. -/
def retiring : State := up.modStack 15 (fun k => { k with state := 1, retiring := some 63#6 })

theorem witness_memory_upkeep :
    (memKey 1 (resOffset 0 0 0) / 64 ∈ waitingWord.mem.writeBack ∧ waitingWord.mem.wf = true ∧
      waitingWord.mem.wordOk (memKey 1 (resOffset 0 0 0) / 64) = true) ∧
    (stored.mem.wf = true ∧ ((stored.field 0).sets.getD (0 / 128) SetPower.reset).state = .on ∧ ((stored.field 0).sets.getD (0 / 128) SetPower.reset).target = none ∧
      stored.mem.errorWords (memKey 1 (resOffset 0 0 (tableGet (stored.field 0).banks 0 BankStat.reset).scrubRow)) 64 = []) ∧
    (0 < Grade.hbmStacks stored.grade ∧ 0 < stored.hbmStacks.length) ∧
    (ModInv retiring ∧ (retiring.stack 15).retiring = some 63#6 ∧ (retiring.stack 15).state = 1 ∧ (retiring.stack 15).retiredA = none) := by
  unfold ModInv; decide +kernel

/-- A second pseudo-channel of the stack retires. -/
theorem witness_second_retirement :
    let s := retiring.modStack 15 (fun k => { k with retiredA := some 5#6 })
    ModInv s ∧ (s.stack 15).retiring = some 63#6 ∧ (s.stack 15).state = 1 ∧ (s.stack 15).retiredA ≠ none ∧ s.hub.served = false := by
  unfold ModInv; decide +kernel

/-- Set 14 of field 0 goes off. -/
def turning : State := up.modField 0 (fun g => { g with sets := g.sets.set 14 (SetPower.reset.start .off false) })

theorem witness_set_transition :
    14 < (turning.field 0).sets.length ∧
    ((turning.field 0).sets.getD 14 SetPower.reset).target = some .off ∧ ((turning.field 0).sets.getD 14 SetPower.reset).steps = [] ∧
    ((turning.field 0).sets.getD 14 SetPower.reset).waiting = none := by decide +kernel

/-! ## Supply, power and cooling -/

/-- Feed `a` serving, the other one qualified (or not). -/
def powered (a : Nat) (both : Bool) : State :=
  up.modPower (fun p => { p with
    feeds := (List.range 2).map (fun f => { mv := 48000, current := 0, state := if f = a then 2 else if both then 1 else 0, enabled := true
                                            qualified := f == a || both })
    serving := some a })

theorem witness_feeds :
    (State.reset.power.feeds.length = 2 ∧ (State.reset.feed 1).state ≠ 4 ∧ (State.reset.feed 1).qualified = false ∧ State.reset.power.serving = none ∧
      State.reset.power.down = false) ∧
    ((powered 0 false).power.serving = some 0 ∧ ((powered 0 false).feed 1).qualified = false ∧ ((powered 0 false).feed 1).state ≠ 4) ∧
    ((powered 0 true).power.serving = some 0 ∧ ((powered 0 true).feed 1).qualified = true) ∧
    ((powered 1 true).power.serving = some (1 - 0) ∧ ((powered 1 true).feed 0).qualified = true) ∧
    (((powered 0 false).modPower (fun p => { p with feeds := p.feeds.modify 1 (fun q => { q with state := 4 }) })).feed 1).state = 4 := by
  decide +kernel

theorem witness_power_lost :
    ModInv (powered 1 false) ∧ (powered 1 false).power.feeds.length = 2 ∧ (powered 1 false).power.serving = some 1 ∧
      ((powered 1 false).feed (1 - 1)).qualified = false := by unfold ModInv; decide +kernel

/-- A tripped feed with one sideband bus that works, and with none. -/
theorem witness_rearm :
    let s := (powered 0 false).modPower (fun p => { p with feeds := p.feeds.modify 1 (fun q => { q with state := 4 }) })
    s.power.feeds.length = 2 ∧ (s.feed 1).state = 4 ∧ ({ s with sideband := { s.sideband with busA := 1 } }).sideband.busB = 0 ∧
    ({ s with sideband := { s.sideband with busA := 1, busB := 2 } }).sideband.busA ≠ 0 ∧
    ({ s with sideband := { s.sideband with busA := 1, busB := 2 } }).sideband.busB ≠ 0 := by decide +kernel

/-- The module in step 8, as the training of its links ended. -/
def stepEight : State := { up with hub := { Hub.reset with stage := 8 } }

/-- In minimum power, with a cause or without one. -/
def inMinPower (causes : List Nat) : State := (powered 0 true).modPower (fun p => { p with minPower := true, minCauses := causes })

theorem witness_power_limits :
    (railFitted up.grade 0 = true ∧ 0 < up.power.phases.getD 0 0 ∧ railFitted up.grade 9 = true ∧ 0 < up.power.phases.getD 9 0) ∧
    ((powered 0 true).power.serving = some 0 ∧ (powered 0 true).capCause 100 [] = none ∧ (powered 0 true).underCap 100 [] = true ∧
      ∀ f, f < 16 → (powered 0 true).overRail [] f = false) ∧
    ((inMinPower []).power.minPower = true ∧ (inMinPower []).power.minCauses = [] ∧ (inMinPower [1]).power.minCauses ≠ []) ∧
    ((up.modPort (fun p => { p with up := false })).workingSet = false ∧ up.hub.stage = 9 ∧ up.hub.warm = false ∧ up.outcast = false) ∧
    ((stepEight.modPort (fun p => { p with up := false })).hub.stage ≠ 9) ∧
    up.power.external = true ∧ (up.modPower (fun p => { p with external := false })).power.external = false := by decide +kernel

/-- Only fields have a rail limit, and each is above a draw of nothing. -/
theorem witness_no_draw : ∀ f, (powered 0 true).overRail [] f = false := by
  intro f
  simp only [State.overRail]
  split <;> simp

/-- The powered module with all that its smallest working set asks for. -/
def serving : State :=
  ((powered 0 true).modHub (fun h => { h with served := true, cores := 4 })).modField 0 (fun g => { g with seqUse := [0, 1, 2, 3] })

/-- HostWaits: it holds the set, also with a stack that retires. -/
theorem witness_hbm_retire_holds :
    serving.accepts (msg 0x0604 0xFF (fieldsOf [(1, 15), (1, 63)])) 0x0604 ∧
    serving.holdsSet ((serving.modStack 15 (fun k => { k with state := 1, retiring := some 63#6 })).waiting
      (msg 0x0604 0xFF (fieldsOf [(1, 15), (1, 63)])) (.hbmRetire 15)) = true := by decide +kernel

/-- A module that has been in service and whose port is its only way out. -/
theorem witness_pluggable_held :
    let s := up.modHub (fun h => { h with served := true })
    (s.modPort (fun p => { p with up := false })).workingSet = false ∧ s.hub.served = true ∧ s.hub.stage = 9 ∧ s.hub.warm = false := by
  decide +kernel

/-- Readings with a rise and without one. -/
theorem witness_coolant : (Coolant.mk 300 400 false 3000 100).inlet < 400 ∧ (Coolant.mk 300 300 true 0 0).outlet ≤ 300 := by decide

theorem witness_thermal_levels : 7 < Grade.fields up.grade ∧ up.fields.length = 8 := by decide +kernel

/-! ## The sideband, bring-up, teardown, resets, tests -/

/-- BOOT_STAGE, PWR_FEED and NET_CTRL by their layouts (R569, R586, R618), and an address that the map does not name (R616). -/
theorem test_sideband_reads :
    State.reset.sidebandWord 0x0000 = 1 ∧ State.reset.sidebandWord 0x0050 = 3 ∧ State.reset.sidebandWord 0x0004 = 0 ∧
    Feed.word { mv := -50, current := 1000, state := 2, enabled := true, qualified := true } = 0x2_03E8_FFFB := by decide +kernel



theorem witness_sideband :
    (up.sideband.busA = 0 ∧ (fieldsOf [(8, 0x123456)]).length = 8) ∧
    ((0x2008#64).getLsbD 13 = true ∧ (0x2008#64).getLsbD 3 = true ∧ (0x2008#64).toNat / 32 % 256 ≤ 128 ∧ stepEight.hub.stage = 8 ∧
      stepEight.port.pluggableHeld = false) ∧
    ((0x2000#64).getLsbD 13 = true ∧ (0x2000#64).getLsbD 3 = false ∧ (0x2000#64).getLsbD 4 = false) := by decide +kernel

/-- Bus A has written NET_MAC in this cycle. -/
theorem witness_bus_a_first :
    let s := { up with sideband := { up.sideband with lastA := some (0x0030, up.now) } }
    s.sideband.busA = 0 ∧ s.sideband.busB = 0 ∧ s.sideband.lastA = some ((0x0030 : BitVec 16).toNat, s.now) := by decide +kernel

/-- A field reset that finds nothing wrong. -/
def cleanReset : ResetCheck := { seqPass := 0x1F#5, beds := [], banks := [] }

/-- What bring-up finds where all is well, with these banks bad. -/
def found (bad : BitVec 6) : BringUp :=
  { powerGood := true, refclk := true, pllLock := true, boot := { romOk := true, bankBad := bad, corePass := 0x1F#5 }, fieldOk := 0xFF#8
    resets := List.replicate 8 cleanReset, stackOk := 0xFFFF#16, signal := 0xFFFFFFFF#32 }

/-- The module at power-on with feed 0 serving. -/
def coldPowered : State := { State.reset with power := (powered 0 true).power }

theorem witness_power_up :
    ModInv coldPowered ∧ coldPowered.hub.stage ≤ 3 ∧ coldPowered.power.serving.isSome ∧ coldPowered.power.atForty = true ∧
    coldPowered.hub.warm = false ∧ (found 0#6).powerGood = true ∧ (found 0#6).pllLock = true ∧ (found 0#6).boot.romOk = true ∧
    ((coldPowered.hub.checked 0#6).loadImages).noImage = 0#3 ∧ ((coldPowered.hub.checked 3#6).loadImages).noImage ≠ 0#3 := by
  unfold ModInv; decide +kernel

/-- Context 0 bound to job 7. -/
def bound : State := busy.modCtx 0 (fun x => { x with job := 7#16 })

/-- Context 0 in a given state. -/
def slotIn (st : CtxState) : State := up.modCtx 0 (fun x => { x with state := st })

theorem witness_teardown :
    (busy.accepts (msg 0x0201 0 []) 0x0201 ∧ (busy.ctx 0).state = .active ∧ (busy.ctx 0).job = 0#16) ∧
    (up.accepts (msg 0x0201 15 []) 0x0201 ∧ (up.ctx 15).state = .free) ∧
    (bound.accepts (msg 0x0208 0xFF (fieldsOf [(2, 7)])) 0x0208 ∧ (bound.ctx 0).job.toNat = 7 ∧ (bound.ctx 15).job.toNat ≠ 7) ∧
    ((slotIn .teardown).ctx 0).state = .teardown ∧ (slotIn .teardown).hub.warm = false ∧ ((slotIn .quarantine).ctx 0).state = .quarantine ∧
    ((slotIn .teardown).modHub (fun h => { h with warm := true })).hub.warm = true ∧ busy.noCopyRuns = true ∧
    7 < Grade.fields up.grade ∧ 7 < up.fields.length := by
  decide +kernel

/-- The end of the teardown after its deadline, and at it. -/
theorem witness_teardown_late :
    ((slotIn .teardown).ctx 0).tearStart + 200000 < ((slotIn .teardown).setNow 200001).now ∧
    ((slotIn .teardown).setNow 200000).now ≤ ((slotIn .teardown).ctx 0).tearStart + 200000 := by decide +kernel

/-- Engine 19 of field 7 in its reset. -/
def engineInReset : State := up.modField 7 (fun g => { g with engineResets := [(19, 3)] })

/-- Tile row 0 of field 7 drains: its weir has work. -/
def weirBusy : State := up.modField 7 (fun g => { g with tileRows := g.tileRows.set 0 { TileRow.reset with state := .draining } })

theorem witness_engines_hang :
    (ModInv weirBusy ∧ 7 < Grade.fields weirBusy.grade ∧ (weirBusy.field 7).hangLimit ≠ 0#32 ∧ (weirBusy.field 7).state ≤ 1 ∧
      weirBusy.pendingWork 7 2 = true) ∧ up.pendingWork 7 2 = false ∧
    (ModInv engineInReset ∧ tableGet? (engineInReset.field 7).engineResets 19 = some 3) := by unfold ModInv; decide +kernel

/-- The end of the engine reset after its deadline, and at it. -/
theorem witness_engine_reset_late : 3 + 10000 < (engineInReset.setNow 10004).now ∧ (engineInReset.setNow 10003).now ≤ 3 + 10000 := by
  decide +kernel

/-- A field reset that finds three faulty rows in bed 31 of field 7. -/
def brokenBed : ResetCheck := { seqPass := 0x1F#5, beds := [⟨255, [0, 1, 2], []⟩], banks := [] }

/-- Field 7 in its reset. -/
def fieldInReset : State := up.modField 7 (fun g => { g with state := 3 })

theorem witness_field_reset_ends :
    (ModInv fieldInReset ∧ (fieldInReset.field 7).state = 3 ∧ fieldInReset.hub.stage ≠ 15) ∧
    fieldInReset.hub.sees (onlyField 7 cleanReset).beds (onlyField 7 cleanReset).banks = fieldInReset.hub ∧
    (4 ≤ (fieldInReset.hub.sequencers 7 0x1F#5).length ∧ ∀ e ∈ fieldInReset.hub.bedMaps 7, e.2.unrepairable = false) ∧
    (∃ e ∈ (fieldInReset.hub.sees (onlyField 7 brokenBed).beds []).bedMaps 7, e.2.unrepairable = true) ∧
    (fieldInReset.hub.sequencers 7 7#5).length < 4 ∧ fieldInReset.noCopyRuns = true := by unfold ModInv; decide +kernel

/-- The end of the field reset after its deadline, and at it. -/
theorem witness_field_reset_late :
    (fieldInReset.field 7).resetStart + 1000000 < (fieldInReset.setNow 1000001).now ∧
    (fieldInReset.setNow 1000000).now ≤ (fieldInReset.field 7).resetStart + 1000000 := by decide +kernel

/-- A test that waits for its field until this many cycles after its command. -/
def waitingTest (d : Nat) : FieldTest := { kind := 1, onFail := 1, deadline := d, accepted := 0, borrowed := none }

/-- A test of field 7, waiting or running. -/
def testing (borrowed : Option Nat) (st : Nat) : State :=
  up.modField 7 (fun g => { g with state := st, test := some { kind := 1, onFail := 1, deadline := 9, accepted := 0, borrowed := borrowed } })

theorem witness_field_tests :
    (ModInv (testing none 0) ∧ ((testing none 0).field 7).test = some { kind := 1, onFail := 1, deadline := 9, accepted := 0, borrowed := none } ∧
      (testing none 0).idle 7 = true ∧ ((testing none 0).field 7).state = 0 ∧ (waitingTest 9).late 9 = false ∧ (waitingTest 9).late 10 = true) ∧
    (ModInv (testing (some 4) 1) ∧ ((testing (some 4) 1).field 7).state = 1 ∧ 4 + testLimit 1 < 10 ^ 9 ∧
      (testing (some 4) 1).now ≤ 4 + testLimit 1) ∧
    ((testing none 1).field 7).state ≠ 0 := by unfold ModInv; decide +kernel

/-- A test of a field that an earlier one has kept borrowed, and one that ends late. -/
theorem witness_field_tests_more :
    (((testing none 1).field 7).state ≤ 1 ∧ (testing none 1).idle 7 = true) ∧
    4 + testLimit 1 < ((testing (some 4) 1).setNow (5 + testLimit 1)).now := by decide +kernel
/-! ## Links and packets -/

/-- Node 5 with context 0 bound to job 7, link 0 up to node 9 and routed, host window 0. -/
def member : State := peered.modCtx 0 (fun x => { x with job := 7#16 })

/-- The member with this packet at the head of its flow, come on link 0. -/
def withRx (p : Packet) : State := member.modLink 0 (fun l => { l with rx := [(p.vl, p)] })

/-- Link 31 in training. -/
def training : State := up.modLink 31 (fun l => { l with state := 1, expectNode := 9#16 })

/-- What training finds: node 9, this many open lanes. -/
def trainedWith (lanes : BitVec 9) : Training :=
  { openLanes := lanes, order := 0, polarity := 0#9, seenNode := 9#16, seenLink := 0, roundTrip := 512 }

theorem witness_link_training :
    (ModInv training ∧ (training.link 31).state = 1 ∧ (training.hub.warm && training.hub.retrain && !training.fieldsBusy) = false) ∧ refuseCause training.hub.node (training.link 31) (trainedWith 1#9) = 0 ∧
    refuseCause training.hub.node (training.link 31) (trainedWith 3#9) ≠ 0 ∧
    (ModInv member ∧ (member.link 0).state = 2 ∧ (member.link 0).spareUsed = false ∧ 7 ≤ member.hub.stage ∧ member.hub.stage ≤ 9) ∧
    (ModInv (member.modLink 0 (fun l => { l with state := 5, spareUsed := true }))) := by unfold ModInv; decide +kernel

/-- A flit with a good CRC and sequence number 0. -/
def goodFlit : List Byte := flitBytes 0 0 0 false false [0, 0, 0, 0] 0#8 255#8 []

/-- Link 0 with a flit in its replay buffer. -/
def replaying : State :=
  member.modLink 0 (fun l => { l with replay := [{ seq := 0#12, ftype := 0, credits := [0, 0, 0, 0], pool := 0#8, first := 255#8, body := [] }] })

theorem witness_flits :
    ((member.link 0).state = 2 ∧ flitCrcOk (List.replicate 256 0#8) = false) ∧
    (flitCrcOk goodFlit = true ∧ Machine.field goodFlit 0 2 / 4096 % 4 ≠ 1 ∧ Machine.field goodFlit 0 2 % 4096 = (member.link 0).rxExpect.toNat) ∧
    ((replaying.link 0).state = 2 ∧ (replaying.link 0).replay ≠ []) := by decide +kernel

/-- A request of node 9 to node 5 for context 0, from which the module reads or writes `ga`. -/
def request (ptype ga aux : Nat) (payload : List Byte) : Packet := Packet.request ptype 5 9 7 0 0 3 ga aux payload

/-- A packet of this module for node 9. -/
def outward : Packet := Packet.request 0x01 9 5 7 0 0 3 (9 * 2 ^ 48) 32 []

/-- The hub's packet for node 9 waits at link 0, or one that came on link 1. -/
def forwarding (own : Bool) : State :=
  if own then member.modLink 0 (fun l => { l with inject := [(hubPort, outward)] })
  else member.modLink 1 (fun l => { l with state := 2, rx := [(outward.vl, outward)] })

/-- Two packets of a block to node 9. -/
def headOut : Packet := Packet.request 0x20 9 5 7 0 0 0 3 0 (List.replicate 64 0#8)
def dataOut : Packet := Packet.request 0x21 9 5 7 0 0 0 3 0 (List.replicate 64 0#8)

/-- They are leaving. -/
def leavingBlock : Leaving :=
  { send := { block := RedBlock.blank 7#16 3#16 0#32 0, dst := 9#16, tree := false, originated := true, escalated := false, home := none }
    packets := [headOut, dataOut] }

/-- The member, on whose link `i` they are. -/
def leavingOn (i : Nat) : State := member.modLink i (fun l => { l with leaving := some leavingBlock })

theorem witness_packets_leave :
    (∃ j, ((forwarding true).link 0).vlOrder.findSome? (fun v => ((forwarding true).offer 0 v).map (fun q => (v, q))) =
        some (outward.vl, j, outward) ∧ 32 ≤ j) ∧
    (∃ j, ((forwarding false).link 0).vlOrder.findSome? (fun v => ((forwarding false).offer 0 v).map (fun q => (v, q))) =
        some (outward.vl, j, outward) ∧ j < 32) ∧
    (∃ j, ((leavingOn 0).link 0).vlOrder.findSome? (fun v => ((leavingOn 0).offer 0 v).map (fun q => (v, q))) = some (3, j, headOut) ∧
      ((leavingOn 0).link 0).pays 0 3 j headOut = true ∧
      ((leavingOn 0).link 0).leaving.map Leaving.packets = some (headOut :: dataOut :: [])) ∧
    headOut.hops.toNat < 63 ∧ (leavingOn 0).blankLink 0 = false ∧ ((leavingOn 0).link 0).pays 0 3 40 outward = false ∧
    (∃ j, ((forwarding true).link 0).pays 0 outward.vl j outward = false) ∧
    outward.vl < 4 ∧ outward.hops.toNat < 63 ∧ (forwarding true).blankLink 0 = false ∧ (forwarding false).blankLink 0 = false ∧
    outward.payload.length ≤ 512 ∧ ((forwarding true).link 0).txPart.length < 240 ∧
    ((forwarding true).link 0).replay.length + (((forwarding true).link 0).txPart.length + outward.bytes.length) / 240 ≤ 1024 ∧
    (((member.modLink 0 (fun l => { l with txPart := [1#8] })).link 0).txPart ≠ [] ∧
      ((member.modLink 0 (fun l => { l with txPart := [1#8] })).link 0).vlOrder.findSome? (fun v =>
        ((member.modLink 0 (fun l => { l with txPart := [1#8] })).offer 0 v).map (fun q => (v, q))) = none) ∧
    ((member.link 0).state = 2 ∧ (member.link 0).owes = false ∧ (member.link 0).txPart = [] ∧
      (member.link 0).vlOrder.findSome? (fun v => (member.offer 0 v).map (fun q => (v, q))) = none) := by
  refine ⟨⟨40, by decide +kernel⟩, ⟨1, by decide +kernel⟩, ⟨32, by decide +kernel⟩, by decide +kernel, by decide +kernel, by decide +kernel,
    ⟨40, by decide +kernel⟩, by decide +kernel⟩

theorem witness_discards_and_aborts :
    (ModInv (forwarding false) ∧ ((forwarding false).link 1).rx.find? (fun q => q.1 == outward.vl && !(q.1 == 3 && (forwarding false).isHere q.2)) =
      some (outward.vl, outward) ∧
      outward.job ≠ 0#16 ∧ ((forwarding false).ctx 0).job = outward.job ∧ ((forwarding false).ctx 0).state = .active) ∧
    (member.seenAbort ⟨7#16, 9#16, 0#16, 5#16⟩ = false) ∧
    (member.modHub (fun h => { h with aborts := [(⟨7#16, 9#16, 0#16, 5#16⟩, 0)] })).seenAbort ⟨7#16, 9#16, 0#16, 5#16⟩ = true := by
  unfold ModInv; decide +kernel

/-! ## Requests of peers and their answers -/

/-- The member with sound memory at offset 0 of its HBM, and this packet come on link 0. -/
def memberGot (p : Packet) : State := { withRx p with mem := someMem }

/-- What PeerRequests asks of a request of this type to read or write at its address. -/
def allowed (ptype : Nat) (p : Packet) (len : Nat) (a : Access) : Bool :=
  (memberGot p).delivers ptype 0 p && (memberGot p).peerAccess 0 p (ptype != 1) p.addr.toNat len == a &&
    (memberGot p).clamped p.addr.toNat == false

/-- The same with field 0 fenced. -/
def fencedGot (p : Packet) : State := (memberGot p).modField 0 (fun g => { g with state := 2 })

/-- The address of this member's HBM. -/
def hbm : Nat := 5 * 2 ^ 48

/-- A SIGNAL for counter 15. -/
def signal15 : Packet := request 0x04 0 0 (fieldsOf [(1, 0), (1, 15), (2, 0), (4, 3), (24, 0)])

theorem witness_peer_requests :
    member.hub.node ≠ 0xFFFF#16 ∧
    ((fencedGot (request 0x01 hbm 64 [])).delivers 0x01 0 (request 0x01 hbm 64 []) ∧ (fencedGot (request 0x01 hbm 64 [])).clamped hbm = true) ∧
    (allowed 0x01 (request 0x01 hbm 64 []) 64 .ok ∧ readSizeOk 64 ∧ someMem.errorWords (localKey hbm) 64 = []) ∧
    (allowed 0x01 (request 0x01 (hbm + 15 * 2 ^ 44) 64 []) 64 (.stop stNotPermitted) ∧ member.serves 7 false) ∧
    allowed 0x02 (request 0x02 hbm 0 (List.replicate 32 1#8)) 32 .ok ∧
    (allowed 0x02 (request 0x02 (hbm + 2 ^ 43) 0 (List.replicate 32 1#8)) 32 (.stop stBadParam) ∧ member.serves 7 true) ∧
    ((memberGot (request 0x03 hbm 0 (List.replicate 512 0#8))).delivers 0x03 0 (request 0x03 hbm 0 (List.replicate 512 0#8)) ∧
      (request 0x03 hbm 0 (List.replicate 512 0#8)).aux.toNat / 256 = 0 ∧ (List.replicate 512 0#8 : List Byte).length < slotBytes 0x18) ∧
    ((memberGot signal15).delivers 0x04 0 signal15 ∧ (memberGot signal15).signalTarget signal15 = some (0, 15)) := by decide +kernel

/-- An operation of context 0 as it was issued with this record, in this phase. -/
def opIn (record : List Byte) (phase : OpPhase) : Op := { Op.issue Ctx.reset record with phase := phase }

/-- The member with one operation. -/
def memberWith (o : Op) : State := member.modCtx 0 (fun x => { x with ops := [o] })

/-- The member with one operation, and this packet come on link 0. -/
def memberTold (o : Op) (p : Packet) : State := (withRx p).modCtx 0 (fun x => { x with ops := [o] })

/-- The 64 bytes of node 9 that it waits for. -/
def need64 : Need := { tag := 3#32, addr := 9 * 2 ^ 48, len := 64 }

/-- A COPY that waits for 64 bytes of node 9, and for 32 more. -/
def copyWaiting (more : Bool) : Op :=
  { opIn (fieldsOf [(2, 0x4000), (126, 0)]) .running with
    needs := need64 :: if more then [{ tag := 4#32, addr := 9 * 2 ^ 48 + 64, len := 32 }] else [] }

/-- The answer of node 9 to request 3. -/
def answer9 (ptype aux : Nat) (payload : List Byte) : Packet := Packet.request ptype 5 9 7 0 0 3 0 aux payload

/-- A read's answer with the 64 bytes, and one with a bad status. -/
def answer64 : Packet := answer9 0x10 0 (List.replicate 64 1#8)

theorem witness_peer_answers :
    (∀ row ∈ packetRows 0 outward, member.delivers row.1 0 outward = false) ∧
    (∃ o, (memberTold { opIn [] .landing with acks := [3#32] } (answer9 0x11 0 [])).op? 0 0#32 = some o ∧ (answer9 0x11 0 []).tag ∈ o.acks ∧
      (answer9 0x11 0 []).job ≠ 0#16 ∧ member.replyCtx (answer9 0x11 0 []) = some 0) ∧
    ((withRx (answer9 0x11 0 [])).delivers 0x11 0 (answer9 0x11 0 []) ∧ (withRx (answer9 0x12 0 [])).delivers 0x12 0 (answer9 0x12 0 [])) ∧
    (member.replyCtx (Packet.request 0x11 5 9 7 0 9 3 0 0 []) = none ∧
      (withRx (Packet.request 0x11 5 9 7 0 9 3 0 0 [])).delivers 0x11 0 (Packet.request 0x11 5 9 7 0 9 3 0 0 [])) ∧
    ((memberTold (copyWaiting true) answer64).delivers 0x10 0 answer64 ∧ (memberTold (copyWaiting true) answer64).replyCtx answer64 = some 0 ∧
      ((memberTold (copyWaiting true) answer64).ctx 0).needOf answer64.tag = some (copyWaiting true, need64) ∧
      (memberTold (copyWaiting true) answer64).op? 0 0#32 = some (copyWaiting true) ∧ answer64.payload ≠ [] ∧
      need64.len ≤ answer64.payload.length ∧ (copyWaiting true).needs.erase need64 ≠ [] ∧
      (memberTold (copyWaiting true) answer64).noneLater = true) ∧
    ((memberTold (copyWaiting false) (answer9 0x10 5 [])).delivers 0x10 0 (answer9 0x10 5 []) ∧
      ((memberTold (copyWaiting false) (answer9 0x10 5 [])).ctx 0).needOf 3#32 = some (copyWaiting false, need64) ∧ (copyWaiting false).needs = [need64] ∧
      (copyWaiting false).phase = .running ∧ (copyWaiting false).status = 0#16 ∧ (answer9 0x10 5 []).payload = [] ∧ (answer9 0x10 5 []).aux ≠ 0#16) ∧
    (withRx (answer9 0x30 0 [])).delivers 0x30 0 (answer9 0x30 0 []) := by
  refine ⟨by decide +kernel, ⟨_, rfl, by decide +kernel⟩, by decide +kernel⟩

/-! ## Relays and mirror copies -/

/-- A CYCLE_READ for node 9. -/
def foreignMsg : HostMsg :=
  { qp := 2, parity := none, found := none, bytes := fieldsOf [(1, 1), (1, 0), (2, 0x0802), (1, 0xFF), (1, 0), (2, 0), (4, 7), (2, 9), (50, 0)] }

/-- A CYCLE_READ that node 9 relays under this job. -/
def relayed (job : Nat) : Packet :=
  Packet.request 0x05 5 9 job 0 0 3 0 0 (fieldsOf [(1, 1), (1, 1), (2, 0x0802), (1, 0xFF), (1, 0), (2, 0), (4, 7), (2, 5), (50, 0)])

/-- The member that permits relayed commands, and got this one. -/
def relaying (job : Nat) : State := (withRx (relayed job)).modHub (fun h => { h with relayOn := true, relayNode := 9#16 })

/-- A wait for node 9's answer 3 to a command of queue pair 2. -/
def relayWait : Wait :=
  { kind := .relayed 9#16 0, tag := 7#32, opcode := 0x0802#16, ctx := 0xFF#8, dest := .port 2, key := 3#32, got := [], left := 0, parity := none }

/-- The member with this many such waits, which got the answer 3. -/
def relayWaiting (n : Nat) : State := (withRx (answer9 0x13 0 [])).modPort (fun p => { p with waits := List.replicate n relayWait })

/-- The foreign command with this many parameter bytes. -/
def longForeign (n : Nat) : HostMsg := { foreignMsg with bytes := (foreignMsg.bytes.set 6 (BitVec.ofNat 8 n)).set 7 (BitVec.ofNat 8 (n / 256)) ++ List.replicate n 0#8 }

theorem witness_relays :
    (member.passesOn foreignMsg ∧ foreignMsg.bytes.length ≤ 512 ∧
      member.port.waits.countP Wait.relayed < 16 ∧ member.relayLink foreignMsg = some 0 ∧ (member.link 0).state ≠ 4) ∧
    (member.passesOn (longForeign 449) ∧ 512 < (longForeign 449).bytes.length ∧ (relayWaiting 16).passesOn foreignMsg ∧
      16 ≤ (relayWaiting 16).port.waits.countP Wait.relayed ∧
      (named busy).passesOn foreignMsg ∧ (named busy).relayLink foreignMsg = none) ∧
    ((relaying 0).delivers 0x05 0 (relayed 0) ∧ (relayed 0).job = 0#16 ∧ (relaying 7).delivers 0x05 0 (relayed 7) ∧ (relaying 7).serves 7 false ∧
      (relaying 7).permits (relayed 7) ∧ (relaying 7).acceptsRelayed (relayedMsg ⟨relayed 7, none, none⟩) 0x0802 ∧ (relaying 7).outcast = false ∧ (relaying 7).hub.node ≠ 0xFFFF#16 ∧
      ((relaying 7).routeFor (relayed 7).src.toNat 0).isSome) ∧
    ((relaying 7).modPower (fun p => { p with minCauses := [10] })).outcast = true ∧
    ((withRx (relayed 7)).delivers 0x05 0 (relayed 7) ∧ ¬ (withRx (relayed 7)).permits (relayed 7)) ∧
    ((relaying 8).delivers 0x05 0 (relayed 8) ∧ (relayed 8).job ≠ 0#16 ∧ (relaying 8).serves (relayed 8).job.toNat false = false) ∧
    ((relayWaiting 0).delivers 0x13 0 (answer9 0x13 0 []) ∧
      (relayWaiting 0).port.waits.filter (fun w => w.key == (answer9 0x13 0 []).tag && w.relayed) = []) ∧
    ((relayWaiting 1).delivers 0x13 0 (answer9 0x13 0 []) ∧
      (relayWaiting 1).port.waits.filter (fun w => w.key == (answer9 0x13 0 []).tag && w.relayed) = [relayWait] ∧
      ((relayWaiting 1).qp? 2).isSome) := by decide +kernel

/-- A copy of one INT4 tile of field 0's memory to node 9, for this context or for none, in this stage. -/
def oneCopy (ctx : Option Nat) (stage : Nat) : Copy :=
  { ctx := ctx, field := 0, links := [], target := 9#16, region := 0, src := 0, len := 576, serial := 0#32, dst := 0, running := stage != 0
    stage := stage, next := 0, sent := 0, round := [], acks := if stage = 5 then 1 else 0, step := 0#32, updates := 0#32, keeper := [] }

/-- A sealed INT4 tile of zeros. -/
def int4Tile : List Byte :=
  { scales := plainScales, format := 0x11, flags := 0, ceil := -32768, shape := 0x0201, valid := 1024, tid := 7, tidx := 0
    tail := List.replicate 8 0#8 : Header }.slot (List.replicate 512 0#8)

/-- The member with that copy and its source tile. -/
def copying (ctx : Option Nat) (stage : Nat) : State :=
  { member.modHub (fun h => { h with copies := [(0, oneCopy ctx stage)] }) with mem := Mem.reset.write 0 int4Tile }

/-- The acknowledgement of node 9 that ends it. -/
def copyAck : Packet := Packet.request 0x11 5 9 0 0 0 0 0 0 []

/-- A copy may start, toward this node with a route to it. -/
def copyStarts (s : State) (k : Copy) : Bool :=
  tableGet? s.hub.copies 0 == some k && s.copyReady k && s.hub.node != 0xFFFF#16 && k.links.all s.upLinks.contains && (s.routeFor 9 0).isSome

/-- The read is good. -/
def isOk {α : Type} (e : Except Stop α) : Bool :=
  match e with
  | .ok _ => true
  | .error _ => false

theorem witness_mirror_copies :
    copyStarts (copying (some 0) 0) (oneCopy (some 0) 0) = true ∧ copyStarts (copying none 0) (oneCopy none 0) = true ∧
    ((copying none 0).modHub (fun h => { h with node := 0xFFFF#16 })).hub.node = 0xFFFF#16 ∧
    (oneCopy none 0).next < (oneCopy none 0).src + (oneCopy none 0).len ∧
    isOk ((copying none 0).copySlot 0 576 0) = true ∧ isOk (({ copying none 0 with mem := Mem.reset }).copySlot 0 576 0) = false ∧
    (tableGet? (copying (some 0) 4).hub.copies 0 = some (oneCopy (some 0) 4) ∧ (oneCopy (some 0) 4).running = true ∧ (oneCopy none 4).acks = 0) ∧
    (({ copying (some 0) 5 with links := (withRx copyAck).links }).delivers 0x11 0 copyAck ∧ copyAck.job = 0#16 ∧
      (copying (some 0) 5).hub.copies.find? (fun x => x.2.awaits copyAck) = some (0, oneCopy (some 0) 5) ∧ copyAck.aux.toNat = stOk) := by
  decide +kernel
/-! ## Operations -/

/-- A record: opcode, mode, flags, inputs, output, parameters. -/
def record (op mode flags : Nat) (ins : List Nat) (out : Nat) (params : List Byte) : List Byte :=
  fieldsOf ([(2, op), (1, 0), (1, mode), (2, 0), (1, 0), (1, flags), (4, 0), (4, 0)]
    ++ (List.range 4).map (fun i => (2, ins.getD i 0xFFFF)) ++ [(2, out), (2, 0xFFFF), (4, 0)]) ++ padTo 96 params

/-- A descriptor of a view at this HBM offset. -/
def view (off fmt : Nat) : DescEntry := { bytes := viewBytes off fmt, aliasFree := true }

/-- Four 32 × 32 FP16 views, one of L128 (index 4), far apart, two of padding (5, and 6 of one element), one in the reservoir (7). -/
def views : List (Nat × DescEntry) :=
  [(0, view 0 2), (1, view (2 ^ 20) 2), (2, view (2 ^ 21) 2), (3, view (2 ^ 22) 2), (4, view (2 ^ 23) 0x18),
   (5, { bytes := flippedView (2 ^ 24) 2 3 32, aliasFree := true }), (6, { bytes := flippedView (2 ^ 25) 2 3 1, aliasFree := true }), (7, view (2 ^ 44) 2)]

/-- An operation issued with this record. -/
def opOf (r : List Byte) : Op := { Op.issue Ctx.reset r with descs := views }

/-- Context 0 with an open window, the views, and this operation. -/
def readyWith (m : Mem) (o : Op) : State :=
  { busy.modCtx 0 (fun x => { x with windowOpen := true, descs := views, ops := [o] }) with mem := m }

/-- The same, every tile poisoned. -/
def ready (o : Op) : State := readyWith Mem.reset o

theorem witness_issue :
    ((busy.modCtx 0 (fun x => { x with stream := [waitRecord 0 9] })).mayIssue 0 ∧
      issueStatus busy (busy.ctx 0) (waitRecord 0 9) = stOk) ∧
    issueStatus busy (busy.ctx 0) (record 0x4001 0 0 [] 0 []) = stBadParam ∧ (busy.ctx 0).job = 0#16 ∧ goodStatus stBadParam = false ∧ stBadParam ≠ stPoisoned := by
  decide +kernel

theorem witness_work_operations :
    ∀ p ∈ workRows (Launch.of 0), ((ready (opOf (record p.1 0 0 [0] 1 []))).starting 0 p.1).isSome ∧ (workOf p.1).isSome := by decide +kernel

/-- Every operation's row may meet a byte of its record whose parity fails. -/
theorem witness_record_parity :
    (∀ p ∈ operationRows (Launch.of 0), ((ready (opOf (record p.1 0 0 [0] 1 []))).nextOp? 0).map (fun o => recOp o.record) = some p.1) ∧
    ((ready (opOf [])).ctx 0).job = 0#16 := by decide +kernel

/-- M = N = K = 32, one batch. -/
def mnk32 : List Byte := fieldsOf [(4, 32), (4, 32), (4, 32), (4, 1)]

/-- An operation of context 0 starts and has its anchor and shares. -/
def matStarts (o : Op) : Bool :=
  (ready o).starting 0 (recOp o.record) == some o &&
    (match matStart (((ready o).beginning (Launch.of 0) o).asIssued 0 ((ready o).begun (Launch.of 0) o)) 0 ((ready o).begun (Launch.of 0) o) with
    | .ok _ => true
    | .error _ => false)

theorem witness_matrix_operations :
    (∀ p ∈ matrixRows (Launch.of 0), ((ready (opOf (record p.1 0 0 [0, 1, 3] 2 mnk32))).starting 0 p.1).isSome) ∧
    (ready (opOf (record 0x1000 0 0 [0, 1] 2 []))).starting 0 0x1000 = some (opOf (record 0x1000 0 0 [0, 1] 2 [])) ∧
    (matStarts (opOf (record 0x1000 0 0 [5, 5] 2 [])) ∧ matStarts (opOf (record 0x1000 0 0 [5, 5] 2 mnk32))) ∧
    ((ready (opOf (record 0x1010 0 0 [0, 1, 3] 2 []))).starting 0 0x1010).isSome ∧
    ((ready (opOf (record 0x1010 0 0 [0, 1, 3] 2 mnk32))).starting 0 0x1010).isSome := by decide +kernel

/-- A product of M = 0 starts and enters, and one of groups whose first offset is not sound does not. -/
theorem witness_empty_products :
    let o := opOf (record 0x1000 0 0 [5, 5] 2 [])
    let g := opOf (record 0x1001 0 0 [0, 1, 3] 2 [])
    ((ready g).starting 0 0x1001 = some g ∧ recM g.record = 0) ∧
    (match matEnter (((ready o).beginning (Launch.of 0) o).asIssued 0 ((ready o).begun (Launch.of 0) o)) 0 ((ready o).begun (Launch.of 0) o),
        matEnter (((ready g).beginning (Launch.of 0) g).asIssued 0 ((ready g).begun (Launch.of 0) g)) 0 ((ready g).begun (Launch.of 0) g) with
      | .ok _, .error _ => true
      | _, _ => false) = true := by decide +kernel

/-- An operation with one output view of one element in this format, apart from its inputs. -/
def intoOne (op fmt ins : Nat) (params : List Byte) : Op :=
  { opOf (record op 0 0 [ins] 9 params) with
    descs := (9, { bytes := flippedView (2 ^ 26) fmt 0 1, aliasFree := true }) :: (8, { bytes := flippedView 0 fmt 0 1, aliasFree := true }) :: views }

/-- What WorkValues asks of a state and these tiles of the output. -/
def holdsOut (s : State) (d : Desc) (l : List (List Nat)) : Bool :=
  l.all (fun j => isLocal s.own (d.slotAddr j) && decide (d.slotAddr j % 64 = 0) &&
    s.access (gaSpace (d.slotAddr j)) (gaOffset (d.slotAddr j)) (slotBytes d.code) == .ok && decide ((d.elems j).map Prod.fst).Nodup &&
    (d.elems j).all (fun e => decide (e.1 < 1024))) && decide (l.length ≤ 1)

theorem witness_work_values :
    (let o := intoOne 0x4000 2 8 []
     let x := (((ready o).ctx 0).asIssued o)
     (ready o).starting 0 0x4000 = some o ∧ (x.desc 8).code = (x.desc 9).code ∧ (copyTiles (x.desc 8) (x.desc 9)).length = 1 ∧
       holdsOut (ready o) (x.desc 9) ((copyTiles (x.desc 8) (x.desc 9)).map Prod.fst) = true ∧
       (ready o).mem.errorWords (localKey ((x.desc 8).slotAddr [0, 0])) (slotBytes 2) = []) ∧
    (let o := intoOne 0x4001 0x12 0 (leBytes 4 (2 ^ 32 - 5))
     let x := (((ready o).ctx 0).asIssued o)
     (ready o).starting 0 0x4001 = some o ∧ (x.desc 9).code = 0x12 ∧ recAnchorMode o.record ≤ 2 ∧
       holdsOut (ready o) (x.desc 9) (x.desc 9).outTiles = true) := by decide +kernel

theorem witness_sum_values :
    let o := intoOne 0x2000 0x18 6 [3#8]
    let q := (ready o).begun (Launch.of 0) o
    let v := ((ready o).beginning (Launch.of 0) o).asIssued 0 q
    let a := (v.ctx 0).desc 6
    let out := (v.ctx 0).desc 9
    (ready o).starting 0 0x2000 = some o ∧ out.code = 0x18 ∧ recAccWrite o.record = false ∧ recEpilogue o.record = 0 ∧
    holdsOut (ready o) out out.outTiles = true ∧
    (match readTensorBy v q (reduceReader 3 q out a) a with
      | .ok y => (match reduceAnchor v 0 q out y false with
          | .ok k => out.outTiles.all (fun j => (out.elems j).all (fun e => !(sumWords ((reduceCoords 3 0 a.ext e.2).map (termWord false k y))).poison))
          | .error _ => false)
      | .error _ => false) = true := by decide +kernel
/-! ## The matrix machine -/

/-- A MATMUL of one 32 × 32 block, started on field 0 with these flags. -/
def matOp (op flags : Nat) (ins : List Nat) (params : List Byte) (u : MatRun) : Op :=
  { opOf (record op 0 flags ins 2 params) with phase := .running, fields := [0], mat := some u }

/-- Its run before the grant. -/
def waitingRun : MatRun := { MatRun.waiting 1 with anchor := 1, shares := sharesOf 32 32 32 1 0 }

/-- Its run with one tile row granted. -/
def grantedRun : MatRun := { waitingRun with chosen := true, grant := 1, rows := [1], granted := true }

/-- Field 0 runs an operation with these tile rows. -/
def running (m : Mem) (o : Op) (rows : List TileRow) : State :=
  (readyWith m o).modField 0 (fun g => { g with running := some (0, o.seq), tileRows := rows ++ g.tileRows.drop rows.length })

/-- A tile row granted to the operation. -/
def openRow : TileRow := { TileRow.reset with state := .open, anchor := 1, out := 2 }

/-- What BasinGrants asks of a state. -/
def grants (s : State) : Bool :=
  match s.grantable 0 with
  | some (o, u, p) => decide (s.op? 0 o.seq = some o) && decide o.fields.Nodup && o.fields.all (fun f => decide (f < s.fields.length))
      && (grantFields o p).all (fun f => decide (rowsNeeded s 0 o u p f ≤ s.freeRows f)) && !recAccumulate o.record && !u.chain
  | none => false

/-- What BasinGrants asks further of a product of K = 0, of ATTENTION and of a product that goes on in a chain. -/
theorem witness_grants_more :
    (match (running Mem.reset (matOp 0x1000 0 [0, 1, 3] (fieldsOf [(4, 32), (4, 32), (4, 0), (4, 1)]) waitingRun) []).grantable 0 with
      | some (o, _, _) => o.fields.all (fun f =>
          ((running Mem.reset (matOp 0x1000 0 [0, 1, 3] (fieldsOf [(4, 32), (4, 32), (4, 0), (4, 1)]) waitingRun) []).field f).tileRows.all
            (fun r => !r.serves 0 o.seq))
      | none => false) = true ∧
    (match (running Mem.reset (matOp 0x1010 0 [0, 1, 3] [] (MatRun.waiting 1)) []).grantable 0 with
      | some (o, _, _) => ((running Mem.reset (matOp 0x1010 0 [0, 1, 3] [] (MatRun.waiting 1)) []).asIssued 0 o).readsAgain 0 o == .ok
      | none => false) = true ∧
    (match (running Mem.reset (matOp 0x1000 1 [0, 1, 3] mnk32 waitingRun) []).grantable 0 with
      | some (o, _, p) => recAccumulate o.record && oneBlock (largest p.shares).1 (largest p.shares).2.1
      | none => false) = true := by decide +kernel

/-- A field outside the grant keeps its rows. -/
theorem witness_outside_grant : 1 ∉ [0] ∧ waitingRun.chain = false := by decide

theorem witness_grants :
    grants (running Mem.reset (matOp 0x1000 0 [0, 1, 3] mnk32 waitingRun) []) ∧ grants (running Mem.reset (matOp 0x1010 0 [0, 1, 3] [] (MatRun.waiting 1)) []) ∧
    grants (running Mem.reset (matOp 0x1000 0 [0, 1, 3] (fieldsOf [(4, 32), (4, 32), (4, 0), (4, 1)]) waitingRun) []) ∧
    recK (record 0x1000 0 0 [0, 1, 3] 2 mnk32) ≠ 0 ∧ recK (record 0x1000 0 0 [0, 1, 3] 2 (fieldsOf [(4, 32), (4, 32), (4, 0), (4, 1)])) = 0 := by
  decide +kernel

/-- The case of PassesRun that a state meets: its operands are read (0) or fail their check (1), a set is coming on (2), memory
serves no access (3), a tile row has another anchor (4), a lowered tile fails its check (5), or the next pass's block does (6). -/
def passCase (s : State) : Option Nat :=
  match s.matOn 0 with
  | some (c, o, u, i) => match (matPasses ((s.ctx c).asIssued o) o u i)[u.progress.getD i 0]? with
      | some p =>
        let g := geoOf ((s.ctx c).asIssued o) o.record
        match placeRows c o.seq (u.rows.getD i 0) (grantedRow s c o u) p.blk.batch p.blk.n0 (if p.first then p.blk.rows else [])
            (s.field 0).tileRows with
        | some rows =>
          if u.granted && inTurn ((s.ctx c).asIssued o) o u (u.progress.getD i 0) && decide o.fields.Nodup && decide (i < u.progress.length) && !(s.ctx c).saved.any (fun k => k.field == 0 && k.preempt)
              && (!p.first || blockRoom c o.seq (matBlocks ((s.ctx c).asIssued o) o u i) p.blk (s.field 0).tileRows) then
            match passAccess (s.asIssued c o) 0 c o u g p with
            | .stall => some 2
            | .stop _ => some 3
            | .ok => if rows.any (fun r => r.takes c o.seq p && r.anchor ≠ u.anchor) then some 4
                else match (prismRun (lowerTiles (s.asIssued c o) c o u g i 0 p)).2, passOperands (s.asIssued c o) 0 c o g p with
                  | some _, _ => some 5
                  | none, .error _ => some 1
                  | none, .ok _ => match (matPasses ((s.ctx c).asIssued o) o u i)[u.progress.getD i 0 + 1]? with
                    | some q => match nextLoad (s.asIssued c o) 0 c o u g q with
                      | .error _ => some 6
                      | .ok _ => some 0
                    | none => some 0
          else none
        | none => none
      | none => none
  | none => none

/-- A MATMUL of these inputs on field 0, granted, with one tile row. -/
def multiplying (ins : List Nat) (row : TileRow) : State := running Mem.reset (matOp 0x1000 0 ins mnk32 grantedRun) [row]

/-- Set 0 of field 0 is coming on. -/
def wakingSet (s : State) : State :=
  s.modField 0 (fun g => { g with sets := g.sets.set 0 { SetPower.reset with state := .retention, target := some .on } })

theorem witness_passes : passCase (multiplying [5, 5] openRow) = some 0 ∧ passCase (multiplying [0, 1, 3] openRow) = some 1 := by decide +kernel
theorem witness_passes_stopped :
    passCase (wakingSet (multiplying [7, 7] openRow)) = some 2 ∧
    passCase ((multiplying [0, 1] openRow).modStack 0 (fun k => { k with state := 2 })) = some 3 ∧
    passCase (multiplying [5, 5] { openRow with placed := true, anchor := 2 }) = some 4 := by decide +kernel

/-- The first pass has words for its tile row. -/
theorem witness_pass_words :
    (match (multiplying [5, 5] openRow).matOn 0 with
      | some (c, o, u, i) => match (matPasses (((multiplying [5, 5] openRow).ctx c).asIssued o) o u i)[u.progress.getD i 0]? with
        | some p => match placeRows c o.seq (u.rows.getD i 0) (grantedRow (multiplying [5, 5] openRow) c o u) p.blk.batch p.blk.n0
              (if p.first then p.blk.rows else []) ((multiplying [5, 5] openRow).field 0).tileRows with
          | some rows => match rows[0]? with
            | some r => r.takes c o.seq p && decide (p.r0 < p.r1) && decide (r.m0 = p.r0) && decide (p.blk.n0 < p.blk.n1)
                && decide (p.blk.n1 ≤ p.blk.n0 + 512)
            | none => false
          | none => false
        | none => false
      | none => false) = true := by decide +kernel

/-- The descriptor of a view with these extents. -/
def wideView (off fmt flips : Nat) (ext : List Nat) : DescEntry :=
  { bytes := fieldsOf [(8, 0xFFFF * 2 ^ 48 + off), (1, fmt), (1, ext.length), (2, 0x0201)]
      ++ padTo 20 (fieldsOf (ext.map (fun n => (4, n)))) ++ padTo 20 (fieldsOf (ext.map (fun _ => (4, 1))))
      ++ fieldsOf [(1, flips), (1, 255), (2, 0xFFFF), (6, 7), (2, 0)]
    aliasFree := true }

/-- A CONV of a poisoned input of 32 positions, granted. -/
def convolving : State :=
  running Mem.reset { matOp 0x1002 0 [8, 5] (mnk32 ++ fieldsOf [(2, 1), (2, 1), (2, 1), (2, 0), (16, 0), (2, 9)]) grantedRun with
    descs := [(8, wideView 0 2 0 [32, 32, 1]), (9, wideView (2 ^ 44) 2 0 [32, 64, 1]), (2, wideView (2 ^ 21) 2 0 [32, 32, 1]),
      (5, { bytes := flippedView (2 ^ 24) 2 3 32, aliasFree := true })] } [openRow]

/-- A grouped MATMUL of two groups of 32 rows, the first group's B a tile of zeros, the second's poisoned. -/
def grouped : State :=
  running ((Mem.reset).write 0 int4Tile)
    { matOp 0x1001 0 [8, 9, 3] (fieldsOf [(4, 64), (4, 32), (4, 32), (4, 2)])
        { grantedRun with shares := sharesOf 64 32 32 1 0, grant := 2, rows := [2], offsets := [0, 32, 64] } with
      descs := [(8, wideView (2 ^ 20) 0x11 1 [32, 64]), (9, wideView 0 0x11 0 [32, 32, 2]), (2, wideView (2 ^ 21) 2 0 [32, 64])] }
    [openRow, openRow]

theorem witness_passes_loaded : passCase convolving = some 5 ∧ passCase grouped = some 6 := by decide +kernel

/-- A MATMUL of 64 × 32, its K axis split over fields 0 and 1, granted. -/
def splitOp : Op :=
  { opOf (record 0x1000 0 0 [0, 1] 2 (fieldsOf [(4, 64), (4, 32), (4, 32), (4, 1)])) with
    phase := .running, fields := [0, 1]
    mat := some { grantedRun with axis := 2, shares := sharesOf 64 32 32 2 2, grant := 2, rows := [2, 2], progress := [0, 0] } }

/-- Field 0 holds a complete row block whose owner is field 1. -/
def splitting : State := running Mem.reset splitOp [{ openRow with placed := true, complete := true, m0 := 32 }]

/-- A partial for field 1 on the ditch. -/
def onDitch (seq : U32) (anchor : Int) : Partial :=
  { src := 0, owner := 1, ctx := 0, gen := 0#12, seq := seq, batch := 0, m := 32, n0 := 0, cols := 32, anchor := anchor, words := []
    route := [⟨.row 0, 4, true⟩] }

/-- Field 1's partial is underway. -/
def carrying (p : Partial) : State := splitting.modDitch (Ditch.send p)

/-- It has a row of its owner to land in, of its anchor or not. -/
def lands (p : Partial) (same : Bool) : Bool :=
  (carrying p).arriving 1 == some p && (match (carrying p).landing 1 p with
    | .rows l => (decide ((l.getD (rowIndex p.ctx p.seq p.batch p.n0 p.m l) TileRow.reset).anchor = p.anchor)) == same
    | _ => false)

/-- What PartialsAndDrains asks of a state with an operation on field 0. -/
def sends (s : State) (routed : Bool) : Bool :=
  match s.matOn 0 with
  | some (c, o, u, i) => match toSend (matBlocks ((s.ctx c).asIssued o) o u i) o u c i (s.field 0).tileRows with
    | some (_, r) => (ditchRoute s.ditchLive arrayClass (.field 0) (.field (o.fields.getD (ownerAt o u r.m0 i) 0))).isSome == routed
    | none => false
  | none => false

/-- A tile row of the operation on field 0 is ready to drain. -/
def drains (s : State) (k : Nat) : Bool :=
  match s.matOn 0 with
  | some (c, o, u, i) => ((s.field 0).tileRows.getD k TileRow.reset).serves c o.seq
      && ((s.field 0).tileRows.getD k TileRow.reset).ready o u i (matBlocks ((s.ctx c).asIssued o) o u i) (s.field 0).tileRows
      && drainAccess s c o u i ((s.field 0).tileRows.getD k TileRow.reset) == .ok
  | none => false

theorem witness_partials_and_drains :
    sends splitting true ∧ sends (splitting.modField 1 (fun g => { g with state := 4 })) false ∧
    (fieldRoute (fun f => f != 2) 4 1 7).isSome ∧ fieldRoute (fun f => f != 2) 4 1 3 = none ∧
    lands (onDitch 0#32 1) true ∧ lands (onDitch 0#32 2) false ∧
    (carrying (onDitch 9#32 1)).arriving 1 = some (onDitch 9#32 1) ∧
    (match (carrying (onDitch 9#32 1)).landing 1 (onDitch 9#32 1) with
      | .drop => true
      | _ => false) = true ∧
    drains (running Mem.reset (matOp 0x1000 0 [0, 1, 3] mnk32 grantedRun) [{ openRow with placed := true, complete := true }]) 0 := by decide +kernel

/-- A partial with a word, for a row of its anchor. -/
theorem witness_partial_words :
    let p := { onDitch 0#32 1 with words := [(3, L128.ofInt 1)] }
    lands p true ∧ (p.words.map Prod.fst).Nodup ∧ (3, L128.ofInt 1) ∈ p.words ∧ 1 < (carrying p).fields.length := by decide +kernel

/-- A complete row of the product on field 0, whose one output tile is whole with it. -/
def drainingRow : TileRow := { openRow with placed := true, complete := true }

/-- What the clause of PartialsAndDrains on the drained tile asks. -/
def drainsTile (s : State) : Bool :=
  match s.matOn 0 with
  | some (c, o, u, i) =>
    let v := s.asIssued c o
    let out := (v.ctx c).desc (recOut o.record)
    let ws := drainWords (geoOf (v.ctx c) o.record) (u.share i) drainingRow []
    let st := u.staged ++ ws.map (fun e => (out.tidx (out.tileOf e.1), out.pos e.1, e.2.1))
    let j := unrank out.grid 0
    let p := wordsPiece (v.ctx c) { o with fields := [0] } out none u.anchor j (fun y => wordAt (stagedOf st 0) (out.pos y))
    decide (recEpilogue o.record = 0) && decide (recK o.record ≠ 0) && ws.all (fun e => decide (out.tidx (out.tileOf e.1) = 0)) &&
      decide ((out.elems j).length ≤ (stagedOf st 0).length) && !out.offGrid j && isLocal s.own p.ga &&
      s.access (gaSpace p.ga) (gaOffset p.ga) p.slot.length == .ok && !p.acc && p.bad.isEmpty && p.witness.isNone && p.stats.isSome
  | none => false

/-- A MATMUL of one element into FP32, granted on field 0. -/
def oneElement : Op :=
  { intoOne 0x1000 0 6 (fieldsOf [(4, 1), (4, 1), (4, 1), (4, 1)]) with
    phase := .running, fields := [0], mat := some { grantedRun with shares := sharesOf 1 1 1 1 0 } }

theorem witness_drained_tile :
    drainsTile (running Mem.reset oneElement [drainingRow]) = true ∧
    ∀ w ∈ drainingRow.words, w.2.residueOk = true := by decide +kernel

/-- Context 1 of priority 3 has a MATMUL for field 0, which runs one of context 0. -/
def contended : State :=
  (running Mem.reset (matOp 0x1000 0 [0, 1, 3] mnk32 grantedRun) [openRow]).modCtx 1 (fun x =>
    { x with state := .active, priority := 3#2, descs := views, ops := [opOf (record 0x1000 0 0 [0, 1] 2 mnk32)] })

/-- An operation that was preempted itself preempts in its turn. -/
theorem witness_preempted_again :
    let o := { matOp 0x1000 0 [0, 1] mnk32 grantedRun with preempted := true }
    let s := contended.modCtx 1 (fun x => { x with ops := [o] })
    s.readyOps 1 = [o] ∧ s.preemptible 1 o ≠ [] := by decide +kernel

/-- Tile row 255 of field 0 is to be saved for context 0. -/
def saving : State :=
  (readyWith Mem.reset (opOf [])).modField 0 (fun g => { g with tileRows := g.tileRows.set 255 { openRow with state := .saving } })

theorem witness_preemption :
    (∃ o ∈ contended.readyOps 1, contended.preemptible 1 o ≠ []) ∧
    (((saving.field 0).tileRows.getD 255 TileRow.reset).state = .saving ∧
      ((saving.savedWith 0 255 { openRow with state := .saving }).getLast?.map SavedRow.slot) = some 0 ∧
      saving.access 0 (gaOffset ((saving.ctx 0).saveArea.getD 0 0#64).toNat) recordBytes = .ok ∧ (saving.ctx 0).saved.countP (fun k => k.field == 0) < 256) ∧
    (((readyWith Mem.reset { matOp 0x1000 0 [0, 1, 3] mnk32 grantedRun with preempted := true }).ctx 0).ops.find?
      ((readyWith Mem.reset { matOp 0x1000 0 [0, 1, 3] mnk32 grantedRun with preempted := true }).mayResume 0)).isSome := by decide +kernel

/-- A comparison of the one output tile, with this exact sum. -/
def compared (w : L128) : Comparison :=
  { ctx := 0, seq := 0#32, tile := 0, operand := 0, picked := 0, slot := 0, anchor := 1, sums := [(0, w)], base := [] }

/-- Field 0 has that comparison to make. -/
def comparing (m : Mem) (w : L128) : State :=
  (running m (matOp 0x1000 4 [5, 5] mnk32 grantedRun) []).modField 0 (fun g => { g with comparisons := [compared w] })

/-- Its witness slot is poisoned, or its sum. -/
theorem witness_comparisons_poisoned :
    ((comparing Mem.reset L128.zero).field 0).comparisons.find? (fun k => !k.sums.isEmpty) = some (compared L128.zero) ∧
    (∃ w ∈ (compared L128.poisoned).sums, w.2.poison = true) ∧
    (match (comparing Mem.reset L128.zero).op? 0 0#32 with
      | some o => o.mat.isSome && decide (o.phase ≠ .landing) &&
          (witnessFault (comparing Mem.reset L128.zero) 0 (((comparing Mem.reset L128.zero).ctx 0).asIssued o) 0).isSome
      | none => false) = true ∧
    (match ((comparing Mem.reset L128.poisoned).modCtx 0 (fun x => { x with ops := x.ops.map (fun o => { o with phase := .landing }) })).op? 0 0#32 with
      | some o => o.mat.isSome && decide (o.phase = .landing) && decide (o.status = 0#16)
      | none => false) = true := by decide +kernel
/-! ## Collectives -/

/-- The record of a ring collective of three members on links 0 (out) and 1 (in), root 1 or 0, deadline 9. -/
def ring (op rank root out : Nat) : List Byte :=
  record op 0x40 0 [6] out (fieldsOf [(1, 0), (1, 0), (1, 0), (1, 1), (2, 3), (2, 3), (2, rank), (2, root), (2, 0), (2, 0), (8, 9), (1, 0), (1, 1)])

/-- The member of job 7 with its ring neighbours, node 9 on links 0 and 1, and this operation. -/
def ringMember (o : Op) : State :=
  ((member.modLink 0 (fun l => { l with state := 2, seenNode := 9#16 })).modLink 1 (fun l => { l with state := 2, seenNode := 9#16 })).modCtx 0
    (fun x => { x with windowOpen := true, descs := views, ops := [o] })

/-- What CollectivesStart asks of a state, when its context's operation has this opcode. -/
def collStarts (s : State) (op : Nat) : Bool :=
  match s.starting 0 op with
  | some o =>
    let b := s.beginning (Launch.of 0) o
    let t := s.memberPart (Launch.of 0) o
    decide (0 < t.u.toDeliver) && !t.p.stripes.isEmpty && t.routed b && t.p.adders.all (fun i => decide (i < Grade.links s.grade) &&
        entryStatus (s.link i) (s.ctx 0).job (BitVec.ofNat 16 t.p.redNo) == stOk) && !t.p.tree
      && (if t.p.reduces then t.originates.all (fun q => match t.contribution b q.1 with
            | .ok _ => true
            | .error _ => false)
          else !(t.p.op = 0x5003 || t.p.rank = t.p.root) || ((localCopies b t).isEmpty && (List.range t.b).all (fun i =>
            match t.tile b i (BitVec.ofNat 32 (if t.p.op = 0x5003 then t.p.rank * t.b + i else i)) with
            | .ok _ => true
            | .error _ => false)))
  | none => false

theorem witness_collectives_inv : ModInv (ringMember (opOf (ring 0x5000 0 0 2))) := by unfold ModInv; decide +kernel

theorem witness_collectives :
    collStarts (ringMember (opOf (ring 0x5000 0 0 2))) 0x5000 ∧ collStarts (ringMember (opOf (ring 0x5001 0 0 2))) 0x5001 ∧
    collStarts (ringMember (opOf (ring 0x5002 0 0 2))) 0x5002 ∧ collStarts (ringMember (opOf (ring 0x5003 0 0 6))) 0x5003 ∧
    collStarts (ringMember (opOf (ring 0x5004 0 1 6))) 0x5004 := by decide +kernel

/-- Rank 2 of a REDUCE_SCATTER of one tile, running. -/
def scattering : Op :=
  { opOf (ring 0x5000 2 0 0xFFFF) with
    phase := .running, fields := [0], coll := some { anchor := 0, startFlags := 0#7, toDeliver := 0, toPass := 0, gathered := 0#7 } }

/-- Its entry in link 1. -/
def entry1 : JobEntry :=
  { job := 7#16, redNo := 3#16, state := 1, ctx := 0, gen := 0#12, anchor := 0, policy := 0#8, floor := 0#8, members := 3, rank := 2
    expected := 1, added := 0, delivered := 0, shared := 0#7, ready := [9#16], started := [], seq := 0#32 }

/-- An empty block of tile 0, and a packet of it. -/
def block0 : RedBlock :=
  { job := 7#16, redNo := 3#16, index := 0#32, anchor := 0, form := 0, tags := false, lost := false, poison := false, reserve := false
    stats := false, base := 0, count := 1, residue := 0, shared := 0#7, words := [], slot := [] }

/-- A packet of block 0 that node 9 sends. -/
def blockPacket (ptype : Nat) (payload : List Byte) : Packet := request ptype 3 0 payload

/-- Block 0 as it stands in staging. -/
def staged0 : Staged :=
  { src := 9#16, job := 7#16, redNo := 3#16, index := 0#32, header := block0.header, payload := [], chunks := 0, units := 2 }

/-- Rank 2 with this packet come on link 1, before its entry is there, or with the entry and block 0 in staging. -/
def ringGot (p : Packet) : State := (ringMember scattering).modLink 1 (fun l => { l with rx := [(p.vl, p)] })
def ringRankGot (p : Packet) : State := (ringGot p).modLink 1 (fun l => { l with entries := [(0, entry1)], staged := [staged0] })

/-- Rank 2 with block 0 in the staging of link 1. -/
def ringRank : State :=
  (ringMember scattering).modLink 1 (fun l => { l with entries := [(0, entry1)], staged := [staged0] })

/-- The tail of block 0. -/
def tail0 : Packet := blockPacket 0x22 (leBytes 4 (blockSeal staged0.header staged0.payload) ++ List.replicate 28 0#8)

/-- The contribution of rank 2: a block of zeros. -/
def ownBlock : RedBlock := { block0 with words := List.replicate 1024 L128.zero }

/-- The clause of ReductionBlocks on a whole block: the block and its tail. -/
theorem witness_whole_block :
    (ringRankGot tail0).delivers 0x22 1 tail0 ∧ ((ringRankGot tail0).link 1).staged.find? (fun b => b.takes tail0) = some staged0 ∧ staged0.index ≠ flagsOnly ∧
    Machine.field tail0.payload 0 4 = blockSeal staged0.header staged0.payload ∧ Machine.field tail0.payload 4 1 = 0 ∧
    staged0.block = block0 ∧ (((ringRankGot tail0).link 1).bufferFor block0.reserve).isSome := by decide +kernel

/-- The part that takes it, and its own contribution. -/
theorem witness_whole_block_part :
    (match (ringRankGot tail0).takerOf 1 tail0 with
      | some (_, _, t) => !t.p.tree && decide (t.p.op = 0x5000) && decide (staged0.index.toNat / chunkSize t.b t.p.members ≠ t.p.rank)
          && decide (t.u.anchor = block0.anchor) && decide (t.p.slicing = ⟨false, 0, 0⟩)
          && decide ((t.p.stripe t.b staged0.index).1 < Grade.links ringRank.grade) && !t.p.stripes.isEmpty
          && decide ((ringRank.link (t.p.stripe t.b staged0.index).1).state ≠ 4)
          && (match t.contribution (ringRankGot tail0) staged0.index with
              | .ok d => decide (d = ownBlock)
              | .error _ => false)
      | none => false) = true := by decide +kernel

/-- The check of R441 finds nothing in the two. -/
theorem witness_whole_block_sum : blockFault block0 ownBlock (RedBlock.add ⟨false, 0, 0⟩ block0 ownBlock) false = false := by decide +kernel

theorem witness_blocks :
    ((ringGot (blockPacket 0x23 [])).delivers 0x23 1 (blockPacket 0x23 []) ∧
      ((ringGot (blockPacket 0x23 [])).link 1).entry? 7#16 (redNoOf (blockPacket 0x23 [])) = none ∧
      ((ringGot (blockPacket 0x23 [])).link 1).freeEntry?.isSome ∧ (ringGot (blockPacket 0x23 [])).jobGone 7#16 = false) ∧
    (((ringGot (blockPacket 0x23 [])).modCtx 0 (fun x => { x with job := 0#16 })).modHub
      (fun h => { h with aborts := [(⟨7#16, 9#16, 0#16, 5#16⟩, 0)] })).jobGone 7#16 = true ∧
    (tableGet? (ringRank.link 1).entries 0 = some entry1 ∧ (match ringRank.part? 0 0#32 with
      | some t => decide (t.senders ringRank 1 = [(9#16, some 1)])
      | none => false) = true ∧ 9#16 ∉ entry1.started ∧ (ringRank.link 1).state ≠ 4) ∧
    ((ringRankGot (blockPacket 0x20 block0.header)).delivers 0x20 1 (blockPacket 0x20 block0.header) ∧
      ((ringRankGot (blockPacket 0x20 block0.header)).takerOf 1 (blockPacket 0x20 block0.header)).isSome) ∧
    ((ringRankGot (blockPacket 0x21 [])).delivers 0x21 1 (blockPacket 0x21 []) ∧ staged0.takes (blockPacket 0x21 []) ∧
      ((ringRankGot (blockPacket 0x21 [])).link 1).staged = [staged0]) := by decide +kernel

/-- Block 0 waits at link 0, whose partner is ready. -/
def toSend0 : ToSend :=
  { block := block0, dst := 9#16, tree := false, originated := true, escalated := false, home := none }

/-- Rank 2 with block 0 to send on link 0. -/
def ringSender : State := ringRank.modLink 0 (fun l => { l with entries := [(0, entry1)], sends := [toSend0] })

theorem witness_blocks_leave :
    (ringSender.nextSend 0 = some (toSend0, false) ∧ (ringSender.link 0).carries = true ∧ (ringSender.link 0).vls.length = 4 ∧
      (ringSender.link 0).leaving = none) ∧
    (let s := ringSender.modLink 0 (fun l => { l with leaving := some leavingBlock })
     s.nextSend 0 = some (toSend0, false) ∧ (s.link 0).leaving ≠ none) ∧
    (ringRank.ctx 0).dueCollective = some (scattering, 9) ∧ ringRank.op? 0 0#32 = some scattering ∧ ringRank.noCopyRuns = true ∧
    (ringRank.ctx 0).job ≠ 0#16 ∧ (ringRank.ctx 0).state = .active := by decide +kernel
/-! ## Synchronisation and ends -/

theorem witness_sync_operations :
    (∀ p ∈ [(0x6000, 0), (0x6001, 0), (0x7000, 5), (0x6003, 0)],
      ((ready (opOf (record p.1 0 0 [] 0xFFFF (fieldsOf [(1, 0), (3, 0), (4, p.2)])))).starting 0 p.1).isSome) ∧
    (((ready (opOf (record 0x7001 0 0 [] 0xFFFF (fieldsOf [(2, 0xFFFF), (1, 0), (1, 15), (4, 3)])))).starting 0 0x7001).isSome ∧
      ((ready (opOf [])).ctx 0).state = .active) ∧
    ((ready (opOf [])).modStack 0 (fun k => { k with state := 2 })).access 0
      (gaOffset ((ready (opOf [])).ctx 0).lensBase.toNat + 64 * ((ready (opOf [])).ctx 0).lensSlot) 64 = .stop stNoResource ∧
    (ready (opOf [])).access 0 (gaOffset ((ready (opOf [])).ctx 0).lensBase.toNat + 64 * ((ready (opOf [])).ctx 0).lensSlot) 64 = .ok ∧
    (let o := opOf (record 0x6003 0 0 [] 0xFFFF [])
     match scaleWork (((ready o).beginning (Launch.of 0) o).asIssued 0 ((ready o).begun (Launch.of 0) o)) 0 ((ready o).begun (Launch.of 0) o) with
      | .ok (_, pieces) => pieces.isEmpty
      | .error _ => false) = true := by decide +kernel

/-- A WAIT for counter 0 to reach 5 within 9 cycles, running. -/
def waiting5 : Op := opIn (record 0x7000 0 0 [] 0xFFFF (fieldsOf [(1, 0), (3, 0), (4, 5), (8, 9)])) .running

/-- A command of context 0 that waits for 128 bytes under tag 3. -/
def submitWait : Wait :=
  { kind := .submitHost 0 1, tag := 7#32, opcode := 0x0302#16, ctx := 0#8, dest := .port 2, key := 3#32, got := [], left := 128, parity := none }

/-- The member with that wait. -/
def hostReading : State := member.modPort (fun p => { p with waits := [submitWait] })

theorem witness_operations_end :
    (let s := memberWith (opIn (record 0x6002 0 0 [] 0xFFFF []) .landing)
     (match s.op? 0 0#32 with
      | some o => o.isOver s.now (s.ctx 0) && goodStatus o.status.toNat && decide (recOp o.record = 0x6002)
      | none => false)) = true ∧
    (let s := memberWith { opIn (record 0x4001 0 0 [] 0xFFFF []) .landing with status := 0x21#16 }
     (match s.op? 0 0#32 with
      | some o => o.isOver s.now (s.ctx 0) && !goodStatus o.status.toNat && decide (o.status.toNat ≠ stPoisoned) && decide ((s.ctx 0).state = .active)
      | none => false)) = true ∧
    ((memberWith waiting5).ctx 0).ops.find? (Op.runsOut (memberWith waiting5).now ((memberWith waiting5).ctx 0)) = some waiting5 ∧
    ((busy.modCtx 0 (fun x => { x with ops := [waiting5] })).ctx 0).job = 0#16 ∧
    (hostReading.port.waits.find? (fun w => w.key == 3#32 && decide (0 < w.left)) = some submitWait ∧ submitWait.left = 128) ∧
    { submitWait with parity := some { traffic := 1, item := 0, offset := 5 } }.parity.isSome ∧
    member.submission 0 (splitRecords 1 (waitRecord 0 9)) = stOk ∧ (waitRecord 0 9).length = 128 ∧
    ((List.range 16).findSome? (fun d => (((memberWith (copyWaiting false)).ctx d).needOf 3#32).map (fun q => (d, q)))) =
      some (0, copyWaiting false, need64) := by decide +kernel

/-! ## Numbers and byte forms -/

/-- A FIN word. -/
def fin (t : Int) : L128 := L128.ofInt t

theorem witness_sums :
    ((fin 1).addFault (fin (-1)) = false ∧ (fin sumMax).addFault (fin 0) = false ∧ (fin sumMin).addFault (fin (-1)) = false ∧
      (fin sumMax).addFault (fin 1) = false) ∧
    ((fin 1).tag = .fin ∧ (fin 1).poison = false ∧ -8 * 2 ^ 128 - 2 ^ 127 ≤ (fin 1).t + (fin (-1)).t) ∧
    ((fin sumMax).t + (fin 0).t = 7 * 2 ^ 128 + 2 ^ 127 - 1 ∧ (fin sumMax).tag = .fin) ∧
    ((fin sumMin).tag = .fin ∧ (fin sumMin).t + (fin (-1)).t < -8 * 2 ^ 128 - 2 ^ 127) ∧
    7 * 2 ^ 128 + 2 ^ 127 - 1 < (fin sumMax).t + (fin 1).t := by decide +kernel

/-- Words of every kind whose sum no order changes. -/
def someWords : List L128 := [fin 5, L128.special .nan, fin (-7), L128.poisoned, L128.special .ovfp]

theorem witness_order_free :
    someWords.Perm someWords.reverse ∧ (∀ w ∈ someWords, w.residueOk = true) ∧
    ((someWords.filter (fun w => w.tag = .fin)).map (fun w => (w.t.natAbs : Int))).sum ≤ sumMax := by
  exact ⟨someWords.reverse_perm.symm, by decide +kernel, by decide +kernel⟩

theorem witness_tags_and_residues :
    ((fin 1).poison = false ∧ (L128.special .ovfp).poison = false ∧ (L128.special .ovfp).tag ≠ .fin) ∧
    ((fin 1).residueOk = true ∧ ({ fin 3 with residue := 4 } : L128).residue % 255 ≠ res255 (fin 3).t) ∧
    ((fin 1).residueOk = true ∧ (fin (-1)).residueOk = true ∧ ((fin 1).add (fin (-1))).tag = .fin) ∧
    (sumMin ≤ (fin 3).t ∧ (fin 3).t ≤ sumMax ∧ (fin 3).residue < 256) := by decide +kernel

/-- Rounding of R247 in mode RNE without flags. -/
def rne : RoundCfg := { mode := .rne, ovfInf := false, wrap := false, ftz := false }

/-- Code 2 is a float of 16 bits with 5 exponent and 10 fraction bits; its bits 0x3C00 are 1. -/
theorem witness_rounding :
    (match formatKind 2 with
      | some (.float _ _ _ _ _) => decide (0x3C00 < 2 ^ elemBits 2) && !rne.ftz && decide (rne.mode = .rne)
      | _ => false) = true ∧
    decodeElem 2 0x3C00 = .fin 1 ∧ (storeElem 2 rne 0 (.fin (1 : Rat))).val = .fin 1 := by decide +kernel

theorem witness_packets :
    outward.parityOk = true ∧ (15 : Nat) < 16 ∧ ([] : List Byte).length ≤ 240 := by decide +kernel

/-- A header of a whole tile. -/
def someHeader : Header :=
  { scales := plainScales, format := 2, flags := 0, ceil := -32768, shape := 0x0201, valid := 1024, tid := 7, tidx := 0
    tail := List.replicate 8 0#8 }

theorem witness_tiles :
    (someHeader.scales.length = 32 ∧ someHeader.tail.length = 8 ∧ someHeader.format < 256 ∧ -32768 ≤ someHeader.ceil) ∧
    ((formatKind 2).isSome ∧ (List.replicate 1024 5).length = 1024 ∧ ∀ e ∈ List.replicate 1024 5, e < 2 ^ elemBits 2) := by decide +kernel
/-! ## Large slots in memory -/

/-- Cells of a byte string from an address on. -/
def cellsAt : Nat → List Byte → List Host.Cell
  | _, [] => []
  | k, b :: l => (k, b) :: cellsAt (k + 1) l

/-- Sound memory of 8 n bytes that begins with these bytes. -/
def soundMem (l : List Byte) (n : Nat) : Mem := { cells := cellsAt 0 l, clean := List.range n, ecc := [], writeBack := [] }

theorem bytesFrom_none (n k : Nat) : bytesFrom n k [] = List.replicate n 0#8 := by
  induction n generalizing k with
  | zero => rfl
  | succ n ih => rw [bytesFrom, ih]; rfl

theorem bytesFrom_cellsAt (l : List Byte) (n k : Nat) : bytesFrom (l.length + n) k (cellsAt k l) = l ++ List.replicate n 0#8 := by
  induction l generalizing k with
  | nil => simp [cellsAt, bytesFrom_none]
  | cons b l ih =>
    have : (b :: l).length + n = (l.length + n) + 1 := by simp; omega
    rw [this, cellsAt, bytesFrom, if_pos rfl, ih]; rfl

theorem soundMem_bytes (l : List Byte) (g n : Nat) : (soundMem l g).bytes 0 (l.length + n) = l ++ List.replicate n 0#8 := by
  have h : (cellsAt 0 l).dropWhile (fun c => decide (c.1 < 0)) = cellsAt 0 l := by cases l <;> simp [cellsAt]
  rw [Mem.bytes, soundMem, h, bytesFrom_cellsAt]; rfl

theorem soundMem_wordOk (l : List Byte) (g w : Nat) (h : 8 * w + 8 ≤ g) : (soundMem l g).wordOk w = true := by
  simp [Mem.wordOk, Mem.granuleOk, soundMem, tableGet?]; omega

theorem soundMem_errorWords (l : List Byte) (g n : Nat) : (soundMem l g).errorWords 0 n = [] := by
  simp [Mem.errorWords, soundMem]

/-- The header of an L128 tile of zeros with anchor 0. -/
def accHeader : Header :=
  { scales := plainScales, format := 0x18, flags := 0, ceil := -32768, shape := 0x0201, valid := 1024, tid := 7, tidx := 0
    tail := anchorTail 0 }

/-- The right seal of its slot. -/
def accSeal : BitVec 32 := sealOf accHeader.scales accHeader.body (List.replicate 18432 0#8)

/-- The first 64 bytes of its slot, with this seal. -/
def accHead (c : Nat) : List Byte := accHeader.scales ++ leBytes 4 c ++ accHeader.body

/-- The slot as bytes. -/
def accSlot (c : Nat) : List Byte := accHead c ++ List.replicate 18432 0#8

/-- The last packet of an accumulate-write of such a tile. -/
def accLast : Packet := request 0x03 hbm (36 * 256) (List.replicate 64 0#8)

/-- The rest of it in staging. -/
def accStaged (c : Nat) : AccStage := { AccStage.start accLast with bytes := accHead c ++ List.replicate 18368 0#8, next := 36 }

/-- The member with that slot at offset 0 and the rest of the tile in staging of link 0. -/
def accMember (c : Nat) : State :=
  { member.modLink 0 (fun l => { l with acc := [accStaged c], rx := [(accLast.vl, accLast)] }) with mem := soundMem (accHead c) 2312 }

theorem accSlot_parts (c : Nat) :
    bytesAt (accSlot c) 0 32 = accHeader.scales ∧ bytesAt (accSlot c) 36 28 = accHeader.body ∧ (accSlot c).drop 64 = List.replicate 18432 0#8 ∧
    Machine.field (accSlot c) 32 4 = leNat (leBytes 4 c) ∧ Header.parse (accSlot c) = accHeader ∧ (accHead c).length = 64 :=
  ⟨rfl, rfl, rfl, rfl, rfl, rfl⟩

theorem accSlot_length (c : Nat) : (accSlot c).length = 18496 := by
  rw [accSlot, List.length_append, (accSlot_parts c).2.2.2.2.2, List.length_replicate]

theorem accSlot_status (c : BitVec 32) (h : c = accSeal) : slotStatus 0x18 accHeader.shape (accSlot c.toNat) = (stOk, false) := by
  obtain ⟨h1, h2, h3, h4, h5, -⟩ := accSlot_parts c.toNat
  have hs : sealOk (accSlot c.toNat) = true := by
    rw [sealOk, h1, h2, h3, h4, leNat_leBytes _ _ c.isLt, ← accSeal, ← h]
    simp
  rw [slotStatus, hs, h5]
  decide +kernel

theorem acc_whole (c : Nat) : ((accStaged c).more accLast).bytes = accSlot c := by
  have h : ((accStaged c).more accLast).bytes = (accHead c ++ List.replicate 18368 0#8) ++ List.replicate 64 0#8 := rfl
  rw [h, List.append_assoc, List.replicate_append_replicate]; rfl

theorem acc_stored (c : Nat) : (accMember c).mem.bytes 0 18496 = accSlot c := by
  have h := soundMem_bytes (accHead c) 2312 18432
  rw [(accSlot_parts c).2.2.2.2.2] at h
  exact h

theorem acc_adds (c : BitVec 32) (bad : List Nat) (h : c = accSeal) : ∃ new, accumulateAt (accMember c.toNat) 0 ((accStaged c.toNat).more accLast) bad = .ok new := by
  have hn : slotBytes 0x18 = 18496 := by decide
  have ht : ((accStaged c.toNat).more accLast).bytes.take 18496 = accSlot c.toNat := by
    rw [acc_whole]; exact List.take_of_length_le (by rw [accSlot_length])
  have hk : localKey ((accStaged c.toNat).more accLast).addr = 0 := by
    show localKey accLast.addr.toNat = 0
    decide +kernel
  have hp : ((accStaged c.toNat).more accLast).poison = false := rfl
  have hb : (wordsOf 0 18496).filter (fun w => !(accMember c.toNat).mem.wordOk w) = [] := by
    rw [List.filter_eq_nil_iff]
    intro w hw
    have : w < 289 := by
      simp only [wordsOf] at hw
      simp at hw
      omega
    rw [show (accMember c.toNat).mem = soundMem (accHead c.toNat) 2312 from rfl, soundMem_wordOk _ _ _ (by omega)]
    simp
  have hs := accSlot_status c h
  have h5 := (accSlot_parts c.toNat).2.2.2.2.1
  have ha : ∃ new, accumulate (accSlot c.toNat) (accSlot c.toNat) bad = .ok new := by
    simp only [accumulate, h5, hs, ne_eq, not_true_eq_false, ↓reduceIte]
    exact ⟨_, rfl⟩
  obtain ⟨new, ha⟩ := ha
  refine ⟨new, ?_⟩
  simp only [accumulateAt, hn, hk, ht, hb, h5, hs, hp, acc_stored, ha]
  simp

/-- The clause of PeerRequests on a whole tile. -/
theorem witness_whole_tile :
    accLast.aux.toNat / 256 ≠ 0 ∧ (accMember accSeal.toNat).delivers 0x03 0 accLast = true ∧ (∀ c, ((accMember c).link 0).acc = [accStaged c]) ∧ (accStaged accSeal.toNat).takes accLast = true ∧ (accStaged accSeal.toNat).next = accLast.aux.toNat / 256 ∧
    ((accStaged accSeal.toNat).more accLast).bytes.length = slotBytes 0x18 ∧
    (accMember accSeal.toNat).peerAccess 0 accLast true (accStaged accSeal.toNat).addr (slotBytes 0x18) = .ok ∧
    ∀ bad, ∃ new, accumulateAt (accMember accSeal.toNat) 0 ((accStaged accSeal.toNat).more accLast) bad = .ok new :=
  ⟨by decide, by decide +kernel, fun _ => rfl, by decide, by decide, by rw [acc_whole, accSlot_length]; rfl, by decide +kernel, fun bad => acc_adds accSeal bad rfl⟩

/-! ## A witness slot -/

/-- The header of an FP32 tile of zeros. -/
def witHeader : Header := { accHeader with format := 0, tail := List.replicate 8 0#8 }

/-- The right seal of its slot. -/
def witSeal : BitVec 32 := sealOf witHeader.scales witHeader.body (List.replicate 4096 0#8)

/-- The first 64 bytes of its slot, with this seal. -/
def witHead (c : Nat) : List Byte := witHeader.scales ++ leBytes 4 c ++ witHeader.body

/-- The comparison of a whole sum with that witness slot. -/
def comparingSound (c : Nat) : State := comparing (soundMem (witHead c) 520) L128.zero

theorem witSlot_parts (c : Nat) :
    bytesAt (witHead c ++ List.replicate 4096 0#8) 0 32 = witHeader.scales ∧ bytesAt (witHead c ++ List.replicate 4096 0#8) 36 28 = witHeader.body ∧
    (witHead c ++ List.replicate 4096 0#8).drop 64 = List.replicate 4096 0#8 ∧
    Machine.field (witHead c ++ List.replicate 4096 0#8) 32 4 = leNat (leBytes 4 c) ∧
    Header.parse (witHead c ++ List.replicate 4096 0#8) = witHeader ∧ (witHead c).length = 64 := ⟨rfl, rfl, rfl, rfl, rfl, rfl⟩

theorem witness_slot_sound (c : BitVec 32) (h : c = witSeal) (x : Ctx) (hx : x.witnessKey 0 = 0) :
    witnessFault (comparingSound c.toNat) 0 x 0 = none := by
  obtain ⟨h1, h2, h3, h4, h5, h6⟩ := witSlot_parts c.toNat
  have hb : (comparingSound c.toNat).mem.bytes 0 4160 = witHead c.toNat ++ List.replicate 4096 0#8 := by
    have h := soundMem_bytes (witHead c.toNat) 520 4096
    rw [h6] at h; exact h
  have hs : sealOk (witHead c.toNat ++ List.replicate 4096 0#8) = true := by
    rw [sealOk, h1, h2, h3, h4, leNat_leBytes _ _ c.isLt, ← witSeal, ← h]; simp
  have hw : (wordsOf 0 4160).find? (fun w => !(comparingSound c.toNat).mem.wordOk w) = none := by
    rw [List.find?_eq_none]
    intro w hw
    have : w < 65 := by
      simp only [wordsOf] at hw
      simp at hw
      omega
    rw [show (comparingSound c.toNat).mem = soundMem (witHead c.toNat) 520 from rfl, soundMem_wordOk _ _ _ (by omega)]
    simp
  simp only [witnessFault, hx, hw, hb, hs, h5]
  rfl

theorem witness_comparisons :
    ((comparingSound witSeal.toNat).field 0).comparisons.find? (fun k => !k.sums.isEmpty) = some (compared L128.zero) ∧
    (∀ w ∈ (compared L128.zero).sums, w.2.poison = false) ∧
    (∀ x : Ctx, x.witnessKey 0 = 0 → witnessFault (comparingSound witSeal.toNat) 0 x 0 = none) ∧
    (match (comparingSound witSeal.toNat).op? 0 0#32 with
      | some o => o.mat.isSome && decide ((((comparingSound witSeal.toNat).ctx 0).asIssued o).witnessKey 0 = 0)
          && (match readTensor ((comparingSound witSeal.toNat).asIssued 0 o) { o with fields := [0] }
                (geoOf (((comparingSound witSeal.toNat).ctx 0).asIssued o) o.record).a,
              readTensor ((comparingSound witSeal.toNat).asIssued 0 o) { o with fields := [0] }
                (geoOf (((comparingSound witSeal.toNat).ctx 0).asIssued o) o.record).b with
            | .ok _, .ok _ => true
            | _, _ => false)
      | none => false) = true :=
  ⟨rfl, by decide +kernel, fun x hx => witness_slot_sound witSeal rfl x hx, by decide +kernel⟩

/-! ## A saved record -/

/-- Header bytes 4 to 63 of the record of tile row 0 of field 0 (R155). -/
def savedBody : List Byte := recordBody 0 0 openRow

/-- A record of zero words with this seal. -/
def savedHead (c : Nat) : List Byte := leBytes 4 c ++ savedBody

/-- The record. -/
def savedBytes (c : Nat) : List Byte := savedHead c ++ List.replicate 294912 0#8

/-- Its right seal. -/
def savedSeal : BitVec 32 := crc32c (savedBody ++ List.replicate 294912 0#8)

/-- What the context keeps of it. -/
def savedRow : SavedRow := { field := 0, slot := 0, index := 0, preempt := true, row := openRow }

/-- Field 0 runs the resumed operation, whose row is saved at offset 0. -/
def restoring (c : Nat) : State :=
  (running (soundMem (savedHead c) 36872) (matOp 0x1000 0 [0, 1, 3] mnk32 grantedRun) []).modCtx 0 (fun x => { x with saved := [savedRow] })

theorem saved_parts (c : Nat) :
    Machine.field (savedBytes c) 0 4 = leNat (leBytes 4 c) ∧ (savedBytes c).drop 4 = savedBody ++ List.replicate 294912 0#8 ∧
    Machine.field (savedBytes c) 6 1 % 16 = 0 ∧ Machine.field (savedBytes c) 7 1 = 1 ∧ Machine.field (savedBytes c) 8 2 % 4096 = 0 ∧ (savedBytes c).drop 64 = List.replicate 294912 0#8 ∧
    (savedHead c).length = 64 := ⟨rfl, rfl, rfl, rfl, rfl, rfl, rfl⟩

theorem saved_stored (c : Nat) : (restoring c).mem.bytes 0 recordBytes = savedBytes c := by
  have h := soundMem_bytes (savedHead c) 36872 294912
  rw [(saved_parts c).2.2.2.2.2.2] at h
  exact h

theorem chunks_zero (w n : Nat) (q : List Byte) (h : q ∈ chunks w n (List.replicate (w * n) 0#8)) : q = List.replicate w 0#8 := by
  induction n with
  | zero => simp [chunks] at h
  | succ n ih =>
    rw [chunks, List.take_replicate, List.drop_replicate, Nat.mul_succ, Nat.add_sub_cancel, Nat.min_eq_left (by omega)] at h
    rcases List.mem_cons.mp h with h | h
    · exact h
    · exact ih h

theorem zero_words_ok : (chunks 18 16384 (List.replicate 294912 0#8)).all storedOk = true := by
  rw [List.all_eq_true]
  intro q hq
  rw [chunks_zero 18 16384 q hq]
  decide +kernel

theorem saved_ok (c : BitVec 32) (h : c = savedSeal) : recordOk (restoring c.toNat) 0 0 (savedBytes c.toNat) = true := by
  obtain ⟨h1, h2, h3, h7, h4, h5, -⟩ := saved_parts c.toNat
  have hr : (restoring c.toNat).mem.rangeOk 0 recordBytes = true := by
    rw [Mem.rangeOk, List.all_eq_true]
    intro w hw
    have : w < 4609 := by
      simp only [wordsOf, recordBytes] at hw
      simp at hw
      omega
    exact soundMem_wordOk _ _ _ (by omega)
  have hg : ((restoring c.toNat).ctx 0).gen.toNat = 0 := rfl
  rw [recordOk, hr, h1, h2, h3, h7, h4, h5, hg, zero_words_ok, leNat_leBytes _ _ c.isLt, ← savedSeal, ← h]
  simp

/-- The clause of PreemptionSaves on a record that is restored. -/
theorem witness_restore :
    (restoring savedSeal.toNat).restorable 0 0 = some (savedRow, matOp 0x1000 0 [0, 1, 3] mnk32 grantedRun) ∧
    memKey 0 (gaOffset (((restoring savedSeal.toNat).ctx 0).saveArea.getD 0 0#64).toNat + recordBytes * savedRow.slot) = 0 ∧
    (∃ r ∈ ((restoring savedSeal.toNat).field 0).tileRows, r.state = .free) ∧
    recordOk (restoring savedSeal.toNat) 0 0 ((restoring savedSeal.toNat).mem.bytes 0 recordBytes) = true ∧
    (restoring savedSeal.toNat).mem.errorWords 0 recordBytes = [] :=
  ⟨by decide +kernel, by decide +kernel, by decide +kernel, by rw [saved_stored]; exact saved_ok savedSeal rfl, soundMem_errorWords _ _ _⟩

/-- One that is not: its words are poisoned. -/
theorem witness_restore_fails :
    let s := (running Mem.reset (matOp 0x1000 0 [0, 1, 3] mnk32 grantedRun) []).modCtx 0 (fun x => { x with saved := [savedRow] })
    s.restorable 0 0 = some (savedRow, matOp 0x1000 0 [0, 1, 3] mnk32 grantedRun) ∧ recordOk s 0 0 (s.mem.bytes 0 recordBytes) = false ∧
    s.access 0 (0 % 2 ^ 44) recordBytes = .ok := by decide +kernel

/-! ## The spec's worked examples -/

/-- The generator's test vector (R178). -/
theorem test_gen : gen 0x0000000200000001 7 3 5 = 0x06B01499 := by decide +kernel

/-- CRC-32C of the nine ASCII digits (R208). -/
theorem test_crc32c :
    crc32c [0x31#8, 0x32#8, 0x33#8, 0x34#8, 0x35#8, 0x36#8, 0x37#8, 0x38#8, 0x39#8] = 0xE3069283#32 := by decide +kernel

/-- S40 pairs of the table after R58. -/
theorem test_s40_above : s40Split (1 + pow2 (-9) + pow2 (-20)) = (0x3F80, 0x400800) := by decide +kernel
theorem test_s40_below : s40Split (1 - pow2 (-20)) = (0x3F80, 0xFFF800) := by decide +kernel

/-- Products and residues of the worked dot product (03). -/
theorem test_dot_products :
    (enterRat 2 (9 / 2)).t = 9 * 2 ^ 93 ∧ (enterRat 2 (3 / 2 * pow2 (-72) + 3 / 2 * pow2 (-95))).t = 6291457
      ∧ (enterRat 2 (-15 / 16)).t = -(15 * 2 ^ 90) := by decide +kernel
theorem test_dot_residues :
    (enterRat 2 (9 / 2)).residue = 33 ∧ (enterRat 2 (3 / 2 * pow2 (-72) + 3 / 2 * pow2 (-95))).residue = 97
      ∧ (enterRat 2 (-15 / 16)).residue = 195 := by decide +kernel

/-- The sum of the worked dot product. -/
def dotSum : L128 := ((enterRat 2 (9 / 2)).add (enterRat 2 (3 / 2 * pow2 (-72) + 3 / 2 * pow2 (-95)))).add (enterRat 2 (-15 / 16))

theorem test_dot_sum : dotSum.t = 57 * 2 ^ 90 + 6291457 ∧ dotSum.residue = 70 ∧ dotSum.tag = .fin := by decide +kernel

/-- Rounding to nearest, no infinities, saturating. -/
def nearest : RoundCfg := { mode := .rne, ovfInf := false, wrap := false, ftz := false }

/-- The stores of the worked dot product. -/
theorem test_dot_store :
    (storeElem 1 nearest 0 (dotSum.resolve 2)).bits = some 0x4064 ∧ (storeElem 4 nearest 0 (dotSum.resolve 2)).bits = some 0x46 := by
  decide +kernel

/-- Stochastic rounding of the example after R180. -/
theorem test_stochastic :
    (storeElem 1 { nearest with mode := .sr } 0x06B0 (.fin (1 + 63 * pow2 (-13)))).bits = some 0x3F81
      ∧ (storeElem 1 { nearest with mode := .sr } 0x06B0 (.fin (1 + pow2 (-8)))).bits = some 0x3F80 := by decide +kernel

/-- The block scale and element of the example after R174. -/
theorem test_block_scale :
    blockScale 0x24 450 = 0x80 ∧ (storeElem 0x24 nearest 0 (.fin 225)).bits = some 0x76 := by decide +kernel

/-- An MXFP4 block of scale byte 0x7A: 6 · 2^−5 has ceiling exponent −2 (02). -/
theorem test_ceiling : ceilOfVals [elemVal 0x28 0x7A 0x7, elemVal 0x28 0x7A 0xF] = -2 := by decide +kernel

/-- The INT4 −3 at position 1,000 (R203): bit 0 of payload bytes 125, 381 and 509. -/
theorem test_int4_planes :
    ((packElems 0x11 (List.replicate 1000 0 ++ [0xD] ++ List.replicate 23 0)).zipIdx.filter (fun p => p.1 != 0#8))
      = [(1#8, 125), (1#8, 381), (1#8, 509)] := by decide +kernel

/-- The worked descriptor (08). -/
def activationBytes : List Byte :=
  fieldsOf [(8, 0xFFFF100040000000), (1, 1), (1, 2), (2, 0x0201), (4, 9216), (4, 8192), (12, 0), (4, 64), (4, 2304), (12, 0), (1, 0),
    (1, 0xFF), (2, 0x12), (8, 0x105)]

def activation : Desc := Desc.parse activationBytes

theorem test_descriptor_fields :
    activationBytes.length = 64 ∧ descStatus activationBytes = stOk ∧ activation.tid = 0x105 ∧ activation.stats = 0x12
      ∧ activation.superGrid = [36, 32] := by decide +kernel
theorem test_descriptor_span :
    activation.slotSpan = (0, 73727) ∧ activation.span.2 % 2 ^ 44 = 1229455359 ∧ activation.aliasFree = true := by decide +kernel

/-- The view that reverses the token order (08). -/
def reversed : Desc :=
  Desc.parse (patch (patch (patch activationBytes 0 (leBytes 8 0xFFFF100048FDC000)) 36 (leBytes 4 (2 ^ 32 - 2304))) 52 [2#8])

theorem test_reversed_span :
    reversed.slotSpan = (-71424, 2303) ∧ reversed.span = activation.span ∧ reversed.aliasFree = true := by decide +kernel

/-- Its element (0, 0) is stored token 8,191 of the original view. -/
theorem test_reversed_element :
    reversed.slotAddr (reversed.tileOf [0, 0]) = activation.slotAddr (activation.tileOf [0, 8191])
      ∧ reversed.pos [0, 0] = activation.pos [0, 8191] := by decide +kernel

/-- The placement of element (5000, 3000) (R205). -/
theorem test_placement :
    activation.pos [5000, 3000] = 776 ∧ activation.tileOf [5000, 3000] = [156, 93] ∧ activation.tidx [156, 93] = 26940
      ∧ activation.slotIndex [156, 93] = 26604 ∧ activation.slotAddr [156, 93] = activation.base + 56187648 := by decide +kernel

/-- The worked keeper update (10): the loss scale's entry at step 40 and its faulty step 41. -/
def lossEntry (s : Nat) : List Byte := fieldsOf [(2, s), (2, 0), (2, 16), (1, 2), (1, 1), (1, 1), (1, 0), (2, 0), (2, 0xFFFF), (18, 0)]

theorem test_keeper_scale : (newScale false 11 (lossEntry 14)).2 = 17 ∧ (newScale true 0 (lossEntry 17)).2 = 16 := by decide +kernel

/-- The anchor's entry follows it. -/
def anchorEntry (a : Nat) : List Byte := fieldsOf [(2, 0), (2, a), (2, 0), (1, 2), (1, 1), (1, 2), (1, 0), (2, 0), (2, 0), (18, 0)]

theorem test_keeper_anchor :
    (newAnchor false 3 3 (anchorEntry 5)).2 = 7 ∧ (newAnchor true 0 (-1) (anchorEntry 7)).2 = 7 := by decide +kernel
theorem test_keeper_link : keepLink (anchorEntry 5) = 0 ∧ keepKind (anchorEntry 5) = 2 ∧ keepBackoff (anchorEntry 5) = 1 := by decide +kernel

/-! ## Ill-formed commands -/

/-- A message whose queue pair has more than 24 bits, and one longer than a receive buffer. -/
theorem test_wf_message :
    (Instr.modInfo { msg 0x0001 0xFF [] with qp := 2 ^ 24 }).wf = false
      ∧ (Instr.submit (msg 0x0201 0 (List.replicate 8192 0#8))).wf = false ∧ (Instr.modInfo (msg 0x0001 0xFF [])).wf = true := by
  decide +kernel

/-- Packets whose payload is not their length, and a link that is none. -/
theorem test_wf_packet :
    (Instr.write 0 ⟨{ request 2 0 0 [] with payload := List.replicate 32 0#8 }, []⟩).wf = false
      ∧ (Instr.readReq 32 (request 1 0 32 [])).wf = false ∧ (Instr.readReq 31 (request 1 0 32 [])).wf = true := by decide +kernel

/-- Contexts, fields, links, stacks, engines. -/
theorem test_wf_numbers :
    (Instr.matmul (Launch.of 16)).wf = false ∧ (Instr.operationComplete 16 ⟨0#32, []⟩).wf = false ∧ (Instr.witnessCompare 8).wf = false
      ∧ (Instr.linkDown 32).wf = false ∧ (Instr.hbmRefresh ⟨16, 0, []⟩).wf = false ∧ (Instr.engineHung 0 20).wf = false
      ∧ (Instr.engineHung 8 0).wf = false ∧ (Instr.teardownTimeout 0 8 0).wf = false := by decide +kernel

/-- Feeds, buses, rails, interrupt sources, controllers, rings. -/
theorem test_wf_module :
    (Instr.rearm 2).wf = false ∧ (Instr.sidebandBusRecover 2).wf = false ∧ (Instr.phaseFail 10).wf = false
      ∧ (Instr.eoi 960).wf = false ∧ (Instr.evcTake 9).wf = false ∧ (Instr.doorbell 17 0#64).wf = false
      ∧ (Instr.eoi 959).wf = true := by decide +kernel

/-- Tile rows, banks, rows, sets, lanes, virtual lanes, entries, sensors. -/
theorem test_wf_places :
    (Instr.tileRowSave 0 256).wf = false ∧ (Instr.scrub 0 ⟨1920, []⟩).wf = false ∧ (Instr.eccWriteback 0 0 32768).wf = false
      ∧ (Instr.setTransitionDone 0 15).wf = false ∧ (Instr.laneSubstitute 0 8).wf = false ∧ (Instr.residencyTimeout 0 4).wf = false
      ∧ (Instr.redReadyResend 0 64).wf = false ∧ (Instr.thermalThrottle 0 2 100).wf = false := by decide +kernel

/-- A flit of another length, more code words than a flit has, addresses beyond 2^64, nine fields' draw, a bring-up that
does not name every field. -/
theorem test_wf_lengths :
    (Instr.flitReceive 0 [] 0).wf = false ∧ (Instr.flitReceive 0 (List.replicate 256 0#8) 17).wf = false
      ∧ (Instr.rdmaRead 2 0#32 (2 ^ 64) 1).wf = false ∧ (Instr.powerCapPeriod 0 (List.replicate 9 0)).wf = false
      ∧ (Instr.powerUp { found 0#6 with resets := [] }).wf = false ∧ (Instr.rateRestore (2 ^ 24)).wf = false := by decide +kernel

/-- No row of the command table gives bits. -/
theorem test_no_word_decodes : decodeTableWord 64 0 = none := rfl

/-! ## The worked timings of the array (04) and the worked all-reduce (13) -/

/-- The costs of the N, M and K splits of the feed-forward input projection on eight fields, grant 256. -/
theorem test_split_costs :
    costOf 16 8192 3072 9216 (mPass 8192 3072 256 none) = 442368 ∧ costOf 16 1024 24576 9216 (mPass 1024 24576 256 none) = 442368
      ∧ costOf 16 8192 24576 1152 (mPass 8192 24576 256 none) = 786432 := by decide +kernel

/-- The stalls of the operation with a short M: 162 passes of 512 rows, loads of 1,024. -/
theorem test_short_m_stalls : stallsOf 1 0 (List.replicate 162 (512, 1024)) = 83506 := by decide +kernel

/-- The chunks of the reference installation's all-reduce. -/
theorem test_ring_chunks :
    chunkSize 57467385 2048 = 28061 ∧ chunkRange 57467385 2048 2047 = (2047 * 28061, 2047 * 28061 + 26518) := by decide +kernel

/-- ReservoirAddressMap: the spec's element at offset 1,129,931,088 (R347), and the last offset of a field. -/
theorem test_reservoir_place :
    1129931088 < reservoirBytes ∧ resBank 1129931088 = 517 ∧ resRow 1129931088 = 6859 ∧ 1129931088 % 64 = 16
      ∧ resBank (reservoirBytes - 1) = 1919 ∧ resRow (reservoirBytes - 1) = 32767 := by decide +kernel

/-- TagsCombine: FIN words whose sum stays in the range, leaves it upwards and leaves it downwards by one. -/
theorem witness_sum_ends :
    (L128.ofInt sumMax).poison = false ∧ (L128.ofInt sumMax).tag = .fin ∧ ((L128.ofInt sumMax).add L128.zero).tag = .fin
      ∧ ((L128.ofInt sumMax).add (L128.ofInt 1)).tag = .ovfp ∧ ((L128.ofInt sumMin).add (L128.ofInt (-1))).tag = .ovfn
      ∧ ((L128.special .ovfp).add (L128.special .ovfn)).tag = .ovfx := by decide +kernel

/-- Residue checks that fail in an engine without residues (R511), test results and reset findings that name nothing. -/
theorem test_wf_findings :
    (Instr.passStart 0 ⟨0, [⟨0, 5, 0⟩]⟩).wf = false ∧ (Instr.passStart 0 ⟨9, [⟨0, 0, 31⟩]⟩).wf = true
      ∧ (Instr.basinGrant ⟨0, [], [⟨0, 3, 0⟩]⟩).wf = false ∧ (Instr.scatterAdd { Launch.of 0 with faults := [⟨0, 0, 0⟩] }).wf = false
      ∧ (Instr.vector { Launch.of 0 with faults := [⟨0, 4, 0⟩] }).wf = false ∧ (Instr.partialArrival 0 [⟨0, 2, 0⟩]).wf = false
      ∧ (Instr.drainStart 0 0 [⟨0, 0, 0⟩]).wf = false
      ∧ (Instr.testDone 0 { verdict := 3, unitsFailed := 0#8, bedFail := 0#32, seqFail := 0#5, maps := [], beds := [] }).wf = false
      ∧ (Instr.fieldResetDone 0 { cleanReset with banks := [15360] }).wf = false
      ∧ (Instr.fieldResetDone 0 { cleanReset with beds := [⟨0, [130], []⟩] }).wf = false := by decide +kernel

end Sys2Proof.Tests
end

/-! Proofs about the long accumulator (03): what its adder answers (R78, R79, R84, R89), the split of a sum into S and W, and the
table of tags. -/
namespace Sys2Proof.Machine

/-! ## S and W of a word (R78) -/

/-- Two's complement of the low bits is the balanced remainder. -/
theorem signedOf_lowBits (w : Nat) (v : Int) : signedOf w (lowBits w v) = v.bmod (2 ^ w) := by
  have hpos : (0 : Int) < ((2 ^ w : Nat) : Int) := by exact_mod_cast Nat.two_pow_pos w
  have hnn : 0 ≤ v % ((2 ^ w : Nat) : Int) := Int.emod_nonneg v hpos.ne'
  have hlt : v % ((2 ^ w : Nat) : Int) < ((2 ^ w : Nat) : Int) := Int.emod_lt_of_pos v hpos
  have hmod : lowBits w v % 2 ^ w = lowBits w v := Nat.mod_eq_of_lt (by rw [lowBits]; omega)
  have hcast : (lowBits w v : Int) = v % ((2 ^ w : Nat) : Int) := Int.toNat_of_nonneg hnn
  simp only [signedOf, hmod, Int.bmod_def, ← hcast]
  split <;> split <;> omega

theorem L128.s_eq_bmod (w : L128) : w.s = w.t.bmod (2 ^ 128) := signedOf_lowBits 128 w.t

/-- S is a two's complement number of 128 bits. -/
theorem L128.s_mem (w : L128) : -(2 ^ 127) ≤ w.s ∧ w.s < 2 ^ 127 := by
  have hlo := Int.le_bmod (x := w.t) (m := 2 ^ 128) (by decide)
  have hhi := Int.bmod_lt (x := w.t) (m := 2 ^ 128) (by decide)
  rw [← L128.s_eq_bmod] at hlo hhi
  constructor <;> omega

/-- T = S + W × 2^128 (R64). -/
theorem L128.s_add_wrap (w : L128) : w.s + w.wrap * 2 ^ 128 = w.t := by
  have hdvd : (2 ^ 128 : Int) ∣ w.t - w.s := by
    rw [L128.s_eq_bmod]
    exact Int.dvd_self_sub_bmod
  rw [L128.wrap, Int.ediv_mul_cancel hdvd]
  omega

/-- W of a word in the range of R78 has four bits. -/
theorem L128.wrap_mem (w : L128) (hlo : sumMin ≤ w.t) (hhi : w.t ≤ sumMax) : -8 ≤ w.wrap ∧ w.wrap ≤ 7 := by
  have hsum := w.s_add_wrap
  obtain ⟨hslo, hshi⟩ := w.s_mem
  simp only [sumMin, sumMax] at hlo hhi
  constructor <;> omega

/-! ## A sum written back (R78, R79) -/

theorem writeSum_of_mem {t : Int} (hlo : sumMin ≤ t) (hhi : t ≤ sumMax) : writeSum t = L128.ofInt t := by
  simp [writeSum, hlo, hhi]

theorem writeSum_of_lt {t : Int} (h : t < sumMin) : writeSum t = L128.special .ovfn := by
  have hneg : t < 0 := h.trans (by decide)
  simp [writeSum, h.not_ge, hneg]

theorem writeSum_of_gt {t : Int} (h : sumMax < t) : writeSum t = L128.special .ovfp := by
  have hpos : ¬ t < 0 := (lt_trans (by decide) h).le.not_gt
  simp [writeSum, h.not_ge, hpos]

/-! ## The table of tags (R84) -/

@[simp] theorem fin_addTags (a : Tag) : addTags .fin a = a := by cases a <;> rfl

@[simp] theorem addTags_fin (a : Tag) : addTags a .fin = a := by cases a <;> rfl

@[simp] theorem nan_addTags (a : Tag) : addTags .nan a = .nan := rfl

@[simp] theorem addTags_nan (a : Tag) : addTags a .nan = .nan := by cases a <;> rfl

@[simp] theorem addTags_self (a : Tag) : addTags a a = a := by cases a <;> rfl

theorem addTags_comm (a b : Tag) : addTags a b = addTags b a := by cases a <;> cases b <;> rfl

/-- FIN is the unit and NAN absorbs; what is left is the table of the infinities and the overflows. -/
theorem addTags_assoc (a b c : Tag) : addTags (addTags a b) c = addTags a (addTags b c) := by
  cases a with
  | fin => simp only [fin_addTags]
  | nan => simp only [nan_addTags]
  | pinf | ninf | ovfp | ovfn | ovfx => cases b <;> cases c <;> rfl

theorem addTags_eq_fin {a b : Tag} : addTags a b = .fin ↔ a = .fin ∧ b = .fin := by
  cases a <;> cases b <;> simp [addTags]

/-- An infinity gives way to no overflow, and OVFX to none of one sign. -/
theorem addTags_overflow {a : Tag} (h : a ∈ [Tag.ovfp, Tag.ovfn, Tag.ovfx]) :
    addTags .pinf a = .pinf ∧ addTags .ninf a = .ninf ∧ addTags .ovfx a = .ovfx := by
  cases a <;> revert h <;> decide

/-! ## The adder -/

namespace L128

variable {a b : L128}

theorem addFault_eq_false_of_not_fin (h : a.tag ≠ .fin ∨ b.tag ≠ .fin) : a.addFault b = false := by
  rcases h with h | h <;> simp [addFault, h]

section Fin

variable (ha : a.tag = .fin) (hb : b.tag = .fin) (pa : a.poison = false) (pb : b.poison = false) (hf : a.addFault b = false)
include ha hb pa pb hf

/-- Two FIN words whose check finds nothing: the exact sum is written back (R78, R79). -/
theorem add_of_fin : a.add b = writeSum (a.t + b.t) := by
  simp [add, ha, hb, pa, pb, hf]

theorem add_of_mem (hlo : sumMin ≤ a.t + b.t) (hhi : a.t + b.t ≤ sumMax) : a.add b = ofInt (a.t + b.t) := by
  rw [add_of_fin ha hb pa pb hf, writeSum_of_mem hlo hhi]

theorem add_tag_of_lt (h : a.t + b.t < sumMin) : (a.add b).tag = .ovfn := by
  rw [add_of_fin ha hb pa pb hf, writeSum_of_lt h]
  rfl

theorem add_tag_of_gt (h : sumMax < a.t + b.t) : (a.add b).tag = .ovfp := by
  rw [add_of_fin ha hb pa pb hf, writeSum_of_gt h]
  rfl

end Fin

/-- Two words of which one is not FIN: their tags combine (R84). -/
theorem add_of_not_fin (pa : a.poison = false) (pb : b.poison = false) (h : a.tag ≠ .fin ∨ b.tag ≠ .fin) :
    a.add b = special (addTags a.tag b.tag) := by
  have hfin : ¬ (a.tag = .fin ∧ b.tag = .fin) := by tauto
  simp [add, pa, pb, addFault_eq_false_of_not_fin h, hfin]

/-- A sum with a word that is not FIN is not FIN: poisoned it is NAN (R89), else the table has no way back to FIN (R82, R84). -/
theorem add_tag_ne_fin (h : a.tag ≠ .fin ∨ b.tag ≠ .fin) : (a.add b).tag ≠ .fin := by
  by_cases hp : a.poison = true ∨ b.poison = true
  · have hpoisoned : a.add b = poisoned := by rcases hp with hp | hp <;> simp [add, hp]
    rw [hpoisoned]
    decide
  · obtain ⟨pa, pb⟩ : a.poison = false ∧ b.poison = false := by simpa using hp
    rw [add_of_not_fin pa pb h]
    intro hfin
    obtain ⟨ha, hb⟩ := addTags_eq_fin.mp hfin
    exact h.elim (· ha) (· hb)

/-- A word that is not FIN stays so through any further additions (R82). -/
theorem foldl_add_tag_ne_fin (l : List L128) (w : L128) (h : w.tag ≠ .fin) : (l.foldl add w).tag ≠ .fin := by
  induction l generalizing w with
  | nil => exact h
  | cons x xs ih => exact ih _ (add_tag_ne_fin (.inl h))

end L128

/-! ## The statements -/

/-- Settles O55: inside the range the adder writes the exact sum back (`L128.add_of_mem`), whose S and W are its balanced remainder
and quotient by 2^128; outside it the overflow of its side. -/
theorem sumsAreExact : Obligations.SumsAreExact := by
  intro a b ha hb pa pb hf
  have hmin : (-8 * 2 ^ 128 - 2 ^ 127 : Int) = sumMin := by decide
  have hmax : (7 * 2 ^ 128 + 2 ^ 127 - 1 : Int) = sumMax := rfl
  rw [hmin, hmax]
  refine ⟨fun hlo hhi => ?_, L128.add_tag_of_lt ha hb pa pb hf, L128.add_tag_of_gt ha hb pa pb hf⟩
  rw [L128.add_of_mem ha hb pa pb hf hlo hhi]
  obtain ⟨hslo, hshi⟩ := (L128.ofInt (a.t + b.t)).s_mem
  obtain ⟨hwlo, hwhi⟩ := (L128.ofInt (a.t + b.t)).wrap_mem hlo hhi
  exact ⟨rfl, rfl, (L128.ofInt (a.t + b.t)).s_add_wrap, hslo, hshi, hwlo, hwhi⟩

/-- Settles O57: the laws of the table, the sum of two FIN words by its range, and by induction on the words added that none
returns to FIN. -/
theorem tagsCombine : Obligations.TagsCombine := by
  refine ⟨addTags_comm, addTags_assoc, fun a => ⟨addTags_fin a, addTags_nan a, addTags_self a⟩, rfl,
    fun a h => addTags_overflow h, rfl, fun a b pa pb ha hb hf => ⟨fun hlo hhi => ?_, ?_, ?_⟩, fun a b pa pb h => ?_,
    fun w l h => L128.foldl_add_tag_ne_fin l w h⟩
  · rw [L128.add_of_mem ha hb pa pb hf hlo hhi]
    exact ⟨rfl, rfl⟩
  · exact L128.add_tag_of_lt ha hb pa pb hf
  · exact L128.add_tag_of_gt ha hb pa pb hf
  · rw [L128.add_of_not_fin pa pb h]
    exact ⟨rfl, rfl, rfl⟩

end Sys2Proof.Machine

/-! Proofs about the reservoir's address map (11): what R347 computes of an offset within a field, and the two round trips between an
offset and its bank and row. -/
namespace Sys2Proof.Machine

/-! ## From an offset to its set, bank and row (R347) -/

theorem lt_two_pow_32_of_lt_reservoirBytes {o : Nat} (h : o < reservoirBytes) : o < 2 ^ 32 :=
  h.trans (by decide)

/-- 2^32 bytes per field: below that, the field's number plays no part in the set. -/
theorem resSet_field_add (f : Nat) {o : Nat} (h : o < 2 ^ 32) : resSet (f * 2 ^ 32 + o) = o / 268435456 := by
  rw [resSet, Nat.mul_add_mod_self_right, Nat.mod_eq_of_lt h]

/-- A field's space is a whole number of sets, so its number plays no part in the offset within the set. -/
theorem field_add_mod_setBytes (f o : Nat) : (f * 2 ^ 32 + o) % 268435456 = o % 268435456 := by
  rw [show f * 2 ^ 32 = f * 16 * 268435456 by omega, Nat.mul_add_mod_self_right]

theorem resBank_field_add (f : Nat) {o : Nat} (h : o < 2 ^ 32) :
    resBank (f * 2 ^ 32 + o) = 128 * (o / 268435456) + o % 268435456 / 64 % 128 := by
  rw [resBank, resSet_field_add f h, field_add_mod_setBytes]

theorem resRow_field_add (f o : Nat) : resRow (f * 2 ^ 32 + o) = o % 268435456 / 64 / 128 := by
  rw [resRow, field_add_mod_setBytes]

/-- The 128 banks of a set carry consecutive numbers. -/
theorem resBank_div_128 (o : Nat) : resBank o / 128 = resSet o := by
  rw [resBank, Nat.mul_add_div (by decide), Nat.div_eq_of_lt (Nat.mod_lt _ (by decide)), Nat.add_zero]

theorem resBank_mod_128 (o : Nat) : resBank o % 128 = o % 268435456 / 64 % 128 := by
  rw [resBank, Nat.mul_add_mod, Nat.mod_mod]

/-! ## Bank and row name a word (R347, inverted) -/

/-- The bank and row of an offset put together give the word within the set. -/
theorem resRow_mul_add_resBank_mod (o : Nat) : resRow o * 128 + resBank o % 128 = o % 268435456 / 64 := by
  rw [resBank_mod_128, resRow, Nat.div_add_mod']

/-- Every word of every field has the name that R347 gives it: field, bank and row lead back to the word's first byte. -/
theorem resOffset_resBank_resRow (o : Nat) : resOffset (o / 2 ^ 32) (resBank o) (resRow o) = o / 64 * 64 := by
  rw [resOffset, resBank_div_128, resRow_mul_add_resBank_mod, resSet]
  omega

theorem resOffset_eq_field_add (f b r : Nat) : resOffset f b r = f * 2 ^ 32 + resOffset 0 b r := by
  simp only [resOffset]
  omega

theorem resOffset_mod_64 (f b r : Nat) : resOffset f b r % 64 = 0 := by
  rw [resOffset]
  omega

/-- 1,920 banks of 32,768 rows fill the reservoir of a field. -/
theorem resOffset_zero_lt {b r : Nat} (hb : b < 1920) (hr : r < 32768) : resOffset 0 b r < reservoirBytes := by
  rw [resOffset, reservoirBytes]
  omega

/-- The rows of a bank stay within its set. -/
theorem resOffset_zero_div_setBytes (b : Nat) {r : Nat} (hr : r < 32768) : resOffset 0 b r / 268435456 = b / 128 := by
  rw [resOffset]
  omega

theorem resOffset_zero_word (b : Nat) {r : Nat} (hr : r < 32768) :
    resOffset 0 b r % 268435456 / 64 = r * 128 + b % 128 := by
  rw [resOffset]
  omega

section
variable (f : Nat) {b r : Nat} (hb : b < 1920) (hr : r < 32768)
include hb hr

theorem resOffset_zero_lt_two_pow_32 : resOffset 0 b r < 2 ^ 32 :=
  lt_two_pow_32_of_lt_reservoirBytes (resOffset_zero_lt hb hr)

theorem resBank_resOffset : resBank (resOffset f b r) = b := by
  rw [resOffset_eq_field_add, resBank_field_add f (resOffset_zero_lt_two_pow_32 hb hr), resOffset_zero_div_setBytes b hr,
    resOffset_zero_word b hr]
  omega

theorem resOffset_div_two_pow_32 : resOffset f b r / 2 ^ 32 = f := by
  rw [resOffset_eq_field_add, Nat.add_comm, Nat.add_mul_div_right _ _ (Nat.two_pow_pos 32),
    Nat.div_eq_of_lt (resOffset_zero_lt_two_pow_32 hb hr), Nat.zero_add]

theorem resOffset_mod_two_pow_32_lt : resOffset f b r % 2 ^ 32 < reservoirBytes := by
  rw [resOffset_eq_field_add, Nat.mul_add_mod_self_right, Nat.mod_eq_of_lt (resOffset_zero_lt_two_pow_32 hb hr)]
  exact resOffset_zero_lt hb hr

end

theorem resRow_resOffset (f b : Nat) {r : Nat} (hr : r < 32768) : resRow (resOffset f b r) = r := by
  rw [resOffset_eq_field_add, resRow_field_add, resOffset_zero_word b hr]
  omega

/-- A byte of a field lies in the word that its bank and row name, at its offset modulo 64. -/
theorem field_add_eq_resOffset_add (f : Nat) {o : Nat} (h : o < 2 ^ 32) :
    f * 2 ^ 32 + o = resOffset f (resBank (f * 2 ^ 32 + o)) (resRow (f * 2 ^ 32 + o)) + o % 64 := by
  have hf : (f * 2 ^ 32 + o) / 2 ^ 32 = f := by omega
  have hword := resOffset_resBank_resRow (f * 2 ^ 32 + o)
  rw [hf] at hword
  rw [hword]
  omega

/-! ## The statement -/

/-- Settles O19: R347's computation is the model's within a field, and an offset and its bank and row lead back to each other
(`resOffset_resBank_resRow`, `resBank_resOffset`, `resRow_resOffset`). -/
theorem reservoirAddressMap : Obligations.ReservoirAddressMap := by
  refine ⟨fun f o h => ?_, fun o _ => resOffset_resBank_resRow o, fun f b r hb hr => ?_⟩
  · have ho := lt_two_pow_32_of_lt_reservoirBytes h
    exact ⟨resBank_field_add f ho, resRow_field_add f o, (resBank_div_128 _).trans (resSet_field_add f ho),
      field_add_eq_resOffset_add f ho⟩
  · exact ⟨resBank_resOffset f hb hr, resRow_resOffset f b hr, resOffset_div_two_pow_32 f hb hr,
      resOffset_mod_two_pow_32_lt f hb hr, resOffset_mod_64 f b r⟩

end Sys2Proof.Machine

/-! Proofs about the machine as a whole: every command is an effect (Effect.lean), so what every effect keeps every step keeps. -/
namespace Sys2Proof.Machine

/-! ## Steps are effects -/

/-- Every row of the table gives its command an effect. -/
theorem exec_eq_outcome (c : Instr) (s : State) : ∃ a : Fx, exec c s = a.outcome s := by
  cases c <;> exact ⟨_, rfl⟩

theorem step_empty {s : State} (h : s.pending = []) : step s = .next (tick.run s) := by
  simp only [step, h, Fx.outcome_eq]

/-- A step is an effect on the state with what is left of its queue. -/
theorem step_eq_outcome (s : State) : ∃ (a : Fx) (q : List Instr), step s = a.outcome (s.withQueue q) := by
  cases h : s.pending with
  | nil =>
    have hq : s.withQueue [] = s := by rw [← h]; rfl
    exact ⟨tick, [], by rw [step_empty h, hq, Fx.outcome_eq]⟩
  | cons c q =>
    obtain ⟨a, ha⟩ := exec_eq_outcome c (s.withQueue q)
    exact ⟨a, q, by simp only [step, h, ha]⟩

/-- Every effect keeps memory canonical and the number of parts of each table. -/
theorem Fx.run_modInv (a : Fx) {s : State} (h : ModInv s) : ModInv (a.run s) := by
  obtain ⟨hm, hc, hf, hk, hl, hr⟩ := h
  obtain ⟨ec, ef, ek, el, er⟩ := a.run_lengths s
  exact ⟨a.run_wf s hm, ec.trans hc, ef.trans hf, ek.trans hk, el.trans hl, er.trans hr⟩

/-! ## The statements -/

/-- Settles O1: a step is an effect (`step_eq_outcome`), and every effect keeps the invariant (`Fx.run_modInv`). -/
theorem stepKeepsInv : Obligations.StepKeepsInv := by
  intro s t h ht
  obtain ⟨a, q, e⟩ := step_eq_outcome s
  rw [e, Fx.outcome_eq] at ht
  cases ht
  exact a.run_modInv (s := s.withQueue q) h

/-- Settles O3: each part at reset is a replica of one part, whose books balance. -/
theorem resetInv : Obligations.ResetInv := by
  refine ⟨⟨Mem.reset_wf, rfl, rfl, rfl, rfl, rfl⟩, ⟨fun g hg => ?_, fun l hl => ?_, fun r hr => ?_⟩, rfl, rfl⟩
  · obtain rfl := List.eq_of_mem_replicate hg
    have hrows : Field.reset.tileRows = List.replicate 256 TileRow.reset := rfl
    refine ⟨?_, Nat.zero_le _, fun m hm => ?_⟩
    · simp only [hrows, List.countP_replicate]
      decide
    · obtain rfl := List.eq_of_mem_replicate hm
      decide
  · obtain rfl := List.eq_of_mem_replicate hl
    decide
  · obtain rfl := List.eq_of_mem_replicate hr
    decide

/-- Settles O4: by the definition of a step; on an empty queue the cycle that passes comes before all else. -/
theorem stepRunsFront : Obligations.StepRunsFront := by
  refine ⟨fun s c q => rfl, fun s h => ⟨⟨_, step_empty h, ?_⟩, fun hd => ?_⟩⟩
  · exact Nat.lt_of_lt_of_le (by simp) (Fx.run_now (Fx.each s.port.delayed startDelayed) (s.setNow (s.now + 1))).1
  · simp [step_empty h, tick, hd]

/-- Settles O5: every command is an effect (`exec_eq_outcome`), and no effect touches the queue or the grade, takes back what has
left the module, or turns the counter back. -/
theorem everyCommandAnswers : Obligations.EveryCommandAnswers := by
  intro c s
  obtain ⟨a, h⟩ := exec_eq_outcome c s
  exact ⟨a.run s, h, a.run_pending s, a.run_grade s, a.run_out s, (a.run_now s).1⟩

end Sys2Proof.Machine

/-! Proofs about what an effect can change. `Place` names a part of the machine, or an aspect of one that effects which work on that part
keep: the frame of a field or a link, the books, the tiles while no COPY runs. An effect is `Within F` when it changes no place outside F;
each effect of the model then has one lemma that names its places, composed from those of the effects that it is made of. -/
namespace Sys2Proof.Machine

/-! ## Aspects of the parts -/

/-- A COPY that runs: the end of its context finishes tiles (R468). -/
def Op.copies (o : Op) : Bool := decide (recOp o.record = 0x4000) && decide (o.phase = .running)

/-- No COPY of the context runs. -/
def Ctx.Quiet (x : Ctx) : Prop := ∀ o ∈ x.ops, o.copies = false

/-- The context is ACTIVE or STOPPED. -/
def Ctx.Runs (x : Ctx) : Prop := x.state = .active ∨ x.state = .stopped

/-- What work on a field leaves: its state, tests and resets, its repair, its interleave sets, its levels. -/
def Field.frame (g : Field) : Field :=
  { Field.reset with
    state := g.state, resets := g.resets, hung := g.hung, hangLimit := g.hangLimit, beds := g.beds, groups := g.groups, seqUse := g.seqUse
    sets := g.sets, test := g.test, resetStart := g.resetStart, engineResets := g.engineResets, hostStep := g.hostStep
    capLevel := g.capLevel, dieLevel := g.dieLevel, hbmLevel := g.hbmLevel, overCap := g.overCap }

/-- What the matrix machine holds in a field: tile rows, the blocks in the array, comparisons, and the counts of its work. -/
def Field.work (g : Field) : Field :=
  { Field.reset with
    tileRows := g.tileRows, running := g.running, lastStarted := g.lastStarted, stationary := g.stationary, comparisons := g.comparisons
    passes := g.passes, stalls := g.stalls, savedCount := g.savedCount, restoredCount := g.restoredCount }

/-- What traffic on a link leaves: its state, its lanes, and what its training found. -/
def Link.frame (l : Link) : Link :=
  { Link.reset with
    state := l.state, reversed := l.reversed, polarity := l.polarity, spareFor := l.spareFor, spareUsed := l.spareUsed
    roundTrip := l.roundTrip, cause := l.cause, expectNode := l.expectNode, expectLink := l.expectLink, expectBlank := l.expectBlank
    blankTrained := l.blankTrained, seenNode := l.seenNode, seenLink := l.seenLink, substitutions := l.substitutions }

/-- The sending half of a link: its flits, and the body that has begun. -/
def Link.sending (l : Link) : Link :=
  { Link.reset with txSeq := l.txSeq, replay := l.replay, txPart := l.txPart, txFirst := l.txFirst, held := l.held }

/-- What a raised event leaves of its ring. -/
def Ring.frame (r : Ring) : Ring := { r with waiting := [], dropped := 0, lostMark := false }

/-- What commands that come and go leave of the port. -/
def Port.frame (p : Port) : Port := { p with waits := [], delayed := [], reads := [] }

/-- What commands and packets under way leave of the hub. -/
def Hub.frame (h : Hub) : Hub := { h with loop := [], nextTag := 0#32, serial := 0#16, aborts := [], copies := [], nextCopy := 0 }

/-- The hub but for its own packets for local delivery. -/
def Hub.core (h : Hub) : Hub := { h with loop := [] }

/-! ## Books of one part -/

/-- The books of a field balance. -/
def Field.Booked (g : Field) : Prop :=
  g.tileRows.length = 256 ∧ g.poolGranted ≤ 64 ∧ ∀ m ∈ g.movers, m.queued.length + m.executing.length ≤ 64

/-- The replay buffer holds no more than R398 allows. -/
def Link.Booked (l : Link) : Prop := l.replay.length ≤ 1024

/-- The ring holds no more than R557 allows. -/
def Ring.Booked (r : Ring) : Prop := (r.producer - r.consumer).toNat ≤ 4095

/-- The counts by state add up to the number of tile rows. -/
theorem sum_countP_state (l : List TileRow) :
    (([.free, .open, .draining, .saving, .held] : List TileState).map (fun x => l.countP (fun r => decide (r.state = x)))).sum
      = l.length := by
  induction l with
  | nil => rfl
  | cons r l ih =>
    simp only [List.map_cons, List.map_nil, List.sum_cons, List.sum_nil, List.countP_cons, List.length_cons] at ih ⊢
    cases r.state <;> simp <;> omega

theorem books_iff (s : State) :
    Books s ↔ (∀ g ∈ s.fields, g.Booked) ∧ (∀ l ∈ s.links, l.Booked) ∧ ∀ r ∈ s.rings, r.Booked := by
  have hpool (n : Nat) : 256 * n ≤ 16384 ↔ n ≤ 64 := by omega
  simp only [Books, sum_countP_state, hpool, Field.Booked, Link.Booked, Ring.Booked]

/-! ## Places -/

/-- A part of the machine, or an aspect of one. -/
inductive Place
  /-- what has left the module -/
  | out
  /-- the count of free values -/
  | freeCtr
  /-- the local counter -/
  | now
  /-- both memories -/
  | mem
  /-- both memories but for the words that wait for a write-back -/
  | data
  /-- memory, as long as no COPY runs, and that none comes to run -/
  | tiles
  | hub
  /-- the hub but for own packets -/
  | hubCore
  /-- the hub but for what is under way -/
  | hubFrame
  | port
  /-- the port but for the commands that it holds -/
  | portFrame
  /-- that no command of a new kind waits -/
  | waits
  | power
  | sideband
  | evc
  | ditch
  /-- that no further context runs -/
  | runs
  /-- the books of R423 -/
  | books
  | ctx (c : Nat)
  | field (f : Nat)
  | fieldFrame (f : Nat)
  | fieldWork (f : Nat)
  | stack (k : Nat)
  | link (i : Nat)
  | linkFrame (i : Nat)
  | linkTx (i : Nat)
  | linkRx (i : Nat)
  | linkInject (i : Nat)
  | linkEntries (i : Nat)
  | ring (i : Nat)
  | ringFrame (i : Nat)

/-- Two states agree on a place. -/
def Place.same : Place → State → State → Prop
  | .out, s, t => t.out = s.out
  | .freeCtr, s, t => t.freeCtr = s.freeCtr
  | .now, s, t => t.now = s.now
  | .mem, s, t => t.mem = s.mem
  | .data, s, t => { t.mem with writeBack := s.mem.writeBack } = s.mem
  | .tiles, s, t => (∀ c < 16, (s.ctx c).Quiet) → (∀ c < 16, (t.ctx c).Quiet) ∧ t.mem = s.mem
  | .hub, s, t => t.hub = s.hub
  | .hubCore, s, t => t.hub.core = s.hub.core
  | .hubFrame, s, t => t.hub.frame = s.hub.frame
  | .port, s, t => t.port = s.port
  | .portFrame, s, t => t.port.frame = s.port.frame
  | .waits, s, t => ∀ w ∈ t.port.waits, ∃ v ∈ s.port.waits, v.kind = w.kind
  | .power, s, t => t.power = s.power
  | .sideband, s, t => t.sideband = s.sideband
  | .evc, s, t => t.evc = s.evc
  | .ditch, s, t => t.ditch = s.ditch
  | .runs, s, t => ∀ c, (t.ctx c).Runs → (s.ctx c).Runs
  | .books, s, t => Books s → Books t
  | .ctx c, s, t => t.ctx c = s.ctx c
  | .field f, s, t => t.field f = s.field f
  | .fieldFrame f, s, t => (t.field f).frame = (s.field f).frame
  | .fieldWork f, s, t => (t.field f).work = (s.field f).work
  | .stack k, s, t => t.stack k = s.stack k
  | .link i, s, t => t.link i = s.link i
  | .linkFrame i, s, t => (t.link i).frame = (s.link i).frame
  | .linkTx i, s, t => (t.link i).sending = (s.link i).sending
  | .linkRx i, s, t => (t.link i).rx = (s.link i).rx
  | .linkInject i, s, t => (t.link i).inject = (s.link i).inject
  | .linkEntries i, s, t => (t.link i).entries = (s.link i).entries
  | .ring i, s, t => t.ring i = s.ring i
  | .ringFrame i, s, t => (t.ring i).frame = (s.ring i).frame

theorem Place.same_refl (p : Place) (s : State) : p.same s s := by
  cases p <;> simp only [Place.same]
  case tiles => exact fun h => ⟨h, trivial⟩
  case waits => exact fun w hw => ⟨w, hw, rfl⟩
  case runs => exact fun _ h => h
  case books => exact fun h => h

theorem Place.same_trans {p : Place} {s t u : State} (h : p.same s t) (k : p.same t u) : p.same s u := by
  cases p <;> simp only [Place.same] at h k ⊢
  case data => exact (congrArg (fun m : Mem => { m with writeBack := s.mem.writeBack }) k).trans h
  case tiles => exact fun q => ⟨(k (h q).1).1, ((k (h q).1).2).trans (h q).2⟩
  case waits =>
    intro w hw
    obtain ⟨v, hv, e⟩ := k w hw
    obtain ⟨u, hu, e'⟩ := h v hv
    exact ⟨u, hu, e'.trans e⟩
  case runs => exact fun c hc => h c (k c hc)
  case books => exact fun b => k (h b)
  all_goals exact k.trans h

/-- No COPY runs in the sixteen slots. -/
theorem noCopyRuns_iff (s : State) : s.noCopyRuns = true ↔ ∀ c < 16, (s.ctx c).Quiet := by
  simp [State.noCopyRuns, Ctx.Quiet, Op.copies, imp_iff_not_or]

/-! ## Effects within places -/

/-- The effect keeps a place. -/
def Fx.Keeps (p : Place) (a : Fx) : Prop := ∀ s, p.same s (a.run s)

/-- The effect keeps every place outside F. -/
def Fx.Within (F : Place → Prop) (a : Fx) : Prop := ∀ p, ¬ F p → a.Keeps p

/-- The outcome of a command is that of an effect within F. -/
def Goes (F : Place → Prop) (s : State) (o : Host.Outcome State Fault Refusal) : Prop := ∃ a : Fx, o = a.outcome s ∧ a.Within F

variable {F : Place → Prop}

/-- An effect within F that keeps the one place in question keeps it by other means. -/
theorem Fx.Within.of_keeps {a : Fx} (p : Place) (h : a.Within (fun q => F q ∨ q = p)) (k : ¬ F p → a.Keeps p) : a.Within F := by
  intro q hq
  by_cases e : q = p
  · exact e ▸ k (e ▸ hq)
  · exact h q (by simp [hq, e])

theorem Fx.Within.mono {a : Fx} {G : Place → Prop} (h : a.Within G) (hG : ∀ p, G p → F p) : a.Within F :=
  fun p hp => h p (fun g => hp (hG p g))

theorem Fx.Within.skip : Fx.skip.Within F := fun p _ s => p.same_refl s

theorem Fx.Within.andThen {a b : Fx} (ha : a.Within F) (hb : b.Within F) : (a.andThen b).Within F :=
  fun p hp s => Place.same_trans (ha p hp s) (hb p hp (a.run s))

theorem Fx.Within.look {f : State → Fx} (h : ∀ s, (f s).Within F) : (Fx.look f).Within F := fun p hp s => h s p hp s

theorem Fx.Within.when {c : Bool} {a : Fx} (h : a.Within F) : (Fx.when c a).Within F := by
  cases c
  · exact Fx.Within.skip
  · exact h

theorem Fx.Within.nil : (Fx.all []).Within F := Fx.Within.skip

theorem Fx.Within.cons {a : Fx} {l : List Fx} (ha : a.Within F) (hl : (Fx.all l).Within F) : (Fx.all (a :: l)).Within F := ha.andThen hl

theorem Fx.Within.each {α : Type} {l : List α} {f : α → Fx} (h : ∀ x, (f x).Within F) : (Fx.each l f).Within F := by
  induction l with
  | nil => exact Fx.Within.nil
  | cons x l ih => exact (h x).andThen ih

theorem Fx.Within.each_mem {α : Type} {l : List α} {f : α → Fx} (h : ∀ x ∈ l, (f x).Within F) : (Fx.each l f).Within F := by
  induction l with
  | nil => exact Fx.Within.nil
  | cons x l ih => exact (h x List.mem_cons_self).andThen (ih fun y hy => h y (List.mem_cons_of_mem _ hy))

theorem Fx.Within.ite {c : Prop} [Decidable c] {a b : Fx} (ha : a.Within F) (hb : b.Within F) : (if c then a else b).Within F := by
  split <;> assumption

/-- An effect that touches no books keeps them. -/
theorem Fx.Within.books {a : Fx} (h : a.Within (fun p => p ≠ .books)) {s : State} (hs : Books s) : Books (a.run s) :=
  h .books (by simp) s hs

/-! ## Places that effects share -/

/-- An event that is raised touches its source, counts, and its ring. -/
structure Raises (F : Place → Prop) : Prop where
  evc : F .evc
  field : ∀ f, F (.field f)
  ring : ∀ i, F (.ring i)

/-- A read counts the errors that it meets, and leaves words that it corrects waiting. -/
structure Touches (F : Place → Prop) : Prop extends Raises F where
  out : F .out
  mem : F .mem
  tiles : F .tiles
  stack : ∀ k, F (.stack k)

/-- A packet goes to the queue of its output, or to the hub's own. -/
structure Sends (F : Place → Prop) : Prop where
  hub : F .hub
  link : ∀ i, F (.link i)
  linkInject : ∀ i, F (.linkInject i)

/-- A command that is over is answered on the port or by a packet. -/
structure Answers (F : Place → Prop) : Prop extends Sends F where
  out : F .out
  port : F .port

/-- The teardown of a context, but for the context itself and the tiles that it finishes. -/
structure Tears (F : Place → Prop) : Prop extends Answers F where
  freeCtr : F .freeCtr
  mem : F .mem
  data : F .data
  hubCore : F .hubCore
  field : ∀ f, F (.field f)
  fieldWork : ∀ f, F (.fieldWork f)
  linkEntries : ∀ i, F (.linkEntries i)

/-- An abort tears down contexts, and its record goes out as flits. -/
structure Aborts (F : Place → Prop) : Prop extends Tears F where
  linkTx : ∀ i, F (.linkTx i)

theorem Sends.mono {G : Place → Prop} (h : Sends F) (hG : ∀ p, F p → G p) : Sends G :=
  ⟨hG _ h.hub, fun _ => hG _ (h.link _), fun _ => hG _ (h.linkInject _)⟩

theorem Answers.mono {G : Place → Prop} (h : Answers F) (hG : ∀ p, F p → G p) : Answers G := ⟨h.toSends.mono hG, hG _ h.out, hG _ h.port⟩

theorem Tears.mono {G : Place → Prop} (h : Tears F) (hG : ∀ p, F p → G p) : Tears G :=
  ⟨h.toAnswers.mono hG, hG _ h.freeCtr, hG _ h.mem, hG _ h.data, hG _ h.hubCore, fun _ => hG _ (h.field _), fun _ => hG _ (h.fieldWork _),
    fun _ => hG _ (h.linkEntries _)⟩

/-! ## Primitive effects -/

theorem Fx.Within.setNow {n : Nat} (h : F .now) : (Fx.setNow n).Within F := by
  intro p hp s
  have k := p.same_refl s
  cases p
  case now => exact absurd h hp
  all_goals exact k

theorem Fx.Within.bumpFree (h : F .freeCtr) : Fx.bumpFree.Within F := by
  intro p hp s
  have k := p.same_refl s
  cases p
  case freeCtr => exact absurd h hp
  all_goals exact k

theorem Fx.Within.emit {o : Out} (h : F .out) : (Fx.emit o).Within F := by
  intro p hp s
  have k := p.same_refl s
  cases p
  case out => exact absurd h hp
  all_goals exact k

theorem Fx.Within.power {f : Power → Power} (h : F .power) : (Fx.power f).Within F := by
  intro p hp s
  have k := p.same_refl s
  cases p
  case power => exact absurd h hp
  all_goals exact k

theorem Fx.Within.sideband {f : Sideband → Sideband} (h : F .sideband) : (Fx.sideband f).Within F := by
  intro p hp s
  have k := p.same_refl s
  cases p
  case sideband => exact absurd h hp
  all_goals exact k

theorem Fx.Within.evc {f : List (Nat × EvcSrc) → List (Nat × EvcSrc)} (h : F .evc) : (Fx.evc f).Within F := by
  intro p hp s
  have k := p.same_refl s
  cases p
  case evc => exact absurd h hp
  all_goals exact k

theorem Fx.Within.ditch {f : Ditch → Ditch} (h : F .ditch) : (Fx.ditch f).Within F := by
  intro p hp s
  have k := p.same_refl s
  cases p
  case ditch => exact absurd h hp
  all_goals exact k

theorem Fx.Within.hub {f : Hub → Hub} (h : F .hub) (hc : F .hubCore ∨ ∀ x, (f x).core = x.core := by exact .inr fun _ => rfl)
    (hf : F .hubFrame ∨ ∀ x, (f x).frame = x.frame := by exact .inr fun _ => rfl) : (Fx.hub f).Within F := by
  intro p hp s
  have k := p.same_refl s
  cases p
  case hub => exact absurd h hp
  case hubCore => exact hc.resolve_left hp s.hub
  case hubFrame => exact hf.resolve_left hp s.hub
  all_goals exact k

theorem Fx.Within.port {f : Port → Port} (h : F .port) (hf : F .portFrame ∨ ∀ x, (f x).frame = x.frame := by exact .inr fun _ => rfl)
    (hw : F .waits ∨ ∀ x, ∀ w ∈ (f x).waits, ∃ v ∈ x.waits, v.kind = w.kind := by exact .inr fun _ w h => ⟨w, h, rfl⟩) :
    (Fx.port f).Within F := by
  intro p hp s
  have k := p.same_refl s
  cases p
  case port => exact absurd h hp
  case portFrame => exact hf.resolve_left hp s.port
  case waits => exact hw.resolve_left hp s.port
  all_goals exact k

/-- Elements of a list with one of them changed. -/
theorem mem_modify {α : Type} {l : List α} {i : Nat} {f : α → α} {y : α} (h : y ∈ l.modify i f) :
    y ∈ l ∨ ∃ hi : i < l.length, y = f l[i] := by
  obtain ⟨k, hk, rfl⟩ := List.mem_iff_getElem.mp h
  rw [List.length_modify] at hk
  rw [List.getElem_modify]
  split
  · rename_i e
    subst e
    exact .inr ⟨hk, rfl⟩
  · exact .inl (List.getElem_mem hk)

/-- The books balance after an update of a field under which that field's do. -/
theorem books_modField {s : State} {i : Nat} {f : Field → Field} (h : Books s) (hf : (s.field i).Booked → (f (s.field i)).Booked) :
    Books (s.modField i f) := by
  rw [books_iff] at h ⊢
  obtain ⟨hfield, hlink, hring⟩ := h
  refine ⟨fun g hg => ?_, hlink, hring⟩
  rcases mem_modify hg with hg | ⟨hi, rfl⟩
  · exact hfield g hg
  · have e : s.field i = s.fields[i] := by simp [State.field, hi]
    exact e ▸ hf (e ▸ hfield _ (List.getElem_mem hi))

theorem books_modLink {s : State} {i : Nat} {f : Link → Link} (h : Books s) (hf : (s.link i).Booked → (f (s.link i)).Booked) :
    Books (s.modLink i f) := by
  rw [books_iff] at h ⊢
  obtain ⟨hfield, hlink, hring⟩ := h
  refine ⟨hfield, fun g hg => ?_, hring⟩
  rcases mem_modify hg with hg | ⟨hi, rfl⟩
  · exact hlink g hg
  · have e : s.link i = s.links[i] := by simp [State.link, hi]
    exact e ▸ hf (e ▸ hlink _ (List.getElem_mem hi))

theorem books_modRing {s : State} {i : Nat} {f : Ring → Ring} (h : Books s) (hf : (s.ring i).Booked → (f (s.ring i)).Booked) :
    Books (s.modRing i f) := by
  rw [books_iff] at h ⊢
  obtain ⟨hfield, hlink, hring⟩ := h
  refine ⟨hfield, hlink, fun g hg => ?_⟩
  rcases mem_modify hg with hg | ⟨hi, rfl⟩
  · exact hring g hg
  · have e : s.ring i = s.rings[i] := by simp [State.ring, hi]
    exact e ▸ hf (e ▸ hring _ (List.getElem_mem hi))

/-- A part after an update of one part: that part's update, or as before. -/
theorem State.ctx_modCtx_cases (s : State) (i j : Nat) (f : Ctx → Ctx) :
    (s.modCtx i f).ctx j = s.ctx j ∨ (i = j ∧ (s.modCtx i f).ctx j = f (s.ctx j)) := by
  by_cases h : i = j
  · subst h
    by_cases hi : i < s.ctxs.length
    · exact .inr ⟨rfl, s.ctx_modCtx i f hi⟩
    · exact .inl (by simp [State.ctx, Nat.not_lt.mp hi])
  · exact .inl (s.ctx_modCtx_ne i j f h)

theorem State.field_modField_cases (s : State) (i j : Nat) (f : Field → Field) :
    (s.modField i f).field j = s.field j ∨ (i = j ∧ (s.modField i f).field j = f (s.field j)) := by
  by_cases h : i = j
  · subst h
    by_cases hi : i < s.fields.length
    · exact .inr ⟨rfl, s.field_modField i f hi⟩
    · exact .inl (by simp [State.field, Nat.not_lt.mp hi])
  · exact .inl (s.field_modField_ne i j f h)

theorem State.link_modLink_cases (s : State) (i j : Nat) (f : Link → Link) :
    (s.modLink i f).link j = s.link j ∨ (i = j ∧ (s.modLink i f).link j = f (s.link j)) := by
  by_cases h : i = j
  · subst h
    by_cases hi : i < s.links.length
    · exact .inr ⟨rfl, s.link_modLink i f hi⟩
    · exact .inl (by simp [State.link, Nat.not_lt.mp hi])
  · exact .inl (s.link_modLink_ne i j f h)

theorem State.ring_modRing_cases (s : State) (i j : Nat) (f : Ring → Ring) :
    (s.modRing i f).ring j = s.ring j ∨ (i = j ∧ (s.modRing i f).ring j = f (s.ring j)) := by
  by_cases h : i = j
  · subst h
    by_cases hi : i < s.rings.length
    · exact .inr ⟨rfl, s.ring_modRing i f hi⟩
    · exact .inl (by simp [State.ring, Nat.not_lt.mp hi])
  · exact .inl (s.ring_modRing_ne i j f h)

theorem Fx.Within.ctx {i : Nat} {f : Ctx → Ctx} (h : F (.ctx i))
    (hq : F .tiles ∨ ∀ x : Ctx, x.Quiet → (f x).Quiet := by exact .inr fun _ h => h)
    (hr : F .runs ∨ ∀ x : Ctx, (f x).Runs → x.Runs := by exact .inr fun _ h => h) : (Fx.ctx i f).Within F := by
  intro p hp s
  have k := p.same_refl s
  cases p
  case ctx j =>
    rcases s.ctx_modCtx_cases i j f with e | ⟨rfl, -⟩
    · exact e
    · exact absurd h hp
  case tiles =>
    refine fun q => ⟨fun c hc => ?_, rfl⟩
    rcases s.ctx_modCtx_cases i c f with e | ⟨-, e⟩ <;> rw [Fx.run_ctx, e]
    · exact q c hc
    · exact hq.resolve_left hp _ (q c hc)
  case runs =>
    intro c hc
    rcases s.ctx_modCtx_cases i c f with e | ⟨-, e⟩ <;> rw [Fx.run_ctx, e] at hc
    · exact hc
    · exact hr.resolve_left hp _ hc
  all_goals exact k

theorem Fx.Within.field {i : Nat} {f : Field → Field} (h : F (.field i))
    (hf : F (.fieldFrame i) ∨ ∀ g : Field, (f g).frame = g.frame := by exact .inr fun _ => rfl)
    (hw : F (.fieldWork i) ∨ ∀ g : Field, (f g).work = g.work := by exact .inr fun _ => rfl)
    (hb : F .books ∨ ∀ g : Field, g.Booked → (f g).Booked := by exact .inr fun _ h => h) : (Fx.field i f).Within F := by
  intro p hp s
  have k := p.same_refl s
  cases p
  case field j =>
    rcases s.field_modField_cases i j f with e | ⟨rfl, -⟩
    · exact e
    · exact absurd h hp
  case fieldFrame j =>
    rcases s.field_modField_cases i j f with e | ⟨rfl, e⟩ <;> simp only [Place.same, Fx.run_field, e]
    exact hf.resolve_left hp _
  case fieldWork j =>
    rcases s.field_modField_cases i j f with e | ⟨rfl, e⟩ <;> simp only [Place.same, Fx.run_field, e]
    exact hw.resolve_left hp _
  case books => exact fun b => books_modField b (hb.resolve_left hp _)
  all_goals exact k

theorem Fx.Within.stack {i : Nat} {f : Stack → Stack} (h : F (.stack i)) : (Fx.stack i f).Within F := by
  intro p hp s
  have k := p.same_refl s
  cases p
  case stack j =>
    by_cases e : i = j
    · exact absurd (e ▸ h) hp
    · exact s.stack_modStack_ne i j f e
  all_goals exact k

theorem Fx.Within.link {i : Nat} {f : Link → Link} (h : F (.link i))
    (hf : F (.linkFrame i) ∨ ∀ l : Link, (f l).frame = l.frame := by exact .inr fun _ => rfl)
    (ht : F (.linkTx i) ∨ ∀ l : Link, (f l).sending = l.sending := by exact .inr fun _ => rfl)
    (hr : F (.linkRx i) ∨ ∀ l : Link, (f l).rx = l.rx := by exact .inr fun _ => rfl)
    (hi : F (.linkInject i) ∨ ∀ l : Link, (f l).inject = l.inject := by exact .inr fun _ => rfl)
    (he : F (.linkEntries i) ∨ ∀ l : Link, (f l).entries = l.entries := by exact .inr fun _ => rfl)
    (hb : F .books ∨ ∀ l : Link, l.Booked → (f l).Booked := by exact .inr fun _ h => h) : (Fx.link i f).Within F := by
  intro p hp s
  have k := p.same_refl s
  cases p
  case link j =>
    rcases s.link_modLink_cases i j f with e | ⟨rfl, -⟩
    · exact e
    · exact absurd h hp
  case linkFrame j =>
    rcases s.link_modLink_cases i j f with e | ⟨rfl, e⟩ <;> simp only [Place.same, Fx.run_link, e]
    exact hf.resolve_left hp _
  case linkTx j =>
    rcases s.link_modLink_cases i j f with e | ⟨rfl, e⟩ <;> simp only [Place.same, Fx.run_link, e]
    exact ht.resolve_left hp _
  case linkRx j =>
    rcases s.link_modLink_cases i j f with e | ⟨rfl, e⟩ <;> simp only [Place.same, Fx.run_link, e]
    exact hr.resolve_left hp _
  case linkInject j =>
    rcases s.link_modLink_cases i j f with e | ⟨rfl, e⟩ <;> simp only [Place.same, Fx.run_link, e]
    exact hi.resolve_left hp _
  case linkEntries j =>
    rcases s.link_modLink_cases i j f with e | ⟨rfl, e⟩ <;> simp only [Place.same, Fx.run_link, e]
    exact he.resolve_left hp _
  case books => exact fun b => books_modLink b (hb.resolve_left hp _)
  all_goals exact k

theorem Fx.Within.ring {i : Nat} {f : Ring → Ring} (h : F (.ring i))
    (hf : F (.ringFrame i) ∨ ∀ r : Ring, (f r).frame = r.frame := by exact .inr fun _ => rfl)
    (hb : F .books ∨ ∀ r : Ring, r.Booked → (f r).Booked := by exact .inr fun _ h => h) : (Fx.ring i f).Within F := by
  intro p hp s
  have k := p.same_refl s
  cases p
  case ring j =>
    rcases s.ring_modRing_cases i j f with e | ⟨rfl, -⟩
    · exact e
    · exact absurd h hp
  case ringFrame j =>
    rcases s.ring_modRing_cases i j f with e | ⟨rfl, e⟩ <;> simp only [Place.same, Fx.run_ring, e]
    exact hf.resolve_left hp _
  case books => exact fun b => books_modRing b (hb.resolve_left hp _)
  all_goals exact k

theorem Fx.Within.memWrite {k : Nat} {bs : List Byte} (h : F .mem) (hd : F .data) (ht : F .tiles) : (Fx.memWrite k bs).Within F := by
  intro p hp s
  have k := p.same_refl s
  cases p
  case mem => exact absurd h hp
  case data => exact absurd hd hp
  case tiles => exact absurd ht hp
  all_goals exact k

theorem Fx.Within.memPoison {lo hi : Nat} (h : F .mem) (hd : F .data) (ht : F .tiles) : (Fx.memPoison lo hi).Within F := by
  intro p hp s
  have k := p.same_refl s
  cases p
  case mem => exact absurd h hp
  case data => exact absurd hd hp
  case tiles => exact absurd ht hp
  all_goals exact k

theorem Fx.Within.memAwait {w : Nat} (h : F .mem) (ht : F .tiles) : (Fx.memAwait w).Within F := by
  intro p hp s
  have k := p.same_refl s
  cases p
  case mem => exact absurd h hp
  case tiles => exact absurd ht hp
  all_goals exact k

theorem Fx.Within.memScrub {w : Nat} (h : F .mem) (hd : F .data) (ht : F .tiles) : (Fx.memScrub w).Within F := by
  intro p hp s
  have k := p.same_refl s
  cases p
  case mem => exact absurd h hp
  case data => exact absurd hd hp
  case tiles => exact absurd ht hp
  all_goals exact k

theorem Fx.Within.memUpset {l : List (Nat × BitVec 72)} (h : F .mem) (hd : F .data) (ht : F .tiles) : (Fx.memUpset l).Within F := by
  intro p hp s
  have k := p.same_refl s
  cases p
  case mem => exact absurd h hp
  case data => exact absurd hd hp
  case tiles => exact absurd ht hp
  all_goals exact k

end Sys2Proof.Machine

/-! What the functions on the parts of the machine keep of those parts' frames and books. -/
namespace Sys2Proof.Machine

-- The default proofs of the side conditions are evaluated only once all lemmas before are checked: in order, none waits in a thread of
-- its own.
set_option Elab.async false

/-! ## Helpers of the model's functions -/

theorem Field.reset_booked : Field.reset.Booked := by
  refine ⟨List.length_replicate, Nat.zero_le _, fun m hm => ?_⟩
  obtain rfl := List.eq_of_mem_replicate hm
  decide

theorem Link.reset_booked : Link.reset.Booked := Nat.zero_le _

theorem Ring.reset_booked : Ring.reset.Booked := Nat.zero_le _

theorem Ring.take_frame (r : Ring) (e : EventRec) : (r.take e).frame = r.frame := by
  unfold Ring.take
  repeat' split
  all_goals rfl

theorem Ring.take_booked {r : Ring} (e : EventRec) (h : r.Booked) : (r.take e).Booked := by
  unfold Ring.take
  repeat' split
  all_goals exact h

theorem Vl.store_granted (vl units : Nat) (x : Vl) : (x.store vl units).granted = x.granted := by
  unfold Vl.store
  dsimp only
  split <;> rfl

theorem Vl.release1_granted_le (vl units : Nat) (x : Vl) : (x.release1 vl units).granted ≤ x.granted := by
  unfold Vl.release1
  dsimp only
  repeat' split
  all_goals first | exact Nat.le_refl _ | simp

/-- A link that may be granted a shared block of a field is one of its four. -/
theorem div_of_mem_askers {s : State} {f : Nat} {q : Nat × Nat} (h : q ∈ s.askers f) : q.1 / 4 = f := by
  simp only [State.askers, List.mem_filter, List.mem_flatten, List.mem_map, List.mem_range] at h
  obtain ⟨⟨l, ⟨k, hk, rfl⟩, hq⟩, -⟩ := h
  obtain ⟨v, -, rfl⟩ := List.mem_map.mp hq
  dsimp only
  omega

/-- A mover's descriptors under a tag move from its queue to those that execute. -/
theorem length_filter_add_filter (l : List (Nat × U32)) (tag : U32) :
    (l.filter (fun e => e.2 != tag)).length + (l.filter (fun e => e.2 == tag)).length = l.length := by
  have h := List.length_eq_length_filter_add (l := l) (fun e => e.2 == tag)
  simp only [bne] at h ⊢
  omega

theorem Field.booked_movers {g : Field} {f : Mover → Mover} (h : g.Booked)
    (hf : ∀ m : Mover, (f m).queued.length + (f m).executing.length ≤ m.queued.length + m.executing.length) :
    ∀ m ∈ g.movers.map f, m.queued.length + m.executing.length ≤ 64 := by
  intro m hm
  obtain ⟨n, hn, rfl⟩ := List.mem_map.mp hm
  exact (hf n).trans (h.2.2 n hn)

theorem Field.without_booked (c : Nat) {g : Field} (h : g.Booked) : (g.without c).Booked :=
  ⟨(List.length_map _).trans h.1, h.2.1, Field.booked_movers h fun _ => Nat.add_le_add_right (List.length_filter_le _ _) _⟩

theorem Field.engineReset_booked (e : Nat) {g : Field} (h : g.Booked) : (g.engineReset e).Booked := by
  unfold Field.engineReset
  split
  case h_2 => exact ⟨List.length_replicate, h.2⟩
  case h_5 =>
    split
    · refine ⟨h.1, h.2.1, fun m hm => ?_⟩
      rcases List.mem_or_eq_of_mem_set hm with hm | rfl
      · exact h.2.2 m hm
      · exact Nat.zero_le _
    · exact h
  all_goals exact h

theorem Field.afterReset_booked (b : Hub) (f : Nat) (pass : BitVec 5) {g : Field} (h : g.Booked) : (g.afterReset b f pass).Booked :=
  ⟨Field.reset_booked.1, h.2.1, Field.reset_booked.2.2⟩

theorem Field.tested_booked (kind : Nat) {g : Field} (h : g.Booked) : (g.tested kind).Booked := by
  unfold Field.tested
  split <;> exact ⟨List.length_replicate, h.2⟩

theorem Field.runAttention_booked (l : List (Option CellBlock)) {g : Field} (h : g.Booked) : (g.runAttention l).Booked := by
  unfold Field.runAttention
  induction l generalizing g with
  | nil => exact h
  | cons b l ih => cases b <;> exact ih h

theorem Link.afterTraining_booked (own : U16) (t : Training) {l : Link} (h : l.Booked) : (l.afterTraining own t).Booked := by
  unfold Link.afterTraining
  dsimp only
  split
  · exact h
  · split
    · exact h
    · split
      · exact h
      · split <;> split <;> first | exact h | exact Nat.zero_le _

theorem length_takeFree (new : TileRow) (n : Nat) (l : List TileRow) : (takeFree new n l).length = l.length := by
  fun_induction takeFree new n l <;> simp_all

theorem length_grantRows (c : Nat) (o : Op) (u : MatRun) (new : TileRow) (idle : Bool) (n : Nat) (l : List TileRow) :
    (grantRows c o u new idle n l).length = l.length :=
  (length_takeFree _ _ _).trans (List.length_map _)

theorem length_foldl_set {α β : Type} (q : List (Nat × β)) (g : Nat × β → α) (l : List α) :
    (q.foldl (fun l x => l.set x.1 (g x)) l).length = l.length := by
  induction q generalizing l with
  | nil => rfl
  | cons x q ih => exact (ih _).trans List.length_set

theorem length_placeRows {c : Nat} {seq : U32} {grant : Nat} {new : TileRow} {batch n0 : Nat} {ms : List Nat} {l l' : List TileRow}
    (h : placeRows c seq grant new batch n0 ms l = some l') : l'.length = l.length := by
  unfold placeRows at h
  dsimp only at h
  split at h
  · cases h
  · cases h
    exact length_foldl_set _ _ _

theorem Ctx.torn_quiet (now cause : Nat) (x : Ctx) : (x.torn now cause).Quiet := by simp [Ctx.Quiet, Ctx.torn]

theorem Ctx.not_torn_runs (now cause : Nat) (x : Ctx) : ¬ (x.torn now cause).Runs := by simp [Ctx.Runs, Ctx.torn]

theorem Ctx.not_quarantined_runs (now : Nat) (x : Ctx) : ¬ (x.quarantined now).Runs := by simp [Ctx.Runs, Ctx.quarantined]

theorem Ctx.freed_quiet (x : Ctx) : x.freed.Quiet := by simp [Ctx.Quiet, Ctx.freed, Ctx.reset]

theorem Ctx.not_freed_runs (x : Ctx) : ¬ x.freed.Runs := by simp [Ctx.Runs, Ctx.freed, Ctx.reset]

theorem createdCtx_quiet (k : Cmd) (x : Ctx) : (createdCtx k x).Quiet := by simp [Ctx.Quiet, createdCtx, Ctx.reset]

theorem Ctx.resumed_quiet (mode : Nat) {x : Ctx} (h : x.Quiet) : (x.resumed mode).Quiet := by
  unfold Ctx.resumed
  dsimp only
  split <;> exact h

theorem Op.acked_copies (tag : U32) (st : Nat) {o : Op} (h : o.copies = false) : (o.acked tag st).copies = false := by
  unfold Op.acked
  repeat' split
  all_goals exact h

/-- What a context's operations become keeps that no COPY runs. -/
theorem Ctx.Quiet.map {x : Ctx} {f : Op → Op} (h : x.Quiet) (hf : ∀ o : Op, o.copies = false → (f o).copies = false) :
    ∀ o ∈ x.ops.map f, o.copies = false := by
  intro o ho
  obtain ⟨p, hp, rfl⟩ := List.mem_map.mp ho
  exact hf p (h p hp)

theorem Ctx.Quiet.filter {x : Ctx} {f : Op → Bool} (h : x.Quiet) : ∀ o ∈ x.ops.filter f, o.copies = false :=
  fun o ho => h o (List.mem_filter.mp ho).1

/-- A waiting command keeps its kind. -/
theorem exists_kind_of_mem_map {l : List Wait} {f : Wait → Wait} {w : Wait} (h : w ∈ l.map f) (hf : ∀ v, (f v).kind = v.kind) :
    ∃ v ∈ l, v.kind = w.kind := by
  obtain ⟨v, hv, rfl⟩ := List.mem_map.mp h
  exact ⟨v, hv, (hf v).symm⟩

/-- A doorbell that the ring accepts moves the consumer index toward the producer index. -/
theorem Ring.space_of_accepts {r : Ring} {c : U32} (h : r.accepts c = true) : (r.producer - c).toNat ≤ (r.producer - r.consumer).toNat := by
  simp only [Ring.accepts, decide_eq_true_eq] at h
  bv_omega

theorem Ctx.Quiet.append {x : Ctx} {p : Op} (h : x.Quiet) (hp : p.copies = false) : ∀ o ∈ x.ops ++ [p], o.copies = false :=
  fun o ho => (List.mem_append.mp ho).elim (h o) fun e => List.mem_singleton.mp e ▸ hp

theorem Op.issue_copies (x : Ctx) (r : List Byte) : (Op.issue x r).copies = false := by simp [Op.copies, Op.issue]

/-- An operation that runs no COPY has no tiles to finish. -/
theorem finishCopies_within_of_not_copies {F : Place → Prop} {c : Nat} {o : Op} (h : o.copies = false) : (finishCopies c o).Within F := by
  refine .look fun s => ?_
  change (Fx.when o.copies _).Within F
  rw [h]
  exact .skip

/-- The mover that has room for a descriptor holds fewer than 64. -/
theorem Field.freeMover_lt {g : Field} {m : Nat} (h : g.freeMover = some m) (hm : m < g.movers.length) :
    g.movers[m].queued.length + g.movers[m].executing.length < 64 := by
  obtain ⟨n, hn, hm'⟩ := List.exists_of_findSome?_eq_some h
  obtain ⟨hlt, hp, -⟩ := List.findIdx?_eq_some_iff_getElem.mp hm'
  simp only [decide_eq_true_eq] at hp
  have := List.mem_range.mp hn
  omega

/-- A descriptor that finds room keeps its mover's books. -/
theorem takeDescriptor_books {f m c : Nat} {tag : U32} {s : State} (h : (s.field f).freeMover = some m) (hs : Books s) :
    Books ((takeDescriptor f m c tag).run s) := by
  have hbooked : Books ((Fx.field f (fun g =>
      { g with movers := g.movers.modify m (fun v => { v with queued := v.queued ++ [(c, tag)] }) })).run s) := by
    refine books_modField hs fun hg => ⟨hg.1, hg.2.1, fun v hv => ?_⟩
    rcases mem_modify hv with hv | ⟨hlt, rfl⟩
    · exact hg.2.2 v hv
    · have := Field.freeMover_lt h hlt
      simp only [List.length_append, List.length_cons, List.length_nil]
      omega
  simp only [takeDescriptor, Fx.run_look, Fx.run_andThen]
  generalize (Fx.field f _).run s = t at hbooked
  unfold Fx.when
  split
  · exact books_modField hbooked id
  · exact hbooked

theorem Op.fetch_copies (n : Need) (st : Nat) (data : List Byte) (bad : List Nat) {o : Op} (h : o.copies = false) :
    (Op.fetch n st data bad o).copies = false := by
  unfold Op.fetch
  dsimp only
  split <;> exact h

end Sys2Proof.Machine

/-! The places of the effects of the model: the shared operations. -/
namespace Sys2Proof.Machine

-- The default proofs of the side conditions are evaluated only once all lemmas before are checked: in order, none waits in a thread of
-- its own.
set_option Elab.async false

variable {F : Place → Prop}

/-! ## Flags -/

theorem withInBand_within {e : Fx} (he : e.Within F) (hout : F .out) : (withInBand e).Within F :=
  .look fun _ => .andThen he (.look fun _ => .when (.andThen (.when (.emit hout)) (.when (.emit hout))))

/-! ## Ops -/

theorem fireSource_within {src : Nat} (hevc : F .evc) : (fireSource src).Within F :=
  .andThen (.evc hevc) (.when (.evc hevc))

theorem countFault_within {src code : Nat} (hfield : F (.field (src / 56))) : (countFault src code).Within F := by
  exact .when (.field hfield (hf := .inr fun g => by split <;> rfl) (hw := .inr fun g => by split <;> rfl) (hb := .inr fun g h => by split
    <;> exact h))

theorem raise_within {src cls code : Nat} {who : Option (Nat × Nat)} {p0 p1 p2 : Nat} (hevc : F .evc) (hfield : F (.field (src / 56)))
    (hring : ∀ x, F (.ring x)) : (raise src cls code who p0 p1 p2).Within F :=
  .look fun _ => .when (.andThen (.andThen (fireSource_within hevc) (countFault_within hfield))
    (.look fun _ => .ring (hring _) (hf := .inr fun r => r.take_frame _) (hb := .inr fun _ => Ring.take_booked _)))

theorem refillRing_within {i : Nat} (hevc : F .evc) (hring : F (.ring i)) : (refillRing i).Within F :=
  .look fun _ => .when (.andThen (fireSource_within hevc) (.ring hring))

theorem pushFlit_within {i t : Nat} {b : Byte} {x : List Byte} (hout : F .out) (hbooks : F .books) (hlink : F (.link i))
    (hlinkTx : F (.linkTx i)) : (pushFlit i t b x).Within F :=
  .look fun _ => .andThen (.link hlink (ht := .inl hlinkTx) (hb := .inl hbooks)) (.emit hout)

theorem sendIdle_within {i : Nat} (hout : F .out) : (sendIdle i).Within F :=
  .look fun _ => .emit hout

/-- A flit that finds a place in the replay buffer keeps the buffer's books. -/
theorem pushFlit_books {i t : Nat} {b : Byte} {x : List Byte} {s : State} (h : (s.link i).replay.length < 1024) (hs : Books s) :
    Books ((pushFlit i t b x).run s) := by
  refine books_modLink hs fun _ => ?_
  simp only [Link.Booked, List.length_append, List.length_cons, List.length_nil]
  omega

theorem fillSlot_within {i : Nat} (hout : F .out) (hlink : F (.link i)) (hlinkTx : F (.linkTx i)) : (fillSlot i).Within F := by
  refine .of_keeps .books ?_ fun _ s hs => ?_
  · exact .look fun _ => .ite (.andThen (pushFlit_within (.inl hout) (.inr rfl) (.inl hlink) (.inl hlinkTx))
      (.link (.inl hlink) (ht := .inl (.inl hlinkTx)))) (sendIdle_within (.inl hout))
  · simp only [fillSlot, Fx.run_look]
    split
    · rename_i h
      simp only [Bool.and_eq_true, decide_eq_true_eq] at h
      exact books_modLink (pushFlit_books h.2 hs) id
    · exact hs

theorem sendFlit_within {i t : Nat} {x : List Byte} (hout : F .out) (hlink : F (.link i)) (hlinkTx : F (.linkTx i)) :
    (sendFlit i t x).Within F := by
  refine .of_keeps .books ?_ fun _ s hs => ?_
  · exact .look fun _ => .ite (pushFlit_within (.inl hout) (.inr rfl) (.inl hlink) (.inl hlinkTx))
      (.link (.inl hlink) (ht := .inl (.inl hlinkTx)))
  · simp only [sendFlit, Fx.run_look]
    split
    · rename_i h
      exact pushFlit_books h hs
    · exact books_modLink hs id

theorem pushFlit_replay_length_le (i t : Nat) (b : Byte) (x : List Byte) (s : State) :
    (((pushFlit i t b x).run s).link i).replay.length ≤ (s.link i).replay.length + 1 := by
  simp only [pushFlit, Fx.run_look, Fx.run_andThen, Fx.run_link, Fx.run_emit, State.link_emit]
  generalize (s.link i).nextFlit t b x = f
  rcases s.link_modLink_cases i i (fun l => { l.announced with txSeq := l.txSeq + 1#12, replay := l.replay ++ [f] }) with e | ⟨-, e⟩ <;>
    rw [e]
  · omega
  · simp

theorem books_link {s : State} (h : Books s) (i : Nat) : (s.link i).Booked := by
  by_cases hi : i < s.links.length
  · have e : s.link i = s.links[i] := by simp [State.link, hi]
    exact e ▸ ((books_iff s).mp h).2.1 _ (List.getElem_mem hi)
  · have e : s.link i = Link.reset := by simp [State.link, Nat.not_lt.mp hi]
    exact e ▸ Link.reset_booked

/-- Flits that all find places in the replay buffer. -/
theorem each_pushFlit_books (i : Nat) (l : List (Nat × List Byte)) (s : State) (h : (s.link i).replay.length + l.length ≤ 1024)
    (hs : Books s) : Books ((Fx.each l (fun p =>
      (Fx.link i (fun l => { l with held := l.held.drop 1 })).andThen (pushFlit i p.1 0xFF#8 p.2))).run s) := by
  induction l generalizing s with
  | nil => exact hs
  | cons p l ih =>
    rw [List.length_cons] at h
    have hheld : ((s.modLink i (fun l => { l with held := l.held.drop 1 })).link i).replay = (s.link i).replay := by
      rcases s.link_modLink_cases i i (fun l => { l with held := l.held.drop 1 }) with e | ⟨-, e⟩ <;> rw [e]
    rw [Fx.run_each_cons, Fx.run_andThen, Fx.run_link]
    refine ih _ ?_ (pushFlit_books ?_ (books_modLink hs id))
    · have hlen := pushFlit_replay_length_le i p.1 0xFF#8 p.2 (s.modLink i (fun l => { l with held := l.held.drop 1 }))
      rw [hheld] at hlen
      omega
    · rw [hheld]
      omega

theorem flushHeld_within {i : Nat} (hout : F .out) (hlink : F (.link i)) (hlinkTx : F (.linkTx i)) : (flushHeld i).Within F := by
  refine .of_keeps .books ?_ fun _ s hs => ?_
  · exact .look fun _ => .each fun _ => .andThen (.link (.inl hlink) (ht := .inl (.inl hlinkTx)))
      (pushFlit_within (.inl hout) (.inr rfl) (.inl hlink) (.inl hlinkTx))
  · refine each_pushFlit_books i _ s ?_ hs
    have h := books_link hs i
    rw [List.length_take]
    unfold Link.Booked at h
    omega

theorem onVl_within {i v : Nat} {f : Vl → Vl} (hlink : F (.link i)) (hfield : F (.field (i / 4)))
    (hb : F .books ∨ ∀ x, (f x).granted ≤ x.granted) : (onVl i v f).Within F := by
  refine .look fun s => .andThen (.link hlink) (.field hfield (hb := hb.imp_right fun hg g h => ⟨h.1, ?_, h.2.2⟩))
  have := hg ((s.link i).vls.getD v (Vl.reset 0))
  have := h.2.1
  dsimp only
  omega

theorem grantBlock_within {f : Nat} (hlink : ∀ x, F (.link x)) (hfield : F (.field f)) : (grantBlock f).Within F := by
  intro p hp s
  simp only [grantBlock, Fx.run_look, Fx.run_when]
  split
  · rename_i hpool
    split
    · rename_i q _ hq
      have hdiv : q.1 / 4 = f := div_of_mem_askers (by rw [hq]; exact List.mem_cons_self)
      by_cases hbooks : p = .books
      · subst hbooks
        refine fun hs => books_modField (books_modLink hs id) fun hg => ⟨hg.1, ?_, hg.2.2⟩
        have hpool' : (s.field (q.1 / 4)).poolGranted < 64 := by simpa [hdiv] using hpool
        simp only [Vl.grant, Fx.run_link, State.field_modLink]
        omega
      · exact onVl_within (F := fun q => F q ∨ q = .books) (.inl (hlink _)) (.inl (hdiv ▸ hfield)) (.inl (.inr rfl)) p
          (by simp [hp, hbooks]) s
    · exact p.same_refl s
  · exact p.same_refl s

theorem storeUnits_within {i v n : Nat} (hlink : ∀ x, F (.link x)) (hfield : F (.field (i / 4))) : (storeUnits i v n).Within F :=
  .andThen (onVl_within (hlink _) hfield (.inr fun x => (Vl.store_granted v n x).le)) (grantBlock_within hlink hfield)

theorem returnUnits_within {i v n : Nat} (hlink : ∀ x, F (.link x)) (hfield : F (.field (i / 4))) : (returnUnits i v n).Within F :=
  .andThen (onVl_within (hlink _) hfield (.inr (Vl.release1_granted_le v n))) (grantBlock_within hlink hfield)

theorem takePacket_within {i : Nat} {p : Packet} (hhub : F .hub) (hfield : F (.field (i / 4))) (hlink : ∀ x, F (.link x))
    (hlinkRx : F (.linkRx i)) : (takePacket i p).Within F :=
  .look fun _ => .ite (.andThen (.link (hlink _) (hr := .inl hlinkRx)) (returnUnits_within hlink hfield)) (.when (.hub hhub))

theorem injectAt_within {i port : Nat} {p : Packet} (hlink : F (.link i)) (hlinkInject : F (.linkInject i)) : (injectAt i port p).Within
    F :=
  .link hlink (hf := .inr fun _ => by split <;> rfl) (ht := .inr fun _ => by split <;> rfl) (hr := .inr fun _ => by split <;> rfl) (hi :=
    .inl hlinkInject) (he := .inr fun _ => by split <;> rfl) (hb := .inr fun _ h => by split <;> exact h)

theorem sendPacket_within {port : Nat} {p : Packet} (sends : Sends F) : (sendPacket port p).Within F := by
  refine .look fun _ => ?_
  split
  · exact .ite (.hub sends.hub) (.when (injectAt_within (sends.link _) (sends.linkInject _)))
  · exact .skip

theorem onPacket_within {t i : Nat} {p : Packet} {fx : Fx} (hfx : fx.Within F) : (onPacket t i p fx).Within F :=
  .look fun _ => .when hfx

theorem discardEvent_within {i : Nat} {p : Packet} {code : Nat} (hevc : F .evc) (hfield : F (.field (linkSource i / 56)))
    (hring : ∀ x, F (.ring x)) : (discardEvent i p code).Within F :=
  raise_within hevc hfield hring

theorem answerPacket_within {port : Nat} {p : Packet} {ptype aux : Nat} {payload : List Byte} (sends : Sends F) :
    (answerPacket port p ptype aux payload).Within F :=
  .look fun _ => .when (sendPacket_within sends)

theorem withTag_within {f : U32 → Fx} (hf : ∀ x0, (f x0).Within F) (hhub : F .hub) (hhubCore : F .hubCore) : (withTag f).Within F :=
  .look fun _ => .andThen (hf _) (.hub hhub (hc := .inl hhubCore))

theorem parityEvent_within {src traffic offset p2 : Nat} {who : Option (Nat × Nat)} (hevc : F .evc) (hfield : F (.field (src / 56)))
    (hring : ∀ x, F (.ring x)) : (parityEvent src traffic offset p2 who).Within F :=
  raise_within hevc hfield hring

theorem reply_within {dest : Dest} {relayed tag opcode ctx status : Nat} {result : List Byte} (sends : Sends F) (hout : F .out) :
    (reply dest relayed tag opcode ctx status result).Within F := by
  refine .look fun _ => ?_
  split
  · exact .when (.emit hout)
  · exact .ite (sendPacket_within sends) (injectAt_within (sends.link _) (sends.linkInject _))
  · exact .skip

theorem Wait.answer_within {w : Wait} {status : Nat} {result : List Byte} (sends : Sends F) (hout : F .out) :
    (Wait.answer w status result).Within F :=
  reply_within sends hout

theorem finishWaits_within {cond : WaitKind → Bool} {status : Nat} {result : List Byte} (answers : Answers F) :
    (finishWaits cond status result).Within F :=
  .look fun _ => .andThen (.port answers.port (hw := .inr fun _ w h => ⟨w, (List.mem_filter.mp h).1, rfl⟩)) (.each (fun _ =>
    Wait.answer_within answers.toSends answers.out))

theorem touchWord_within {w : Nat} (raises : Raises F) (hout : F .out) (hmem : F .mem) (htiles : F .tiles)
    (hstack : F (.stack (64 * w % 2 ^ 44 / 2 ^ 36))) : (touchWord w).Within F :=
  .look fun _ => .ite (.ite (.field (raises.field _)) (.andThen (withInBand_within (.stack hstack) hout) (.when (raise_within raises.evc
    (raises.field _) raises.ring)))) (.when (.andThen (.memAwait hmem htiles) (.ite (.field (raises.field _)) (.stack hstack))))

theorem touchRange_within {k len : Nat} (touches : Touches F) : (touchRange k len).Within F :=
  .look fun _ => .each (fun _ => touchWord_within touches.toRaises touches.out touches.mem touches.tiles (touches.stack _))

theorem wordEvents_within {who : Option (Nat × Nat)} {seq key len : Nat} (raises : Raises F) : (wordEvents who seq key len).Within F :=
  .look fun _ => .each (fun _ => raise_within raises.evc (raises.field _) raises.ring)

theorem plainRead_within {who : Option (Nat × Nat)} {seq key len : Nat} (touches : Touches F) : (plainRead who seq key len).Within F :=
  .andThen (wordEvents_within touches.toRaises) (touchRange_within touches)

theorem partialReads_within {key len : Nat} (touches : Touches F) : (partialReads key len).Within F :=
  .look fun _ => .each (fun _ => plainRead_within touches)

theorem poisonSet_within {f i : Nat} (hmem : F .mem) (hdata : F .data) (htiles : F .tiles) : (poisonSet f i).Within F :=
  .memPoison hmem hdata htiles

theorem answerSet_within {f i status : Nat} (answers : Answers F) : (answerSet f i status).Within F := by
  refine .look fun _ => ?_
  dsimp only
  split
  · exact .skip
  · exact .andThen (.port answers.port (hw := .inr fun _ w h => ⟨w, List.mem_of_mem_eraseP h, rfl⟩)) (Wait.answer_within answers.toSends
      answers.out)

theorem endTransition_within {f i : Nat} (answers : Answers F) (hmem : F .mem) (hdata : F .data) (htiles : F .tiles)
    (hfield : F (.field f)) (hfieldFrame : F (.fieldFrame f)) : (endTransition f i).Within F := by
  refine .look fun _ => ?_
  dsimp only
  split
  · exact .skip
  · refine .andThen (.when (poisonSet_within hmem hdata htiles)) ?_
    split
    · exact .field hfield (hf := .inl hfieldFrame)
    · refine .andThen (answerSet_within answers) ?_
      split
      · exact .field hfield (hf := .inl hfieldFrame)
      · exact .ite (.andThen (.field hfield (hf := .inl hfieldFrame)) (answerSet_within answers)) (.field hfield (hf := .inl hfieldFrame))

theorem awaitSets_within {space off len : Nat} (answers : Answers F) (hmem : F .mem) (hdata : F .data) (htiles : F .tiles)
    (hfield : F (.field (off / 2 ^ 32))) (hfieldFrame : F (.fieldFrame (off / 2 ^ 32))) : (awaitSets space off len).Within F :=
  .look fun _ => .when (.each (fun _ => .when (endTransition_within answers hmem hdata htiles hfield hfieldFrame)))

theorem sendAbort_within {r : AbortRecord} {except : Option Nat} (hout : F .out) (hlink : ∀ x, F (.link x))
    (hlinkTx : ∀ x, F (.linkTx x)) : (sendAbort r except).Within F :=
  .look fun _ => .each (fun _ => sendFlit_within hout (hlink _) (hlinkTx _))

theorem freeEntries_within {cond : U16 → U16 → Bool} (hfield : ∀ x, F (.field x)) (hlink : ∀ x, F (.link x))
    (hlinkEntries : ∀ x, F (.linkEntries x)) : (freeEntries cond).Within F :=
  .look fun _ => .each (fun _ => .cons (.link (hlink _) (he := .inl (hlinkEntries _))) (.cons (.each (fun _ => returnUnits_within hlink
    (hfield _))) (.cons (.each (fun _ => .each (fun _ => returnUnits_within hlink (hfield _)))) .nil)))

theorem freeJob_within {job : Nat} (hfield : ∀ x, F (.field x)) (hlink : ∀ x, F (.link x)) (hlinkEntries : ∀ x, F (.linkEntries x)) :
    (freeJob job).Within F :=
  freeEntries_within hfield hlink hlinkEntries

theorem sendTile_within {c port job ga : Nat} {bytes : List Byte} {bad : List Nat} {track : U32 → Fx}
    (htrack : ∀ x0, (track x0).Within F) (sends : Sends F) (hhubCore : F .hubCore) : (sendTile c port job ga bytes bad track).Within F :=
  .look fun _ => .each (fun _ => withTag_within (fun _ => .andThen (htrack _) (sendPacket_within sends)) sends.hub hhubCore)

theorem finishCopies_within {c : Nat} {o : Op} (sends : Sends F) (hout : F .out) (hmem : F .mem) (hdata : F .data) (htiles : F .tiles)
    (hhubCore : F .hubCore) : (finishCopies c o).Within F := by
  refine .look fun _ => .when (.each (fun _ => ?_))
  dsimp only
  split
  · exact .skip
  · refine .ite (.when (.andThen (.memWrite hmem hdata htiles) (.each (fun _ => .memPoison hmem hdata htiles)))) (.ite ?_ (sendTile_within
      (fun _ => .skip) sends hhubCore))
    split
    · exact .emit hout
    · exact .skip

theorem sendCopy_within {links : List Nat} {fld j : Nat} {p : Packet} (sends : Sends F) : (sendCopy links fld j p).Within F := by
  unfold sendCopy
  split
  · exact injectAt_within (sends.link _) (sends.linkInject _)
  · exact sendPacket_within sends

theorem releaseClaim_within {k : Copy} (sends : Sends F) : (releaseClaim k).Within F :=
  .look fun _ => .when (sendCopy_within sends)

theorem endCopies_within {cond : Copy → Bool} {status : Nat} (answers : Answers F) (hhubCore : F .hubCore) :
    (endCopies cond status).Within F :=
  .look fun _ => .cons (finishWaits_within answers) (.cons (.each (fun _ => .link (answers.link _) (hi := .inl (answers.linkInject _))))
    (.cons (.hub answers.hub (hc := .inl hhubCore)) (.cons (.each (fun _ => releaseClaim_within answers.toSends)) .nil)))

theorem dropCopies_within {cond : Copy → Bool} (answers : Answers F) (hhubCore : F .hubCore) : (dropCopies cond).Within F :=
  endCopies_within answers hhubCore

/-- The parts of a teardown, of which only the tiles that it finishes touch memory. -/
theorem tearOne_eq_look (c cause : Nat) : ∃ f, tearOne c cause = Fx.look f ∧ ∀ (s : State) {F : Place → Prop}, Tears F → F (.ctx c) →
    (∀ o ∈ (s.ctx c).ops, (finishCopies c o).Within F) → (f s).Within F :=
  ⟨_, rfl, fun _ _ tears hctx hcopies =>
    .when (.cons (.each fun _ => .link (tears.link _) (hi := .inl (tears.linkInject _)) (he := .inl (tears.linkEntries _)))
      (.cons (.each fun _ => .bumpFree tears.freeCtr) (.cons (.each_mem hcopies) (.cons (.port tears.port)
      (.cons (.each fun _ => .field (tears.field _) (hw := .inl (tears.fieldWork _)) (hb := .inr fun _ => Field.without_booked _))
      (.cons (dropCopies_within tears.toAnswers tears.hubCore) (.cons (finishWaits_within tears.toAnswers)
      (.cons (.ctx hctx (hq := .inr fun _ _ => Ctx.torn_quiet _ _ _) (hr := .inr fun _ h => (Ctx.not_torn_runs _ _ _ h).elim)) .nil))))))))⟩

theorem tearOne_within {c cause : Nat} (tears : Tears F) (htiles : F .tiles ∨ c < 16) (hctx : F (.ctx c)) : (tearOne c cause).Within F := by
  obtain ⟨f, e, hf⟩ := tearOne_eq_look c cause
  rw [e]
  rcases htiles with htiles | hc
  · exact .look fun s => hf s tears hctx fun _ _ => finishCopies_within tears.toSends tears.out tears.mem tears.data htiles tears.hubCore
  · refine .of_keeps .tiles (.look fun s => hf s (tears.mono fun _ => .inl) (.inl hctx) fun _ _ => ?_) fun ht s hs => ?_
    · exact finishCopies_within (tears.toSends.mono fun _ => .inl) (.inl tears.out) (.inl tears.mem) (.inl tears.data) (.inr rfl)
        (.inl tears.hubCore)
    · exact hf s tears hctx (fun o ho => finishCopies_within_of_not_copies (hs c hc o ho)) .tiles ht s hs

theorem tearJob_within {job cause : Nat} (tears : Tears F) (hctx : ∀ x, F (.ctx x)) : (tearJob job cause).Within F :=
  .look fun _ => .andThen (freeJob_within tears.field tears.link tears.linkEntries) (.each_mem (fun _ hx => tearOne_within tears (.inr
    (List.mem_range.mp (List.mem_filter.mp hx).1)) (hctx _)))

theorem noteAbort_within {r : AbortRecord} (hhub : F .hub) (hhubCore : F .hubCore) : (noteAbort r).Within F :=
  .look fun _ => .hub hhub (hc := .inl hhubCore)

theorem abortJob_within {job cause : Nat} (abort : Aborts F) (hctx : ∀ x, F (.ctx x)) : (abortJob job cause).Within F :=
  .when (.look fun _ => .cons (.hub abort.hub (hc := .inl abort.hubCore)) (.cons (noteAbort_within abort.hub abort.hubCore) (.cons
    (sendAbort_within abort.out abort.link abort.linkTx) (.cons (tearJob_within abort.toTears hctx) .nil))))

theorem tearCtx_within {c cause : Nat} (abort : Aborts F) (htiles : F .tiles ∨ c < 16) (hctx : ∀ x, F (.ctx x)) :
    (tearCtx c cause).Within F :=
  .look fun _ => .when (.ite (tearOne_within abort.toTears htiles (hctx _)) (abortJob_within abort hctx))

theorem setFlags_within {c f : Nat} (hctx : F (.ctx c)) : (setFlags c f).Within F :=
  .ctx hctx

theorem onOp_within {c : Nat} {q : U32} {f : Op → Op} (hctx : F (.ctx c))
    (hq : F .tiles ∨ ∀ o : Op, o.copies = false → (f o).copies = false) : (onOp c q f).Within F := by
  refine .ctx hctx (hq := hq.imp_right fun hf x hx => ?_)
  simp only [Ctx.Quiet, List.forall_mem_map] at hx ⊢
  intro o ho
  split
  · exact hf o (hx o ho)
  · exact hx o ho

theorem releaseFields_within {c : Nat} {seq : U32} (hfield : ∀ x, F (.field x)) (hfieldWork : ∀ x, F (.fieldWork x)) :
    (releaseFields c seq).Within F :=
  .look fun _ => .each (fun _ => .field (hfield _) (hw := .inl (hfieldWork _)))

theorem dropRows_within {c : Nat} {seq : U32} {chain : Bool} (hfield : ∀ x, F (.field x)) (hfieldWork : ∀ x, F (.fieldWork x)) :
    (dropRows c seq chain).Within F :=
  .look fun _ => .each (fun _ => .field (hfield _) (hw := .inl (hfieldWork _)) (hb := .inr fun _ h => ⟨(List.length_map _).trans h.1, h.2⟩))

theorem progress_within {f e : Nat} (hfield : F (.field f)) : (progress f e).Within F :=
  .look fun _ => .field hfield

theorem endOp_within {c : Nat} {o : Op} {status : Nat} (abort : Aborts F) (raises : Raises F) (hruns : F .runs) (hctx : ∀ x, F (.ctx x))
    : (endOp c o status).Within F :=
  .look fun _ => .cons (.ctx (hctx _) (hq := .inr fun _ h => h.filter)) (.cons (releaseFields_within abort.field abort.fieldWork) (.cons
    (progress_within (abort.field _)) (.cons (.when (dropRows_within abort.field abort.fieldWork)) (.cons (.when (freeEntries_within
    abort.field abort.link abort.linkEntries)) (.cons (.when (.andThen (setFlags_within (hctx _)) (.each (fun _ => .field (abort.field
    _))))) (.cons (.when (raise_within raises.evc (abort.field _) raises.ring)) (.cons (.when (.ctx (hctx _) (hr := .inl hruns))) (.cons
    (.when (abortJob_within abort hctx)) .nil))))))))

theorem startDescriptor_within {tag : U32} (hfield : ∀ x, F (.field x)) : (startDescriptor tag).Within F := by
  refine .look fun s => .each fun f => .field (hfield f) (hb := .inr fun g hg => ⟨hg.1, hg.2.1, ?_⟩)
  simp only [List.forall_mem_map, List.length_append]
  intro m hm
  have := length_filter_add_filter m.queued tag
  have := hg.2.2 m hm
  omega

theorem resetSluice_within {i : Nat} (hfield : ∀ x, F (.field x)) (hlink : ∀ x, F (.link x)) (hlinkEntries : F (.linkEntries i)) :
    (resetSluice i).Within F :=
  .look fun _ => .cons (.each (fun _ => returnUnits_within hlink (hfield _))) (.cons (.each (fun _ => .each (fun _ => returnUnits_within
    hlink (hfield _)))) (.cons (.link (hlink _) (he := .inl hlinkEntries)) .nil))

theorem resetEngine_within {f e : Nat} (abort : Aborts F) (hditch : F .ditch) (hctx : ∀ x, F (.ctx x)) (hfieldFrame : F (.fieldFrame f))
    : (resetEngine f e).Within F :=
  .look fun _ => .cons (.each_mem (fun _ hx => tearCtx_within abort (.inr (List.mem_range.mp (List.mem_filter.mp hx).1)) hctx)) (.cons
    (.when (.each (fun _ => abortJob_within abort hctx))) (.cons (.when (resetSluice_within abort.field abort.link (abort.linkEntries _)))
    (.cons (.when (.ditch hditch)) (.cons (.when (dropCopies_within abort.toAnswers abort.hubCore)) (.cons (.field (abort.field _) (hf :=
    .inl hfieldFrame) (hw := .inl (abort.fieldWork _)) (hb := .inr fun _ h => Field.engineReset_booked _ h)) .nil)))))

theorem fieldChange_within {f : Nat} (hevc : F .evc) (hfield : F (.field ((56 * f + 28) / 56))) (hring : ∀ x, F (.ring x)) :
    (fieldChange f).Within F :=
  .look fun _ => raise_within hevc hfield hring

theorem linkChange_within {i cause : Nat} (hevc : F .evc) (hfield : F (.field ((56 * (i / 4) + 20 + i % 4) / 56)))
    (hring : ∀ x, F (.ring x)) : (linkChange i cause).Within F :=
  .look fun _ => raise_within hevc hfield hring

theorem dropLink_within {i state : Nat} (abort : Aborts F) (hctx : ∀ x, F (.ctx x)) (hlinkFrame : F (.linkFrame i))
    (hlinkRx : ∀ x, F (.linkRx x)) : (dropLink i state).Within F :=
  .look fun _ => .cons (.each (fun _ => takePacket_within abort.hub (abort.field _) abort.link (hlinkRx _))) (.cons (.link (abort.link _)
    (hf := .inl hlinkFrame) (ht := .inl (abort.linkTx _)) (hi := .inl (abort.linkInject _)) (hb := .inr fun _ _ => Link.reset_booked))
    (.cons (.each (fun _ => .link (abort.link _))) (.cons (.each (fun _ => abortJob_within abort hctx)) (.cons (endCopies_within
    abort.toAnswers abort.hubCore) (.cons (finishWaits_within abort.toAnswers) .nil)))))

theorem fenceLink_within {i : Nat} (abort : Aborts F) (raises : Raises F) (hctx : ∀ x, F (.ctx x)) (hlinkFrame : F (.linkFrame i))
    (hlinkRx : ∀ x, F (.linkRx x)) : (fenceLink i).Within F :=
  .andThen (dropLink_within abort hctx hlinkFrame hlinkRx) (linkChange_within raises.evc (abort.field _) raises.ring)

theorem clampLink_within {i : Nat} (abort : Aborts F) (hctx : ∀ x, F (.ctx x)) (hlinkRx : F (.linkRx i)) : (clampLink i).Within F :=
  .look fun _ => .andThen (.each (fun _ => takePacket_within abort.hub (abort.field _) abort.link hlinkRx)) (.each (fun _ =>
    abortJob_within abort hctx))

theorem poisonField_within {f : Nat} (hmem : F .mem) (hdata : F .data) (htiles : F .tiles) : (poisonField f).Within F :=
  .memPoison hmem hdata htiles

theorem fenceOnly_within {f : Nat} (abort : Aborts F) (raises : Raises F) (hditch : F .ditch) (hctx : ∀ x, F (.ctx x))
    (hfieldFrame : F (.fieldFrame f)) (hlinkFrame : ∀ x, F (.linkFrame x)) (hlinkRx : ∀ x, F (.linkRx x)) : (fenceOnly f).Within F :=
  .look fun _ => .cons (.field (abort.field _) (hf := .inl hfieldFrame)) (.cons (fieldChange_within raises.evc (abort.field _) raises.ring)
    (.cons (dropCopies_within abort.toAnswers abort.hubCore) (.cons (.each (fun _ => .andThen (fenceLink_within abort raises hctx
    (hlinkFrame _) hlinkRx) (clampLink_within abort hctx (hlinkRx _)))) (.cons (.each (fun _ => .link (abort.link _) (hi := .inl
    (abort.linkInject _)))) (.cons (.each_mem (fun _ hx => tearCtx_within abort (.inr (List.mem_range.mp (List.mem_filter.mp hx).1)) hctx))
    (.cons (.ditch hditch) (.cons (finishWaits_within abort.toAnswers) (.cons (.field (abort.field _) (hf := .inl hfieldFrame)) .nil))))))))

theorem startFieldReset_within {f : Nat} (raises : Raises F) (hfieldFrame : F (.fieldFrame f)) : (startFieldReset f).Within F :=
  .look fun _ => .andThen (.field (raises.field _) (hf := .inl hfieldFrame)) (fieldChange_within raises.evc (raises.field _) raises.ring)

theorem fenceField_within {f : Nat} (abort : Aborts F) (raises : Raises F) (hditch : F .ditch) (hctx : ∀ x, F (.ctx x))
    (hfieldFrame : F (.fieldFrame f)) (hlinkFrame : ∀ x, F (.linkFrame x)) (hlinkRx : ∀ x, F (.linkRx x)) : (fenceField f).Within F :=
  .andThen (fenceOnly_within abort raises hditch hctx hfieldFrame hlinkFrame hlinkRx) (startFieldReset_within raises hfieldFrame)

theorem failField_within {f : Nat} (answers : Answers F) (raises : Raises F) (hfieldFrame : F (.fieldFrame f))
    (hstack : ∀ x, F (.stack x)) : (failField f).Within F :=
  .cons (.field (raises.field _) (hf := .inl hfieldFrame)) (.cons (.each (fun _ => .stack (hstack _))) (.cons (fieldChange_within
    raises.evc (raises.field _) raises.ring) (.cons (finishWaits_within answers) .nil)))

/-! ## Compute -/

theorem mergeStats_within {c : Nat} {step : U32} {idx : Nat} {d : StatRec} (hctx : F (.ctx c)) : (mergeStats c step idx d).Within F :=
  .ctx hctx

theorem failOp_within {c : Nat} {seq : U32} {status : Nat} (hctx : F (.ctx c)) : (failOp c seq status).Within F :=
  onOp_within hctx (.inr fun _ h => h)

theorem poisonOp_within {c : Nat} {seq : U32} (hctx : F (.ctx c)) : (poisonOp c seq).Within F :=
  .andThen (setFlags_within hctx) (onOp_within hctx (.inr fun _ h => by split <;> exact h))

theorem raiseEvs_within {c : Nat} {seq : U32} {l : List Ev} (raises : Raises F) : (raiseEvs c seq l).Within F :=
  .look fun _ => .each (fun _ => raise_within raises.evc (raises.field _) raises.ring)

theorem writeLocal_within {key : Nat} {bytes : List Byte} {bad : List Nat} (hmem : F .mem) (hdata : F .data) (htiles : F .tiles) :
    (writeLocal key bytes bad).Within F :=
  .andThen (.memWrite hmem hdata htiles) (.each (fun _ => .memPoison hmem hdata htiles))

theorem sendSlot_within {c : Nat} {seq : U32} {job : Nat} {p : Piece} (sends : Sends F) (hhubCore : F .hubCore) (hctx : F (.ctx c)) :
    (sendSlot c seq job p).Within F :=
  .look fun _ => .ite (failOp_within hctx) (.ite (withTag_within (fun _ => .andThen (onOp_within hctx (.inr fun _ h => h)) (.each (fun _ =>
    sendPacket_within sends))) sends.hub hhubCore) (sendTile_within (fun _ => onOp_within hctx (.inr fun _ h => h)) sends hhubCore))

theorem landWitness_within {c : Nat} {seq : U32} {slot : List Byte} (hmem : F .mem) (hdata : F .data) (htiles : F .tiles)
    (hctx : F (.ctx c)) : (landWitness c seq slot).Within F := by
  refine .look fun _ => .ite ?_ (.ctx hctx)
  split
  · exact failOp_within hctx
  · exact .andThen (.memWrite hmem hdata htiles) (.ctx hctx)

theorem addLocalTile_within {c : Nat} {seq : U32} {o : Op} {p : Piece} {booked : Fx} (hbooked : booked.Within F) (touches : Touches F)
    (hdata : F .data) (hctx : F (.ctx c)) : (addLocalTile c seq o p booked).Within F := by
  refine .look fun _ => .andThen (touchRange_within touches) (.ite (.andThen (raiseEvs_within touches.toRaises) (failOp_within hctx)) ?_)
  split
  · exact .cons (.memWrite touches.mem hdata touches.tiles) (.cons (raiseEvs_within touches.toRaises) (.cons (.ite (poisonOp_within hctx)
      (.andThen hbooked (setFlags_within hctx))) .nil))
  · exact .andThen (.when (raiseEvs_within touches.toRaises)) (failOp_within hctx)

theorem landPiece_within {c : Nat} {seq : U32} {p : Piece} (answers : Answers F) (touches : Touches F) (hdata : F .data)
    (hhubCore : F .hubCore) (hctx : F (.ctx c)) (hfieldFrame : F (.fieldFrame (gaOffset p.ga / 2 ^ 32))) : (landPiece c seq p).Within F := by
  refine .look fun _ => ?_
  split
  · exact .skip
  · refine .ite .skip (.ite ?_ (.ite ?_ (.andThen (sendSlot_within answers.toSends hhubCore hctx) (.andThen (.andThen ?_ ?_) (.andThen
      (setFlags_within hctx) ?_)))))
    · split
      · exact failOp_within hctx
      · refine .andThen (awaitSets_within answers touches.mem hdata touches.tiles (touches.field _) hfieldFrame) (.ite (addLocalTile_within
          (.andThen (.andThen ?_ ?_) (.andThen (setFlags_within hctx) ?_)) touches hdata hctx) (.andThen (writeLocal_within touches.mem
          hdata touches.tiles) (.andThen (.andThen ?_ ?_) (.andThen (setFlags_within hctx) ?_))))
        · split
          · exact mergeStats_within hctx
          · exact .skip
        · split
          · exact progress_within (touches.field _)
          · exact .skip
        · split
          · exact landWitness_within touches.mem hdata touches.tiles hctx
          · exact .skip
        · split
          · exact mergeStats_within hctx
          · exact .skip
        · split
          · exact progress_within (touches.field _)
          · exact .skip
        · split
          · exact landWitness_within touches.mem hdata touches.tiles hctx
          · exact .skip
    · split
      · refine .andThen (.emit answers.out) (.andThen (.andThen ?_ ?_) (.andThen (setFlags_within hctx) ?_))
        · split
          · exact mergeStats_within hctx
          · exact .skip
        · split
          · exact progress_within (touches.field _)
          · exact .skip
        · split
          · exact landWitness_within touches.mem hdata touches.tiles hctx
          · exact .skip
      · exact failOp_within hctx
    · split
      · exact mergeStats_within hctx
      · exact .skip
    · split
      · exact progress_within (touches.field _)
      · exact .skip
    · split
      · exact landWitness_within touches.mem hdata touches.tiles hctx
      · exact .skip

theorem countPrism_within {e : Nat × Nat × Nat × Nat × Nat} (hfield : ∀ x, F (.field x)) : (countPrism e).Within F :=
  .field (hfield _)

theorem applyResult_within {c : Nat} {seq : U32} {r : Result} (answers : Answers F) (touches : Touches F) (hdata : F .data)
    (hhubCore : F .hubCore) (hctx : F (.ctx c)) (hfieldFrame : ∀ x, F (.fieldFrame x)) : (applyResult c seq r).Within F :=
  .cons (.each (fun _ => landPiece_within answers touches hdata hhubCore hctx (hfieldFrame _))) (.cons (setFlags_within hctx) (.cons (.each
    (fun _ => countPrism_within touches.field)) (.cons (raiseEvs_within touches.toRaises) (.cons (onOp_within hctx (.inr fun _ _ => by simp
    [Op.copies])) .nil))))

/-! ## Training -/

theorem stepEndFx_within {c : Nat} {seq : U32} {lead : Nat} (hmem : F .mem) (hdata : F .data) (htiles : F .tiles) (hevc : F .evc)
    (hctx : F (.ctx c)) (hfield : F (.field ((56 * lead + 6) / 56))) (hring : ∀ x, F (.ring x)) : (stepEndFx c seq lead).Within F := by
  refine .look fun _ => ?_
  dsimp only
  split
  · exact failOp_within hctx
  · exact .cons (.memWrite hmem hdata htiles) (.cons (raise_within hevc hfield hring) (.cons (.ctx hctx) .nil))

/-! ## Issue -/

theorem heldParity_within {c : Nat} {o : Op} {offset : Nat} (abort : Aborts F) (raises : Raises F) (hruns : F .runs)
    (hctx : ∀ x, F (.ctx x)) : (heldParity c o offset).Within F :=
  .look fun _ => .andThen (parityEvent_within raises.evc (abort.field _) raises.ring) (endOp_within abort raises hruns hctx)

theorem execOperationIssue_within {n : IssueNote} {s : State} (abort : Aborts F) (raises : Raises F) (hruns : F .runs)
    (hctx : ∀ x, F (.ctx x)) : Goes F s (execOperationIssue n s) := by
  refine ⟨_, rfl, ?_⟩
  split
  · exact .skip
  · refine .when (.cons (.ctx (hctx _) (hq := .inr fun _ h => h.append (Op.issue_copies ..))) (.cons (progress_within (abort.field _))
      (.cons ?_ .nil)))
    split
    · exact heldParity_within abort raises hruns hctx
    · exact .when (endOp_within abort raises hruns hctx)

end Sys2Proof.Machine

/-! The places of the effects of the model: the basin, the registers and the supply. -/
namespace Sys2Proof.Machine

-- The default proofs of the side conditions are evaluated only once all lemmas before are checked: in order, none waits in a thread of
-- its own.
set_option Elab.async false

variable {F : Place → Prop}

/-! ## Basin -/

theorem onMat_within {c : Nat} {seq : U32} {f : MatRun → MatRun} (hctx : F (.ctx c)) : (onMat c seq f).Within F :=
  onOp_within hctx (.inr fun _ h => h)

theorem onRows_within {f : Nat} {g : List TileRow → List TileRow} (hfield : F (.field f)) (hfieldWork : F (.fieldWork f))
    (hb : F .books ∨ ∀ l : List TileRow, l.length = 256 → (g l).length = 256) : (onRows f g).Within F :=
  .field hfield (hw := .inl hfieldWork) (hb := hb.imp_right fun hg _ h => ⟨hg _ h.1, h.2⟩)

theorem matFail_within {c : Nat} {o : Op} {x : Stop} (raises : Raises F) (hctx : F (.ctx c)) : (matFail c o x).Within F :=
  .cons (raiseEvs_within raises) (.cons (failOp_within hctx) (.cons (onOp_within hctx (.inr fun _ _ => by simp [Op.copies])) .nil))

theorem evictFor_within {c f need : Nat} {own : TileRow → Bool} (hfield : F (.field f)) (hfieldWork : F (.fieldWork f)) :
    (evictFor c f need own).Within F :=
  .look fun _ => onRows_within hfield hfieldWork (.inr fun _ h => List.length_mapIdx.trans h)

theorem readBasinTile_within {c : Nat} {o : Op} {u : MatRun} {g : Geo} {tidx : Nat} (raises : Raises F)
    (hfieldWork : ∀ x, F (.fieldWork x)) : (readBasinTile c o u g tidx).Within F :=
  .look fun _ => .cons (raiseEvs_within raises) (.cons (.each (fun _ => onRows_within (raises.field _) (hfieldWork _) (.inr fun _ h =>
    (List.length_modify ..).trans h))) .nil)

theorem onComparisons_within {c : Nat} {o : Op} {k : Comparison → Comparison} (hfield : F (.field (o.fields.headD 0)))
    (hfieldWork : F (.fieldWork (o.fields.headD 0))) : (onComparisons c o k).Within F :=
  .field hfield (hw := .inl hfieldWork)

theorem noteSums_within {c : Nat} {o : Op} {u : MatRun} {put : List (Nat × L128) → Comparison → Comparison} (raises : Raises F)
    (hfieldWork : ∀ x, F (.fieldWork x)) : (noteSums c o u put).Within F :=
  .look fun _ => .andThen (.each (fun _ => readBasinTile_within raises hfieldWork)) (onComparisons_within (raises.field _) (hfieldWork _))

theorem matEnd_within {c : Nat} {seq : U32} (raises : Raises F) (hctx : F (.ctx c)) (hfieldWork : ∀ x, F (.fieldWork x)) :
    (matEnd c seq).Within F := by
  refine .look fun _ => ?_
  split
  · exact .skip
  · split
    · exact .skip
    · exact .ite (.when (onOp_within hctx (.inr fun _ _ => by simp [Op.copies]))) (.when (.cons (.when (noteSums_within raises hfieldWork))
        (.cons (.each (fun _ => onRows_within (raises.field _) (hfieldWork _) (.inr fun _ h => (List.length_map _).trans h))) (.cons (.ctx
        hctx) (.cons (onOp_within hctx (.inr fun _ _ => by simp [Op.copies])) .nil)))))

theorem books_field {s : State} (h : Books s) (f : Nat) : (s.field f).Booked := by
  by_cases hf : f < s.fields.length
  · have e : s.field f = s.fields[f] := by simp [State.field, hf]
    exact e ▸ ((books_iff s).mp h).1 _ (List.getElem_mem hf)
  · have e : s.field f = Field.reset := by simp [State.field, Nat.not_lt.mp hf]
    exact e ▸ Field.reset_booked

theorem placeBlock_books {f : Nat} {s : State} (hs : Books s) : Books ((placeBlock f).run s) := by
  unfold placeBlock
  rw [Fx.run_look]
  split
  · exact hs
  · dsimp only
    split
    · exact hs
    · split
      · exact hs
      · rename_i l hl
        have hlen : l.length = 256 := by
          split at hl
          · exact (length_placeRows hl).trans (books_field hs f).1
          · cases hl
        exact Fx.Within.books (a := Fx.all _) (.cons (onRows_within nofun nofun (.inr fun _ _ => (List.length_map _).trans hlen))
          (.cons (onMat_within nofun) .nil)) hs

theorem placeBlock_within {f : Nat} (hctx : ∀ x, F (.ctx x)) (hfield : F (.field f)) (hfieldWork : F (.fieldWork f)) :
    (placeBlock f).Within F := by
  refine .of_keeps .books (.look fun _ => ?_) fun _ s hs => placeBlock_books hs
  split
  · exact .skip
  · dsimp only
    split
    · exact .skip
    · split
      · exact .skip
      · exact .cons (onRows_within (.inl hfield) (.inl hfieldWork) (.inl (.inr rfl))) (.cons (onMat_within (.inl (hctx _))) .nil)

theorem placeZero_within {c : Nat} {seq : U32} (raises : Raises F) (hctx : ∀ x, F (.ctx x)) (hfieldWork : ∀ x, F (.fieldWork x)) :
    (placeZero c seq).Within F := by
  refine .look fun _ => ?_
  split
  · exact .skip
  · split
    · exact .skip
    · exact .cons (.each (fun _ => .each (fun _ => placeBlock_within hctx (raises.field _) (hfieldWork _)))) (.cons (matEnd_within raises
        (hctx _) hfieldWork) .nil)

theorem takePreload_within {f : Nat} {p : Preload} (touches : Touches F) : (takePreload f p).Within F :=
  .andThen (.each (fun _ => touchRange_within touches)) (.field (touches.field _))

theorem runAttention_within {c : Nat} {o : Op} {u : MatRun} {n : GrantNote} (answers : Answers F) (touches : Touches F)
    (hdata : F .data) (hhubCore : F .hubCore) (hctx : F (.ctx c)) (hfieldFrame : ∀ x, F (.fieldFrame x))
    (hfieldWork : ∀ x, F (.fieldWork x)) : (runAttention c o u n).Within F :=
  .look fun _ => .cons (.each (fun _ => onRows_within (touches.field _) (hfieldWork _) (.inr fun _ h => (List.length_map _).trans h)))
    (.cons (.each (fun _ => .cons (.field (touches.field _) (hf := .inl (hfieldFrame _)) (hw := .inl (hfieldWork _)) (hb := .inr fun _ h =>
    Field.runAttention_booked _ h)) (.cons (takePreload_within touches) (.cons (progress_within (touches.field _)) (.cons (progress_within
    (touches.field _)) .nil))))) (.cons (applyResult_within answers touches hdata hhubCore hctx hfieldFrame) .nil))

theorem afterGrant_within {c : Nat} {seq : U32} {n : GrantNote} (answers : Answers F) (touches : Touches F) (hdata : F .data)
    (hhubCore : F .hubCore) (hctx : ∀ x, F (.ctx x)) (hfieldFrame : ∀ x, F (.fieldFrame x)) (hfieldWork : ∀ x, F (.fieldWork x)) :
    (afterGrant c seq n).Within F := by
  refine .look fun _ => ?_
  split
  · exact .skip
  · split
    · exact .skip
    · exact .ite (runAttention_within answers touches hdata hhubCore (hctx _) hfieldFrame hfieldWork) (.cons (onMat_within (hctx _)) (.cons
        (.when (noteSums_within touches.toRaises hfieldWork)) (.cons (.when (placeZero_within touches.toRaises hctx hfieldWork)) .nil)))

theorem tryGrant_within {c : Nat} {o : Op} {u : MatRun} {p : Plan} {n : GrantNote} (answers : Answers F) (touches : Touches F)
    (hdata : F .data) (hhubCore : F .hubCore) (hctx : ∀ x, F (.ctx x)) (hfieldFrame : ∀ x, F (.fieldFrame x))
    (hfieldWork : ∀ x, F (.fieldWork x)) : (tryGrant c o u p n).Within F :=
  .look fun _ => .ite (matFail_within touches.toRaises (hctx _)) (.ite (.cons (onMat_within (hctx _)) (.cons (.each (fun _ => onRows_within
    (touches.field _) (hfieldWork _) (.inr fun _ h => (length_grantRows ..).trans h))) (.cons (onMat_within (hctx _)) (.cons
    (afterGrant_within answers touches hdata hhubCore hctx hfieldFrame hfieldWork) .nil)))) (.andThen (onMat_within (hctx _)) (.each (fun _
    => evictFor_within (touches.field _) (hfieldWork _)))))

theorem execBasinGrant_within {n : GrantNote} {s : State} (answers : Answers F) (touches : Touches F) (hdata : F .data)
    (hhubCore : F .hubCore) (hctx : ∀ x, F (.ctx x)) (hfieldFrame : ∀ x, F (.fieldFrame x)) (hfieldWork : ∀ x, F (.fieldWork x)) : Goes
    F s (execBasinGrant n s) := by
  refine ⟨_, rfl, ?_⟩
  split
  · split
    · exact .skip
    · exact matFail_within touches.toRaises (hctx _)
    · exact tryGrant_within answers touches hdata hhubCore hctx hfieldFrame hfieldWork
  · exact .skip

theorem stallBy_within {n f : Nat} (hfield : F (.field f)) (hfieldWork : F (.fieldWork f)) : (stallBy n f).Within F :=
  .field hfield (hw := .inl hfieldWork)

theorem holdStep_within {f c : Nat} {x : Ctx} {o : Op} {u : MatRun} {k n : Nat} (hctx : F (.ctx c)) (hfield : ∀ x, F (.field x))
    (hfieldWork : ∀ x, F (.fieldWork x)) : (holdStep f c x o u k n).Within F :=
  .ite (stallBy_within (hfield _) (hfieldWork _)) (.when (.cons (.each (fun _ => stallBy_within (hfield _) (hfieldWork _))) (.cons
    (onMat_within hctx) .nil)))

theorem lowerFx_within {v : State} {c : Nat} {o : Op} {u : MatRun} {g : Geo} {i f : Nat} {p : Pass} {ts : List PrismTile}
    (answers : Answers F) (touches : Touches F) (hdata : F .data) (hhubCore : F .hubCore) (hctx : F (.ctx c))
    (hfieldFrame : ∀ x, F (.fieldFrame x)) : (lowerFx v c o u g i f p ts).Within F :=
  .when (.cons (.each (fun _ => landPiece_within answers touches hdata hhubCore hctx (hfieldFrame _))) (.cons (countPrism_within
    touches.field) (.cons (progress_within (touches.field _)) .nil)))

theorem runPass_within {f c : Nat} {o : Op} {u : MatRun} {i : Nat} {ps : List Pass} {p : Pass} {rows : List TileRow} {n : PassNote}
    (answers : Answers F) (touches : Touches F) (hdata : F .data) (hhubCore : F .hubCore) (hbooks : F .books ∨ rows.length = 256)
    (hctx : F (.ctx c)) (hfieldFrame : ∀ x, F (.fieldFrame x)) (hfieldWork : ∀ x, F (.fieldWork x)) :
    (runPass f c o u i ps p rows n).Within F := by
  refine .look fun _ => ?_
  dsimp only
  split
  · exact .andThen (lowerFx_within answers touches hdata hhubCore hctx hfieldFrame) (matFail_within touches.toRaises hctx)
  · split
    · exact .cons (lowerFx_within answers touches hdata hhubCore hctx hfieldFrame) (.cons (.each (fun _ => touchRange_within touches))
        (.cons (matFail_within touches.toRaises hctx) .nil))
    · refine .cons (onRows_within (touches.field _) (hfieldWork _) (hbooks.imp_right fun h _ _ => h)) (.cons (.each (fun _ =>
        touchRange_within touches)) (.cons (lowerFx_within answers touches hdata hhubCore hctx hfieldFrame) (.cons (raiseEvs_within
        touches.toRaises) (.cons (onRows_within (touches.field _) (hfieldWork _) (.inr fun _ h => (List.length_map _).trans h)) (.cons
        (raiseEvs_within touches.toRaises) (.cons (.field (touches.field _) (hw := .inl (hfieldWork _))) (.cons (stallBy_within
        (touches.field _) (hfieldWork _)) (.cons (holdStep_within hctx touches.field hfieldWork) (.cons (takePreload_within touches) (.cons
        (progress_within (touches.field _)) (.cons (progress_within (touches.field _)) (.cons (onMat_within hctx) (.cons ?_
        .nil)))))))))))))
      split
      · exact matFail_within touches.toRaises hctx
      · exact matEnd_within touches.toRaises hctx hfieldWork

theorem execPassStart_within {field : Nat} {n : PassNote} {s : State} (answers : Answers F) (touches : Touches F) (hdata : F .data)
    (hhubCore : F .hubCore) (hbooks : F .books ∨ Books s) (hctx : ∀ x, F (.ctx x)) (hfieldFrame : ∀ x, F (.fieldFrame x))
    (hfieldWork : ∀ x, F (.fieldWork x)) : Goes F s (execPassStart field n s) := by
  refine ⟨_, rfl, ?_⟩
  split
  · exact .skip
  · dsimp only
    split
    · exact .skip
    · split
      · exact .skip
      · rename_i hrows
        refine .when ?_
        split
        · exact .skip
        · exact matFail_within touches.toRaises (hctx _)
        · exact .ite (matFail_within touches.toRaises (hctx _)) (runPass_within answers touches hdata hhubCore
            (hbooks.imp_right fun h => (length_placeRows hrows).trans (books_field h field).1) (hctx _) hfieldFrame hfieldWork)

theorem execPartialSend_within {field : Nat} {s : State} (raises : Raises F) (hditch : F .ditch) (hctx : ∀ x, F (.ctx x))
    (hfieldWork : ∀ x, F (.fieldWork x)) : Goes F s (execPartialSend field s) := by
  refine ⟨_, rfl, ?_⟩
  split
  · exact .skip
  · split
    · exact .skip
    · dsimp only
      split
      · exact matFail_within raises (hctx _)
      · exact .cons (raiseEvs_within raises) (.cons (.ditch hditch) (.cons (onRows_within (raises.field _) (hfieldWork _) (.inr fun _ h =>
          (List.length_modify ..).trans h)) (.cons (matEnd_within raises (hctx _) hfieldWork) .nil)))

/-- A partial that lands finds the rows of its field, one of which may have become its own. -/
theorem length_of_landing {s : State} {f : Nat} {p : Partial} {l : List TileRow} (h : s.landing f p = .rows l) :
    l.length = (s.field f).tileRows.length := by
  unfold State.landing at h
  split at h
  · cases h
  · split at h
    · cases h
    · dsimp only at h
      split at h
      · cases h
      · split at h
        · cases h
        · split at h
          · cases h
          · split at h
            · rename_i hrows
              cases h
              exact length_placeRows hrows
            · cases h

theorem execPartialArrival_within {field : Nat} {residue : List FaultSite} {s : State} (raises : Raises F) (hditch : F .ditch)
    (hbooks : F .books ∨ Books s) (hctx : ∀ x, F (.ctx x)) (hfieldWork : ∀ x, F (.fieldWork x)) : Goes F s
    (execPartialArrival field residue s) := by
  refine ⟨_, rfl, ?_⟩
  split
  · exact .skip
  · dsimp only
    split
    · exact .skip
    · exact .ditch hditch
    · rename_i l hl
      refine .ite (.andThen (.ditch hditch) ?_) (.cons (.ditch hditch) (.cons (raiseEvs_within raises) (.cons (onRows_within (raises.field
        _) (hfieldWork _) (hbooks.imp_right fun h _ _ => (List.length_modify ..).trans
          ((length_of_landing hl).trans (books_field h field).1))) (.cons (progress_within (raises.field _)) (.cons (raiseEvs_within
            raises) (.cons (matEnd_within raises (hctx _) hfieldWork) .nil))))))
      split
      · exact matFail_within raises (hctx _)
      · exact .skip

theorem emitTile_within {f c : Nat} {o : Op} {u : MatRun} {st : List (Nat × Nat × L128)} {bad : List Nat} {tidx : Nat}
    (answers : Answers F) (touches : Touches F) (hdata : F .data) (hhubCore : F .hubCore) (hctx : F (.ctx c))
    (hfieldFrame : ∀ x, F (.fieldFrame x)) (hfieldWork : F (.fieldWork (o.fields.headD 0))) : (emitTile f c o u st bad tidx).Within F := by
  refine .look fun _ => .ite .skip ?_
  split
  · exact .andThen (.each (fun _ => touchRange_within touches)) (matFail_within touches.toRaises hctx)
  · exact .cons (.each (fun _ => touchRange_within touches)) (.cons (landPiece_within answers touches hdata hhubCore hctx (hfieldFrame _))
      (.cons (.when (onMat_within hctx)) (.cons (onComparisons_within (touches.field _) hfieldWork) (.cons (.when (matFail_within
      touches.toRaises hctx)) .nil))))

theorem freeDrained_within {c : Nat} {q : U32} (hfield : ∀ x, F (.field x)) (hfieldWork : ∀ x, F (.fieldWork x)) :
    (freeDrained c q).Within F := by
  refine .look fun s => ?_
  split
  · exact .skip
  · split
    · exact .skip
    · exact .each fun r => onRows_within (hfield _) (hfieldWork _) (.inr fun _ h => (List.length_map _).trans h)

theorem drainRow_within {f t c : Nat} {o : Op} {u : MatRun} {i : Nat} {r : TileRow} {residue : List FaultSite} (answers : Answers F)
    (touches : Touches F) (hdata : F .data) (hhubCore : F .hubCore) (hctx : ∀ x, F (.ctx x)) (hfieldFrame : ∀ x, F (.fieldFrame x))
    (hfieldWork : ∀ x, F (.fieldWork x)) : (drainRow f t c o u i r residue).Within F :=
  .look fun _ => .cons (raiseEvs_within touches.toRaises) (.cons (onRows_within (touches.field _) (hfieldWork _) (.inr fun _ h =>
    (List.length_modify ..).trans h)) (.cons (progress_within (touches.field _)) (.cons (.each (fun _ => emitTile_within answers touches
    hdata hhubCore (hctx _) hfieldFrame (hfieldWork _))) (.cons (onMat_within (hctx _)) (.cons (freeDrained_within touches.field
    hfieldWork) (.cons (.ite (placeZero_within touches.toRaises hctx hfieldWork) (matEnd_within touches.toRaises (hctx _) hfieldWork))
    .nil))))))

theorem execDrainStart_within {field tileRow : Nat} {residue : List FaultSite} {s : State} (answers : Answers F) (touches : Touches F)
    (hdata : F .data) (hhubCore : F .hubCore) (hctx : ∀ x, F (.ctx x)) (hfieldFrame : ∀ x, F (.fieldFrame x))
    (hfieldWork : ∀ x, F (.fieldWork x)) : Goes F s (execDrainStart field tileRow residue s) := by
  refine ⟨_, rfl, ?_⟩
  split
  · exact .skip
  · refine .when ?_
    split
    · exact .skip
    · exact matFail_within touches.toRaises (hctx _)
    · exact drainRow_within answers touches hdata hhubCore hctx hfieldFrame hfieldWork

/-! ## Registers -/

theorem writeRegAt_within {code i v : Nat} (hevc : F .evc) (hfield : ∀ x, F (.field x)) (hfieldFrame : ∀ x, F (.fieldFrame x))
    (hstack : ∀ x, F (.stack x)) (hlink : ∀ x, F (.link x)) (hlinkFrame : ∀ x, F (.linkFrame x)) (hring : ∀ x, F (.ring x))
    (hringFrame : ∀ x, F (.ringFrame x)) : (writeRegAt code i v).Within F := by
  unfold writeRegAt
  split
  case h_1 | h_2 | h_3 | h_4 | h_5 => exact .field (hfield _) (hf := .inl (hfieldFrame _))
  case h_6 => exact .stack (hstack _)
  case h_7 | h_8 | h_9 => exact .link (hlink _) (hf := .inl (hlinkFrame _))
  case h_10 => exact .ring (hring _) (hf := .inl (hringFrame _))
  case h_11 => exact .evc hevc
  case h_12 => exact .skip

theorem writeReg_within {sel v : Nat} (raises : Raises F) (hfieldFrame : ∀ x, F (.fieldFrame x)) (hstack : ∀ x, F (.stack x))
    (hlink : ∀ x, F (.link x)) (hlinkFrame : ∀ x, F (.linkFrame x)) (hringFrame : ∀ x, F (.ringFrame x)) : (writeReg sel v).Within F :=
  .look fun _ => .when (writeRegAt_within raises.evc raises.field hfieldFrame hstack hlink hlinkFrame raises.ring hringFrame)

/-! ## Supply -/

theorem closeQps_within {cond : Nat → Bool} (hhub : F .hub) (hhubCore : F .hubCore) (hhubFrame : F .hubFrame) (hport : F .port)
    (hportFrame : F .portFrame) (hring : ∀ x, F (.ring x)) (hringFrame : ∀ x, F (.ringFrame x)) : (closeQps cond).Within F :=
  .cons (.port hport (hf := .inl hportFrame) (hw := .inr fun _ _ h => exists_kind_of_mem_map h fun _ => rfl)) (.cons (.hub hhub (hc := .inl
    hhubCore) (hf := .inl hhubFrame)) (.cons (.each (fun _ => .ring (hring _) (hf := .inl (hringFrame _)) (hb := .inr fun _ h => by split
    <;> exact h))) .nil))

theorem withThrottle_within {cause : Nat} {e : Fx} (he : e.Within F) (raises : Raises F) : (withThrottle cause e).Within F :=
  .look fun _ => .andThen he (.look fun _ => .each (fun _ => raise_within raises.evc (raises.field _) raises.ring))

theorem addMin_within {cause : Nat} (raises : Raises F) (hpower : F .power) : (addMin cause).Within F :=
  withThrottle_within (.power hpower) raises

theorem dropMin_within {cause : Nat} (hpower : F .power) : (dropMin cause).Within F :=
  .look fun _ => .when (.power hpower)

theorem checkSet_within (abort : Aborts F) (raises : Raises F) (hhubFrame : F .hubFrame) (hpower : F .power) (hctx : ∀ x, F (.ctx x)) :
    (checkSet).Within F :=
  .look fun _ => .ite .skip (.ite (.andThen (.hub abort.hub (hc := .inl abort.hubCore) (hf := .inl hhubFrame)) (dropMin_within hpower))
    (.when (.cons (.hub abort.hub (hc := .inl abort.hubCore) (hf := .inl hhubFrame)) (.cons (.each_mem (fun _ hx => tearCtx_within abort
    (.inr (List.mem_range.mp hx)) hctx)) (.cons (addMin_within raises hpower) .nil)))))

theorem losePower_within (hmem : F .mem) (hdata : F .data) (htiles : F .tiles) (hhub : F .hub) (hhubCore : F .hubCore)
    (hhubFrame : F .hubFrame) (hport : F .port) (hportFrame : F .portFrame) (hpower : F .power) (hevc : F .evc) (hditch : F .ditch)
    (hctx : ∀ x, F (.ctx x)) (hfield : ∀ x, F (.field x)) (hfieldFrame : ∀ x, F (.fieldFrame x)) (hfieldWork : ∀ x, F (.fieldWork x))
    (hstack : ∀ x, F (.stack x)) (hlink : ∀ x, F (.link x)) (hlinkFrame : ∀ x, F (.linkFrame x)) (hlinkTx : ∀ x, F (.linkTx x))
    (hlinkRx : ∀ x, F (.linkRx x)) (hlinkInject : ∀ x, F (.linkInject x)) (hlinkEntries : ∀ x, F (.linkEntries x))
    (hring : ∀ x, F (.ring x)) (hringFrame : ∀ x, F (.ringFrame x)) : losePower.Within F := by
  refine .cons (.memPoison hmem hdata htiles) (.cons (.hub hhub (.inl hhubCore) (.inl hhubFrame)) (.cons (.port hport (.inl hportFrame)
    (.inr fun _ _ h => ?_)) (.cons (.each fun c => .ctx (hctx c) (.inl htiles) (.inr fun _ h => ?_)) (.cons (.each fun f =>
    .field (hfield f) (.inl (hfieldFrame f)) (.inl (hfieldWork f)) (.inr fun _ _ => Field.reset_booked))
    (.cons (.each fun k => .stack (hstack k)) (.cons (.each fun i => .link (hlink i) (.inl (hlinkFrame i)) (.inl (hlinkTx i))
    (.inl (hlinkRx i)) (.inl (hlinkInject i)) (.inl (hlinkEntries i)) (.inr fun _ _ => Link.reset_booked))
    (.cons (.each fun r => .ring (hring r) (.inl (hringFrame r)) (.inr fun _ _ => Ring.reset_booked))
    (.cons (.evc hevc) (.cons (.ditch hditch) (.cons (.look fun _ => .power hpower) .nil))))))))))
  · simp [Port.reset] at h
  · simp [Ctx.Runs, Ctx.reset] at h

end Sys2Proof.Machine

/-! The places of the effects of the model: the rows of host commands. -/
namespace Sys2Proof.Machine

-- The default proofs of the side conditions are evaluated only once all lemmas before are checked: in order, none waits in a thread of
-- its own.
set_option Elab.async false

variable {F : Place → Prop}

/-! ## HostPort -/

theorem Cmd.ans_within {k : Cmd} {status : Nat} {result : List Byte} (sends : Sends F) (hout : F .out) :
    (Cmd.ans k status result).Within F :=
  reply_within sends hout

theorem Cmd.done_within {k : Cmd} {status : Nat} (sends : Sends F) (hout : F .out) : (Cmd.done k status).Within F :=
  Cmd.ans_within sends hout

theorem Cmd.waits_within {k : Cmd} {kind : WaitKind} (hport : F .port) (hwaits : F .waits) : (Cmd.waits k kind).Within F :=
  .port hport (hw := .inl hwaits)

theorem startCmd_within {run : Cmd → Fx} {k : Cmd} {info : CmdInfo} (hrun : ∀ x0, (run x0).Within F) (answers : Answers F) :
    (startCmd run k info).Within F := by
  refine .look fun _ => ?_
  split
  · exact Cmd.done_within answers.toSends answers.out
  · exact .ite (.port answers.port) (.ite (hrun _) (Cmd.done_within answers.toSends answers.out))

theorem Cmd.parityFailed_within {k : Cmd} {z : ParityFault} (hevc : F .evc) (hfield : F (.field (448 / 56))) (hring : ∀ x, F (.ring x))
    : (Cmd.parityFailed k z).Within F :=
  parityEvent_within hevc hfield hring

theorem relayOut_within {dest : Dest} {m : HostMsg} (answers : Answers F) (hhubCore : F .hubCore) (hwaits : F .waits) :
    (relayOut dest m).Within F := by
  refine .look fun _ => .ite (Cmd.done_within answers.toSends answers.out) (.ite (Cmd.done_within answers.toSends answers.out) ?_)
  split
  · exact Cmd.done_within answers.toSends answers.out
  · exact withTag_within (fun _ => .andThen (.port answers.port (hw := .inl hwaits)) (injectAt_within (answers.link _) (answers.linkInject
      _))) answers.hub hhubCore

theorem checkCmd_within {run : Cmd → Fx} {relayed : Bool} {dest : Dest} {m : HostMsg} (hrun : ∀ x0, (run x0).Within F)
    (answers : Answers F) (hhubCore : F .hubCore) (hwaits : F .waits) (hevc : F .evc) (hfield : F (.field (448 / 56)))
    (hring : ∀ x, F (.ring x)) : (checkCmd run relayed dest m).Within F := by
  refine .look fun _ => .ite (reply_within answers.toSends answers.out) ?_
  split
  · exact .andThen (Cmd.parityFailed_within hevc hfield hring) (Cmd.done_within answers.toSends answers.out)
  · exact Cmd.done_within answers.toSends answers.out
  · exact Cmd.done_within answers.toSends answers.out
  · exact .ite (relayOut_within answers hhubCore hwaits) (.ite (startCmd_within (fun _ => (hrun _)) answers) (Cmd.done_within
      answers.toSends answers.out))

theorem receive_within {qp : Nat} {fx : Fx} (hfx : fx.Within F) (hout : F .out) : (receive qp fx).Within F :=
  .look fun _ => .when (.ite (.emit hout) hfx)

theorem hostRow_within {op : Nat} {run : Cmd → Fx} {m : HostMsg} (hrun : ∀ x0, (run x0).Within F) (answers : Answers F)
    (hhubCore : F .hubCore) (hwaits : F .waits) (hevc : F .evc) (hfield : F (.field (448 / 56))) (hring : ∀ x, F (.ring x)) :
    (hostRow op run m).Within F :=
  .when (receive_within (checkCmd_within (fun _ => (hrun _)) answers hhubCore hwaits hevc hfield hring) answers.out)

/-! ## Lifecycle -/

theorem teardownEvent_within {c : Nat} (hevc : F .evc) (hfield : F (.field (448 / 56))) (hring : ∀ x, F (.ring x)) :
    (teardownEvent c).Within F :=
  .look fun _ => raise_within hevc hfield hring

theorem teardownWaits_within {c : Nat} (answers : Answers F) (hwaits : F .waits) : (teardownWaits c).Within F :=
  .cons (finishWaits_within answers) (.cons (.port answers.port (hw := .inl hwaits)) (.cons (finishWaits_within answers) .nil))

theorem endTeardown_within {c : Nat} (answers : Answers F) (hwaits : F .waits) (hevc : F .evc) (hctx : F (.ctx c))
    (hfield : F (.field (448 / 56))) (hring : ∀ x, F (.ring x)) : (endTeardown c).Within F :=
  .look fun _ => .when (.cons (teardownEvent_within hevc hfield hring) (.cons (.ctx hctx (hr := .inr fun _ h => (Ctx.not_quarantined_runs _
    _ h).elim)) (.cons (teardownWaits_within answers hwaits) .nil)))

theorem endQuarantine_within {c : Nat} (hctx : F (.ctx c)) (hfield : ∀ x, F (.field x)) : (endQuarantine c).Within F :=
  .cons (.ctx hctx (hq := .inr fun _ _ => Ctx.freed_quiet _) (hr := .inr fun _ h => (Ctx.not_freed_runs _ h).elim)) (.cons (.each (fun _ =>
    .field (hfield _) (hb := .inr fun _ h => ⟨h.1, h.2.1, Field.booked_movers h fun _ => Nat.add_le_add_left (List.length_filter_le _ _)
    _⟩))) .nil)

theorem endTransitions_within {f : Nat} (answers : Answers F) (hmem : F .mem) (hdata : F .data) (htiles : F .tiles)
    (hfield : F (.field f)) (hfieldFrame : F (.fieldFrame f)) : (endTransitions f).Within F :=
  .each (fun _ => .each (fun _ => endTransition_within answers hmem hdata htiles hfield hfieldFrame))

theorem finishFieldReset_within {f : Nat} {found : ResetCheck} (answers : Answers F) (touches : Touches F) (hdata : F .data)
    (hhubCore : F .hubCore) (hhubFrame : F .hubFrame) (hfieldFrame : F (.fieldFrame f)) (hfieldWork : F (.fieldWork f))
    (hlinkEntries : ∀ x, F (.linkEntries x)) : (finishFieldReset f found).Within F :=
  .andThen (endTransitions_within answers touches.mem hdata touches.tiles (touches.field _) hfieldFrame) (.andThen (.hub answers.hub (hc :=
    .inl hhubCore) (hf := .inl hhubFrame)) (.look fun _ => .cons (poisonField_within touches.mem hdata touches.tiles) (.cons (.field
    (touches.field _) (hf := .inl hfieldFrame) (hw := .inl hfieldWork) (hb := .inr fun _ h => Field.afterReset_booked _ _ _ h)) (.cons
    (.each (fun _ => .stack (touches.stack _))) (.cons (.each (fun _ => resetSluice_within touches.field answers.link (hlinkEntries _)))
    (.cons (.when (raise_within touches.evc (touches.field _) touches.ring)) (.cons (.ite (failField_within answers touches.toRaises
    hfieldFrame touches.stack) (.andThen (fieldChange_within touches.evc (touches.field _) touches.ring) (finishWaits_within answers)))
    .nil)))))))

theorem dropReceived_within {i : Nat} (abort : Aborts F) (hctx : ∀ x, F (.ctx x)) (hlinkRx : F (.linkRx i)) : (dropReceived i).Within F :=
  .look fun _ => .andThen (.each (fun _ => takePacket_within abort.hub (abort.field _) abort.link hlinkRx)) (.each (fun _ =>
    abortJob_within abort hctx))

theorem startTraining_within {i : Nat} (abort : Aborts F) (hctx : ∀ x, F (.ctx x)) (hlinkFrame : F (.linkFrame i))
    (hlinkRx : ∀ x, F (.linkRx x)) : (startTraining i).Within F :=
  .andThen (dropReceived_within abort hctx (hlinkRx _)) (dropLink_within abort hctx hlinkFrame hlinkRx)

theorem returnBlocks_within {i : Nat} (hlink : ∀ x, F (.link x)) (hfield : F (.field (i / 4))) : (returnBlocks i).Within F :=
  .look fun _ => .andThen (.link (hlink i))
    (.andThen (.field hfield (hb := .inr fun _ h => ⟨h.1, (Nat.sub_le _ _).trans h.2.1, h.2.2⟩))
      (.each fun _ => grantBlock_within hlink hfield))

theorem trainingWaits_within (answers : Answers F) : (trainingWaits).Within F :=
  .look fun _ => .andThen (.port answers.port (hw := .inr fun _ w h => ⟨w, (List.mem_filter.mp h).1, rfl⟩)) (.each (fun _ =>
    Wait.answer_within answers.toSends answers.out))

theorem retrainLinks_within (abort : Aborts F) (hhubFrame : F .hubFrame) (hctx : ∀ x, F (.ctx x)) (hlinkFrame : ∀ x, F (.linkFrame x))
    (hlinkRx : ∀ x, F (.linkRx x)) : (retrainLinks).Within F :=
  .look fun _ => .when (.andThen (.hub abort.hub (hc := .inl abort.hubCore) (hf := .inl hhubFrame)) (.each (fun _ => startTraining_within
    abort hctx (hlinkFrame _) hlinkRx)))

theorem checkWarm_within (abort : Aborts F) (raises : Raises F) (hhubFrame : F .hubFrame) (hwaits : F .waits) (hctx : ∀ x, F (.ctx x))
    (hlinkFrame : ∀ x, F (.linkFrame x)) (hlinkRx : ∀ x, F (.linkRx x)) : (checkWarm).Within F :=
  .andThen (retrainLinks_within abort hhubFrame hctx hlinkFrame hlinkRx) (.look fun _ => .when (.cons (.hub abort.hub (hc := .inl
    abort.hubCore) (hf := .inl hhubFrame)) (.cons (.each (fun _ => endTeardown_within abort.toAnswers hwaits raises.evc (hctx _)
    (abort.field _) raises.ring)) (.cons (.each (fun _ => .ctx (hctx _) (hr := .inr fun _ h => (Ctx.not_quarantined_runs _ _ h).elim)))
    (.cons (finishWaits_within abort.toAnswers) .nil)))))

theorem trainStack_within {k : Nat} (hmem : F .mem) (hdata : F .data) (htiles : F .tiles) (hstack : F (.stack k)) :
    (trainStack k).Within F :=
  .andThen (.memPoison hmem hdata htiles) (.stack hstack)

theorem startWarm_within {found : BootCheck} (abort : Aborts F) (touches : Touches F) (hhubFrame : F .hubFrame)
    (hportFrame : F .portFrame) (hwaits : F .waits) (hditch : F .ditch) (hctx : ∀ x, F (.ctx x)) (hfieldFrame : ∀ x, F (.fieldFrame x))
    (hlinkFrame : ∀ x, F (.linkFrame x)) (hlinkRx : ∀ x, F (.linkRx x)) (hringFrame : ∀ x, F (.ringFrame x)) : (startWarm found).Within
    F :=
  .look fun _ => .cons (.each (fun _ => abortJob_within abort hctx)) (.cons (.each_mem (fun _ hx => tearCtx_within abort (.inr
    (List.mem_range.mp hx)) hctx)) (.cons (.hub abort.hub (hc := .inl abort.hubCore) (hf := .inl hhubFrame)) (.cons (.ite (.hub abort.hub
    (hc := .inl abort.hubCore) (hf := .inl hhubFrame)) (.cons (.hub abort.hub (hc := .inl abort.hubCore) (hf := .inl hhubFrame)) (.cons
    (.look fun _ => .ite (.cons (.when (raise_within touches.evc (abort.field _) touches.ring)) (.cons (.hub abort.hub (hc := .inl
    abort.hubCore) (hf := .inl hhubFrame)) (.cons (.each (fun _ => trainStack_within abort.mem abort.data touches.tiles (touches.stack _)))
    (.cons (.each (fun _ => fenceField_within abort touches.toRaises hditch hctx (hfieldFrame _) hlinkFrame hlinkRx)) .nil)))) (.cons (.hub
    abort.hub (hc := .inl abort.hubCore) (hf := .inl hhubFrame)) (.cons (closeQps_within abort.hub abort.hubCore hhubFrame abort.port
    hportFrame touches.ring hringFrame) (.cons (.each (fun _ => fenceField_within abort touches.toRaises hditch hctx (hfieldFrame _)
    hlinkFrame hlinkRx)) .nil)))) (.cons (checkWarm_within abort touches.toRaises hhubFrame hwaits hctx hlinkFrame hlinkRx) .nil)))) .nil)))

/-! ## HostModule -/

theorem modInfo_within {k : Cmd} (sends : Sends F) (hout : F .out) : (modInfo k).Within F :=
  .look fun _ => Cmd.ans_within sends hout

theorem attest_within {k : Cmd} (sends : Sends F) (hout : F .out) : (attest k).Within F :=
  .look fun _ => Cmd.ans_within sends hout

theorem certRead_within {k : Cmd} (sends : Sends F) (hout : F .out) : (certRead k).Within F :=
  .ite (Cmd.ans_within sends hout) (Cmd.done_within sends hout)

theorem cycleRead_within {k : Cmd} (sends : Sends F) (hout : F .out) : (cycleRead k).Within F :=
  .look fun _ => Cmd.ans_within sends hout

theorem hostWindow_within {k : Cmd} (sends : Sends F) (hout : F .out) (hhubCore : F .hubCore) (hhubFrame : F .hubFrame) :
    (hostWindow k).Within F :=
  .ite (Cmd.done_within sends hout) (.andThen (.hub sends.hub (hc := .inl hhubCore) (hf := .inl hhubFrame)) (Cmd.done_within sends hout))

theorem relayCfg_within {k : Cmd} (sends : Sends F) (hout : F .out) (hhubCore : F .hubCore) (hhubFrame : F .hubFrame) :
    (relayCfg k).Within F :=
  .ite (Cmd.done_within sends hout) (.andThen (.hub sends.hub (hc := .inl hhubCore) (hf := .inl hhubFrame)) (Cmd.done_within sends hout))

theorem ringSet_within {k : Cmd} (sends : Sends F) (hout : F .out) (hevc : F .evc) (hring : F (.ring (k.p 16 1)))
    (hringFrame : F (.ringFrame (k.p 16 1))) : (ringSet k).Within F :=
  .look fun _ => .ite (Cmd.done_within sends hout) (.cons (.ring hring (hf := .inl hringFrame) (hb := .inr fun _ _ => Ring.reset_booked))
    (.cons (refillRing_within hevc hring) (.cons (Cmd.done_within sends hout) .nil)))

theorem powerSet_within {k : Cmd} (sends : Sends F) (raises : Raises F) (hout : F .out) (hpower : F .power)
    (hfieldFrame : ∀ x, F (.fieldFrame x)) : (powerSet k).Within F :=
  .look fun _ => .ite (Cmd.done_within sends hout) (.ite (Cmd.done_within sends hout) (.cons (withThrottle_within (.cons (.power hpower)
    (.cons (.each (fun _ => .when (.field (raises.field _) (hf := .inl (hfieldFrame _))))) .nil)) raises) (.cons (.look fun _ =>
    Cmd.ans_within sends hout) .nil)))

theorem regRead_within {k : Cmd} (sends : Sends F) (hout : F .out) (hevc : F .evc) (hfield : F (.field (448 / 56)))
    (hring : ∀ x, F (.ring x)) : (regRead k).Within F :=
  .look fun _ => .ite (.andThen (.each (fun _ => Cmd.parityFailed_within hevc hfield hring)) (Cmd.done_within sends hout)) (.ite
    (Cmd.ans_within sends hout) (Cmd.done_within sends hout))

theorem regWrite_within {k : Cmd} (sends : Sends F) (raises : Raises F) (hout : F .out) (hfieldFrame : ∀ x, F (.fieldFrame x))
    (hstack : ∀ x, F (.stack x)) (hlinkFrame : ∀ x, F (.linkFrame x)) (hringFrame : ∀ x, F (.ringFrame x)) : (regWrite k).Within F :=
  .ite (.andThen (.each (fun _ => Cmd.parityFailed_within raises.evc (raises.field _) raises.ring)) (Cmd.done_within sends hout)) (.ite
    (.andThen (.each (fun _ => writeReg_within raises hfieldFrame hstack sends.link hlinkFrame hringFrame)) (Cmd.done_within sends hout))
    (Cmd.done_within sends hout))

theorem nodeSet_within {k : Cmd} (sends : Sends F) (hout : F .out) (hhubCore : F .hubCore) (hhubFrame : F .hubFrame) :
    (nodeSet k).Within F :=
  .look fun _ => .ite (Cmd.done_within sends hout) (.andThen (.hub sends.hub (hc := .inl hhubCore) (hf := .inl hhubFrame)) (Cmd.done_within
    sends hout))

theorem routeWrite_within {k : Cmd} (sends : Sends F) (hout : F .out) (hhubCore : F .hubCore) (hhubFrame : F .hubFrame) :
    (routeWrite k).Within F :=
  .ite (Cmd.done_within sends hout) (.andThen (.hub sends.hub (hc := .inl hhubCore) (hf := .inl hhubFrame)) (Cmd.done_within sends hout))

theorem linkTrain_within {k : Cmd} (abort : Aborts F) (raises : Raises F) (hhubFrame : F .hubFrame) (hwaits : F .waits)
    (hpower : F .power) (hctx : ∀ x, F (.ctx x)) (hlinkFrame : ∀ x, F (.linkFrame x)) (hlinkRx : ∀ x, F (.linkRx x)) :
    (linkTrain k).Within F :=
  .look fun _ => withInBand_within (.cons (.each (fun _ => startTraining_within abort hctx (hlinkFrame _) hlinkRx)) (.cons
    (Cmd.waits_within abort.port hwaits) (.cons (trainingWaits_within abort.toAnswers) (.cons (checkSet_within abort raises hhubFrame
    hpower hctx) .nil)))) abort.out

theorem linkFence_within {k : Cmd} (abort : Aborts F) (raises : Raises F) (hhubFrame : F .hubFrame) (hpower : F .power)
    (hctx : ∀ x, F (.ctx x)) (hlinkFrame : ∀ x, F (.linkFrame x)) (hlinkRx : ∀ x, F (.linkRx x)) : (linkFence k).Within F :=
  .look fun _ => withInBand_within (.cons (.each (fun _ => fenceLink_within abort raises hctx (hlinkFrame _) hlinkRx)) (.cons
    (trainingWaits_within abort.toAnswers) (.cons (Cmd.done_within abort.toSends abort.out) (.cons (checkSet_within abort raises hhubFrame
    hpower hctx) .nil)))) abort.out

theorem sluRead_within {k : Cmd} (sends : Sends F) (hout : F .out) : (sluRead k).Within F :=
  .look fun _ => .ite (Cmd.done_within sends hout) (Cmd.ans_within sends hout)

theorem setPower_within {k : Cmd} (answers : Answers F) (hwaits : F .waits) (hfield : F (.field (k.p 0 1)))
    (hfieldFrame : F (.fieldFrame (k.p 0 1))) : (setPower k).Within F := by
  refine .look fun _ => .ite (Cmd.done_within answers.toSends answers.out) (.ite (Cmd.done_within answers.toSends answers.out) ?_)
  split
  · exact .ite (Cmd.done_within answers.toSends answers.out) (.andThen (.field hfield (hf := .inl hfieldFrame)) (Cmd.waits_within
      answers.port hwaits))
  · exact .ite (Cmd.done_within answers.toSends answers.out) (.andThen (.field hfield (hf := .inl hfieldFrame)) (Cmd.waits_within
      answers.port hwaits))

/-! ## HostContext -/

theorem create_within {k : Cmd} (sends : Sends F) (hout : F .out) (hevc : F .evc) (hruns : F .runs) (hctx : F (.ctx k.ctx))
    (hring : F (.ring k.ctx)) (hringFrame : F (.ringFrame k.ctx)) : (create k).Within F :=
  .look fun _ => .ite (Cmd.done_within sends hout) (.cons (.ctx hctx (hq := .inr fun _ _ => createdCtx_quiet _ _) (hr := .inl hruns))
    (.cons (.ring hring (hf := .inl hringFrame) (hb := .inr fun _ _ => Ring.reset_booked)) (.cons (refillRing_within hevc hring) (.cons
    (Cmd.ans_within sends hout) .nil))))

theorem destroy_within {k : Cmd} (abort : Aborts F) (htiles : F .tiles) (hwaits : F .waits) (hctx : ∀ x, F (.ctx x)) :
    (destroy k).Within F := by
  refine .look fun _ => ?_
  split
  · exact Cmd.done_within abort.toSends abort.out
  · exact Cmd.done_within abort.toSends abort.out
  · exact Cmd.waits_within abort.port hwaits
  · exact .andThen (tearCtx_within abort (.inl htiles) hctx) (Cmd.waits_within abort.port hwaits)

theorem dropPreloads_within {c : Nat} (hfield : ∀ x, F (.field x)) : (dropPreloads c).Within F :=
  .look fun _ => .each (fun _ => .field (hfield _))

theorem resume_within {k : Cmd} (sends : Sends F) (hout : F .out) (hruns : F .runs) (hctx : F (.ctx k.ctx)) (hfield : ∀ x, F (.field x))
    : (resume k).Within F :=
  .look fun _ => .ite (Cmd.done_within sends hout) (.cons (.ctx hctx (hq := .inr fun _ => Ctx.resumed_quiet _) (hr := .inl hruns)) (.cons
    (dropPreloads_within hfield) (.cons (Cmd.done_within sends hout) .nil)))

theorem seedSet_within {k : Cmd} (sends : Sends F) (hout : F .out) (hctx : F (.ctx k.ctx)) : (seedSet k).Within F :=
  .ite (Cmd.done_within sends hout) (.andThen (.ctx hctx) (Cmd.done_within sends hout))

theorem keeperWrite_within {k : Cmd} (sends : Sends F) (hout : F .out) (hctx : F (.ctx k.ctx)) : (keeperWrite k).Within F :=
  .ite (Cmd.done_within sends hout) (.andThen (.ctx hctx) (Cmd.done_within sends hout))

theorem keeperRead_within {k : Cmd} (sends : Sends F) (hout : F .out) : (keeperRead k).Within F :=
  .look fun _ => .ite (Cmd.done_within sends hout) (Cmd.ans_within sends hout)

theorem ctxQuery_within {k : Cmd} (sends : Sends F) (hout : F .out) : (ctxQuery k).Within F :=
  .look fun _ => Cmd.ans_within sends hout

theorem statsRead_within {k : Cmd} (sends : Sends F) (hout : F .out) : (statsRead k).Within F :=
  .look fun _ => .ite (Cmd.done_within sends hout) (Cmd.ans_within sends hout)

theorem jobAbort_within {k : Cmd} (abort : Aborts F) (hwaits : F .waits) (hctx : ∀ x, F (.ctx x)) : (jobAbort k).Within F :=
  .ite (Cmd.done_within abort.toSends abort.out) (.andThen (abortJob_within abort hctx) (.look fun _ => .ite (Cmd.done_within abort.toSends
    abort.out) (Cmd.waits_within abort.port hwaits)))

theorem descLoad_within {k : Cmd} (sends : Sends F) (raises : Raises F) (hout : F .out) (hctx : F (.ctx k.ctx)) : (descLoad k).Within F :=
  .look fun _ => .ite (Cmd.done_within sends hout) (.cons (.ctx hctx) (.cons (dropPreloads_within raises.field) (.cons (.each (fun _ =>
    Cmd.parityFailed_within raises.evc (raises.field _) raises.ring)) (.cons (Cmd.ans_within sends hout) .nil))))

theorem submitRecords_within {c tag : Nat} {bad : Option ParityFault} {rs : List (List Byte)} {answer : Nat → List Byte → Fx}
    (hanswer : ∀ x0 x1, (answer x0 x1).Within F) (hevc : F .evc) (hctx : F (.ctx c)) (hfield : F (.field (448 / 56)))
    (hring : ∀ x, F (.ring x)) : (submitRecords c tag bad rs answer).Within F :=
  .look fun _ => .cons (.each (fun _ => parityEvent_within hevc hfield hring)) (.cons (.when (.ctx hctx)) (.cons (.look fun _ => (hanswer _
    _)) .nil))

theorem submit_within {k : Cmd} (sends : Sends F) (hout : F .out) (hevc : F .evc) (hctx : F (.ctx k.ctx))
    (hfield : F (.field (448 / 56))) (hring : ∀ x, F (.ring x)) : (submit k).Within F :=
  submitRecords_within (fun _ _ => Cmd.ans_within sends hout) hevc hctx hfield hring

theorem askHost_within {qp : Nat} {key : U32} {va len : Nat} {tag : U32} (hout : F .out) (hport : F .port) :
    (askHost qp key va len tag).Within F :=
  .look fun _ => .andThen (.port hport) (.when (.emit hout))

theorem askNext_within {qp : Nat} (hout : F .out) (hport : F .port) (hfield : ∀ x, F (.field x)) : (askNext qp).Within F := by
  refine .look fun _ => ?_
  split
  · exact .andThen (.port hport) (.andThen (.emit hout) (startDescriptor_within hfield))
  · exact .skip

theorem hostAnswers_within {tag : U32} {n : Nat} (hout : F .out) (hport : F .port) (hfield : ∀ x, F (.field x)) :
    (hostAnswers tag n).Within F := by
  refine .look fun _ => ?_
  split
  · exact .ite (.port hport) (.andThen (.port hport) (askNext_within hout hport hfield))
  · exact .skip

theorem hostRead_within {k : Cmd} {kind : WaitKind} {ga len : Nat} (answers : Answers F) (hhubCore : F .hubCore) (hwaits : F .waits) :
    (hostRead k kind ga len).Within F := by
  refine .look fun _ => ?_
  split
  · exact Cmd.done_within answers.toSends answers.out
  · exact withTag_within (fun _ => .andThen (.port answers.port (hw := .inl hwaits)) (askHost_within answers.out answers.port)) answers.hub
      hhubCore

theorem submitHost_within {k : Cmd} (answers : Answers F) (hhubCore : F .hubCore) (hwaits : F .waits) : (submitHost k).Within F :=
  .ite (Cmd.done_within answers.toSends answers.out) (hostRead_within answers hhubCore hwaits)

/-! ## HostService -/

theorem moduleReset_within {k : Cmd} (abort : Aborts F) (touches : Touches F) (hhubFrame : F .hubFrame) (hportFrame : F .portFrame)
    (hwaits : F .waits) (hditch : F .ditch) (hctx : ∀ x, F (.ctx x)) (hfieldFrame : ∀ x, F (.fieldFrame x))
    (hlinkFrame : ∀ x, F (.linkFrame x)) (hlinkRx : ∀ x, F (.linkRx x)) (hringFrame : ∀ x, F (.ringFrame x)) : (moduleReset k).Within F :=
  .look fun _ => .andThen (Cmd.waits_within abort.port hwaits) (withInBand_within (startWarm_within abort touches hhubFrame hportFrame
    hwaits hditch hctx hfieldFrame hlinkFrame hlinkRx hringFrame) abort.out)

theorem fieldTest_within {k : Cmd} (answers : Answers F) (hwaits : F .waits) (hfield : F (.field (k.p 0 1)))
    (hfieldFrame : F (.fieldFrame (k.p 0 1))) : (fieldTest k).Within F :=
  .look fun _ => .ite (Cmd.done_within answers.toSends answers.out) (.ite (Cmd.done_within answers.toSends answers.out) (.ite
    (Cmd.done_within answers.toSends answers.out) (.andThen (.field hfield (hf := .inl hfieldFrame)) (Cmd.waits_within answers.port
    hwaits))))

theorem fieldReset_within {k : Cmd} (abort : Aborts F) (raises : Raises F) (hhubFrame : F .hubFrame) (hwaits : F .waits)
    (hpower : F .power) (hditch : F .ditch) (hctx : ∀ x, F (.ctx x)) (hfieldFrame : F (.fieldFrame (k.p 0 1)))
    (hlinkFrame : ∀ x, F (.linkFrame x)) (hlinkRx : ∀ x, F (.linkRx x)) : (fieldReset k).Within F :=
  .look fun _ => .ite (Cmd.done_within abort.toSends abort.out) (.ite (Cmd.done_within abort.toSends abort.out) (.ite (Cmd.waits_within
    abort.port hwaits) (.cons (Cmd.waits_within abort.port hwaits) (.cons (withInBand_within (.andThen (fenceField_within abort raises
    hditch hctx hfieldFrame hlinkFrame hlinkRx) (checkSet_within abort raises hhubFrame hpower hctx)) abort.out) .nil))))

theorem repairWrite_within {k : Cmd} (sends : Sends F) (hout : F .out) (hhubCore : F .hubCore) (hhubFrame : F .hubFrame) :
    (repairWrite k).Within F :=
  .look fun _ => .ite (Cmd.done_within sends hout) (.ite (Cmd.done_within sends hout) (.andThen (.hub sends.hub (hc := .inl hhubCore) (hf
    := .inl hhubFrame)) (Cmd.done_within sends hout)))

theorem repairClear_within {k : Cmd} (sends : Sends F) (hout : F .out) (hhubCore : F .hubCore) (hhubFrame : F .hubFrame) :
    (repairClear k).Within F :=
  .ite (.andThen (.hub sends.hub (hc := .inl hhubCore) (hf := .inl hhubFrame)) (Cmd.done_within sends hout)) (.ite (Cmd.done_within sends
    hout) (.andThen (.hub sends.hub (hc := .inl hhubCore) (hf := .inl hhubFrame)) (Cmd.done_within sends hout)))

theorem hbmRetire_within {k : Cmd} (abort : Aborts F) (raises : Raises F) (hhubFrame : F .hubFrame) (hwaits : F .waits)
    (hpower : F .power) (hctx : ∀ x, F (.ctx x)) (hstack : F (.stack (k.p 0 1))) : (hbmRetire k).Within F :=
  .look fun _ => .ite (Cmd.done_within abort.toSends abort.out) (.ite (Cmd.done_within abort.toSends abort.out) (.andThen (.stack hstack)
    (.andThen (Cmd.waits_within abort.port hwaits) (checkSet_within abort raises hhubFrame hpower hctx))))

theorem mirrorRegion_within {k : Cmd} (sends : Sends F) (hout : F .out) (hhubCore : F .hubCore) (hhubFrame : F .hubFrame) :
    (mirrorRegion k).Within F :=
  .look fun _ => .ite (Cmd.done_within sends hout) (.ite (.andThen (.hub sends.hub (hc := .inl hhubCore) (hf := .inl hhubFrame))
    (Cmd.done_within sends hout)) (.ite (Cmd.done_within sends hout) (.andThen (.hub sends.hub (hc := .inl hhubCore) (hf := .inl
    hhubFrame)) (Cmd.done_within sends hout))))

theorem mirrorCopy_within {k : Cmd} (answers : Answers F) (hhubCore : F .hubCore) (hwaits : F .waits) (hfield : F (.field (k.p 0 1))) :
    (mirrorCopy k).Within F :=
  .look fun _ => .ite (Cmd.done_within answers.toSends answers.out) (.ite (Cmd.done_within answers.toSends answers.out) (.cons (.hub
    answers.hub (hc := .inl hhubCore)) (.cons (Cmd.waits_within answers.port hwaits) (.cons (progress_within hfield) .nil))))

theorem takeover_within {k : Cmd} (sends : Sends F) (hout : F .out) (hhubCore : F .hubCore) (hhubFrame : F .hubFrame) :
    (takeover k).Within F := by
  refine .look fun _ => .ite (Cmd.done_within sends hout) (.ite (Cmd.done_within sends hout) (.ite (Cmd.done_within sends hout) (.cons
    (.hub sends.hub (hc := .inl hhubCore) (hf := .inl hhubFrame)) (.cons ?_ (.cons (Cmd.done_within sends hout) .nil)))))
  split
  · exact .hub sends.hub (hc := .inl hhubCore) (hf := .inl hhubFrame)
  · exact .skip

theorem fwUpdate_within {k : Cmd} (answers : Answers F) (hhubCore : F .hubCore) (hwaits : F .waits) : (fwUpdate k).Within F :=
  .look fun _ => .ite (Cmd.done_within answers.toSends answers.out) (.ite (Cmd.done_within answers.toSends answers.out) (hostRead_within
    answers hhubCore hwaits))

theorem endUpdate_within {w : Wait} {kind : Nat} {bs : List Byte} (sends : Sends F) (hout : F .out) (hhubCore : F .hubCore)
    (hhubFrame : F .hubFrame) : (endUpdate w kind bs).Within F :=
  .look fun _ => .ite (Wait.answer_within sends hout) (.ite (Wait.answer_within sends hout) (.andThen (.hub sends.hub (hc := .inl hhubCore)
    (hf := .inl hhubFrame)) (Wait.answer_within sends hout)))

theorem runCmd_within {k : Cmd} (abort : Aborts F) (touches : Touches F) (hhubFrame : F .hubFrame) (hportFrame : F .portFrame)
    (hwaits : F .waits) (hpower : F .power) (hditch : F .ditch) (hruns : F .runs) (hctx : ∀ x, F (.ctx x))
    (hfieldFrame : ∀ x, F (.fieldFrame x)) (hlinkFrame : ∀ x, F (.linkFrame x)) (hlinkRx : ∀ x, F (.linkRx x))
    (hringFrame : ∀ x, F (.ringFrame x)) : (runCmd k).Within F := by
  unfold runCmd
  split
  · exact modInfo_within abort.toSends abort.out
  · exact moduleReset_within abort touches hhubFrame hportFrame hwaits hditch hctx hfieldFrame hlinkFrame hlinkRx hringFrame
  · exact hostWindow_within abort.toSends abort.out abort.hubCore hhubFrame
  · exact relayCfg_within abort.toSends abort.out abort.hubCore hhubFrame
  · exact powerSet_within abort.toSends touches.toRaises abort.out hpower hfieldFrame
  · exact ringSet_within abort.toSends abort.out touches.evc (touches.ring _) (hringFrame _)
  · exact create_within abort.toSends abort.out touches.evc hruns (hctx _) (touches.ring _) (hringFrame _)
  · exact destroy_within abort touches.tiles hwaits hctx
  · exact resume_within abort.toSends abort.out hruns (hctx _) abort.field
  · exact seedSet_within abort.toSends abort.out (hctx _)
  · exact keeperWrite_within abort.toSends abort.out (hctx _)
  · exact keeperRead_within abort.toSends abort.out
  · exact ctxQuery_within abort.toSends abort.out
  · exact statsRead_within abort.toSends abort.out
  · exact jobAbort_within abort hwaits hctx
  · exact descLoad_within abort.toSends touches.toRaises abort.out (hctx _)
  · exact submit_within abort.toSends abort.out touches.evc (hctx _) (abort.field _) touches.ring
  · exact submitHost_within abort.toAnswers abort.hubCore hwaits
  · exact setPower_within abort.toAnswers hwaits (abort.field _) (hfieldFrame _)
  · exact nodeSet_within abort.toSends abort.out abort.hubCore hhubFrame
  · exact routeWrite_within abort.toSends abort.out abort.hubCore hhubFrame
  · exact linkTrain_within abort touches.toRaises hhubFrame hwaits hpower hctx hlinkFrame hlinkRx
  · exact linkFence_within abort touches.toRaises hhubFrame hpower hctx hlinkFrame hlinkRx
  · exact sluRead_within abort.toSends abort.out
  · exact fieldTest_within abort.toAnswers hwaits (abort.field _) (hfieldFrame _)
  · exact fieldReset_within abort touches.toRaises hhubFrame hwaits hpower hditch hctx (hfieldFrame _) hlinkFrame hlinkRx
  · exact repairWrite_within abort.toSends abort.out abort.hubCore hhubFrame
  · exact repairClear_within abort.toSends abort.out abort.hubCore hhubFrame
  · exact hbmRetire_within abort touches.toRaises hhubFrame hwaits hpower hctx (touches.stack _)
  · exact mirrorRegion_within abort.toSends abort.out abort.hubCore hhubFrame
  · exact mirrorCopy_within abort.toAnswers abort.hubCore hwaits (abort.field _)
  · exact takeover_within abort.toSends abort.out abort.hubCore hhubFrame
  · exact attest_within abort.toSends abort.out
  · exact certRead_within abort.toSends abort.out
  · exact fwUpdate_within abort.toAnswers abort.hubCore hwaits
  · exact regRead_within abort.toSends abort.out touches.evc (abort.field _) touches.ring
  · exact regWrite_within abort.toSends touches.toRaises abort.out hfieldFrame touches.stack hlinkFrame hringFrame
  · exact cycleRead_within abort.toSends abort.out

theorem startDelayed_within {d : Delayed} (abort : Aborts F) (touches : Touches F) (hhubFrame : F .hubFrame) (hportFrame : F .portFrame)
    (hwaits : F .waits) (hpower : F .power) (hditch : F .ditch) (hruns : F .runs) (hctx : ∀ x, F (.ctx x))
    (hfieldFrame : ∀ x, F (.fieldFrame x)) (hlinkFrame : ∀ x, F (.linkFrame x)) (hlinkRx : ∀ x, F (.linkRx x))
    (hringFrame : ∀ x, F (.ringFrame x)) : (startDelayed d).Within F := by
  refine .look fun _ => .when (.andThen (.port abort.port) (.ite (Cmd.done_within abort.toSends abort.out) ?_))
  split
  · exact Cmd.done_within abort.toSends abort.out
  · exact .ite (runCmd_within abort touches hhubFrame hportFrame hwaits hpower hditch hruns hctx hfieldFrame hlinkFrame hlinkRx hringFrame)
      (Cmd.done_within abort.toSends abort.out)
  · exact Cmd.done_within abort.toSends abort.out

theorem tick_within (abort : Aborts F) (touches : Touches F) (hnow : F .now) (hhubFrame : F .hubFrame) (hportFrame : F .portFrame)
    (hwaits : F .waits) (hpower : F .power) (hditch : F .ditch) (hruns : F .runs) (hctx : ∀ x, F (.ctx x))
    (hfieldFrame : ∀ x, F (.fieldFrame x)) (hlinkFrame : ∀ x, F (.linkFrame x)) (hlinkRx : ∀ x, F (.linkRx x))
    (hringFrame : ∀ x, F (.ringFrame x)) : (tick).Within F :=
  .look fun _ => .andThen (.setNow hnow) (.each (fun _ => startDelayed_within abort touches hhubFrame hportFrame hwaits hpower hditch hruns
    hctx hfieldFrame hlinkFrame hlinkRx hringFrame))

/-! ## HostExec -/

theorem execModInfo_within {m : HostMsg} {s : State} (answers : Answers F) (hhubCore : F .hubCore) (hwaits : F .waits) (hevc : F .evc)
    (hfield : F (.field (448 / 56))) (hring : ∀ x, F (.ring x)) : Goes F s (execModInfo m s) :=
  ⟨_, rfl, hostRow_within (fun _ => modInfo_within answers.toSends answers.out) answers hhubCore hwaits hevc hfield hring⟩

theorem execModuleReset_within {m : HostMsg} {s : State} (abort : Aborts F) (touches : Touches F) (hhubFrame : F .hubFrame)
    (hportFrame : F .portFrame) (hwaits : F .waits) (hditch : F .ditch) (hctx : ∀ x, F (.ctx x)) (hfieldFrame : ∀ x, F (.fieldFrame x))
    (hlinkFrame : ∀ x, F (.linkFrame x)) (hlinkRx : ∀ x, F (.linkRx x)) (hringFrame : ∀ x, F (.ringFrame x)) : Goes F s
    (execModuleReset m s) :=
  ⟨_, rfl, hostRow_within (fun _ => moduleReset_within abort touches hhubFrame hportFrame hwaits hditch hctx hfieldFrame hlinkFrame hlinkRx
    hringFrame) abort.toAnswers abort.hubCore hwaits touches.evc (abort.field _) touches.ring⟩

theorem execHostWindow_within {m : HostMsg} {s : State} (answers : Answers F) (hhubCore : F .hubCore) (hhubFrame : F .hubFrame)
    (hwaits : F .waits) (hevc : F .evc) (hfield : F (.field (448 / 56))) (hring : ∀ x, F (.ring x)) : Goes F s (execHostWindow m s) :=
  ⟨_, rfl, hostRow_within (fun _ => hostWindow_within answers.toSends answers.out hhubCore hhubFrame) answers hhubCore hwaits hevc hfield
    hring⟩

theorem execRelayCfg_within {m : HostMsg} {s : State} (answers : Answers F) (hhubCore : F .hubCore) (hhubFrame : F .hubFrame)
    (hwaits : F .waits) (hevc : F .evc) (hfield : F (.field (448 / 56))) (hring : ∀ x, F (.ring x)) : Goes F s (execRelayCfg m s) :=
  ⟨_, rfl, hostRow_within (fun _ => relayCfg_within answers.toSends answers.out hhubCore hhubFrame) answers hhubCore hwaits hevc hfield
    hring⟩

theorem execPowerSet_within {m : HostMsg} {s : State} (answers : Answers F) (raises : Raises F) (hhubCore : F .hubCore)
    (hwaits : F .waits) (hpower : F .power) (hfieldFrame : ∀ x, F (.fieldFrame x)) : Goes F s (execPowerSet m s) :=
  ⟨_, rfl, hostRow_within (fun _ => powerSet_within answers.toSends raises answers.out hpower hfieldFrame) answers hhubCore hwaits
    raises.evc (raises.field _) raises.ring⟩

theorem execRingSet_within {m : HostMsg} {s : State} (answers : Answers F) (hhubCore : F .hubCore) (hwaits : F .waits) (hevc : F .evc)
    (hfield : F (.field (448 / 56))) (hring : ∀ x, F (.ring x)) (hringFrame : ∀ x, F (.ringFrame x)) : Goes F s (execRingSet m s) :=
  ⟨_, rfl, hostRow_within (fun _ => ringSet_within answers.toSends answers.out hevc (hring _) (hringFrame _)) answers hhubCore hwaits hevc
    hfield hring⟩

theorem execCreate_within {m : HostMsg} {s : State} (answers : Answers F) (hhubCore : F .hubCore) (hwaits : F .waits) (hevc : F .evc)
    (hruns : F .runs) (hctx : ∀ x, F (.ctx x)) (hfield : F (.field (448 / 56))) (hring : ∀ x, F (.ring x))
    (hringFrame : ∀ x, F (.ringFrame x)) : Goes F s (execCreate m s) :=
  ⟨_, rfl, hostRow_within (fun _ => create_within answers.toSends answers.out hevc hruns (hctx _) (hring _) (hringFrame _)) answers
    hhubCore hwaits hevc hfield hring⟩

theorem execDestroy_within {m : HostMsg} {s : State} (abort : Aborts F) (raises : Raises F) (htiles : F .tiles) (hwaits : F .waits)
    (hctx : ∀ x, F (.ctx x)) : Goes F s (execDestroy m s) :=
  ⟨_, rfl, hostRow_within (fun _ => destroy_within abort htiles hwaits hctx) abort.toAnswers abort.hubCore hwaits raises.evc (abort.field
    _) raises.ring⟩

theorem execResume_within {m : HostMsg} {s : State} (answers : Answers F) (raises : Raises F) (hhubCore : F .hubCore)
    (hwaits : F .waits) (hruns : F .runs) (hctx : ∀ x, F (.ctx x)) : Goes F s (execResume m s) :=
  ⟨_, rfl, hostRow_within (fun _ => resume_within answers.toSends answers.out hruns (hctx _) raises.field) answers hhubCore hwaits
    raises.evc (raises.field _) raises.ring⟩

theorem execSeedSet_within {m : HostMsg} {s : State} (answers : Answers F) (hhubCore : F .hubCore) (hwaits : F .waits) (hevc : F .evc)
    (hctx : ∀ x, F (.ctx x)) (hfield : F (.field (448 / 56))) (hring : ∀ x, F (.ring x)) : Goes F s (execSeedSet m s) :=
  ⟨_, rfl, hostRow_within (fun _ => seedSet_within answers.toSends answers.out (hctx _)) answers hhubCore hwaits hevc hfield hring⟩

theorem execKeeperWrite_within {m : HostMsg} {s : State} (answers : Answers F) (hhubCore : F .hubCore) (hwaits : F .waits)
    (hevc : F .evc) (hctx : ∀ x, F (.ctx x)) (hfield : F (.field (448 / 56))) (hring : ∀ x, F (.ring x)) : Goes F s
    (execKeeperWrite m s) :=
  ⟨_, rfl, hostRow_within (fun _ => keeperWrite_within answers.toSends answers.out (hctx _)) answers hhubCore hwaits hevc hfield hring⟩

theorem execKeeperRead_within {m : HostMsg} {s : State} (answers : Answers F) (hhubCore : F .hubCore) (hwaits : F .waits)
    (hevc : F .evc) (hfield : F (.field (448 / 56))) (hring : ∀ x, F (.ring x)) : Goes F s (execKeeperRead m s) :=
  ⟨_, rfl, hostRow_within (fun _ => keeperRead_within answers.toSends answers.out) answers hhubCore hwaits hevc hfield hring⟩

theorem execCtxQuery_within {m : HostMsg} {s : State} (answers : Answers F) (hhubCore : F .hubCore) (hwaits : F .waits) (hevc : F .evc)
    (hfield : F (.field (448 / 56))) (hring : ∀ x, F (.ring x)) : Goes F s (execCtxQuery m s) :=
  ⟨_, rfl, hostRow_within (fun _ => ctxQuery_within answers.toSends answers.out) answers hhubCore hwaits hevc hfield hring⟩

theorem execStatsRead_within {m : HostMsg} {s : State} (answers : Answers F) (hhubCore : F .hubCore) (hwaits : F .waits) (hevc : F .evc)
    (hfield : F (.field (448 / 56))) (hring : ∀ x, F (.ring x)) : Goes F s (execStatsRead m s) :=
  ⟨_, rfl, hostRow_within (fun _ => statsRead_within answers.toSends answers.out) answers hhubCore hwaits hevc hfield hring⟩

theorem execJobAbort_within {m : HostMsg} {s : State} (abort : Aborts F) (raises : Raises F) (hwaits : F .waits)
    (hctx : ∀ x, F (.ctx x)) : Goes F s (execJobAbort m s) :=
  ⟨_, rfl, hostRow_within (fun _ => jobAbort_within abort hwaits hctx) abort.toAnswers abort.hubCore hwaits raises.evc (abort.field _)
    raises.ring⟩

theorem execDescLoad_within {m : HostMsg} {s : State} (answers : Answers F) (raises : Raises F) (hhubCore : F .hubCore)
    (hwaits : F .waits) (hctx : ∀ x, F (.ctx x)) : Goes F s (execDescLoad m s) :=
  ⟨_, rfl, hostRow_within (fun _ => descLoad_within answers.toSends raises answers.out (hctx _)) answers hhubCore hwaits raises.evc
    (raises.field _) raises.ring⟩

theorem execSubmit_within {m : HostMsg} {s : State} (answers : Answers F) (hhubCore : F .hubCore) (hwaits : F .waits) (hevc : F .evc)
    (hctx : ∀ x, F (.ctx x)) (hfield : F (.field (448 / 56))) (hring : ∀ x, F (.ring x)) : Goes F s (execSubmit m s) :=
  ⟨_, rfl, hostRow_within (fun _ => submit_within answers.toSends answers.out hevc (hctx _) hfield hring) answers hhubCore hwaits hevc
    hfield hring⟩

theorem execSubmitHost_within {m : HostMsg} {s : State} (answers : Answers F) (hhubCore : F .hubCore) (hwaits : F .waits)
    (hevc : F .evc) (hfield : F (.field (448 / 56))) (hring : ∀ x, F (.ring x)) : Goes F s (execSubmitHost m s) :=
  ⟨_, rfl, hostRow_within (fun _ => submitHost_within answers hhubCore hwaits) answers hhubCore hwaits hevc hfield hring⟩

theorem execSetPower_within {m : HostMsg} {s : State} (answers : Answers F) (raises : Raises F) (hhubCore : F .hubCore)
    (hwaits : F .waits) (hfieldFrame : ∀ x, F (.fieldFrame x)) : Goes F s (execSetPower m s) :=
  ⟨_, rfl, hostRow_within (fun _ => setPower_within answers hwaits (raises.field _) (hfieldFrame _)) answers hhubCore hwaits raises.evc
    (raises.field _) raises.ring⟩

theorem execNodeSet_within {m : HostMsg} {s : State} (answers : Answers F) (hhubCore : F .hubCore) (hhubFrame : F .hubFrame)
    (hwaits : F .waits) (hevc : F .evc) (hfield : F (.field (448 / 56))) (hring : ∀ x, F (.ring x)) : Goes F s (execNodeSet m s) :=
  ⟨_, rfl, hostRow_within (fun _ => nodeSet_within answers.toSends answers.out hhubCore hhubFrame) answers hhubCore hwaits hevc hfield
    hring⟩

theorem execRouteWrite_within {m : HostMsg} {s : State} (answers : Answers F) (hhubCore : F .hubCore) (hhubFrame : F .hubFrame)
    (hwaits : F .waits) (hevc : F .evc) (hfield : F (.field (448 / 56))) (hring : ∀ x, F (.ring x)) : Goes F s (execRouteWrite m s) :=
  ⟨_, rfl, hostRow_within (fun _ => routeWrite_within answers.toSends answers.out hhubCore hhubFrame) answers hhubCore hwaits hevc hfield
    hring⟩

theorem execLinkTrain_within {m : HostMsg} {s : State} (abort : Aborts F) (raises : Raises F) (hhubFrame : F .hubFrame)
    (hwaits : F .waits) (hpower : F .power) (hctx : ∀ x, F (.ctx x)) (hlinkFrame : ∀ x, F (.linkFrame x)) (hlinkRx : ∀ x, F (.linkRx x))
    : Goes F s (execLinkTrain m s) :=
  ⟨_, rfl, hostRow_within (fun _ => linkTrain_within abort raises hhubFrame hwaits hpower hctx hlinkFrame hlinkRx) abort.toAnswers
    abort.hubCore hwaits raises.evc (abort.field _) raises.ring⟩

theorem execLinkFence_within {m : HostMsg} {s : State} (abort : Aborts F) (raises : Raises F) (hhubFrame : F .hubFrame)
    (hwaits : F .waits) (hpower : F .power) (hctx : ∀ x, F (.ctx x)) (hlinkFrame : ∀ x, F (.linkFrame x)) (hlinkRx : ∀ x, F (.linkRx x))
    : Goes F s (execLinkFence m s) :=
  ⟨_, rfl, hostRow_within (fun _ => linkFence_within abort raises hhubFrame hpower hctx hlinkFrame hlinkRx) abort.toAnswers abort.hubCore
    hwaits raises.evc (abort.field _) raises.ring⟩

theorem execSluRead_within {m : HostMsg} {s : State} (answers : Answers F) (hhubCore : F .hubCore) (hwaits : F .waits) (hevc : F .evc)
    (hfield : F (.field (448 / 56))) (hring : ∀ x, F (.ring x)) : Goes F s (execSluRead m s) :=
  ⟨_, rfl, hostRow_within (fun _ => sluRead_within answers.toSends answers.out) answers hhubCore hwaits hevc hfield hring⟩

theorem execFieldTest_within {m : HostMsg} {s : State} (answers : Answers F) (raises : Raises F) (hhubCore : F .hubCore)
    (hwaits : F .waits) (hfieldFrame : ∀ x, F (.fieldFrame x)) : Goes F s (execFieldTest m s) :=
  ⟨_, rfl, hostRow_within (fun _ => fieldTest_within answers hwaits (raises.field _) (hfieldFrame _)) answers hhubCore hwaits raises.evc
    (raises.field _) raises.ring⟩

theorem execFieldReset_within {m : HostMsg} {s : State} (abort : Aborts F) (raises : Raises F) (hhubFrame : F .hubFrame)
    (hwaits : F .waits) (hpower : F .power) (hditch : F .ditch) (hctx : ∀ x, F (.ctx x)) (hfieldFrame : ∀ x, F (.fieldFrame x))
    (hlinkFrame : ∀ x, F (.linkFrame x)) (hlinkRx : ∀ x, F (.linkRx x)) : Goes F s (execFieldReset m s) :=
  ⟨_, rfl, hostRow_within (fun _ => fieldReset_within abort raises hhubFrame hwaits hpower hditch hctx (hfieldFrame _) hlinkFrame hlinkRx)
    abort.toAnswers abort.hubCore hwaits raises.evc (abort.field _) raises.ring⟩

theorem execRepairWrite_within {m : HostMsg} {s : State} (answers : Answers F) (hhubCore : F .hubCore) (hhubFrame : F .hubFrame)
    (hwaits : F .waits) (hevc : F .evc) (hfield : F (.field (448 / 56))) (hring : ∀ x, F (.ring x)) : Goes F s (execRepairWrite m s) :=
  ⟨_, rfl, hostRow_within (fun _ => repairWrite_within answers.toSends answers.out hhubCore hhubFrame) answers hhubCore hwaits hevc hfield
    hring⟩

theorem execRepairClear_within {m : HostMsg} {s : State} (answers : Answers F) (hhubCore : F .hubCore) (hhubFrame : F .hubFrame)
    (hwaits : F .waits) (hevc : F .evc) (hfield : F (.field (448 / 56))) (hring : ∀ x, F (.ring x)) : Goes F s (execRepairClear m s) :=
  ⟨_, rfl, hostRow_within (fun _ => repairClear_within answers.toSends answers.out hhubCore hhubFrame) answers hhubCore hwaits hevc hfield
    hring⟩

theorem execHbmRetire_within {m : HostMsg} {s : State} (abort : Aborts F) (raises : Raises F) (hhubFrame : F .hubFrame)
    (hwaits : F .waits) (hpower : F .power) (hctx : ∀ x, F (.ctx x)) (hstack : ∀ x, F (.stack x)) : Goes F s (execHbmRetire m s) :=
  ⟨_, rfl, hostRow_within (fun _ => hbmRetire_within abort raises hhubFrame hwaits hpower hctx (hstack _)) abort.toAnswers abort.hubCore
    hwaits raises.evc (abort.field _) raises.ring⟩

theorem execMirrorRegion_within {m : HostMsg} {s : State} (answers : Answers F) (hhubCore : F .hubCore) (hhubFrame : F .hubFrame)
    (hwaits : F .waits) (hevc : F .evc) (hfield : F (.field (448 / 56))) (hring : ∀ x, F (.ring x)) : Goes F s (execMirrorRegion m s) :=
  ⟨_, rfl, hostRow_within (fun _ => mirrorRegion_within answers.toSends answers.out hhubCore hhubFrame) answers hhubCore hwaits hevc hfield
    hring⟩

theorem execMirrorCopy_within {m : HostMsg} {s : State} (answers : Answers F) (raises : Raises F) (hhubCore : F .hubCore)
    (hwaits : F .waits) : Goes F s (execMirrorCopy m s) :=
  ⟨_, rfl, hostRow_within (fun _ => mirrorCopy_within answers hhubCore hwaits (raises.field _)) answers hhubCore hwaits raises.evc
    (raises.field _) raises.ring⟩

theorem execTakeover_within {m : HostMsg} {s : State} (answers : Answers F) (hhubCore : F .hubCore) (hhubFrame : F .hubFrame)
    (hwaits : F .waits) (hevc : F .evc) (hfield : F (.field (448 / 56))) (hring : ∀ x, F (.ring x)) : Goes F s (execTakeover m s) :=
  ⟨_, rfl, hostRow_within (fun _ => takeover_within answers.toSends answers.out hhubCore hhubFrame) answers hhubCore hwaits hevc hfield
    hring⟩

theorem execAttest_within {m : HostMsg} {s : State} (answers : Answers F) (hhubCore : F .hubCore) (hwaits : F .waits) (hevc : F .evc)
    (hfield : F (.field (448 / 56))) (hring : ∀ x, F (.ring x)) : Goes F s (execAttest m s) :=
  ⟨_, rfl, hostRow_within (fun _ => attest_within answers.toSends answers.out) answers hhubCore hwaits hevc hfield hring⟩

theorem execCertRead_within {m : HostMsg} {s : State} (answers : Answers F) (hhubCore : F .hubCore) (hwaits : F .waits) (hevc : F .evc)
    (hfield : F (.field (448 / 56))) (hring : ∀ x, F (.ring x)) : Goes F s (execCertRead m s) :=
  ⟨_, rfl, hostRow_within (fun _ => certRead_within answers.toSends answers.out) answers hhubCore hwaits hevc hfield hring⟩

theorem execFwUpdate_within {m : HostMsg} {s : State} (answers : Answers F) (hhubCore : F .hubCore) (hwaits : F .waits) (hevc : F .evc)
    (hfield : F (.field (448 / 56))) (hring : ∀ x, F (.ring x)) : Goes F s (execFwUpdate m s) :=
  ⟨_, rfl, hostRow_within (fun _ => fwUpdate_within answers hhubCore hwaits) answers hhubCore hwaits hevc hfield hring⟩

theorem execRegRead_within {m : HostMsg} {s : State} (answers : Answers F) (hhubCore : F .hubCore) (hwaits : F .waits) (hevc : F .evc)
    (hfield : F (.field (448 / 56))) (hring : ∀ x, F (.ring x)) : Goes F s (execRegRead m s) :=
  ⟨_, rfl, hostRow_within (fun _ => regRead_within answers.toSends answers.out hevc hfield hring) answers hhubCore hwaits hevc hfield hring⟩

theorem execRegWrite_within {m : HostMsg} {s : State} (answers : Answers F) (raises : Raises F) (hhubCore : F .hubCore)
    (hwaits : F .waits) (hfieldFrame : ∀ x, F (.fieldFrame x)) (hstack : ∀ x, F (.stack x)) (hlinkFrame : ∀ x, F (.linkFrame x))
    (hringFrame : ∀ x, F (.ringFrame x)) : Goes F s (execRegWrite m s) :=
  ⟨_, rfl, hostRow_within (fun _ => regWrite_within answers.toSends raises answers.out hfieldFrame hstack hlinkFrame hringFrame) answers
    hhubCore hwaits raises.evc (raises.field _) raises.ring⟩

theorem execCycleRead_within {m : HostMsg} {s : State} (answers : Answers F) (hhubCore : F .hubCore) (hwaits : F .waits) (hevc : F .evc)
    (hfield : F (.field (448 / 56))) (hring : ∀ x, F (.ring x)) : Goes F s (execCycleRead m s) :=
  ⟨_, rfl, hostRow_within (fun _ => cycleRead_within answers.toSends answers.out) answers hhubCore hwaits hevc hfield hring⟩

theorem execCommandRelay_within {m : HostMsg} {s : State} (abort : Aborts F) (touches : Touches F) (hhubFrame : F .hubFrame)
    (hportFrame : F .portFrame) (hwaits : F .waits) (hpower : F .power) (hditch : F .ditch) (hruns : F .runs) (hctx : ∀ x, F (.ctx x))
    (hfieldFrame : ∀ x, F (.fieldFrame x)) (hlinkFrame : ∀ x, F (.linkFrame x)) (hlinkRx : ∀ x, F (.linkRx x))
    (hringFrame : ∀ x, F (.ringFrame x)) : Goes F s (execCommandRelay m s) :=
  ⟨_, rfl, .when (receive_within (checkCmd_within (fun _ => runCmd_within abort touches hhubFrame hportFrame hwaits hpower hditch hruns
    hctx hfieldFrame hlinkFrame hlinkRx hringFrame) abort.toAnswers abort.hubCore hwaits touches.evc (abort.field _) touches.ring)
    abort.out)⟩

theorem execRelay_within {link : Nat} {r : RelayIn} {s : State} (abort : Aborts F) (touches : Touches F) (hhubFrame : F .hubFrame)
    (hportFrame : F .portFrame) (hwaits : F .waits) (hpower : F .power) (hditch : F .ditch) (hruns : F .runs) (hctx : ∀ x, F (.ctx x))
    (hfieldFrame : ∀ x, F (.fieldFrame x)) (hlinkFrame : ∀ x, F (.linkFrame x)) (hlinkRx : ∀ x, F (.linkRx x))
    (hringFrame : ∀ x, F (.ringFrame x)) : Goes F s (execRelay link r s) :=
  ⟨_, rfl, onPacket_within (.cons (takePacket_within abort.hub (abort.field _) abort.link (hlinkRx _)) (.cons (.when (discardEvent_within
    touches.evc (abort.field _) touches.ring)) (.cons (.ite .skip (.ite (checkCmd_within (fun _ => runCmd_within abort touches hhubFrame
    hportFrame hwaits hpower hditch hruns hctx hfieldFrame hlinkFrame hlinkRx hringFrame) abort.toAnswers abort.hubCore hwaits touches.evc
    (abort.field _) touches.ring) (Cmd.done_within abort.toSends abort.out))) .nil)))⟩

theorem execRelayReply_within {link : Nat} {p : Packet} {s : State} (hout : F .out) (hhub : F .hub) (hport : F .port)
    (hfield : F (.field (link / 4))) (hlink : ∀ x, F (.link x)) (hlinkRx : F (.linkRx link)) : Goes F s (execRelayReply link p s) := by
  refine ⟨_, rfl, onPacket_within (.cons (takePacket_within hhub hfield hlink hlinkRx) (.cons (.port hport (hw := .inr fun _ w h => ⟨w,
    (List.mem_filter.mp h).1, rfl⟩)) (.cons (.each (fun _ => ?_)) .nil)))⟩
  split
  · exact .when (.emit hout)
  · exact .skip

theorem execEoi_within {source : Nat} {s : State} (hevc : F .evc) : Goes F s (execEoi source s) :=
  ⟨_, rfl, .when (.evc hevc)⟩

end Sys2Proof.Machine

/-! The places of the effects of the model: the rows of events, of the life of contexts and fields, and of links. -/
namespace Sys2Proof.Machine

-- The default proofs of the side conditions are evaluated only once all lemmas before are checked: in order, none waits in a thread of
-- its own.
set_option Elab.async false

variable {F : Place → Prop}

/-! ## EventEv -/

theorem notify_within {i : Nat} (hout : F .out) : (notify i).Within F :=
  .look fun _ => .emit hout

theorem ringDoorbell_within {i : Nat} {v : U64} (hout : F .out) (hevc : F .evc) (hring : F (.ring i)) (hringFrame : F (.ringFrame i)) :
    (ringDoorbell i v).Within F := by
  refine .of_keeps .books (.look fun _ => .ite (.ring (.inl hring) (hf := .inl (.inl hringFrame)) (hb := .inl (.inr rfl)))
    (.cons (.ring (.inl hring) (hf := .inl (.inl hringFrame)) (hb := .inl (.inr rfl))) (.cons (.when (notify_within (.inl hout)))
    (.cons (refillRing_within (.inl hevc) (.inl hring)) .nil)))) fun _ s hs => ?_
  unfold ringDoorbell
  rw [Fx.run_look]
  dsimp only
  split
  · exact books_modRing hs id
  · rename_i h
    simp only [Bool.not_eq_true, Bool.not_eq_false'] at h
    exact Fx.Within.books (a := Fx.all _) (.cons (.when (notify_within nofun)) (.cons (refillRing_within nofun nofun) .nil))
      (books_modRing hs fun hr => (Ring.space_of_accepts h).trans hr)

theorem execDoorbell_within {ring : Nat} {value : U64} {s : State} (hout : F .out) (hevc : F .evc) (hring : F (.ring ring))
    (hringFrame : F (.ringFrame ring)) : Goes F s (execDoorbell ring value s) :=
  ⟨_, rfl, ringDoorbell_within hout hevc hring hringFrame⟩

theorem Ring.produce_booked {r : Ring} (h : 0 < r.space) : (r.producer + 1#32 - r.consumer).toNat ≤ 4095 := by
  unfold Ring.space at h
  split at h
  · have : (r.producer - r.consumer).toNat < 4095 := by omega
    bv_omega
  · omega

theorem writeRecord_books {i : Nat} {parity : Option Nat} {s : State} (hs : Books s) : Books ((writeRecord i parity).run s) := by
  unfold writeRecord
  rw [Fx.run_look]
  dsimp only
  split
  · exact hs
  · unfold Fx.when
    split
    · rename_i h
      simp only [Bool.and_eq_true, decide_eq_true_eq] at h
      obtain ⟨⟨hspace, -⟩, -⟩ := h
      exact Fx.Within.books (a := Fx.all _) (.cons (.emit nofun) (.cons (.emit nofun) (.cons (.when (notify_within nofun)) (.cons
        (.each fun _ => .andThen (fireSource_within nofun) (parityEvent_within nofun nofun nofun)) .nil))))
        (books_modRing hs fun _ => Ring.produce_booked hspace)
    · exact hs

theorem writeRecord_within {i : Nat} {parity : Option Nat} (hout : F .out) (hevc : F .evc) (hfield : F (.field (448 / 56)))
    (hring : ∀ x, F (.ring x)) (hringFrame : F (.ringFrame i)) : (writeRecord i parity).Within F := by
  refine .of_keeps .books (.look fun _ => ?_) fun _ s hs => writeRecord_books hs
  dsimp only
  split
  · exact .skip
  · exact .when (.cons (.ring (.inl (hring _)) (hf := .inl (.inl hringFrame)) (hb := .inl (.inr rfl))) (.cons (.emit (.inl hout)) (.cons
      (.emit (.inl hout)) (.cons (.when (notify_within (.inl hout))) (.cons (.each fun _ => .andThen (fireSource_within (.inl hevc))
      (parityEvent_within (.inl hevc) (.inl hfield) fun _ => .inl (hring _))) .nil)))))

theorem execEventRecordWrite_within {ring : Nat} {parity : Option Nat} {s : State} (hout : F .out) (hevc : F .evc)
    (hfield : F (.field (448 / 56))) (hring : ∀ x, F (.ring x)) (hringFrame : F (.ringFrame ring)) : Goes F s
    (execEventRecordWrite ring parity s) :=
  ⟨_, rfl, writeRecord_within hout hevc hfield hring hringFrame⟩

theorem execEvcTake_within {controller : Nat} {s : State} (hevc : F .evc) : Goes F s (execEvcTake controller s) := by
  refine ⟨_, rfl, ?_⟩
  split
  · exact .skip
  · exact .evc hevc

theorem onQp_within {n : Nat} {f : Qp → Qp} (hport : F .port) (hportFrame : F .portFrame) : (onQp n f).Within F :=
  .port hport (hf := .inl hportFrame)

theorem execCongestionNotification_within {qp : Nat} {s : State} (hport : F .port) (hportFrame : F .portFrame) : Goes F s
    (execCongestionNotification qp s) :=
  ⟨_, rfl, onQp_within hport hportFrame⟩

theorem execRateRestore_within {qp : Nat} {s : State} (hnow : F .now) (hport : F .port) (hportFrame : F .portFrame) : Goes F s
    (execRateRestore qp s) := by
  refine ⟨_, rfl, ?_⟩
  split
  · split
    · exact .when (.andThen (.setNow hnow) (.look fun _ => onQp_within hport hportFrame))
    · exact .skip
  · exact .skip

theorem execCeMarkedPacket_within {qp : Nat} {s : State} (hout : F .out) (hport : F .port) (hportFrame : F .portFrame) : Goes F s
    (execCeMarkedPacket qp s) := by
  refine ⟨_, rfl, ?_⟩
  split
  · exact .when (.andThen (.emit hout) (onQp_within hport hportFrame))
  · exact .skip

theorem execConnectionManagement_within {msg : CmMsg} {qp : Nat} {s : State} (hout : F .out) (hhub : F .hub) (hhubCore : F .hubCore)
    (hhubFrame : F .hubFrame) (hport : F .port) (hportFrame : F .portFrame) (hring : ∀ x, F (.ring x))
    (hringFrame : ∀ x, F (.ringFrame x)) : Goes F s (execConnectionManagement msg qp s) := by
  refine ⟨_, rfl, .when ?_⟩
  split
  · exact .when (.andThen (.port hport (hf := .inl hportFrame)) (.emit hout))
  · exact .port hport (hf := .inl hportFrame)
  · exact .andThen (closeQps_within hhub hhubCore hhubFrame hport hportFrame hring hringFrame) (.emit hout)
  · exact .skip
  · exact .skip

/-! ## LifecycleEv -/

theorem checkBringUp_within (hhub : F .hub) (hhubCore : F .hubCore) (hhubFrame : F .hubFrame) : (checkBringUp).Within F :=
  .look fun _ => .when (.hub hhub (hc := .inl hhubCore) (hf := .inl hhubFrame))

theorem bringField_within {found : BringUp} {f : Nat} (answers : Answers F) (touches : Touches F) (hdata : F .data)
    (hfieldFrame : F (.fieldFrame f)) (hfieldWork : F (.fieldWork f)) : (bringField found f).Within F :=
  .look fun _ => .cons (poisonField_within touches.mem hdata touches.tiles) (.cons (.field (touches.field _) (hf := .inl hfieldFrame) (hw
    := .inl hfieldWork) (hb := .inr fun _ _ => Field.reset_booked)) (.cons (.when (raise_within touches.evc (touches.field _)
    touches.ring)) (.cons (.when (failField_within answers touches.toRaises hfieldFrame touches.stack)) .nil)))

theorem bringStack_within {found : BringUp} {k : Nat} (hmem : F .mem) (hdata : F .data) (htiles : F .tiles) (hstack : F (.stack k)) :
    (bringStack found k).Within F :=
  .andThen (.memPoison hmem hdata htiles) (.stack hstack)

theorem stopTraining_within (hlink : ∀ x, F (.link x)) (hlinkFrame : ∀ x, F (.linkFrame x)) : (stopTraining).Within F :=
  .look fun _ => .each (fun _ => .link (hlink _) (hf := .inl (hlinkFrame _)))

theorem bringUpFrom3_within {found : BringUp} (answers : Answers F) (touches : Touches F) (hdata : F .data) (hhubCore : F .hubCore)
    (hhubFrame : F .hubFrame) (hfieldFrame : ∀ x, F (.fieldFrame x)) (hfieldWork : ∀ x, F (.fieldWork x))
    (hlinkFrame : ∀ x, F (.linkFrame x)) : (bringUpFrom3 found).Within F :=
  .andThen (stopTraining_within answers.link hlinkFrame) (.ite (.hub answers.hub (hc := .inl hhubCore) (hf := .inl hhubFrame)) (.cons (.hub
    answers.hub (hc := .inl hhubCore) (hf := .inl hhubFrame)) (.cons (.look fun _ => .ite (.cons (.hub answers.hub (hc := .inl hhubCore)
    (hf := .inl hhubFrame)) (.cons (.each (fun _ => .field (touches.field _) (hf := .inl (hfieldFrame _)))) .nil)) (.cons (.hub answers.hub
    (hc := .inl hhubCore) (hf := .inl hhubFrame)) (.cons (.each (fun _ => .hub answers.hub (hc := .inl hhubCore) (hf := .inl hhubFrame)))
    (.cons (.each (fun _ => .field (touches.field _) (hf := .inl (hfieldFrame _)))) (.cons (.each (fun _ => .stack (touches.stack _)))
    (.cons (.look fun _ => .when (raise_within touches.evc (touches.field _) touches.ring)) (.cons (.each (fun _ => bringField_within
    answers touches hdata (hfieldFrame _) (hfieldWork _))) (.cons (.each (fun _ => bringStack_within touches.mem hdata touches.tiles
    (touches.stack _))) (.cons (.each (fun _ => .link (answers.link _) (hf := .inl (hlinkFrame _)))) (.cons (checkBringUp_within
    answers.hub hhubCore hhubFrame) .nil)))))))))) .nil)))

theorem bringUp_within {found : BringUp} (answers : Answers F) (touches : Touches F) (hdata : F .data) (hhubCore : F .hubCore)
    (hhubFrame : F .hubFrame) (hportFrame : F .portFrame) (hpower : F .power) (hfieldFrame : ∀ x, F (.fieldFrame x))
    (hfieldWork : ∀ x, F (.fieldWork x)) (hlinkFrame : ∀ x, F (.linkFrame x)) : (bringUp found).Within F :=
  .look fun _ => .when (.cons (.power hpower) (.cons (.port answers.port (hf := .inl hportFrame)) (.cons (.ite (bringUpFrom3_within answers
    touches hdata hhubCore hhubFrame hfieldFrame hfieldWork hlinkFrame) (.hub answers.hub (hc := .inl hhubCore) (hf := .inl hhubFrame)))
    .nil)))

theorem execPowerUp_within {found : BringUp} {s : State} (answers : Answers F) (touches : Touches F) (hdata : F .data)
    (hhubCore : F .hubCore) (hhubFrame : F .hubFrame) (hportFrame : F .portFrame) (hpower : F .power)
    (hfieldFrame : ∀ x, F (.fieldFrame x)) (hfieldWork : ∀ x, F (.fieldWork x)) (hlinkFrame : ∀ x, F (.linkFrame x)) : Goes F s
    (execPowerUp found s) :=
  ⟨_, rfl, withInBand_within (.when (bringUp_within answers touches hdata hhubCore hhubFrame hportFrame hpower hfieldFrame hfieldWork
    hlinkFrame)) answers.out⟩

theorem resetUnfinished_within {c : Nat} (abort : Aborts F) (hditch : F .ditch) (hctx : ∀ x, F (.ctx x))
    (hfieldFrame : ∀ x, F (.fieldFrame x)) : (resetUnfinished c).Within F :=
  .look fun _ => .each (fun _ => .each (fun _ => resetEngine_within abort hditch hctx (hfieldFrame _)))

theorem execTeardownDone_within {ctx : Nat} {s : State} (abort : Aborts F) (raises : Raises F) (hwaits : F .waits) (hditch : F .ditch)
    (hctx : ∀ x, F (.ctx x)) (hfieldFrame : ∀ x, F (.fieldFrame x)) : Goes F s (execTeardownDone ctx s) :=
  ⟨_, rfl, .when (.andThen (.when (resetUnfinished_within abort hditch hctx hfieldFrame)) (endTeardown_within abort.toAnswers hwaits
    raises.evc (hctx _) (abort.field _) raises.ring))⟩

theorem execTeardownTimeout_within {ctx field engine : Nat} {s : State} (abort : Aborts F) (hnow : F .now) (hditch : F .ditch)
    (hctx : ∀ x, F (.ctx x)) (hfieldFrame : F (.fieldFrame field)) : Goes F s (execTeardownTimeout ctx field engine s) :=
  ⟨_, rfl, .when (.andThen (.setNow hnow) (resetEngine_within abort hditch hctx hfieldFrame))⟩

theorem execQuarantineEnd_within {ctx : Nat} {s : State} (hnow : F .now) (hctx : F (.ctx ctx)) (hfield : ∀ x, F (.field x)) : Goes F s
    (execQuarantineEnd ctx s) :=
  ⟨_, rfl, .when (.andThen (.setNow hnow) (endQuarantine_within hctx hfield))⟩

theorem resetMissed_within {f : Nat} (abort : Aborts F) (raises : Raises F) (hhubFrame : F .hubFrame) (hpower : F .power)
    (hditch : F .ditch) (hctx : ∀ x, F (.ctx x)) (hfieldFrame : F (.fieldFrame f)) (hlinkFrame : ∀ x, F (.linkFrame x))
    (hlinkRx : ∀ x, F (.linkRx x)) : (resetMissed f).Within F :=
  withInBand_within (.cons (fenceField_within abort raises hditch hctx hfieldFrame hlinkFrame hlinkRx) (.cons (trainingWaits_within
    abort.toAnswers) (.cons (checkSet_within abort raises hhubFrame hpower hctx) .nil))) abort.out

theorem execEngineResetDone_within {field engine : Nat} {s : State} (abort : Aborts F) (raises : Raises F) (hhubFrame : F .hubFrame)
    (hpower : F .power) (hditch : F .ditch) (hctx : ∀ x, F (.ctx x)) (hfieldFrame : F (.fieldFrame field))
    (hlinkFrame : ∀ x, F (.linkFrame x)) (hlinkRx : ∀ x, F (.linkRx x)) : Goes F s (execEngineResetDone field engine s) := by
  refine ⟨_, rfl, ?_⟩
  split
  · exact .ite (resetMissed_within abort raises hhubFrame hpower hditch hctx hfieldFrame hlinkFrame hlinkRx) (.field (abort.field _) (hf :=
      .inl hfieldFrame))
  · exact .skip

theorem execEngineResetTimeout_within {field engine : Nat} {s : State} (abort : Aborts F) (raises : Raises F) (hnow : F .now)
    (hhubFrame : F .hubFrame) (hpower : F .power) (hditch : F .ditch) (hctx : ∀ x, F (.ctx x)) (hfieldFrame : F (.fieldFrame field))
    (hlinkFrame : ∀ x, F (.linkFrame x)) (hlinkRx : ∀ x, F (.linkRx x)) : Goes F s (execEngineResetTimeout field engine s) := by
  refine ⟨_, rfl, ?_⟩
  split
  · exact .andThen (.setNow hnow) (resetMissed_within abort raises hhubFrame hpower hditch hctx hfieldFrame hlinkFrame hlinkRx)
  · exact .skip

theorem execFieldResetDone_within {field : Nat} {found : ResetCheck} {s : State} (abort : Aborts F) (touches : Touches F)
    (hhubFrame : F .hubFrame) (hwaits : F .waits) (hpower : F .power) (hctx : ∀ x, F (.ctx x)) (hfieldFrame : F (.fieldFrame field))
    (hlinkFrame : ∀ x, F (.linkFrame x)) (hlinkRx : ∀ x, F (.linkRx x)) : Goes F s (execFieldResetDone field found s) :=
  ⟨_, rfl, withInBand_within (.when (.cons (.ite (failField_within abort.toAnswers touches.toRaises hfieldFrame touches.stack)
    (finishFieldReset_within abort.toAnswers touches abort.data abort.hubCore hhubFrame hfieldFrame (abort.fieldWork _) abort.linkEntries))
    (.cons (checkWarm_within abort touches.toRaises hhubFrame hwaits hctx hlinkFrame hlinkRx) (.cons (checkSet_within abort
    touches.toRaises hhubFrame hpower hctx) .nil)))) abort.out⟩

theorem execFieldResetTimeout_within {field : Nat} {s : State} (abort : Aborts F) (raises : Raises F) (hnow : F .now)
    (hhubFrame : F .hubFrame) (hwaits : F .waits) (hpower : F .power) (hctx : ∀ x, F (.ctx x)) (hfieldFrame : F (.fieldFrame field))
    (hstack : ∀ x, F (.stack x)) (hlinkFrame : ∀ x, F (.linkFrame x)) (hlinkRx : ∀ x, F (.linkRx x)) : Goes F s
    (execFieldResetTimeout field s) :=
  ⟨_, rfl, withInBand_within (.when (.cons (.setNow hnow) (.cons (failField_within abort.toAnswers raises hfieldFrame hstack) (.cons
    (checkWarm_within abort raises hhubFrame hwaits hctx hlinkFrame hlinkRx) (.cons (checkSet_within abort raises hhubFrame hpower hctx)
    .nil))))) abort.out⟩

theorem borrow_within {f : Nat} {t : FieldTest} (raises : Raises F) (hfieldFrame : F (.fieldFrame f)) : (borrow f t).Within F :=
  .look fun _ => .andThen (.field (raises.field _) (hf := .inl hfieldFrame)) (raise_within raises.evc (raises.field _) raises.ring)

theorem answerTest_within {f status : Nat} {result : List Byte} (answers : Answers F) : (answerTest f status result).Within F :=
  finishWaits_within answers

theorem dropTest_within {f : Nat} (answers : Answers F) (hfield : F (.field f)) (hfieldFrame : F (.fieldFrame f)) : (dropTest f).Within F :=
  .andThen (.field hfield (hf := .inl hfieldFrame)) (answerTest_within answers)

theorem execFieldTestBorrow_within {field : Nat} {s : State} (answers : Answers F) (raises : Raises F)
    (hfieldFrame : F (.fieldFrame field)) : Goes F s (execFieldTestBorrow field s) := by
  refine ⟨_, rfl, ?_⟩
  split
  · exact .ite (dropTest_within answers (raises.field _) hfieldFrame) (.when (borrow_within raises hfieldFrame))
  · exact .skip

theorem execFieldTestWaitTimeout_within {field : Nat} {s : State} (answers : Answers F) (raises : Raises F) (hnow : F .now)
    (hfieldFrame : F (.fieldFrame field)) : Goes F s (execFieldTestWaitTimeout field s) := by
  refine ⟨_, rfl, ?_⟩
  split
  · exact .when (.ite (borrow_within raises hfieldFrame) (.andThen (.setNow hnow) (dropTest_within answers (raises.field _) hfieldFrame)))
  · exact .skip

theorem overrunTest_within {f : Nat} (abort : Aborts F) (raises : Raises F) (hhubFrame : F .hubFrame) (hpower : F .power)
    (hditch : F .ditch) (hctx : ∀ x, F (.ctx x)) (hfieldFrame : F (.fieldFrame f)) (hlinkFrame : ∀ x, F (.linkFrame x))
    (hlinkRx : ∀ x, F (.linkRx x)) : (overrunTest f).Within F :=
  withInBand_within (.cons (answerTest_within abort.toAnswers) (.cons (fenceField_within abort raises hditch hctx hfieldFrame hlinkFrame
    hlinkRx) (.cons (trainingWaits_within abort.toAnswers) (.cons (checkSet_within abort raises hhubFrame hpower hctx) .nil)))) abort.out

theorem endTest_within {f start : Nat} {t : FieldTest} {found : TestResult} (answers : Answers F) (raises : Raises F)
    (hhubCore : F .hubCore) (hhubFrame : F .hubFrame) (hfieldFrame : F (.fieldFrame f)) (hfieldWork : F (.fieldWork f)) :
    (endTest f start t found).Within F :=
  .look fun _ => .cons (.hub answers.hub (hc := .inl hhubCore) (hf := .inl hhubFrame)) (.cons (.field (raises.field _) (hf := .inl
    hfieldFrame) (hw := .inl hfieldWork) (hb := .inr fun _ h => Field.tested_booked _ h)) (.cons (raise_within raises.evc (raises.field _)
    raises.ring) (.cons (answerTest_within answers) .nil)))

theorem execTestDone_within {field : Nat} {found : TestResult} {s : State} (abort : Aborts F) (raises : Raises F)
    (hhubFrame : F .hubFrame) (hpower : F .power) (hditch : F .ditch) (hctx : ∀ x, F (.ctx x)) (hfieldFrame : F (.fieldFrame field))
    (hlinkFrame : ∀ x, F (.linkFrame x)) (hlinkRx : ∀ x, F (.linkRx x)) : Goes F s (execTestDone field found s) := by
  refine ⟨_, rfl, ?_⟩
  split
  · split
    · exact .when (.ite (overrunTest_within abort raises hhubFrame hpower hditch hctx hfieldFrame hlinkFrame hlinkRx) (endTest_within
        abort.toAnswers raises abort.hubCore hhubFrame hfieldFrame (abort.fieldWork _)))
    · exact .skip
  · exact .skip

theorem execFieldTestTimeout_within {field : Nat} {s : State} (abort : Aborts F) (raises : Raises F) (hnow : F .now)
    (hhubFrame : F .hubFrame) (hpower : F .power) (hditch : F .ditch) (hctx : ∀ x, F (.ctx x)) (hfieldFrame : F (.fieldFrame field))
    (hlinkFrame : ∀ x, F (.linkFrame x)) (hlinkRx : ∀ x, F (.linkRx x)) : Goes F s (execFieldTestTimeout field s) := by
  refine ⟨_, rfl, ?_⟩
  split
  · split
    · exact .andThen (.setNow hnow) (overrunTest_within abort raises hhubFrame hpower hditch hctx hfieldFrame hlinkFrame hlinkRx)
    · exact .skip
  · exact .skip

/-! ## LinkEv -/

theorem execLinkTrainingDone_within {link : Nat} {found : Training} {s : State} (abort : Aborts F) (raises : Raises F)
    (hhubFrame : F .hubFrame) (hwaits : F .waits) (hpower : F .power) (hctx : ∀ x, F (.ctx x)) (hlinkFrame : ∀ x, F (.linkFrame x))
    (hlinkRx : ∀ x, F (.linkRx x)) : Goes F s (execLinkTrainingDone link found s) :=
  ⟨_, rfl, .when (withInBand_within (.cons (.when (returnBlocks_within abort.link (abort.field _))) (.cons (.link (abort.link _) (hf :=
    .inl (hlinkFrame _)) (ht := .inl (abort.linkTx _)) (hr := .inl (hlinkRx _)) (hi := .inl (abort.linkInject _)) (he := .inl
    (abort.linkEntries _)) (hb := .inr fun _ h => Link.afterTraining_booked _ _ h)) (.cons (linkChange_within raises.evc (abort.field _)
    raises.ring) (.cons (trainingWaits_within abort.toAnswers) (.cons (checkBringUp_within abort.hub abort.hubCore hhubFrame) (.cons
    (checkWarm_within abort raises hhubFrame hwaits hctx hlinkFrame hlinkRx) (.cons (checkSet_within abort raises hhubFrame hpower hctx)
    .nil))))))) abort.out)⟩

theorem linkGone_within {i : Nat} (abort : Aborts F) (raises : Raises F) (hhubFrame : F .hubFrame) (hpower : F .power)
    (hctx : ∀ x, F (.ctx x)) (hlinkFrame : F (.linkFrame i)) (hlinkRx : ∀ x, F (.linkRx x)) : (linkGone i).Within F :=
  withInBand_within (.cons (dropLink_within abort hctx hlinkFrame hlinkRx) (.cons (linkChange_within raises.evc (abort.field _)
    raises.ring) (.cons (checkSet_within abort raises hhubFrame hpower hctx) .nil))) abort.out

theorem execLaneSubstitute_within {link lane : Nat} {s : State} (abort : Aborts F) (raises : Raises F) (hhubFrame : F .hubFrame)
    (hpower : F .power) (hctx : ∀ x, F (.ctx x)) (hlinkFrame : F (.linkFrame link)) (hlinkRx : ∀ x, F (.linkRx x)) : Goes F s
    (execLaneSubstitute link lane s) :=
  ⟨_, rfl, .when (.ite (linkGone_within abort raises hhubFrame hpower hctx hlinkFrame hlinkRx) (.andThen (.link (abort.link _) (hf := .inl
    hlinkFrame)) (linkChange_within raises.evc (abort.field _) raises.ring)))⟩

theorem execLinkDown_within {link : Nat} {s : State} (abort : Aborts F) (raises : Raises F) (hhubFrame : F .hubFrame)
    (hpower : F .power) (hctx : ∀ x, F (.ctx x)) (hlinkFrame : F (.linkFrame link)) (hlinkRx : ∀ x, F (.linkRx x)) : Goes F s
    (execLinkDown link s) :=
  ⟨_, rfl, .when (linkGone_within abort raises hhubFrame hpower hctx hlinkFrame hlinkRx)⟩

theorem execPartnerTrainingStart_within {link : Nat} {s : State} (abort : Aborts F) (raises : Raises F) (hhubFrame : F .hubFrame)
    (hpower : F .power) (hctx : ∀ x, F (.ctx x)) (hlinkFrame : F (.linkFrame link)) (hlinkRx : ∀ x, F (.linkRx x)) : Goes F s
    (execPartnerTrainingStart link s) :=
  ⟨_, rfl, .when (withInBand_within (.andThen (startTraining_within abort hctx hlinkFrame hlinkRx) (checkSet_within abort raises hhubFrame
    hpower hctx)) abort.out)⟩

theorem receiveAbort_within {i : Nat} {r : AbortRecord} (abort : Aborts F) (hctx : ∀ x, F (.ctx x)) : (receiveAbort i r).Within F :=
  .look fun _ => .when (.andThen (noteAbort_within abort.hub abort.hubCore) (.when (.andThen (sendAbort_within abort.out abort.link
    abort.linkTx) (tearJob_within abort.toTears hctx))))

theorem execAbortRecord_within {link : Nat} {record : AbortRecord} {s : State} (abort : Aborts F) (hctx : ∀ x, F (.ctx x)) : Goes F s
    (execAbortRecord link record s) :=
  ⟨_, rfl, receiveAbort_within abort hctx⟩

theorem discardAbort_within {i : Nat} {p : Packet} {code : Nat} (abort : Aborts F) (raises : Raises F) (hctx : ∀ x, F (.ctx x)) :
    (discardAbort i p code).Within F :=
  .andThen (discardEvent_within raises.evc (abort.field _) raises.ring) (abortJob_within abort hctx)

theorem arrive_within {i : Nat} {p : Packet} (abort : Aborts F) (raises : Raises F) (hctx : ∀ x, F (.ctx x)) (hlinkRx : F (.linkRx i)) :
    (arrive i p).Within F :=
  .look fun _ => .ite (.andThen (.andThen (storeUnits_within abort.link (abort.field _)) (returnUnits_within abort.link (abort.field _)))
    (.cons (discardEvent_within raises.evc (abort.field _) raises.ring) (.cons (parityEvent_within raises.evc (abort.field _) raises.ring)
    (.cons (.when (abortJob_within abort hctx)) .nil)))) (.ite (.andThen (.andThen (storeUnits_within abort.link (abort.field _))
    (returnUnits_within abort.link (abort.field _))) (discardEvent_within raises.evc (abort.field _) raises.ring)) (.ite (.andThen
    (.andThen (storeUnits_within abort.link (abort.field _)) (returnUnits_within abort.link (abort.field _))) (discardEvent_within
    raises.evc (abort.field _) raises.ring)) (.ite (.andThen (.andThen (storeUnits_within abort.link (abort.field _)) (returnUnits_within
    abort.link (abort.field _))) (discardAbort_within abort raises hctx)) (.ite (.andThen (.andThen (storeUnits_within abort.link
    (abort.field _)) (returnUnits_within abort.link (abort.field _))) .skip) (.ite (.andThen (.andThen (storeUnits_within abort.link
    (abort.field _)) (returnUnits_within abort.link (abort.field _))) (discardAbort_within abort raises hctx)) (.andThen (storeUnits_within
    abort.link (abort.field _)) (.link (abort.link _) (hr := .inl hlinkRx))))))))

theorem replayAll_within {i : Nat} (hout : F .out) (hevc : F .evc) (hfield : F (.field ((56 * (i / 4) + 20 + i % 4) / 56)))
    (hlink : F (.link i)) (hring : ∀ x, F (.ring x)) : (replayAll i).Within F :=
  .look fun _ => .cons (.each (fun _ => .emit hout)) (.cons (.link hlink) (.cons (linkChange_within hevc hfield hring) .nil))

theorem takeAck_within {i ack : Nat} {nack : Bool} (hout : F .out) (hevc : F .evc)
    (hfield : F (.field ((56 * (i / 4) + 20 + i % 4) / 56))) (hlink : F (.link i)) (hlinkTx : F (.linkTx i)) (hring : ∀ x, F (.ring x))
    : (takeAck i ack nack).Within F := by
  refine .look fun _ => ?_
  dsimp only
  split
  · exact .ite (.andThen (.link hlink (ht := .inl hlinkTx) (hb := .inr fun _ h => List.length_drop.trans_le ((Nat.sub_le _ _).trans h)))
      (.when (replayAll_within hout hevc hfield hlink hring))) (.link hlink (ht := .inl hlinkTx) (hb := .inr fun _ h =>
      List.length_drop.trans_le ((Nat.sub_le _ _).trans h)))
  · exact .when (.link hlink (ht := .inl hlinkTx) (hb := .inr fun _ _ => Link.reset_booked))

theorem takeBody_within {i ftype : Nat} {flit : List Byte} (abort : Aborts F) (raises : Raises F) (hctx : ∀ x, F (.ctx x))
    (hlinkRx : F (.linkRx i)) : (takeBody i ftype flit).Within F := by
  refine .look fun _ => ?_
  split
  · exact .andThen (.link (abort.link _)) (.each (fun _ => arrive_within abort raises hctx hlinkRx))
  · exact .each (fun _ => receiveAbort_within abort hctx)
  · exact .skip

theorem acceptFlit_within {i : Nat} {flit : List Byte} (abort : Aborts F) (raises : Raises F) (hctx : ∀ x, F (.ctx x))
    (hlinkRx : F (.linkRx i)) : (acceptFlit i flit).Within F :=
  .cons (.link (abort.link _)) (.cons (.when (takeAck_within abort.out raises.evc (abort.field _) (abort.link _) (abort.linkTx _)
    raises.ring)) (.cons (flushHeld_within abort.out (abort.link _) (abort.linkTx _)) (.cons (takeBody_within abort raises hctx hlinkRx)
    .nil)))

theorem answerFlit_within {i : Nat} {before : BitVec 12} (hout : F .out) : (answerFlit i before).Within F :=
  .look fun _ => .when (sendIdle_within hout)

theorem execFlitReceive_within {link : Nat} {flit : List Byte} {fecUncorrectable : Nat} {s : State} (abort : Aborts F)
    (raises : Raises F) (hctx : ∀ x, F (.ctx x)) (hlinkRx : F (.linkRx link)) : Goes F s (execFlitReceive link flit fecUncorrectable s) :=
  ⟨_, rfl, .when (.andThen (.link (abort.link _)) (.andThen (.ite (.link (abort.link _)) (.ite (acceptFlit_within abort raises hctx
    hlinkRx) (.when (.andThen (takeAck_within abort.out raises.evc (abort.field _) (abort.link _) (abort.linkTx _) raises.ring)
    (flushHeld_within abort.out (abort.link _) (abort.linkTx _)))))) (answerFlit_within abort.out)))⟩

theorem execReplayTimeout_within {link : Nat} {s : State} (hout : F .out) (hevc : F .evc)
    (hfield : F (.field ((56 * (link / 4) + 20 + link % 4) / 56))) (hlink : F (.link link)) (hring : ∀ x, F (.ring x)) : Goes F s
    (execReplayTimeout link s) :=
  ⟨_, rfl, .when (replayAll_within hout hevc hfield hlink hring)⟩

theorem leaveInput_within {i j : Nat} {p : Packet} (hhub : F .hub) (hfield : F (.field (j / 4))) (hlink : ∀ x, F (.link x))
    (hlinkRx : F (.linkRx j)) (hlinkInject : F (.linkInject i)) : (leaveInput i j p).Within F :=
  .ite (takePacket_within hhub hfield hlink hlinkRx) (.link (hlink _) (hi := .inl hlinkInject))

theorem sendPacketFlits_within {i : Nat} {p : Packet} (hout : F .out) (hbooks : F .books) (hlink : F (.link i))
    (hlinkTx : F (.linkTx i)) : (sendPacketFlits i p).Within F :=
  .look fun _ => .andThen (.each (fun _ => pushFlit_within hout hbooks hlink hlinkTx)) (.link hlink (ht := .inl hlinkTx))

theorem execResidencyTimeout_within {link vl : Nat} {s : State} (abort : Aborts F) (raises : Raises F) (hctx : ∀ x, F (.ctx x))
    (hlinkRx : F (.linkRx link)) : Goes F s (execResidencyTimeout link vl s) := by
  refine ⟨_, rfl, ?_⟩
  split
  · exact .andThen (takePacket_within abort.hub (abort.field _) abort.link hlinkRx) (discardAbort_within abort raises hctx)
  · exact .skip

end Sys2Proof.Machine

/-! The places of the effects of the model: collectives. -/
namespace Sys2Proof.Machine

-- The default proofs of the side conditions are evaluated only once all lemmas before are checked: in order, none waits in a thread of
-- its own.
set_option Elab.async false

variable {F : Place → Prop}

/-! ## Sluice -/

theorem returnAll_within {units : List (Nat × Nat)} (hfield : ∀ x, F (.field x)) (hlink : ∀ x, F (.link x)) : (returnAll units).Within F :=
  .each (fun _ => returnUnits_within hlink (hfield _))

/-! ## Collective -/

theorem onEntry_within {link : Nat} {job redNo : U16} {f : JobEntry → JobEntry} (hlink : F (.link link))
    (hlinkEntries : F (.linkEntries link)) : (onEntry link job redNo f).Within F :=
  .link hlink (he := .inl hlinkEntries)

theorem freeKey_within {job redNo : U16} (hfield : ∀ x, F (.field x)) (hlink : ∀ x, F (.link x))
    (hlinkEntries : ∀ x, F (.linkEntries x)) : (freeKey job redNo).Within F :=
  freeEntries_within hfield hlink hlinkEntries

theorem sendReady_within {link : Nat} {e : JobEntry} {dst : List (U16 × Option Nat)} (sends : Sends F) : (sendReady link e dst).Within F := by
  refine .look fun _ => .each (fun _ => ?_)
  dsimp only
  split
  · exact injectAt_within (sends.link _) (sends.linkInject _)
  · exact sendPacket_within sends

theorem endCollective_within {c : Nat} {o : Op} {status : Nat} {aborts : Bool} (abort : Aborts F) (raises : Raises F) (hruns : F .runs)
    (hctx : ∀ x, F (.ctx x)) : (endCollective c o status aborts).Within F :=
  .look fun _ => .andThen (endOp_within abort raises hruns hctx) (.when (abortJob_within abort hctx))

theorem collFail_within {t : Part} {status : Nat} {aborts : Bool} (abort : Aborts F) (raises : Raises F) (hruns : F .runs)
    (hctx : ∀ x, F (.ctx x)) : (collFail t status aborts).Within F :=
  endCollective_within abort raises hruns hctx

theorem sluiceProgress_within {link : Nat} (hfield : F (.field (link / 4))) : (sluiceProgress link).Within F :=
  progress_within hfield

theorem sluicePoison_within {link : Nat} {t : Part} {index : U32} (abort : Aborts F) (raises : Raises F) (hctx : ∀ x, F (.ctx x)) :
    (sluicePoison link t index).Within F :=
  .look fun _ => .cons (.link (abort.link _)) (.cons (raise_within raises.evc (abort.field _) raises.ring) (.cons (abortJob_within abort
    hctx) .nil))

theorem collEnd_within {c : Nat} {seq : U32} (hctx : F (.ctx c)) (hfield : ∀ x, F (.field x)) (hlink : ∀ x, F (.link x))
    (hlinkEntries : ∀ x, F (.linkEntries x)) : (collEnd c seq).Within F := by
  refine .look fun _ => ?_
  split
  · exact .skip
  · exact .ite (.cons (.when (setFlags_within hctx)) (.cons (freeKey_within hfield hlink hlinkEntries) (.cons (onOp_within hctx (.inr fun _
      _ => by simp [Op.copies])) .nil))) (.each (fun _ => .link (hlink _) (he := .inl (hlinkEntries _))))

theorem sentFrom_within {home : Nat} {b : RedBlock} (hfield : ∀ x, F (.field x)) (hlink : ∀ x, F (.link x)) : (sentFrom home b).Within F := by
  refine .look fun _ => ?_
  split
  · exact .skip
  · exact .ite (.link (hlink _)) (.andThen (.link (hlink _)) (returnAll_within hfield hlink))

theorem leftHome_within {home : Option Nat} {b : RedBlock} (hfield : ∀ x, F (.field x)) (hlink : ∀ x, F (.link x)) :
    (leftHome home b).Within F := by
  unfold leftHome
  split
  · exact sentFrom_within hfield hlink
  · exact .skip

theorem queueBlock_within {t : Part} {b : RedBlock} {dst : Option Nat} {originated escalated : Bool} {home : Option Nat}
    (abort : Aborts F) (raises : Raises F) (hruns : F .runs) (hctx : ∀ x, F (.ctx x)) :
    (queueBlock t b dst originated escalated home).Within F := by
  refine .look fun _ => ?_
  dsimp only
  split
  · exact .ite (leftHome_within abort.field abort.link) (.link (abort.link _))
  · split
    · exact .ite (.ite (leftHome_within abort.field abort.link) (.link (abort.link _))) (.andThen (.hub abort.hub) (leftHome_within
        abort.field abort.link))
    · exact collFail_within abort raises hruns hctx

theorem queueHeld_within {link : Nat} {t : Part} {b : RedBlock} {dst : List (Option Nat)} {escalated : Bool} {buffer : Option Bool}
    {units : List (Nat × Nat)} (abort : Aborts F) (raises : Raises F) (hruns : F .runs) (hctx : ∀ x, F (.ctx x)) :
    (queueHeld link t b dst escalated buffer units).Within F :=
  .ite (returnAll_within abort.field abort.link) (.andThen (.link (abort.link _)) (.each (fun _ => queueBlock_within abort raises hruns
    hctx)))

theorem sendBlock_within {link : Nat} {q : ToSend} {lent : Bool} (hfield : F (.field (link / 4))) (hlink : F (.link link)) :
    (sendBlock link q lent).Within F :=
  .look fun _ => .when (.cons (.link hlink) (.cons (onVl_within hlink hfield (.inr fun _ => Nat.le_refl _)) .nil))

theorem leavePacket_within {i v j : Nat} {p : Packet} (hhub : F .hub) (hctx : ∀ x, F (.ctx x)) (hfield : ∀ x, F (.field x))
    (hlink : ∀ x, F (.link x)) (hlinkRx : F (.linkRx j)) (hlinkInject : F (.linkInject i)) (hlinkEntries : ∀ x, F (.linkEntries x)) :
    (leavePacket i v j p).Within F := by
  refine .look fun _ => ?_
  split
  · exact .andThen (leaveInput_within hhub (hfield _) hlink hlinkRx hlinkInject) (.when (startDescriptor_within hfield))
  · exact .ite (.link (hlink _)) (.cons (.link (hlink _)) (.cons (leftHome_within hfield hlink) (.cons (sluiceProgress_within (hfield _))
      (.cons (.each (fun _ => collEnd_within (hctx _) hfield hlink hlinkEntries)) .nil))))

theorem execPacketForward_within {link : Nat} {s : State} (abort : Aborts F) (raises : Raises F) (hbooks : F .books)
    (hctx : ∀ x, F (.ctx x)) (hlinkRx : ∀ x, F (.linkRx x)) : Goes F s (execPacketForward link s) := by
  refine ⟨_, rfl, ?_⟩
  split
  · exact .when (fillSlot_within abort.out (abort.link _) (abort.linkTx _))
  · exact .ite (.cons (leavePacket_within abort.hub hctx abort.field abort.link (hlinkRx _) (abort.linkInject _) abort.linkEntries) (.cons
      (.when (onVl_within (abort.link _) (abort.field _) (.inr fun _ => Nat.le_refl _))) (.cons (discardAbort_within abort raises hctx)
      .nil))) (.ite (.cons (leavePacket_within abort.hub hctx abort.field abort.link (hlinkRx _) (abort.linkInject _) abort.linkEntries)
      (.cons (.when (onVl_within (abort.link _) (abort.field _) (.inr fun _ => Nat.le_refl _))) (.cons (discardEvent_within raises.evc
      (abort.field _) raises.ring) .nil))) (.ite (fillSlot_within abort.out (abort.link _) (abort.linkTx _)) (.cons (leavePacket_within
      abort.hub hctx abort.field abort.link (hlinkRx _) (abort.linkInject _) abort.linkEntries) (.cons (.link (abort.link _)) (.cons (.when
      (onVl_within (abort.link _) (abort.field _) (.inr fun _ => Nat.le_refl _))) (.cons (sendPacketFlits_within abort.out hbooks
      (abort.link _) (abort.linkTx _)) .nil))))))

theorem poisonHere_within {link : Nat} {t : Part} {index : U32} {go : Fx} (hgo : go.Within F) (abort : Aborts F) (raises : Raises F)
    (hctx : ∀ x, F (.ctx x)) : (poisonHere link t index go).Within F := by
  refine .cons hgo (.cons (.look fun _ => .each (fun _ => ?_)) (.cons (sluicePoison_within abort raises hctx) .nil))
  split
  · exact .when (sendBlock_within (abort.field _) (abort.link _))
  · exact .skip

theorem Part.meet_within {t : Part} {i : Nat} (answers : Answers F) (touches : Touches F) (hdata : F .data)
    (hfieldFrame : F (.fieldFrame (gaOffset (t.src.slotAddr (unrank t.src.grid i)) / 2 ^ 32))) : (Part.meet t i).Within F := by
  refine .look fun _ => ?_
  dsimp only
  split
  · exact .skip
  · exact .when (.andThen (awaitSets_within answers touches.mem hdata touches.tiles (touches.field _) hfieldFrame) (touchRange_within
      touches))

theorem contribFail_within {link : Nat} {t : Part} {index : U32} {e : Stop} {units : List (Nat × Nat)} {go : Fx} (hgo : go.Within F)
    (abort : Aborts F) (raises : Raises F) (hruns : F .runs) (hctx : ∀ x, F (.ctx x)) : (contribFail link t index e units go).Within F :=
  .andThen (raiseEvs_within raises) (.ite (poisonHere_within hgo abort raises hctx) (.andThen (returnAll_within abort.field abort.link)
    (collFail_within abort raises hruns hctx)))

theorem bookDelivery_within {link : Nat} {t : Part} {b : RedBlock} (hctx : F (.ctx t.c)) (hfield : F (.field (link / 4)))
    (hlink : F (.link link)) (hlinkEntries : F (.linkEntries link)) : (bookDelivery link t b).Within F :=
  .look fun _ => .cons (onEntry_within hlink hlinkEntries) (.cons (.when (setFlags_within hctx)) (.cons (sluiceProgress_within hfield)
    (.cons (onOp_within hctx (.inr fun _ h => h)) (.cons (.when (.andThen (failOp_within hctx) (onOp_within hctx (.inr fun _ _ => by simp
    [Op.copies])))) .nil))))

theorem deliver_within {link : Nat} {t : Part} {b : RedBlock} (answers : Answers F) (touches : Touches F) (hdata : F .data)
    (hhubCore : F .hubCore) (hctx : F (.ctx t.c)) (hfieldFrame : ∀ x, F (.fieldFrame x)) (hlinkEntries : F (.linkEntries link)) :
    (deliver link t b).Within F :=
  .look fun _ => .andThen (.ite .skip (landPiece_within answers touches hdata hhubCore hctx (hfieldFrame _))) (bookDelivery_within hctx
    (touches.field _) (answers.link _) hlinkEntries)

theorem passSum_within {link : Nat} {t : Part} {b : RedBlock} {escalated : Bool} {buffer : Option Bool} {units : List (Nat × Nat)}
    (abort : Aborts F) (touches : Touches F) (hruns : F .runs) (hctx : ∀ x, F (.ctx x)) (hfieldFrame : ∀ x, F (.fieldFrame x)) :
    (passSum link t b escalated buffer units).Within F := by
  refine .look fun _ => .ite (.andThen (.when (deliver_within abort.toAnswers touches abort.data abort.hubCore (hctx _) hfieldFrame
    (abort.linkEntries _))) (queueHeld_within abort touches.toRaises hruns hctx)) ?_
  split
  · exact .ite (.andThen (deliver_within abort.toAnswers touches abort.data abort.hubCore (hctx _) hfieldFrame (abort.linkEntries _))
      (returnAll_within abort.field abort.link)) (queueHeld_within abort touches.toRaises hruns hctx)
  · exact .andThen (deliver_within abort.toAnswers touches abort.data abort.hubCore (hctx _) hfieldFrame (abort.linkEntries _)) (.ite
      (queueHeld_within abort touches.toRaises hruns hctx) (.andThen (queueBlock_within abort touches.toRaises hruns hctx)
      (returnAll_within abort.field abort.link)))
  · exact .andThen (deliver_within abort.toAnswers touches abort.data abort.hubCore (hctx _) hfieldFrame (abort.linkEntries _))
      (returnAll_within abort.field abort.link)

theorem finishSum_within {link : Nat} {t : Part} {b : RedBlock} {escalated : Bool} {buffer : Option Bool} {units : List (Nat × Nat)}
    (abort : Aborts F) (touches : Touches F) (hruns : F .runs) (hctx : ∀ x, F (.ctx x)) (hfieldFrame : ∀ x, F (.fieldFrame x)) :
    (finishSum link t b escalated buffer units).Within F :=
  .ite (poisonHere_within (passSum_within abort touches hruns hctx hfieldFrame) abort touches.toRaises hctx) (passSum_within abort touches
    hruns hctx hfieldFrame)

theorem bookAdd_within {link : Nat} {b : RedBlock} (hfield : F (.field (link / 4))) (hlink : F (.link link))
    (hlinkEntries : F (.linkEntries link)) : (bookAdd link b).Within F :=
  .andThen (sluiceProgress_within hfield) (.when (onEntry_within hlink hlinkEntries))

theorem addTo_within {link : Nat} {t : Part} {b d : RedBlock} {laneFault : Bool} {k : RedBlock → Bool → Fx}
    (hk : ∀ x0 x1, (k x0 x1).Within F) (abort : Aborts F) (raises : Raises F) (hctx : ∀ x, F (.ctx x)) :
    (addTo link t b d laneFault k).Within F :=
  .ite (hk _ _) (.ite (.andThen (raiseEvs_within raises) (poisonHere_within (hk _ _) abort raises hctx)) (.andThen (.when (.link
    (abort.link _))) (hk _ _)))

theorem addLocal_within {link : Nat} {t : Part} {b : RedBlock} {units : List (Nat × Nat)} {laneFault : Bool} {k : RedBlock → Bool → Fx}
    (hk : ∀ x0 x1, (k x0 x1).Within F) (abort : Aborts F) (touches : Touches F) (hruns : F .runs) (hctx : ∀ x, F (.ctx x))
    (hfieldFrame : F (.fieldFrame (gaOffset (t.src.slotAddr (unrank t.src.grid (BitVec.toNat b.index))) / 2 ^ 32))) :
    (addLocal link t b units laneFault k).Within F := by
  refine .look fun _ => .ite (.andThen (bookAdd_within (abort.field _) (abort.link _) (abort.linkEntries _)) (hk _ _)) (.andThen (.when
    (Part.meet_within abort.toAnswers touches abort.data hfieldFrame)) (.look fun _ => ?_))
  split
  · exact contribFail_within (.andThen (bookAdd_within (abort.field _) (abort.link _) (abort.linkEntries _)) (hk _ _)) abort
      touches.toRaises hruns hctx
  · exact addTo_within (fun _ _ => .andThen (bookAdd_within (abort.field _) (abort.link _) (abort.linkEntries _)) (hk _ _)) abort
      touches.toRaises hctx

theorem ringAdd_within {link : Nat} {t : Part} {b : RedBlock} {buffer : Option Bool} {units : Nat} {laneFault final : Bool}
    (abort : Aborts F) (touches : Touches F) (hruns : F .runs) (hctx : ∀ x, F (.ctx x)) (hfieldFrame : ∀ x, F (.fieldFrame x)) :
    (ringAdd link t b buffer units laneFault final).Within F :=
  addLocal_within (fun _ _ => .ite (finishSum_within abort touches hruns hctx hfieldFrame) (queueHeld_within abort touches.toRaises hruns
    hctx)) abort touches hruns hctx (hfieldFrame _)

theorem ringFlags_within {link : Nat} {t : Part} {b : RedBlock} {units : Nat} (abort : Aborts F) (touches : Touches F) (hruns : F .runs)
    (hctx : ∀ x, F (.ctx x)) (hfieldFrame : ∀ x, F (.fieldFrame x)) : (ringFlags link t b units).Within F :=
  .ite (.andThen (deliver_within abort.toAnswers touches abort.data abort.hubCore (hctx _) hfieldFrame (abort.linkEntries _))
    (returnUnits_within abort.link (abort.field _))) (.andThen (onOp_within (hctx _) (.inr fun _ h => h)) (queueHeld_within abort
    touches.toRaises hruns hctx))

theorem ringCarry_within {link : Nat} {t : Part} {b : RedBlock} {units origin : Nat} (abort : Aborts F) (touches : Touches F)
    (hruns : F .runs) (hctx : ∀ x, F (.ctx x)) (hfieldFrame : ∀ x, F (.fieldFrame x)) : (ringCarry link t b units origin).Within F :=
  .andThen (deliver_within abort.toAnswers touches abort.data abort.hubCore (hctx _) hfieldFrame (abort.linkEntries _)) (.ite
    (returnUnits_within abort.link (abort.field _)) (queueHeld_within abort touches.toRaises hruns hctx))

theorem ringBlock_within {link : Nat} {t : Part} {b : RedBlock} {buffer : Option Bool} {units : Nat} {laneFault : Bool}
    (abort : Aborts F) (touches : Touches F) (hruns : F .runs) (hctx : ∀ x, F (.ctx x)) (hfieldFrame : ∀ x, F (.fieldFrame x)) :
    (ringBlock link t b buffer units laneFault).Within F :=
  .ite (ringFlags_within abort touches hruns hctx hfieldFrame) (.ite (ringCarry_within abort touches hruns hctx hfieldFrame)
    (ringAdd_within abort touches hruns hctx hfieldFrame))

theorem treeKeep_within {link : Nat} {t : Part} {buffer : Option Bool} {units : List (Nat × Nat)} {sum : RedBlock} {wider : Bool}
    (abort : Aborts F) (touches : Touches F) (hruns : F .runs) (hctx : ∀ x, F (.ctx x)) (hfieldFrame : ∀ x, F (.fieldFrame x)) :
    (treeKeep link t buffer units sum wider).Within F := by
  refine .andThen (.link (abort.link _)) (.ite (.link (abort.link _)) (.andThen (.when (onOp_within (hctx _) (.inr fun _ h => h))) ?_))
  split
  · exact queueHeld_within abort touches.toRaises hruns hctx
  · exact finishSum_within abort touches hruns hctx hfieldFrame

theorem treeAdd_within {link inLink : Nat} {t : Part} {b : RedBlock} {buffer : Option Bool} {units : Nat} {laneFault : Bool}
    (abort : Aborts F) (touches : Touches F) (hruns : F .runs) (hctx : ∀ x, F (.ctx x)) (hfieldFrame : ∀ x, F (.fieldFrame x)) :
    (treeAdd link inLink t b buffer units laneFault).Within F := by
  refine .look fun _ => ?_
  split
  · exact addTo_within (fun _ _ => .andThen (sluiceProgress_within (abort.field _)) (treeKeep_within abort touches hruns hctx hfieldFrame))
      abort touches.toRaises hctx
  · exact addLocal_within (fun _ _ => treeKeep_within abort touches hruns hctx hfieldFrame) abort touches hruns hctx (hfieldFrame _)

theorem treeBlock_within {link inLink : Nat} {t : Part} {src : U16} {b : RedBlock} {buffer : Option Bool} {units : Nat}
    {laneFault : Bool} (abort : Aborts F) (touches : Touches F) (hruns : F .runs) (hctx : ∀ x, F (.ctx x))
    (hfieldFrame : ∀ x, F (.fieldFrame x)) : (treeBlock link inLink t src b buffer units laneFault).Within F := by
  refine .ite (.ite (poisonHere_within (.andThen (deliver_within abort.toAnswers touches abort.data abort.hubCore (hctx _) hfieldFrame
    (abort.linkEntries _)) (queueHeld_within abort touches.toRaises hruns hctx)) abort touches.toRaises hctx) (.andThen (deliver_within
    abort.toAnswers touches abort.data abort.hubCore (hctx _) hfieldFrame (abort.linkEntries _)) (queueHeld_within abort touches.toRaises
    hruns hctx))) (.ite (treeAdd_within abort touches hruns hctx hfieldFrame) ?_)
  split
  · exact queueHeld_within abort touches.toRaises hruns hctx
  · exact .andThen (deliver_within abort.toAnswers touches abort.data abort.hubCore (hctx _) hfieldFrame (abort.linkEntries _))
      (queueHeld_within abort touches.toRaises hruns hctx)

theorem execRedReady_within {link : Nat} {p : Packet} {s : State} (hhub : F .hub) (hfield : F (.field (link / 4)))
    (hlink : ∀ x, F (.link x)) (hlinkRx : F (.linkRx link)) (hlinkEntries : F (.linkEntries link)) : Goes F s (execRedReady link p s) := by
  refine ⟨_, rfl, onPacket_within (.andThen (takePacket_within hhub hfield hlink hlinkRx) ?_)⟩
  split
  · exact onEntry_within (hlink _) hlinkEntries
  · split
    · exact .link (hlink _) (he := .inl hlinkEntries)
    · exact .skip

theorem execRedReadyResend_within {link entry : Nat} {s : State} (sends : Sends F) : Goes F s (execRedReadyResend link entry s) := by
  refine ⟨_, rfl, ?_⟩
  split
  · exact .skip
  · split
    · exact .skip
    · exact .when (sendReady_within sends)

theorem keepPacket_within {i : Nat} {p : Packet} (hhub : F .hub) (hlink : F (.link i)) (hlinkRx : F (.linkRx i)) :
    (keepPacket i p).Within F :=
  .look fun _ => .ite (.link hlink (hr := .inl hlinkRx)) (.hub hhub)

theorem execRedHead_within {link : Nat} {p : Packet} {s : State} (hhub : F .hub) (hfield : F (.field (link / 4)))
    (hlink : ∀ x, F (.link x)) (hlinkRx : F (.linkRx link)) (hlinkEntries : ∀ x, F (.linkEntries x)) : Goes F s (execRedHead link p s) := by
  refine ⟨_, rfl, onPacket_within ?_⟩
  split
  · exact takePacket_within hhub hfield hlink hlinkRx
  · exact .cons (keepPacket_within hhub (hlink _) hlinkRx) (.cons (onEntry_within (hlink _) (hlinkEntries _)) (.cons (.link (hlink _))
      .nil))

theorem execRedData_within {link : Nat} {p : Packet} {s : State} (hhub : F .hub) (hfield : F (.field (link / 4)))
    (hlink : ∀ x, F (.link x)) (hlinkRx : F (.linkRx link)) : Goes F s (execRedData link p s) :=
  ⟨_, rfl, onPacket_within (.ite (.andThen (keepPacket_within hhub (hlink _) hlinkRx) (.link (hlink _))) (takePacket_within hhub hfield
    hlink hlinkRx))⟩

theorem acceptBlock_within {link i : Nat} {t : Part} {b : Staged} {trailer : List Byte} {buffer : Option Bool} {units : Nat}
    {laneFault : Bool} (abort : Aborts F) (touches : Touches F) (hruns : F .runs) (hctx : ∀ x, F (.ctx x))
    (hfieldFrame : ∀ x, F (.fieldFrame x)) : (acceptBlock link i t b trailer buffer units laneFault).Within F :=
  .ite (poisonHere_within (.ite (treeBlock_within abort touches hruns hctx hfieldFrame) (ringBlock_within abort touches hruns hctx
    hfieldFrame)) abort touches.toRaises hctx) (.ite (.andThen (returnUnits_within abort.link (abort.field _)) (collFail_within abort
    touches.toRaises hruns hctx)) (.ite (treeBlock_within abort touches hruns hctx hfieldFrame) (ringBlock_within abort touches hruns hctx
    hfieldFrame)))

theorem execRedTail_within {link : Nat} {p : Packet} {laneFault : Bool} {s : State} (abort : Aborts F) (touches : Touches F)
    (hruns : F .runs) (hctx : ∀ x, F (.ctx x)) (hfieldFrame : ∀ x, F (.fieldFrame x)) (hlinkRx : F (.linkRx link)) : Goes F s
    (execRedTail link p laneFault s) := by
  refine ⟨_, rfl, onPacket_within ?_⟩
  split
  · exact .when (.cons (keepPacket_within abort.hub (abort.link _) hlinkRx) (.cons (.link (abort.link _)) (.cons (acceptBlock_within abort
      touches hruns hctx hfieldFrame) (.cons (collEnd_within (hctx _) abort.field abort.link abort.linkEntries) .nil))))
  · exact .cons (takePacket_within abort.hub (abort.field _) abort.link hlinkRx) (.cons (.link (abort.link _)) (.cons (returnUnits_within
      abort.link (abort.field _)) .nil))
  · exact takePacket_within abort.hub (abort.field _) abort.link hlinkRx

theorem execBlockSend_within {link : Nat} {s : State} (hfield : F (.field (link / 4))) (hlink : F (.link link)) : Goes F s
    (execBlockSend link s) := by
  refine ⟨_, rfl, ?_⟩
  split
  · exact .skip
  · exact sendBlock_within hfield hlink

theorem openEntry_within {link : Nat} {job redNo : U16} {e : JobEntry} (hlink : F (.link link)) (hlinkEntries : F (.linkEntries link)) :
    (openEntry link job redNo e).Within F := by
  refine .look fun _ => ?_
  split
  · exact .link hlink (he := .inl hlinkEntries)
  · exact .link hlink (he := .inl hlinkEntries)
  · exact .skip

theorem originate_within {t : Part} {l : List (U32 × Option Nat)} (abort : Aborts F) (touches : Touches F) (hruns : F .runs)
    (hctx : ∀ x, F (.ctx x)) (hfieldFrame : ∀ x, F (.fieldFrame x)) : (originate t l).Within F := by
  induction l with
  | nil => exact .skip
  | cons q l ih =>
    refine .andThen (.when (Part.meet_within abort.toAnswers touches abort.data (hfieldFrame _))) (.look fun _ => ?_)
    split
    · exact .andThen (queueBlock_within abort touches.toRaises hruns hctx) ih
    · exact contribFail_within (queueBlock_within abort touches.toRaises hruns hctx) abort touches.toRaises hruns hctx

theorem carryOut_within {t : Part} {l : List Nat} (abort : Aborts F) (touches : Touches F) (hruns : F .runs) (hctx : ∀ x, F (.ctx x))
    (hfieldFrame : ∀ x, F (.fieldFrame x)) : (carryOut t l).Within F := by
  induction l with
  | nil => exact .skip
  | cons i l ih =>
    refine .andThen (Part.meet_within abort.toAnswers touches abort.data (hfieldFrame _)) (.look fun _ => ?_)
    dsimp only
    split
    · exact contribFail_within (.each fun _ => queueBlock_within abort touches.toRaises hruns hctx) abort touches.toRaises hruns hctx
    · exact .andThen (.each fun _ => queueBlock_within abort touches.toRaises hruns hctx) ih

theorem runPart_within {t : Part} (abort : Aborts F) (touches : Touches F) (hruns : F .runs) (hctx : ∀ x, F (.ctx x))
    (hfieldFrame : ∀ x, F (.fieldFrame x)) : (runPart t).Within F :=
  .look fun _ => .andThen (.each (fun _ => openEntry_within (abort.link _) (abort.linkEntries _))) (.ite (collFail_within abort
    touches.toRaises hruns hctx) (.cons (.each (fun _ => sendReady_within abort.toSends)) (.cons (.ite (originate_within abort touches
    hruns hctx hfieldFrame) (.ite (.andThen (.each (fun _ => landPiece_within abort.toAnswers touches abort.data abort.hubCore (hctx _)
    (hfieldFrame _))) (carryOut_within abort touches hruns hctx hfieldFrame)) .skip)) (.cons (collEnd_within (hctx _) abort.field
    abort.link abort.linkEntries) .nil))))

theorem startCollective_within {c : Nat} {seq : U32} (abort : Aborts F) (touches : Touches F) (hruns : F .runs) (hctx : ∀ x, F (.ctx x))
    (hfieldFrame : ∀ x, F (.fieldFrame x)) : (startCollective c seq).Within F := by
  refine .look fun _ => ?_
  split
  · exact .skip
  · refine .andThen (onOp_within (hctx _) (.inr fun _ h => h)) (.look fun _ => ?_)
    split
    · exact .skip
    · dsimp only
      split
      · exact .andThen (endOp_within abort touches.toRaises hruns hctx) (abortJob_within abort hctx)
      · exact runPart_within abort touches hruns hctx hfieldFrame

theorem execCollectiveTimeout_within {ctx : Nat} {s : State} (abort : Aborts F) (raises : Raises F) (hnow : F .now) (hruns : F .runs)
    (hctx : ∀ x, F (.ctx x)) : Goes F s (execCollectiveTimeout ctx s) := by
  refine ⟨_, rfl, ?_⟩
  split
  · exact .skip
  · exact .cons (.setNow hnow) (.cons (.when (setFlags_within (hctx _))) (.cons (endCollective_within abort raises hruns hctx) .nil))

end Sys2Proof.Machine

/-! The places of the effects of the model: the rows of memory, mirrors, peers, power, saving, the sideband and the witness. -/
namespace Sys2Proof.Machine

-- The default proofs of the side conditions are evaluated only once all lemmas before are checked: in order, none waits in a thread of
-- its own.
set_option Elab.async false

variable {F : Place → Prop}

/-! ## MemoryEv -/

theorem execEccWriteback_within {field bank row : Nat} {s : State} (hmem : F .mem) (hdata : F .data) (htiles : F .tiles) : Goes F s
    (execEccWriteback field bank row s) :=
  ⟨_, rfl, .when (.memScrub hmem hdata htiles)⟩

theorem execScrub_within {field : Nat} {b : BankScrub} {s : State} (touches : Touches F) (hdata : F .data) : Goes F s
    (execScrub field b s) :=
  ⟨_, rfl, .when (.cons (.memUpset touches.mem hdata touches.tiles) (.cons (plainRead_within touches) (.cons (.field (touches.field _))
    .nil)))⟩

theorem execSetTransitionDone_within {field set : Nat} {s : State} (answers : Answers F) (hmem : F .mem) (hdata : F .data)
    (htiles : F .tiles) (hfield : F (.field field)) (hfieldFrame : F (.fieldFrame field)) : Goes F s (execSetTransitionDone field set s) :=
  ⟨_, rfl, endTransition_within answers hmem hdata htiles hfield hfieldFrame⟩

theorem execHbmRefresh_within {r : StackRefresh} {s : State} (hmem : F .mem) (hdata : F .data) (htiles : F .tiles)
    (hstack : F (.stack r.stack)) : Goes F s (execHbmRefresh r s) :=
  ⟨_, rfl, .when (.cons (.each (fun _ => .memScrub hmem hdata htiles)) (.cons (.memUpset hmem hdata htiles) (.cons (.stack hstack) .nil)))⟩

theorem execHbmRetireDone_within {stack : Nat} {s : State} (abort : Aborts F) (touches : Touches F) (hhubFrame : F .hubFrame)
    (hpower : F .power) (hctx : ∀ x, F (.ctx x)) : Goes F s (execHbmRetireDone stack s) := by
  refine ⟨_, rfl, ?_⟩
  split
  · exact .skip
  · exact withInBand_within (.cons (.each (fun _ => plainRead_within touches)) (.cons (.each (fun _ => .memPoison abort.mem abort.data
      touches.tiles)) (.cons (.each (fun _ => .memScrub abort.mem abort.data touches.tiles)) (.cons (.stack (touches.stack _)) (.cons
      (finishWaits_within abort.toAnswers) (.cons (checkSet_within abort touches.toRaises hhubFrame hpower hctx) .nil)))))) abort.out

theorem execHbmStackFailed_within {stack : Nat} {s : State} (abort : Aborts F) (raises : Raises F) (hhubFrame : F .hubFrame)
    (hpower : F .power) (hctx : ∀ x, F (.ctx x)) (hstack : F (.stack stack)) : Goes F s (execHbmStackFailed stack s) :=
  ⟨_, rfl, .when (.cons (.stack hstack) (.cons (finishWaits_within abort.toAnswers) (.cons (checkSet_within abort raises hhubFrame hpower
    hctx) .nil)))⟩

theorem collisionsFx_within {words : List Nat} {l : List Collision} (hmem : F .mem) (hdata : F .data) (htiles : F .tiles)
    (hfield : ∀ x, F (.field x)) : (collisionsFx words l).Within F :=
  .each (fun _ => .when (.andThen (.memWrite hmem hdata htiles) (.field (hfield _))))

theorem execRdmaWrite_within {qp : Nat} {key : U32} {va : Nat} {data : List Byte} {collide : List Collision} {s : State}
    (answers : Answers F) (touches : Touches F) (hdata : F .data) (hfieldFrame : F (.fieldFrame (va / 2 ^ 32)))
    (hringFrame : ∀ x, F (.ringFrame x)) : Goes F s (execRdmaWrite qp key va data collide s) := by
  refine ⟨_, rfl, .when ?_⟩
  split
  · exact .cons (awaitSets_within answers touches.mem hdata touches.tiles (touches.field _) hfieldFrame) (.cons (partialReads_within
      touches) (.cons (.memWrite touches.mem hdata touches.tiles) (.cons (collisionsFx_within touches.mem hdata touches.tiles
      touches.field) (.cons (.emit answers.out) .nil))))
  · split
    · exact .andThen (.each (fun _ => ringDoorbell_within answers.out touches.evc (touches.ring _) (hringFrame _))) (.emit answers.out)
    · exact .emit answers.out

theorem execRdmaRead_within {qp : Nat} {key : U32} {va len : Nat} {s : State} (answers : Answers F) (touches : Touches F)
    (hdata : F .data) (hfieldFrame : F (.fieldFrame (va / 2 ^ 32))) : Goes F s (execRdmaRead qp key va len s) := by
  refine ⟨_, rfl, .when ?_⟩
  split
  · exact .cons (awaitSets_within answers touches.mem hdata touches.tiles (touches.field _) hfieldFrame) (.cons (.look fun _ => .emit
      answers.out) (.cons (plainRead_within touches) .nil))
  · exact .emit answers.out

/-! ## Mirror -/

theorem claimRegion_within {i : Nat} {c : Option U32} (hhub : F .hub) (hhubCore : F .hubCore) (hhubFrame : F .hubFrame) :
    (claimRegion i c).Within F :=
  .hub hhub (hc := .inl hhubCore) (hf := .inl hhubFrame)

theorem onCopy_within {id : Nat} {f : Copy → Copy} (hhub : F .hub) (hhubCore : F .hubCore) : (onCopy id f).Within F :=
  .hub hhub (hc := .inl hhubCore)

theorem sendBytes_within {id : Nat} {k : Copy} {j off : Nat} {bs : List Byte} (sends : Sends F) (hhubCore : F .hubCore) :
    (sendBytes id k j off bs).Within F :=
  .look fun _ => .each (fun _ => .andThen (onCopy_within sends.hub hhubCore) (sendCopy_within sends))

theorem copyTile_within {id : Nat} (answers : Answers F) (touches : Touches F) (hhubCore : F .hubCore) : (copyTile id).Within F := by
  refine .look fun _ => ?_
  split
  · exact .skip
  · split
    · exact .cons (.each (fun _ => raise_within touches.evc (touches.field _) touches.ring)) (.cons (touchRange_within touches) (.cons
        (endCopies_within answers hhubCore) .nil))
    · exact .cons (touchRange_within touches) (.cons (onCopy_within answers.hub hhubCore) (.cons (sendBytes_within answers.toSends
        hhubCore) (.cons (progress_within (touches.field _)) .nil)))

theorem copyRound_within {id : Nat} (answers : Answers F) (touches : Touches F) (hhubCore : F .hubCore) : (copyRound id).Within F := by
  refine .look fun _ => ?_
  split
  · exact .skip
  · exact .andThen (onCopy_within answers.hub hhubCore) (.each (fun _ => copyTile_within answers touches hhubCore))

theorem copyGoesOn_within {id : Nat} (answers : Answers F) (touches : Touches F) (hhubCore : F .hubCore) : (copyGoesOn id).Within F := by
  refine .look fun _ => ?_
  split
  · exact .skip
  · exact .when (.ite (copyRound_within answers touches hhubCore) (.ite (.andThen (onCopy_within answers.hub hhubCore) (sendBytes_within
      answers.toSends hhubCore)) (.ite (.andThen (.hub answers.hub (hc := .inl hhubCore)) (finishWaits_within answers)) (onCopy_within
      answers.hub hhubCore))))

theorem runCopy_within {id : Nat} {k : Copy} (answers : Answers F) (touches : Touches F) (hhubCore : F .hubCore) : (runCopy id k).Within
    F :=
  .look fun _ => .cons (onCopy_within answers.hub hhubCore) (.cons (progress_within (touches.field _)) (.cons (.ite (sendBytes_within
    answers.toSends hhubCore) (copyRound_within answers touches hhubCore)) .nil))

theorem execMirrorCopyStart_within {copy : Nat} {s : State} (answers : Answers F) (touches : Touches F) (hhubCore : F .hubCore) : Goes F
    s (execMirrorCopyStart copy s) := by
  refine ⟨_, rfl, ?_⟩
  split
  · exact .skip
  · exact .when (.ite (endCopies_within answers hhubCore) (runCopy_within answers touches hhubCore))

theorem execMirrorCopyDone_within {copy : Nat} {s : State} (answers : Answers F) (touches : Touches F) (hhubCore : F .hubCore) : Goes F
    s (execMirrorCopyDone copy s) := by
  refine ⟨_, rfl, ?_⟩
  split
  · exact .skip
  · exact .when (.andThen (onCopy_within answers.hub hhubCore) (.ite (sendBytes_within answers.toSends hhubCore) (copyGoesOn_within answers
      touches hhubCore)))

/-! ## PeerEv -/

theorem permissionEvent_within {i : Nat} {p : Packet} {writes : Bool} (hevc : F .evc) (hfield : F (.field (linkSource i / 56)))
    (hring : ∀ x, F (.ring x)) : (permissionEvent i p writes).Within F :=
  .look fun _ => .when (discardEvent_within hevc hfield hring)

theorem execReadReq_within {link : Nat} {p : Packet} {s : State} (sends : Sends F) (touches : Touches F) (hlinkRx : F (.linkRx link)) :
    Goes F s (execReadReq link p s) := by
  refine ⟨_, rfl, onPacket_within (.ite (takePacket_within sends.hub (touches.field _) sends.link hlinkRx) (.ite (takePacket_within
    sends.hub (touches.field _) sends.link hlinkRx) ?_))⟩
  split
  · exact .skip
  · exact .cons (takePacket_within sends.hub (touches.field _) sends.link hlinkRx) (.cons (permissionEvent_within touches.evc
      (touches.field _) touches.ring) (.cons (answerPacket_within sends) .nil))
  · exact .ite (.cons (takePacket_within sends.hub (touches.field _) sends.link hlinkRx) (.cons (permissionEvent_within touches.evc
      (touches.field _) touches.ring) (.cons (answerPacket_within sends) .nil))) (.cons (takePacket_within sends.hub (touches.field _)
      sends.link hlinkRx) (.cons (plainRead_within touches) (.cons (answerPacket_within sends) .nil)))

theorem mirrorWrite_within {link : Nat} {p : Packet} (sends : Sends F) (raises : Raises F) (hmem : F .mem) (hdata : F .data)
    (htiles : F .tiles) (hhubCore : F .hubCore) (hhubFrame : F .hubFrame) (hlinkRx : F (.linkRx link)) : (mirrorWrite link p).Within F := by
  refine .look fun _ => ?_
  dsimp only
  split
  · exact .andThen (discardEvent_within raises.evc (raises.field _) raises.ring) (.andThen (takePacket_within sends.hub (raises.field _)
      sends.link hlinkRx) (answerPacket_within sends))
  · refine .ite (takePacket_within sends.hub (raises.field _) sends.link hlinkRx) (.ite (.cons (.when (writeLocal_within hmem hdata
      htiles)) (.cons (.each (fun _ => claimRegion_within sends.hub hhubCore hhubFrame)) (.cons (.andThen (takePacket_within sends.hub
      (raises.field _) sends.link hlinkRx) (answerPacket_within sends)) .nil))) ?_)
    split
    · exact .cons (.when (writeLocal_within hmem hdata htiles)) (.cons (.each (fun _ => claimRegion_within sends.hub hhubCore hhubFrame))
        (.cons (.andThen (takePacket_within sends.hub (raises.field _) sends.link hlinkRx) (answerPacket_within sends)) .nil))
    · exact .andThen (takePacket_within sends.hub (raises.field _) sends.link hlinkRx) (answerPacket_within sends)
    · exact .skip

theorem execWrite_within {link : Nat} {w : PeerWrite} {s : State} (sends : Sends F) (touches : Touches F) (hdata : F .data)
    (hhubCore : F .hubCore) (hhubFrame : F .hubFrame) (hlinkRx : F (.linkRx link)) : Goes F s (execWrite link w s) := by
  refine ⟨_, rfl, onPacket_within (.ite (takePacket_within sends.hub (touches.field _) sends.link hlinkRx) (.ite (.ite (takePacket_within
    sends.hub (touches.field _) sends.link hlinkRx) (mirrorWrite_within sends touches.toRaises touches.mem hdata touches.tiles hhubCore
    hhubFrame hlinkRx)) (.ite (takePacket_within sends.hub (touches.field _) sends.link hlinkRx) ?_)))⟩
  split
  · exact .skip
  · exact .cons (takePacket_within sends.hub (touches.field _) sends.link hlinkRx) (.cons (permissionEvent_within touches.evc
      (touches.field _) touches.ring) (.cons (answerPacket_within sends) .nil))
  · exact .cons (partialReads_within touches) (.cons (writeLocal_within touches.mem hdata touches.tiles) (.cons (collisionsFx_within
      touches.mem hdata touches.tiles touches.field) (.cons (.cons (takePacket_within sends.hub (touches.field _) sends.link hlinkRx)
      (.cons (permissionEvent_within touches.evc (touches.field _) touches.ring) (.cons (answerPacket_within sends) .nil))) .nil)))

theorem finishAcc_within {i : Nat} {p : Packet} {a : AccStage} {faults : List Nat} (sends : Sends F) (touches : Touches F)
    (hdata : F .data) : (finishAcc i p a faults).Within F := by
  refine .look fun _ => ?_
  dsimp only
  split
  · exact .andThen (permissionEvent_within touches.evc (touches.field _) touches.ring) (answerPacket_within sends)
  · exact .andThen (permissionEvent_within touches.evc (touches.field _) touches.ring) (answerPacket_within sends)
  · split
    · exact .cons (touchRange_within touches) (.cons (.memWrite touches.mem hdata touches.tiles) (.cons (.each (fun _ => raise_within
        touches.evc (touches.field _) touches.ring)) (.cons (.andThen (permissionEvent_within touches.evc (touches.field _) touches.ring)
        (answerPacket_within sends)) .nil)))
    · exact .cons (touchRange_within touches) (.cons (.each (fun _ => raise_within touches.evc (touches.field _) touches.ring)) (.cons
        (.andThen (permissionEvent_within touches.evc (touches.field _) touches.ring) (answerPacket_within sends)) .nil))

theorem execAccWrite_within {link : Nat} {w : PeerAdd} {s : State} (sends : Sends F) (touches : Touches F) (hdata : F .data)
    (hlinkRx : F (.linkRx link)) : Goes F s (execAccWrite link w s) := by
  refine ⟨_, rfl, onPacket_within (.ite (takePacket_within sends.hub (touches.field _) sends.link hlinkRx) ?_)⟩
  split
  · exact takePacket_within sends.hub (touches.field _) sends.link hlinkRx
  · exact .ite (.andThen (takePacket_within sends.hub (touches.field _) sends.link hlinkRx) (.link (sends.link _))) (.ite (.andThen
      (takePacket_within sends.hub (touches.field _) sends.link hlinkRx) (.link (sends.link _))) (.ite (.andThen (takePacket_within
      sends.hub (touches.field _) sends.link hlinkRx) (.link (sends.link _))) (.ite .skip (.cons (takePacket_within sends.hub
      (touches.field _) sends.link hlinkRx) (.cons (.link (sends.link _)) (.cons (finishAcc_within sends touches hdata) .nil))))))

theorem addSync_within {c n : Nat} {v : U32} (hctx : F (.ctx c)) : (addSync c n v).Within F := by
  refine .look fun s => .ctx hctx (hq := .inr fun x hx => ?_)
  simp only [Ctx.Quiet, Ctx.wake, List.forall_mem_map] at hx ⊢
  intro o ho
  split
  · simp [Op.copies]
  · exact hx o ho

theorem execSignalPacket_within {link : Nat} {p : Packet} {s : State} (sends : Sends F) (raises : Raises F) (hctx : ∀ x, F (.ctx x))
    (hlinkRx : F (.linkRx link)) : Goes F s (execSignalPacket link p s) := by
  refine ⟨_, rfl, onPacket_within (.ite (takePacket_within sends.hub (raises.field _) sends.link hlinkRx) ?_)⟩
  split
  · exact .cons (takePacket_within sends.hub (raises.field _) sends.link hlinkRx) (.cons (addSync_within (hctx _)) (.cons
      (answerPacket_within sends) .nil))
  · exact .cons (takePacket_within sends.hub (raises.field _) sends.link hlinkRx) (.cons (raise_within raises.evc (raises.field _)
      raises.ring) (.cons (answerPacket_within sends) .nil))

theorem copyAcked_within {p : Packet} (answers : Answers F) (touches : Touches F) (hhubCore : F .hubCore) : (copyAcked p).Within F := by
  refine .look fun _ => ?_
  split
  · exact .skip
  · exact .ite (.andThen (onCopy_within answers.hub hhubCore) (copyGoesOn_within answers touches hhubCore)) (endCopies_within answers
      hhubCore)

theorem acknowledge_within {link : Nat} {p : Packet} (answers : Answers F) (touches : Touches F) (hhubCore : F .hubCore)
    (hctx : ∀ x, F (.ctx x)) (hlinkRx : F (.linkRx link)) : (acknowledge link p).Within F := by
  refine .look fun _ => .andThen (takePacket_within answers.hub (touches.field _) answers.link hlinkRx) (.ite (copyAcked_within answers
    touches hhubCore) ?_)
  split
  · exact .ctx (hctx _) (hq := .inr fun _ h => h.map fun _ => Op.acked_copies _ _)
  · exact .skip

theorem execWriteAck_within {link : Nat} {p : Packet} {s : State} (answers : Answers F) (touches : Touches F) (hhubCore : F .hubCore)
    (hctx : ∀ x, F (.ctx x)) (hlinkRx : F (.linkRx link)) : Goes F s (execWriteAck link p s) :=
  ⟨_, rfl, onPacket_within (acknowledge_within answers touches hhubCore hctx hlinkRx)⟩

theorem execSignalAck_within {link : Nat} {p : Packet} {s : State} (answers : Answers F) (touches : Touches F) (hhubCore : F .hubCore)
    (hctx : ∀ x, F (.ctx x)) (hlinkRx : F (.linkRx link)) : Goes F s (execSignalAck link p s) :=
  ⟨_, rfl, onPacket_within (acknowledge_within answers touches hhubCore hctx hlinkRx)⟩

theorem execLinkMgmt_within {link : Nat} {p : Packet} {s : State} (hhub : F .hub) (hfield : F (.field (link / 4)))
    (hlink : ∀ x, F (.link x)) (hlinkRx : F (.linkRx link)) : Goes F s (execLinkMgmt link p s) :=
  ⟨_, rfl, onPacket_within (takePacket_within hhub hfield hlink hlinkRx)⟩

/-! ## PowerEv -/

theorem restartAt1_within (hhub : F .hub) (hhubCore : F .hubCore) (hhubFrame : F .hubFrame) (hlink : ∀ x, F (.link x))
    (hlinkFrame : ∀ x, F (.linkFrame x)) : (restartAt1).Within F :=
  .look fun _ => .when (.andThen (.hub hhub (hc := .inl hhubCore) (hf := .inl hhubFrame)) (stopTraining_within hlink hlinkFrame))

theorem onFeed_within {i : Nat} {f : Feed → Feed} (hhub : F .hub) (hhubCore : F .hubCore) (hhubFrame : F .hubFrame) (hpower : F .power)
    (hsideband : F .sideband) (hlink : ∀ x, F (.link x)) (hlinkFrame : ∀ x, F (.linkFrame x)) : (onFeed i f).Within F :=
  .cons (.power hpower) (.cons (.look fun _ => .sideband hsideband) (.cons (.power hpower) (.cons (restartAt1_within hhub hhubCore
    hhubFrame hlink hlinkFrame) .nil)))

theorem supplyEvent_within {i cause cls : Nat} {mv : Int} (hevc : F .evc) (hfield : F (.field ((452 + i) / 56)))
    (hring : ∀ x, F (.ring x)) : (supplyEvent i cause cls mv).Within F :=
  .look fun _ => .when (raise_within hevc hfield hring)

theorem serveFeed_within {i : Nat} (hhub : F .hub) (hhubCore : F .hubCore) (hhubFrame : F .hubFrame) (hpower : F .power)
    (hsideband : F .sideband) (hlink : ∀ x, F (.link x)) (hlinkFrame : ∀ x, F (.linkFrame x)) : (serveFeed i).Within F :=
  .andThen (.power hpower) (onFeed_within hhub hhubCore hhubFrame hpower hsideband hlink hlinkFrame)

theorem feedGone_within {i : Nat} {mv : Int} {was : Feed} (sends : Sends F) (raises : Raises F) (hmem : F .mem) (hdata : F .data)
    (htiles : F .tiles) (hhubCore : F .hubCore) (hhubFrame : F .hubFrame) (hport : F .port) (hportFrame : F .portFrame)
    (hpower : F .power) (hsideband : F .sideband) (hditch : F .ditch) (hctx : ∀ x, F (.ctx x)) (hfieldFrame : ∀ x, F (.fieldFrame x))
    (hfieldWork : ∀ x, F (.fieldWork x)) (hstack : ∀ x, F (.stack x)) (hlinkFrame : ∀ x, F (.linkFrame x))
    (hlinkTx : ∀ x, F (.linkTx x)) (hlinkRx : ∀ x, F (.linkRx x)) (hlinkEntries : ∀ x, F (.linkEntries x))
    (hringFrame : ∀ x, F (.ringFrame x)) : (feedGone i mv was).Within F :=
  .look fun _ => .ite (.ite (.andThen (serveFeed_within sends.hub hhubCore hhubFrame hpower hsideband sends.link hlinkFrame)
    (supplyEvent_within raises.evc (raises.field _) raises.ring)) (.cons (.power hpower) (.cons (.sideband hsideband) (.cons
    (losePower_within hmem hdata htiles sends.hub hhubCore hhubFrame hport hportFrame hpower raises.evc hditch hctx raises.field
    hfieldFrame hfieldWork hstack sends.link hlinkFrame hlinkTx hlinkRx sends.linkInject hlinkEntries raises.ring hringFrame) .nil))))
    (.when (supplyEvent_within raises.evc (raises.field _) raises.ring))

theorem execFeedQualify_within {feed : Nat} {mv : Int} {s : State} (hout : F .out) (hhub : F .hub) (hhubCore : F .hubCore)
    (hhubFrame : F .hubFrame) (hpower : F .power) (hsideband : F .sideband) (hlink : ∀ x, F (.link x))
    (hlinkFrame : ∀ x, F (.linkFrame x)) : Goes F s (execFeedQualify feed mv s) :=
  ⟨_, rfl, withInBand_within (.when (.ite (onFeed_within hhub hhubCore hhubFrame hpower hsideband hlink hlinkFrame) (.andThen
    (onFeed_within hhub hhubCore hhubFrame hpower hsideband hlink hlinkFrame) (.look fun _ => .when (serveFeed_within hhub hhubCore
    hhubFrame hpower hsideband hlink hlinkFrame))))) hout⟩

theorem execFeedDisqualify_within {feed : Nat} {mv : Int} {s : State} (answers : Answers F) (touches : Touches F) (hdata : F .data)
    (hhubCore : F .hubCore) (hhubFrame : F .hubFrame) (hportFrame : F .portFrame) (hpower : F .power) (hsideband : F .sideband)
    (hditch : F .ditch) (hctx : ∀ x, F (.ctx x)) (hfieldFrame : ∀ x, F (.fieldFrame x)) (hfieldWork : ∀ x, F (.fieldWork x))
    (hlinkFrame : ∀ x, F (.linkFrame x)) (hlinkTx : ∀ x, F (.linkTx x)) (hlinkRx : ∀ x, F (.linkRx x))
    (hlinkEntries : ∀ x, F (.linkEntries x)) (hringFrame : ∀ x, F (.ringFrame x)) : Goes F s (execFeedDisqualify feed mv s) :=
  ⟨_, rfl, withInBand_within (.when (.ite (.cons (onFeed_within answers.hub hhubCore hhubFrame hpower hsideband answers.link hlinkFrame)
    (.cons (.when (supplyEvent_within touches.evc (touches.field _) touches.ring)) (.cons (feedGone_within answers.toSends touches.toRaises
    touches.mem hdata touches.tiles hhubCore hhubFrame answers.port hportFrame hpower hsideband hditch hctx hfieldFrame hfieldWork
    touches.stack hlinkFrame hlinkTx hlinkRx hlinkEntries hringFrame) .nil))) (onFeed_within answers.hub hhubCore hhubFrame hpower
    hsideband answers.link hlinkFrame))) answers.out⟩

theorem execFeedReturn_within {mv : Int} {s : State} (hout : F .out) (hhub : F .hub) (hhubCore : F .hubCore) (hhubFrame : F .hubFrame)
    (hpower : F .power) (hsideband : F .sideband) (hevc : F .evc) (hfield : F (.field ((452 + 0) / 56))) (hlink : ∀ x, F (.link x))
    (hlinkFrame : ∀ x, F (.linkFrame x)) (hring : ∀ x, F (.ring x)) : Goes F s (execFeedReturn mv s) :=
  ⟨_, rfl, withInBand_within (.when (.cons (onFeed_within hhub hhubCore hhubFrame hpower hsideband hlink hlinkFrame) (.cons
    (serveFeed_within hhub hhubCore hhubFrame hpower hsideband hlink hlinkFrame) (.cons (onFeed_within hhub hhubCore hhubFrame hpower
    hsideband hlink hlinkFrame) (.cons (supplyEvent_within hevc hfield hring) .nil))))) hout⟩

theorem execFuseTrip_within {feed : Nat} {mv : Int} {s : State} (answers : Answers F) (touches : Touches F) (hdata : F .data)
    (hhubCore : F .hubCore) (hhubFrame : F .hubFrame) (hportFrame : F .portFrame) (hpower : F .power) (hsideband : F .sideband)
    (hditch : F .ditch) (hctx : ∀ x, F (.ctx x)) (hfieldFrame : ∀ x, F (.fieldFrame x)) (hfieldWork : ∀ x, F (.fieldWork x))
    (hlinkFrame : ∀ x, F (.linkFrame x)) (hlinkTx : ∀ x, F (.linkTx x)) (hlinkRx : ∀ x, F (.linkRx x))
    (hlinkEntries : ∀ x, F (.linkEntries x)) (hringFrame : ∀ x, F (.ringFrame x)) : Goes F s (execFuseTrip feed mv s) :=
  ⟨_, rfl, withInBand_within (.when (.cons (onFeed_within answers.hub hhubCore hhubFrame hpower hsideband answers.link hlinkFrame) (.cons
    (supplyEvent_within touches.evc (touches.field _) touches.ring) (.cons (feedGone_within answers.toSends touches.toRaises touches.mem
    hdata touches.tiles hhubCore hhubFrame answers.port hportFrame hpower hsideband hditch hctx hfieldFrame hfieldWork touches.stack
    hlinkFrame hlinkTx hlinkRx hlinkEntries hringFrame) .nil)))) answers.out⟩

theorem execFeedEnableRelease_within {feed : Nat} {mv : Int} {s : State} (answers : Answers F) (touches : Touches F) (hdata : F .data)
    (hhubCore : F .hubCore) (hhubFrame : F .hubFrame) (hportFrame : F .portFrame) (hpower : F .power) (hsideband : F .sideband)
    (hditch : F .ditch) (hctx : ∀ x, F (.ctx x)) (hfieldFrame : ∀ x, F (.fieldFrame x)) (hfieldWork : ∀ x, F (.fieldWork x))
    (hlinkFrame : ∀ x, F (.linkFrame x)) (hlinkTx : ∀ x, F (.linkTx x)) (hlinkRx : ∀ x, F (.linkRx x))
    (hlinkEntries : ∀ x, F (.linkEntries x)) (hringFrame : ∀ x, F (.ringFrame x)) : Goes F s (execFeedEnableRelease feed mv s) :=
  ⟨_, rfl, withInBand_within (.when (.cons (onFeed_within answers.hub hhubCore hhubFrame hpower hsideband answers.link hlinkFrame) (.cons
    (feedGone_within answers.toSends touches.toRaises touches.mem hdata touches.tiles hhubCore hhubFrame answers.port hportFrame hpower
    hsideband hditch hctx hfieldFrame hfieldWork touches.stack hlinkFrame hlinkTx hlinkRx hlinkEntries hringFrame) .nil))) answers.out⟩

theorem execFeedReversed_within {feed : Nat} {mv : Int} {s : State} (answers : Answers F) (touches : Touches F) (hdata : F .data)
    (hhubCore : F .hubCore) (hhubFrame : F .hubFrame) (hportFrame : F .portFrame) (hpower : F .power) (hsideband : F .sideband)
    (hditch : F .ditch) (hctx : ∀ x, F (.ctx x)) (hfieldFrame : ∀ x, F (.fieldFrame x)) (hfieldWork : ∀ x, F (.fieldWork x))
    (hlinkFrame : ∀ x, F (.linkFrame x)) (hlinkTx : ∀ x, F (.linkTx x)) (hlinkRx : ∀ x, F (.linkRx x))
    (hlinkEntries : ∀ x, F (.linkEntries x)) (hringFrame : ∀ x, F (.ringFrame x)) : Goes F s (execFeedReversed feed mv s) :=
  ⟨_, rfl, withInBand_within (.when (.cons (onFeed_within answers.hub hhubCore hhubFrame hpower hsideband answers.link hlinkFrame) (.cons
    (supplyEvent_within touches.evc (touches.field _) touches.ring) (.cons (feedGone_within answers.toSends touches.toRaises touches.mem
    hdata touches.tiles hhubCore hhubFrame answers.port hportFrame hpower hsideband hditch hctx hfieldFrame hfieldWork touches.stack
    hlinkFrame hlinkTx hlinkRx hlinkEntries hringFrame) .nil)))) answers.out⟩

theorem rearmFeed_within {feed : Nat} (hhub : F .hub) (hhubCore : F .hubCore) (hhubFrame : F .hubFrame) (hpower : F .power)
    (hsideband : F .sideband) (hlink : ∀ x, F (.link x)) (hlinkFrame : ∀ x, F (.linkFrame x)) : (rearmFeed feed).Within F :=
  onFeed_within hhub hhubCore hhubFrame hpower hsideband hlink hlinkFrame

theorem execRearm_within {feed : Nat} {s : State} (hout : F .out) (hhub : F .hub) (hhubCore : F .hubCore) (hhubFrame : F .hubFrame)
    (hpower : F .power) (hsideband : F .sideband) (hlink : ∀ x, F (.link x)) (hlinkFrame : ∀ x, F (.linkFrame x)) : Goes F s
    (execRearm feed s) :=
  ⟨_, rfl, withInBand_within (.when (rearmFeed_within hhub hhubCore hhubFrame hpower hsideband hlink hlinkFrame)) hout⟩

theorem execPhaseFail_within {rail : Nat} {s : State} (raises : Raises F) (hout : F .out) (hpower : F .power) : Goes F s
    (execPhaseFail rail s) :=
  ⟨_, rfl, withInBand_within (.when (.cons (.power hpower) (.cons (raise_within raises.evc (raises.field _) raises.ring) (.cons (.when
    (raise_within raises.evc (raises.field _) raises.ring)) (.cons (.when (addMin_within raises hpower)) .nil))))) hout⟩

theorem slowFields_within {cause : Nat} (raises : Raises F) (hfieldFrame : ∀ x, F (.fieldFrame x)) : (slowFields cause).Within F :=
  .look fun _ => .ite (.each (fun _ => raise_within raises.evc (raises.field _) raises.ring)) (withThrottle_within (.each (fun _ => .field
    (raises.field _) (hf := .inl (hfieldFrame _)))) raises)

theorem speedFields_within {cause : Nat} (raises : Raises F) (hfieldFrame : ∀ x, F (.fieldFrame x)) : (speedFields cause).Within F :=
  .look fun _ => withThrottle_within (.each (fun _ => .field (raises.field _) (hf := .inl (hfieldFrame _)))) raises

theorem overdrawn_within {draw : List Nat} {f : Nat} (abort : Aborts F) (raises : Raises F) (hhubFrame : F .hubFrame)
    (hpower : F .power) (hditch : F .ditch) (hctx : ∀ x, F (.ctx x)) (hfieldFrame : F (.fieldFrame f)) (hstack : ∀ x, F (.stack x))
    (hlinkFrame : ∀ x, F (.linkFrame x)) (hlinkRx : ∀ x, F (.linkRx x)) : (overdrawn draw f).Within F :=
  .look fun _ => .ite (.ite (.cons (fenceOnly_within abort raises hditch hctx hfieldFrame hlinkFrame hlinkRx) (.cons (failField_within
    abort.toAnswers raises hfieldFrame hstack) (.cons (trainingWaits_within abort.toAnswers) (.cons (checkSet_within abort raises hhubFrame
    hpower hctx) .nil)))) (.field (abort.field _) (hf := .inl hfieldFrame))) (.field (abort.field _) (hf := .inl hfieldFrame))

theorem execPowerCapPeriod_within {watts : Nat} {fieldWatts : List Nat} {s : State} (abort : Aborts F) (raises : Raises F)
    (hnow : F .now) (hhubFrame : F .hubFrame) (hpower : F .power) (hsideband : F .sideband) (hditch : F .ditch) (hctx : ∀ x, F (.ctx x))
    (hfieldFrame : ∀ x, F (.fieldFrame x)) (hstack : ∀ x, F (.stack x)) (hlinkFrame : ∀ x, F (.linkFrame x))
    (hlinkRx : ∀ x, F (.linkRx x)) : Goes F s (execPowerCapPeriod watts fieldWatts s) := by
  refine ⟨_, rfl, withInBand_within (.when (.cons (.setNow hnow) (.cons (.each (fun _ => onFeed_within abort.hub abort.hubCore hhubFrame
    hpower hsideband abort.link hlinkFrame)) (.cons (.each (fun _ => overdrawn_within abort raises hhubFrame hpower hditch hctx
    (hfieldFrame _) hstack hlinkFrame hlinkRx)) (.cons ?_ .nil))))) abort.out⟩
  split
  · exact .cons (.when (.each (fun _ => supplyEvent_within raises.evc (abort.field _) raises.ring))) (.cons (.power hpower) (.cons
      (slowFields_within raises hfieldFrame) .nil))
  · exact .ite (.ite (.andThen (.power hpower) (speedFields_within raises hfieldFrame)) (.power hpower)) (.power hpower)

theorem execMinPowerExit_within {s : State} (raises : Raises F) (hnow : F .now) (hpower : F .power) : Goes F s (execMinPowerExit s) :=
  ⟨_, rfl, .when (.andThen (.setNow hnow) (withThrottle_within (.power hpower) raises))⟩

theorem execThermalThrottle_within {field sensor celsius : Nat} {s : State} (raises : Raises F) (hfieldFrame : F (.fieldFrame field)) :
    Goes F s (execThermalThrottle field sensor celsius s) :=
  ⟨_, rfl, .when (.ite (withThrottle_within (.field (raises.field _) (hf := .inl hfieldFrame)) raises) (withThrottle_within (.field
    (raises.field _) (hf := .inl hfieldFrame)) raises))⟩

theorem execThermalRelease_within {field sensor celsius : Nat} {s : State} (raises : Raises F) (hfieldFrame : F (.fieldFrame field)) :
    Goes F s (execThermalRelease field sensor celsius s) :=
  ⟨_, rfl, .when (.ite (withThrottle_within (.field (raises.field _) (hf := .inl hfieldFrame)) raises) (withThrottle_within (.field
    (raises.field _) (hf := .inl hfieldFrame)) raises))⟩

theorem execThermtrip_within {s : State} (answers : Answers F) (touches : Touches F) (hdata : F .data) (hhubCore : F .hubCore)
    (hhubFrame : F .hubFrame) (hportFrame : F .portFrame) (hpower : F .power) (hsideband : F .sideband) (hditch : F .ditch)
    (hctx : ∀ x, F (.ctx x)) (hfieldFrame : ∀ x, F (.fieldFrame x)) (hfieldWork : ∀ x, F (.fieldWork x))
    (hlinkFrame : ∀ x, F (.linkFrame x)) (hlinkTx : ∀ x, F (.linkTx x)) (hlinkRx : ∀ x, F (.linkRx x))
    (hlinkEntries : ∀ x, F (.linkEntries x)) (hringFrame : ∀ x, F (.ringFrame x)) : Goes F s (execThermtrip s) :=
  ⟨_, rfl, withInBand_within (.cons (.power hpower) (.cons (.sideband hsideband) (.cons (losePower_within touches.mem hdata touches.tiles
    answers.hub hhubCore hhubFrame answers.port hportFrame hpower touches.evc hditch hctx touches.field hfieldFrame hfieldWork
    touches.stack answers.link hlinkFrame hlinkTx hlinkRx answers.linkInject hlinkEntries touches.ring hringFrame) .nil))) answers.out⟩

theorem execCooling_within {reading : Coolant} {s : State} (abort : Aborts F) (raises : Raises F) (hnow : F .now)
    (hhubFrame : F .hubFrame) (hpower : F .power) (hctx : ∀ x, F (.ctx x)) : Goes F s (execCooling reading s) :=
  ⟨_, rfl, withInBand_within (.cons (.setNow hnow) (.cons (.look fun _ => .power hpower) (.cons (.look fun _ => .cons (.each (fun _ =>
    raise_within raises.evc (abort.field _) raises.ring)) (.cons (.each (fun _ => addMin_within raises hpower)) (.cons (.each (fun _ =>
    dropMin_within hpower)) .nil))) (.cons (checkSet_within abort raises hhubFrame hpower hctx) .nil)))) abort.out⟩

theorem selectClock_within {external : Bool} (hpower : F .power) (hevc : F .evc) (hfield : F (.field (451 / 56)))
    (hring : ∀ x, F (.ring x)) : (selectClock external).Within F :=
  .andThen (.power hpower) (raise_within hevc hfield hring)

theorem execRefclkLost_within {s : State} (hout : F .out) (hpower : F .power) (hevc : F .evc) (hfield : F (.field (451 / 56)))
    (hring : ∀ x, F (.ring x)) : Goes F s (execRefclkLost s) :=
  ⟨_, rfl, withInBand_within (.when (selectClock_within hpower hevc hfield hring)) hout⟩

theorem execRefclkReturn_within {s : State} (hout : F .out) (hpower : F .power) (hevc : F .evc) (hfield : F (.field (451 / 56)))
    (hring : ∀ x, F (.ring x)) : Goes F s (execRefclkReturn s) :=
  ⟨_, rfl, withInBand_within (.when (selectClock_within hpower hevc hfield hring)) hout⟩

theorem execPllLockLoss_within {p : PllLoss} {s : State} (abort : Aborts F) (touches : Touches F) (hhubFrame : F .hubFrame)
    (hportFrame : F .portFrame) (hwaits : F .waits) (hditch : F .ditch) (hctx : ∀ x, F (.ctx x)) (hfieldFrame : ∀ x, F (.fieldFrame x))
    (hlinkFrame : ∀ x, F (.linkFrame x)) (hlinkRx : ∀ x, F (.linkRx x)) (hringFrame : ∀ x, F (.ringFrame x)) : Goes F s
    (execPllLockLoss p s) :=
  ⟨_, rfl, withInBand_within (.when (startWarm_within abort touches hhubFrame hportFrame hwaits hditch hctx hfieldFrame hlinkFrame hlinkRx
    hringFrame)) abort.out⟩

theorem execPluggableInsert_within {watts : Nat} {s : State} (abort : Aborts F) (raises : Raises F) (hhubFrame : F .hubFrame)
    (hportFrame : F .portFrame) (hpower : F .power) (hctx : ∀ x, F (.ctx x)) (hringFrame : ∀ x, F (.ringFrame x)) : Goes F s
    (execPluggableInsert watts s) :=
  ⟨_, rfl, .ite (withInBand_within (.cons (.port abort.port (hf := .inl hportFrame)) (.cons (closeQps_within abort.hub abort.hubCore
    hhubFrame abort.port hportFrame raises.ring hringFrame) (.cons (.bumpFree abort.freeCtr) (.cons (raise_within raises.evc (abort.field
    _) raises.ring) (.cons (checkSet_within abort raises hhubFrame hpower hctx) .nil))))) abort.out) (.port abort.port (hf := .inl
    hportFrame))⟩

/-! ## Saving -/

theorem freeIfSaved_within {f c : Nat} {seq : U32} (hfield : F (.field f)) (hfieldWork : F (.fieldWork f)) :
    (freeIfSaved f c seq).Within F :=
  .look fun _ => .when (.field hfield (hw := .inl hfieldWork))

theorem preemptOp_within {c : Nat} {o : Op} (hctx : F (.ctx c)) (hfield : ∀ x, F (.field x)) (hfieldWork : ∀ x, F (.fieldWork x)) :
    (preemptOp c o).Within F :=
  .cons (onOp_within hctx (.inr fun _ h => h)) (.cons (.each (fun _ => .andThen (.field (hfield _) (hw := .inl (hfieldWork _)) (hb := .inr
    fun _ h => ⟨(List.length_map _).trans h.1, h.2⟩)) (freeIfSaved_within (hfield _) (hfieldWork _)))) .nil)

theorem execPreempt_within {ctx : Nat} {s : State} (hctx : ∀ x, F (.ctx x)) (hfield : ∀ x, F (.field x))
    (hfieldWork : ∀ x, F (.fieldWork x)) : Goes F s (execPreempt ctx s) :=
  ⟨_, rfl, .each (fun _ => .look fun _ => .each (fun _ => preemptOp_within (hctx _) hfield hfieldWork))⟩

theorem moveRecords_within {f c : Nat} {new : List SavedRow} (hmem : F .mem) (hdata : F .data) (htiles : F .tiles) (hctx : F (.ctx c)) :
    (moveRecords f c new).Within F :=
  .look fun _ => .andThen (.each (fun _ => writeLocal_within hmem hdata htiles)) (.ctx hctx)

theorem execTileRowSave_within {field tileRow : Nat} {s : State} (raises : Raises F) (hmem : F .mem) (hdata : F .data)
    (htiles : F .tiles) (hctx : F (.ctx (((s.field field).tileRows.getD tileRow TileRow.reset).ctx)))
    (hfieldWork : F (.fieldWork field)) : Goes F s (execTileRowSave field tileRow s) := by
  refine ⟨_, rfl, .when ?_⟩
  split
  · exact .skip
  · split
    · exact matFail_within raises hctx
    · exact .skip
  · exact .cons (raiseEvs_within raises) (.cons (moveRecords_within hmem hdata htiles hctx) (.cons (.memWrite hmem hdata htiles) (.cons
      (.field (raises.field _) (hw := .inl hfieldWork) (hb := .inr fun _ h => ⟨List.length_set.trans h.1, h.2⟩)) (.cons (progress_within
      (raises.field _)) (.cons (.each (fun _ => freeIfSaved_within (raises.field _) hfieldWork)) .nil)))))

theorem execTileRowRestore_within {field ctx : Nat} {s : State} (touches : Touches F) (hctx : F (.ctx ctx))
    (hfieldWork : F (.fieldWork field)) : Goes F s (execTileRowRestore field ctx s) := by
  refine ⟨_, rfl, ?_⟩
  split
  · exact .skip
  · refine .ite (evictFor_within (touches.field _) hfieldWork) ?_
    split
    · exact .skip
    · exact .andThen (.ctx hctx) (matFail_within touches.toRaises hctx)
    · exact .cons (raiseEvs_within touches.toRaises) (.cons (touchRange_within touches) (.cons (.ite (.cons (.ctx hctx) (.cons (.field
        (touches.field _) (hw := .inl hfieldWork) (hb := .inr fun _ h => ⟨(length_takeFree ..).trans h.1, h.2⟩)) (.cons (progress_within
        (touches.field _)) .nil))) (.andThen (.ctx hctx) (matFail_within touches.toRaises hctx))) .nil))

/-! ## SidebandEv -/

theorem applyPort_within (abort : Aborts F) (raises : Raises F) (hhubFrame : F .hubFrame) (hportFrame : F .portFrame)
    (hpower : F .power) (hctx : ∀ x, F (.ctx x)) (hringFrame : ∀ x, F (.ringFrame x)) : (applyPort).Within F :=
  .look fun _ => .when (.cons (closeQps_within abort.hub abort.hubCore hhubFrame abort.port hportFrame raises.ring hringFrame) (.cons
    (.port abort.port (hf := .inl hportFrame)) (.cons (.hub abort.hub (hc := .inl abort.hubCore) (hf := .inl hhubFrame)) (.cons
    (checkSet_within abort raises hhubFrame hpower hctx) .nil))))

theorem writeNetCtrl_within {v : Nat} (abort : Aborts F) (raises : Raises F) (hhubFrame : F .hubFrame) (hportFrame : F .portFrame)
    (hpower : F .power) (hctx : ∀ x, F (.ctx x)) (hringFrame : ∀ x, F (.ringFrame x)) : (writeNetCtrl v).Within F :=
  .andThen (.port abort.port (hf := .inl hportFrame)) (.when (applyPort_within abort raises hhubFrame hportFrame hpower hctx hringFrame))

theorem busWrite_within {bus addr : Nat} {fx : Fx} (hfx : fx.Within F) (hsideband : F .sideband) : (busWrite bus addr fx).Within F :=
  .look fun _ => .ite (.andThen (.sideband hsideband) hfx) (.when hfx)

theorem execApply_within {bus : Nat} {value : U64} {s : State} (abort : Aborts F) (raises : Raises F) (hhubFrame : F .hubFrame)
    (hportFrame : F .portFrame) (hpower : F .power) (hsideband : F .sideband) (hctx : ∀ x, F (.ctx x))
    (hringFrame : ∀ x, F (.ringFrame x)) : Goes F s (execApply bus value s) :=
  ⟨_, rfl, withInBand_within (.when (busWrite_within (writeNetCtrl_within abort raises hhubFrame hportFrame hpower hctx hringFrame)
    hsideband)) abort.out⟩

theorem writeSideband_within {addr v : Nat} (abort : Aborts F) (raises : Raises F) (hhubFrame : F .hubFrame) (hportFrame : F .portFrame)
    (hpower : F .power) (hsideband : F .sideband) (hctx : ∀ x, F (.ctx x)) (hlinkFrame : ∀ x, F (.linkFrame x))
    (hringFrame : ∀ x, F (.ringFrame x)) : (writeSideband addr v).Within F := by
  unfold writeSideband
  split
  · exact .when (rearmFeed_within abort.hub abort.hubCore hhubFrame hpower hsideband abort.link hlinkFrame)
  · exact .when (rearmFeed_within abort.hub abort.hubCore hhubFrame hpower hsideband abort.link hlinkFrame)
  · exact .power hpower
  · exact .sideband hsideband
  · exact .port abort.port (hf := .inl hportFrame)
  · exact .port abort.port (hf := .inl hportFrame)
  · exact .port abort.port (hf := .inl hportFrame)
  · exact .port abort.port (hf := .inl hportFrame)
  · exact writeNetCtrl_within abort raises hhubFrame hportFrame hpower hctx hringFrame
  · exact .skip

theorem execSidebandWrite_within {bus : Nat} {addr : U16} {data : List Byte} {parityOk : Bool} {s : State} (abort : Aborts F)
    (raises : Raises F) (hhubFrame : F .hubFrame) (hportFrame : F .portFrame) (hpower : F .power) (hsideband : F .sideband)
    (hctx : ∀ x, F (.ctx x)) (hlinkFrame : ∀ x, F (.linkFrame x)) (hringFrame : ∀ x, F (.ringFrame x)) : Goes F s
    (execSidebandWrite bus addr data parityOk s) :=
  ⟨_, rfl, withInBand_within (.when (busWrite_within (writeSideband_within abort raises hhubFrame hportFrame hpower hsideband hctx
    hlinkFrame hringFrame) hsideband)) abort.out⟩

theorem ignorePulse_within (hsideband : F .sideband) : (ignorePulse).Within F :=
  .sideband hsideband

theorem execSbResetPulse_within {micros : Nat} {found : BringUp} {s : State} (abort : Aborts F) (touches : Touches F)
    (hhubFrame : F .hubFrame) (hportFrame : F .portFrame) (hwaits : F .waits) (hsideband : F .sideband) (hditch : F .ditch)
    (hctx : ∀ x, F (.ctx x)) (hfieldFrame : ∀ x, F (.fieldFrame x)) (hlinkFrame : ∀ x, F (.linkFrame x)) (hlinkRx : ∀ x, F (.linkRx x))
    (hringFrame : ∀ x, F (.ringFrame x)) : Goes F s (execSbResetPulse micros found s) :=
  ⟨_, rfl, withInBand_within (.ite (ignorePulse_within hsideband) (.when (.ite (bringUpFrom3_within abort.toAnswers touches abort.data
    abort.hubCore hhubFrame hfieldFrame abort.fieldWork hlinkFrame) (startWarm_within abort touches hhubFrame hportFrame hwaits hditch hctx
    hfieldFrame hlinkFrame hlinkRx hringFrame)))) abort.out⟩

theorem execResetStuck_within {s : State} (hout : F .out) (hsideband : F .sideband) : Goes F s (execResetStuck s) :=
  ⟨_, rfl, withInBand_within (.sideband hsideband) hout⟩

theorem execResetStuckRelease_within {s : State} (hout : F .out) (hsideband : F .sideband) : Goes F s (execResetStuckRelease s) :=
  ⟨_, rfl, withInBand_within (.sideband hsideband) hout⟩

theorem setBus_within {bus st : Nat} (hsideband : F .sideband) : (setBus bus st).Within F :=
  .sideband hsideband

theorem execSidebandBusFault_within {bus : Nat} {fault : BusFault} {s : State} (hout : F .out) (hsideband : F .sideband) : Goes F s
    (execSidebandBusFault bus fault s) :=
  ⟨_, rfl, withInBand_within (setBus_within hsideband) hout⟩

theorem execSidebandBusRecover_within {bus : Nat} {s : State} (hout : F .out) (hsideband : F .sideband) : Goes F s
    (execSidebandBusRecover bus s) :=
  ⟨_, rfl, withInBand_within (setBus_within hsideband) hout⟩

/-! ## Witness -/

theorem endComparison_within {f : Nat} {k : Comparison} (hctx : F (.ctx k.ctx)) (hfield : F (.field f)) (hfieldWork : F (.fieldWork f))
    : (endComparison f k).Within F :=
  .andThen (.andThen (.field hfield (hw := .inl hfieldWork)) (progress_within hfield)) (onOp_within hctx (.inr fun _ h => h))

theorem bookRatios_within {f : Nat} {k : Comparison} {tid : Nat} {l : List (Nat × Bool)} (raises : Raises F) (hctx : F (.ctx k.ctx))
    (hfieldWork : F (.fieldWork f)) : (bookRatios f k tid l).Within F :=
  .cons (.ctx hctx) (.cons (raiseEvs_within raises) (.cons (endComparison_within hctx (raises.field _) hfieldWork) .nil))

theorem poisonedComparison_within {f : Nat} {k : Comparison} {l : List Ev} (raises : Raises F) (hctx : F (.ctx k.ctx))
    (hfieldWork : F (.fieldWork f)) : (poisonedComparison f k l).Within F :=
  .cons (raiseEvs_within raises) (.cons (poisonOp_within hctx) (.cons (endComparison_within hctx (raises.field _) hfieldWork) .nil))

theorem execWitnessCompare_within {field : Nat} {s : State} (touches : Touches F) (hctx : ∀ x, F (.ctx x))
    (hfieldWork : F (.fieldWork field)) : Goes F s (execWitnessCompare field s) := by
  refine ⟨_, rfl, ?_⟩
  split
  · exact .skip
  · split
    · exact endComparison_within (hctx _) (touches.field _) hfieldWork
    · split
      · exact endComparison_within (hctx _) (touches.field _) hfieldWork
      · refine .ite (poisonedComparison_within touches.toRaises (hctx _) hfieldWork) (.andThen (touchRange_within touches) ?_)
        split
        · exact poisonedComparison_within touches.toRaises (hctx _) hfieldWork
        · refine .andThen (.each (fun _ => touchRange_within touches)) ?_
          split
          · exact poisonedComparison_within touches.toRaises (hctx _) hfieldWork
          · exact poisonedComparison_within touches.toRaises (hctx _) hfieldWork
          · exact bookRatios_within touches.toRaises (hctx _) hfieldWork

end Sys2Proof.Machine

/-! The places of the effects of the model: the rows that start operations. -/
namespace Sys2Proof.Machine

-- The default proofs of the side conditions are evaluated only once all lemmas before are checked: in order, none waits in a thread of
-- its own.
set_option Elab.async false

variable {F : Place → Prop}

theorem land_within {c : Nat} {seq : U32} (hctx : F (.ctx c)) : (land c seq).Within F :=
  onOp_within hctx (.inr fun _ _ => by simp [Op.copies])

theorem startMatrix_within {c : Nat} {o : Op} (touches : Touches F) (hctx : F (.ctx c)) (hfieldWork : F (.fieldWork (o.fields.headD 0)))
    : (startMatrix c o).Within F := by
  refine .look fun _ => .andThen (.each (fun _ => touchRange_within touches)) (.ite ?_ ?_)
  · split
    · exact .cons (raiseEvs_within touches.toRaises) (.cons (failOp_within hctx) (.cons (land_within hctx) .nil))
    · exact land_within hctx
  · split
    · exact .cons (raiseEvs_within touches.toRaises) (.cons (failOp_within hctx) (.cons (land_within hctx) .nil))
    · refine .cons (onOp_within hctx (.inr fun _ h => h)) (.cons ?_ (.cons (.when (.each (fun _ => touchRange_within touches))) (.cons
        (.when (.andThen (.field (touches.field _) (hw := .inl hfieldWork)) (progress_within (touches.field _)))) .nil)))
      split
      · exact .andThen (raiseEvs_within touches.toRaises) (poisonOp_within hctx)
      · exact .skip

theorem runScale_within {c : Nat} {o : Op} (answers : Answers F) (touches : Touches F) (hdata : F .data) (hhubCore : F .hubCore)
    (hctx : F (.ctx c)) (hfieldFrame : ∀ x, F (.fieldFrame x)) : (runScale c o).Within F := by
  refine .look fun _ => ?_
  split
  · exact applyResult_within answers touches hdata hhubCore hctx hfieldFrame
  · exact .andThen (.ctx hctx) (applyResult_within answers touches hdata hhubCore hctx hfieldFrame)

theorem runSignal_within {c : Nat} {o : Op} (sends : Sends F) (hhubCore : F .hubCore) (hctx : ∀ x, F (.ctx x)) : (runSignal c o).Within F :=
  .look fun _ => .ite (.andThen (.ite (addSync_within (hctx _)) (failOp_within (hctx _))) (land_within (hctx _))) (.ite (.andThen
    (failOp_within (hctx _)) (land_within (hctx _))) (withTag_within (fun _ => .cons (onOp_within (hctx _) (.inr fun _ h => h)) (.cons
    (sendPacket_within sends) (.cons (land_within (hctx _)) .nil))) sends.hub hhubCore))

theorem runWork_within {c : Nat} {o : Op} (abort : Aborts F) (touches : Touches F) (hruns : F .runs) (hctx : ∀ x, F (.ctx x))
    (hfieldFrame : ∀ x, F (.fieldFrame x)) : (runWork c o).Within F := by
  refine .look fun _ => .ite (startMatrix_within touches (hctx _) (abort.fieldWork _)) (.ite (land_within (hctx _)) (.ite (onOp_within
    (hctx _) (.inr fun _ h => h)) (.ite (startCollective_within abort touches hruns hctx hfieldFrame) (.ite (.andThen (.ctx (hctx _))
    (land_within (hctx _))) (.ite (.andThen (stepEndFx_within abort.mem abort.data touches.tiles touches.evc (hctx _) (abort.field _)
    touches.ring) (land_within (hctx _))) (.ite (runScale_within abort.toAnswers touches abort.data abort.hubCore (hctx _) hfieldFrame)
    (.ite (.when (land_within (hctx _))) (.ite (runSignal_within abort.toSends abort.hubCore hctx) ?_))))))))
  split
  · exact applyResult_within abort.toAnswers touches abort.data abort.hubCore (hctx _) hfieldFrame
  · exact land_within (hctx _)

theorem meetAgain_within {c : Nat} {o : Op} {go : Fx} (hgo : go.Within F) (answers : Answers F) (hmem : F .mem) (hdata : F .data)
    (htiles : F .tiles) (hctx : F (.ctx c)) (hfield : ∀ x, F (.field x)) (hfieldFrame : ∀ x, F (.fieldFrame x)) :
    (meetAgain c o go).Within F := by
  refine .look fun _ => ?_
  split
  · exact .andThen (failOp_within hctx) (land_within hctx)
  · exact .andThen (.each (fun _ => awaitSets_within answers hmem hdata htiles (hfield _) (hfieldFrame _))) hgo

theorem goOn_within {c : Nat} {seq : U32} (abort : Aborts F) (touches : Touches F) (hruns : F .runs) (hctx : ∀ x, F (.ctx x))
    (hfieldFrame : ∀ x, F (.fieldFrame x)) : (goOn c seq).Within F := by
  refine .look fun _ => ?_
  split
  · exact .skip
  · exact .ite .skip (.ite (land_within (hctx _)) (.ite (runWork_within abort touches hruns hctx hfieldFrame) (meetAgain_within
      (runWork_within abort touches hruns hctx hfieldFrame) abort.toAnswers abort.mem abort.data touches.tiles (hctx _) abort.field
      hfieldFrame)))

theorem execPreemptedResume_within {ctx : Nat} {s : State} (abort : Aborts F) (touches : Touches F) (hruns : F .runs)
    (hctx : ∀ x, F (.ctx x)) (hfieldFrame : ∀ x, F (.fieldFrame x)) : Goes F s (execPreemptedResume ctx s) := by
  refine ⟨_, rfl, ?_⟩
  split
  · exact .skip
  · exact .cons (onOp_within (hctx _) (.inr fun _ h => h)) (.cons (.each (fun _ => .andThen (.field (abort.field _) (hw := .inl
      (abort.fieldWork _))) (progress_within (abort.field _)))) (.cons (.when (goOn_within abort touches hruns hctx hfieldFrame)) .nil))

theorem takeDescriptor_within {f m c : Nat} {tag : U32} (hbooks : F .books) (hfield : F (.field f)) : (takeDescriptor f m c tag).Within F :=
  .look fun _ => .andThen (.field hfield (hb := .inl hbooks)) (.when (progress_within hfield))

theorem need_within {c : Nat} {seq tag : U32} {ga len : Nat} (hctx : F (.ctx c)) : (need c seq tag ga len).Within F :=
  onOp_within hctx (.inr fun _ h => h)

theorem fetchPiece_books {c : Nat} {o : Op} {ga len : Nat} {s : State} (hs : Books s) : Books ((fetchPiece c o ga len).run s) := by
  unfold fetchPiece
  rw [Fx.run_look]
  extract_lets f mover isCopy taken
  have htaken : ∀ tag, Books ((taken tag).run s) := by
    intro tag
    have hneed : Books ((need c o.seq tag ga len).run s) := (need_within nofun).books hs
    rw [Fx.run_andThen]
    cases hm : mover with
    | none => exact hneed
    | some m =>
      dsimp only
      unfold Fx.when
      split
      · exact takeDescriptor_books hm hneed
      · exact hneed
  clear_value taken
  split
  · refine Fx.Within.books (a := onOp c o.seq _) (onOp_within nofun (.inr ?_)) hs
    exact fun _ h => h
  · split
    · split
      · rw [withTag, Fx.run_look, Fx.run_andThen]
        refine (Fx.Within.hub nofun (hc := .inl nofun)).books (Fx.Within.books (a := Fx.all _) (.cons (askHost_within nofun nofun)
          (.cons (.look fun _ => .when (startDescriptor_within nofun)) .nil)) (htaken _))
      · exact (failOp_within nofun).books hs
    · split
      · exact (failOp_within nofun).books hs
      · rw [withTag, Fx.run_look, Fx.run_andThen]
        refine Fx.Within.books (a := Fx.hub _) (.hub nofun (hc := .inl nofun)) ?_
        rw [Fx.run_andThen]
        exact (sendPacket_within (F := (· ≠ .books)) ⟨nofun, nofun, nofun⟩).books (htaken _)

theorem fetchPiece_within {c : Nat} {o : Op} {ga len : Nat} (answers : Answers F) (hhubCore : F .hubCore) (hctx : F (.ctx c))
    (hfield : ∀ x, F (.field x)) : (fetchPiece c o ga len).Within F := by
  refine .of_keeps .books ?_ fun _ s hs => fetchPiece_books hs
  refine .look fun _ => .ite (onOp_within (.inl hctx) (.inr fun _ h => h)) (.ite ?_ (.ite (failOp_within (.inl hctx)) (withTag_within
    (fun _ => .andThen (.andThen (need_within (.inl hctx)) ?_) (sendPacket_within (answers.toSends.mono fun _ => .inl)))
    (.inl answers.hub) (.inl hhubCore))))
  · split
    · refine withTag_within (fun _ => .cons (.andThen (need_within (.inl hctx)) ?_) (.cons (askHost_within (.inl answers.out) (.inl
        answers.port))
        (.cons (.look fun _ => .when (startDescriptor_within fun _ => .inl (hfield _))) .nil))) (.inl answers.hub) (.inl hhubCore)
      split
      · exact .when (takeDescriptor_within (.inr rfl) (.inl (hfield _)))
      · exact .skip
    · exact failOp_within (.inl hctx)
  · split
    · exact .when (takeDescriptor_within (.inr rfl) (.inl (hfield _)))
    · exact .skip

theorem fetchSlot_within {c : Nat} {o : Op} {ga len : Nat} (answers : Answers F) (hhubCore : F .hubCore) (hctx : F (.ctx c))
    (hfield : ∀ x, F (.field x)) : (fetchSlot c o ga len).Within F :=
  .look fun _ => .ite (fetchPiece_within answers hhubCore hctx hfield) (.each (fun _ => fetchPiece_within answers hhubCore hctx hfield))

theorem fetchLater_within {c : Nat} (answers : Answers F) (hhubCore : F .hubCore) (hctx : F (.ctx c)) (hfield : ∀ x, F (.field x)) :
    (fetchLater c).Within F := by
  refine .look fun _ => ?_
  split
  · exact .skip
  · exact .andThen (onOp_within hctx (.inr fun _ h => h)) (fetchPiece_within answers hhubCore hctx hfield)

theorem takeOp_within {x : Launch} {o : Op} (touches : Touches F) (hctx : F (.ctx x.ctx)) (hfieldWork : ∀ x, F (.fieldWork x)) :
    (takeOp x o).Within F :=
  .look fun _ => .cons (onOp_within hctx (.inl touches.tiles)) (.cons (progress_within (touches.field _)) (.cons (.when (.each (fun _ =>
    .andThen (.field (touches.field _) (hw := .inl (hfieldWork _))) (.each (fun _ => progress_within (touches.field _)))))) (.cons (.when
    (.each (fun _ => .ite (plainRead_within touches) (touchRange_within touches)))) .nil)))

theorem begin_within {x : Launch} {o : Op} (abort : Aborts F) (touches : Touches F) (hruns : F .runs) (hctx : ∀ x, F (.ctx x))
    (hfieldFrame : ∀ x, F (.fieldFrame x)) : (begin x o).Within F := by
  refine .look fun _ => .cons (takeOp_within touches (hctx _) abort.fieldWork) (.cons ?_ (.cons (goOn_within abort touches hruns hctx
    hfieldFrame) .nil))
  split
  · exact .andThen (raiseEvs_within touches.toRaises) (failOp_within (hctx _))
  · exact .each (fun _ => fetchSlot_within abort.toAnswers abort.hubCore (hctx _) abort.field)

theorem startOp_within {x : Launch} {o : Op} (abort : Aborts F) (touches : Touches F) (hruns : F .runs) (hctx : ∀ x, F (.ctx x))
    (hfieldFrame : ∀ x, F (.fieldFrame x)) : (startOp x o).Within F := by
  refine .look fun _ => ?_
  dsimp only
  split
  · exact heldParity_within abort touches.toRaises hruns hctx
  · refine .ite (.andThen (.when (.ctx (hctx _))) (endOp_within abort touches.toRaises hruns hctx)) (.ite (endOp_within abort
      touches.toRaises hruns hctx) (.ite .skip (.ite (endOp_within abort touches.toRaises hruns hctx) ?_)))
    split
    · exact .skip
    · exact endOp_within abort touches.toRaises hruns hctx
    · exact begin_within abort touches hruns hctx hfieldFrame

theorem startRow_within {op : Nat} {x : Launch} (abort : Aborts F) (touches : Touches F) (hruns : F .runs) (hctx : ∀ x, F (.ctx x))
    (hfieldFrame : ∀ x, F (.fieldFrame x)) : (startRow op x).Within F := by
  refine .look fun _ => ?_
  split
  · exact .skip
  · exact .when (startOp_within abort touches hruns hctx hfieldFrame)

theorem execMatmul_within {x : Launch} {s : State} (abort : Aborts F) (touches : Touches F) (hruns : F .runs) (hctx : ∀ x, F (.ctx x))
    (hfieldFrame : ∀ x, F (.fieldFrame x)) : Goes F s (execMatmul x s) :=
  ⟨_, rfl, startRow_within abort touches hruns hctx hfieldFrame⟩

theorem execMatmulGrouped_within {x : Launch} {s : State} (abort : Aborts F) (touches : Touches F) (hruns : F .runs)
    (hctx : ∀ x, F (.ctx x)) (hfieldFrame : ∀ x, F (.fieldFrame x)) : Goes F s (execMatmulGrouped x s) :=
  ⟨_, rfl, startRow_within abort touches hruns hctx hfieldFrame⟩

theorem execConv_within {x : Launch} {s : State} (abort : Aborts F) (touches : Touches F) (hruns : F .runs) (hctx : ∀ x, F (.ctx x))
    (hfieldFrame : ∀ x, F (.fieldFrame x)) : Goes F s (execConv x s) :=
  ⟨_, rfl, startRow_within abort touches hruns hctx hfieldFrame⟩

theorem execAttention_within {x : Launch} {s : State} (abort : Aborts F) (touches : Touches F) (hruns : F .runs)
    (hctx : ∀ x, F (.ctx x)) (hfieldFrame : ∀ x, F (.fieldFrame x)) : Goes F s (execAttention x s) :=
  ⟨_, rfl, startRow_within abort touches hruns hctx hfieldFrame⟩

theorem execReduceSum_within {x : Launch} {s : State} (abort : Aborts F) (touches : Touches F) (hruns : F .runs)
    (hctx : ∀ x, F (.ctx x)) (hfieldFrame : ∀ x, F (.fieldFrame x)) : Goes F s (execReduceSum x s) :=
  ⟨_, rfl, startRow_within abort touches hruns hctx hfieldFrame⟩

theorem execReduceSumsq_within {x : Launch} {s : State} (abort : Aborts F) (touches : Touches F) (hruns : F .runs)
    (hctx : ∀ x, F (.ctx x)) (hfieldFrame : ∀ x, F (.fieldFrame x)) : Goes F s (execReduceSumsq x s) :=
  ⟨_, rfl, startRow_within abort touches hruns hctx hfieldFrame⟩

theorem execReduceMax_within {x : Launch} {s : State} (abort : Aborts F) (touches : Touches F) (hruns : F .runs)
    (hctx : ∀ x, F (.ctx x)) (hfieldFrame : ∀ x, F (.fieldFrame x)) : Goes F s (execReduceMax x s) :=
  ⟨_, rfl, startRow_within abort touches hruns hctx hfieldFrame⟩

theorem execNormalize_within {x : Launch} {s : State} (abort : Aborts F) (touches : Touches F) (hruns : F .runs)
    (hctx : ∀ x, F (.ctx x)) (hfieldFrame : ∀ x, F (.fieldFrame x)) : Goes F s (execNormalize x s) :=
  ⟨_, rfl, startRow_within abort touches hruns hctx hfieldFrame⟩

theorem execScatterAdd_within {x : Launch} {s : State} (abort : Aborts F) (touches : Touches F) (hruns : F .runs)
    (hctx : ∀ x, F (.ctx x)) (hfieldFrame : ∀ x, F (.fieldFrame x)) : Goes F s (execScatterAdd x s) :=
  ⟨_, rfl, startRow_within abort touches hruns hctx hfieldFrame⟩

theorem execVector_within {x : Launch} {s : State} (abort : Aborts F) (touches : Touches F) (hruns : F .runs) (hctx : ∀ x, F (.ctx x))
    (hfieldFrame : ∀ x, F (.fieldFrame x)) : Goes F s (execVector x s) :=
  ⟨_, rfl, startRow_within abort touches hruns hctx hfieldFrame⟩

theorem execConvert_within {x : Launch} {s : State} (abort : Aborts F) (touches : Touches F) (hruns : F .runs) (hctx : ∀ x, F (.ctx x))
    (hfieldFrame : ∀ x, F (.fieldFrame x)) : Goes F s (execConvert x s) :=
  ⟨_, rfl, startRow_within abort touches hruns hctx hfieldFrame⟩

theorem execRandom_within {x : Launch} {s : State} (abort : Aborts F) (touches : Touches F) (hruns : F .runs) (hctx : ∀ x, F (.ctx x))
    (hfieldFrame : ∀ x, F (.fieldFrame x)) : Goes F s (execRandom x s) :=
  ⟨_, rfl, startRow_within abort touches hruns hctx hfieldFrame⟩

theorem execCopy_within {x : Launch} {s : State} (abort : Aborts F) (touches : Touches F) (hruns : F .runs) (hctx : ∀ x, F (.ctx x))
    (hfieldFrame : ∀ x, F (.fieldFrame x)) : Goes F s (execCopy x s) :=
  ⟨_, rfl, startRow_within abort touches hruns hctx hfieldFrame⟩

theorem execFill_within {x : Launch} {s : State} (abort : Aborts F) (touches : Touches F) (hruns : F .runs) (hctx : ∀ x, F (.ctx x))
    (hfieldFrame : ∀ x, F (.fieldFrame x)) : Goes F s (execFill x s) :=
  ⟨_, rfl, startRow_within abort touches hruns hctx hfieldFrame⟩

theorem execPermute_within {x : Launch} {s : State} (abort : Aborts F) (touches : Touches F) (hruns : F .runs) (hctx : ∀ x, F (.ctx x))
    (hfieldFrame : ∀ x, F (.fieldFrame x)) : Goes F s (execPermute x s) :=
  ⟨_, rfl, startRow_within abort touches hruns hctx hfieldFrame⟩

theorem execGather_within {x : Launch} {s : State} (abort : Aborts F) (touches : Touches F) (hruns : F .runs) (hctx : ∀ x, F (.ctx x))
    (hfieldFrame : ∀ x, F (.fieldFrame x)) : Goes F s (execGather x s) :=
  ⟨_, rfl, startRow_within abort touches hruns hctx hfieldFrame⟩

theorem execReduceScatter_within {x : Launch} {s : State} (abort : Aborts F) (touches : Touches F) (hruns : F .runs)
    (hctx : ∀ x, F (.ctx x)) (hfieldFrame : ∀ x, F (.fieldFrame x)) : Goes F s (execReduceScatter x s) :=
  ⟨_, rfl, startRow_within abort touches hruns hctx hfieldFrame⟩

theorem execAllReduce_within {x : Launch} {s : State} (abort : Aborts F) (touches : Touches F) (hruns : F .runs)
    (hctx : ∀ x, F (.ctx x)) (hfieldFrame : ∀ x, F (.fieldFrame x)) : Goes F s (execAllReduce x s) :=
  ⟨_, rfl, startRow_within abort touches hruns hctx hfieldFrame⟩

theorem execReduce_within {x : Launch} {s : State} (abort : Aborts F) (touches : Touches F) (hruns : F .runs) (hctx : ∀ x, F (.ctx x))
    (hfieldFrame : ∀ x, F (.fieldFrame x)) : Goes F s (execReduce x s) :=
  ⟨_, rfl, startRow_within abort touches hruns hctx hfieldFrame⟩

theorem execAllGather_within {x : Launch} {s : State} (abort : Aborts F) (touches : Touches F) (hruns : F .runs)
    (hctx : ∀ x, F (.ctx x)) (hfieldFrame : ∀ x, F (.fieldFrame x)) : Goes F s (execAllGather x s) :=
  ⟨_, rfl, startRow_within abort touches hruns hctx hfieldFrame⟩

theorem execBroadcast_within {x : Launch} {s : State} (abort : Aborts F) (touches : Touches F) (hruns : F .runs)
    (hctx : ∀ x, F (.ctx x)) (hfieldFrame : ∀ x, F (.fieldFrame x)) : Goes F s (execBroadcast x s) :=
  ⟨_, rfl, startRow_within abort touches hruns hctx hfieldFrame⟩

theorem execStepBegin_within {x : Launch} {s : State} (abort : Aborts F) (touches : Touches F) (hruns : F .runs)
    (hctx : ∀ x, F (.ctx x)) (hfieldFrame : ∀ x, F (.fieldFrame x)) : Goes F s (execStepBegin x s) :=
  ⟨_, rfl, startRow_within abort touches hruns hctx hfieldFrame⟩

theorem execStepEnd_within {x : Launch} {s : State} (abort : Aborts F) (touches : Touches F) (hruns : F .runs) (hctx : ∀ x, F (.ctx x))
    (hfieldFrame : ∀ x, F (.fieldFrame x)) : Goes F s (execStepEnd x s) :=
  ⟨_, rfl, startRow_within abort touches hruns hctx hfieldFrame⟩

theorem execOptimize_within {x : Launch} {s : State} (abort : Aborts F) (touches : Touches F) (hruns : F .runs) (hctx : ∀ x, F (.ctx x))
    (hfieldFrame : ∀ x, F (.fieldFrame x)) : Goes F s (execOptimize x s) :=
  ⟨_, rfl, startRow_within abort touches hruns hctx hfieldFrame⟩

theorem execScaleUpdate_within {x : Launch} {s : State} (abort : Aborts F) (touches : Touches F) (hruns : F .runs)
    (hctx : ∀ x, F (.ctx x)) (hfieldFrame : ∀ x, F (.fieldFrame x)) : Goes F s (execScaleUpdate x s) :=
  ⟨_, rfl, startRow_within abort touches hruns hctx hfieldFrame⟩

theorem execWait_within {x : Launch} {s : State} (abort : Aborts F) (touches : Touches F) (hruns : F .runs) (hctx : ∀ x, F (.ctx x))
    (hfieldFrame : ∀ x, F (.fieldFrame x)) : Goes F s (execWait x s) :=
  ⟨_, rfl, startRow_within abort touches hruns hctx hfieldFrame⟩

theorem execSignal_within {x : Launch} {s : State} (abort : Aborts F) (touches : Touches F) (hruns : F .runs) (hctx : ∀ x, F (.ctx x))
    (hfieldFrame : ∀ x, F (.fieldFrame x)) : Goes F s (execSignal x s) :=
  ⟨_, rfl, startRow_within abort touches hruns hctx hfieldFrame⟩

theorem execOperationComplete_within {ctx : Nat} {e : OpEnd} {s : State} (abort : Aborts F) (raises : Raises F) (htiles : F .tiles)
    (hruns : F .runs) (hctx : ∀ x, F (.ctx x)) : Goes F s (execOperationComplete ctx e s) := by
  refine ⟨_, rfl, ?_⟩
  split
  · exact .skip
  · exact .when (.andThen (collisionsFx_within abort.mem abort.data htiles abort.field) (.andThen (.when (.ctx (hctx _))) (endOp_within
      abort raises hruns hctx)))

theorem execWaitTimeout_within {ctx : Nat} {s : State} (abort : Aborts F) (raises : Raises F) (hnow : F .now) (hruns : F .runs)
    (hctx : ∀ x, F (.ctx x)) : Goes F s (execWaitTimeout ctx s) := by
  refine ⟨_, rfl, ?_⟩
  split
  · exact .skip
  · exact .cons (.setNow hnow) (.cons (endOp_within abort raises hruns hctx) (.cons (abortJob_within abort hctx) .nil))

theorem execEngineHung_within {field engine : Nat} {s : State} (abort : Aborts F) (raises : Raises F) (hnow : F .now)
    (hditch : F .ditch) (hctx : ∀ x, F (.ctx x)) (hfieldFrame : F (.fieldFrame field)) : Goes F s (execEngineHung field engine s) :=
  ⟨_, rfl, .when (.cons (.setNow hnow) (.cons (.field (abort.field _) (hf := .inl hfieldFrame)) (.cons (raise_within raises.evc
    (abort.field _) raises.ring) (.cons (resetEngine_within abort hditch hctx hfieldFrame) .nil))))⟩

theorem freeDescriptor_within {tag : U32} {whole : Bool} (answers : Answers F) (hhubCore : F .hubCore) (hctx : ∀ x, F (.ctx x))
    (hfield : ∀ x, F (.field x)) : (freeDescriptor tag whole).Within F :=
  .look fun _ => .andThen (.each (fun _ => .andThen (.when (.each (fun _ => progress_within (hfield _)))) (.field (hfield _) (hb := .inr
    fun _ h => ⟨h.1, h.2.1, Field.booked_movers h fun _ => Nat.add_le_add_left (List.length_filter_le _ _) _⟩)))) (.each (fun _ =>
    fetchLater_within answers hhubCore (hctx _) hfield))

theorem execReadResp_within {link : Nat} {p : Packet} {s : State} (abort : Aborts F) (touches : Touches F) (hruns : F .runs)
    (hctx : ∀ x, F (.ctx x)) (hfieldFrame : ∀ x, F (.fieldFrame x)) (hlinkRx : F (.linkRx link)) : Goes F s (execReadResp link p s) := by
  refine ⟨_, rfl, onPacket_within (.cons (takePacket_within abort.hub (abort.field _) abort.link hlinkRx) (.cons (freeDescriptor_within
    abort.toAnswers abort.hubCore hctx abort.field) (.cons ?_ .nil)))⟩
  split
  · exact .skip
  · split
    · exact .skip
    · exact .andThen (onOp_within (hctx _) (.inr fun _ h => Op.fetch_copies _ _ _ _ h)) (goOn_within abort touches hruns hctx hfieldFrame)

theorem endHostRead_within {w : Wait} {bs : List Byte} (sends : Sends F) (hout : F .out) (hhubCore : F .hubCore)
    (hhubFrame : F .hubFrame) (hevc : F .evc) (hctx : ∀ x, F (.ctx x)) (hfield : F (.field (448 / 56))) (hring : ∀ x, F (.ring x)) :
    (endHostRead w bs).Within F := by
  unfold endHostRead
  split
  · exact submitRecords_within (fun _ _ => Wait.answer_within sends hout) hevc (hctx _) hfield hring
  · exact endUpdate_within sends hout hhubCore hhubFrame
  · exact .skip

theorem hostBytes_within {tag : U32} {data : List Byte} (abort : Aborts F) (touches : Touches F) (hhubFrame : F .hubFrame)
    (hruns : F .runs) (hctx : ∀ x, F (.ctx x)) (hfieldFrame : ∀ x, F (.fieldFrame x)) : (hostBytes tag data).Within F := by
  refine .look fun _ => ?_
  split
  · exact .ite (.andThen (.port abort.port (hw := .inr fun _ w h => ⟨w, List.mem_of_mem_erase h, rfl⟩)) (endHostRead_within abort.toSends
      abort.out abort.hubCore hhubFrame touches.evc hctx (abort.field _) touches.ring)) (.port abort.port (hw := .inr fun _ _ h =>
      exists_kind_of_mem_map h fun _ => by split <;> simp_all))
  · split
    · exact .when (freeDescriptor_within abort.toAnswers abort.hubCore hctx abort.field)
    · exact .when (.cons (.when (freeDescriptor_within abort.toAnswers abort.hubCore hctx abort.field)) (.cons (onOp_within (hctx _) (.inr
        fun _ h => Op.fetch_copies _ _ _ _ h)) (.cons (goOn_within abort touches hruns hctx hfieldFrame) .nil)))

theorem execRdmaReadResponse_within {tag : U32} {data : List Byte} {s : State} (abort : Aborts F) (touches : Touches F)
    (hhubFrame : F .hubFrame) (hruns : F .runs) (hctx : ∀ x, F (.ctx x)) (hfieldFrame : ∀ x, F (.fieldFrame x)) : Goes F s
    (execRdmaReadResponse tag data s) :=
  ⟨_, rfl, .andThen (hostBytes_within abort touches hhubFrame hruns hctx hfieldFrame) (hostAnswers_within abort.out abort.port abort.field)⟩

end Sys2Proof.Machine

/-! Proofs that every step keeps the books of R423. -/
namespace Sys2Proof.Machine

-- The default proofs of the side conditions are evaluated only once all lemmas before are checked: in order, none waits in a thread of
-- its own.
set_option Elab.async false

/-! ## A packet that leaves -/

/-- Flits that all find places in the replay buffer. -/
theorem each_pushFlit_bodies_books {α : Type} (i : Nat) (b : α → Byte) (x : α → List Byte) (l : List α) (s : State)
    (h : (s.link i).replay.length + l.length ≤ 1024) (hs : Books s) :
    Books ((Fx.each l (fun a => pushFlit i 0 (b a) (x a))).run s) := by
  induction l generalizing s with
  | nil => exact hs
  | cons a l ih =>
    rw [List.length_cons] at h
    rw [Fx.run_each_cons]
    have hlen := pushFlit_replay_length_le i 0 (b a) (x a) s
    exact ih _ (by omega) (pushFlit_books (by omega) hs)

/-- The flits of a packet that all find places in the replay buffer. -/
theorem sendPacketFlits_books {i : Nat} {p : Packet} {s : State} (h : (s.link i).replay.length + ((s.link i).fullBodies p).length ≤ 1024)
    (hs : Books s) : Books ((sendPacketFlits i p).run s) := by
  simp only [sendPacketFlits, Fx.run_look, Fx.run_andThen, Fx.run_link]
  exact books_modLink (each_pushFlit_bodies_books i _ _ _ s (by simpa using h) hs) id

theorem flits_of_sending {l m : Link} (h : l.sending = m.sending) (p : Packet) :
    l.replay.length + (l.fullBodies p).length = m.replay.length + (m.fullBodies p).length := by
  have hreplay : l.replay = m.replay := show l.sending.replay = m.sending.replay from h ▸ rfl
  have hpart : l.txPart = m.txPart := show l.sending.txPart = m.sending.txPart from h ▸ rfl
  simp only [Link.fullBodies, Link.packed, hreplay, hpart]

theorem raises_ne_books : Raises (· ≠ .books) := ⟨nofun, nofun, nofun⟩

theorem sends_ne_books : Sends (· ≠ .books) := ⟨nofun, nofun, nofun⟩

theorem answers_ne_books : Answers (· ≠ .books) := ⟨sends_ne_books, nofun, nofun⟩

theorem tears_ne_books : Tears (· ≠ .books) := ⟨answers_ne_books, nofun, nofun, nofun, nofun, nofun, nofun, nofun⟩

theorem aborts_ne_books : Aborts (· ≠ .books) := ⟨tears_ne_books, nofun⟩

theorem touches_ne_books : Touches (· ≠ .books) := ⟨raises_ne_books, nofun, nofun, nofun, nofun⟩

/-- A packet leaves its input and its lane without touching the books, nor the sending half of its link. -/
theorem leave_within {link v j : Nat} {p : Packet} {b : Bool} (f : Vl → Vl) (hf : ∀ x, (f x).granted ≤ x.granted) :
    (Fx.all [leavePacket link v j p, Fx.link link (fun l => l.granted v j), Fx.when b (onVl link v f)]).Within
      (fun q => q ≠ .books ∧ q ≠ .linkTx link) :=
  have hfree {q : Place} (hb : q ≠ .books) (ht : q ≠ .linkTx link) : q ≠ .books ∧ q ≠ .linkTx link := ⟨hb, ht⟩
  .cons (leavePacket_within (hfree nofun nofun) (fun _ => hfree nofun nofun) (fun _ => hfree nofun nofun) (fun _ => hfree nofun nofun)
      (hfree nofun nofun) (hfree nofun nofun) (fun _ => hfree nofun nofun))
    (.cons (.link (hfree nofun nofun)) (.cons (.when (onVl_within (hfree nofun nofun) (hfree nofun nofun) (.inr hf))) .nil))

/-- A packet that leaves finds room for its flits in the replay buffer (R398). -/
theorem leave_send_books {link v j : Nat} {p out : Packet} {b : Bool} {f : Vl → Vl} (hf : ∀ x, (f x).granted ≤ x.granted) {s : State}
    (hroom : (s.link link).replay.length + ((s.link link).fullBodies out).length ≤ 1024) (hs : Books s) :
    Books ((Fx.all [leavePacket link v j p, Fx.link link (fun l => l.granted v j), Fx.when b (onVl link v f),
      sendPacketFlits link out]).run s) := by
  have hleave := leave_within (link := link) (v := v) (j := j) (p := p) (b := b) f hf
  have hbooks := hleave .books (fun h => h.1 rfl) s hs
  have hsending := hleave (.linkTx link) (fun h => h.2 rfl) s
  simp only [Fx.run_all_cons, Fx.run_all_nil] at hbooks hsending ⊢
  refine sendPacketFlits_books ?_ hbooks
  rw [flits_of_sending hsending]
  exact hroom

theorem execPacketForward_books {link : Nat} {s : State} (hs : Books s) :
    ∃ a : Fx, execPacketForward link s = a.outcome s ∧ Books (a.run s) := by
  refine ⟨_, rfl, ?_⟩
  dsimp only
  split
  · exact (Fx.Within.when (fillSlot_within (F := (· ≠ .books)) nofun nofun nofun)).books hs
  · rename_i v j p _
    have hleave : (leavePacket link v j p).Within (· ≠ .books) := leavePacket_within nofun nofun nofun nofun nofun nofun nofun
    have hunused (b : Bool) : (Fx.when b (onVl link v (fun x => { x with credits := x.credits + p.units }))).Within (· ≠ .books) :=
      .when (onVl_within nofun nofun (.inr fun _ => Nat.le_refl _))
    split_ifs with hhops hblank hroom
    · exact Fx.Within.books (.cons hleave (.cons (hunused _) (.cons (discardAbort_within aborts_ne_books raises_ne_books nofun) .nil))) hs
    · exact Fx.Within.books (.cons hleave (.cons (hunused _) (.cons (discardEvent_within nofun nofun nofun) .nil))) hs
    · exact Fx.Within.books (fillSlot_within nofun nofun nofun) hs
    · refine leave_send_books ?_ (Nat.not_lt.mp hroom) hs
      exact fun _ => Nat.le_refl _
/-! ## The table -/

theorem Goes.books {s : State} {o : Host.Outcome State Fault Refusal} (h : Goes (· ≠ .books) s o) (hs : Books s) :
    ∃ a : Fx, o = a.outcome s ∧ Books (a.run s) := by
  obtain ⟨a, rfl, ha⟩ := h
  exact ⟨a, rfl, ha.books hs⟩

/-- Every row of the table keeps the books that balance: few touch them, where a row of the basin takes the place of another or a
packet fills the replay buffer. -/
theorem exec_books {s : State} (hs : Books s) : ∀ c : Instr, ∃ a : Fx, exec c s = a.outcome s ∧ Books (a.run s)
  | .modInfo _ => Goes.books (execModInfo_within answers_ne_books nofun nofun nofun nofun nofun) hs
  | .moduleReset _ => Goes.books (execModuleReset_within aborts_ne_books touches_ne_books nofun nofun nofun nofun nofun nofun nofun
      nofun nofun) hs
  | .hostWindow _ => Goes.books (execHostWindow_within answers_ne_books nofun nofun nofun nofun nofun nofun) hs
  | .relayCfg _ => Goes.books (execRelayCfg_within answers_ne_books nofun nofun nofun nofun nofun nofun) hs
  | .powerSet _ => Goes.books (execPowerSet_within answers_ne_books raises_ne_books nofun nofun nofun nofun) hs
  | .ringSet _ => Goes.books (execRingSet_within answers_ne_books nofun nofun nofun nofun nofun nofun) hs
  | .create _ => Goes.books (execCreate_within answers_ne_books nofun nofun nofun nofun nofun nofun nofun nofun) hs
  | .destroy _ => Goes.books (execDestroy_within aborts_ne_books raises_ne_books nofun nofun nofun) hs
  | .resume _ => Goes.books (execResume_within answers_ne_books raises_ne_books nofun nofun nofun nofun) hs
  | .seedSet _ => Goes.books (execSeedSet_within answers_ne_books nofun nofun nofun nofun nofun nofun) hs
  | .keeperWrite _ => Goes.books (execKeeperWrite_within answers_ne_books nofun nofun nofun nofun nofun nofun) hs
  | .keeperRead _ => Goes.books (execKeeperRead_within answers_ne_books nofun nofun nofun nofun nofun) hs
  | .ctxQuery _ => Goes.books (execCtxQuery_within answers_ne_books nofun nofun nofun nofun nofun) hs
  | .statsRead _ => Goes.books (execStatsRead_within answers_ne_books nofun nofun nofun nofun nofun) hs
  | .jobAbort _ => Goes.books (execJobAbort_within aborts_ne_books raises_ne_books nofun nofun) hs
  | .descLoad _ => Goes.books (execDescLoad_within answers_ne_books raises_ne_books nofun nofun nofun) hs
  | .submit _ => Goes.books (execSubmit_within answers_ne_books nofun nofun nofun nofun nofun nofun) hs
  | .submitHost _ => Goes.books (execSubmitHost_within answers_ne_books nofun nofun nofun nofun nofun) hs
  | .setPower _ => Goes.books (execSetPower_within answers_ne_books raises_ne_books nofun nofun nofun) hs
  | .nodeSet _ => Goes.books (execNodeSet_within answers_ne_books nofun nofun nofun nofun nofun nofun) hs
  | .routeWrite _ => Goes.books (execRouteWrite_within answers_ne_books nofun nofun nofun nofun nofun nofun) hs
  | .linkTrain _ => Goes.books (execLinkTrain_within aborts_ne_books raises_ne_books nofun nofun nofun nofun nofun nofun) hs
  | .linkFence _ => Goes.books (execLinkFence_within aborts_ne_books raises_ne_books nofun nofun nofun nofun nofun nofun) hs
  | .sluRead _ => Goes.books (execSluRead_within answers_ne_books nofun nofun nofun nofun nofun) hs
  | .fieldTest _ => Goes.books (execFieldTest_within answers_ne_books raises_ne_books nofun nofun nofun) hs
  | .fieldReset _ => Goes.books (execFieldReset_within aborts_ne_books raises_ne_books nofun nofun nofun nofun nofun nofun nofun nofun) hs
  | .repairWrite _ => Goes.books (execRepairWrite_within answers_ne_books nofun nofun nofun nofun nofun nofun) hs
  | .repairClear _ => Goes.books (execRepairClear_within answers_ne_books nofun nofun nofun nofun nofun nofun) hs
  | .hbmRetire _ => Goes.books (execHbmRetire_within aborts_ne_books raises_ne_books nofun nofun nofun nofun nofun) hs
  | .mirrorRegion _ => Goes.books (execMirrorRegion_within answers_ne_books nofun nofun nofun nofun nofun nofun) hs
  | .mirrorCopy _ => Goes.books (execMirrorCopy_within answers_ne_books raises_ne_books nofun nofun) hs
  | .takeover _ => Goes.books (execTakeover_within answers_ne_books nofun nofun nofun nofun nofun nofun) hs
  | .attest _ => Goes.books (execAttest_within answers_ne_books nofun nofun nofun nofun nofun) hs
  | .certRead _ => Goes.books (execCertRead_within answers_ne_books nofun nofun nofun nofun nofun) hs
  | .fwUpdate _ => Goes.books (execFwUpdate_within answers_ne_books nofun nofun nofun nofun nofun) hs
  | .regRead _ => Goes.books (execRegRead_within answers_ne_books nofun nofun nofun nofun nofun) hs
  | .regWrite _ => Goes.books (execRegWrite_within answers_ne_books raises_ne_books nofun nofun nofun nofun nofun nofun) hs
  | .eoi _ => Goes.books (execEoi_within nofun) hs
  | .cycleRead _ => Goes.books (execCycleRead_within answers_ne_books nofun nofun nofun nofun nofun) hs
  | .commandRelay _ => Goes.books (execCommandRelay_within aborts_ne_books touches_ne_books nofun nofun nofun nofun nofun nofun nofun
      nofun nofun nofun nofun) hs
  | .relay _ _ => Goes.books (execRelay_within aborts_ne_books touches_ne_books nofun nofun nofun nofun nofun nofun nofun nofun nofun
      nofun nofun) hs
  | .relayReply _ _ => Goes.books (execRelayReply_within nofun nofun nofun nofun nofun nofun) hs
  | .operationIssue _ => Goes.books (execOperationIssue_within aborts_ne_books raises_ne_books nofun nofun) hs
  | .matmul _ => Goes.books (execMatmul_within aborts_ne_books touches_ne_books nofun nofun nofun) hs
  | .matmulGrouped _ => Goes.books (execMatmulGrouped_within aborts_ne_books touches_ne_books nofun nofun nofun) hs
  | .conv _ => Goes.books (execConv_within aborts_ne_books touches_ne_books nofun nofun nofun) hs
  | .attention _ => Goes.books (execAttention_within aborts_ne_books touches_ne_books nofun nofun nofun) hs
  | .reduceSum _ => Goes.books (execReduceSum_within aborts_ne_books touches_ne_books nofun nofun nofun) hs
  | .reduceSumsq _ => Goes.books (execReduceSumsq_within aborts_ne_books touches_ne_books nofun nofun nofun) hs
  | .reduceMax _ => Goes.books (execReduceMax_within aborts_ne_books touches_ne_books nofun nofun nofun) hs
  | .normalize _ => Goes.books (execNormalize_within aborts_ne_books touches_ne_books nofun nofun nofun) hs
  | .scatterAdd _ => Goes.books (execScatterAdd_within aborts_ne_books touches_ne_books nofun nofun nofun) hs
  | .vector _ => Goes.books (execVector_within aborts_ne_books touches_ne_books nofun nofun nofun) hs
  | .convert _ => Goes.books (execConvert_within aborts_ne_books touches_ne_books nofun nofun nofun) hs
  | .random _ => Goes.books (execRandom_within aborts_ne_books touches_ne_books nofun nofun nofun) hs
  | .copy _ => Goes.books (execCopy_within aborts_ne_books touches_ne_books nofun nofun nofun) hs
  | .fill _ => Goes.books (execFill_within aborts_ne_books touches_ne_books nofun nofun nofun) hs
  | .permute _ => Goes.books (execPermute_within aborts_ne_books touches_ne_books nofun nofun nofun) hs
  | .gather _ => Goes.books (execGather_within aborts_ne_books touches_ne_books nofun nofun nofun) hs
  | .reduceScatter _ => Goes.books (execReduceScatter_within aborts_ne_books touches_ne_books nofun nofun nofun) hs
  | .allReduce _ => Goes.books (execAllReduce_within aborts_ne_books touches_ne_books nofun nofun nofun) hs
  | .reduce _ => Goes.books (execReduce_within aborts_ne_books touches_ne_books nofun nofun nofun) hs
  | .allGather _ => Goes.books (execAllGather_within aborts_ne_books touches_ne_books nofun nofun nofun) hs
  | .broadcast _ => Goes.books (execBroadcast_within aborts_ne_books touches_ne_books nofun nofun nofun) hs
  | .stepBegin _ => Goes.books (execStepBegin_within aborts_ne_books touches_ne_books nofun nofun nofun) hs
  | .stepEnd _ => Goes.books (execStepEnd_within aborts_ne_books touches_ne_books nofun nofun nofun) hs
  | .optimize _ => Goes.books (execOptimize_within aborts_ne_books touches_ne_books nofun nofun nofun) hs
  | .scaleUpdate _ => Goes.books (execScaleUpdate_within aborts_ne_books touches_ne_books nofun nofun nofun) hs
  | .wait _ => Goes.books (execWait_within aborts_ne_books touches_ne_books nofun nofun nofun) hs
  | .signal _ => Goes.books (execSignal_within aborts_ne_books touches_ne_books nofun nofun nofun) hs
  | .operationComplete _ _ => Goes.books (execOperationComplete_within aborts_ne_books raises_ne_books nofun nofun nofun) hs
  | .basinGrant _ => Goes.books (execBasinGrant_within answers_ne_books touches_ne_books nofun nofun nofun nofun nofun) hs
  | .passStart _ _ => Goes.books (execPassStart_within answers_ne_books touches_ne_books nofun nofun (.inr hs) nofun nofun nofun) hs
  | .partialSend _ => Goes.books (execPartialSend_within raises_ne_books nofun nofun nofun) hs
  | .partialArrival _ _ => Goes.books (execPartialArrival_within raises_ne_books nofun (.inr hs) nofun nofun) hs
  | .drainStart _ _ _ => Goes.books (execDrainStart_within answers_ne_books touches_ne_books nofun nofun nofun nofun nofun) hs
  | .preempt _ => Goes.books (execPreempt_within nofun nofun nofun) hs
  | .tileRowSave _ _ => Goes.books (execTileRowSave_within raises_ne_books nofun nofun nofun nofun nofun) hs
  | .tileRowRestore _ _ => Goes.books (execTileRowRestore_within touches_ne_books nofun nofun) hs
  | .preemptedResume _ => Goes.books (execPreemptedResume_within aborts_ne_books touches_ne_books nofun nofun nofun) hs
  | .witnessCompare _ => Goes.books (execWitnessCompare_within touches_ne_books nofun nofun) hs
  | .eccWriteback _ _ _ => Goes.books (execEccWriteback_within nofun nofun nofun) hs
  | .scrub _ _ => Goes.books (execScrub_within touches_ne_books nofun) hs
  | .setTransitionDone _ _ => Goes.books (execSetTransitionDone_within answers_ne_books nofun nofun nofun nofun nofun) hs
  | .hbmRefresh _ => Goes.books (execHbmRefresh_within nofun nofun nofun nofun) hs
  | .hbmRetireDone _ => Goes.books (execHbmRetireDone_within aborts_ne_books touches_ne_books nofun nofun nofun) hs
  | .rdmaWrite _ _ _ _ _ => Goes.books (execRdmaWrite_within answers_ne_books touches_ne_books nofun nofun nofun) hs
  | .rdmaRead _ _ _ _ => Goes.books (execRdmaRead_within answers_ne_books touches_ne_books nofun nofun) hs
  | .congestionNotification _ => Goes.books (execCongestionNotification_within nofun nofun) hs
  | .rateRestore _ => Goes.books (execRateRestore_within nofun nofun nofun) hs
  | .ceMarkedPacket _ => Goes.books (execCeMarkedPacket_within nofun nofun nofun) hs
  | .connectionManagement _ _ => Goes.books (execConnectionManagement_within nofun nofun nofun nofun nofun nofun nofun nofun) hs
  | .doorbell _ _ => Goes.books (execDoorbell_within nofun nofun nofun nofun) hs
  | .eventRecordWrite _ _ => Goes.books (execEventRecordWrite_within nofun nofun nofun nofun nofun) hs
  | .evcTake _ => Goes.books (execEvcTake_within nofun) hs
  | .linkTrainingDone _ _ => Goes.books (execLinkTrainingDone_within aborts_ne_books raises_ne_books nofun nofun nofun nofun nofun
      nofun) hs
  | .laneSubstitute _ _ => Goes.books (execLaneSubstitute_within aborts_ne_books raises_ne_books nofun nofun nofun nofun nofun) hs
  | .linkDown _ => Goes.books (execLinkDown_within aborts_ne_books raises_ne_books nofun nofun nofun nofun nofun) hs
  | .flitReceive _ _ _ => Goes.books (execFlitReceive_within aborts_ne_books raises_ne_books nofun nofun) hs
  | .replayTimeout _ => Goes.books (execReplayTimeout_within nofun nofun nofun nofun nofun) hs
  | .packetForward _ => execPacketForward_books hs
  | .residencyTimeout _ _ => Goes.books (execResidencyTimeout_within aborts_ne_books raises_ne_books nofun nofun) hs
  | .readReq _ _ => Goes.books (execReadReq_within sends_ne_books touches_ne_books nofun) hs
  | .write _ _ => Goes.books (execWrite_within sends_ne_books touches_ne_books nofun nofun nofun nofun) hs
  | .accWrite _ _ => Goes.books (execAccWrite_within sends_ne_books touches_ne_books nofun nofun) hs
  | .signalPacket _ _ => Goes.books (execSignalPacket_within sends_ne_books raises_ne_books nofun nofun) hs
  | .readResp _ _ => Goes.books (execReadResp_within aborts_ne_books touches_ne_books nofun nofun nofun nofun) hs
  | .writeAck _ _ => Goes.books (execWriteAck_within answers_ne_books touches_ne_books nofun nofun nofun) hs
  | .signalAck _ _ => Goes.books (execSignalAck_within answers_ne_books touches_ne_books nofun nofun nofun) hs
  | .linkMgmt _ _ => Goes.books (execLinkMgmt_within nofun nofun nofun nofun) hs
  | .abortRecord _ _ => Goes.books (execAbortRecord_within aborts_ne_books nofun) hs
  | .redReady _ _ => Goes.books (execRedReady_within nofun nofun nofun nofun nofun) hs
  | .redReadyResend _ _ => Goes.books (execRedReadyResend_within sends_ne_books) hs
  | .redHead _ _ => Goes.books (execRedHead_within nofun nofun nofun nofun nofun) hs
  | .redData _ _ => Goes.books (execRedData_within nofun nofun nofun nofun) hs
  | .redTail _ _ _ => Goes.books (execRedTail_within aborts_ne_books touches_ne_books nofun nofun nofun nofun) hs
  | .blockSend _ => Goes.books (execBlockSend_within nofun nofun) hs
  | .collectiveTimeout _ => Goes.books (execCollectiveTimeout_within aborts_ne_books raises_ne_books nofun nofun nofun) hs
  | .waitTimeout _ => Goes.books (execWaitTimeout_within aborts_ne_books raises_ne_books nofun nofun nofun) hs
  | .teardownDone _ => Goes.books (execTeardownDone_within aborts_ne_books raises_ne_books nofun nofun nofun nofun) hs
  | .teardownTimeout _ _ _ => Goes.books (execTeardownTimeout_within aborts_ne_books nofun nofun nofun nofun) hs
  | .quarantineEnd _ => Goes.books (execQuarantineEnd_within nofun nofun nofun) hs
  | .engineHung _ _ => Goes.books (execEngineHung_within aborts_ne_books raises_ne_books nofun nofun nofun nofun) hs
  | .engineResetTimeout _ _ => Goes.books (execEngineResetTimeout_within aborts_ne_books raises_ne_books nofun nofun nofun nofun nofun
      nofun nofun nofun) hs
  | .fieldResetDone _ _ => Goes.books (execFieldResetDone_within aborts_ne_books touches_ne_books nofun nofun nofun nofun nofun nofun
      nofun) hs
  | .fieldResetTimeout _ => Goes.books (execFieldResetTimeout_within aborts_ne_books raises_ne_books nofun nofun nofun nofun nofun
      nofun nofun nofun nofun) hs
  | .fieldTestBorrow _ => Goes.books (execFieldTestBorrow_within answers_ne_books raises_ne_books nofun) hs
  | .fieldTestWaitTimeout _ => Goes.books (execFieldTestWaitTimeout_within answers_ne_books raises_ne_books nofun nofun) hs
  | .testDone _ _ => Goes.books (execTestDone_within aborts_ne_books raises_ne_books nofun nofun nofun nofun nofun nofun nofun) hs
  | .fieldTestTimeout _ => Goes.books (execFieldTestTimeout_within aborts_ne_books raises_ne_books nofun nofun nofun nofun nofun nofun
      nofun nofun) hs
  | .mirrorCopyStart _ => Goes.books (execMirrorCopyStart_within answers_ne_books touches_ne_books nofun) hs
  | .mirrorCopyDone _ => Goes.books (execMirrorCopyDone_within answers_ne_books touches_ne_books nofun) hs
  | .powerUp _ => Goes.books (execPowerUp_within answers_ne_books touches_ne_books nofun nofun nofun nofun nofun nofun nofun nofun) hs
  | .feedQualify _ _ => Goes.books (execFeedQualify_within nofun nofun nofun nofun nofun nofun nofun nofun) hs
  | .feedDisqualify _ _ => Goes.books (execFeedDisqualify_within answers_ne_books touches_ne_books nofun nofun nofun nofun nofun nofun
      nofun nofun nofun nofun nofun nofun nofun nofun nofun) hs
  | .feedReturn _ => Goes.books (execFeedReturn_within nofun nofun nofun nofun nofun nofun nofun nofun nofun nofun nofun) hs
  | .fuseTrip _ _ => Goes.books (execFuseTrip_within answers_ne_books touches_ne_books nofun nofun nofun nofun nofun nofun nofun nofun
      nofun nofun nofun nofun nofun nofun nofun) hs
  | .feedEnableRelease _ _ => Goes.books (execFeedEnableRelease_within answers_ne_books touches_ne_books nofun nofun nofun nofun nofun
      nofun nofun nofun nofun nofun nofun nofun nofun nofun nofun) hs
  | .feedReversed _ _ => Goes.books (execFeedReversed_within answers_ne_books touches_ne_books nofun nofun nofun nofun nofun nofun
      nofun nofun nofun nofun nofun nofun nofun nofun nofun) hs
  | .rearm _ => Goes.books (execRearm_within nofun nofun nofun nofun nofun nofun nofun nofun) hs
  | .phaseFail _ => Goes.books (execPhaseFail_within raises_ne_books nofun nofun) hs
  | .powerCapPeriod _ _ => Goes.books (execPowerCapPeriod_within aborts_ne_books raises_ne_books nofun nofun nofun nofun nofun nofun
      nofun nofun nofun nofun) hs
  | .minPowerExit => Goes.books (execMinPowerExit_within raises_ne_books nofun nofun) hs
  | .thermalThrottle _ _ _ => Goes.books (execThermalThrottle_within raises_ne_books nofun) hs
  | .thermtrip => Goes.books (execThermtrip_within answers_ne_books touches_ne_books nofun nofun nofun nofun nofun nofun nofun nofun
      nofun nofun nofun nofun nofun nofun nofun) hs
  | .cooling _ => Goes.books (execCooling_within aborts_ne_books raises_ne_books nofun nofun nofun nofun) hs
  | .refclkLost => Goes.books (execRefclkLost_within nofun nofun nofun nofun nofun) hs
  | .refclkReturn => Goes.books (execRefclkReturn_within nofun nofun nofun nofun nofun) hs
  | .pllLockLoss _ => Goes.books (execPllLockLoss_within aborts_ne_books touches_ne_books nofun nofun nofun nofun nofun nofun nofun
      nofun nofun) hs
  | .pluggableInsert _ => Goes.books (execPluggableInsert_within aborts_ne_books raises_ne_books nofun nofun nofun nofun nofun) hs
  | .sidebandWrite _ _ _ _ => Goes.books (execSidebandWrite_within aborts_ne_books raises_ne_books nofun nofun nofun nofun nofun nofun
      nofun) hs
  | .apply _ _ => Goes.books (execApply_within aborts_ne_books raises_ne_books nofun nofun nofun nofun nofun nofun) hs
  | .sbResetPulse _ _ => Goes.books (execSbResetPulse_within aborts_ne_books touches_ne_books nofun nofun nofun nofun nofun nofun nofun
      nofun nofun nofun) hs
  | .resetStuck => Goes.books (execResetStuck_within nofun nofun) hs
  | .sidebandBusFault _ _ => Goes.books (execSidebandBusFault_within nofun nofun) hs
  | .sidebandBusRecover _ => Goes.books (execSidebandBusRecover_within nofun nofun) hs
  | .engineResetDone _ _ => Goes.books (execEngineResetDone_within aborts_ne_books raises_ne_books nofun nofun nofun nofun nofun nofun
      nofun) hs
  | .hbmStackFailed _ => Goes.books (execHbmStackFailed_within aborts_ne_books raises_ne_books nofun nofun nofun nofun) hs
  | .partnerTrainingStart _ => Goes.books (execPartnerTrainingStart_within aborts_ne_books raises_ne_books nofun nofun nofun nofun
      nofun) hs
  | .rdmaReadResponse _ _ => Goes.books (execRdmaReadResponse_within aborts_ne_books touches_ne_books nofun nofun nofun nofun) hs
  | .thermalRelease _ _ _ => Goes.books (execThermalRelease_within raises_ne_books nofun) hs
  | .resetStuckRelease => Goes.books (execResetStuckRelease_within nofun nofun) hs

/-- Settles O2: every row of the table keeps the books (`exec_books`), and so do the commands that time lets pass. -/
theorem stepKeepsBooks : Obligations.StepKeepsBooks := by
  intro s t _ hs ht
  cases hq : s.pending with
  | nil =>
    rw [step_empty hq] at ht
    cases ht
    exact Fx.Within.books (tick_within aborts_ne_books touches_ne_books nofun nofun nofun nofun nofun nofun nofun nofun nofun nofun nofun nofun) hs
  | cons c q =>
    simp only [step, hq] at ht
    obtain ⟨a, ha, hbooks⟩ := exec_books (s := s.withQueue q) hs c
    rw [ha, Fx.outcome_eq] at ht
    cases ht
    exact hbooks

end Sys2Proof.Machine

/-! Proofs about words and their bytes (03): numbers read back from byte strings, residues of sums (R90, R91), and sums in any order (R84,
R101). -/
namespace Sys2Proof.Machine

/-! ## Numbers in byte strings -/

/-- A field that lies behind a first part. -/
theorem field_append_right {x y : List Byte} {off len : Nat} (h : x.length ≤ off) :
    field (x ++ y) off len = field y (off - x.length) len := by
  simp only [field, bytesAt, List.drop_append, List.drop_eq_nil_of_le h, List.nil_append]

/-- The number that a first part holds. -/
theorem field_append_leBytes {y : List Byte} {n v : Nat} (h : v < 256 ^ n) : field (leBytes n v ++ y) 0 n = v := by
  rw [field, bytesAt, List.drop_zero, List.take_left' (leBytes_length n v), leNat_leBytes n v h]

theorem field_leBytes {n v : Nat} (h : v < 256 ^ n) : field (leBytes n v) 0 n = v := by
  simpa using field_append_leBytes (y := []) h

theorem lowBits_lt (w : Nat) (v : Int) : lowBits w v < 2 ^ w := by
  have hpos : (0 : Int) < ((2 ^ w : Nat) : Int) := by exact_mod_cast Nat.two_pow_pos w
  have hlt := Int.emod_lt_of_pos v hpos
  rw [lowBits]
  omega

/-- A number of w bits in two's complement is read back from its low bits. -/
theorem signedOf_lowBits_of_mem {w : Nat} {v : Int} (hw : 0 < w) (hlo : -(2 ^ (w - 1) : Nat) ≤ v) (hhi : v < (2 ^ (w - 1) : Nat)) :
    signedOf w (lowBits w v) = v := by
  obtain ⟨k, rfl⟩ := Nat.exists_eq_add_of_lt hw
  rw [Nat.zero_add, Nat.add_sub_cancel] at hlo hhi
  rw [Nat.zero_add, signedOf_lowBits, Nat.pow_succ]
  exact Int.bmod_eq_of_le_mul_two (by omega) (by omega)

/-! ## Residues (R90, R91) -/

theorem res255_add (x y : Int) : res255 (x + y) = (res255 x + res255 y) % 255 := by
  simp only [res255]
  omega

theorem res255_lt (x : Int) : res255 x < 255 := by
  simp only [res255]
  omega

namespace L128

@[simp] theorem residueOk_ofInt (t : Int) : (ofInt t).residueOk = true := by simp [residueOk, ofInt]

@[simp] theorem residueOk_poisoned : poisoned.residueOk = true := rfl

theorem residueOk_special {tag : Tag} (h : tag ≠ .fin) : (special tag).residueOk = true := by simp [residueOk, special, h]

theorem residue_of_ok {w : L128} (h : w.residueOk = true) (hfin : w.tag = .fin) : w.residue = res255 w.t := by
  simpa [residueOk, hfin] using h

variable {a b : L128}

/-- The check of R91 finds nothing in sound words. -/
theorem addFault_of_residueOk (ha : a.residueOk = true) (hb : b.residueOk = true) : a.addFault b = false := by
  by_cases h : a.tag = .fin ∧ b.tag = .fin
  · simp [addFault, residue_of_ok ha h.1, residue_of_ok hb h.2, res255_add]
  · exact addFault_eq_false_of_not_fin (not_and_or.mp h)

/-- The check finds a single word whose residue is off. -/
theorem addFault_of_residue_ne (hta : a.tag = .fin) (htb : b.tag = .fin) (pa : a.poison = false) (pb : b.poison = false)
    (ha : a.residueOk = true) (hb : b.residue % 255 ≠ res255 b.t) : a.addFault b = true := by
  have hlt := res255_lt b.t
  simp only [addFault, hta, htb, pa, pb, residue_of_ok ha hta, res255_add]
  simp
  omega

theorem add_of_fault (h : a.addFault b = true) : a.add b = poisoned := by simp [add, h]

/-- What the adder writes back is sound. -/
theorem residueOk_writeSum (t : Int) : (writeSum t).residueOk = true := by
  simp only [writeSum]
  split_ifs
  · exact residueOk_ofInt t
  all_goals exact residueOk_special (by decide)

theorem writeSum_residue {t : Int} (h : (writeSum t).tag = .fin) : (writeSum t).residue = res255 t := by
  revert h
  simp only [writeSum]
  split_ifs <;> simp [special, ofInt]

/-! ## The eighteen bytes of a word (R154) -/

theorem lowBits_four_wrap (hlo : sumMin ≤ a.t) (hhi : a.t ≤ sumMax) : signedOf 4 (lowBits 4 a.wrap) = a.wrap := by
  obtain ⟨hwlo, hwhi⟩ := a.wrap_mem hlo hhi
  exact signedOf_lowBits_of_mem (by decide) (by norm_num; omega) (by norm_num; omega)

/-- A word in range comes back through its bytes. -/
theorem ofBytes_bytes (hfin : a.tag = .fin) (hpoison : a.poison = false) (hlo : sumMin ≤ a.t) (hhi : a.t ≤ sumMax)
    (hres : a.residue < 256) : ofBytes a.bytes = a := by
  have hs : lowBits 128 a.t < 256 ^ 16 := lowBits_lt 128 a.t
  have hw := lowBits_lt 4 a.wrap
  have htag : a.tagByte = 16 * lowBits 4 a.wrap := by simp [tagByte, hfin, hpoison, Tag.code, b2n]
  have h0 : field a.bytes 0 16 = lowBits 128 a.t := by
    rw [bytes, List.append_assoc, field_append_leBytes hs]
  have h16 : field a.bytes 16 1 = a.tagByte := by
    rw [bytes, List.append_assoc, field_append_right (by simp), leBytes_length, field_append_leBytes (by omega)]
  have h17 : field a.bytes 17 1 = a.residue := by
    rw [bytes, field_append_right (by simp), List.length_append, leBytes_length, leBytes_length, field_leBytes (by omega)]
  have hsum : signedOf 128 (lowBits 128 a.t) + signedOf 4 (lowBits 4 a.wrap) * 2 ^ 128 = a.t := by
    rw [lowBits_four_wrap hlo hhi]
    exact a.s_add_wrap
  have hdiv : a.tagByte / 16 = lowBits 4 a.wrap := by omega
  have hmod : a.tagByte % 8 = 0 := by omega
  have hbit : bitOf a.tagByte 3 = false := by
    rw [bitOf, htag]
    simp
    omega
  rw [ofBytes, h0, h16, h17]
  simp only [ofParts, hdiv, hmod, hbit, hsum]
  obtain ⟨t, tag, poison, residue⟩ := a
  cases hfin
  cases hpoison
  rfl

end L128

/-- Settles O58: residues add up modulo 255 (`res255_add`), so that the check of R91 finds a word that is off and no other, and the
bytes of a word lead back to it (`L128.ofBytes_bytes`). -/
theorem wordsKeepTheirResidues : Obligations.WordsKeepTheirResidues := by
  refine ⟨fun a b ha hb pa pb => ⟨L128.addFault_of_residueOk, fun ra rb => ?_⟩, fun a b ha hb pa pb ra rb => ?_,
    fun w h p hlo hhi hres => L128.ofBytes_bytes h p hlo hhi hres, fun tag h => ?_⟩
  · have hfault := L128.addFault_of_residue_ne ha hb pa pb ra rb
    exact ⟨hfault, L128.add_of_fault hfault⟩
  · rw [L128.add_of_fin ha hb pa pb (L128.addFault_of_residueOk ra rb)]
    refine ⟨L128.residueOk_writeSum _, fun h => ?_⟩
    rw [L128.writeSum_residue h, res255_add, L128.residue_of_ok ra ha, L128.residue_of_ok rb hb]
  · cases tag with
    | fin => exact absurd rfl h
    | pinf | ninf | nan | ovfp | ovfn | ovfx => decide

/-! ## Sums in any order (R84, R101) -/

/-- What a list of sound words adds up to: poison spreads, the values of FIN words add up, and other tags combine. -/
def soundSum (l : List L128) : L128 :=
  if l.any L128.poison then L128.poisoned
  else if l.all (fun w => w.tag = .fin) then L128.ofInt (l.map L128.t).sum
  else L128.special ((l.map L128.tag).foldl addTags .fin)

theorem soundSum_of_poison {l : List L128} (h : l.any L128.poison = true) : soundSum l = L128.poisoned := if_pos h

theorem soundSum_of_fin {l : List L128} (hp : l.any L128.poison = false) (h : ∀ w ∈ l, w.tag = .fin) :
    soundSum l = L128.ofInt (l.map L128.t).sum := by
  simp only [soundSum, hp, Bool.false_eq_true, if_false]
  exact if_pos (by simpa using h)

theorem soundSum_of_not_fin {l : List L128} (hp : l.any L128.poison = false) (h : ¬ ∀ w ∈ l, w.tag = .fin) :
    soundSum l = L128.special ((l.map L128.tag).foldl addTags .fin) := by
  simp only [soundSum, hp, Bool.false_eq_true, if_false]
  exact if_neg (by simpa using h)

theorem foldl_addTags_eq_fin (l : List Tag) (a : Tag) : l.foldl addTags a = .fin ↔ a = .fin ∧ ∀ b ∈ l, b = .fin := by
  induction l generalizing a with
  | nil => simp
  | cons b l ih => simp [ih, addTags_eq_fin, and_assoc]

theorem soundSum_tag {l : List L128} (h : l.any L128.poison = false) : (soundSum l).tag = (l.map L128.tag).foldl addTags .fin := by
  simp only [soundSum, h, Bool.false_eq_true, if_false]
  split_ifs with hfin
  · symm
    simpa [foldl_addTags_eq_fin, L128.ofInt] using hfin
  · rfl

theorem residueOk_soundSum (l : List L128) : (soundSum l).residueOk = true := by
  simp only [soundSum]
  split_ifs with hpoison hfin
  · exact L128.residueOk_poisoned
  · exact L128.residueOk_ofInt _
  · refine L128.residueOk_special ?_
    simpa [foldl_addTags_eq_fin] using hfin

theorem soundSum_poison (l : List L128) : (soundSum l).poison = l.any L128.poison := by
  simp only [soundSum]
  split_ifs with hpoison hfin
  · exact hpoison.symm
  · exact (Bool.eq_false_iff.mpr hpoison).symm
  · exact (Bool.eq_false_iff.mpr hpoison).symm

/-- The magnitudes of the FIN words bound what any of them add up to. -/
def finMagnitude (l : List L128) : Int := ((l.filter (fun w => w.tag = .fin)).map (fun w => (w.t.natAbs : Int))).sum

theorem abs_sum_le_finMagnitude {l : List L128} (h : ∀ w ∈ l, w.tag = .fin) : |(l.map L128.t).sum| ≤ finMagnitude l := by
  induction l with
  | nil => exact le_refl 0
  | cons w l ih =>
    obtain ⟨hw, hl⟩ := List.forall_mem_cons.mp h
    have hcons : finMagnitude (w :: l) = |w.t| + finMagnitude l := by simp [finMagnitude, hw]
    rw [hcons, List.map_cons, List.sum_cons]
    exact (abs_add_le _ _).trans (add_le_add_right (ih hl) _)

/-- One more word. -/
theorem soundSum_concat {l : List L128} {w : L128} (hw : w.residueOk = true) (hmag : finMagnitude (l ++ [w]) ≤ sumMax) :
    (soundSum l).add w = soundSum (l ++ [w]) := by
  cases hpoison : (l ++ [w]).any L128.poison with
  | true =>
    rw [soundSum_of_poison hpoison]
    rw [List.any_append, ← soundSum_poison, List.any_cons, List.any_nil, Bool.or_false] at hpoison
    simp [L128.add, hpoison]
  | false =>
    obtain ⟨pl, pw⟩ : l.any L128.poison = false ∧ w.poison = false := by simpa using hpoison
    have hfault := L128.addFault_of_residueOk (residueOk_soundSum l) hw
    by_cases hfin : ∀ x ∈ l ++ [w], x.tag = .fin
    · obtain ⟨hl, htw⟩ : (∀ x ∈ l, x.tag = .fin) ∧ w.tag = .fin := by simpa [or_imp, forall_and] using hfin
      have habs := abs_le.mp ((abs_sum_le_finMagnitude hfin).trans hmag)
      have hmin : sumMin ≤ -sumMax := by decide
      rw [soundSum_of_fin pl hl] at hfault ⊢
      rw [soundSum_of_fin hpoison hfin]
      rw [List.map_append, List.sum_append, List.map_singleton, List.sum_singleton] at habs ⊢
      exact L128.add_of_mem rfl htw rfl pw hfault (hmin.trans habs.1) habs.2
    · have htag : ¬ ((soundSum l).tag = .fin ∧ w.tag = .fin) := by
        rw [soundSum_tag pl, foldl_addTags_eq_fin]
        simpa [or_imp, forall_and] using hfin
      rw [soundSum_of_not_fin hpoison hfin, L128.add_of_not_fin ((soundSum_poison l).trans pl) pw (not_and_or.mp htag), soundSum_tag pl,
        List.map_append, List.foldl_append]
      rfl

/-- The adder gives what the words add up to, one after another. -/
theorem sumWords_eq_soundSum (l : List L128) (hok : ∀ w ∈ l, w.residueOk = true) (hmag : finMagnitude l ≤ sumMax) :
    sumWords l = soundSum l := by
  induction l using List.reverseRecOn with
  | nil => rfl
  | append_singleton l w ih =>
    have hmono : finMagnitude l ≤ finMagnitude (l ++ [w]) := by
      simp only [finMagnitude, List.filter_append, List.map_append, List.sum_append, le_add_iff_nonneg_right]
      exact List.sum_nonneg (by simp)
    have hprefix := ih (fun x hx => hok x (List.mem_append_left _ hx)) (hmono.trans hmag)
    rw [sumWords, List.foldl_append, ← sumWords, hprefix]
    exact soundSum_concat (hok w (by simp)) hmag

theorem soundSum_perm {l l' : List L128} (h : l.Perm l') : soundSum l = soundSum l' := by
  have hpoison : l.any L128.poison = l'.any L128.poison := h.any_eq
  have hfin : l.all (fun w => w.tag = .fin) = l'.all (fun w => w.tag = .fin) := h.all_eq
  have hsum : (l.map L128.t).sum = (l'.map L128.t).sum := (h.map _).sum_eq
  have htags : (l.map L128.tag).foldl addTags .fin = (l'.map L128.tag).foldl addTags .fin :=
    (h.map _).foldl_eq' (fun a _ b _ c => by rw [addTags_assoc, addTags_comm a b, addTags_assoc]) _
  simp only [soundSum, hpoison, hfin, hsum, htags]

/-- Settles O56: the sum of sound words is a poisoned word, their exact sum or their combined tag (`sumWords_eq_soundSum`), none of
which depends on the order. -/
theorem sumsAreOrderFree : Obligations.SumsAreOrderFree := by
  intro l l' hperm hok hmag
  have hmag' : finMagnitude l' = finMagnitude l := ((hperm.filter _).map _).sum_eq.symm
  rw [sumWords_eq_soundSum l hok hmag, soundSum_perm hperm]
  exact (sumWords_eq_soundSum l' (fun w hw => hok w (hperm.mem_iff.mpr hw)) (hmag'.le.trans hmag)).symm

end Sys2Proof.Machine

/-! Proofs about byte forms: packets and their parity (R400, R402), flits (R394), tile headers and payloads (R206, R48, R49). -/
namespace Sys2Proof.Machine

/-! ## Byte strings -/

theorem field_leBytes_append {n v : Nat} {y : List Byte} {off len : Nat} (h : n ≤ off) :
    field (leBytes n v ++ y) off len = field y (off - n) len := by
  rw [field_append_right (by rwa [leBytes_length]), leBytes_length]

theorem field_cons {b : Byte} {y : List Byte} {off len : Nat} (h : 0 < off) : field (b :: y) off len = field y (off - 1) len :=
  field_append_right (x := [b]) h

theorem field_cons_one (b : Byte) (y : List Byte) : field (b :: y) 0 1 = b.toNat := by simp [field, bytesAt, leNat]

theorem bytesAt_append_right {x y : List Byte} {off len : Nat} (h : x.length ≤ off) :
    bytesAt (x ++ y) off len = bytesAt y (off - x.length) len := by
  simp only [bytesAt, List.drop_append, List.drop_eq_nil_of_le h, List.nil_append]

theorem bytesAt_append {x y : List Byte} {len : Nat} (h : x.length = len) : bytesAt (x ++ y) 0 len = x := by
  rw [bytesAt, List.drop_zero, List.take_left' h]

/-! ## Packets (R400, R402) -/

theorem packet_fields_length (p : Packet) : p.fields.length = 28 := by simp [Packet.fields]

theorem parityWord_lt (l : List Byte) : parityWord l < 2 ^ l.length := by
  induction l with
  | nil => exact Nat.one_pos
  | cons b l ih =>
    have hb : b2n (parityBit b) ≤ 1 := by cases parityBit b <;> decide
    rw [parityWord, List.length_cons, Nat.pow_succ]
    omega

theorem packet_parityWord_lt (p : Packet) : parityWord p.fields < 2 ^ 32 := by
  have hlt := parityWord_lt p.fields
  rw [packet_fields_length] at hlt
  omega

theorem packet_sealed_fields (p : Packet) : p.sealed.fields = p.fields := by simp only [Packet.fields, Packet.sealed]

theorem packet_parityOk_sealed (p : Packet) : p.sealed.parityOk = true := by
  have hparity : p.sealed.parity.toNat = parityWord p.fields := by
    rw [Packet.sealed, BitVec.toNat_ofNat, Nat.mod_eq_of_lt (packet_parityWord_lt p)]
  rw [Packet.parityOk, hparity, packet_sealed_fields, beq_self_eq_true]

/-- A packet is what its bytes say. -/
theorem packet_parse_bytes (p : Packet) : Packet.parse (p.bytes.take 32) (p.bytes.drop 32) = p := by
  have hlen : (p.fields ++ leBytes 4 p.parity.toNat).length = 32 := by simp [packet_fields_length]
  rw [Packet.bytes, List.take_left' hlen, List.drop_left' hlen]
  simp (disch := omega) [Packet.parse, Packet.fields, List.append_assoc, field_leBytes_append, field_append_leBytes, field_leBytes, field_cons,
    field_cons_one]

theorem foldl_bne_xor (f g : Nat → Bool) (l : List Nat) (a b : Bool) :
    l.foldl (fun p i => p != (f i ^^ g i)) (a ^^ b) = (l.foldl (fun p i => p != f i) a ^^ l.foldl (fun p i => p != g i) b) := by
  induction l generalizing a b with
  | nil => rfl
  | cons i l ih =>
    have h : ((a ^^ b) != (f i ^^ g i)) = ((a != f i) ^^ (b != g i)) := by cases a <;> cases b <;> cases f i <;> cases g i <;> rfl
    rw [List.foldl_cons, List.foldl_cons, List.foldl_cons, h, ih]

/-- The parity of an exclusive or. -/
theorem parityBit_xor (a b : Byte) : parityBit (a ^^^ b) = (parityBit a ^^ parityBit b) := by
  simp only [parityBit, BitVec.getLsbD_xor]
  exact foldl_bne_xor a.getLsbD b.getLsbD _ false false

theorem leBytes_two_xor (a b : U16) : leBytes 2 (a ^^^ b).toNat =
    [BitVec.ofNat 8 a.toNat ^^^ BitVec.ofNat 8 b.toNat, BitVec.ofNat 8 (a.toNat / 256) ^^^ BitVec.ofNat 8 (b.toNat / 256)] := by
  have hdiv : (a.toNat ^^^ b.toNat) / 256 = a.toNat / 256 ^^^ b.toNat / 256 := by
    simpa [Nat.shiftRight_eq_div_pow] using Nat.shiftRight_xor_distrib (i := 8) (a := a.toNat) (b := b.toNat)
  simp only [leBytes, BitVec.toNat_xor, hdiv, BitVec.ofNat_xor]

/-- A single bit of two bytes turns the parity of one of them. -/
theorem parityWord_xor_bit_ne (d : U16) {i : Nat} (hi : i < 16) (l : List Byte) :
    parityWord (leBytes 2 (d ^^^ (1#16 <<< i)).toNat ++ l) ≠ parityWord (leBytes 2 d.toNat ++ l) := by
  have hbit : (parityBit (BitVec.ofNat 8 (1#16 <<< i).toNat) ^^ parityBit (BitVec.ofNat 8 ((1#16 <<< i).toNat / 256))) = true := by
    revert i
    decide
  rw [leBytes_two_xor]
  simp only [leBytes, List.cons_append, List.nil_append, parityWord, parityBit_xor]
  generalize parityBit (BitVec.ofNat 8 (1#16 <<< i).toNat) = a at hbit
  generalize parityBit (BitVec.ofNat 8 ((1#16 <<< i).toNat / 256)) = b at hbit
  cases a <;> cases b <;> simp only [Bool.xor_false, Bool.xor_true, Bool.false_eq_true, Bool.not_true] at hbit ⊢
  · cases parityBit (BitVec.ofNat 8 (d.toNat / 256)) <;> simp [b2n]
  · cases parityBit (BitVec.ofNat 8 d.toNat) <;> simp [b2n]

/-- A single wrong bit of the destination is found. -/
theorem packet_parityOk_xor_dst {p : Packet} {i : Nat} (hi : i < 16) (h : p.parityOk = true) :
    Packet.parityOk { p with dst := p.dst ^^^ (1#16 <<< i) } = false := by
  rw [Packet.parityOk, beq_iff_eq] at h
  rw [Packet.parityOk, beq_eq_false_iff_ne, h]
  simp only [Packet.fields, List.append_assoc]
  exact (parityWord_xor_bit_ne p.dst hi _).symm

/-! ## Flits (R394) -/

theorem padTo_length {n : Nat} {bs : List Byte} (h : bs.length ≤ n) : (padTo n bs).length = n := by
  simp [padTo]
  omega

section
variable (seq ftype ack : Nat) (nack valid : Bool) (credits : List Nat) (pool first : Byte) {body : List Byte}

theorem flitCrcOk_flitBytes (h : body.length ≤ 240) : flitCrcOk (flitBytes seq ftype ack nack valid credits pool first body) = true := by
  have hpad := padTo_length h
  unfold flitBytes
  extract_lets hd b
  have hlen : hd.length = 12 := by simp [hd]
  have hcrc : field (hd ++ leBytes 4 (crc32 (hd ++ b)).toNat ++ b) 12 4 = (crc32 (hd ++ b)).toNat := by
    rw [List.append_assoc, field_append_right hlen.le, hlen, field_append_leBytes (crc32 (hd ++ b)).isLt]
  have hrest : (hd ++ leBytes 4 (crc32 (hd ++ b)).toNat ++ b).drop 16 = b := List.drop_left' (by simp [hlen])
  have hhead : bytesAt (hd ++ leBytes 4 (crc32 (hd ++ b)).toNat ++ b) 0 12 = hd := by rw [List.append_assoc, bytesAt_append hlen]
  rw [flitCrcOk, hcrc, hrest, hhead]
  simp [hlen, b, hpad]

theorem flitBytes_seq (h : ftype < 4) :
    field (flitBytes seq ftype ack nack valid credits pool first body) 0 2 = seq % 4096 + 4096 * ftype := by
  simp only [flitBytes, List.append_assoc]
  exact field_append_leBytes (by omega)

end

/-! ## Tile headers (R206, R208) -/

theorem header_body_length {h : Header} (htail : h.tail.length = 8) : h.body.length = 28 := by simp [Header.body, htail]

section
variable {h : Header} (hscales : h.scales.length = 32)
include hscales

theorem slot_length (htail : h.tail.length = 8) (payload : List Byte) : (h.slot payload).length = 64 + payload.length := by
  simp [Header.slot, hscales, header_body_length htail]
  omega

theorem bytesAt_slot_scales (payload : List Byte) : bytesAt (h.slot payload) 0 32 = h.scales := by
  simp only [Header.slot, List.append_assoc]
  exact bytesAt_append hscales

/-- Behind the seal a slot holds the rest of its header, then the payload. -/
theorem bytesAt_slot {payload : List Byte} {off len : Nat} (ho : 36 ≤ off) :
    bytesAt (h.slot payload) off len = bytesAt (h.body ++ payload) (off - 36) len := by
  have hlen : (h.scales ++ leBytes 4 (sealOf h.scales h.body payload).toNat).length = 36 := by simp [hscales]
  rw [Header.slot, List.append_assoc, bytesAt_append_right (by rwa [hlen]), hlen]

theorem field_slot {payload : List Byte} {off len : Nat} (ho : 36 ≤ off) :
    field (h.slot payload) off len = field (h.body ++ payload) (off - 36) len := by
  rw [field, bytesAt_slot hscales ho, ← field]

/-- The seal of a slot is right (R208). -/
theorem sealOk_slot (htail : h.tail.length = 8) (payload : List Byte) : sealOk (h.slot payload) = true := by
  have hbody := header_body_length htail
  have hseal : field (h.slot payload) 32 4 = (sealOf h.scales h.body payload).toNat := by
    simp only [Header.slot, List.append_assoc]
    rw [field_append_right hscales.le, hscales, field_append_leBytes (BitVec.isLt _)]
  have hrest : (h.slot payload).drop 64 = payload := List.drop_left' (by simp [hscales, hbody])
  rw [sealOk, hseal, bytesAt_slot_scales hscales, bytesAt_slot hscales (by omega), bytesAt_append hbody, hrest, beq_self_eq_true]

/-- A header in range is read back from its slot (R206). -/
theorem header_parse_slot (htail : h.tail.length = 8) (payload : List Byte) (hformat : h.format < 256) (hflags : h.flags < 256)
    (hlo : -32768 ≤ h.ceil) (hhi : h.ceil < 32768) (hshape : h.shape < 65536) (hvalid : h.valid < 65536) (htid : h.tid < 2 ^ 32)
    (htidx : h.tidx < 2 ^ 64) : Header.parse (h.slot payload) = h := by
  have hceil : signedOf 16 (lowBits 16 h.ceil) = h.ceil := signedOf_lowBits_of_mem (by decide) hlo hhi
  have hlow := lowBits_lt 16 h.ceil
  have htailAt : bytesAt (h.slot payload) 56 8 = h.tail := by
    rw [bytesAt_slot hscales (by omega), Header.body, List.append_assoc, bytesAt_append_right (by simp)]
    simpa using bytesAt_append htail
  simp (disch := omega) only [Header.parse, fieldS, field_slot hscales, htailAt, bytesAt_slot_scales hscales, Header.body, List.append_assoc,
    field_leBytes_append, field_append_leBytes, Nat.reduceSub, hceil, Nat.reduceMul]

end

/-! ## Payloads in whole bytes (R48) -/

/-- Pieces of one length are the chunks of what they join to. -/
theorem chunks_flatten {w : Nat} {l : List (List Byte)} (h : ∀ x ∈ l, x.length = w) : chunks w l.length l.flatten = l := by
  induction l with
  | nil => rfl
  | cons x l ih =>
    obtain ⟨hx, hl⟩ := List.forall_mem_cons.mp h
    rw [List.length_cons, chunks, List.flatten_cons, List.take_left' hx, List.drop_left' hx, ih hl]

theorem map_leNat_leBytes {w : Nat} {els : List Nat} (h : ∀ e ∈ els, e < 256 ^ w) : (els.map (leBytes w)).map leNat = els := by
  rw [List.map_map]
  exact (List.map_congr_left fun e he => leNat_leBytes w e (h e he)).trans (List.map_id els)

theorem unpackElems_packElems_bytes {code : Nat} {els : List Nat} (hplane : bitPlaned code = false) (hw : elemBits code % 8 = 0)
    (hlen : els.length = 1024) (h : ∀ e ∈ els, e < 2 ^ elemBits code) : (unpackElems code (packElems code els)).toList = els := by
  have hbits : 2 ^ elemBits code = 256 ^ (elemBits code / 8) := by
    rw [show (256 : Nat) = 2 ^ 8 from rfl, ← Nat.pow_mul, Nat.mul_div_cancel' (Nat.dvd_of_mod_eq_zero hw)]
  have hchunks := chunks_flatten (w := elemBits code / 8) (l := els.map (leBytes (elemBits code / 8))) (by simp)
  rw [List.length_map, hlen] at hchunks
  simp only [unpackElems, packElems, hplane, Bool.false_eq_true, if_false, hchunks]
  exact map_leNat_leBytes (hbits ▸ h)

/-- The widths of R34. -/
theorem elemBits_mem (code : Nat) : elemBits code ∈ [0, 4, 6, 8, 16, 24, 32, 144] := by
  unfold elemBits formatKind
  split <;> rename_i e <;> split at e <;> cases e <;> decide

/-- Formats that are not in bit planes take whole bytes. -/
theorem elemBits_mod_8 {code : Nat} (h : bitPlaned code = false) : elemBits code % 8 = 0 := by
  have hmem := elemBits_mem code
  simp only [bitPlaned, Bool.or_eq_false_iff, decide_eq_false_iff_not] at h
  simp only [List.mem_cons, List.not_mem_nil, or_false] at hmem
  omega

/-! ## Payloads in bit planes (R49) -/

theorem bitsOf_one (v p : Nat) : bitsOf v p 1 = (v.testBit p).toNat := by
  rw [bitsOf, Nat.testBit_eq_decide_div_mod_eq]
  rcases Nat.mod_two_eq_zero_or_one (v / 2 ^ p) with h | h <;> simp [h]

/-- The bits of one byte of a plane. -/
theorem planeByte_getLsbD : ∀ (a b c d e f g h : Bool) (i : Fin 8),
    (BitVec.ofNat 8 (a.toNat + 2 * b.toNat + 4 * c.toNat + 8 * d.toNat + 16 * e.toNat + 32 * f.toNat + 64 * g.toNat
      + 128 * h.toNat)).getLsbD i = [a, b, c, d, e, f, g, h].get i := by
  decide

/-- A plane holds one bit of each element, and eight of them to a byte. -/
theorem planeBytes_spec (p : Nat) (els : List Nat) (h : els.length % 8 = 0) :
    (planeBytes p els).length = els.length / 8 ∧
      ∀ i < els.length, ((planeBytes p els).getD (i / 8) 0#8).getLsbD (i % 8) = (els.getD i 0).testBit p := by
  induction els using planeBytes.induct with
  | case1 a b c d e f g k t ih =>
    simp only [List.length_cons] at h ⊢
    obtain ⟨hlen, hbit⟩ := ih (by omega)
    refine ⟨by simp only [planeBytes, List.length_cons, hlen]; omega, fun i hi => ?_⟩
    by_cases hsmall : i < 8
    · rw [planeBytes, Nat.div_eq_of_lt hsmall, List.getD_cons_zero, Nat.mod_eq_of_lt hsmall]
      simp only [bitsOf_one]
      rw [planeByte_getLsbD _ _ _ _ _ _ _ _ ⟨i, hsmall⟩]
      interval_cases i <;> rfl
    · obtain ⟨j, rfl⟩ := Nat.exists_eq_add_of_le' (Nat.not_lt.mp hsmall)
      rw [planeBytes, Nat.add_div_right j (by decide), Nat.add_mod_right]
      exact hbit j (by omega)
  | case2 els hshort =>
    have hnil : els = [] := by
      match els, h with
      | [], _ => rfl
      | a :: b :: c :: d :: e :: f :: g :: k :: t, _ => exact (hshort a b c d e f g k t rfl).elim
    subst hnil
    exact ⟨rfl, nofun⟩

/-- Bits gathered one above the other give back a number of so many bits. -/
theorem foldr_testBit (x : Nat) (w k : Nat) :
    (List.range' k w).foldr (fun p acc => b2n (x.testBit p) + 2 * acc) 0 = x / 2 ^ k % 2 ^ w := by
  induction w generalizing k with
  | zero => simp [Nat.mod_one]
  | succ w ih =>
    have hbit : b2n (x.testBit k) = x / 2 ^ k % 2 := by
      rw [Nat.testBit_eq_decide_div_mod_eq]
      rcases Nat.mod_two_eq_zero_or_one (x / 2 ^ k) with h | h <;> simp [h, b2n]
    rw [List.range'_succ, List.foldr_cons, ih, hbit, Nat.pow_succ, ← Nat.div_div_eq_div_mul, Nat.pow_succ', Nat.mod_mul]

/-- An element is read back from its planes. -/
theorem planeBits_planeBytes {w : Nat} {els : List Nat} (hlen : els.length % 8 = 0) {i : Nat} (hi : i < els.length)
    (h : els.getD i 0 < 2 ^ w) : planeBits ((List.range w).map (fun p => (planeBytes p els).toArray)) i = els.getD i 0 := by
  have hbits (p : Nat) : ((planeBytes p els).toArray.getD (i / 8) 0#8).getLsbD (i % 8) = (els.getD i 0).testBit p := by
    rw [← (planeBytes_spec p els hlen).2 i hi]
    simp [Array.getD_eq_getD_getElem?]
  simp only [planeBits, List.foldr_map, hbits]
  rw [List.range_eq_range', foldr_testBit, Nat.pow_zero, Nat.div_one, Nat.mod_eq_of_lt h]

theorem unpackElems_packElems_planes {code : Nat} {els : List Nat} (hplane : bitPlaned code = true) (hlen : els.length = 1024)
    (h : ∀ e ∈ els, e < 2 ^ elemBits code) : (unpackElems code (packElems code els)).toList = els := by
  have h8 : els.length % 8 = 0 := by omega
  have hchunks := chunks_flatten (w := 128) (l := (List.range (elemBits code)).map (fun p => planeBytes p els))
    (by simp [(planeBytes_spec _ els h8).1, hlen])
  rw [List.length_map, List.length_range] at hchunks
  simp only [unpackElems, packElems, hplane, if_true, hchunks, List.map_map]
  refine List.ext_getElem (by simp [hlen]) fun i hi hi' => ?_
  have hget : els.getD i 0 = els[i] := by simp [hi']
  have hbits := planeBits_planeBytes (w := elemBits code) h8 hi' (hget ▸ h _ (List.getElem_mem hi'))
  rw [hget] at hbits
  simpa [Function.comp_def] using hbits

/-- Settles O60: what is written to a place of a byte string is read back from there (`field_append_leBytes`), and the parity, the CRC
and the seal are those of what is read. -/
theorem byteFormsRoundTrip : Obligations.ByteFormsRoundTrip := by
  refine ⟨fun p => ⟨packet_parse_bytes p, packet_parityOk_sealed p, packet_sealed_fields p⟩, fun p i hi h => packet_parityOk_xor_dst hi h,
    fun seq ftype ack nack valid credits pool first body h =>
      ⟨flitCrcOk_flitBytes seq ftype ack nack valid credits pool first h, flitBytes_seq seq ftype ack nack valid credits pool first⟩,
    fun h payload hs ht hf hg hlo hhi hsh hv hi hx =>
      ⟨header_parse_slot hs ht payload hf hg hlo hhi hsh hv hi hx, sealOk_slot hs ht payload, slot_length hs ht payload⟩,
    fun code els hcode hkind hlen h => ?_⟩
  cases hplane : bitPlaned code with
  | true => exact unpackElems_packElems_planes hplane hlen h
  | false => exact unpackElems_packElems_bytes hplane (elemBits_mod_8 hplane) hlen h

end Sys2Proof.Machine

/-! Proofs about the rounding of float formats (02, 06): powers of two and quanta, the values that a format represents (R37, R38), and
the nearest of them (R169, R170). -/
namespace Sys2Proof.Machine

/-! ## Powers of two and magnitudes -/

theorem pow2_eq_zpow (e : Int) : pow2 e = (2 : Rat) ^ e := by
  rcases Int.eq_ofNat_of_zero_le (a := |e|) (abs_nonneg e) with ⟨n, hn⟩
  by_cases h : 0 ≤ e
  · obtain ⟨n, rfl⟩ := Int.eq_ofNat_of_zero_le h
    simp [pow2]
  · obtain ⟨n, hn⟩ := Int.eq_ofNat_of_zero_le (a := -e) (by omega)
    obtain rfl : e = -(n : Int) := by omega
    simp only [pow2, neg_neg, Int.toNat_natCast, zpow_neg, zpow_natCast, Nat.cast_pow, Nat.cast_ofNat, one_div]
    exact if_neg (by omega)

theorem pow2_pos (e : Int) : 0 < pow2 e := by
  rw [pow2_eq_zpow]
  positivity

theorem pow2_add (a b : Int) : pow2 (a + b) = pow2 a * pow2 b := by
  simp only [pow2_eq_zpow]
  exact zpow_add₀ (by decide) a b

theorem pow2_natCast (n : Nat) : pow2 n = ((2 ^ n : Nat) : Rat) := by simp [pow2_eq_zpow]

theorem pow2_le_pow2 {a b : Int} : pow2 a ≤ pow2 b ↔ a ≤ b := by
  simp only [pow2_eq_zpow]
  exact zpow_le_zpow_iff_right₀ (by norm_num)

theorem pow2_lt_pow2 {a b : Int} : pow2 a < pow2 b ↔ a < b := by
  simp only [pow2_eq_zpow]
  exact zpow_lt_zpow_iff_right₀ (by norm_num)

theorem ratAbs_eq_abs (q : Rat) : ratAbs q = |q| := by
  rw [ratAbs]
  split_ifs with h
  · exact (abs_of_neg h).symm
  · exact (abs_of_nonneg (not_lt.mp h)).symm

/-- The binary logarithm of a natural number brackets it. -/
theorem log2_bracket {n : Nat} (h : n ≠ 0) : pow2 (Nat.log2 n) ≤ n ∧ (n : Rat) < pow2 (Nat.log2 n + 1) := by
  have hsucc : (Nat.log2 n : Int) + 1 = ((Nat.log2 n + 1 : Nat) : Int) := by push_cast; rfl
  rw [hsucc, pow2_natCast, pow2_natCast]
  exact ⟨by exact_mod_cast Nat.log2_self_le h, by exact_mod_cast Nat.lt_log2_self (n := n)⟩

/-- The binary logarithm of a positive number brackets it. -/
theorem floorLog2_spec {q : Rat} (h : 0 < q) : pow2 (floorLog2 q) ≤ q ∧ q < pow2 (floorLog2 q + 1) := by
  unfold floorLog2
  have hnum : 0 < q.num := Rat.num_pos.mpr h
  have ha : ((q.num.toNat : Nat) : Rat) = q.num := by exact_mod_cast Int.toNat_of_nonneg hnum.le
  obtain ⟨halo, hahi⟩ := log2_bracket (n := q.num.toNat) (by omega)
  obtain ⟨hblo, hbhi⟩ := log2_bracket q.den_nz
  have hq : q * q.den = (q.num.toNat : Nat) := by rw [Rat.mul_den_eq_num, ha]
  generalize Nat.log2 q.num.toNat = a at *
  generalize Nat.log2 q.den = b at *
  have hhi : q < pow2 ((a : Int) - b + 1) := by
    have hsplit : pow2 ((a : Int) + 1) = pow2 ((a : Int) - b + 1) * pow2 b := by rw [← pow2_add]; congr 1; omega
    have hmul : q * pow2 b ≤ q * q.den := mul_le_mul_of_nonneg_left hblo h.le
    rw [hsplit] at hahi
    exact lt_of_mul_lt_mul_right (by linarith) (pow2_pos b).le
  have hlo : pow2 ((a : Int) - b - 1) ≤ q := by
    have hsplit : pow2 (a : Int) = pow2 ((a : Int) - b - 1) * pow2 (b + 1) := by rw [← pow2_add]; congr 1; omega
    have hmul : q * q.den ≤ q * pow2 (b + 1) := mul_le_mul_of_nonneg_left hbhi.le h.le
    rw [hsplit] at halo
    exact le_of_mul_le_mul_right (by linarith) (pow2_pos (b + 1))
  dsimp only
  split_ifs with he hsucc
  · exact absurd hsucc (not_le.mpr hhi)
  · exact ⟨he, hhi⟩
  · exact ⟨hlo, by rw [Int.sub_add_cancel]; exact not_le.mp he⟩

theorem floorLog2_eq {q : Rat} {x : Int} (hlo : pow2 x ≤ q) (hhi : q < pow2 (x + 1)) : floorLog2 q = x := by
  obtain ⟨h1, h2⟩ := floorLog2_spec ((pow2_pos x).trans_le hlo)
  have hle := pow2_lt_pow2.mp (hlo.trans_lt h2)
  have hge := pow2_lt_pow2.mp (h1.trans_lt hhi)
  omega

/-! ## Rounding a magnitude to an integer (R169) -/

theorem roundMag_floor {x : Rat} (h : 0 ≤ x) : ((x.floor.toNat : Nat) : Rat) ≤ x ∧ x < (x.floor.toNat : Nat) + 1 := by
  have hfloor : ((x.floor.toNat : Nat) : Rat) = x.floor := by
    exact_mod_cast Int.toNat_of_nonneg (Int.floor_nonneg.mpr h)
  rw [hfloor]
  exact ⟨Int.floor_le x, Int.lt_floor_add_one x⟩

theorem floor_toNat_natCast (n : Nat) : (n : Rat).floor.toNat = n := by
  obtain ⟨hlo, hhi⟩ := roundMag_floor (Nat.cast_nonneg (α := Rat) n)
  have hle : (n : Rat).floor.toNat ≤ n := by exact_mod_cast hlo
  have hlt : n < (n : Rat).floor.toNat + 1 := by exact_mod_cast hhi
  omega

/-- To nearest, a magnitude in quanta is off by at most one half. -/
theorem abs_roundMag_rne_sub_le (neg : Bool) (u : Nat) {q : Rat} (qe : Int) (h : 0 ≤ q) :
    |(roundMag .rne neg u q qe : Rat) - q / pow2 qe| ≤ 1 / 2 := by
  obtain ⟨hlo, hhi⟩ := roundMag_floor (div_nonneg h (pow2_pos qe).le)
  simp only [roundMag]
  generalize q / pow2 qe = x at hlo hhi ⊢
  generalize x.floor.toNat = t at hlo hhi ⊢
  rw [abs_le]
  split_ifs with hup
  · simp only [Bool.or_eq_true, decide_eq_true_eq, Bool.and_eq_true] at hup
    have hr : 1 / 2 ≤ x - t := hup.elim le_of_lt fun h => h.1.ge
    push_cast
    constructor <;> linarith
  · simp only [Bool.or_eq_true, decide_eq_true_eq, not_or, not_lt] at hup
    constructor <;> linarith [hup.1]

/-- What is off by at most one half is nearest. -/
theorem nearest_of_le_half {n : Int} {x : Rat} (h : |(n : Rat) - x| ≤ 1 / 2) (k : Int) : |(n : Rat) - x| ≤ |(k : Rat) - x| := by
  by_cases hk : k = n
  · rw [hk]
  · have hone : (1 : Rat) ≤ |(n : Rat) - k| := by exact_mod_cast Int.one_le_abs (sub_ne_zero.mpr (Ne.symm hk))
    have htri := abs_sub_le (n : Rat) x k
    rw [abs_sub_comm x k] at htri
    linarith

/-- A whole number of quanta is kept under every mode. -/
theorem roundMag_of_int (mode : Rounding) (neg : Bool) {u : Nat} (hu : u < 65536) (n : Nat) (qe : Int) :
    roundMag mode neg u (n * pow2 qe) qe = n := by
  have hdiv : (n : Rat) * pow2 qe / pow2 qe = n := mul_div_cancel_right₀ _ (pow2_pos qe).ne'
  have hzero : (0 : Rat).floor = 0 := rfl
  simp only [roundMag, hdiv, floor_toNat_natCast, sub_self]
  cases mode <;> simp [hzero, hu]

/-! ## The values that a format represents (R37, R38) -/

/-- A magnitude of at most m + 1 significant bits, in quanta no smaller than the format's least. -/
def OnGrid (m : Nat) (bias : Int) (w : Rat) : Prop := ∃ (n : Nat) (k : Int), n < 2 ^ (m + 1) ∧ 1 - bias - m ≤ k ∧ w = n * pow2 k

section
variable {m : Nat} {bias : Int} {q : Rat}

theorem quantumExp_eq (m : Nat) (bias : Int) (q : Rat) :
    quantumExp m bias q = 1 - bias - m ∨ quantumExp m bias q = floorLog2 q - m ∧ 1 - bias - m ≤ floorLog2 q - m := by
  rw [quantumExp]
  omega

/-- A represented magnitude is a whole number of the quanta of its size. -/
theorem exists_quanta (hq : 0 < q) (h : OnGrid m bias q) : ∃ n : Nat, q = n * pow2 (quantumExp m bias q) := by
  obtain ⟨n, k, hn, hk, rfl⟩ := h
  have hle : quantumExp m bias (n * pow2 k) ≤ k := by
    have hlt : (n : Rat) * pow2 k < pow2 (m + 1 + k) := by
      rw [pow2_add, show ((m : Int) + 1) = ((m + 1 : Nat) : Int) by push_cast; rfl, pow2_natCast]
      exact mul_lt_mul_of_pos_right (by exact_mod_cast hn) (pow2_pos k)
    have hlog := pow2_lt_pow2.mp ((floorLog2_spec hq).1.trans_lt hlt)
    rw [quantumExp]
    omega
  generalize quantumExp m bias (n * pow2 k) = e at hle ⊢
  obtain ⟨d, rfl⟩ := Int.le.dest hle
  refine ⟨n * 2 ^ d, ?_⟩
  rw [pow2_add, pow2_natCast]
  push_cast
  ring

/-- Rounding to nearest leaves no represented magnitude closer. -/
theorem abs_round_sub_le (neg : Bool) (u : Nat) (hq : 0 < q) {w : Rat} (hw : OnGrid m bias w) :
    |(roundMag .rne neg u q (quantumExp m bias q) : Rat) * pow2 (quantumExp m bias q) - q| ≤ |w - q| := by
  have hpos := pow2_pos (quantumExp m bias q)
  -- whole numbers of the quanta of q lie no closer
  have hquanta (k : Int) : |(roundMag .rne neg u q (quantumExp m bias q) : Rat) * pow2 (quantumExp m bias q) - q|
      ≤ |(k : Rat) * pow2 (quantumExp m bias q) - q| := by
    have h := nearest_of_le_half (n := roundMag .rne neg u q (quantumExp m bias q)) (by
      exact_mod_cast abs_roundMag_rne_sub_le neg u (quantumExp m bias q) hq.le) k
    have hscale (x : Rat) : |x * pow2 (quantumExp m bias q) - q| = |x - q / pow2 (quantumExp m bias q)| * pow2 (quantumExp m bias q) := by
      rw [← abs_of_pos hpos, ← abs_mul, abs_of_pos hpos, sub_mul, div_mul_cancel₀ _ hpos.ne']
    rw [hscale, hscale]
    exact mul_le_mul_of_nonneg_right (by exact_mod_cast h) hpos.le
  obtain ⟨n, k, hn, hk, rfl⟩ := hw
  by_cases hle : quantumExp m bias q ≤ k
  · obtain ⟨d, hd⟩ := Int.le.dest hle
    have hint : (n : Rat) * pow2 k = ((n * 2 ^ d : Int) : Rat) * pow2 (quantumExp m bias q) := by
      rw [← hd, pow2_add, pow2_natCast]
      push_cast
      ring
    rw [hint]
    exact hquanta _
  · -- smaller quanta are those of numbers below q's power of two
    have hQ : quantumExp m bias q = floorLog2 q - m := by
      rcases quantumExp_eq m bias q with h | h
      · omega
      · exact h.1
    have hpow : ((2 ^ m : Int) : Rat) * pow2 (quantumExp m bias q) = pow2 (floorLog2 q) := by
      rw [hQ, show floorLog2 q = m + (floorLog2 q - m) by omega, pow2_add, pow2_natCast]
      push_cast
      ring_nf
    have hbelow : (n : Rat) * pow2 k ≤ pow2 (floorLog2 q) := by
      have hlt : (n : Rat) * pow2 k < pow2 (m + 1 + k) := by
        rw [pow2_add, show ((m : Int) + 1) = ((m + 1 : Nat) : Int) by push_cast; rfl, pow2_natCast]
        exact mul_lt_mul_of_pos_right (by exact_mod_cast hn) (pow2_pos k)
      exact hlt.le.trans (pow2_le_pow2.mpr (by omega))
    have h := hquanta (2 ^ m)
    rw [hpow] at h
    have hfloor := (floorLog2_spec hq).1
    rw [abs_of_nonpos (a := pow2 (floorLog2 q) - q) (by linarith)] at h
    rw [abs_of_nonpos (a := (n : Rat) * pow2 k - q) (by linarith)]
    linarith

end

/-- The magnitude of an element with exponent field ex and fraction fr (R38). -/
def magOf (m : Nat) (bias : Int) (ex fr : Nat) : Rat :=
  if ex = 0 then pow2 (1 - bias - m) * fr else pow2 ((ex : Int) - bias - m) * ((2 ^ m + fr : Nat) : Rat)

section
variable {e m : Nat} {bias : Int} {inf nan : Bool} {bits ex fr : Nat} {q : Rat}

theorem magOf_nonneg (m : Nat) (bias : Int) (ex fr : Nat) : 0 ≤ magOf m bias ex fr := by
  have h1 := (pow2_pos (1 - bias - m)).le
  have h2 := (pow2_pos ((ex : Int) - bias - m)).le
  rw [magOf]
  split_ifs <;> positivity

theorem onGrid_magOf (h : fr < 2 ^ m) : OnGrid m bias (magOf m bias ex fr) := by
  have hpow : 2 ^ (m + 1) = 2 * 2 ^ m := by rw [Nat.pow_succ, Nat.mul_comm]
  rw [magOf]
  split_ifs with hex
  · exact ⟨fr, 1 - bias - m, by omega, le_refl _, mul_comm _ _⟩
  · exact ⟨2 ^ m + fr, (ex : Int) - bias - m, by omega, by omega, mul_comm _ _⟩

theorem magOf_normal (hex : ex ≠ 0) (hfr : fr < 2 ^ m) :
    pow2 ((ex : Int) - bias) ≤ magOf m bias ex fr ∧ magOf m bias ex fr < pow2 ((ex : Int) - bias + 1) := by
  have hpos := pow2_pos ((ex : Int) - bias - m)
  have hlo : pow2 ((ex : Int) - bias) = pow2 ((ex : Int) - bias - m) * ((2 ^ m : Nat) : Rat) := by
    rw [← pow2_natCast, ← pow2_add, Int.sub_add_cancel]
  have hhi : pow2 ((ex : Int) - bias + 1) = pow2 ((ex : Int) - bias - m) * ((2 ^ (m + 1) : Nat) : Rat) := by
    rw [← pow2_natCast, ← pow2_add]
    congr 1
    push_cast
    omega
  have hpow : 2 ^ (m + 1) = 2 * 2 ^ m := by rw [Nat.pow_succ, Nat.mul_comm]
  rw [magOf, if_neg hex, hlo, hhi]
  exact ⟨mul_le_mul_of_nonneg_left (by exact_mod_cast Nat.le_add_right _ _) hpos.le,
    mul_lt_mul_of_pos_left (by exact_mod_cast (by omega : 2 ^ m + fr < 2 ^ (m + 1))) hpos⟩

theorem magOf_subnormal_lt (hfr : fr < 2 ^ m) : magOf m bias 0 fr < pow2 (1 - bias) := by
  have h : pow2 (1 - bias) = pow2 (1 - bias - m) * ((2 ^ m : Nat) : Rat) := by rw [← pow2_natCast, ← pow2_add, Int.sub_add_cancel]
  rw [magOf, if_pos rfl, h]
  exact mul_lt_mul_of_pos_left (by exact_mod_cast hfr) (pow2_pos _)

/-- Magnitudes rise with the exponent field, then with the fraction. -/
theorem magOf_mono {ex' fr' : Nat} (hfr : fr < 2 ^ m) (hfr' : fr' < 2 ^ m) (hex' : ex' ≠ 0) (h : ex < ex' ∨ ex = ex' ∧ fr ≤ fr') :
    magOf m bias ex fr ≤ magOf m bias ex' fr' := by
  rcases h with hlt | ⟨rfl, hle⟩
  · have hlow := (magOf_normal (bias := bias) hex' hfr').1
    by_cases hex : ex = 0
    · subst hex
      exact (magOf_subnormal_lt hfr).le.trans ((pow2_le_pow2.mpr (by omega)).trans hlow)
    · exact (magOf_normal hex hfr).2.le.trans ((pow2_le_pow2.mpr (by omega)).trans hlow)
  · rw [magOf, magOf, if_neg hex', if_neg hex']
    exact mul_le_mul_of_nonneg_left (by exact_mod_cast Nat.add_le_add_left hle _) (pow2_pos _).le

/-! ### Decoding -/

/-- The magnitude of an element's bits. -/
def magBits (e m : Nat) (bias : Int) (bits : Nat) : Rat := magOf m bias (bitsOf bits m e) (bitsOf bits 0 m)

theorem bitsOf_lt (v lo len : Nat) : bitsOf v lo len < 2 ^ len := Nat.mod_lt _ (Nat.two_pow_pos len)

/-- A finite element is its magnitude with its sign, and not one of the encodings of R41. -/
theorem decodeFloat_eq_fin (h : decodeFloat e m bias inf nan bits = .fin q) :
    q = (if bitOf bits (e + m) then -magBits e m bias bits else magBits e m bias bits)
      ∧ (nan = true → inf = true → bitsOf bits m e ≠ 2 ^ e - 1)
      ∧ (nan = true → inf = false → ¬ (bitsOf bits m e = 2 ^ e - 1 ∧ bitsOf bits 0 m = 2 ^ m - 1)) := by
  have hdecode : decodeFloat e m bias inf nan bits =
      if nan && inf && decide (bitsOf bits m e = 2 ^ e - 1) then
        (if bitsOf bits 0 m ≠ 0 then .nan else if bitOf bits (e + m) then .ninf else .pinf)
      else if nan && !inf && decide (bitsOf bits m e = 2 ^ e - 1) && decide (bitsOf bits 0 m = 2 ^ m - 1) then .nan
      else .fin (if bitOf bits (e + m) then -magBits e m bias bits else magBits e m bias bits) := rfl
  rw [hdecode] at h
  split_ifs at h with hinf _ _ hnan hsign <;> cases h <;>
    simp only [Bool.and_eq_true, decide_eq_true_eq, Bool.not_eq_true'] at hinf hnan
  all_goals exact ⟨by simp [hsign], fun hn hi hx => hinf ⟨⟨hn, hi⟩, hx⟩, fun hn hi hx => hnan ⟨⟨⟨hn, hi⟩, hx.1⟩, hx.2⟩⟩

theorem abs_of_decodeFloat (h : decodeFloat e m bias inf nan bits = .fin q) : |q| = magBits e m bias bits := by
  have hnn : 0 ≤ magBits e m bias bits := magOf_nonneg m bias _ _
  rw [(decodeFloat_eq_fin h).1]
  split_ifs
  · rw [abs_neg, abs_of_nonneg hnn]
  · exact abs_of_nonneg hnn

theorem onGrid_magBits : OnGrid m bias (magBits e m bias bits) := onGrid_magOf (bitsOf_lt bits 0 m)

/-- The exponent field and the fraction of the largest finite magnitude (R37). -/
theorem exists_maxFinite (he : 2 ≤ e) : ∃ top fr, top ≠ 0 ∧ fr < 2 ^ m ∧ maxFinite e m bias inf nan = magOf m bias top fr ∧
    ∀ ex fr', ex < 2 ^ e → fr' < 2 ^ m → (nan = true → inf = true → ex ≠ 2 ^ e - 1) →
      (nan = true → inf = false → ¬ (ex = 2 ^ e - 1 ∧ fr' = 2 ^ m - 1)) → ex < top ∨ ex = top ∧ fr' ≤ fr := by
  have hexp : 2 ^ 2 ≤ 2 ^ e := Nat.pow_le_pow_right (by decide) he
  have hfrac := Nat.two_pow_pos m
  refine ⟨if nan && inf then 2 ^ e - 2 else 2 ^ e - 1, if nan && !inf then 2 ^ m - 2 else 2 ^ m - 1, ?_, ?_, ?_, ?_⟩
  · split_ifs <;> omega
  · split_ifs <;> omega
  · have htop : (if nan && inf then (2 : Int) ^ e - 2 else 2 ^ e - 1) = ((if nan && inf then 2 ^ e - 2 else 2 ^ e - 1 : Nat) : Int) := by
      split_ifs <;> push_cast [Nat.cast_sub (by omega : 2 ≤ 2 ^ e), Nat.cast_sub (by omega : 1 ≤ 2 ^ e)] <;> rfl
    rw [magOf, if_neg (by split_ifs <;> omega), maxFinite, ← htop]
  · intro ex fr' hex hfr' hinf hnan
    cases nan <;> cases inf <;> simp at hinf hnan ⊢ <;> omega

theorem magBits_le_maxFinite (he : 2 ≤ e) (h : decodeFloat e m bias inf nan bits = .fin q) :
    magBits e m bias bits ≤ maxFinite e m bias inf nan := by
  obtain ⟨-, hinf, hnan⟩ := decodeFloat_eq_fin h
  obtain ⟨top, fr, htop, hfr, heq, hmax⟩ := exists_maxFinite (m := m) (bias := bias) (inf := inf) (nan := nan) he
  rw [heq]
  exact magOf_mono (bitsOf_lt bits 0 m) hfr htop (hmax _ _ (bitsOf_lt bits m e) (bitsOf_lt bits 0 m) hinf hnan)

theorem onGrid_maxFinite (he : 2 ≤ e) : OnGrid m bias (maxFinite e m bias inf nan) := by
  obtain ⟨top, fr, -, hfr, heq, -⟩ := exists_maxFinite (m := m) (bias := bias) (inf := inf) (nan := nan) he
  exact heq ▸ onGrid_magOf hfr

/-! ### Encoding -/

/-- The encoding of a magnitude is its fields. -/
theorem encodeMag_magOf (neg : Bool) (hfr : fr < 2 ^ m) (hne : magOf m bias ex fr ≠ 0) :
    encodeMag e m bias neg (magOf m bias ex fr) = (if neg then 2 ^ (e + m) else 0) + ex * 2 ^ m + fr := by
  rw [encodeMag, if_neg hne]
  by_cases hex : ex = 0
  · subst hex
    have hdiv : magOf m bias 0 fr / pow2 (1 - bias - m) = fr := by
      rw [magOf, if_pos rfl, mul_div_cancel_left₀ _ (pow2_pos _).ne']
    simp [magOf_subnormal_lt hfr, hdiv, floor_toNat_natCast]
  · obtain ⟨hlo, hhi⟩ := magOf_normal (bias := bias) hex hfr
    have hnormal : ¬ magOf m bias ex fr < pow2 (1 - bias) := not_lt.mpr ((pow2_le_pow2.mpr (by omega)).trans hlo)
    have hdiv : magOf m bias ex fr / pow2 ((ex : Int) - bias - m) = ((2 ^ m + fr : Nat) : Rat) := by
      rw [magOf, if_neg hex, mul_div_cancel_left₀ _ (pow2_pos _).ne']
    simp only [hnormal, if_false, floorLog2_eq hlo hhi, hdiv, floor_toNat_natCast, Int.sub_add_cancel, Int.toNat_natCast,
      Nat.add_sub_cancel_left]

theorem bits_eq_fields (h : bits < 2 ^ (1 + e + m)) :
    bits = (if bitOf bits (e + m) then 2 ^ (e + m) else 0) + bitsOf bits m e * 2 ^ m + bitsOf bits 0 m := by
  have hsign : bits / 2 ^ (e + m) < 2 := by
    rw [Nat.div_lt_iff_lt_mul (Nat.two_pow_pos _), ← Nat.pow_succ', show (e + m).succ = 1 + e + m by omega]
    exact h
  have hhigh : bits / 2 ^ m / 2 ^ e = bits / 2 ^ (e + m) := by rw [Nat.div_div_eq_div_mul, ← Nat.pow_add, Nat.add_comm]
  have hlow := Nat.div_add_mod' bits (2 ^ m)
  have hmid := Nat.div_add_mod' (bits / 2 ^ m) (2 ^ e)
  have hbit : (if bitOf bits (e + m) then 2 ^ (e + m) else 0) = bits / 2 ^ (e + m) * 2 ^ e * 2 ^ m := by
    rw [bitOf, Nat.mul_assoc, ← Nat.pow_add]
    rcases Nat.le_one_iff_eq_zero_or_eq_one.mp (Nat.lt_succ_iff.mp hsign) with h0 | h1
    · simp [h0]
    · simp [h1]
  rw [hbit, bitsOf, bitsOf, Nat.pow_zero, Nat.div_one, ← hhigh, ← Nat.add_mul, hmid, hlow]

end

/-! ## Stored elements (R169, R170) -/

theorem formatKind_float {code e m : Nat} {bias : Int} {inf nan : Bool} (h : formatKind code = some (.float e m bias inf nan)) :
    2 ≤ e ∧ elemBits code = 1 + e + m := by
  refine ⟨?_, by rw [elemBits, h]⟩
  unfold formatKind at h
  split at h <;> cases h <;> decide

section
variable {e m : Nat} {bias : Int} {inf nan : Bool} {cfg : RoundCfg} {u : Nat} {v r : Rat}

/-- The magnitude that a value rounds to, in its format's quanta. -/
def roundedMag (m : Nat) (bias : Int) (mode : Rounding) (u : Nat) (v : Rat) : Rat :=
  (roundMag mode (decide (v < 0)) u |v| (quantumExp m bias |v|) : Rat) * pow2 (quantumExp m bias |v|)

/-- A value whose rounded magnitude is finite is stored as that. -/
theorem roundFloat_of_le (hv : v ≠ 0) (h : roundedMag m bias cfg.mode u v ≤ maxFinite e m bias inf nan) :
    roundFloat e m bias inf nan cfg.mode u v = (roundedMag m bias cfg.mode u v, decide (v < 0), .no) := by
  simp only [roundFloat, ratAbs_eq_abs, abs_eq_zero, hv, if_false]
  exact if_neg (not_lt.mpr h)

theorem roundFloat_of_gt (hv : v ≠ 0) (hmode : cfg.mode = .rne) (h : maxFinite e m bias inf nan < roundedMag m bias cfg.mode u v) :
    roundFloat e m bias inf nan cfg.mode u v = (roundedMag m bias cfg.mode u v, decide (v < 0), .away) := by
  simp only [roundFloat, ratAbs_eq_abs, abs_eq_zero, hv, if_false]
  refine (if_pos h).trans ?_
  simp [hmode, roundedMag]

theorem overElem_val (neg : Bool) (h : (overElem e m bias inf nan cfg neg).val = .fin r) :
    r = if neg then -maxFinite e m bias inf nan else maxFinite e m bias inf nan := by
  revert h
  simp only [overElem, infElem, maxElem, nanElem]
  split_ifs <;> simp_all [Elem.plain]

/-- A finite value stored to nearest has its sign and a magnitude to which no represented one is preferred. -/
theorem floatElem_rne (he : 2 ≤ e) (hmode : cfg.mode = .rne) (hftz : cfg.ftz = false)
    (h : (floatElem e m bias inf nan cfg u (.fin v)).val = .fin r) :
    ∃ mag, r = (if v < 0 then -mag else mag) ∧
      ∀ w, OnGrid m bias w → w ≤ maxFinite e m bias inf nan → abs (mag - |v|) ≤ abs (w - |v|) := by
  by_cases hv : v = 0
  · subst hv
    have hzero : r = 0 := by simpa [floatElem, roundFloat, ratAbs, Elem.plain] using h.symm
    exact ⟨0, by simp [hzero], fun w _ _ => by simp⟩
  have hpos : 0 < |v| := abs_pos.mpr hv
  have hnear {w : Rat} (hw : OnGrid m bias w) : abs (roundedMag m bias cfg.mode u v - |v|) ≤ abs (w - |v|) := by
    rw [roundedMag, hmode]
    exact abs_round_sub_le _ u hpos hw
  by_cases hle : roundedMag m bias cfg.mode u v ≤ maxFinite e m bias inf nan
  · refine ⟨roundedMag m bias cfg.mode u v, ?_, fun w hw _ => hnear hw⟩
    simp only [floatElem, roundFloat_of_le hv hle, hftz, Bool.false_and, Bool.or_false, decide_eq_true_eq] at h
    split_ifs at h with hzero hneg <;> simp only [Elem.plain, Val.fin.injEq] at h
    · simp [hzero, ← h]
    · rw [if_pos hneg, h]
    · rw [if_neg hneg, h]
  · have hgt := not_le.mp hle
    have hbeyond : maxFinite e m bias inf nan ≤ |v| := by
      by_contra hlt
      have habs := hnear (onGrid_maxFinite (m := m) (bias := bias) (inf := inf) (nan := nan) he)
      rw [abs_of_pos (a := maxFinite e m bias inf nan - |v|) (by linarith)] at habs
      have hself := le_abs_self (roundedMag m bias cfg.mode u v - |v|)
      linarith
    simp only [floatElem, roundFloat_of_gt hv hmode hgt] at h
    refine ⟨maxFinite e m bias inf nan, by simpa using overElem_val _ h, fun w _ hw => ?_⟩
    rw [abs_of_nonpos (a := maxFinite e m bias inf nan - |v|) (by linarith), abs_of_nonpos (a := w - |v|) (by linarith)]
    linarith

/-- A represented value is stored as the bits that give it. -/
theorem floatElem_decoded (he : 2 ≤ e) (hu : u < 65536) (hftz : cfg.ftz = false) {bits : Nat} (hbits : bits < 2 ^ (1 + e + m))
    (h : decodeFloat e m bias inf nan bits = .fin v) : (floatElem e m bias inf nan cfg u (.fin v)).val = .fin v ∧
      ∃ b, (floatElem e m bias inf nan cfg u (.fin v)).bits = some b ∧ decodeFloat e m bias inf nan b = .fin v := by
  by_cases hv : v = 0
  · subst hv
    have hzero : decodeFloat e m bias inf nan 0 = .fin 0 := by
      have hexp : 2 ^ 2 ≤ 2 ^ e := Nat.pow_le_pow_right (by decide) he
      have hones : ¬ 0 = 2 ^ e - 1 := by omega
      simp [decodeFloat, bitsOf, bitOf, hones]
    simp [floatElem, roundFloat, ratAbs, Elem.plain, hzero]
  have hpos : 0 < |v| := abs_pos.mpr hv
  have hmag := abs_of_decodeFloat h
  obtain ⟨n, hn⟩ := exists_quanta hpos (hmag ▸ onGrid_magBits)
  have hround : roundedMag m bias cfg.mode u v = |v| := by
    have hint := roundMag_of_int cfg.mode (decide (v < 0)) hu n (quantumExp m bias |v|)
    rw [← hn] at hint
    rw [roundedMag, hint, ← hn]
  have hsign : decide (v < 0) = bitOf bits (e + m) := by
    have hnn : 0 ≤ magBits e m bias bits := magOf_nonneg m bias _ _
    have hfin := (decodeFloat_eq_fin h).1
    cases hbit : bitOf bits (e + m) <;> simp only [hbit, Bool.false_eq_true, if_true, if_false] at hfin
    · simpa [hfin] using hnn
    · simpa [hfin] using lt_of_le_of_ne hnn (by rintro h0; exact hv (by rw [hfin, ← h0, neg_zero]))
  have hval : (if v < 0 then -|v| else |v|) = v := by
    split_ifs with hneg
    · rw [abs_of_neg hneg, neg_neg]
    · exact abs_of_nonneg (not_lt.mp hneg)
  have hencode : encodeMag e m bias (decide (v < 0)) |v| = bits := by
    rw [hmag, magBits, encodeMag_magOf _ (bitsOf_lt bits 0 m) (by rw [← magBits, ← hmag]; exact hpos.ne'), hsign, ← bits_eq_fields hbits]
  have hround' := roundFloat_of_le (e := e) (inf := inf) (nan := nan) (cfg := cfg) (u := u) hv
    (hround.le.trans (hmag.le.trans (magBits_le_maxFinite he h)))
  rw [hround] at hround'
  simp only [floatElem, hround', abs_eq_zero, hv, hftz, Bool.false_and, Bool.or_false, decide_false, Bool.false_eq_true, if_false,
    Elem.plain, decide_eq_true_eq, hval, hencode]
  exact ⟨trivial, bits, rfl, h⟩

end

/-- To nearest even an integer is off by at most one half, and by one half only if it is even (R73). -/
theorem rneInt_spec (q : Rat) : |q - rneInt q| ≤ 1 / 2 ∧ (|q - rneInt q| = 1 / 2 → rneInt q % 2 = 0) := by
  have hlo : (q.floor : Rat) ≤ q := Int.floor_le q
  have hhi : q < q.floor + 1 := Int.lt_floor_add_one q
  simp only [rneInt]
  generalize q.floor = f at *
  split_ifs with hbelow habove heven <;> push_cast
  · rw [abs_of_nonneg (by linarith)]
    exact ⟨by linarith, fun h => absurd h (by linarith)⟩
  · rw [abs_of_nonpos (by linarith)]
    exact ⟨by linarith, fun h => absurd h (by linarith)⟩
  · rw [abs_of_nonneg (by linarith)]
    exact ⟨by linarith, fun _ => heven⟩
  · rw [abs_of_nonpos (by linarith)]
    exact ⟨by linarith, fun _ => by omega⟩

/-- Settles O59: a represented value is a whole number of its quanta and keeps its bits (`floatElem_decoded`), and a value stored to
nearest lies no farther than any represented one (`floatElem_rne`). -/
theorem floatRounding : Obligations.FloatRounding := by
  refine ⟨fun q => ratAbs_eq_abs _ ▸ rneInt_spec q, fun code e m bias inf nan cfg u bits q hk hbits hu hftz hq => ?_,
    fun code e m bias inf nan cfg u bits v r q hk hmode hftz hr hbits hq => ?_⟩
  · obtain ⟨he, hw⟩ := formatKind_float hk
    simp only [storeElem, decodeElem, hk] at hq ⊢
    exact floatElem_decoded he hu hftz (hw ▸ hbits) hq
  · obtain ⟨he, -⟩ := formatKind_float hk
    simp only [storeElem, decodeElem, hk] at hr hq
    obtain ⟨mag, rfl, hnear⟩ := floatElem_rne he hmode hftz hr
    have hle := hnear |q| (abs_of_decodeFloat hq ▸ onGrid_magBits) (abs_of_decodeFloat hq ▸ magBits_le_maxFinite he hq)
    have hsigned : |(if v < 0 then -mag else mag) - v| = abs (mag - |v|) := by
      split_ifs with hneg
      · rw [abs_of_neg hneg, ← abs_neg]
        ring_nf
      · rw [abs_of_nonneg (not_lt.mp hneg)]
    rw [ratAbs_eq_abs, ratAbs_eq_abs, hsigned]
    exact hle.trans (abs_abs_sub_abs_le q v)

end Sys2Proof.Machine

/-! Proofs about memory (11): what an operation on one granule or word leaves of the others, and what a write leaves to be read (R349,
R355). -/
namespace Sys2Proof.Machine

/-! ## Granules and words of a range -/

theorem mem_granulesOf {k len g : Nat} : g ∈ granulesOf k len ↔ 0 < len ∧ k / 8 ≤ g ∧ g ≤ (k + len - 1) / 8 := by
  unfold granulesOf
  split_ifs with h
  · simp [h]
  · simp only [List.mem_map, List.mem_range]
    constructor
    · rintro ⟨i, hi, rfl⟩
      omega
    · rintro ⟨-, hlo, hhi⟩
      exact ⟨g - k / 8, by omega, by omega⟩

theorem mem_wordsOf {k len w : Nat} : w ∈ wordsOf k len ↔ 0 < len ∧ k / 64 ≤ w ∧ w ≤ (k + len - 1) / 64 := by
  unfold wordsOf
  split_ifs with h
  · simp [h]
  · simp only [List.mem_map, List.mem_range]
    constructor
    · rintro ⟨i, hi, rfl⟩
      omega
    · rintro ⟨-, hlo, hhi⟩
      exact ⟨w - k / 64, by omega, by omega⟩

theorem granulesOf_nodup (k len : Nat) : (granulesOf k len).Nodup := by
  unfold granulesOf
  split_ifs
  · exact List.nodup_nil
  · exact List.nodup_range.map fun i j h => by simpa using h

theorem wordsOf_nodup (k len : Nat) : (wordsOf k len).Nodup := by
  unfold wordsOf
  split_ifs
  · exact List.nodup_nil
  · exact List.nodup_range.map fun i j h => by simpa using h

theorem bytesAt_length {bs : List Byte} {off len : Nat} (h : off + len ≤ bs.length) : (bytesAt bs off len).length = len := by
  simp only [bytesAt, List.length_take, List.length_drop]
  omega

theorem bytesAt_getD {bs : List Byte} {off len i : Nat} (h : i < len) : (bytesAt bs off len).getD i 0#8 = bs.getD (off + i) 0#8 := by
  simp [bytesAt, List.getD_eq_getElem?_getD, h]

namespace Mem

/-! ## One granule -/

/-- Two memories hold the same in a granule. -/
def Same (m n : Mem) (g : Nat) : Prop :=
  (∀ a, a / 8 = g → tableGet? n.cells a = tableGet? m.cells a) ∧ n.clean.contains g = m.clean.contains g ∧
    tableGet? n.ecc g = tableGet? m.ecc g

variable {m n p : Mem} {g : Nat}

theorem Same.refl (m : Mem) (g : Nat) : m.Same m g := ⟨fun _ _ => rfl, rfl, rfl⟩

theorem Same.trans (h : m.Same n g) (k : n.Same p g) : m.Same p g := by
  obtain ⟨h1, h2, h3⟩ := h
  obtain ⟨k1, k2, k3⟩ := k
  exact ⟨fun a ha => (k1 a ha).trans (h1 a ha), k2.trans h2, k3.trans h3⟩

theorem Same.symm (h : m.Same n g) : n.Same m g := by
  obtain ⟨h1, h2, h3⟩ := h
  exact ⟨fun a ha => (h1 a ha).symm, h2.symm, h3.symm⟩

theorem Same.check (h : m.Same n g) : n.check g = m.check g := by
  obtain ⟨-, hclean, hecc⟩ := h
  simp only [Mem.check, syndrome, hclean, hecc]

theorem Same.wrongBits (h : m.Same n g) : n.wrongBits g = m.wrongBits g := by
  simp only [Mem.wrongBits, h.check, h.2.2]

theorem Same.granuleOk (h : m.Same n g) : n.granuleOk g = m.granuleOk g := by
  obtain ⟨-, hclean, hecc⟩ := id h
  simp only [Mem.granuleOk, h.check, hclean, hecc]

theorem Same.byte {a : Nat} (h : m.Same n (a / 8)) : n.byte a = m.byte a := by
  simp only [Mem.byte, h.wrongBits, tableGet, h.1 a rfl]

/-- A granule is written with its check byte: no mark, no upset. -/
def Settled (m : Mem) (g : Nat) : Prop := m.clean.contains g = true ∧ tableGet? m.ecc g = none

theorem Same.settled (h : m.Same n g) : n.Settled g ↔ m.Settled g := by
  obtain ⟨-, hclean, hecc⟩ := h
  simp only [Settled, hclean, hecc]

theorem Settled.granuleOk (h : m.Settled g) : m.granuleOk g = true := by
  obtain ⟨hclean, hecc⟩ := h
  simp only [Mem.granuleOk, hecc, hclean]

theorem wrongBits_of_none (h : tableGet? m.ecc g = none) : m.wrongBits g = 0#64 := by
  simp only [Mem.wrongBits, h]

theorem byte_of_none {a : Nat} (h : tableGet? m.ecc (a / 8) = none) : m.byte a = tableGet m.cells a Mem.default := by
  simp [Mem.byte, wrongBits_of_none h]

/-! ### One byte -/

theorem setByte_same {k : Nat} {b : Byte} (h : g ≠ k / 8) : m.Same (m.setByte k b) g := by
  have hne (a : Nat) (ha : a / 8 = g) : a ≠ k := by
    rintro rfl
    exact h ha.symm
  unfold setByte
  split_ifs
  · exact ⟨fun a ha => tableGet?_erase_ne _ (hne a ha), rfl, rfl⟩
  · exact ⟨fun a ha => tableGet?_put_ne _ _ (hne a ha), rfl, rfl⟩
  · exact .refl m g

theorem setByte_settled {k : Nat} {b : Byte} : (m.setByte k b).Settled g ↔ m.Settled g := by
  unfold setByte
  split_ifs <;> rfl

theorem setByte_byte {k a : Nat} {b : Byte} (h : m.Settled (k / 8)) : (m.setByte k b).byte a = if a = k then b else m.byte a := by
  by_cases hg : a / 8 = k / 8
  · have hs := setByte_settled (k := k) (b := b).mpr h
    rw [byte_of_none (hg ▸ hs.2), byte_of_none (hg ▸ h.2)]
    unfold setByte
    rw [if_pos h.1]
    dsimp only [tableGet]
    split_ifs with hb ha ha
    · rw [ha, tableGet?_erase_self, hb]
      rfl
    · rw [tableGet?_erase_ne _ ha]
    · rw [ha, tableGet?_put_self]
      rfl
    · rw [tableGet?_put_ne _ _ ha]
  · rw [(setByte_same hg).byte, if_neg]
    rintro rfl
    exact hg rfl

/-- Bytes of one settled granule, one after another. -/
theorem foldl_setByte {k : Nat} (f : Nat → Byte) (h : m.Settled g) (l : Nat) (hk : ∀ i < l, (k + i) / 8 = g) :
    ((List.range l).foldl (fun n i => n.setByte (k + i) (f i)) m).Settled g ∧
      (∀ q, q ≠ g → m.Same ((List.range l).foldl (fun n i => n.setByte (k + i) (f i)) m) q) ∧
      ∀ a, ((List.range l).foldl (fun n i => n.setByte (k + i) (f i)) m).byte a = if k ≤ a ∧ a < k + l then f (a - k) else m.byte a := by
  induction l with
  | zero => exact ⟨h, fun q _ => .refl m q, fun a => by simp [List.range_zero]⟩
  | succ l ih =>
    obtain ⟨hs, hsame, hbyte⟩ := ih fun i hi => hk i (by omega)
    have hg := hk l (by omega)
    rw [List.range_succ, List.foldl_append, List.foldl_cons, List.foldl_nil]
    refine ⟨setByte_settled.mpr hs, fun q hq => (hsame q hq).trans (setByte_same (hg ▸ hq)), fun a => ?_⟩
    rw [setByte_byte (hg ▸ hs), hbyte]
    by_cases ha : a = k + l
    · subst ha
      simp
    · rw [if_neg ha]
      congr 1
      apply propext
      omega

/-! ### One granule rewritten -/

theorem cleanGranule_spec (m : Mem) (g : Nat) :
    (m.cleanGranule g).Settled g ∧ (∀ q, q ≠ g → m.Same (m.cleanGranule g) q) ∧ ∀ a, (m.cleanGranule g).byte a = m.byte a := by
  have hn : ({ m with clean := insertNat m.clean g, ecc := tableErase m.ecc g } : Mem).Settled g :=
    ⟨by simp [mem_insertNat], tableGet?_erase_self _ _⟩
  have hsame (q : Nat) (hq : q ≠ g) : m.Same { m with clean := insertNat m.clean g, ecc := tableErase m.ecc g } q :=
    ⟨fun _ _ => rfl, by simp [List.contains_eq_mem, mem_insertNat, hq], tableGet?_erase_ne _ hq⟩
  unfold cleanGranule
  dsimp only
  split_ifs with hwrong
  · refine ⟨hn, hsame, fun a => ?_⟩
    by_cases ha : a / 8 = g
    · rw [byte_of_none (ha ▸ hn.2)]
      simp [Mem.byte, ha, hwrong]
    · exact (hsame _ ha).byte
  · obtain ⟨hs, hrest, hbyte⟩ := foldl_setByte (k := 8 * g) (fun i => m.byte (8 * g + i)) hn 8 fun i hi => by omega
    refine ⟨hs, fun q hq => (hsame q hq).trans (hrest q hq), fun a => ?_⟩
    by_cases ha : a / 8 = g
    · rw [hbyte, if_pos (by omega), Nat.add_sub_cancel' (by omega)]
    · exact ((hsame _ ha).trans (hrest _ ha)).byte

theorem putGranule_spec (m : Mem) {k : Nat} {bs : List Byte} (h : k % 8 + bs.length ≤ 8) :
    (m.putGranule k bs).Settled (k / 8) ∧ (∀ q, q ≠ k / 8 → m.Same (m.putGranule k bs) q) ∧
      ∀ a, (m.putGranule k bs).byte a = if k ≤ a ∧ a < k + bs.length then bs.getD (a - k) 0#8 else m.byte a := by
  obtain ⟨hs, hsame, hbyte⟩ := cleanGranule_spec m (k / 8)
  obtain ⟨hs', hsame', hbyte'⟩ := foldl_setByte (k := k) (fun i => bs.getD i 0#8) hs bs.length fun i hi => by omega
  exact ⟨hs', fun q hq => (hsame q hq).trans (hsame' q hq), fun a => by rw [putGranule, hbyte', hbyte]⟩

theorem tableGet?_filter {α : Type} (l : List (Nat × α)) (f : Nat → Bool) (k : Nat) :
    tableGet? (l.filter (fun e => f e.1)) k = if f k then tableGet? l k else none := by
  induction l with
  | nil => simp [tableGet?]
  | cons e l ih =>
    obtain ⟨j, v⟩ := e
    simp only [List.filter_cons, tableGet?]
    by_cases hj : j = k
    · subst hj
      cases hf : f j <;> simp [hf, tableGet?, ih]
    · cases hf : f j <;> simp [hj, tableGet?, ih]

theorem poison_same {lo hi : Nat} (h : g < lo ∨ hi ≤ g) : m.Same (m.poison lo hi) g := by
  have hg : (decide (g < lo) || decide (hi ≤ g)) = true := by simpa using h
  refine ⟨fun a ha => ?_, ?_, ?_⟩
  · rw [poison, tableGet?_filter m.cells (fun c => decide (c / 8 < lo) || decide (hi ≤ c / 8)), ha, hg, if_pos rfl]
  · simp [poison, List.contains_eq_mem, List.mem_filter, h]
  · rw [poison, tableGet?_filter m.ecc (fun g => decide (g < lo) || decide (hi ≤ g)), hg, if_pos rfl]

theorem poison_granuleOk {lo hi : Nat} (hlo : lo ≤ g) (hhi : g < hi) : (m.poison lo hi).granuleOk g = false := by
  have hg : (decide (g < lo) || decide (hi ≤ g)) = false := by simp; omega
  have hecc : tableGet? (m.poison lo hi).ecc g = none := by
    rw [poison, tableGet?_filter m.ecc (fun g => decide (g < lo) || decide (hi ≤ g)), hg]
    rfl
  simp only [Mem.granuleOk, hecc]
  simp [poison, hlo, hhi]

theorem poison_byte {lo hi a : Nat} (hlo : lo ≤ a / 8) (hhi : a / 8 < hi) : (m.poison lo hi).byte a = 0#8 := by
  have hg : (decide (a / 8 < lo) || decide (hi ≤ a / 8)) = false := by simp; omega
  have hecc : tableGet? (m.poison lo hi).ecc (a / 8) = none := by
    rw [poison, tableGet?_filter m.ecc (fun g => decide (g < lo) || decide (hi ≤ g)), hg]
    rfl
  rw [byte_of_none hecc, tableGet, poison, tableGet?_filter m.cells (fun c => decide (c / 8 < lo) || decide (hi ≤ c / 8)), hg]
  rfl

theorem wordOk_of_not_granuleOk {w : Nat} (hg : g / 8 = w) (h : m.granuleOk g = false) : m.wordOk w = false := by
  rw [wordOk, List.all_eq_false]
  exact ⟨g % 8, by simp [Nat.mod_lt], by rw [← hg, Nat.div_add_mod]; simp [h]⟩

theorem wordOk_congr {w : Nat} (h : ∀ g, g / 8 = w → m.Same n g) : n.wordOk w = m.wordOk w := by
  simp only [wordOk]
  rw [Bool.eq_iff_iff]
  simp only [List.all_eq_true, List.mem_range]
  exact forall₂_congr fun i hi => by rw [(h (8 * w + i) (by omega)).granuleOk]

/-! ## A write, piece by piece -/

/-- A fold of steps that each touch one place: what a place holds at the end is what its own step leaves of what it held before. -/
theorem foldl_local {key : Nat → Nat} {step : Mem → Nat → Mem} (l : List Nat) (hl : l.Nodup)
    (hstep : ∀ m, ∀ w ∈ l, ∀ g, key g ≠ w → Same m (step m w) g) (m : Mem) :
    (∀ g, key g ∉ l → m.Same (l.foldl step m) g) ∧
    ∀ w ∈ l, ∃ n : Mem, ∀ g, key g = w → m.Same n g ∧ (step n w).Same (l.foldl step m) g := by
  induction l generalizing m with
  | nil => exact ⟨fun g _ => .refl m g, nofun⟩
  | cons v l ih =>
    obtain ⟨hv, hl⟩ := List.nodup_cons.mp hl
    obtain ⟨hout, hin⟩ := ih hl (fun m w hw => hstep m w (List.mem_cons_of_mem _ hw)) (step m v)
    have hfirst := hstep m v List.mem_cons_self
    refine ⟨fun g hg => ?_, fun w hw => ?_⟩
    · obtain ⟨hgv, hgl⟩ := List.ne_and_not_mem_of_not_mem_cons hg
      exact (hfirst g hgv).trans (hout g hgl)
    · rcases List.mem_cons.mp hw with rfl | hw
      · exact ⟨m, fun g hg => ⟨.refl m g, hout g (hg ▸ hv)⟩⟩
      · obtain ⟨n, hn⟩ := hin w hw
        exact ⟨n, fun g hg => ⟨(hfirst g fun e => hv (by rwa [← e, hg])).trans (hn g hg).1, (hn g hg).2⟩⟩

/-- The write covers the granule as a whole. -/
def Whole (k len g : Nat) : Prop := k ≤ 8 * g ∧ 8 * g + 8 ≤ k + len

/-- A write inside one word none of whose partly covered granules is bad: its bytes are there, and its granules are settled. -/
theorem writeWord_spec (m : Mem) (k : Nat) (bs : List Byte)
    (h : ∀ g ∈ granulesOf k bs.length, m.granuleOk g = true ∨ Whole k bs.length g) :
    (∀ g ∉ granulesOf k bs.length, m.Same (m.writeWord k bs) g) ∧ (∀ g ∈ granulesOf k bs.length, (m.writeWord k bs).Settled g) ∧
      ∀ a, (m.writeWord k bs).byte a = if k ≤ a ∧ a < k + bs.length then bs.getD (a - k) 0#8 else m.byte a := by
  have hgood : ((granulesOf k bs.length).any fun g =>
      !(decide (k ≤ 8 * g) && decide (8 * g + 8 ≤ k + bs.length)) && !m.granuleOk g) = false := by
    rw [List.any_eq_false]
    intro g hg
    rcases h g hg with hok | ⟨hlo, hhi⟩
    · simp [hok]
    · simp [hlo, hhi]
  unfold writeWord
  simp only [hgood, Bool.false_eq_true, if_false]
  -- the part of the write that lies in one granule
  have hput (m : Mem) (g : Nat) (hg : g ∈ granulesOf k bs.length) := by
    obtain ⟨hlen, hlo, hhi⟩ := mem_granulesOf.mp hg
    have hpiece := bytesAt_length (bs := bs) (off := max k (8 * g) - k) (len := min (k + bs.length) (8 * g + 8) - max k (8 * g)) (by omega)
    have hspec := putGranule_spec m (k := max k (8 * g)) (bs := bytesAt bs (max k (8 * g) - k)
      (min (k + bs.length) (8 * g + 8) - max k (8 * g))) (by rw [hpiece]; omega)
    rw [hpiece, show max k (8 * g) / 8 = g by omega] at hspec
    exact hspec
  obtain ⟨hout, hin⟩ := foldl_local (key := id) (granulesOf k bs.length) (granulesOf_nodup _ _)
    (fun m g hg q hq => (hput m g hg).2.1 q hq) m
  refine ⟨hout, fun g hg => ?_, fun a => ?_⟩
  · obtain ⟨n, hn⟩ := hin g hg
    exact (hn g rfl).2.settled.mpr (hput n g hg).1
  · by_cases hg : a / 8 ∈ granulesOf k bs.length
    · obtain ⟨n, hn⟩ := hin (a / 8) hg
      obtain ⟨hbefore, hafter⟩ := hn (a / 8) rfl
      obtain ⟨hlen, hlo, hhi⟩ := mem_granulesOf.mp hg
      rw [hafter.byte, (hput n (a / 8) hg).2.2 a, hbefore.byte]
      by_cases ha : k ≤ a ∧ a < k + bs.length
      · rw [if_pos ha, if_pos (by omega), bytesAt_getD (by omega)]
        congr 1
        omega
      · rw [if_neg ha, if_neg (by omega)]
    · have hnot : ¬ (k ≤ a ∧ a < k + bs.length) := fun ha => hg (mem_granulesOf.mpr (by omega))
      rw [if_neg hnot, (hout _ hg).byte]

/-- A write inside one word that covers a bad granule in part poisons the word. -/
theorem writeWord_eq_poisonWord {k : Nat} {bs : List Byte} (hg : g ∈ granulesOf k bs.length) (hbad : m.granuleOk g = false)
    (hpart : ¬ Whole k bs.length g) : m.writeWord k bs = m.poisonWord (k / 64) := by
  unfold writeWord
  refine if_pos (List.any_eq_true.mpr ⟨g, hg, ?_⟩)
  rw [hbad]
  simpa [Whole, imp_iff_not_or] using hpart

/-- A write inside one word touches no other. -/
theorem writeWord_same {k : Nat} {bs : List Byte} (hk : k % 64 + bs.length ≤ 64) (hg : g / 8 ≠ k / 64) : m.Same (m.writeWord k bs) g := by
  by_cases h : ∀ g ∈ granulesOf k bs.length, m.granuleOk g = true ∨ Whole k bs.length g
  · exact (writeWord_spec m k bs h).1 g fun hmem => by
      have := mem_granulesOf.mp hmem
      omega
  · push Not at h
    obtain ⟨q, hq, hbad, hpart⟩ := h
    rw [writeWord_eq_poisonWord hq (by simpa using hbad) hpart]
    exact poison_same (by omega)

/-- The part of a write that lies in a word. -/
theorem write_piece (k : Nat) (bs : List Byte) {w : Nat} (hw : w ∈ wordsOf k bs.length) :
    (bytesAt bs (max k (64 * w) - k) (min (k + bs.length) (64 * w + 64) - max k (64 * w))).length =
        min (k + bs.length) (64 * w + 64) - max k (64 * w) ∧
      max k (64 * w) / 64 = w ∧ max k (64 * w) % 64 + (min (k + bs.length) (64 * w + 64) - max k (64 * w)) ≤ 64 := by
  obtain ⟨hlen, hlo, hhi⟩ := mem_wordsOf.mp hw
  exact ⟨bytesAt_length (by omega), by omega, by omega⟩

/-- What a word holds after a write that touches it is what the write's part in it leaves. -/
theorem write_local (m : Mem) (k : Nat) (bs : List Byte) :
    (∀ g, g / 8 ∉ wordsOf k bs.length → m.Same (m.write k bs) g) ∧
    ∀ w ∈ wordsOf k bs.length, ∃ n : Mem, ∀ g, g / 8 = w → m.Same n g ∧
      (n.writeWord (max k (64 * w)) (bytesAt bs (max k (64 * w) - k) (min (k + bs.length) (64 * w + 64) - max k (64 * w)))).Same
        (m.write k bs) g := by
  refine foldl_local (key := (· / 8)) (wordsOf k bs.length) (wordsOf_nodup _ _) (fun m w hw g hg => ?_) m
  obtain ⟨hlen, hword, hfit⟩ := write_piece k bs hw
  exact writeWord_same (by rw [hlen]; exact hfit) (by rw [hword]; exact hg)

/-- A write none of whose partly covered granules is bad is read back, and changes no other byte (R355). -/
theorem write_spec (m : Mem) (k : Nat) (bs : List Byte)
    (h : ∀ g ∈ granulesOf k bs.length, m.granuleOk g = true ∨ Whole k bs.length g) :
    (∀ g ∉ granulesOf k bs.length, m.Same (m.write k bs) g) ∧ (∀ g ∈ granulesOf k bs.length, (m.write k bs).Settled g) ∧
      ∀ a, (m.write k bs).byte a = if k ≤ a ∧ a < k + bs.length then bs.getD (a - k) 0#8 else m.byte a := by
  obtain ⟨hout, hin⟩ := write_local m k bs
  -- the specification of the part of the write that a word sees
  have hword (w : Nat) (hw : w ∈ wordsOf k bs.length) (n : Mem) (hn : ∀ g, g / 8 = w → m.Same n g) := by
    obtain ⟨hlen, hk, hfit⟩ := write_piece k bs hw
    obtain ⟨hpos, hlo, hhi⟩ := mem_wordsOf.mp hw
    have hspec := writeWord_spec n (max k (64 * w)) (bytesAt bs (max k (64 * w) - k) (min (k + bs.length) (64 * w + 64) - max k (64 * w)))
      fun g hg => by
        rw [hlen, mem_granulesOf] at hg
        rw [hlen]
        rcases h g (mem_granulesOf.mpr (by omega)) with hok | ⟨hle, hge⟩
        · exact .inl ((hn g (by omega)).granuleOk.trans hok)
        · exact .inr ⟨by omega, by omega⟩
    rw [hlen] at hspec
    exact hspec
  refine ⟨fun g hg => ?_, fun g hg => ?_, fun a => ?_⟩
  · by_cases hw : g / 8 ∈ wordsOf k bs.length
    · obtain ⟨n, hn⟩ := hin _ hw
      refine ((hn g rfl).1.trans ((hword _ hw n fun q hq => (hn q hq).1).1 g fun hmem => hg ?_)).trans (hn g rfl).2
      obtain ⟨hpos, hlo, hhi⟩ := mem_wordsOf.mp hw
      have := mem_granulesOf.mp hmem
      exact mem_granulesOf.mpr (by omega)
    · exact hout g hw
  · obtain ⟨hpos, hlo, hhi⟩ := mem_granulesOf.mp hg
    have hw : g / 8 ∈ wordsOf k bs.length := mem_wordsOf.mpr (by omega)
    obtain ⟨n, hn⟩ := hin _ hw
    exact (hn g rfl).2.settled.mpr ((hword _ hw n fun q hq => (hn q hq).1).2.1 g (mem_granulesOf.mpr (by omega)))
  · by_cases hw : a / 64 ∈ wordsOf k bs.length
    · have ha : a / 8 / 8 = a / 64 := by omega
      obtain ⟨n, hn⟩ := hin _ hw
      obtain ⟨hbefore, hafter⟩ := hn (a / 8) ha
      obtain ⟨hpos, hlo, hhi⟩ := mem_wordsOf.mp hw
      rw [hafter.byte, (hword _ hw n fun q hq => (hn q hq).1).2.2 a, hbefore.byte]
      by_cases hin : k ≤ a ∧ a < k + bs.length
      · rw [if_pos hin, if_pos (by omega), bytesAt_getD (by omega)]
        congr 1
        omega
      · rw [if_neg hin, if_neg (by omega)]
    · have hnot : ¬ (k ≤ a ∧ a < k + bs.length) := fun ha => hw (mem_wordsOf.mpr (by omega))
      rw [if_neg hnot, (hout (a / 8) (by rwa [Nat.div_div_eq_div_mul])).byte]

/-- A word that a write does not touch keeps its bytes and its soundness. -/
theorem write_frame (m : Mem) (k : Nat) (bs : List Byte) {w : Nat} (hw : w ∉ wordsOf k bs.length) :
    (∀ a, a / 64 = w → (m.write k bs).byte a = m.byte a) ∧ (m.write k bs).wordOk w = m.wordOk w := by
  have hsame (g : Nat) (hg : g / 8 = w) : m.Same (m.write k bs) g := (write_local m k bs).1 g (hg ▸ hw)
  exact ⟨fun a ha => (hsame (a / 8) (by omega)).byte, wordOk_congr hsame⟩

/-- A write that covers a bad granule in part leaves its word poisoned, all its bytes zero (R355, R349). -/
theorem write_poisons (m : Mem) (k : Nat) (bs : List Byte) (hg : g ∈ granulesOf k bs.length) (hbad : m.granuleOk g = false)
    (hpart : ¬ Whole k bs.length g) :
    (m.write k bs).wordOk (g / 8) = false ∧ ∀ a, a / 64 = g / 8 → (m.write k bs).byte a = 0#8 := by
  obtain ⟨hpos, hlo, hhi⟩ := mem_granulesOf.mp hg
  have hw : g / 8 ∈ wordsOf k bs.length := mem_wordsOf.mpr (by omega)
  obtain ⟨hlen, hk, hfit⟩ := write_piece k bs hw
  obtain ⟨n, hn⟩ := (write_local m k bs).2 _ hw
  have hpoison := writeWord_eq_poisonWord (m := n) (k := max k (64 * (g / 8))) (bs := bytesAt bs (max k (64 * (g / 8)) - k)
    (min (k + bs.length) (64 * (g / 8) + 64) - max k (64 * (g / 8)))) (by rw [hlen]; exact mem_granulesOf.mpr (by omega))
    ((hn g rfl).1.granuleOk.trans hbad) (by rw [hlen]; simp only [Whole] at hpart ⊢; omega)
  rw [hk] at hpoison
  refine ⟨wordOk_of_not_granuleOk rfl ?_, fun a ha => ?_⟩
  · rw [(hn g rfl).2.granuleOk, hpoison]
    exact poison_granuleOk (by omega) (by omega)
  · rw [(hn (a / 8) (by omega)).2.byte, hpoison]
    exact poison_byte (by omega) (by omega)

/-! ## Reading a range at once -/

theorem tableGet?_of_lt {α : Type} {l : List (Nat × α)} {k : Nat} (h : ∀ e ∈ l, k < e.1) : tableGet? l k = none := by
  induction l with
  | nil => rfl
  | cons e l ih =>
    obtain ⟨he, hl⟩ := List.forall_mem_cons.mp h
    rw [tableGet?, if_neg he.ne', ih hl]

/-- In rising cells from k on, the bytes follow one another. -/
theorem bytesFrom_eq (n k : Nat) (l : List Host.Cell) (hl : l.Pairwise (fun a b => a.1 < b.1)) (hk : ∀ e ∈ l, k ≤ e.1) :
    bytesFrom n k l = (List.range n).map (fun i => tableGet l (k + i) Mem.default) := by
  induction n generalizing k l with
  | zero => rfl
  | succ n ih =>
    rw [List.range_succ_eq_map, List.map_cons, List.map_map]
    cases l with
    | nil =>
      rw [bytesFrom, ih (k + 1) [] .nil nofun]
      rfl
    | cons e l =>
      obtain ⟨j, b⟩ := e
      obtain ⟨he, hl'⟩ := List.pairwise_cons.mp hl
      obtain ⟨hj, hkl⟩ := List.forall_mem_cons.mp hk
      dsimp only at he hj
      by_cases hjk : j = k
      · subst hjk
        have hhead : tableGet ((j, b) :: l) (j + 0) Mem.default = b := by simp [tableGet, tableGet?]
        have htail (i : Nat) : tableGet ((j, b) :: l) (j + (i + 1)) Mem.default = tableGet l (j + 1 + i) Mem.default := by
          rw [tableGet, tableGet?, if_neg (by omega), tableGet, Nat.add_right_comm, Nat.add_assoc]
        rw [bytesFrom, if_pos rfl, ih (j + 1) l hl' he, hhead]
        simp only [Function.comp_def, Nat.succ_eq_add_one, htail]
      · have hlt : ∀ e ∈ (j, b) :: l, k < e.1 := List.forall_mem_cons.mpr ⟨by omega, fun e h => lt_of_le_of_lt hj (he e h)⟩
        have hhead : tableGet ((j, b) :: l) (k + 0) Mem.default = Mem.default := by
          rw [Nat.add_zero, tableGet, tableGet?_of_lt hlt, Option.getD_none]
        rw [bytesFrom, if_neg hjk, ih (k + 1) _ hl hlt, hhead]
        simp only [Function.comp_def, Nat.succ_eq_add_one, Nat.add_right_comm, Nat.add_assoc]

theorem tableGet?_dropWhile {α : Type} (l : List (Nat × α)) {k a : Nat} (h : k ≤ a) :
    tableGet? (l.dropWhile (fun c => decide (c.1 < k))) a = tableGet? l a := by
  induction l with
  | nil => rfl
  | cons e l ih =>
    obtain ⟨j, v⟩ := e
    rw [List.dropWhile_cons]
    split_ifs with hj
    · rw [ih, tableGet?, if_neg (by simp at hj; omega)]
    · rfl

theorem le_of_mem_dropWhile {l : List Host.Cell} {k : Nat} (h : l.Pairwise (fun a b => a.1 < b.1)) :
    ∀ e ∈ l.dropWhile (fun c => decide (c.1 < k)), k ≤ e.1 := by
  induction l with
  | nil => exact nofun
  | cons e l ih =>
    obtain ⟨he, hl⟩ := List.pairwise_cons.mp h
    rw [List.dropWhile_cons]
    split_ifs with hk
    · exact ih hl
    · have hle : k ≤ e.1 := by simpa using hk
      exact List.forall_mem_cons.mpr ⟨hle, fun f hf => hle.trans (he f hf).le⟩

theorem asRead_eq (m : Mem) (k : Nat) (bs : List Byte) : m.asRead k bs =
    (bs.zip (List.range bs.length)).map (fun p => p.1 ^^^ (m.wrongBits ((k + p.2) / 8) >>> (8 * ((k + p.2) % 8))).setWidth 8) := by
  unfold asRead
  split_ifs with hecc
  · have hwrong (g : Nat) : m.wrongBits g = 0#64 := wrongBits_of_none (by rw [List.isEmpty_iff.mp hecc]; rfl)
    simp [hwrong, List.map_fst_zip]
  · rfl

/-- Reading a range at once gives the bytes one by one. -/
theorem bytes_eq (m : Mem) (k n : Nat) (hwf : m.wf = true) : m.bytes k n = (List.range n).map (fun i => m.byte (k + i)) := by
  obtain ⟨hcells, -⟩ := (wf_iff m).mp hwf
  rw [Mem.bytes, bytesFrom_eq n k _ (hcells.sublist (List.dropWhile_sublist _)) (le_of_mem_dropWhile hcells), asRead_eq]
  refine List.ext_getElem (by simp) fun i h1 h2 => ?_
  simp [Mem.byte, tableGet, tableGet?_dropWhile]

end Mem

/-- Settles O18: a write's granules are settled with its bytes (`Mem.write_spec`), a bad granule that it covers in part poisons its word
(`Mem.write_poisons`), and what it does not touch stays (`Mem.write_frame`). -/
theorem memoryWrites : Obligations.MemoryWrites := by
  refine ⟨fun m k bs _ h => ?_, fun m k bs g _ hg hbad hpart => Mem.write_poisons m k bs hg hbad hpart,
    fun m k bs w hw => Mem.write_frame m k bs hw, fun m k n hwf => Mem.bytes_eq m k n hwf⟩
  obtain ⟨-, hsettled, hbyte⟩ := Mem.write_spec m k bs h
  refine ⟨fun i hi => ?_, fun a ha => ?_, fun g hg => (hsettled g hg).granuleOk⟩
  · rw [hbyte, if_pos (by omega), Nat.add_sub_cancel_left]
  · rw [hbyte, if_neg (by omega)]

end Sys2Proof.Machine

/-! Proofs about host commands that read (R543, R546, R577, R578), and the rules that every host command's proof uses: an accepted message
runs its command and answers on its queue pair. -/
namespace Sys2Proof.Machine

/-! ## An accepted message -/

section
variable {s t : State} {m : HostMsg} {op : Nat}

theorem hostRow_next {run : Cmd → Fx} (h : s.accepts m op = true) (ht : (run (cmdOf m)).run s = t) :
    (hostRow op run m).outcome s = .next t := by rw [Fx.outcome_eq, hostRow_run run h, ht]

theorem accepts_ans (h : s.accepts m op = true) (st : Nat) (r : List Byte) (t : State) :
    ((cmdOf m).ans st r).run t = t.answered m st r := done_run t m st r (accepts_plain h)

theorem accepts_done (h : s.accepts m op = true) (st : Nat) (t : State) : ((cmdOf m).done st).run t = t.answered m st [] :=
  accepts_ans h st [] t

/-- An accepted message has no byte whose parity fails. -/
theorem accepts_fault? (h : s.accepts m op = true) (traffic : Nat) : m.fault? traffic = none := by
  simp only [State.accepts, Bool.and_eq_true, Option.isNone_iff_eq_none] at h
  obtain ⟨⟨⟨⟨⟨⟨⟨⟨⟨-, hparity⟩, -⟩, -⟩, -⟩, -⟩, -⟩, -⟩, -⟩, -⟩ := h
  simp [HostMsg.fault?, hparity]

theorem cmdOf_ctx (m : HostMsg) : (cmdOf m).ctx = m.ctx := rfl

theorem cmdOf_p (m : HostMsg) (off len : Nat) : (cmdOf m).p off len = param m off len := by unfold param; rfl

theorem cmdOf_msg (m : HostMsg) : (cmdOf m).msg = m := rfl

/-! ## Commands that read -/

theorem modInfo_next (h : s.accepts m 0x0100 = true) : exec (.modInfo m) s = .next (s.answered m stOk s.modInfo) :=
  hostRow_next h (by rw [modInfo, Fx.run_look, accepts_ans h])

theorem cycleRead_next (h : s.accepts m 0x0802 = true) :
    exec (.cycleRead m) s = .next (s.answered m stOk (leBytes 8 (s.now % 2 ^ 48))) :=
  hostRow_next h (by rw [cycleRead, Fx.run_look, accepts_ans h, State.cycle, BitVec.toNat_ofNat])

theorem ctxQuery_next (h : s.accepts m 0x0206 = true) : exec (.ctxQuery m) s = .next (s.answered m stOk
    (leBytes 8 (s.ctx m.ctx).stateWord ++ leBytes 4 (s.ctx m.ctx).step.toNat ++ leBytes 4 (s.ctx m.ctx).updates.toNat
      ++ leBytes 4 (s.ctx m.ctx).flags.toNat ++ leBytes 4 (s.ctx m.ctx).nextSeq.toNat
      ++ leBytes 1 (b2n (s.ctx m.ctx).windowOpen) ++ leBytes 7 0)) :=
  hostRow_next h (by rw [ctxQuery, Fx.run_look, accepts_ans h, cmdOf_ctx])

section
variable (h : s.accepts m 0x0205 = true)
include h

theorem keeperRead_next (hn : 1 ≤ param m 2 2) (hmax : param m 2 2 ≤ 254) (hend : param m 0 2 + param m 2 2 ≤ 4096) :
    exec (.keeperRead m) s = .next (s.answered m stOk ((List.range (param m 2 2)).map (fun i =>
      tableGet (s.ctx m.ctx).keeper (param m 0 2 + i) (List.replicate 32 0#8))).flatten) := by
  refine hostRow_next h ?_
  simp only [keeperRead, Fx.run_look, cmdOf_p, cmdOf_ctx]
  rw [if_neg (by simp; omega), accepts_ans h]

theorem keeperRead_beyond (hend : 4096 < param m 0 2 + param m 2 2) : exec (.keeperRead m) s = .next (s.answered m stBadParam []) := by
  refine hostRow_next h ?_
  simp only [keeperRead, Fx.run_look, cmdOf_p, cmdOf_ctx]
  rw [if_pos (by simp; omega), accepts_done h]

end

section
variable (h : s.accepts m 0x0207 = true)
include h

theorem statsRead_next (hn : 1 ≤ param m 2 2) (hmax : param m 2 2 ≤ 126) (hend : param m 0 2 + param m 2 2 ≤ 4096) :
    exec (.statsRead m) s = .next (s.answered m stOk ((List.range (param m 2 2)).map (fun i =>
      (tableGet (s.ctx m.ctx).stats (param m 0 2 + i) StatRec.zero).bytes)).flatten) := by
  refine hostRow_next h ?_
  simp only [statsRead, Fx.run_look, cmdOf_p, cmdOf_ctx]
  rw [if_neg (by simp; omega), accepts_ans h]

theorem statsRead_beyond (hend : 4096 < param m 0 2 + param m 2 2) : exec (.statsRead m) s = .next (s.answered m stBadParam []) := by
  refine hostRow_next h ?_
  simp only [statsRead, Fx.run_look, cmdOf_p, cmdOf_ctx]
  rw [if_pos (by simp; omega), accepts_done h]

end

section
variable (h : s.accepts m 0x0504 = true)
include h

theorem sluRead_next (hlink : param m 0 1 ∈ s.linkIds) (hn : 1 ≤ param m 2 1) (hend : param m 1 1 + param m 2 1 ≤ 64) :
    exec (.sluRead m) s = .next (s.answered m stOk ((List.range (param m 2 1)).map (fun i =>
      match tableGet? (s.link (param m 0 1)).entries (param m 1 1 + i) with
      | some e => e.bytes
      | none => List.replicate 32 0#8)).flatten) := by
  refine hostRow_next h ?_
  simp only [sluRead, Fx.run_look, cmdOf_p]
  rw [if_neg (by simp [hlink]; omega)]
  exact accepts_ans h _ _ _

theorem sluRead_beyond (hend : 64 < param m 1 1 + param m 2 1) : exec (.sluRead m) s = .next (s.answered m stBadParam []) := by
  refine hostRow_next h ?_
  simp only [sluRead, Fx.run_look, cmdOf_p]
  rw [if_pos (by simp; omega), accepts_done h]

end

theorem regRead_next (h : s.accepts m 0x0800 = true) (hsel : ∀ e ∈ (cmdOf m).entries, selectorOk (leNat e)) :
    exec (.regRead m) s = .next (s.answered m stOk ((cmdOf m).entries.map (fun e => leBytes 8 (s.readReg (leNat e)))).flatten) := by
  refine hostRow_next h ?_
  simp only [regRead, Fx.run_look, cmdOf_msg, accepts_fault? h]
  rw [if_neg (by simp), if_pos (by simpa using hsel), accepts_ans h, List.map_map]
  rfl

theorem certRead_next (h : s.accepts m 0x0701 = true) (hk : param m 0 1 ≤ 2) :
    exec (.certRead m) s = .next (s.answered m stOk (Config.certificate (param m 0 1))) :=
  hostRow_next h (by rw [certRead, cmdOf_p, if_pos hk, accepts_ans h])

theorem certRead_beyond (h : s.accepts m 0x0701 = true) (hk : 2 < param m 0 1) :
    exec (.certRead m) s = .next (s.answered m stBadParam []) :=
  hostRow_next h (by rw [certRead, cmdOf_p, if_neg (by omega), accepts_done h])

theorem attest_next (h : s.accepts m 0x0700 = true) : ∃ sig : List Byte, exec (.attest m) s = .next (s.answered m stOk
    (s.report (bytesAt (cmdOf m).params 0 32) ++ sig)) :=
  ⟨_, hostRow_next h (by rw [attest, Fx.run_look, accepts_ans h])⟩

end

/-- Settles O6: each reading command answers with what it reads and does nothing else. -/
theorem hostReads : Obligations.HostReads :=
  ⟨fun _ _ => ⟨modInfo_next, cycleRead_next, ctxQuery_next, keeperRead_next, statsRead_next, sluRead_next, regRead_next, certRead_next,
    attest_next⟩, fun _ _ => ⟨keeperRead_beyond, statsRead_beyond, sluRead_beyond, certRead_beyond⟩⟩

end Sys2Proof.Machine

/-! Proofs about host commands that write the hub's registers and tables (R380, R412, R497, R498, R501, R504, R536, R548). -/
namespace Sys2Proof.Machine

/-! ## Tables written entry by entry -/

/-- Entries written from a base on, those that are empty erased. -/
def putEntries {α β : Type} (empty : β → Bool) (val : β → α) (base : Nat) (es : List β) (l : List (Nat × α)) : List (Nat × α) :=
  (es.zip (List.range es.length)).foldl
    (fun l e => if empty e.1 then tableErase l (base + e.2) else tablePut l (base + e.2) (val e.1)) l

theorem tableGet_putEntries {α β : Type} (empty : β → Bool) (val : β → α) (base : Nat) (es : List β) (l : List (Nat × α)) (n : Nat)
    (d : α) (z : β) : tableGet (putEntries empty val base es l) n d =
      if base ≤ n ∧ n < base + es.length then (if empty (es.getD (n - base) z) then d else val (es.getD (n - base) z))
      else tableGet l n d := by
  induction es using List.reverseRecOn with
  | nil =>
    rw [if_neg (by simp)]
    rfl
  | append_singleton es e ih =>
    have hstep : putEntries empty val base (es ++ [e]) l = if empty e then tableErase (putEntries empty val base es l) (base + es.length)
        else tablePut (putEntries empty val base es l) (base + es.length) (val e) := by
      simp [putEntries, List.range_succ, List.zip_append]
    rw [hstep, List.length_append, List.length_singleton]
    by_cases hn : n = base + es.length
    · subst hn
      have hget : (es ++ [e]).getD (base + es.length - base) z = e := by simp [List.getD_eq_getElem?_getD]
      rw [if_pos (show base ≤ base + es.length ∧ base + es.length < base + (es.length + 1) by omega), hget]
      split_ifs <;> simp [tableGet]
    · have hread : tableGet (if empty e then tableErase (putEntries empty val base es l) (base + es.length)
          else tablePut (putEntries empty val base es l) (base + es.length) (val e)) n d = tableGet (putEntries empty val base es l) n d := by
        split_ifs
        · rw [tableGet, tableGet?_erase_ne _ hn, ← tableGet]
        · rw [tableGet, tableGet?_put_ne _ _ hn, ← tableGet]
      rw [hread, ih]
      by_cases hin : base ≤ n ∧ n < base + es.length
      · have hget : (es ++ [e]).getD (n - base) z = es.getD (n - base) z := by
          simp only [List.getD_eq_getElem?_getD]
          rw [List.getElem?_append_left (by omega)]
        rw [if_pos hin, if_pos (show base ≤ n ∧ n < base + (es.length + 1) by omega), hget]
      · rw [if_neg hin, if_neg (show ¬ (base ≤ n ∧ n < base + (es.length + 1)) by omega)]

section
variable {s : State} {m : HostMsg}

/-! ## HOST_WINDOW, RELAY_CFG -/

theorem hostWindow_next (h : s.accepts m 0x0102 = true) (hi : param m 0 1 ≤ 15) (hlen : param m 24 8 ≤ 2 ^ 40) :
    exec (.hostWindow m) s = .next ((s.modHub (fun x =>
      { x with windows := x.windows.set (param m 0 1) (if param m 24 8 = 0 then none else some (windowOf m)) })).answered m stOk []) := by
  refine hostRow_next h ?_
  simp only [hostWindow, cmdOf_p]
  rw [if_neg (by simp; omega), Fx.run_andThen, accepts_done h]
  rfl

theorem relayCfg_next (h : s.accepts m 0x0103 = true) (hon : param m 0 1 ≤ 1) :
    exec (.relayCfg m) s = .next ((s.modHub (fun x =>
      { x with relayOn := decide (param m 0 1 = 1), relayNode := BitVec.ofNat 16 (param m 2 2) })).answered m stOk []) := by
  refine hostRow_next h ?_
  simp only [relayCfg, cmdOf_p]
  rw [if_neg (by omega), Fx.run_andThen, accepts_done h]
  rfl

/-! ## NODE_SET, TAKEOVER -/

section
variable (h : s.accepts m 0x0500 = true)
include h

theorem nodeSet_next (hfree : ∀ x ∈ s.ctxs, x.state = .free) :
    exec (.nodeSet m) s = .next ((s.modHub (fun x => { x with node := BitVec.ofNat 16 (param m 0 2) })).answered m stOk []) := by
  refine hostRow_next h ?_
  simp only [nodeSet, Fx.run_look, cmdOf_p]
  rw [if_neg (by simpa using hfree), Fx.run_andThen, accepts_done h]
  rfl

theorem nodeSet_refused (hbusy : ∃ x ∈ s.ctxs, x.state ≠ .free) : exec (.nodeSet m) s = .next (s.answered m stNotPermitted []) := by
  refine hostRow_next h ?_
  simp only [nodeSet, Fx.run_look]
  rw [if_pos (by simpa using hbusy), accepts_done h]

end

section
variable (h : s.accepts m 0x0607 = true) (hid : param m 0 2 ≠ 0xFFFF)
include h hid

theorem takeover_next (hnode : s.hub.node = 0xFFFF#16) (hself : param m 8 8 = s.hub.identity) :
    exec (.takeover m) s = .next ((s.modHub (fun x => { x with node := BitVec.ofNat 16 (param m 0 2) })).answered m stOk []) := by
  refine hostRow_next h ?_
  simp only [takeover, Fx.run_look, cmdOf_p, if_neg hid, hnode, hself, ne_eq, not_true_eq_false, if_false]
  exact accepts_done h _ _

theorem takeover_refused (hnode : s.hub.node ≠ 0xFFFF#16) : exec (.takeover m) s = .next (s.answered m stNotPermitted []) := by
  refine hostRow_next h ?_
  simp only [takeover, Fx.run_look, cmdOf_p, if_neg hid, if_pos hnode]
  exact accepts_done h _ _

theorem takeover_mismatch (hnode : s.hub.node = 0xFFFF#16) (hself : param m 8 8 ≠ s.hub.identity) :
    exec (.takeover m) s = .next (s.answered m stIdentity []) := by
  refine hostRow_next h ?_
  simp only [takeover, Fx.run_look, cmdOf_p, if_neg hid, hnode, ne_eq, not_true_eq_false, if_false]
  rw [if_pos hself, accepts_done h]

end

/-! ## ROUTE_WRITE -/

theorem routeWrite_next (h : s.accepts m 0x0501 = true) (hend : param m 0 2 + (cmdOf m).entries.length ≤ 65535)
    (hok : ∀ e ∈ (cmdOf m).entries, routeOk (leNat e)) :
    exec (.routeWrite m) s = .next ((s.modHub (fun x => { x with
      routes := putEntries (fun e : Nat => decide (e = 0)) (BitVec.ofNat 32) (param m 0 2) ((cmdOf m).entries.map leNat) s.hub.routes })).answered m
        stOk []) := by
  refine hostRow_next h ?_
  simp only [routeWrite, cmdOf_p]
  rw [if_neg (by simpa using ⟨hend, hok⟩), Fx.run_andThen, accepts_done h]
  simp only [putEntries, decide_eq_true_eq]
  rfl

theorem tableGet_routes (es : List (List Byte)) (base : Nat) (l : List (Nat × U32)) (n : Nat) :
    tableGet (putEntries (fun e : Nat => decide (e = 0)) (BitVec.ofNat 32) base (es.map leNat) l) n 0#32 =
      if base ≤ n ∧ n < base + es.length then BitVec.ofNat 32 (leNat (es.getD (n - base) [])) else tableGet l n 0#32 := by
  rw [tableGet_putEntries _ _ _ _ _ _ _ 0, List.length_map]
  have hget : (es.map leNat).getD (n - base) 0 = leNat (es.getD (n - base) []) := by
    simp only [List.getD_eq_getElem?_getD, List.getElem?_map]
    cases es[n - base]? <;> rfl
  rw [hget]
  congr 1
  split_ifs with hz
  · rw [of_decide_eq_true hz]
  · rfl

/-! ## The repair table -/

theorem repairWrite_next (h : s.accepts m 0x0602 = true)
    (hok : ∀ e ∈ (cmdOf m).entries, repairOk (field e 0 1) (field e 1 1) (field e 2 2))
    (hlen : ((cmdOf m).entries.foldl putRepair s.hub.repair).length ≤ 1024) :
    exec (.repairWrite m) s = .next ((s.modHub (fun x =>
      { x with repair := (cmdOf m).entries.foldl putRepair x.repair })).answered m stOk []) := by
  refine hostRow_next h ?_
  simp only [repairWrite, Fx.run_look]
  rw [if_neg (by simpa using hok), if_neg (by omega), Fx.run_andThen, accepts_done h]
  rfl

theorem repairClear_next (h : s.accepts m 0x0603 = true) (hall : param m 0 1 = 0) :
    exec (.repairClear m) s = .next ((s.modHub (fun x => { x with repair := [] })).answered m stOk []) := by
  refine hostRow_next h ?_
  simp only [repairClear, cmdOf_p, if_pos hall]
  rw [Fx.run_andThen, accepts_done h]
  rfl

/-! ## MIRROR_REGION -/

section
variable (h : s.accepts m 0x0605 = true)
include h

theorem mirrorRegion_cleared (hi : param m 0 1 ≤ 15) (hlen : param m 16 8 = 0) :
    exec (.mirrorRegion m) s = .next ((s.modHub (fun x => { x with regions := x.regions.set (param m 0 1) none })).answered m stOk []) := by
  refine hostRow_next h ?_
  simp only [mirrorRegion, Fx.run_look, cmdOf_p]
  rw [if_neg (by omega), if_pos hlen, Fx.run_andThen, accepts_done h]
  rfl

/-- The region that MIRROR_REGION's parameters describe (R504). -/
def regionOf (m : HostMsg) : Region := ⟨param m 1 1, BitVec.ofNat 16 (param m 2 2), param m 8 8, param m 16 8, none⟩

/-- With a length, the region is set where R504 allows it, and refused where it does not. -/
theorem mirrorRegion_eq (hi : param m 0 1 ≤ 15) (hlen : 0 < param m 16 8) :
    exec (.mirrorRegion m) s = .next (if s.regionOk m then (s.modHub (fun x => { x with
      regions := x.regions.set (param m 0 1) (some (regionOf m)) })).answered m stOk [] else s.answered m stBadParam []) := by
  refine hostRow_next h ?_
  have hothers (i base len : Nat) :
      ((((List.range 16).filter (fun j => j != i)).filterMap (fun j => s.hub.regions.getD j none)).all
        (fun r => !meets base len r.base r.len)) =
      (List.range 16).all (fun j => j == i || (s.hub.regions.getD j none).all (fun r => !meets base len r.base r.len)) := by
    rw [List.all_filterMap, List.all_filter]
    congr 1
    funext j
    cases hj : j == i <;> cases s.hub.regions.getD j none <;> simp_all [bne]
  have hok : s.regionOk m = (decide (param m 1 1 ≤ 1) && decide (param m 8 8 % 64 = 0) && decide (param m 16 8 % 64 = 0)
      && mapped s.grade 0 (param m 8 8) (param m 16 8) && (decide (param m 1 1 = 1) || decide (param m 2 2 ≠ 0xFFFF))
      && (((List.range 16).filter (fun j => j != param m 0 1)).filterMap (fun j => s.hub.regions.getD j none)).all
        (fun r => !meets (param m 8 8) (param m 16 8) r.base r.len)
      && (s.otherSaves 16).all (fun a => !meets (param m 8 8) (param m 16 8) a.1 a.2)) := by
    rw [hothers, Bool.eq_iff_iff]
    simp only [State.regionOk, Bool.and_eq_true, Bool.or_eq_true, decide_eq_true_eq, beq_iff_eq, bne_iff_ne]
  simp only [mirrorRegion, Fx.run_look, cmdOf_p]
  rw [if_neg (by omega), if_neg (by omega), ← hok]
  cases s.regionOk m
  · exact accepts_done h _ _
  · exact accepts_done h _ _

theorem mirrorRegion_beyond (hi : 15 < param m 0 1) : exec (.mirrorRegion m) s = .next (s.answered m stBadParam []) := by
  refine hostRow_next h ?_
  simp only [mirrorRegion, Fx.run_look, cmdOf_p]
  rw [if_pos hi, accepts_done h]

end

end

/-- Settles O7: each command writes the field that it names with its parameters and answers, or answers the status of its refusal. -/
theorem hostWritesHub : Obligations.HostWritesHub := by
  refine ⟨fun s m => ⟨fun h hi hpos hlen => ?_, fun h hi hlen => ?_, relayCfg_next, nodeSet_next, fun h hend hok => ?_, repairWrite_next,
    repairClear_next, mirrorRegion_cleared, fun h hi hlen hok => ?_, fun h hnode hid hself => takeover_next h hid hnode hself⟩,
    fun s m => ⟨fun h hbad => ?_, nodeSet_refused, fun h hnode hid => takeover_refused h hid hnode,
      fun h hnode hid hself => takeover_mismatch h hid hnode hself⟩⟩
  · simpa only [if_neg (Nat.ne_of_gt hpos)] using hostWindow_next h hi hlen
  · simpa only [if_pos hlen] using hostWindow_next h hi (hlen ▸ Nat.zero_le _)
  · exact ⟨_, routeWrite_next h hend hok, tableGet_routes _ _ _⟩
  · simpa only [hok, if_true, regionOf] using mirrorRegion_eq h hi hlen
  · by_cases hi : 15 < param m 0 1
    · exact mirrorRegion_beyond h hi
    · obtain ⟨hlen, hno⟩ := hbad.resolve_left hi
      simpa only [hno, Bool.false_eq_true, if_false] using mirrorRegion_eq h (Nat.not_lt.mp hi) hlen

end Sys2Proof.Machine

/-! Proofs about host commands that write one context (R240, R249, R256, R333, R466, R545). -/
namespace Sys2Proof.Machine

/-! ## Fields changed one by one -/

/-- Updates of distinct fields: each field that is there gets its own, and nothing else of the machine changes. -/
theorem run_each_field (l : List Nat) (hl : l.Nodup) (g : Nat → Field → Field) (s : State) :
    { (Fx.each l (fun i => Fx.field i (g i))).run s with fields := s.fields } = s ∧
    ((Fx.each l (fun i => Fx.field i (g i))).run s).fields.length = s.fields.length ∧
    ∀ f, ((Fx.each l (fun i => Fx.field i (g i))).run s).field f =
      if f ∈ l ∧ f < s.fields.length then g f (s.field f) else s.field f := by
  induction l generalizing s with
  | nil => exact ⟨rfl, rfl, fun f => by simp⟩
  | cons i l ih =>
    obtain ⟨hi, hl⟩ := List.nodup_cons.mp hl
    obtain ⟨hframe, hlen, hfield⟩ := ih hl (s.modField i (g i))
    have hlen' : (s.modField i (g i)).fields.length = s.fields.length := by simp [State.modField]
    rw [Fx.run_each_cons, Fx.run_field]
    refine ⟨?_, hlen.trans hlen', fun f => ?_⟩
    · exact (congrArg (fun t : State => { t with fields := s.fields }) hframe).trans rfl
    · rw [hfield, hlen']
      by_cases hf : f = i
      · subst hf
        rw [if_neg (fun h => hi h.1)]
        by_cases hlt : f < s.fields.length
        · rw [if_pos ⟨List.mem_cons_self, hlt⟩]
          exact State.field_modField s f (g f) hlt
        · rw [if_neg (fun h => hlt h.2)]
          simp [State.field, Nat.not_lt.mp hlt]
      · have hne : (s.modField i (g i)).field f = s.field f := State.field_modField_ne s i f (g i) (Ne.symm hf)
        rw [hne]
        simp [hf]

theorem dropPreloads_run (c : Nat) (s : State) : { (dropPreloads c).run s with fields := s.fields } = s ∧ s.dropsShadows ((dropPreloads c).run s) c := by
  simp only [dropPreloads, Fx.run_look]
  obtain ⟨hframe, -, hfield⟩ := run_each_field (List.range (Grade.fields s.grade)) List.nodup_range (fun _ g =>
    { g with shadow := g.shadow.filter (fun b => b.ctx != c || (s.ctx c).ops.any (fun o => o.seq == b.seq)) }) s
  refine ⟨hframe, fun f => ?_⟩
  rw [hfield]
  simp only [List.mem_range]
  by_cases hf : f < Grade.fields s.grade
  · have hle : decide (Grade.fields s.grade ≤ f) = false := decide_eq_false (Nat.not_le.mpr hf)
    simp only [hle, Bool.or_false]
    split_ifs with hlt
    · rfl
    · have hdefault : s.field f = Field.reset := by simp [State.field, Nat.not_lt.mp (fun h => hlt ⟨hf, h⟩)]
      rw [hdefault]
      rfl
  · have hle : decide (Grade.fields s.grade ≤ f) = true := decide_eq_true (Nat.not_lt.mp hf)
    rw [if_neg (fun h => hf h.1)]
    have hall : (s.field f).shadow.filter (fun _ => true) = (s.field f).shadow := by cases (s.field f).shadow <;> rfl
    simp only [hle, Bool.or_true, Bool.true_or, hall]

/-! ## Descriptors -/

/-- Descriptors that pass their checks are all loaded (R240). -/
theorem loadDescs_ok (i : Nat) (es : List (List Byte)) (t : List (Nat × DescEntry)) (h : ∀ e ∈ es, descStatus e = stOk) :
    (loadDescs none i es t).2 = (es.length, stOk) ∧
    ∀ n, tableGet? (loadDescs none i es t).1 n =
      if i ≤ n ∧ n < i + es.length then
        some { bytes := es.getD (n - i) [], aliasFree := (Desc.parse (es.getD (n - i) [])).aliasFree }
      else tableGet? t n := by
  induction es generalizing i t with
  | nil => exact ⟨rfl, fun n => by simp [loadDescs]⟩
  | cons e es ih =>
    obtain ⟨he, hes⟩ := List.forall_mem_cons.mp h
    obtain ⟨hcount, hget⟩ := ih (i + 1) (tablePut t i { bytes := e, aliasFree := (Desc.parse e).aliasFree }) hes
    have hstep : loadDescs none i (e :: es) t =
        let r := loadDescs none (i + 1) es (tablePut t i { bytes := e, aliasFree := (Desc.parse e).aliasFree })
        (r.1, r.2.1 + 1, r.2.2) := by simp [loadDescs, he]
    rw [hstep]
    refine ⟨by simp [hcount], fun n => ?_⟩
    dsimp only
    rw [hget, List.length_cons]
    by_cases hn : n = i
    · subst hn
      rw [if_neg (show ¬ (n + 1 ≤ n ∧ n < n + 1 + es.length) by omega), if_pos (show n ≤ n ∧ n < n + (es.length + 1) by omega),
        tableGet?_put_self, Nat.sub_self]
      rfl
    · rw [tableGet?_put_ne _ _ hn]
      by_cases hin : i + 1 ≤ n ∧ n < i + 1 + es.length
      · rw [if_pos hin, if_pos (show i ≤ n ∧ n < i + (es.length + 1) by omega), show n - i = n - (i + 1) + 1 by omega, List.getD_cons_succ]
      · rw [if_neg hin, if_neg (show ¬ (i ≤ n ∧ n < i + (es.length + 1)) by omega)]

section
variable {s : State} {m : HostMsg}

/-- A reply does not depend on the fields. -/
theorem answered_fields (t : State) (m : HostMsg) (status : Nat) (r : List Byte) (l : List Field) :
    { t.answered m status r with fields := l } = ({ t with fields := l } : State).answered m status r := by
  simp only [State.answered]
  split <;> rfl

theorem answered_field (t : State) (m : HostMsg) (status : Nat) (r : List Byte) (f : Nat) :
    (t.answered m status r).field f = t.field f := by
  simp only [State.answered]
  split <;> rfl

/-- What a change of a context and a reply leave of the fields. -/
theorem dropsShadows_after {c : Nat} {f : Ctx → Ctx} {t : State} {status : Nat} {r : List Byte} (h : (s.modCtx c f).dropsShadows t c)
    (hf : ∀ x, (f x).ops = x.ops) : s.dropsShadows (t.answered m status r) c := by
  have hops : ((s.modCtx c f).ctx c).ops = (s.ctx c).ops := by
    rcases s.ctx_modCtx_cases c c f with e | ⟨-, e⟩ <;> rw [e]
    exact hf _
  intro g
  have hg := h g
  rw [hops] at hg
  rw [answered_field]
  exact hg

theorem modCtx_congr {c : Nat} {f g : Ctx → Ctx} (h : f (s.ctx c) = g (s.ctx c)) : s.modCtx c f = s.modCtx c g := by
  have hlist : s.ctxs.modify c f = s.ctxs.modify c g := by
    refine List.ext_getElem? fun i => ?_
    by_cases hi : i < s.ctxs.length
    · have hget : s.ctx i = s.ctxs[i] := by simp [State.ctx, hi]
      by_cases hc : c = i
      · subst hc
        rw [hget] at h
        simp [hi, h]
      · simp [hc]
    · simp [Nat.not_lt.mp hi]
  simp only [State.modCtx, hlist]

/-! ## The commands -/

theorem resume_next (h : s.accepts m 0x0202 = true) (hmode : param m 0 1 = 0) (hstate : (s.ctx m.ctx).state = .stopped)
    (hops : (s.ctx m.ctx).ops = []) : ∃ t, exec (.resume m) s = .next t ∧ s.dropsShadows t m.ctx ∧
      { t with fields := s.fields } = (s.modCtx m.ctx (fun x => { x with state := .active, stopStatus := 0#16 })).answered m stOk [] := by
  obtain ⟨hframe, hdrops⟩ := dropPreloads_run m.ctx (s.modCtx m.ctx (fun x => { x with state := .active, stopStatus := 0#16 }))
  refine ⟨((dropPreloads m.ctx).run (s.modCtx m.ctx (fun x => { x with state := .active, stopStatus := 0#16 }))).answered m stOk [],
    hostRow_next h ?_, ?_, ?_⟩
  · simp only [resume, Fx.run_look, cmdOf_p, cmdOf_ctx, hmode, hstate, hops]
    rw [if_neg (by simp), Fx.run_all_cons, Fx.run_all_cons, Fx.run_all_cons, Fx.run_all_nil, accepts_done h]
    rfl
  · exact dropsShadows_after hdrops fun _ => rfl
  · rw [answered_fields]
    exact congrArg (fun t : State => t.answered m stOk []) hframe

theorem seedSet_next (h : s.accepts m 0x0203 = true) (hlo : 1 ≤ param m 0 1) (hhi : param m 0 1 ≤ 3) :
    exec (.seedSet m) s = .next ((s.modCtx m.ctx (fun x =>
      { x with seeds := x.seeds.set (param m 0 1) (BitVec.ofNat 64 (param m 8 8)) })).answered m stOk []) := by
  refine hostRow_next h ?_
  simp only [seedSet, cmdOf_p, cmdOf_ctx]
  rw [if_neg (by simp; omega), Fx.run_andThen, accepts_done h]
  rfl

theorem keeperWrite_next (h : s.accepts m 0x0204 = true) (hend : param m 0 2 + (cmdOf m).entries.length ≤ 4096)
    (hzero : ∀ e ∈ (cmdOf m).entries, allZero (e.drop 20)) :
    exec (.keeperWrite m) s = .next ((s.modCtx m.ctx (fun x =>
      { x with keeper := putEntries (fun e => allZero (keptBytes e)) keptBytes (param m 0 2) (cmdOf m).entries (s.ctx m.ctx).keeper })).answered
        m stOk []) := by
  refine hostRow_next h ?_
  simp only [keeperWrite, cmdOf_p, cmdOf_ctx]
  rw [if_neg (by simpa using ⟨hend, hzero⟩), Fx.run_andThen, accepts_done h]
  exact congrArg (fun t : State => t.answered m stOk []) (modCtx_congr rfl)

theorem submit_next (h : s.accepts m 0x0301 = true) (hc : m.ctx < s.ctxs.length) (hok : s.submission m.ctx (cmdOf m).entries = stOk) :
    exec (.submit m) s = .next ((s.modCtx m.ctx (acceptRecords (cmdOf m).entries)).answered m stOk
      (leBytes 4 ((s.ctx m.ctx).nextSeq + BitVec.ofNat 32 (cmdOf m).entries.length).toNat)) := by
  refine hostRow_next h ?_
  simp only [submit, submitRecords, cmdOf_msg, cmdOf_ctx, accepts_fault? h, hok, Fx.run_look, Fx.run_all_cons, Fx.run_all_nil, Option.isSome_none,
    Bool.false_eq_true, if_false, Option.toList_none, Fx.run_each_nil, decide_true, Fx.run_when, if_true, Fx.run_ctx, State.ctx_modCtx _ _ _ hc,
    accepts_ans h]
  rfl

theorem submit_refused (h : s.accepts m 0x0301 = true) (hbad : s.submission m.ctx (cmdOf m).entries ≠ stOk) :
    exec (.submit m) s = .next (s.answered m (s.submission m.ctx (cmdOf m).entries) (leBytes 4 (s.ctx m.ctx).nextSeq.toNat)) := by
  refine hostRow_next h ?_
  simp only [submit, submitRecords, cmdOf_msg, cmdOf_ctx, accepts_fault? h, hbad, Fx.run_look, Fx.run_all_cons, Fx.run_all_nil, Option.isSome_none,
    Bool.false_eq_true, if_false, Option.toList_none, Fx.run_each_nil, decide_false, Fx.run_when, accepts_ans h]

theorem descLoad_next (h : s.accepts m 0x0300 = true) (hend : param m 0 2 + (cmdOf m).entries.length ≤ 4096)
    (hok : ∀ e ∈ (cmdOf m).entries, descStatus e = stOk) : ∃ u t, exec (.descLoad m) s = .next u ∧ s.dropsShadows u m.ctx ∧
      { u with fields := s.fields } = (s.modCtx m.ctx (fun x => { x with descs := t })).answered m stOk
        (leBytes 2 (cmdOf m).entries.length ++ leBytes 2 0xFFFF) ∧
      ∀ n, tableGet? t n = if param m 0 2 ≤ n ∧ n < param m 0 2 + (cmdOf m).entries.length
        then some { bytes := (cmdOf m).entries.getD (n - param m 0 2) []
                    aliasFree := (Desc.parse ((cmdOf m).entries.getD (n - param m 0 2) [])).aliasFree }
        else tableGet? (s.ctx m.ctx).descs n := by
  obtain ⟨hcount, hget⟩ := loadDescs_ok (param m 0 2) (cmdOf m).entries (s.ctx m.ctx).descs hok
  obtain ⟨hframe, hdrops⟩ := dropPreloads_run m.ctx (s.modCtx m.ctx (fun x =>
    { x with descs := (loadDescs none (param m 0 2) (cmdOf m).entries (s.ctx m.ctx).descs).1 }))
  refine ⟨((dropPreloads m.ctx).run (s.modCtx m.ctx (fun x =>
      { x with descs := (loadDescs none (param m 0 2) (cmdOf m).entries (s.ctx m.ctx).descs).1 }))).answered m stOk
        (leBytes 2 (cmdOf m).entries.length ++ leBytes 2 0xFFFF), _, hostRow_next h ?_, dropsShadows_after hdrops fun _ => rfl, ?_, hget⟩
  · simp only [descLoad, Fx.run_look, cmdOf_p, cmdOf_ctx, cmdOf_msg, accepts_fault? h, Option.map_none, Option.filter_none, Option.toList_none]
    rw [if_neg (by omega)]
    simp only [Fx.run_all_cons, Fx.run_all_nil, Fx.run_each_nil, hcount, if_true, accepts_ans h, Fx.run_ctx]
  · rw [answered_fields]
    exact congrArg (fun t : State => t.answered m stOk _) hframe

end

/-- Settles O8: each command writes its context, and RESUME and DESC_LOAD also drop the preloads (`dropPreloads_run`). -/
theorem hostWritesContext : Obligations.HostWritesContext := by
  intro s m
  refine ⟨resume_next, seedSet_next, fun h hend hzero => ⟨_, keeperWrite_next h hend hzero, fun n => ?_⟩, descLoad_next, submit_next,
    submit_refused⟩
  rw [tableGet_putEntries _ _ _ _ _ _ _ []]
  split_ifs <;> simp_all

end Sys2Proof.Machine

/-! Proofs about the event rings: CREATE and RING_SET configure one, doorbells move its consumer index, and records are written to it
(R544, R553 to R561). -/
namespace Sys2Proof.Machine

/-! ## A reply changes nothing but what has left the module -/

section
variable (t : State) (m : HostMsg) (status : Nat) (r : List Byte)

theorem answered_eq : t.answered m status r = { t with out := (t.answered m status r).out } := by
  simp only [State.answered]
  split <;> rfl

@[simp] theorem answered_mem : (t.answered m status r).mem = t.mem := by rw [answered_eq]

@[simp] theorem answered_hub : (t.answered m status r).hub = t.hub := by rw [answered_eq]

@[simp] theorem answered_port : (t.answered m status r).port = t.port := by rw [answered_eq]

@[simp] theorem answered_power : (t.answered m status r).power = t.power := by rw [answered_eq]

@[simp] theorem answered_ctxs : (t.answered m status r).ctxs = t.ctxs := by rw [answered_eq]

@[simp] theorem answered_all_fields : (t.answered m status r).fields = t.fields := by rw [answered_eq]

@[simp] theorem answered_hbmStacks : (t.answered m status r).hbmStacks = t.hbmStacks := by rw [answered_eq]

@[simp] theorem answered_links : (t.answered m status r).links = t.links := by rw [answered_eq]

@[simp] theorem answered_ctx (c : Nat) : (t.answered m status r).ctx c = t.ctx c := by rw [answered_eq]; rfl

@[simp] theorem answered_ring (i : Nat) : (t.answered m status r).ring i = t.ring i := by rw [answered_eq]; rfl

/-- What has left the module with a reply depends on the port, the counter and what had left before. -/
theorem answered_out_congr {s t : State} (hout : t.out = s.out) (hport : t.port = s.port) (hnow : t.now = s.now) :
    (s.answered m status r).out = (t.answered m status r).out := by
  simp only [State.answered, hport]
  split
  · simp only [State.emit, State.cycle, hout, hnow]
  · exact hout.symm

end

/-! ## A ring that is refilled -/

/-- A ring that has room again keeps all but what waits for it. -/
theorem refillRing_ringFrame (i j : Nat) (s : State) : (((refillRing i).run s).ring j).frame = (s.ring j).frame := by
  simp only [refillRing, Fx.run_look, Fx.run_when]
  split
  · rw [Fx.run_andThen, Fx.run_ring]
    rcases ((fireSource 511).run s).ring_modRing_cases i j
      (fun r => { r with lostMark := false, waiting := lostRecord s i :: r.waiting }) with e | ⟨rfl, e⟩
    · rw [e, State.ring, fireSource_rings, ← State.ring]
    · rw [e, State.ring, fireSource_rings, ← State.ring]
      rfl
  · rfl

/-- The fields of a ring that its frame holds. -/
theorem Ring.of_frame {q r : Ring} (h : q.frame = r.frame) :
    q.attached = r.attached ∧ q.qp = r.qp ∧ q.key = r.key ∧ q.va = r.va ∧ q.producer = r.producer ∧ q.consumer = r.consumer
      ∧ q.armed = r.armed := by
  simp only [Ring.frame, Ring.mk.injEq] at h
  simp [h]

/-- CREATE and RING_SET leave their ring as they configure it, and every other one as it was. -/
theorem configured_ring {s : State} {i : Nat} (hi : i < s.rings.length) (qp : Nat) (key : U32) (va : U64) {t : State}
    (ht : (refillRing i).run (s.modRing i (Ring.configured qp key va)) = t) :
    ((t.ring i).attached = true ∧ (t.ring i).qp = qp ∧ (t.ring i).key = key ∧ (t.ring i).va = va ∧ (t.ring i).producer = 0#32 ∧
      (t.ring i).consumer = 0#32 ∧ (t.ring i).armed = true) ∧ ∀ j, j ≠ i → t.ring j = s.ring j := by
  subst ht
  refine ⟨?_, fun j hj => ?_⟩
  · have h := refillRing_ringFrame i i (s.modRing i (Ring.configured qp key va))
    rw [State.ring_modRing s i _ hi] at h
    exact Ring.of_frame h
  · rw [refillRing_ring_ne i j _ hj.symm, State.ring_modRing_ne s i j _ hj.symm]

/-! ## CREATE and RING_SET -/

section
variable {s : State} {m : HostMsg}

/-- The state with CREATE's context and its ring. -/
def State.created (s : State) (m : HostMsg) : State :=
  (refillRing m.ctx).run ((s.modCtx m.ctx (createdCtx (cmdOf m))).modRing m.ctx
    (Ring.configured (param m 104 3) (BitVec.ofNat 32 (param m 108 4)) (BitVec.ofNat 64 (param m 112 8))))

theorem create_next (h : s.accepts m 0x0200 = true) (hok : createOk s m.ctx (cmdOf m) = true) :
    exec (.create m) s = .next ((s.created m).answered m stOk (leBytes 2 (s.ctx m.ctx).gen.toNat)) := by
  refine hostRow_next h ?_
  simp only [create, Fx.run_look, cmdOf_p, cmdOf_ctx, hok]
  rw [if_neg (by simp), Fx.run_all_cons, Fx.run_ctx, Fx.run_all_cons, Fx.run_ring, Fx.run_all_cons, Fx.run_all_cons, Fx.run_all_nil,
    accepts_ans h]
  rfl

theorem create_refused (h : s.accepts m 0x0200 = true) (hbad : ¬ createOk s m.ctx (cmdOf m) = true) :
    exec (.create m) s = .next (s.answered m stBadParam []) := by
  refine hostRow_next h ?_
  simp only [create, Fx.run_look, cmdOf_ctx, Bool.eq_false_iff.mpr hbad]
  rw [if_pos (by simp), accepts_done h]

/-- Settles O9: CREATE writes its slot, configures and refills its ring, and answers; each of these has its frame. -/
theorem createMakesContext : Obligations.CreateMakesContext := by
  unfold Obligations.CreateMakesContext
  refine ⟨fun s m h hok hc hr => ?_, fun s m h hbad => create_refused h hbad⟩
  have hctx : (s.created m).ctx m.ctx = createdCtx (cmdOf m) (s.ctx m.ctx) := by
    simp [State.created, State.ctx_modCtx s m.ctx _ hc]
  have hother (c : Nat) (hne : c ≠ m.ctx) : (s.created m).ctx c = s.ctx c := by
    simp [State.created, State.ctx_modCtx_ne s m.ctx c _ hne.symm]
  obtain ⟨⟨hatt, hqp, -, -, -, -, harm⟩, -⟩ := configured_ring (s := s.modCtx m.ctx (createdCtx (cmdOf m))) hr (param m 104 3)
    (BitVec.ofNat 32 (param m 108 4)) (BitVec.ofNat 64 (param m 112 8)) (t := s.created m) rfl
  refine ⟨_, create_next h hok, ?_⟩
  simp only [answered_ctx, answered_ring, hctx, hatt, hqp, harm]
  refine ⟨rfl, rfl, rfl, rfl, rfl, rfl, rfl, rfl, rfl, rfl, rfl, trivial, trivial, trivial, hother, ?_⟩
  have hout := answered_out_congr m stOk (leBytes 2 (s.ctx m.ctx).gen.toNat) (s := s) (t := s.created m) (by simp [State.created])
    (by simp [State.created]) (by simp [State.created])
  simp [State.created] at hout ⊢
  exact hout

/-- The state with the ring that RING_SET names. -/
def State.ringSetTo (s : State) (m : HostMsg) : State :=
  (refillRing (param m 16 1)).run (s.modRing (param m 16 1)
    (Ring.configured (param m 0 4 % 2 ^ 24) (BitVec.ofNat 32 (param m 4 4)) (BitVec.ofNat 64 (param m 8 8))))

theorem ringSet_next (h : s.accepts m 0x0105 = true) (hi : param m 16 1 ≤ 16)
    (hfree : param m 16 1 < 16 → (s.ctx (param m 16 1)).state ≠ .free) :
    exec (.ringSet m) s = .next ((s.ringSetTo m).answered m stOk []) := by
  refine hostRow_next h ?_
  simp only [ringSet, Fx.run_look, cmdOf_p]
  rw [if_neg (by simpa using ⟨hi, hfree⟩), Fx.run_all_cons, Fx.run_ring, Fx.run_all_cons, Fx.run_all_cons, Fx.run_all_nil,
    accepts_done h]
  rfl

end

/-! ## Doorbells -/

/-- The ring as an accepted doorbell leaves it. -/
def Ring.rung (v : U64) (r : Ring) : Ring :=
  { r with consumer := v.setWidth 32, armed := r.armed || (v.getLsbD 32 && v.setWidth 32 == r.producer) }

theorem doorbell_next {s : State} {i : Nat} {v : U64}
    (h : (v.setWidth 32 - (s.ring i).consumer).toNat ≤ ((s.ring i).producer - (s.ring i).consumer).toNat) :
    exec (.doorbell i v) s = .next ((refillRing i).run ((Fx.when (v.getLsbD 32 && v.setWidth 32 != (s.ring i).producer
      && (s.ring i).attached && !s.outcast) (notify i)).run (s.modRing i (Ring.rung v)))) := by
  change (ringDoorbell i v).outcome s = _
  rw [Fx.outcome_eq, ringDoorbell, Fx.run_look]
  dsimp only
  rw [if_neg (by simpa [Ring.accepts] using h), Fx.run_all_cons, Fx.run_ring, Fx.run_all_cons, Fx.run_all_cons, Fx.run_all_nil]
  rfl

theorem doorbell_refused {s : State} {i : Nat} {v : U64}
    (h : ((s.ring i).producer - (s.ring i).consumer).toNat < (v.setWidth 32 - (s.ring i).consumer).toNat) :
    exec (.doorbell i v) s = .next (s.modRing i (fun r => { r with badDoorbells := min 65535 (r.badDoorbells + 1) })) := by
  change (ringDoorbell i v).outcome s = _
  rw [Fx.outcome_eq, ringDoorbell, Fx.run_look]
  dsimp only
  rw [if_pos (by simpa [Ring.accepts] using h), Fx.run_ring]
  rfl

/-- A notification changes nothing but what has left the module. -/
theorem notify_run (i : Nat) (s : State) : ∃ l, (notify i).run s = { s with out := s.out ++ l } := by
  rw [notify, Fx.run_look]
  exact ⟨[_], rfl⟩

theorem when_notify_run (b : Bool) (i : Nat) (s : State) :
    ∃ l, (Fx.when b (notify i)).run s = { s with out := s.out ++ l } ∧ (b = false → l = []) := by
  cases b
  · exact ⟨[], by simp [Fx.when, Fx.run_skip], fun _ => rfl⟩
  · obtain ⟨l, hl⟩ := notify_run i s
    exact ⟨l, by rw [← hl]; rfl, fun h => by cases h⟩

/-- Settles O14: RING_SET and a doorbell write one ring, and what they refill of it leaves its indices. -/
theorem ringsAndDoorbells : Obligations.RingsAndDoorbells := by
  unfold Obligations.RingsAndDoorbells
  refine ⟨fun s m h hi hfree hr => ?_, fun s i v hi => ⟨fun hv => ?_, doorbell_refused⟩⟩
  · obtain ⟨⟨hatt, hqp, hkey, hva, hprod, hcons, harm⟩, hother⟩ := configured_ring hr (param m 0 4 % 2 ^ 24)
      (BitVec.ofNat 32 (param m 4 4)) (BitVec.ofNat 64 (param m 8 8)) (t := s.ringSetTo m) rfl
    refine ⟨_, ringSet_next h hi hfree, ?_⟩
    simp only [answered_ring, hatt, hqp, hkey, hva, hprod, hcons, harm, true_and]
    refine ⟨hother, ?_⟩
    have hout := answered_out_congr m stOk [] (s := s) (t := s.ringSetTo m) (by simp [State.ringSetTo])
      (by simp [State.ringSetTo]) (by simp [State.ringSetTo])
    simp [State.ringSetTo] at hout ⊢
    exact hout
  · obtain ⟨l, hl, hnil⟩ := when_notify_run (v.getLsbD 32 && v.setWidth 32 != (s.ring i).producer && (s.ring i).attached
      && !s.outcast) i (s.modRing i (Ring.rung v))
    refine ⟨_, doorbell_next hv, ?_⟩
    rw [hl]
    obtain ⟨-, -, -, -, hprod, hcons, harm⟩ := Ring.of_frame (refillRing_ringFrame i i { s.modRing i (Ring.rung v) with
      out := (s.modRing i (Ring.rung v)).out ++ l })
    have hring : ({ s.modRing i (Ring.rung v) with out := (s.modRing i (Ring.rung v)).out ++ l } : State).ring i = (s.ring i).rung v :=
      State.ring_modRing s i _ hi
    rw [hring] at hprod hcons harm
    refine ⟨fun ha => ?_, hcons, hprod, harm, fun j hj => ?_, ?_⟩
    · simp [hnil (by simp [ha])]
    · rw [refillRing_ring_ne i j _ hj.symm]
      exact State.ring_modRing_ne s i j _ hj.symm
    · simp

/-! ## Event records -/

section
variable {s : State} {i : Nat}

/-- The ring with its oldest waiting record written. -/
def Ring.written (rest : List EventRec) (r : Ring) : Ring := { r with waiting := rest, producer := r.producer + 1#32, armed := false }

theorem eventRecordWrite_next {e : EventRec} {rest : List EventRec} (hw : (s.ring i).waiting = e :: rest) (hroom : 0 < (s.ring i).space)
    (hstage : s.hub.stage ≠ 15) (hset : s.outcast = false) :
    exec (.eventRecordWrite i none) s = .next ((Fx.when (s.ring i).armed (notify i)).run (((s.modRing i (Ring.written rest)).emit
      (.rdmaWrite (s.ring i).qp (s.ring i).key ((s.ring i).va.toNat + 32 * ((s.ring i).producer.toNat % 4096))
        (EventRec.bytes e (s.ring i).producer.toNat))).emit
      (.rdmaWrite (s.ring i).qp (s.ring i).key ((s.ring i).va.toNat + 131072)
        (leBytes 4 (((s.ring i).producer.toNat + 1) % 2 ^ 32))))) := by
  change (writeRecord i none).outcome s = _
  rw [Fx.outcome_eq, writeRecord, Fx.run_look]
  simp only [hw]
  rw [Fx.run_when, if_pos (by simp [hroom, hstage, hset]), Fx.run_all_cons, Fx.run_ring, Fx.run_all_cons, Fx.run_emit, Fx.run_all_cons,
    Fx.run_emit, Fx.run_all_cons, Fx.run_all_cons, Fx.run_all_nil]
  rfl

theorem eventRecordWrite_held (bad : Option Nat) (h : (s.ring i).space = 0 ∨ s.hub.stage = 15 ∨ s.outcast = true) :
    exec (.eventRecordWrite i bad) s = .next s := by
  change (writeRecord i bad).outcome s = _
  rw [Fx.outcome_eq, writeRecord, Fx.run_look]
  dsimp only
  split
  · rw [Fx.run_skip]
  · rw [Fx.run_when, if_neg]
    rcases h with h | h | h <;> simp [h]

end

/-- Settles O15: a record is written to the ring's place for it, and held while the ring takes none. -/
theorem eventRecordsWritten : Obligations.EventRecordsWritten := by
  unfold Obligations.EventRecordsWritten
  refine ⟨fun s i e rest hi hw hroom hstage hset => ?_, fun s i bad => eventRecordWrite_held bad⟩
  refine ⟨_, eventRecordWrite_next hw hroom hstage hset, ?_⟩
  obtain ⟨l, hl, -⟩ := when_notify_run (s.ring i).armed i (((s.modRing i (Ring.written rest)).emit
      (.rdmaWrite (s.ring i).qp (s.ring i).key ((s.ring i).va.toNat + 32 * ((s.ring i).producer.toNat % 4096))
        (EventRec.bytes e (s.ring i).producer.toNat))).emit
      (.rdmaWrite (s.ring i).qp (s.ring i).key ((s.ring i).va.toNat + 131072)
        (leBytes 4 (((s.ring i).producer.toNat + 1) % 2 ^ 32))))
  rw [hl]
  have hring : (s.modRing i (Ring.written rest)).ring i = (s.ring i).written rest := State.ring_modRing s i _ hi
  refine ⟨congrArg Ring.waiting hring, congrArg Ring.producer hring, congrArg Ring.armed hring, (congrArg Ring.consumer hring).trans rfl, ?_,
    fun j hj => State.ring_modRing_ne s i j _ hj.symm, rfl, rfl, rfl⟩
  refine ⟨l, ?_⟩
  simp [State.emit, State.modRing]

end Sys2Proof.Machine

/-! Proofs about event controllers (R562 to R564) and queue pairs (R533). -/
namespace Sys2Proof.Machine

/-! ## Tables -/

section
variable {α : Type}

theorem tableGet_put_self (l : List (Nat × α)) (k : Nat) (v d : α) : tableGet (tablePut l k v) k d = v := by simp [tableGet]

theorem tableGet_put_ne (l : List (Nat × α)) {k i : Nat} (v d : α) (h : i ≠ k) : tableGet (tablePut l k v) i d = tableGet l i d := by
  simp [tableGet, tableGet?_put_ne l v h]

end

/-! ## Sources -/

/-- The states of a source (R562). -/
theorem evcSrc_states (e : EvcSrc) :
    (e.state = 0 ∨ e.state = 1 → e.fire.state = 1) ∧ (e.state = 2 ∨ e.state = 3 → e.fire.state = 3) ∧
    (e.state = 0 ∨ e.state = 2 → e.complete.state = 0) ∧ (e.state = 1 ∨ e.state = 3 → e.complete.state = 1) ∧
    (e.state = 2 → e.fire.complete.state = 1) := by
  refine ⟨?_, ?_, ?_, ?_, fun h => by simp [EvcSrc.fire, EvcSrc.complete, h]⟩
  all_goals rintro (h | h) <;> simp [EvcSrc.fire, EvcSrc.complete, h]

/-- A fire reaches its source and, from a field, the one of the field's own controller (R563). -/
theorem fireSource_evc (s : State) (k : Nat) (_ : k < 512) :
    tableGet ((fireSource k).run s).evc k EvcSrc.reset = (tableGet s.evc k EvcSrc.reset).fire ∧
      (k < 448 → tableGet ((fireSource k).run s).evc (512 + k) EvcSrc.reset = (tableGet s.evc (512 + k) EvcSrc.reset).fire) ∧
      (∀ j, j ≠ k → (k < 448 → j ≠ 512 + k) → tableGet? ((fireSource k).run s).evc j = tableGet? s.evc j) := by
  have hne : k ≠ 512 + k := by omega
  rw [fireSource, Fx.run_andThen, Fx.run_evc, Fx.run_when]
  by_cases hf : k < 448
  · rw [if_pos (decide_eq_true hf), Fx.run_evc]
    simp only [State.modEvc]
    refine ⟨?_, fun _ => ?_, fun j hj hj' => ?_⟩
    · rw [tableGet_put_ne _ _ _ hne, tableGet_put_self]
    · rw [tableGet_put_self, tableGet_put_ne _ _ _ hne.symm]
    · rw [tableGet?_put_ne _ _ (hj' hf), tableGet?_put_ne _ _ hj]
  · rw [if_neg (by simpa using hf)]
    simp only [State.modEvc]
    exact ⟨tableGet_put_self .., fun h => absurd h hf, fun j hj _ => tableGet?_put_ne _ _ hj⟩

/-! ## The source that a controller takes -/

/-- The sources of a controller that it may take in a class. -/
def pendingOf (ctl : Nat) (fast : Bool) (l : List (Nat × EvcSrc)) : List (Nat × EvcSrc) :=
  (l.filter (fun e => controllerHas ctl e.1)).filter (fun e => e.2.state = 1 && e.2.enable && e.2.fast == fast)

/-- The sources of a controller that are being served. -/
def activeOf (ctl : Nat) (l : List (Nat × EvcSrc)) : List (Nat × EvcSrc) :=
  (l.filter (fun e => controllerHas ctl e.1)).filter (fun e => e.2.state = 2 || e.2.state = 3)

/-- The first of a class: one that completed while pending goes ahead (R564). -/
def firstOf (c : List (Nat × EvcSrc)) : Option Nat := ((c.filter (fun e => e.2.again)) ++ c).head?.map Prod.fst

theorem nextSource_eq (ctl : Nat) (l : List (Nat × EvcSrc)) :
    nextSource ctl l = if (activeOf ctl l).any (fun e => e.2.takenFast) then none
      else if !(pendingOf ctl true l).isEmpty then firstOf (pendingOf ctl true l)
      else if !(activeOf ctl l).isEmpty then none
      else firstOf (pendingOf ctl false l) := rfl

theorem mem_pendingOf {ctl : Nat} {fast : Bool} {l : List (Nat × EvcSrc)} {q : Nat × EvcSrc} :
    q ∈ pendingOf ctl fast l ↔ q ∈ l ∧ controllerHas ctl q.1 = true ∧ q.2.state = 1 ∧ q.2.enable = true ∧ q.2.fast = fast := by
  simp only [pendingOf, List.mem_filter, Bool.and_eq_true, decide_eq_true_eq, beq_iff_eq]
  tauto

theorem mem_activeOf {ctl : Nat} {l : List (Nat × EvcSrc)} {q : Nat × EvcSrc} :
    q ∈ activeOf ctl l ↔ q ∈ l ∧ controllerHas ctl q.1 = true ∧ (q.2.state = 2 ∨ q.2.state = 3) := by
  simp only [activeOf, List.mem_filter, Bool.or_eq_true, decide_eq_true_eq]
  tauto

/-- The first of a class is one of it, and one that completed while pending where there is such. -/
theorem firstOf_some {c : List (Nat × EvcSrc)} {k : Nat} (h : firstOf c = some k) :
    ∃ e, (k, e) ∈ c ∧ ∀ q ∈ c, q.2.again = true → e.again = true := by
  obtain ⟨⟨j, e⟩, he, rfl⟩ := Option.map_eq_some_iff.mp h
  refine ⟨e, ?_, fun q hq ha => ?_⟩
  · have hmem := List.mem_of_mem_head? he
    simp only [List.mem_append, List.mem_filter] at hmem
    exact hmem.elim And.left id
  · cases hagain : c.filter (fun e => e.2.again) with
    | nil => exact absurd ha (by simpa using List.filter_eq_nil_iff.mp hagain q hq)
    | cons x xs =>
      rw [hagain] at he
      obtain rfl : x = (j, e) := by simpa using he
      have hx : (j, e) ∈ c.filter (fun e => e.2.again) := hagain ▸ List.mem_cons_self
      exact (List.mem_filter.mp hx).2

/-- What a controller takes: the class it is of, and what holds the others back (R564). -/
theorem nextSource_some {ctl k : Nat} {l : List (Nat × EvcSrc)} (h : nextSource ctl l = some k) :
    ∃ fast, firstOf (pendingOf ctl fast l) = some k ∧ (∀ q ∈ activeOf ctl l, q.2.takenFast = false ∧ fast = true) ∧
      (fast = false → pendingOf ctl true l = []) := by
  rw [nextSource_eq] at h
  split at h
  · cases h
  · rename_i hslow
    have hslow (q : Nat × EvcSrc) (hq : q ∈ activeOf ctl l) : q.2.takenFast = false :=
      Bool.eq_false_iff.mpr fun ht => hslow (List.any_eq_true.mpr ⟨q, hq, ht⟩)
    split at h
    · exact ⟨true, h, fun q hq => ⟨hslow q hq, rfl⟩, fun hf => by cases hf⟩
    · rename_i hnone
      split at h
      · cases h
      · rename_i hidle
        refine ⟨false, h, fun q hq => ?_, fun _ => by simpa using hnone⟩
        have hnil : activeOf ctl l = [] := by simpa using hidle
        rw [hnil] at hq
        cases hq

theorem nextSource_spec {ctl k : Nat} {l : List (Nat × EvcSrc)} (h : nextSource ctl l = some k) :
    ∃ e, (k, e) ∈ l ∧ controllerHas ctl k = true ∧ e.state = 1 ∧ e.enable = true ∧
      (∀ j a, (j, a) ∈ l → controllerHas ctl j = true → a.state = 1 → a.enable = true → a.fast = e.fast → a.again = true → e.again = true) ∧
      (∀ j a, (j, a) ∈ l → controllerHas ctl j = true → a.state = 2 ∨ a.state = 3 → a.takenFast = false ∧ e.fast = true) ∧
      (e.fast = false → ∀ j a, (j, a) ∈ l → controllerHas ctl j = true → a.state = 1 → a.enable = true → a.fast = false) := by
  obtain ⟨fast, hfirst, hactive, hnone⟩ := nextSource_some h
  obtain ⟨e, he, hagain⟩ := firstOf_some hfirst
  obtain ⟨hl, hhas, hstate, hen, rfl⟩ := mem_pendingOf.mp he
  refine ⟨e, hl, hhas, hstate, hen, fun j a ha hj hst hena hfast => ?_, fun j a ha hj hst => ?_, fun hf j a ha hj hst hena => ?_⟩
  · exact hagain (j, a) (mem_pendingOf.mpr ⟨ha, hj, hst, hena, hfast⟩)
  · exact hactive (j, a) (mem_activeOf.mpr ⟨ha, hj, hst⟩)
  · by_contra hfast
    have hmem : (j, a) ∈ pendingOf ctl true l := mem_pendingOf.mpr ⟨ha, hj, hst, hena, by simpa using hfast⟩
    rw [hnone hf] at hmem
    cases hmem

/-! ## What a controller does -/

section
variable {s : State}

theorem evcTake_next {ctl k : Nat} (h : nextSource ctl s.evc = some k) :
    exec (.evcTake ctl) s = .next (s.modEvc (fun l => tablePut l k
      { tableGet l k EvcSrc.reset with state := 2, takenFast := (tableGet l k EvcSrc.reset).fast, again := false })) := by
  change execEvcTake ctl s = _
  rw [execEvcTake, h]
  rfl

theorem eoi_next {k : Nat} (hk : k < 960) (hreg : regAbsent s.grade 0x19 k = false) :
    exec (.eoi k) s = .next (s.modEvc (fun l => tablePut l k (tableGet l k EvcSrc.reset).complete)) := by
  change execEoi k s = _
  rw [execEoi, Fx.outcome_eq, Fx.run_when, if_pos (by simp [hk, hreg]), Fx.run_evc]

end

/-- Settles O16: what a controller takes is the first of its class, and a fire and a completion write their sources. -/
theorem eventControllerServes : Obligations.EventControllerServes := by
  unfold Obligations.EventControllerServes
  refine ⟨evcSrc_states, fireSource_evc, fun s ctl k => nextSource_spec, fun s => ⟨fun ctl k h => ?_, fun k hk hreg hst => ?_,
    fun k hk hreg hst => ?_⟩⟩
  · refine ⟨_, evcTake_next h, ?_, ?_, fun j hj => tableGet?_put_ne _ _ hj, rfl⟩ <;> rw [State.modEvc, tableGet_put_self]
  · refine ⟨_, eoi_next hk hreg, ?_, fun j hj => tableGet?_put_ne _ _ hj, rfl⟩
    rw [State.modEvc, tableGet_put_self]
    simp only [EvcSrc.complete, hst]
  · refine ⟨_, eoi_next hk hreg, ?_, ?_, rfl⟩ <;> rw [State.modEvc, tableGet_put_self] <;> simp only [EvcSrc.complete, hst]

/-! ## Queue pairs -/

section
variable {s : State} {n : Nat} {q : Qp}

theorem congestionNotification_next (s : State) (n : Nat) : exec (.congestionNotification n) s = .next (s.modPort (fun p =>
    { p with qps := p.qps.map (fun q => if q.num = n ∧ q.connected then { q with rate := q.rate / 2, lastHit := some s.now } else q) })) :=
  rfl

theorem rateRestore_next {c : Nat} (hq : s.qp? n = some q) (hc : q.lastHit = some c) (hrate : q.rate < lineRate) :
    exec (.rateRestore n) s = .next ((s.setNow (c + 5000)).modPort (fun p =>
      { p with qps := p.qps.map (fun p => if p.num = n ∧ p.connected
        then { p with rate := min lineRate (p.rate + 2 ^ 16), lastHit := some (s.setNow (c + 5000)).now } else p) })) := by
  change execRateRestore n s = _
  simp only [execRateRestore, hq, hc]
  rw [Fx.outcome_eq, Fx.run_when, if_pos (by simpa using hrate), Fx.run_andThen, Fx.run_setNow, Fx.run_look]
  rfl

theorem ceMarkedPacket_next (hq : s.qp? n = some q) (hlast : q.lastCnp = none ∨ ∃ c, q.lastCnp = some c ∧ c + 5000 ≤ s.now) :
    exec (.ceMarkedPacket n) s = .next ((s.emit (.cnp n)).modPort (fun p =>
      { p with qps := p.qps.map (fun p => if p.num = n ∧ p.connected then { p with lastCnp := some s.now } else p) })) := by
  change execCeMarkedPacket n s = _
  simp only [execCeMarkedPacket, hq]
  have hdue : q.lastCnp.all (fun t => decide (t + 5000 ≤ s.now)) = true := by
    rcases hlast with h | ⟨c, h, hc⟩
    · simp [h]
    · simp [h, hc]
  rw [Fx.outcome_eq, Fx.run_when, if_pos hdue, Fx.run_andThen, Fx.run_emit]
  rfl

end

/-- Updates of distinct rings: each ring that is there gets its own, and nothing else of the machine changes. -/
theorem run_each_ring (l : List Nat) (hl : l.Nodup) (g : Nat → Ring → Ring) (s : State) :
    { (Fx.each l (fun i => Fx.ring i (g i))).run s with rings := s.rings } = s ∧
    ((Fx.each l (fun i => Fx.ring i (g i))).run s).rings.length = s.rings.length ∧
    ∀ i, ((Fx.each l (fun i => Fx.ring i (g i))).run s).ring i = if i ∈ l ∧ i < s.rings.length then g i (s.ring i) else s.ring i := by
  induction l generalizing s with
  | nil => exact ⟨rfl, rfl, fun f => by simp⟩
  | cons i l ih =>
    obtain ⟨hi, hl⟩ := List.nodup_cons.mp hl
    obtain ⟨hframe, hlen, hring⟩ := ih hl (s.modRing i (g i))
    have hlen' : (s.modRing i (g i)).rings.length = s.rings.length := by simp [State.modRing]
    rw [Fx.run_each_cons, Fx.run_ring]
    refine ⟨(congrArg (fun t : State => { t with rings := s.rings }) hframe).trans rfl, hlen.trans hlen', fun j => ?_⟩
    rw [hring, hlen']
    by_cases hj : j = i
    · subst hj
      rw [if_neg (fun h => hi h.1)]
      by_cases hlt : j < s.rings.length
      · rw [if_pos ⟨List.mem_cons_self, hlt⟩]
        exact State.ring_modRing s j (g j) hlt
      · rw [if_neg (fun h => hlt h.2)]
        simp [State.ring, Nat.not_lt.mp hlt]
    · rw [State.ring_modRing_ne s i j (g i) (Ne.symm hj)]
      simp [hj]

/-- The port once the queue pairs of a condition have closed (R619). -/
def Port.without (cond : Nat → Bool) (p : Port) : Port :=
  { p with
    qps := p.qps.filter (fun q => !cond q.num), reads := p.reads.filter (fun r => !cond r.qp)
    waits := p.waits.map (fun w => { w with dest := w.dest.without cond })
    delayed := p.delayed.map (fun d => { d with dest := d.dest.without cond }) }

/-- What the closing of queue pairs leaves (R619). -/
theorem closeQps_run (cond : Nat → Bool) (s : State) {t : State} (ht : (closeQps cond).run s = t) :
    t.port = s.port.without cond ∧ t.hub = { s.hub with windows := s.hub.windows.map (fun w => w.filter (fun w => !cond w.qp)) } ∧
    (∀ i, i < 17 → i < s.rings.length → cond (s.ring i).qp = true → (t.ring i).attached = false) ∧
    { t with port := s.port, hub := s.hub, rings := s.rings } = s := by
  subst ht
  rw [closeQps, Fx.run_all_cons, Fx.run_port, Fx.run_all_cons, Fx.run_hub, Fx.run_all_cons, Fx.run_all_nil]
  obtain ⟨hframe, -, hring⟩ := run_each_ring (List.range 17) List.nodup_range
    (fun _ r => if cond r.qp then { r with attached := false } else r)
    ((s.modPort (Port.without cond)).modHub
      (fun h => { h with windows := h.windows.map (fun w => w.filter (fun w => !cond w.qp)) }))
  refine ⟨congrArg State.port hframe, congrArg State.hub hframe, fun i hi hlt hc => ?_,
    (congrArg (fun t : State => { t with port := s.port, hub := s.hub, rings := s.rings }) hframe).trans rfl⟩
  have h := hring i
  rw [if_pos ⟨List.mem_range.mpr hi, hlt⟩] at h
  exact (congrArg Ring.attached h).trans (congrArg Ring.attached (if_pos hc))

section
variable {s : State} {n : Nat} (hup : s.port.up = true)
include hup

theorem connectionManagement_req (h1 : 1 < n) (hroom : s.port.qps.length < s.qpLimit) (hnew : ∀ q ∈ s.port.qps, q.num ≠ n) :
    exec (.connectionManagement .req n) s = .next ((s.modPort (fun p => { p with qps := p.qps ++
      [{ num := n, connected := false, rate := lineRate, lastCnp := none, lastHit := none }] })).emit (.cm n .rep)) := by
  change execConnectionManagement .req n s = _
  have hnone : s.port.qps.any (fun q => q.num == n) = false := by simpa using hnew
  simp only [execConnectionManagement]
  rw [Fx.outcome_eq, Fx.run_when, if_pos hup, Fx.run_when, if_pos (by simp [hnone, hroom, h1])]
  rfl

theorem connectionManagement_rtu : exec (.connectionManagement .rtu n) s = .next (s.modPort (fun p =>
    { p with qps := p.qps.map (fun q => if q.num = n then { q with connected := true } else q) })) := by
  change execConnectionManagement .rtu n s = _
  simp only [execConnectionManagement]
  rw [Fx.outcome_eq, Fx.run_when, if_pos hup]
  rfl

theorem connectionManagement_dreq : exec (.connectionManagement .dreq n) s
    = .next (((closeQps (fun k => k == n)).run s).emit (.cm n .drep)) := by
  change execConnectionManagement .dreq n s = _
  simp only [execConnectionManagement]
  rw [Fx.outcome_eq, Fx.run_when, if_pos hup]
  rfl

end

/-- Settles O17: each row writes the queue pairs that it names. -/
theorem queuePairs : Obligations.QueuePairs := by
  unfold Obligations.QueuePairs
  refine ⟨fun s n q hq => ⟨?_, fun c hc hrate => ?_, fun hlast => ?_⟩, fun s n hup => ⟨fun h1 hroom hnew => ?_, fun ⟨q, hq, hn⟩ => ?_, ?_⟩⟩
  · exact ⟨_, congestionNotification_next s n, rfl, rfl⟩
  · exact ⟨_, rateRestore_next hq hc hrate, rfl, rfl, rfl⟩
  · exact ⟨_, ceMarkedPacket_next hq hlast, rfl, rfl⟩
  · exact ⟨_, connectionManagement_req hup h1 hroom hnew, rfl,
      ⟨_, List.mem_append_right _ (List.mem_singleton.mpr rfl), rfl, rfl⟩, rfl⟩
  · refine ⟨_, connectionManagement_rtu hup, ?_, rfl⟩
    simp only [State.qp?, State.modPort, List.find?_isSome, List.mem_map]
    exact ⟨_, ⟨q, hq, if_pos hn⟩, by simp [hn]⟩
  · obtain ⟨u, hu⟩ : ∃ u, (closeQps (fun k => k == n)).run s = u := ⟨_, rfl⟩
    obtain ⟨hport, hhub, hrings, hframe⟩ := closeQps_run (fun k => k == n) s hu
    refine ⟨u.emit (.cm n .drep), by rw [connectionManagement_dreq hup, hu], fun q hq => ?_, fun w hw => ?_, fun i hi hlt hqp => ?_, ?_, ?_, ?_, ?_⟩
    · have hqps : u.port.qps = s.port.qps.filter (fun q => !(q.num == n)) := congrArg Port.qps hport
      have hmem : q ∈ s.port.qps.filter (fun q => !(q.num == n)) := hqps ▸ hq
      simpa using (List.mem_filter.mp hmem).2
    · have hwindows : u.hub.windows = s.hub.windows.map (fun w => w.filter (fun w => !(w.qp == n))) := congrArg Hub.windows hhub
      have hmem : some w ∈ s.hub.windows.map (fun w => w.filter (fun w => !(w.qp == n))) := hwindows ▸ hw
      obtain ⟨x, -, hx⟩ := List.mem_map.mp hmem
      simpa using (Option.filter_eq_some_iff.mp hx).2
    · exact hrings i hi hlt (by simp [hqp])
    · exact congrArg (fun t : State => t.out ++ [.cm n .drep]) hframe
    · exact (congrArg State.mem hframe :)
    · exact (congrArg State.ctxs hframe :)
    · exact (congrArg State.fields hframe :)

end Sys2Proof.Machine

/-! Proofs about POWER_SET (R595) and REG_WRITE (R546). -/
namespace Sys2Proof.Machine

/-! ## Conditional updates, and raised events -/

/-- Updates under a condition are those of the indices that meet it. -/
theorem run_each_when {α : Type} (l : List α) (c : α → Bool) (a : α → Fx) (s : State) :
    (Fx.each l (fun i => Fx.when (c i) (a i))).run s = (Fx.each (l.filter c) a).run s := by
  induction l generalizing s with
  | nil => rfl
  | cons i l ih =>
    rw [Fx.run_each_cons, ih, Fx.run_when]
    cases hc : c i
    · rw [List.filter_cons_of_neg (by simp [hc])]
      rfl
    · rw [List.filter_cons_of_pos hc, Fx.run_each_cons]
      rfl

/-- What raised events touch. -/
def Place.raised : Place → Prop
  | .evc | .field _ | .ring _ => True
  | _ => False

/-- The events of a change of levels leave a field's frame as the change does. -/
theorem withThrottle_fieldFrame (cause : Nat) (e : Fx) (s : State) (f : Nat) :
    (((withThrottle cause e).run s).field f).frame = ((e.run s).field f).frame := by
  rw [withThrottle, Fx.run_look, Fx.run_andThen, Fx.run_look]
  have hraise : (Fx.each ((List.range (Grade.fields s.grade)).filter (fun f => s.level f != (e.run s).level f))
      (fun f => raise (56 * f + 29) 1 0x0701 none (2 ^ f) (levelMhz ((e.run s).level f)) cause)).Within Place.raised :=
    .each fun _ => raise_within trivial trivial fun _ => trivial
  exact hraise (.fieldFrame f) id _

/-- No grade has more than eight fields (R3). -/
theorem fields_le_eight (g : Grade) : Grade.fields g ≤ 8 := by cases g <;> decide

/-! ## POWER_SET -/

section
variable {s : State} {m : HostMsg}

/-- What POWER_SET writes: the cap, and the steps that it names (R595). -/
def powerSetFx (m : HostMsg) : Fx :=
  Fx.all [
    Fx.power (fun p => { p with hostCap := param m 0 4 }),
    Fx.each (List.range 8) (fun f => Fx.when (decide (param m (4 + f) 1 ≤ 3)) (Fx.field f (fun g => { g with hostStep := param m (4 + f) 1 })))]

theorem powerSet_next (h : s.accepts m 0x0104 = true) (hlo : 1500 ≤ param m 0 4) (hhi : param m 0 4 ≤ Grade.capMax s.grade)
    (hcode : ∀ f, f < 8 → param m (4 + f) 1 = 0xFF ∨ (param m (4 + f) 1 ≤ 3 ∧ f < Grade.fields s.grade)) (hmin : s.power.minPower = false) :
    exec (.powerSet m) s = .next (((withThrottle 0 (powerSetFx m)).run s).answered m stOk
      ((List.range 8).map (fun f => BitVec.ofNat 8 (((withThrottle 0 (powerSetFx m)).run s).stepCode f)))) := by
  refine hostRow_next h ?_
  have hok : (List.range 8).all (fun f => param m (4 + f) 1 = 0xFF || (decide (param m (4 + f) 1 ≤ 3) && decide (f < Grade.fields s.grade)))
      = true := by simpa using hcode
  simp only [powerSet, Fx.run_look, cmdOf_p, hok, hmin]
  rw [if_neg (by simp; omega), if_neg Bool.false_ne_true, Fx.run_all_cons, Fx.run_all_cons, Fx.run_all_nil, Fx.run_look, accepts_ans h]
  rfl

theorem powerSetFx_run (s : State) (m : HostMsg) (hlen : s.fields.length = 8) {t : State} (ht : (powerSetFx m).run s = t) :
    { t with power := s.power, fields := s.fields } = s ∧ t.power = { s.power with hostCap := param m 0 4 } ∧
    ∀ f, f < 8 → (t.field f).hostStep = if param m (4 + f) 1 ≤ 3 then param m (4 + f) 1 else (s.field f).hostStep := by
  subst ht
  rw [powerSetFx, Fx.run_all_cons, Fx.run_all_cons, Fx.run_all_nil, Fx.run_power, run_each_when]
  obtain ⟨hframe, -, hfield⟩ := run_each_field ((List.range 8).filter (fun f => decide (param m (4 + f) 1 ≤ 3)))
    (List.nodup_range.filter _) (fun f g => { g with hostStep := param m (4 + f) 1 }) (s.modPower (fun p => { p with hostCap := param m 0 4 }))
  refine ⟨(congrArg (fun t : State => { t with power := s.power, fields := s.fields }) hframe).trans rfl, congrArg State.power hframe,
    fun f hf => ?_⟩
  rw [hfield, show (s.modPower (fun p => { p with hostCap := param m 0 4 })).fields.length = 8 from hlen]
  simp only [List.mem_filter, List.mem_range, decide_eq_true_eq, hf, true_and, and_true]
  split <;> rfl

/-! ## REG_WRITE -/

theorem regWrite_next (h : s.accepts m 0x0801 = true) {sel v : Nat}
    (hpairs : (cmdOf m).entries.map (fun e => (field e 0 4, field e 4 8)) = [(sel, v)]) (hsel : selectorOk sel = true) :
    exec (.regWrite m) s = .next (((writeReg sel v).run s).answered m stOk []) := by
  refine hostRow_next h ?_
  simp only [regWrite, cmdOf_msg, hpairs, accepts_fault? h]
  rw [if_neg (by simp), if_pos (by simpa using hsel), Fx.run_andThen, Fx.run_each_cons, Fx.run_each_nil, accepts_done h]

theorem writeReg_run {sel code i : Nat} (hcode : sel / 2 ^ 20 = code) (hi : sel % 2 ^ 20 / 8 = i)
    (hthere : regAbsent s.grade code i = false) (v : Nat) : (writeReg sel v).run s = (writeRegAt code i v).run s := by
  rw [writeReg, Fx.run_look, hcode, hi, Fx.run_when, if_pos (by simp [hthere])]

theorem readReg_eq {sel code i : Nat} (t : State) (hcode : sel / 2 ^ 20 = code) (hi : sel % 2 ^ 20 / 8 = i)
    (hthere : regAbsent t.grade code i = false) : t.readReg sel = t.regWord code i := by
  rw [State.readReg, hcode, hi, hthere]
  rfl

/-- A reply does not change what registers read. -/
theorem answered_readReg (t : State) (m : HostMsg) (status : Nat) (r : List Byte) (sel : Nat) :
    (t.answered m status r).readReg sel = t.readReg sel := by
  simp only [State.answered]
  split <;> rfl

/-- A link's expectation reads as it was written (R389, R546). -/
theorem partnerWord_written (l : Link) (v : Nat) :
    Link.partnerWord { l with expectNode := BitVec.ofNat 16 v, expectLink := bitsOf v 16 5, expectBlank := bitOf v 21 } % 2 ^ 22
      = v % 2 ^ 22 := by
  simp only [Link.partnerWord, bitsOf, bitOf, BitVec.toNat_ofNat]
  have hbit : b2n (decide (v / 2 ^ 21 % 2 = 1)) = v / 2 ^ 21 % 2 := by
    rcases Nat.mod_two_eq_zero_or_one (v / 2 ^ 21) with h | h <;> rw [h] <;> rfl
  rw [hbit]
  omega

end

/-- Settles O13: POWER_SET and REG_WRITE write what they name, and the register reads it back. -/
theorem powerCapAndRegisters : Obligations.PowerCapAndRegisters := by
  unfold Obligations.PowerCapAndRegisters
  refine ⟨fun s m ⟨_, _, hlen, _⟩ h hlo hhi hcode hmin => ?_, fun s m sel v h hv hpairs hsel => ⟨fun hcode hi hlen => ?_,
    fun hcode hi hlen => ?_, fun hcode => ?_⟩⟩
  · obtain ⟨u, hu⟩ : ∃ u, (powerSetFx m).run s = u := ⟨_, rfl⟩
    obtain ⟨hframe, hpower, hstep⟩ := powerSetFx_run s m hlen hu
    refine ⟨_, powerSet_next h hlo hhi hcode hmin, by simp [hu, hpower], fun f hf => ?_, ?_, ?_, ?_, ?_⟩
    · rw [answered_field, ← hstep f hf]
      exact (congrArg Field.hostStep (withThrottle_fieldFrame 0 (powerSetFx m) s f)).trans (by rw [hu]; rfl)
    · simpa [hu] using congrArg State.mem hframe
    · simpa [hu] using congrArg State.hub hframe
    · simpa [hu] using congrArg State.ctxs hframe
    · simpa [hu] using congrArg State.links hframe
  · have hthere : regAbsent s.grade 5 (sel % 2 ^ 20 / 8) = false := by simpa [regAbsent] using hi
    have hlt : sel % 2 ^ 20 / 8 < s.fields.length := hlen ▸ hi.trans_le (fields_le_eight s.grade)
    refine ⟨_, regWrite_next h hpairs hsel, ?_⟩
    rw [writeReg_run hcode rfl hthere, answered_readReg,
      readReg_eq ((writeRegAt 5 (sel % 2 ^ 20 / 8) v).run s) hcode rfl hthere]
    refine ⟨?_, by simp [writeRegAt], by simp [writeRegAt], by simp [writeRegAt]⟩
    simp only [State.regWord, writeRegAt, Fx.run_field]
    rw [State.field_modField s _ _ hlt, BitVec.toNat_ofNat]
  · have hthere : regAbsent s.grade 0x14 (sel % 2 ^ 20 / 8) = false := by
      simp only [Grade.links] at hi
      simp only [regAbsent]
      rw [if_neg (by decide)]
      exact decide_eq_false (by omega)
    have hlt : sel % 2 ^ 20 / 8 < s.links.length := by
      have := fields_le_eight s.grade
      simp only [Grade.links] at hi
      omega
    refine ⟨_, regWrite_next h hpairs hsel, ?_⟩
    rw [writeReg_run hcode rfl hthere, answered_readReg,
      readReg_eq ((writeRegAt 0x14 (sel % 2 ^ 20 / 8) v).run s) hcode rfl hthere]
    refine ⟨?_, by simp [writeRegAt], by simp [writeRegAt], by simp [writeRegAt]⟩
    simp only [State.regWord, writeRegAt, Fx.run_link]
    rw [State.link_modLink s _ _ hlt, partnerWord_written]
  · rw [regWrite_next h hpairs hsel, writeReg_run hcode rfl rfl]
    rfl

end Sys2Proof.Machine

/-! How the frames of effects are used: lists of parts that keep each part are the same list, sets of places that many effects share, and
commands that wait on. -/
namespace Sys2Proof.Machine

/-! ## Lists of parts -/

section
variable {s t : State}

theorem ext_getD {α : Type} {l k : List α} {d : α} (hlen : l.length = k.length) (h : ∀ i, l.getD i d = k.getD i d) : l = k := by
  refine List.ext_getElem hlen fun i hi hk => ?_
  have e := h i
  rwa [List.getD_eq_getElem _ _ hi, List.getD_eq_getElem _ _ hk] at e

theorem Fx.ctxs_eq {a : Fx} (h : ∀ c, (a.run s).ctx c = s.ctx c) : (a.run s).ctxs = s.ctxs := by
  obtain ⟨hlen, -, -, -, -⟩ := a.run_lengths s
  exact ext_getD hlen h

theorem Fx.fields_eq {a : Fx} (h : ∀ f, (a.run s).field f = s.field f) : (a.run s).fields = s.fields := by
  obtain ⟨-, hlen, -, -, -⟩ := a.run_lengths s
  exact ext_getD hlen h

theorem Fx.hbmStacks_eq {a : Fx} (h : ∀ k, (a.run s).stack k = s.stack k) : (a.run s).hbmStacks = s.hbmStacks := by
  obtain ⟨-, -, hlen, -, -⟩ := a.run_lengths s
  exact ext_getD hlen h

theorem Fx.links_eq {a : Fx} (h : ∀ i, (a.run s).link i = s.link i) : (a.run s).links = s.links := by
  obtain ⟨-, -, -, hlen, -⟩ := a.run_lengths s
  exact ext_getD hlen h

theorem Fx.rings_eq {a : Fx} (h : ∀ i, (a.run s).ring i = s.ring i) : (a.run s).rings = s.rings := by
  obtain ⟨-, -, -, -, hlen⟩ := a.run_lengths s
  exact ext_getD hlen h

variable {F : Place → Prop} {a : Fx}

theorem Fx.Within.ctxs_eq (h : a.Within F) (hF : ∀ c, ¬ F (.ctx c)) (s : State) : (a.run s).ctxs = s.ctxs :=
  Fx.ctxs_eq fun c => h (.ctx c) (hF c) s

theorem Fx.Within.fields_eq (h : a.Within F) (hF : ∀ f, ¬ F (.field f)) (s : State) : (a.run s).fields = s.fields :=
  Fx.fields_eq fun f => h (.field f) (hF f) s

theorem Fx.Within.hbmStacks_eq (h : a.Within F) (hF : ∀ k, ¬ F (.stack k)) (s : State) : (a.run s).hbmStacks = s.hbmStacks :=
  Fx.hbmStacks_eq fun k => h (.stack k) (hF k) s

theorem Fx.Within.links_eq (h : a.Within F) (hF : ∀ i, ¬ F (.link i)) (s : State) : (a.run s).links = s.links :=
  Fx.links_eq fun i => h (.link i) (hF i) s

theorem Fx.Within.rings_eq (h : a.Within F) (hF : ∀ i, ¬ F (.ring i)) (s : State) : (a.run s).rings = s.rings :=
  Fx.rings_eq fun i => h (.ring i) (hF i) s

end

/-! ## What a frame says, place by place -/

section
variable {F : Place → Prop} {a : Fx} (h : a.Within F) (s : State)
include h

theorem Fx.Within.out_eq (hF : ¬ F .out) : (a.run s).out = s.out := h .out hF s

theorem Fx.Within.freeCtr_eq (hF : ¬ F .freeCtr) : (a.run s).freeCtr = s.freeCtr := h .freeCtr hF s

theorem Fx.Within.now_eq (hF : ¬ F .now) : (a.run s).now = s.now := h .now hF s

theorem Fx.Within.mem_eq (hF : ¬ F .mem) : (a.run s).mem = s.mem := h .mem hF s

theorem Fx.Within.hub_eq (hF : ¬ F .hub) : (a.run s).hub = s.hub := h .hub hF s

theorem Fx.Within.port_eq (hF : ¬ F .port) : (a.run s).port = s.port := h .port hF s

theorem Fx.Within.power_eq (hF : ¬ F .power) : (a.run s).power = s.power := h .power hF s

theorem Fx.Within.sideband_eq (hF : ¬ F .sideband) : (a.run s).sideband = s.sideband := h .sideband hF s

theorem Fx.Within.evc_eq (hF : ¬ F .evc) : (a.run s).evc = s.evc := h .evc hF s

theorem Fx.Within.ditch_eq (hF : ¬ F .ditch) : (a.run s).ditch = s.ditch := h .ditch hF s

theorem Fx.Within.hubCore_eq (hF : ¬ F .hubCore) : (a.run s).hub.core = s.hub.core := h .hubCore hF s

theorem Fx.Within.hubFrame_eq (hF : ¬ F .hubFrame) : (a.run s).hub.frame = s.hub.frame := h .hubFrame hF s

theorem Fx.Within.portFrame_eq (hF : ¬ F .portFrame) : (a.run s).port.frame = s.port.frame := h .portFrame hF s

theorem Fx.Within.ctx_eq {i : Nat} (hF : ¬ F (.ctx i)) : ((a.run s).ctx i) = (s.ctx i) := h (.ctx i) hF s

theorem Fx.Within.field_eq {i : Nat} (hF : ¬ F (.field i)) : ((a.run s).field i) = (s.field i) := h (.field i) hF s

theorem Fx.Within.fieldFrame_eq {i : Nat} (hF : ¬ F (.fieldFrame i)) : ((a.run s).field i).frame = (s.field i).frame := h (.fieldFrame i) hF s

theorem Fx.Within.fieldWork_eq {i : Nat} (hF : ¬ F (.fieldWork i)) : ((a.run s).field i).work = (s.field i).work := h (.fieldWork i) hF s

theorem Fx.Within.stack_eq {i : Nat} (hF : ¬ F (.stack i)) : ((a.run s).stack i) = (s.stack i) := h (.stack i) hF s

theorem Fx.Within.link_eq {i : Nat} (hF : ¬ F (.link i)) : ((a.run s).link i) = (s.link i) := h (.link i) hF s

theorem Fx.Within.linkFrame_eq {i : Nat} (hF : ¬ F (.linkFrame i)) : ((a.run s).link i).frame = (s.link i).frame := h (.linkFrame i) hF s

theorem Fx.Within.linkTx_eq {i : Nat} (hF : ¬ F (.linkTx i)) : ((a.run s).link i).sending = (s.link i).sending := h (.linkTx i) hF s

theorem Fx.Within.linkRx_eq {i : Nat} (hF : ¬ F (.linkRx i)) : ((a.run s).link i).rx = (s.link i).rx := h (.linkRx i) hF s

theorem Fx.Within.linkInject_eq {i : Nat} (hF : ¬ F (.linkInject i)) : ((a.run s).link i).inject = (s.link i).inject := h (.linkInject i) hF s

theorem Fx.Within.linkEntries_eq {i : Nat} (hF : ¬ F (.linkEntries i)) : ((a.run s).link i).entries = (s.link i).entries := h (.linkEntries i) hF s

theorem Fx.Within.ring_eq {i : Nat} (hF : ¬ F (.ring i)) : ((a.run s).ring i) = (s.ring i) := h (.ring i) hF s

theorem Fx.Within.ringFrame_eq {i : Nat} (hF : ¬ F (.ringFrame i)) : ((a.run s).ring i).frame = (s.ring i).frame := h (.ringFrame i) hF s

end

/-! ## Sets of places -/

/-- What an answer to a command touches. -/
def Place.answered : Place → Prop
  | .out | .port | .hub | .link _ | .linkInject _ => True
  | _ => False

theorem answered_answers : Answers Place.answered := ⟨⟨trivial, fun _ => trivial, fun _ => trivial⟩, trivial, trivial⟩

/-- What a packet that is sent touches. -/
def Place.sent : Place → Prop
  | .hub | .link _ | .linkInject _ => True
  | _ => False

theorem sent_sends : Sends Place.sent := ⟨trivial, fun _ => trivial, fun _ => trivial⟩

/-- What an abort touches but for memory: that changes only by the tiles of a COPY, which `.tiles` speaks of. -/
def Place.aborted : Place → Prop
  | .out | .freeCtr | .mem | .data | .hub | .hubCore | .hubFrame | .port | .ctx _ | .field _ | .fieldWork _ | .link _ | .linkTx _ | .linkRx _
  | .linkInject _ | .linkEntries _ => True
  | _ => False

theorem aborted_aborts : Aborts Place.aborted := by
  refine ⟨⟨⟨⟨trivial, ?_, ?_⟩, trivial, trivial⟩, trivial, trivial, trivial, trivial, ?_, ?_, ?_⟩, ?_⟩ <;> exact fun _ => trivial

/-- Without a COPY that runs, an effect whose frame holds the tiles keeps memory. -/
theorem Fx.Within.mem_quiet {F : Place → Prop} {a : Fx} (h : a.Within F) (hF : ¬ F .tiles) {s : State} (hs : s.noCopyRuns = true) :
    (a.run s).mem = s.mem := (h .tiles hF s ((noCopyRuns_iff s).mp hs)).2

theorem Fx.Within.noCopyRuns {F : Place → Prop} {a : Fx} (h : a.Within F) (hF : ¬ F .tiles) {s : State} (hs : s.noCopyRuns = true) :
    (a.run s).noCopyRuns = true := (noCopyRuns_iff _).mpr (h .tiles hF s ((noCopyRuns_iff s).mp hs)).1

/-- Every place but the contexts that run. -/
def Place.offRuns : Place → Prop
  | .runs => False
  | _ => True

theorem offRuns_aborts : Aborts Place.offRuns := by
  refine ⟨⟨⟨⟨trivial, ?_, ?_⟩, trivial, trivial⟩, trivial, trivial, trivial, trivial, ?_, ?_, ?_⟩, ?_⟩ <;> exact fun _ => trivial

theorem offRuns_touches : Touches Place.offRuns := ⟨⟨trivial, fun _ => trivial, fun _ => trivial⟩, trivial, trivial, trivial, fun _ => trivial⟩

/-- Every place but memory as long as no COPY runs. -/
def Place.offTiles : Place → Prop
  | .tiles => False
  | _ => True

theorem offTiles_aborts : Aborts Place.offTiles := by
  refine ⟨⟨⟨⟨trivial, ?_, ?_⟩, trivial, trivial⟩, trivial, trivial, trivial, trivial, ?_, ?_, ?_⟩, ?_⟩ <;> exact fun _ => trivial

theorem offTiles_raises : Raises Place.offTiles := ⟨trivial, fun _ => trivial, fun _ => trivial⟩

theorem Fx.Within.mem_eq_offTiles {a : Fx} (h : a.Within Place.offTiles) {s : State} (hs : s.noCopyRuns = true) :
    (a.run s).mem = s.mem := h.mem_quiet id hs

/-! ## Announcements (R615) -/

section
variable (s t : State)

theorem announced_eq : s.announced t = { t with out := (s.announced t).out } := by
  simp only [State.announced]
  split <;> rfl

@[simp] theorem announced_mem : (s.announced t).mem = t.mem := by rw [announced_eq]

@[simp] theorem announced_now : (s.announced t).now = t.now := by rw [announced_eq]

@[simp] theorem announced_hub : (s.announced t).hub = t.hub := by rw [announced_eq]

@[simp] theorem announced_port : (s.announced t).port = t.port := by rw [announced_eq]

@[simp] theorem announced_power : (s.announced t).power = t.power := by rw [announced_eq]

@[simp] theorem announced_sideband : (s.announced t).sideband = t.sideband := by rw [announced_eq]

@[simp] theorem announced_ctxs : (s.announced t).ctxs = t.ctxs := by rw [announced_eq]

@[simp] theorem announced_fields : (s.announced t).fields = t.fields := by rw [announced_eq]

@[simp] theorem announced_hbmStacks : (s.announced t).hbmStacks = t.hbmStacks := by rw [announced_eq]

@[simp] theorem announced_links : (s.announced t).links = t.links := by rw [announced_eq]

@[simp] theorem announced_ctx (c : Nat) : (s.announced t).ctx c = t.ctx c := by rw [announced_eq]; rfl

@[simp] theorem announced_field (f : Nat) : (s.announced t).field f = t.field f := by rw [announced_eq]; rfl

@[simp] theorem announced_stack (k : Nat) : (s.announced t).stack k = t.stack k := by rw [announced_eq]; rfl

@[simp] theorem announced_link (i : Nat) : (s.announced t).link i = t.link i := by rw [announced_eq]; rfl

@[simp] theorem announced_ring (i : Nat) : (s.announced t).ring i = t.ring i := by rw [announced_eq]; rfl

@[simp] theorem announced_feed (f : Nat) : (s.announced t).feed f = t.feed f := by rw [announced_eq]; rfl

end

end Sys2Proof.Machine

/-! What aborts and teardowns do to the contexts (R420, R421, R467 to R473, R500), and the commands that wait on through them (R540). -/
namespace Sys2Proof.Machine
set_option Elab.async false -- the side conditions of the frames below are elaborated in place, not each in a thread of its own

/-! ## Commands that wait on -/

/-- A command of a kind that waits goes on waiting through the effect. -/
def Fx.Holds (k : WaitKind) (a : Fx) : Prop := ∀ s : State, (∃ w ∈ s.port.waits, w.kind = k) → ∃ w ∈ (a.run s).port.waits, w.kind = k

/-- A command that no teardown, no link that goes down and no fence ends. -/
def WaitKind.lasting : WaitKind → Bool
  | .mirrorCopy _ | .submitHost _ _ | .relayed _ _ | .fieldTest _ => false
  | _ => true

section
variable {k : WaitKind} {a b : Fx}

theorem Fx.Holds.skip : Fx.skip.Holds k := fun _ h => h

theorem Fx.Holds.andThen (ha : a.Holds k) (hb : b.Holds k) : (a.andThen b).Holds k := fun s h => hb (a.run s) (ha s h)

theorem Fx.Holds.look {f : State → Fx} (h : ∀ s, (f s).Holds k) : (Fx.look f).Holds k := fun s => h s s

theorem Fx.Holds.when {c : Bool} (h : a.Holds k) : (Fx.when c a).Holds k := by
  cases c
  · exact Fx.Holds.skip
  · exact h

theorem Fx.Holds.nil : (Fx.all []).Holds k := Fx.Holds.skip

theorem Fx.Holds.cons {l : List Fx} (ha : a.Holds k) (hl : (Fx.all l).Holds k) : (Fx.all (a :: l)).Holds k := ha.andThen hl

theorem Fx.Holds.each {α : Type} {l : List α} {f : α → Fx} (h : ∀ x, (f x).Holds k) : (Fx.each l f).Holds k := by
  induction l with
  | nil => exact Fx.Holds.nil
  | cons x l ih => exact (h x).andThen ih

theorem Fx.Holds.ite {c : Prop} [Decidable c] (ha : a.Holds k) (hb : b.Holds k) : (if c then a else b).Holds k := by
  split <;> assumption

/-- An effect that does not touch the port holds every command. -/
theorem Fx.Within.holds {F : Place → Prop} (h : a.Within F) (hF : ¬ F .port) : a.Holds k := fun s hs => (h .port hF s : _ = _) ▸ hs

/-- Every place but the port. -/
def Place.offPort : Place → Prop
  | .port => False
  | _ => True

theorem Fx.Within.holds_offPort (h : a.Within Place.offPort) : a.Holds k := h.holds id

theorem offPort_raises : Raises Place.offPort := ⟨trivial, fun _ => trivial, fun _ => trivial⟩

theorem offPort_sends : Sends Place.offPort := ⟨trivial, fun _ => trivial, fun _ => trivial⟩

theorem Fx.Holds.port {f : Port → Port} (h : ∀ p, ∀ w ∈ p.waits, w.kind = k → ∃ v ∈ (f p).waits, v.kind = k) : (Fx.port f).Holds k :=
  fun s ⟨w, hw, e⟩ => h s.port w hw e

theorem Fx.Holds.hub {f : Hub → Hub} : (Fx.hub f).Holds k := fun _ h => h

theorem Fx.Holds.ctx {c : Nat} {f : Ctx → Ctx} : (Fx.ctx c f).Holds k := fun _ h => h

theorem Fx.Holds.field {i : Nat} {f : Field → Field} : (Fx.field i f).Holds k := fun _ h => h

theorem Fx.Holds.stack {i : Nat} {f : Stack → Stack} : (Fx.stack i f).Holds k := fun _ h => h

theorem Fx.Holds.link {i : Nat} {f : Link → Link} : (Fx.link i f).Holds k := fun _ h => h

theorem Fx.Holds.ditch {f : Ditch → Ditch} : (Fx.ditch f).Holds k := fun _ h => h

theorem answer_holds (w : Wait) (status : Nat) (r : List Byte) : (w.answer status r).Holds k :=
  (reply_within offPort_sends trivial).holds_offPort

/-- The end of other commands leaves this one waiting. -/
theorem finishWaits_holds {cond : WaitKind → Bool} (h : cond k = false) (status : Nat) (r : List Byte) :
    (finishWaits cond status r).Holds k :=
  .look fun _ => .andThen (.port fun _ w hw e => ⟨w, List.mem_filter.mpr ⟨hw, by simp [e, h]⟩, e⟩) (.each fun w => answer_holds w _ _)

section
variable (hk : k.lasting = true)
include hk

theorem endCopies_holds (cond : Copy → Bool) (status : Nat) : (endCopies cond status).Holds k := by
  refine .look fun s => .cons (finishWaits_holds ?_ _ _) (.cons (.each fun _ => .link) (.cons .hub
    (.cons (.each fun _ => (releaseClaim_within offPort_sends).holds_offPort) .nil)))
  cases k <;> first | rfl | cases hk

theorem tearOne_holds (c cause : Nat) : (tearOne c cause).Holds k := by
  have hcopies (o : Op) : (finishCopies c o).Holds k :=
    (finishCopies_within offPort_sends trivial trivial trivial trivial trivial).holds_offPort
  refine .look fun s => .when (.cons (.each fun _ => .link) (.cons (.each fun _ _ h => h) (.cons (.each hcopies)
    (.cons (.port fun _ w hw e => ⟨w, hw, e⟩) (.cons (.each fun _ => .field) (.cons (endCopies_holds hk _ _) (.cons
      (finishWaits_holds ?_ _ _) (.cons .ctx .nil))))))))
  cases k <;> first | rfl | cases hk

theorem abortJob_holds (job cause : Nat) : (abortJob job cause).Holds k :=
  .when (.look fun _ => .cons .hub (.cons (.look fun _ => .hub) (.cons ((sendAbort_within trivial (fun _ => trivial) fun _ =>
    trivial).holds_offPort) (.cons (.look fun _ => .andThen ((freeJob_within (fun _ => trivial) (fun _ => trivial) fun _ =>
    trivial).holds_offPort) (.each fun _ => tearOne_holds hk _ _)) .nil))))

theorem tearCtx_holds (c cause : Nat) : (tearCtx c cause).Holds k :=
  .look fun _ => .when (.ite (tearOne_holds hk _ _) (abortJob_holds hk _ _))

theorem dropLink_holds (i state : Nat) : (dropLink i state).Holds k := by
  refine .look fun _ => .cons (.each fun _ => (takePacket_within trivial trivial (fun _ => trivial) trivial).holds_offPort) (.cons .link
    (.cons (.each fun _ => .link) (.cons (.each fun _ => abortJob_holds hk _ _) (.cons (endCopies_holds hk _ _) (.cons
      (finishWaits_holds ?_ _ _) .nil)))))
  cases k <;> first | rfl | cases hk

theorem fenceLink_holds (i : Nat) : (fenceLink i).Holds k :=
  .andThen (dropLink_holds hk i 4) (linkChange_within trivial trivial fun _ => trivial).holds_offPort

theorem fenceField_holds (f : Nat) : (fenceField f).Holds k := by
  have hevent : (fieldChange f).Holds k := (fieldChange_within trivial trivial fun _ => trivial).holds_offPort
  have hclamp (i : Nat) : (clampLink i).Holds k := .look fun _ => .andThen
    (.each fun _ => (takePacket_within trivial trivial (fun _ => trivial) trivial).holds_offPort) (.each fun _ => abortJob_holds hk _ _)
  refine .andThen (.look fun _ => .cons .field (.cons hevent (.cons (endCopies_holds hk _ _) (.cons
    (.each fun i => .andThen (fenceLink_holds hk i) (hclamp i)) (.cons (.each fun _ => .link) (.cons (.each fun _ => tearCtx_holds hk _ _)
    (.cons .ditch (.cons (finishWaits_holds ?_ _ _) (.cons .field .nil))))))))) (.look fun _ => .andThen .field hevent)
  cases k <;> first | rfl | cases hk

theorem checkSet_holds : checkSet.Holds k :=
  .look fun _ => .ite .skip (.ite (.andThen .hub (.look fun _ => .when fun _ h => h)) (.when (.cons .hub (.cons
    (.each fun _ => tearCtx_holds hk _ _) (.cons (addMin_within offPort_raises trivial).holds_offPort .nil)))))

end

end

/-! ## Contexts that are torn down -/

/-- Every place but a context, the counter and what COPY leaves in memory. -/
def Place.offCtx : Place → Prop
  | .ctx _ | .now => False
  | _ => True

theorem offCtx_tears : Tears Place.offCtx := by
  refine ⟨⟨⟨trivial, ?_, ?_⟩, trivial, trivial⟩, trivial, trivial, trivial, trivial, ?_, ?_, ?_⟩ <;> exact fun _ => trivial

theorem run_ctx_offCtx {a : Fx} (h : a.Within Place.offCtx) (s : State) (c : Nat) : (a.run s).ctx c = s.ctx c := h (.ctx c) id s

theorem run_now_offCtx {a : Fx} (h : a.Within Place.offCtx) (s : State) : (a.run s).now = s.now := h .now id s

theorem Ctx.runs_iff (x : Ctx) : (decide (x.state = .active) || decide (x.state = .stopped)) = true ↔ x.Runs := by simp [Ctx.Runs]

/-- A context that runs is one of the table. -/
theorem lt_of_runs {s : State} {c : Nat} (h : (s.ctx c).Runs) : c < s.ctxs.length := by
  by_contra hc
  have hdefault : s.ctx c = Ctx.reset := by simp [State.ctx, Nat.not_lt.mp hc]
  rw [hdefault] at h
  exact h.elim (by simp [Ctx.reset]) (by simp [Ctx.reset])

theorem run_all_concat (l : List Fx) (b : Fx) (s : State) : (Fx.all (l ++ [b])).run s = b.run ((Fx.all l).run s) := by
  induction l generalizing s with
  | nil => rfl
  | cons a l ih => rw [List.cons_append, Fx.run_all_cons, Fx.run_all_cons, ih]

/-- What comes before a teardown's change of its context. -/
theorem tearOne_run (c cause : Nat) (s : State) (h : (s.ctx c).Runs) :
    ∃ a : Fx, a.Within Place.offCtx ∧ (tearOne c cause).run s = (a.run s).modCtx c (Ctx.torn s.now cause) := by
  rw [tearOne, Fx.run_look]
  dsimp only
  rw [Fx.run_when, if_pos ((Ctx.runs_iff _).mpr h)]
  refine ⟨_, ?_, run_all_concat [_, _, _, _, _, _, _] (Fx.ctx c (Ctx.torn s.now cause)) s⟩
  have tears := offCtx_tears
  exact .cons (.each fun _ => .link trivial (hi := .inl trivial) (he := .inl trivial)) (.cons (.each fun _ => .bumpFree trivial)
    (.cons (.each fun _ => finishCopies_within tears.toSends trivial trivial trivial trivial trivial) (.cons (.port trivial)
    (.cons (.each fun _ => .field trivial (hw := .inl trivial) (hb := .inl trivial)) (.cons (dropCopies_within tears.toAnswers trivial)
    (.cons (finishWaits_within tears.toAnswers) .nil))))))

/-- A context after an abort in which the contexts of a condition are torn down (R468). -/
def Ctx.tornIf (now cause : Nat) (p : Prop) [Decidable p] (x : Ctx) : Ctx :=
  if p ∧ (x.state = .active ∨ x.state = .stopped) then x.torn now cause else x

theorem tearOne_ctx (c cause : Nat) (s : State) :
    (∀ d, ((tearOne c cause).run s).ctx d = (s.ctx d).tornIf s.now cause (d = c)) ∧ ((tearOne c cause).run s).now = s.now := by
  by_cases h : (s.ctx c).Runs
  · obtain ⟨a, ha, e⟩ := tearOne_run c cause s h
    rw [e]
    refine ⟨fun d => ?_, run_now_offCtx ha s⟩
    by_cases hd : d = c
    · subst hd
      have hlt : d < (a.run s).ctxs.length := (a.run_lengths s).1 ▸ lt_of_runs h
      rw [State.ctx_modCtx _ _ _ hlt, run_ctx_offCtx ha, Ctx.tornIf, if_pos ⟨rfl, h⟩]
    · rw [State.ctx_modCtx_ne _ _ _ _ (Ne.symm hd), run_ctx_offCtx ha, Ctx.tornIf, if_neg (fun k => hd k.1)]
  · have e : (tearOne c cause).run s = s := by
      rw [tearOne, Fx.run_look]
      dsimp only
      rw [Fx.run_when, if_neg (fun k => h ((Ctx.runs_iff _).mp k))]
    rw [e]
    refine ⟨fun d => ?_, rfl⟩
    rw [Ctx.tornIf, if_neg]
    rintro ⟨rfl, k⟩
    exact h k

theorem Ctx.torn_tornIf (now cause : Nat) (p : Prop) [Decidable p] (x : Ctx) : (x.torn now cause).tornIf now cause p = x.torn now cause :=
  if_neg (fun h => Ctx.not_torn_runs now cause x h.2)

theorem each_tearOne_ctx (l : List Nat) (cause : Nat) (s : State) :
    (∀ d, ((Fx.each l (fun c => tearOne c cause)).run s).ctx d = (s.ctx d).tornIf s.now cause (d ∈ l)) ∧
      ((Fx.each l (fun c => tearOne c cause)).run s).now = s.now := by
  induction l generalizing s with
  | nil => exact ⟨fun d => (if_neg (by simp)).symm, rfl⟩
  | cons c l ih =>
    obtain ⟨hctx, hnow⟩ := tearOne_ctx c cause s
    obtain ⟨hrest, hthen⟩ := ih ((tearOne c cause).run s)
    rw [Fx.run_each_cons]
    refine ⟨fun d => ?_, hthen.trans hnow⟩
    rw [hrest, hnow, hctx]
    by_cases hr : (s.ctx d).Runs
    · by_cases hd : d = c
      · rw [show (s.ctx d).tornIf s.now cause (d = c) = (s.ctx d).torn s.now cause from if_pos ⟨hd, hr⟩, Ctx.torn_tornIf]
        exact (if_pos ⟨hd ▸ List.mem_cons_self, hr⟩).symm
      · rw [show (s.ctx d).tornIf s.now cause (d = c) = s.ctx d from if_neg (fun h => hd h.1)]
        simp only [Ctx.tornIf, List.mem_cons, hd, false_or]
    · have hkeep (p : Prop) [Decidable p] : (s.ctx d).tornIf s.now cause p = s.ctx d := if_neg (fun h => hr h.2)
      rw [hkeep, hkeep, hkeep]

theorem mem_boundTo {s : State} {job d : Nat} :
    d ∈ s.boundTo job ↔ d < 16 ∧ (s.ctx d).state ≠ .free ∧ (s.ctx d).job.toNat = job := by
  simp [State.boundTo]

theorem tearJob_ctx (job cause : Nat) (s : State) :
    (∀ d, ((tearJob job cause).run s).ctx d = (s.ctx d).tornIf s.now cause (d < 16 ∧ (s.ctx d).job.toNat = job)) ∧
      ((tearJob job cause).run s).now = s.now := by
  rw [tearJob, Fx.run_look, Fx.run_andThen]
  have hfree : (freeJob job).Within Place.offCtx := freeJob_within (fun _ => trivial) (fun _ => trivial) fun _ => trivial
  obtain ⟨hctx, hnow⟩ := each_tearOne_ctx (s.boundTo job) cause ((freeJob job).run s)
  rw [run_now_offCtx hfree] at hctx hnow
  refine ⟨fun d => ?_, hnow⟩
  rw [hctx, run_ctx_offCtx hfree]
  by_cases hr : (s.ctx d).state = .active ∨ (s.ctx d).state = .stopped
  · have hused : (s.ctx d).state ≠ .free := by rcases hr with h | h <;> simp [h]
    simp [Ctx.tornIf, mem_boundTo, hused, hr]
  · simp [Ctx.tornIf, hr]

/-- An abort tears down every context of the sixteen that is bound to its job, and no other (R420, R421). -/
theorem abortJob_ctx (job cause : Nat) (s : State) :
    (∀ d, ((abortJob job cause).run s).ctx d = (s.ctx d).tornIf s.now cause (job ≠ 0 ∧ d < 16 ∧ (s.ctx d).job.toNat = job)) ∧
      ((abortJob job cause).run s).now = s.now := by
  by_cases hj : job = 0
  · subst hj
    exact ⟨fun d => by simp [abortJob, Fx.when, Fx.run_skip, Ctx.tornIf], rfl⟩
  · rw [abortJob, Fx.run_when, if_pos (by simpa using hj), Fx.run_look]
    dsimp only
    rw [Fx.run_all_cons, Fx.run_all_cons, Fx.run_all_cons, Fx.run_all_cons, Fx.run_all_nil]
    generalize hu : Fx.run (sendAbort _ none) _ = u
    have hu' : (∀ d, u.ctx d = s.ctx d) ∧ u.now = s.now := by
      have hsend (r : AbortRecord) : (sendAbort r none).Within Place.offCtx :=
        sendAbort_within trivial (fun _ => trivial) fun _ => trivial
      rw [← hu]
      exact ⟨fun d => run_ctx_offCtx (hsend _) _ d, run_now_offCtx (hsend _) _⟩
    obtain ⟨hctx, hnow⟩ := tearJob_ctx job cause u
    refine ⟨fun d => ?_, hnow.trans hu'.2⟩
    rw [hctx, hu'.1, hu'.2]
    simp [hj]

theorem tearCtx_idle {c cause : Nat} {s : State} (h : ¬ (s.ctx c).Runs) : (tearCtx c cause).run s = s := by
  rw [tearCtx, Fx.run_look]
  dsimp only
  rw [Fx.run_when, if_neg (fun k => h ((Ctx.runs_iff _).mp k))]

theorem tearCtx_unbound {c cause : Nat} {s : State} (h : (s.ctx c).Runs) (hj : (s.ctx c).job = 0#16) :
    (tearCtx c cause).run s = (tearOne c cause).run s := by
  rw [tearCtx, Fx.run_look]
  dsimp only
  rw [Fx.run_when, if_pos ((Ctx.runs_iff _).mpr h), if_pos hj]

theorem tearCtx_bound {c cause : Nat} {s : State} (h : (s.ctx c).Runs) (hj : (s.ctx c).job ≠ 0#16) :
    (tearCtx c cause).run s = (abortJob (s.ctx c).job.toNat cause).run s := by
  rw [tearCtx, Fx.run_look]
  dsimp only
  rw [Fx.run_when, if_pos ((Ctx.runs_iff _).mpr h), if_neg hj]

theorem Ctx.not_tornIf_runs {now cause : Nat} {p : Prop} [Decidable p] (h : p) (x : Ctx) : ¬ (x.tornIf now cause p).Runs := by
  by_cases hr : x.Runs
  · rw [show x.tornIf now cause p = x.torn now cause from if_pos ⟨h, hr⟩]
    exact Ctx.not_torn_runs _ _ _
  · rwa [show x.tornIf now cause p = x from if_neg (fun k => hr k.2)]

theorem toNat_ne_zero {n : Nat} {x : BitVec n} (h : x ≠ 0#n) : x.toNat ≠ 0 := fun e => h (BitVec.eq_of_toNat_eq (by simpa using e))

/-- A context that is torn down runs no more (R468). -/
theorem tearCtx_stops {c : Nat} (hc : c < 16) (cause : Nat) (s : State) : ¬ (((tearCtx c cause).run s).ctx c).Runs := by
  by_cases hr : (s.ctx c).Runs
  · by_cases hj : (s.ctx c).job = 0#16
    · rw [tearCtx_unbound hr hj, (tearOne_ctx c cause s).1]
      exact Ctx.not_tornIf_runs rfl _
    · rw [tearCtx_bound hr hj, (abortJob_ctx _ cause s).1]
      exact Ctx.not_tornIf_runs ⟨toNat_ne_zero hj, hc, rfl⟩ _
  · rwa [tearCtx_idle hr]

theorem tearCtx_aborted (c : Nat) (hc : c < 16) (cause : Nat) : (tearCtx c cause).Within Place.aborted :=
  tearCtx_within aborted_aborts (.inr hc) fun _ => trivial

/-- Of contexts that are torn down one after the other none runs. -/
theorem each_tearCtx_stops {l : List Nat} (hl : ∀ c ∈ l, c < 16) (cause : Nat) (s : State) :
    ∀ c ∈ l, ¬ (((Fx.each l (fun c => tearCtx c cause)).run s).ctx c).Runs := by
  induction l generalizing s with
  | nil => exact fun c hc => nomatch hc
  | cons c l ih =>
    obtain ⟨hc, hrest⟩ := List.forall_mem_cons.mp hl
    rw [Fx.run_each_cons]
    intro d hd hruns
    rcases List.mem_cons.mp hd with rfl | hd
    · have hthen : (Fx.each l (fun c => tearCtx c cause)).Within Place.aborted :=
        .each_mem fun e he => tearCtx_aborted e (hrest e he) cause
      exact tearCtx_stops hc cause s (hthen .runs id _ d hruns)
    · exact ih hrest _ d hd hruns

/-- A module that holds its smallest working set, or runs a warm reset, changes nothing (R500). -/
theorem checkSet_held {s : State} (h : s.hub.warm = true ∨ s.hub.served = true ∧ s.workingSet = true)
    (hmin : s.power.minCauses.contains 10 = false) : checkSet.run s = s := by
  rw [checkSet, Fx.run_look]
  split
  · rw [Fx.run_skip]
  · rename_i hgo
    have hset : s.hub.served = true ∧ s.workingSet = true := h.resolve_left fun hw => hgo (by simp [hw])
    rw [if_pos hset.2, Fx.run_andThen, Fx.run_hub, dropMin, Fx.run_look, Fx.run_when, if_neg (by simpa using hmin)]
    have hhub : ({ s.hub with served := true } : Hub) = s.hub := by rw [← hset.1]
    simp [State.modHub, hhub]

theorem Aborts.mono {F G : Place → Prop} (h : Aborts F) (hG : ∀ p, F p → G p) : Aborts G :=
  ⟨h.toTears.mono hG, fun i => hG _ (h.linkTx i)⟩

/-- What the loss of the smallest working set touches. -/
def Place.checked (p : Place) : Prop := p.aborted ∨ p.raised ∨ p = .power

theorem checkSet_checked : checkSet.Within Place.checked :=
  checkSet_within (aborted_aborts.mono fun _ => .inl) ⟨.inr (.inl trivial), fun _ => .inr (.inl trivial), fun _ => .inr (.inl trivial)⟩
    (.inl trivial) (.inr (.inr rfl)) fun _ => .inl trivial

end Sys2Proof.Machine

/-! Proofs about the end of a set's power transition (R362, R363). -/
namespace Sys2Proof.Machine

/-- The set as its last transition leaves it. -/
def SetPower.ended (goal : SetState) (p : SetPower) : SetPower :=
  { p with state := goal, target := none, contentsLost := p.contentsLost || decide (goal = SetState.off), lost := false }

/-- The last transition of a set, for which no command waits further: contents that went through off are poison, the command is
answered, and the set stands in its target. -/
theorem endTransition_run {s : State} {f i : Nat} {p : SetPower} {goal : SetState} (hp : (s.field f).sets.getD i SetPower.reset = p)
    (htarget : p.target = some goal) (hsteps : p.steps = []) (hwaiting : p.waiting = none) :
    (endTransition f i).run s = ((answerSet f i (lostStatus p.lost)).run
      ((Fx.when (decide (goal = SetState.off) || decide (p.state = SetState.off)) (poisonSet f i)).run s)).modField f
        (fun g => { g with sets := g.sets.set i (p.ended goal) }) := by
  rw [endTransition, Fx.run_look, hp]
  simp only [htarget, hsteps, hwaiting, Fx.run_andThen, Fx.run_field, SetPower.ended]

/-- Contents that a transition took through off. -/
theorem when_poisonSet_run (b : Bool) (f i : Nat) (s : State) : (Fx.when b (poisonSet f i)).run s =
    { s with mem := (if b then s.mem.poison (memKey 1 (f * 2 ^ 32 + i * 268435456) / 8) (memKey 1 (f * 2 ^ 32 + (i + 1) * 268435456) / 8)
      else s.mem) } := by
  cases b <;> rfl

/-- Settles O22: the poison, the answer and the set are three parts, each with its frame. -/
theorem setTransitionEnds : Obligations.SetTransitionEnds := by
  unfold Obligations.SetTransitionEnds
  intro s f i p goal hf hi hp htarget hsteps hwaiting
  have hanswer : (answerSet f i (lostStatus p.lost)).Within Place.answered := answerSet_within answered_answers
  have hrun := endTransition_run hp htarget hsteps hwaiting
  rw [when_poisonSet_run] at hrun
  generalize hu : ({ s with mem := _ } : State) = u at hrun
  have hset : (((answerSet f i (lostStatus p.lost)).run u).modField f (fun g => { g with sets := g.sets.set i (p.ended goal) })).field f
      = { s.field f with sets := (s.field f).sets.set i (p.ended goal) } := by
    rw [State.field_modField _ _ _ (by rw [hanswer.fields_eq (fun _ => id), ← hu]; exact hf),
      show ((answerSet f i (lostStatus p.lost)).run u).field f = u.field f from hanswer (.field f) id u, ← hu]
    rfl
  refine ⟨_, congrArg Host.Outcome.next hrun, ?_⟩
  rw [hset]
  have hmem : ((answerSet f i (lostStatus p.lost)).run u).mem = _ := (hanswer .mem id u).trans (congrArg State.mem hu.symm)
  refine ⟨by simp [hi, SetPower.ended], by simp [hi, SetPower.ended], fun hg hs => ?_, fun h => ?_, ?_, ?_⟩
  · exact hmem.trans (if_neg (by simp [hg, hs]))
  · exact hmem.trans (if_pos (by simpa using h))
  · exact (hanswer.ctxs_eq (fun _ => id) u).trans (congrArg State.ctxs hu.symm :)
  · exact (congrArg Hub.node (hanswer .hubFrame id u :)).trans (congrArg (fun t : State => t.hub.node) hu.symm :)

end Sys2Proof.Machine

/-! Proofs about host commands that wait for their end (R363, R373, R506, R523, R536, R574). -/
namespace Sys2Proof.Machine

section
variable {s : State} {m : HostMsg}

/-! ## Power of sets and field tests -/

theorem setPower_next (h : s.accepts m 0x0400 = true) (hf : param m 0 1 < Grade.fields s.grade) (hi : param m 1 1 ≤ 14)
    (hwant : param m 2 1 ≤ 2) (hfenced : (s.field (param m 0 1)).state ≠ 2) (hreset : (s.field (param m 0 1)).state ≠ 3)
    (hnone : ((s.field (param m 0 1)).sets.getD (param m 1 1) SetPower.reset).target = none)
    (hother : ((s.field (param m 0 1)).sets.getD (param m 1 1) SetPower.reset).state ≠ setStateOf (param m 2 1)) :
    exec (.setPower m) s = .next ((s.modField (param m 0 1) (fun g =>
      { g with sets := g.sets.set (param m 1 1) (((s.field (param m 0 1)).sets.getD (param m 1 1) SetPower.reset).start
        (setStateOf (param m 2 1)) false) })).waiting m (.setPower (param m 0 1) (param m 1 1))) := by
  refine hostRow_next h ?_
  simp only [setPower, Fx.run_look, cmdOf_p, hnone]
  rw [if_neg (by simp; omega), if_neg (by simp [hfenced, hreset]), if_neg hother, Fx.run_andThen, Fx.run_field, waits_run]

theorem fieldTest_next (h : s.accepts m 0x0600 = true) (hf : param m 0 1 < Grade.fields s.grade) (hkind : param m 1 1 ≤ 1)
    (hfail : param m 2 1 ≤ 1) (hstate : (s.field (param m 0 1)).state ≤ 1) (hnone : (s.field (param m 0 1)).test = none) :
    exec (.fieldTest m) s = .next ((s.modField (param m 0 1) (fun g =>
      { g with test := some { kind := param m 1 1, onFail := param m 2 1, deadline := param m 8 8, accepted := s.now
                              borrowed := none } })).waiting m (.fieldTest (param m 0 1))) := by
  refine hostRow_next h ?_
  simp only [fieldTest, Fx.run_look, cmdOf_p, hnone]
  have := fields_le_eight s.grade
  rw [if_neg (by simp; omega), if_neg (by simp; omega), if_neg (by simp), Fx.run_andThen, Fx.run_field, waits_run]

/-! ## Retirement -/

/-- The module in service that takes a message holds its smallest working set (R500). -/
theorem minCauses_of_accepts {op : Nat} (h : s.accepts m op = true) : s.power.minCauses.contains 10 = false := by
  have htakes : s.takesSends m.qp = true := by
    simp only [State.accepts, Bool.and_eq_true] at h
    exact h.1.1.1.1.1.1.1.1.1.1.1.1.1.2
  simp only [State.takesSends, State.outcast, Bool.and_eq_true, Bool.not_eq_true'] at htakes
  exact htakes.1.1.2

/-- The state in which a stack retires a pseudo-channel and the command waits for it. -/
def State.retiringOf (s : State) (m : HostMsg) : State :=
  (s.modStack (param m 0 1) (fun k => { k with state := 1, retiring := some (BitVec.ofNat 6 (param m 1 1)) })).waiting m
    (.hbmRetire (param m 0 1))

theorem hbmRetire_next (h : s.accepts m 0x0604 = true) (hk : param m 0 1 < Grade.hbmStacks s.grade) (hpc : param m 1 1 ≤ 63)
    (hstate : (s.stack (param m 0 1)).state = 0) (hretiring : (s.stack (param m 0 1)).retiring = none)
    (ha : (s.stack (param m 0 1)).retiredA = none) (hb : (s.stack (param m 0 1)).retiredB = none) :
    exec (.hbmRetire m) s = .next (checkSet.run (s.retiringOf m)) := by
  refine hostRow_next h ?_
  simp only [hbmRetire, Fx.run_look, cmdOf_p, hstate, hretiring, ha, hb]
  rw [if_neg (by simp; omega), if_neg (by simp), Fx.run_andThen, Fx.run_stack, Fx.run_andThen, waits_run]
  rfl

/-- A command that a row leaves waiting waits. -/
theorem mem_waiting (s : State) (m : HostMsg) (k : WaitKind) : ∃ w ∈ (s.waiting m k).port.waits, w.kind = k :=
  ⟨_, List.mem_append_right _ (List.mem_singleton.mpr rfl), rfl⟩

/-! ## Reads of host memory -/

/-- The RDMA READ of a command on host memory: it is sent where the queue pair has room for it (R533). -/
def State.askedRead (s : State) (ga len : Nat) (w : Window) : PortRead :=
  { qp := w.qp, key := w.key, va := w.va.toNat + gaOffset ga % 2 ^ 40, len := len, tag := s.hub.nextTag
    sent := decide (s.port.reads.countP (fun k => k.sent && k.qp == w.qp) < 16) }

/-- The command that waits for host memory. -/
def State.askedWait (s : State) (m : HostMsg) (kind : WaitKind) (len : Nat) : Wait :=
  { kind := kind, tag := BitVec.ofNat 32 (cmdOf m).tag, opcode := BitVec.ofNat 16 (cmdOf m).op, ctx := BitVec.ofNat 8 (cmdOf m).ctx
    dest := (cmdOf m).dest, key := s.hub.nextTag, got := [], left := len, parity := m.fault? 1 }

/-- The module with a command that waits for host memory, and its RDMA READ. -/
def State.asking (s : State) (m : HostMsg) (kind : WaitKind) (ga len : Nat) (w : Window) : State :=
  { s with
    out := s.out ++ s.asks w.qp (.rdmaRead w.qp w.key (w.va.toNat + gaOffset ga % 2 ^ 40) len s.hub.nextTag)
    hub := { s.hub with nextTag := s.hub.nextTag + 1#32 }
    port := { s.port with reads := s.port.reads ++ [s.askedRead ga len w], waits := s.port.waits ++ [s.askedWait m kind len] } }

theorem askedRead_mem (s : State) (m : HostMsg) (kind : WaitKind) (ga len : Nat) (w : Window) :
    s.askedRead ga len w ∈ (s.asking m kind ga len w).port.reads := List.mem_append_right _ (List.mem_singleton.mpr rfl)

theorem askedWait_mem (s : State) (m : HostMsg) (kind : WaitKind) (ga len : Nat) (w : Window) :
    s.askedWait m kind len ∈ (s.asking m kind ga len w).port.waits := List.mem_append_right _ (List.mem_singleton.mpr rfl)

theorem askHost_run (s : State) (qp : Nat) (key : U32) (va len : Nat) (tag : U32) :
    (askHost qp key va len tag).run s = { s with
      out := s.out ++ s.asks qp (.rdmaRead qp key va len tag)
      port := { s.port with reads := s.port.reads ++ [{ qp := qp, key := key, va := va, len := len, tag := tag
                                                        sent := decide (s.port.reads.countP (fun k => k.sent && k.qp == qp) < 16) }] } } := by
  rw [askHost, Fx.run_look]
  simp only [Fx.run_andThen, Fx.run_port, Fx.run_when, State.asks]
  by_cases hroom : s.port.reads.countP (fun k => k.sent && k.qp == qp) < 16
  · simp only [hroom, decide_true, if_true]
    rfl
  · simp only [hroom, decide_false, if_false, List.append_nil]
    rfl

theorem hostRead_run {kind : WaitKind} {ga len : Nat} {w : Window} (hown : s.isOwn ga = true) (hspace : gaSpace ga = 3)
    (hw : s.window? (gaOffset ga) len = some w) : (hostRead (cmdOf m) kind ga len).run s = s.asking m kind ga len w := by
  rw [hostRead, Fx.run_look, if_pos (by simp [hown, hspace]), hw]
  simp only [withTag, Fx.run_look, Fx.run_andThen, Fx.run_port, askHost_run, Fx.run_hub]
  rfl

theorem submitHost_next (h : s.accepts m 0x0302 = true) (hlo : 1 ≤ param m 0 4) (hhi : param m 0 4 ≤ 65536)
    (hown : s.isOwn (param m 8 8) = true) (hspace : gaSpace (param m 8 8) = 3) {w : Window}
    (hw : s.window? (gaOffset (param m 8 8)) (128 * param m 0 4) = some w) :
    exec (.submitHost m) s = .next (s.asking m (.submitHost m.ctx (param m 0 4)) (param m 8 8) (128 * param m 0 4) w) := by
  refine hostRow_next h ?_
  simp only [submitHost, cmdOf_p, cmdOf_ctx]
  rw [if_neg (by simp; omega), hostRead_run hown hspace hw]

theorem fwUpdate_next (h : s.accepts m 0x0702 = true) (hkind : param m 0 1 ≤ 2) (hlen : 0 < param m 16 8)
    (hidle : ∀ x ∈ s.port.waits, ∀ k, x.kind ≠ .fwUpdate k) (hown : s.isOwn (param m 8 8) = true) (hspace : gaSpace (param m 8 8) = 3)
    {w : Window} (hw : s.window? (gaOffset (param m 8 8)) (param m 16 8) = some w) :
    exec (.fwUpdate m) s = .next (s.asking m (.fwUpdate (param m 0 1)) (param m 8 8) (param m 16 8) w) := by
  refine hostRow_next h ?_
  simp only [fwUpdate, Fx.run_look, cmdOf_p]
  rw [if_neg (by simp; omega), if_neg, hostRead_run hown hspace hw]
  intro hany
  obtain ⟨x, hx, hmatch⟩ := List.any_eq_true.mp hany
  split at hmatch
  · exact hidle x hx _ (by assumption)
  · cases hmatch

/-! ## Mirror copies -/

/-- The copy that MIRROR_COPY describes (R506). -/
def copyOf (m : HostMsg) : Copy :=
  { ctx := if decide (m.ctx < 16) then some m.ctx else none, field := param m 0 1, links := (cmdOf m).copyLinks
    target := BitVec.ofNat 16 (param m 6 2), region := param m 8 1, src := param m 16 8, len := param m 24 8
    serial := BitVec.ofNat 32 (param m 32 4), dst := param m 40 8, running := false, stage := 0, next := param m 16 8, sent := 0
    round := [], acks := 0, step := 0#32, updates := 0#32, keeper := [] }

theorem mirrorCopy_next (h : s.accepts m 0x0606 = true) (hctx : m.ctx = 0xFF) (hf : param m 0 1 < Grade.fields s.grade)
    (hlinks : param m 1 1 = 0) (hregion : param m 8 1 ≤ 15) (hbase : param m 16 8 % 64 = 0) (hlen : 0 < param m 24 8)
    (hmapped : mapped s.grade 0 (param m 16 8) (param m 24 8) = true) (hnode : s.hub.node ≠ 0xFFFF#16)
    (hroute : (s.routeFor (param m 6 2) 0).isSome = true) :
    exec (.mirrorCopy m) s = .next ((progress (param m 0 1) 7).run ((s.modHub (fun h =>
      { h with nextCopy := s.hub.nextCopy + 1, copies := h.copies ++ [(s.hub.nextCopy, copyOf m)] })).waiting m
        (.mirrorCopy s.hub.nextCopy))) := by
  refine hostRow_next h ?_
  have hnone : (cmdOf m).copyLinks = [] := by simp [Cmd.copyLinks, cmdOf_p, hlinks]
  simp only [mirrorCopy, Fx.run_look, cmdOf_p, cmdOf_ctx, hnone]
  rw [if_neg (by simp [hf, hlinks, hregion, hctx, hbase, hlen, hmapped]), if_neg (by simp [hnode, Option.isSome_iff_ne_none.mp hroute]), Fx.run_all_cons,
    Fx.run_hub, Fx.run_all_cons, waits_run, Fx.run_all_cons, Fx.run_all_nil]
  simp only [copyOf, hnone]
  rfl

end

/-- Settles O10: each command leaves its request, and what it leaves is read off; only the retirement checks the working set then. -/
theorem hostWaits : Obligations.HostWaits := by
  unfold Obligations.HostWaits
  intro s m
  refine ⟨setPower_next, fieldTest_next, fun h hk hpc hstate hretiring ha hb u hu => ?_, ?_, ?_, ?_⟩
  · have hnext := hbmRetire_next h hk hpc hstate hretiring ha hb
    obtain rfl : s.retiringOf m = u := hu
    refine ⟨fun hset => ?_, _, hnext, checkSet_checked.hbmStacks_eq (fun _ => by simp [Place.checked, Place.aborted, Place.raised]) _,
      checkSet_holds rfl _ (mem_waiting _ _ _), fun hq => ?_⟩
    · have hmin : (s.retiringOf m).power.minCauses.contains 10 = false := minCauses_of_accepts (s := s) h
      have hheld : checkSet.run (s.retiringOf m) = s.retiringOf m := by
        refine checkSet_held ?_ hmin
        simp only [State.holdsSet, Bool.or_eq_true, Bool.and_eq_true] at hset
        exact hset
      rw [hnext, hheld]
    · exact (checkSet_checked.mem_quiet (by simp [Place.checked, Place.aborted, Place.raised]) (s := s.retiringOf m) hq).trans rfl
  · intro h hlo hhi hown hspace w hw
    exact ⟨_, submitHost_next h hlo hhi hown hspace hw, rfl, ⟨_, askedRead_mem .., rfl, rfl, rfl⟩, by simp [State.asking],
      ⟨_, askedWait_mem .., rfl, rfl, rfl⟩, rfl, rfl, rfl, rfl⟩
  · intro h hkind hlen hidle hown hspace w hw
    exact ⟨_, fwUpdate_next h hkind hlen hidle hown hspace hw, rfl, ⟨_, askedWait_mem .., rfl, rfl, rfl⟩, rfl, rfl, rfl, rfl⟩
  · intro h hctx hf hlinks hregion hbase hlen hmapped hnode hroute
    refine ⟨_, copyOf m, mirrorCopy_next h hctx hf hlinks hregion hbase hlen hmapped hnode hroute, ?_⟩
    have hfx : (progress (param m 0 1) 7).Within Place.raised := progress_within trivial
    refine ⟨congrArg Hub.copies (hfx .hub id _ :), rfl, by simp [copyOf, hctx], rfl, rfl, rfl, rfl, ?_, (hfx .out id _ :), (hfx .mem id _ :),
      hfx.ctxs_eq (fun _ => id) _, hfx.links_eq (fun _ => id) _⟩
    rw [(hfx .port id _ : _ = _)]
    exact mem_waiting _ _ _

end Sys2Proof.Machine

/-! Proofs about module resets (R490, R567, R568, R593, R620 to R622): none leaves a context running. -/
namespace Sys2Proof.Machine
set_option Elab.async false -- the side conditions of the frames below are elaborated in place, not each in a thread of its own

/-! ## Effects after which no context runs -/

/-- After the effect none of the sixteen contexts runs. -/
def Fx.Stops (a : Fx) : Prop := ∀ s c, c < 16 → ¬ ((a.run s).ctx c).Runs

theorem Fx.Stops.look {f : State → Fx} (h : ∀ s, (f s).Stops) : (Fx.look f).Stops := fun s => h s s

theorem Fx.Stops.cons_here {a : Fx} {l : List Fx} (ha : a.Stops) (hl : (Fx.all l).Within Place.offRuns) : (Fx.all (a :: l)).Stops :=
  fun s c hc hruns => ha s c hc (hl .runs id _ c hruns)

theorem Fx.Stops.cons_later {a : Fx} {l : List Fx} (h : (Fx.all l).Stops) : (Fx.all (a :: l)).Stops := fun s => h (a.run s)

/-- The teardown of the sixteen contexts. -/
theorem stops_tearAll (cause : Nat) : (Fx.each (List.range 16) (fun c => tearCtx c cause)).Stops := fun s c hc =>
  each_tearCtx_stops (fun _ hd => List.mem_range.mp hd) cause s c (List.mem_range.mpr hc)

/-- A warm reset tears down every context before its fields reset (R490). -/
theorem startWarm_stops (found : BootCheck) : (startWarm found).Stops := by
  have abort := offRuns_aborts
  have fence (f : Nat) : (fenceField f).Within Place.offRuns :=
    fenceField_within abort offRuns_touches.toRaises trivial (fun _ => trivial) trivial (fun _ => trivial) fun _ => trivial
  have hub {f : Hub → Hub} : (Fx.hub f).Within Place.offRuns := .hub trivial (hc := .inl trivial) (hf := .inl trivial)
  have check : checkWarm.Within Place.offRuns :=
    checkWarm_within abort offRuns_touches.toRaises trivial trivial (fun _ => trivial) (fun _ => trivial) fun _ => trivial
  have close (c : Nat → Bool) : (closeQps c).Within Place.offRuns :=
    closeQps_within trivial trivial trivial trivial trivial (fun _ => trivial) fun _ => trivial
  refine .look fun s => .cons_later (.cons_here (stops_tearAll _) (.cons hub (.cons (.ite hub (.cons hub (.cons (.look fun t =>
    .ite ?_ (.cons hub (.cons (close _) (.cons (.each fence) .nil)))) (.cons check .nil)))) .nil)))
  exact .cons (.when (raise_within trivial trivial fun _ => trivial)) (.cons hub
    (.cons (.each fun _ => trainStack_within trivial trivial trivial trivial) (.cons (.each fence) .nil)))

theorem startWarm_ctx {found : BootCheck} {s t : State} {u : State} (ht : u.announced ((startWarm found).run s) = t) :
    ∀ c, c < 16 → (t.ctx c).state ≠ .active ∧ (t.ctx c).state ≠ .stopped := by
  intro c hc
  have h := startWarm_stops found s c hc
  rw [← ht, announced_ctx]
  exact not_or.mp h

/-- Settles O12: each reset runs the warm reset, which tears every context down; a short pulse and the line's own states write the
sideband alone. -/
theorem resetsTearDown : Obligations.ResetsTearDown := by
  unfold Obligations.ResetsTearDown
  refine ⟨fun s m _ h => ?_, fun s p _ hstage => ?_, fun s n f => ⟨fun hn => ?_, fun hlo hhi hstuck hstage _ => ?_, ?_, ?_⟩⟩
  · refine ⟨_, hostRow_next h rfl, ?_⟩
    rw [moduleReset, Fx.run_look, Fx.run_andThen, withInBand_run]
    exact startWarm_ctx rfl
  · refine ⟨_, rfl, ?_⟩
    rw [withInBand_run, Fx.run_when, if_pos (decide_eq_true hstage)]
    exact startWarm_ctx rfl
  · change execSbResetPulse n f s = _
    rw [execSbResetPulse, Fx.outcome_eq, if_pos (by rcases hn with h | h <;> simp [h]), withInBand_run]
    rfl
  · refine ⟨_, rfl, ?_⟩
    rw [if_neg (by simp [hstuck]; omega), withInBand_run, Fx.run_when, if_pos (by simp; omega), if_neg (by simp; omega)]
    exact startWarm_ctx rfl
  · change execResetStuck s = _
    rw [execResetStuck, Fx.outcome_eq, withInBand_run]
    rfl
  · change execResetStuckRelease s = _
    rw [execResetStuckRelease, Fx.outcome_eq, withInBand_run]
    rfl

end Sys2Proof.Machine

/-! Proofs about FIELD_RESET, LINK_FENCE and LINK_TRAIN (R387, R392, R484, R488). -/
namespace Sys2Proof.Machine
set_option Elab.async false -- the side conditions of the frames below are elaborated in place, not each in a thread of its own

/-! ## Links that carry no flits -/

/-- The link carries flits (R391). -/
def Link.Up (l : Link) : Prop := l.state = 2 ∨ l.state = 5

/-- The effect leaves the frame and the sending half of a link that carries no flits. -/
def Fx.Mutes (i : Nat) (a : Fx) : Prop := ∀ s : State, ¬ (s.link i).Up →
  ((a.run s).link i).frame = (s.link i).frame ∧ ((a.run s).link i).sending = (s.link i).sending

theorem Link.state_of_frame {l k : Link} (h : l.frame = k.frame) : l.state = k.state := (congrArg Link.state h :)

theorem Link.up_of_frame {l k : Link} (h : l.frame = k.frame) : l.Up ↔ k.Up := by rw [Link.Up, Link.Up, Link.state_of_frame h]

section
variable {i : Nat} {a b : Fx}

theorem Fx.Mutes.skip : Fx.skip.Mutes i := fun _ _ => ⟨rfl, rfl⟩

theorem Fx.Mutes.andThen (ha : a.Mutes i) (hb : b.Mutes i) : (a.andThen b).Mutes i := fun s hs => by
  obtain ⟨hframe, hsend⟩ := ha s hs
  obtain ⟨hframe', hsend'⟩ := hb (a.run s) (fun h => hs ((Link.up_of_frame hframe).mp h))
  exact ⟨hframe'.trans hframe, hsend'.trans hsend⟩

theorem Fx.Mutes.look {f : State → Fx} (h : ∀ s, (f s).Mutes i) : (Fx.look f).Mutes i := fun s => h s s

theorem Fx.Mutes.when {c : Bool} (h : a.Mutes i) : (Fx.when c a).Mutes i := by
  cases c
  · exact Fx.Mutes.skip
  · exact h

theorem Fx.Mutes.nil : (Fx.all []).Mutes i := Fx.Mutes.skip

theorem Fx.Mutes.cons {l : List Fx} (ha : a.Mutes i) (hl : (Fx.all l).Mutes i) : (Fx.all (a :: l)).Mutes i := ha.andThen hl

theorem Fx.Mutes.each {α : Type} {l : List α} {f : α → Fx} (h : ∀ x, (f x).Mutes i) : (Fx.each l f).Mutes i := by
  induction l with
  | nil => exact Fx.Mutes.nil
  | cons x l ih => exact (h x).andThen ih

theorem Fx.Mutes.ite {c : Prop} [Decidable c] (ha : a.Mutes i) (hb : b.Mutes i) : (if c then a else b).Mutes i := by
  split <;> assumption

theorem Fx.Within.mutes {F : Place → Prop} (h : a.Within F) (hf : ¬ F (.linkFrame i)) (ht : ¬ F (.linkTx i)) : a.Mutes i :=
  fun s _ => ⟨h (.linkFrame i) hf s, h (.linkTx i) ht s⟩

/-- Every place but the frame and the sending half of links. -/
def Place.offLink : Place → Prop
  | .linkFrame _ | .linkTx _ => False
  | _ => True

theorem Fx.Within.mutes_offLink (h : a.Within Place.offLink) : a.Mutes i := h.mutes id id

theorem offLink_tears : Tears Place.offLink := by
  refine ⟨⟨⟨trivial, ?_, ?_⟩, trivial, trivial⟩, trivial, trivial, trivial, trivial, ?_, ?_, ?_⟩ <;> exact fun _ => trivial

theorem offLink_raises : Raises Place.offLink := ⟨trivial, fun _ => trivial, fun _ => trivial⟩

/-- An abort record goes out on links that carry flits only (R420). -/
theorem sendAbort_mutes (r : AbortRecord) (except : Option Nat) : (sendAbort r except).Mutes i := by
  intro s hs
  rw [sendAbort, Fx.run_look]
  have hother : (Fx.each (s.upLinks.filter (fun j => some j != except)) (fun j => sendFlit j 2 r.bytes)).Within
      (fun p => p ≠ .linkFrame i ∧ p ≠ .linkTx i) := .each_mem fun j hj => by
    have hup : (s.link j).Up := by
      have h := (List.mem_filter.mp (List.mem_filter.mp hj).1).2
      simpa [Link.Up] using h
    have hne : j ≠ i := fun e => hs (e ▸ hup)
    exact sendFlit_within ⟨nofun, nofun⟩ ⟨nofun, nofun⟩ ⟨nofun, fun e => hne (Place.linkTx.inj e)⟩
  exact ⟨hother (.linkFrame i) (fun h => h.1 rfl) s, hother (.linkTx i) (fun h => h.2 rfl) s⟩

theorem abortJob_mutes (job cause : Nat) : (abortJob job cause).Mutes i :=
  .when (.look fun _ => .cons (Fx.Within.mutes_offLink (.hub trivial (hc := .inl trivial))) (.cons
    (Fx.Within.mutes_offLink (noteAbort_within trivial trivial)) (.cons (sendAbort_mutes _ _) (.cons
    (Fx.Within.mutes_offLink (tearJob_within offLink_tears fun _ => trivial)) .nil))))

theorem tearCtx_mutes (c cause : Nat) : (tearCtx c cause).Mutes i :=
  .look fun _ => .when (.ite (Fx.Within.mutes_offLink (tearOne_within offLink_tears (.inl trivial) trivial)) (abortJob_mutes _ _))

theorem checkSet_mutes : checkSet.Mutes i :=
  .look fun _ => .ite .skip (.ite (Fx.Within.mutes_offLink (.andThen (.hub trivial (hc := .inl trivial) (hf := .inl trivial))
    (dropMin_within trivial))) (.when (.cons (Fx.Within.mutes_offLink (.hub trivial (hc := .inl trivial) (hf := .inl trivial)))
    (.cons (.each fun _ => tearCtx_mutes _ _) (.cons (Fx.Within.mutes_offLink (addMin_within offLink_raises trivial)) .nil)))))

end

/-! ## A link that goes down -/

theorem Fx.Mutes.after_link {i : Nat} {rest : Fx} (h : rest.Mutes i) {u : State} (hi : i < u.links.length) {g : Link → Link}
    (hg : ¬ (g (u.link i)).Up) : ((rest.run (u.modLink i g)).link i).state = (g (u.link i)).state ∧
      ((rest.run (u.modLink i g)).link i).replay = (g (u.link i)).replay := by
  have hlink : (u.modLink i g).link i = g (u.link i) := State.link_modLink u i g hi
  obtain ⟨hframe, hsend⟩ := h (u.modLink i g) (by rwa [hlink])
  rw [hlink] at hframe hsend
  exact ⟨Link.state_of_frame hframe, (congrArg Link.replay hsend :)⟩

/-- A link that stops carrying flits takes its state, and its replay buffer is empty (R390). -/
theorem dropLink_link {s : State} {i state : Nat} (hi : i < s.links.length) (h2 : state ≠ 2) (h5 : state ≠ 5) :
    (((dropLink i state).run s).link i).state = state ∧ (((dropLink i state).run s).link i).replay = [] := by
  rw [dropLink, Fx.run_look]
  dsimp only
  rw [Fx.run_all_cons, Fx.run_all_cons, Fx.run_link]
  refine Fx.Mutes.after_link (.cons (Fx.Within.mutes_offLink (.each fun _ => .link trivial)) (.cons (.each fun _ => abortJob_mutes _ _)
    (.cons (Fx.Within.mutes_offLink (endCopies_within offLink_tears.toAnswers trivial))
    (.cons (Fx.Within.mutes_offLink (finishWaits_within offLink_tears.toAnswers)) .nil)))) ?_ ?_
  · rw [(Fx.run_lengths _ s).2.2.2.1]
    exact hi
  · simp [Link.Up, h2, h5]

theorem fenceLink_link {s : State} {i : Nat} (hi : i < s.links.length) :
    (((fenceLink i).run s).link i).state = 4 ∧ (((fenceLink i).run s).link i).replay = [] := by
  rw [fenceLink, Fx.run_andThen]
  obtain ⟨hstate, hreplay⟩ := dropLink_link (state := 4) hi (by decide) (by decide)
  have hevent : (linkChange i 4).Within Place.raised := linkChange_within trivial trivial fun _ => trivial
  rw [show ((linkChange i 4).run _).link i = _ from hevent (.link i) id _]
  exact ⟨hstate, hreplay⟩

theorem startTraining_link {s : State} {i : Nat} (hi : i < s.links.length) :
    (((startTraining i).run s).link i).state = 1 ∧ (((startTraining i).run s).link i).replay = [] := by
  rw [startTraining, Fx.run_andThen]
  exact dropLink_link (by rw [(Fx.run_lengths _ s).2.2.2.1]; exact hi) (by decide) (by decide)

/-! ## Links that a mask names -/

theorem bitOf_eq_testBit (v i : Nat) : bitOf v i = v.testBit i := (Nat.testBit_eq_decide_div_mod_eq).symm

/-- A mask of one link names that link. -/
theorem named_two_pow {s : State} {i : Nat} (hi : i < Grade.links s.grade) : s.named (2 ^ i) = [i] := by
  simp only [State.named, State.linkIds, bitOf_eq_testBit, Nat.testBit_two_pow]
  rw [List.filter_congr (q := fun j => j == i) (fun j _ => by rw [Bool.eq_iff_iff, beq_iff_eq, decide_eq_true_eq, eq_comm]), List.filter_beq, List.count_eq_one_of_mem List.nodup_range
    (List.mem_range.mpr hi)]
  rfl

theorem linkMask_succ (p : Nat → Bool) (n : Nat) :
    linkMask ((List.range (n + 1)).filter p) = (if p n then 2 ^ n else 0) + linkMask ((List.range n).filter p) := by
  simp only [linkMask, List.range_succ, List.filter_append, List.map_append, List.sum_append]
  cases hp : p n <;> simp [hp, Nat.add_comm]

theorem linkMask_lt (p : Nat → Bool) (n : Nat) : linkMask ((List.range n).filter p) < 2 ^ n := by
  induction n with
  | zero => exact Nat.one_pos
  | succ n ih =>
    rw [linkMask_succ, Nat.pow_succ]
    split <;> omega

/-- The mask of some of the links below a bound has the bit of each of them. -/
theorem linkMask_testBit {p : Nat → Bool} {n i : Nat} (hi : i < n) (hp : p i = true) :
    (linkMask ((List.range n).filter p)).testBit i = true := by
  induction n with
  | zero => exact absurd hi (Nat.not_lt_zero i)
  | succ n ih =>
    rw [linkMask_succ]
    rcases Nat.lt_succ_iff_lt_or_eq.mp hi with hi | rfl
    · split
      · rw [Nat.testBit_two_pow_add_gt hi]
        exact ih hi
      · rw [Nat.zero_add]
        exact ih hi
    · rw [if_pos hp, Nat.testBit_two_pow_add_eq, Nat.testBit_lt_two_pow (linkMask_lt p i)]
      rfl

/-- A LINK_TRAIN of a link that trains goes on waiting. -/
theorem trainingWaits_holds {s : State} {i : Nat} (hi : i < Grade.links s.grade) (hi32 : i < 32) (htrains : (s.link i).state = 1)
    (h : ∃ w ∈ s.port.waits, w.kind = .linkTrain (BitVec.ofNat 32 (2 ^ i))) :
    ∃ w ∈ (trainingWaits.run s).port.waits, w.kind = .linkTrain (BitVec.ofNat 32 (2 ^ i)) := by
  obtain ⟨w, hw, hkind⟩ := h
  rw [trainingWaits, Fx.run_look]
  dsimp only
  rw [Fx.run_andThen, Fx.run_port]
  refine Fx.Holds.each (fun w => answer_holds w _ _) _ ⟨w, List.mem_filter.mpr ⟨hw, ?_⟩, hkind⟩
  have hbit : (linkMask (s.linkIds.filter (fun i => (s.link i).state == 1))).testBit i = true :=
    linkMask_testBit hi (by simp [htrains])
  have hlt : 2 ^ i < 2 ^ 32 := Nat.pow_lt_pow_right (by decide) hi32
  simp only [hkind, BitVec.toNat_ofNat, Nat.mod_eq_of_lt hlt, Nat.two_pow_and, hbit]
  simp

/-! ## FIELD_RESET -/

theorem Field.state_of_frame {g h : Field} (e : g.frame = h.frame) : g.state = h.state := (congrArg Field.state e :)

theorem Field.test_of_frame {g h : Field} (e : g.frame = h.frame) : g.test = h.test := (congrArg Field.test e :)

/-- The last thing that a fence does to its field: its test and its engines' resets are gone. -/
theorem fenceOnly_run (f : Nat) (s : State) :
    ∃ u : State, u.fields.length = s.fields.length ∧ (fenceOnly f).run s = u.modField f (fun g => { g with test := none, engineResets := [] }) := by
  rw [fenceOnly, Fx.run_look]
  exact ⟨_, (Fx.run_lengths _ s).2.1, run_all_concat [_, _, _, _, _, _, _, _] (Fx.field f _) s⟩

/-- A field that is fenced and whose reset starts resets, without a test (R483, R484, R529). -/
theorem fenceField_frame {s : State} {f : Nat} (hf : f < s.fields.length) :
    (((fenceField f).run s).field f).state = 3 ∧ (((fenceField f).run s).field f).test = none := by
  obtain ⟨u, hlen, hu⟩ := fenceOnly_run f s
  rw [fenceField, Fx.run_andThen, hu, startFieldReset, Fx.run_look, Fx.run_andThen, Fx.run_field]
  have hevent : (fieldChange f).Within Place.raised := fieldChange_within trivial trivial fun _ => trivial
  have hframe := hevent (.fieldFrame f) id ((u.modField f (fun g => { g with test := none, engineResets := [] })).modField f
    (fun g => { g with state := 3, resets := satAdd 255 g.resets 1
                       resetStart := (u.modField f (fun g => { g with test := none, engineResets := [] })).now }))
  simp only [Place.same] at hframe
  rw [State.field_modField _ _ _ (by simpa [State.modField, hlen] using hf), State.field_modField _ _ _ (hlen ▸ hf)] at hframe
  exact ⟨(congrArg Field.state hframe :), (congrArg Field.test hframe :)⟩

theorem fenceField_offTiles (f : Nat) : (fenceField f).Within Place.offTiles :=
  fenceField_within offTiles_aborts offTiles_raises trivial (fun _ => trivial) trivial (fun _ => trivial) fun _ => trivial

theorem checkSet_offTiles : checkSet.Within Place.offTiles :=
  checkSet_within offTiles_aborts offTiles_raises trivial trivial fun _ => trivial

section
variable {s : State} {m : HostMsg}

theorem fieldReset_next (h : s.accepts m 0x0601 = true) (hf : param m 0 1 < Grade.fields s.grade)
    (h2 : (s.field (param m 0 1)).state ≠ 2) (h3 : (s.field (param m 0 1)).state ≠ 3) :
    exec (.fieldReset m) s = .next ((s.waiting m (.fieldReset (param m 0 1))).announced
      (checkSet.run ((fenceField (param m 0 1)).run (s.waiting m (.fieldReset (param m 0 1)))))) := by
  refine hostRow_next h ?_
  simp only [fieldReset, Fx.run_look, cmdOf_p]
  have := fields_le_eight s.grade
  rw [if_neg (by omega), if_neg (by omega), if_neg (by simp [h2, h3]), Fx.run_all_cons, waits_run, Fx.run_all_cons, Fx.run_all_nil,
    withInBand_run, Fx.run_andThen]

/-! ## LINK_FENCE and LINK_TRAIN -/

theorem linkFence_next {i : Nat} (h : s.accepts m 0x0503 = true) (hi : i < Grade.links s.grade) (hmask : param m 0 4 = 2 ^ i) :
    exec (.linkFence m) s = .next (s.announced (checkSet.run ((trainingWaits.run ((fenceLink i).run s)).answered m stOk []))) := by
  refine hostRow_next h ?_
  simp only [linkFence, Fx.run_look, cmdOf_p]
  rw [hmask, named_two_pow hi, withInBand_run, Fx.run_all_cons, Fx.run_each_cons, Fx.run_each_nil, Fx.run_all_cons, Fx.run_all_cons,
    accepts_done h, Fx.run_all_cons, Fx.run_all_nil]

theorem linkTrain_next {i : Nat} (h : s.accepts m 0x0502 = true) (hi : i < Grade.links s.grade) (hmask : param m 0 4 = 2 ^ i)
    (hidle : (s.link i).state ≠ 1) :
    exec (.linkTrain m) s = .next (s.announced (checkSet.run (trainingWaits.run (((startTraining i).run s).waiting m
      (.linkTrain (BitVec.ofNat 32 (2 ^ i))))))) := by
  refine hostRow_next h ?_
  simp only [linkTrain, Fx.run_look, cmdOf_p]
  rw [hmask, named_two_pow hi, withInBand_run, List.filter_cons_of_pos (by simpa using hidle), List.filter_nil, Fx.run_all_cons,
    Fx.run_each_cons, Fx.run_each_nil, Fx.run_all_cons, waits_run, Fx.run_all_cons, Fx.run_all_cons, Fx.run_all_nil]

end

theorem answered_link (t : State) (m : HostMsg) (status : Nat) (r : List Byte) (i : Nat) : (t.answered m status r).link i = t.link i := by
  rw [answered_eq]
  rfl

theorem waiting_noCopyRuns (t : State) (m : HostMsg) (k : WaitKind) : (t.waiting m k).noCopyRuns = t.noCopyRuns := rfl

theorem answered_noCopyRuns (t : State) (m : HostMsg) (status : Nat) (r : List Byte) :
    (t.answered m status r).noCopyRuns = t.noCopyRuns := by
  rw [answered_eq]
  rfl

theorem trainingWaits_offTiles : trainingWaits.Within Place.offTiles := trainingWaits_within offTiles_aborts.toAnswers

/-- Commands that wait and the working set leave the frame and the sending half of a link that carries no flits. -/
theorem trainingWaits_mutes (i : Nat) : trainingWaits.Mutes i := Fx.Within.mutes_offLink (trainingWaits_within offLink_tears.toAnswers)

theorem links_le_32 (g : Grade) : Grade.links g ≤ 32 := by
  have := fields_le_eight g
  simp only [Grade.links]
  omega

/-- Settles O11: each command starts its work first; the command that waits, the field's and the link's state, and memory outlast what
follows. -/
theorem linksAndFieldsOnCommand : Obligations.LinksAndFieldsOnCommand := by
  unfold Obligations.LinksAndFieldsOnCommand
  refine ⟨fun s m ⟨_, _, hlen, _⟩ h hf h2 h3 => ?_, fun s m i ⟨_, _, _, _, hlen, _⟩ h hi hmask => ?_,
    fun s m i ⟨_, _, _, _, hlen, _⟩ h hi hmask hidle => ?_⟩
  · obtain ⟨hstate, htest⟩ := fenceField_frame (s := s.waiting m (.fieldReset (param m 0 1))) (f := param m 0 1)
      (show param m 0 1 < s.fields.length from hlen ▸ hf.trans_le (fields_le_eight s.grade))
    have hframe := checkSet_checked.fieldFrame_eq ((fenceField (param m 0 1)).run (s.waiting m (.fieldReset (param m 0 1))))
      (i := param m 0 1) (by simp [Place.checked, Place.aborted, Place.raised])
    refine ⟨_, fieldReset_next h hf h2 h3, ?_, ?_, fun hq => ?_, ?_⟩
    · rw [announced_field, Field.state_of_frame hframe, hstate]
    · rw [announced_field, Field.test_of_frame hframe, htest]
    · rw [announced_mem, ← Fx.run_andThen]
      exact ((fenceField_offTiles _).andThen checkSet_offTiles).mem_eq_offTiles (s := s.waiting m (.fieldReset (param m 0 1))) hq
    · rw [announced_port]
      have hk : (WaitKind.fieldReset (param m 0 1)).lasting = true := rfl
      exact checkSet_holds hk _ (fenceField_holds hk _ _ (mem_waiting s m _))
  · obtain ⟨hstate, hreplay⟩ := fenceLink_link (s := s) (hlen ▸ hi.trans_le (links_le_32 s.grade))
    obtain ⟨u, hu⟩ : ∃ u, (fenceLink i).run s = u := ⟨_, rfl⟩
    rw [hu] at hstate hreplay
    obtain ⟨hframe, hsend⟩ := trainingWaits_mutes i u (by simp [Link.Up, hstate])
    have hstate' := Link.state_of_frame hframe
    obtain ⟨hframe', hsend'⟩ := checkSet_mutes (i := i) ((trainingWaits.run u).answered m stOk [])
      (by simp [Link.Up, answered_link, hstate', hstate])
    rw [answered_link] at hframe' hsend'
    refine ⟨_, (linkFence_next h hi hmask).trans (by rw [hu]), ?_, ?_, fun hq => ?_⟩
    · rw [announced_link, Link.state_of_frame hframe', hstate', hstate]
    · rw [announced_link]
      exact (congrArg Link.replay (hsend'.trans hsend) :).trans hreplay
    · have hfence : (fenceLink i).Within Place.offTiles :=
        fenceLink_within offTiles_aborts offTiles_raises (fun _ => trivial) trivial fun _ => trivial
      have hq' := (hfence.andThen trainingWaits_offTiles).noCopyRuns id hq
      have hmem := (hfence.andThen trainingWaits_offTiles).mem_eq_offTiles hq
      rw [Fx.run_andThen, hu] at hq' hmem
      rw [announced_mem, checkSet_offTiles.mem_eq_offTiles (by rwa [answered_noCopyRuns]), answered_mem, hmem]
  · obtain ⟨hstate, hreplay⟩ := startTraining_link (s := s) (hlen ▸ hi.trans_le (links_le_32 s.grade))
    obtain ⟨u, hu⟩ : ∃ u, (startTraining i).run s = u := ⟨_, rfl⟩
    rw [hu] at hstate hreplay
    obtain ⟨v, hv⟩ : ∃ v, u.waiting m (.linkTrain (BitVec.ofNat 32 (2 ^ i))) = v := ⟨_, rfl⟩
    have hlink : v.link i = u.link i := by rw [← hv]; rfl
    have hgrade : v.grade = s.grade := by rw [← hv, ← Fx.run_grade (startTraining i) s, hu]; rfl
    obtain ⟨hframe, hsend⟩ := (trainingWaits_mutes i).andThen checkSet_mutes v (by simp [Link.Up, hlink, hstate])
    rw [Fx.run_andThen, hlink] at hframe hsend
    refine ⟨_, (linkTrain_next h hi hmask hidle).trans (by rw [hu, hv]), ?_, ?_, fun hq => ?_, ?_⟩
    · rw [announced_link, Link.state_of_frame hframe, hstate]
    · rw [announced_link]
      exact (congrArg Link.replay hsend :).trans hreplay
    · have htrain : (startTraining i).Within Place.offTiles :=
        startTraining_within offTiles_aborts (fun _ => trivial) trivial fun _ => trivial
      have hq' : v.noCopyRuns = true := by
        rw [← hv, waiting_noCopyRuns, ← hu]
        exact htrain.noCopyRuns id hq
      have hmem : u.mem = s.mem := by
        rw [← hu]
        exact htrain.mem_eq_offTiles hq
      have hvmem : v.mem = u.mem := by rw [← hv]; rfl
      rw [announced_mem, ← Fx.run_andThen, (trainingWaits_offTiles.andThen checkSet_offTiles).mem_eq_offTiles hq', hvmem, hmem]
    · rw [announced_port]
      have hk : (WaitKind.linkTrain (BitVec.ofNat 32 (2 ^ i))).lasting = true := rfl
      refine checkSet_holds hk _ (trainingWaits_holds (hgrade ▸ hi) (hi.trans_le (links_le_32 s.grade)) (hlink ▸ hstate) ?_)
      rw [← hv]
      exact mem_waiting u m _

end Sys2Proof.Machine

/-! The end of a teardown and the hub (R468, R412). The claim says that the hub is as before; but a DESTROY that came through a relay is
answered by a packet, and where the routing table names path 0x3F for the relaying node that packet joins the hub's own packets for local
delivery. -/
namespace Sys2Proof.Machine

/-- A RELAY packet of node 7. -/
def relayOfSeven : Packet := Packet.request 0x05 5 7 0 0 0 0 0 0 []

/-- A relayed DESTROY of context 0 that waits for the teardown's end. -/
def relayedDestroy : Wait :=
  { kind := .destroy 0, tag := 0#32, opcode := 0x0201#16, ctx := 0#8, dest := .relay 0 relayOfSeven, key := 0#32, got := [], left := 0
    parity := none }

/-- Node 5 with context 0 in teardown, that command waiting, and path 0x3F, local delivery, for node 7. -/
def tearingRelayed : State :=
  ((State.reset.modCtx 0 (fun x => { x with state := .teardown })).modHub (fun h => { h with node := 5#16, routes := [(7, 0xBF#32)] })).modPort
    (fun p => { p with waits := [relayedDestroy] })

/-- The packets for local delivery that an outcome leaves. -/
def loopOf (o : Host.Outcome State Fault Refusal) : List Packet :=
  match o with
  | .next t => t.hub.loop
  | _ => []

theorem teardownDone_relayed_loop : (loopOf (exec (.teardownDone 0) tearingRelayed)).length = 1 := by decide +kernel

/-- Refutes O29: the reply to a relayed DESTROY may be one of the hub's own packets, so the hub does not stay as it was. -/
theorem not_teardown : ¬ Obligations.Teardown := by
  unfold Obligations.Teardown
  rintro ⟨-, h⟩
  obtain ⟨-, hdone, -⟩ := h tearingRelayed 0 (by decide)
  obtain ⟨t, ht, -, -, -, -, -, -, hhub⟩ := hdone (by decide) rfl (by decide)
  have hloop := teardownDone_relayed_loop
  rw [ht, loopOf, hhub] at hloop
  exact absurd hloop (by decide)

end Sys2Proof.Machine

/-! Proofs about hung engines and engine resets (R478 to R483). -/
namespace Sys2Proof.Machine
set_option Elab.async false -- the side conditions of the frames below are elaborated in place, not each in a thread of its own

/-! ## An engine that is reset -/

theorem Field.engineReset_frame (e : Nat) (g : Field) : (g.engineReset e).frame = g.frame := by
  unfold Field.engineReset
  split
  case h_5 => split <;> rfl
  all_goals rfl

/-- The field as an engine's reset leaves it. -/
def Field.engineResetAt (e now : Nat) (g : Field) : Field :=
  { Field.engineReset e g with engineResets := tablePut g.engineResets e now, progress := tableErase g.progress e }

/-- What an engine's reset touches before it writes its field: contexts, sluices, the ditch. -/
def Place.abortedDitch (p : Place) : Prop := p.aborted ∨ p = .ditch

theorem abortedDitch_aborts : Aborts Place.abortedDitch := aborted_aborts.mono fun _ => .inl

/-- An engine's reset ends in its field. -/
theorem resetEngine_run (f e : Nat) (s : State) : ∃ a : Fx, a.Within Place.abortedDitch ∧
    (resetEngine f e).run s = (a.run s).modField f (Field.engineResetAt e s.now) := by
  rw [resetEngine, Fx.run_look]
  refine ⟨_, ?_, run_all_concat [_, _, _, _, _] (Fx.field f (Field.engineResetAt e s.now)) s⟩
  have abort := abortedDitch_aborts
  exact .cons (.each_mem fun _ hx => tearCtx_within abort (.inr (List.mem_range.mp (List.mem_filter.mp hx).1)) fun _ => .inl trivial)
    (.cons (.when (.each fun _ => abortJob_within abort fun _ => .inl trivial)) (.cons (.when (resetSluice_within abort.field abort.link
    (abort.linkEntries _))) (.cons (.when (.ditch (.inr rfl))) (.cons (.when (dropCopies_within abort.toAnswers abort.hubCore)) .nil))))

theorem resetEngine_offTiles (f e : Nat) : (resetEngine f e).Within Place.offTiles :=
  resetEngine_within offTiles_aborts trivial (fun _ => trivial) trivial

/-- An engine that is reset: its reset runs from this cycle on, and its field's frame is as before. -/
theorem resetEngine_field {s : State} {f e : Nat} (hf : f < s.fields.length) {t : State} (ht : (resetEngine f e).run s = t) :
    tableGet? (t.field f).engineResets e = some t.now ∧ t.now = s.now ∧ (t.field f).hung = (s.field f).hung := by
  obtain ⟨a, ha, hrun⟩ := resetEngine_run f e s
  have hframe := ha.fieldFrame_eq s (i := f) (by simp [Place.abortedDitch, Place.aborted])
  have hnow := ha.now_eq s (by simp [Place.abortedDitch, Place.aborted])
  obtain ⟨-, hlen, -, -, -⟩ := a.run_lengths s
  have hfield : t.field f = Field.engineResetAt e s.now ((a.run s).field f) := by
    rw [← ht, hrun, State.field_modField _ _ _ (hlen ▸ hf)]
  have hnow' : t.now = s.now := by
    rw [← ht, hrun]
    exact hnow
  refine ⟨?_, hnow', ?_⟩
  · rw [hfield, hnow']
    exact tableGet?_put_self ..
  · rw [hfield]
    exact (congrArg Field.hung ((a.run s).field f |>.engineReset_frame e) :).trans (congrArg Field.hung hframe :)

/-! ## A reset that misses its deadline -/

/-- The field is fenced and reset (R483). -/
theorem resetMissed_field {s : State} {f : Nat} (hf : f < s.fields.length) : (((resetMissed f).run s).field f).state = 3 := by
  rw [resetMissed, withInBand_run, announced_field, Fx.run_all_cons]
  have hrest : (Fx.all [trainingWaits, checkSet]).Within Place.checked :=
    .cons (trainingWaits_within (aborted_aborts.toAnswers.mono fun _ => .inl)) (.cons checkSet_checked .nil)
  have hframe := hrest.fieldFrame_eq ((fenceField f).run s) (i := f) (by simp [Place.checked, Place.aborted, Place.raised])
  rw [Field.state_of_frame hframe, (fenceField_frame hf).1]

theorem resetMissed_offTiles (f : Nat) : (resetMissed f).Within Place.offTiles :=
  withInBand_within (.cons (fenceField_offTiles f) (.cons trainingWaits_offTiles (.cons checkSet_offTiles .nil))) trivial

/-! ## Hung engines -/

section
variable {s : State} {f e : Nat}

/-- The module with an engine that has hung, before its reset. -/
def State.hungAt (s : State) (f e : Nat) : State :=
  (raise (56 * f + e) 2 0x0401 none f e 0).run
    ((s.setNow (tableGet (s.field f).progress e s.now + (s.field f).hangLimit.toNat + 1)).modField f
      (fun g => { g with hung := g.hung ||| BitVec.ofNat 20 (2 ^ e) }))

theorem engineHung_next (hf : f < Grade.fields s.grade) (hlimit : (s.field f).hangLimit ≠ 0#32) (hstate : (s.field f).state ≤ 1)
    (hwork : s.pendingWork f e = true) : exec (.engineHung f e) s = .next ((resetEngine f e).run (s.hungAt f e)) := by
  change execEngineHung f e s = _
  rw [execEngineHung, Fx.outcome_eq, Fx.run_when, if_pos (by simp [hf, hlimit, hstate, hwork]), Fx.run_all_cons, Fx.run_setNow,
    Fx.run_all_cons, Fx.run_field, Fx.run_all_cons, Fx.run_all_cons, Fx.run_all_nil]
  rfl

theorem engineHung_none (h : (s.field f).hangLimit = 0#32 ∨ s.pendingWork f e = false) : exec (.engineHung f e) s = .next s := by
  change execEngineHung f e s = _
  rw [execEngineHung, Fx.outcome_eq, Fx.run_when, if_neg]
  rcases h with h | h <;> simp [h]

theorem hungAt_frame (hf : f < s.fields.length) (he : e < 20) : ((s.hungAt f e).field f).hung.getLsbD e = true ∧
    (s.hungAt f e).now = max s.now (tableGet (s.field f).progress e s.now + (s.field f).hangLimit.toNat + 1) ∧
    (s.hungAt f e).fields.length = s.fields.length ∧ (s.noCopyRuns = true → (s.hungAt f e).noCopyRuns = true) ∧
    (s.hungAt f e).mem = s.mem := by
  have hraise : (raise (56 * f + e) 2 0x0401 none f e 0).Within Place.raised := raise_within trivial trivial fun _ => trivial
  generalize hu : (s.setNow (tableGet (s.field f).progress e s.now + (s.field f).hangLimit.toNat + 1)).modField f
    (fun g => { g with hung := g.hung ||| BitVec.ofNat 20 (2 ^ e) }) = u
  have hrun : s.hungAt f e = (raise (56 * f + e) 2 0x0401 none f e 0).run u := by rw [← hu]; rfl
  have hframe := hraise.fieldFrame_eq u (i := f) id
  have hfield : u.field f = { s.field f with hung := (s.field f).hung ||| BitVec.ofNat 20 (2 ^ e) } := by
    rw [← hu]
    exact State.field_modField (s.setNow _) f _ hf
  rw [hrun]
  refine ⟨?_, ?_, ?_, fun hq => ?_, ?_⟩
  · rw [show ((Fx.run _ u).field f).hung = (u.field f).hung from (congrArg Field.hung hframe :), hfield]
    simp only [BitVec.getLsbD_or, BitVec.getLsbD_ofNat, Nat.testBit_two_pow_self, he, decide_true, Bool.and_true, Bool.or_true]
  · rw [hraise.now_eq u id, ← hu]
    rfl
  · rw [(Fx.run_lengths _ u).2.1, ← hu]
    simp [State.modField]
  · refine hraise.noCopyRuns id ?_
    rw [← hu]
    exact hq
  · rw [hraise.mem_eq u id, ← hu]
    rfl

theorem engineReset?_eq (hf : f < Grade.fields s.grade) {c : Nat} (hc : tableGet? (s.field f).engineResets e = some c) :
    s.engineReset? f e = some c := by simp [State.engineReset?, hc, hf]

theorem engineResetDone_late (hf : f < Grade.fields s.grade) {c : Nat} (hc : tableGet? (s.field f).engineResets e = some c)
    (hlate : c + 10000 < s.now) : exec (.engineResetDone f e) s = .next ((resetMissed f).run s) := by
  change execEngineResetDone f e s = _
  simp only [execEngineResetDone, engineReset?_eq hf hc]
  rw [if_pos (show s.expired c 10000 = true from decide_eq_true hlate), Fx.outcome_eq]

theorem engineResetDone_next (hf : f < Grade.fields s.grade) {c : Nat} (hc : tableGet? (s.field f).engineResets e = some c)
    (hin : s.now ≤ c + 10000) :
    exec (.engineResetDone f e) s = .next (s.modField f (fun g => { g with engineResets := tableErase g.engineResets e })) := by
  change execEngineResetDone f e s = _
  simp only [execEngineResetDone, engineReset?_eq hf hc]
  rw [if_neg (by simpa [State.expired] using hin), Fx.outcome_eq, Fx.run_field]

theorem engineResetTimeout_next (hf : f < Grade.fields s.grade) {c : Nat} (hc : tableGet? (s.field f).engineResets e = some c) :
    exec (.engineResetTimeout f e) s = .next ((resetMissed f).run (s.setNow (c + 10001))) := by
  change execEngineResetTimeout f e s = _
  simp only [execEngineResetTimeout, engineReset?_eq hf hc]
  rw [Fx.outcome_eq, Fx.run_andThen, Fx.run_setNow]

end

/-- Settles O30: a reset ends in its field, which its fence puts into a field reset when the deadline is missed. -/
theorem enginesHang : Obligations.EnginesHang := by
  unfold Obligations.EnginesHang
  intro s f e ⟨_, _, hlen, _⟩ hf
  have hf8 : f < s.fields.length := hlen ▸ hf.trans_le (fields_le_eight s.grade)
  refine ⟨fun he hlimit hstate hwork => ?_, engineHung_none, fun c hc => ⟨fun hin => ?_, fun hlate => ?_, ?_⟩⟩
  · obtain ⟨hhung, hnow, hlen', hquiet, hmem⟩ := hungAt_frame hf8 he
    obtain ⟨hreset, hnow', hhung'⟩ := resetEngine_field (hlen' ▸ hf8) (e := e) rfl
    refine ⟨_, engineHung_next hf hlimit hstate hwork, ?_, hnow'.trans hnow, hreset, fun hq => ?_⟩
    · rw [hhung', hhung]
    · rw [(resetEngine_offTiles f e).mem_eq_offTiles (hquiet hq), hmem]
  · refine ⟨_, engineResetDone_next hf hc hin, ?_, rfl⟩
    rw [State.field_modField _ _ _ hf8]
    exact tableGet?_erase_self ..
  · exact ⟨_, engineResetDone_late hf hc hlate, resetMissed_field hf8,
      (resetMissed_offTiles f).mem_eq_offTiles⟩
  · refine ⟨_, engineResetTimeout_next hf hc, resetMissed_field (s := s.setNow (c + 10001)) hf8, ?_,
      fun hq => (resetMissed_offTiles f).mem_eq_offTiles (s := s.setNow (c + 10001)) hq⟩
    exact (Nat.le_max_right _ _).trans (Fx.run_now _ (s.setNow (c + 10001))).1

end Sys2Proof.Machine

/-! Proofs about the end of a field reset (R484, R485, R495, R378). -/
namespace Sys2Proof.Machine
set_option Elab.async false -- the side conditions of the frames below are elaborated in place, not each in a thread of its own

/-! ## A value that an effect fixes -/

/-- The effect leaves a value of the state. -/
def Fx.Fixes {α : Type} (v : State → α) (a : Fx) : Prop := ∀ s, v (a.run s) = v s

section
variable {α : Type} {v : State → α} {a b : Fx}

theorem Fx.Fixes.skip : Fx.skip.Fixes v := fun _ => rfl

theorem Fx.Fixes.andThen (ha : a.Fixes v) (hb : b.Fixes v) : (a.andThen b).Fixes v := fun s => (hb (a.run s)).trans (ha s)

theorem Fx.Fixes.look {f : State → Fx} (h : ∀ s, (f s).Fixes v) : (Fx.look f).Fixes v := fun s => h s s

theorem Fx.Fixes.when {c : Bool} (h : a.Fixes v) : (Fx.when c a).Fixes v := by
  cases c
  · exact Fx.Fixes.skip
  · exact h

theorem Fx.Fixes.nil : (Fx.all []).Fixes v := Fx.Fixes.skip

theorem Fx.Fixes.cons {l : List Fx} (ha : a.Fixes v) (hl : (Fx.all l).Fixes v) : (Fx.all (a :: l)).Fixes v := ha.andThen hl

theorem Fx.Fixes.each {β : Type} {l : List β} {f : β → Fx} (h : ∀ x, (f x).Fixes v) : (Fx.each l f).Fixes v := by
  induction l with
  | nil => exact Fx.Fixes.nil
  | cons x l ih => exact (h x).andThen ih

theorem Fx.Fixes.ite {c : Prop} [Decidable c] (ha : a.Fixes v) (hb : b.Fixes v) : (if c then a else b).Fixes v := by
  split <;> assumption

theorem Fx.Within.fixes_hub {F : Place → Prop} (h : a.Within F) (hF : ¬ F .hubFrame) {p : Hub → α} (hp : ∀ x, p x.frame = p x) :
    a.Fixes (fun s => p s.hub) := fun s => by
  change p (a.run s).hub = p s.hub
  rw [← hp, ← hp s.hub, h.hubFrame_eq s hF]

end

/-! ## The faults that the module knows outlast what follows a reset -/

/-- The faulty rows and columns of beds, and the faulty banks. -/
def Hub.faults (h : Hub) : List (Nat × List Nat × List Nat) × List Nat := (h.bedFaults, h.faultyBanks)

def State.faults (s : State) : List (Nat × List Nat × List Nat) × List Nat := s.hub.faults

/-- Every place but the frame of the hub. -/
def Place.offHubFrame : Place → Prop
  | .hubFrame => False
  | _ => True

theorem offHubFrame_aborts : Aborts Place.offHubFrame := by
  refine ⟨⟨⟨⟨trivial, ?_, ?_⟩, trivial, trivial⟩, trivial, trivial, trivial, trivial, ?_, ?_, ?_⟩, ?_⟩ <;> exact fun _ => trivial

theorem offHubFrame_raises : Raises Place.offHubFrame := ⟨trivial, fun _ => trivial, fun _ => trivial⟩

theorem Fx.Within.fixes_faults {a : Fx} (h : a.Within Place.offHubFrame) : a.Fixes State.faults :=
  h.fixes_hub id (p := Hub.faults) fun _ => rfl

theorem checkWarm_faults : checkWarm.Fixes State.faults := by
  have abort := offHubFrame_aborts
  have raises := offHubFrame_raises
  refine .andThen (.look fun _ => .when (.andThen (fun _ => rfl) (.each fun _ => Fx.Within.fixes_faults (startTraining_within abort
    (fun _ => trivial) trivial fun _ => trivial)))) (.look fun _ => .when (.cons (fun _ => rfl) (Fx.Within.fixes_faults (.cons
    (.each fun _ => endTeardown_within abort.toAnswers trivial raises.evc trivial (abort.field _) raises.ring)
    (.cons (.each fun _ => .ctx trivial (hq := .inl trivial) (hr := .inl trivial)) (.cons (finishWaits_within abort.toAnswers) .nil))))))

theorem checkSet_faults : checkSet.Fixes State.faults :=
  .look fun _ => .ite .skip (.ite (.andThen (fun _ => rfl) (Fx.Within.fixes_faults (dropMin_within trivial))) (.when (.cons (fun _ => rfl)
    (Fx.Within.fixes_faults (.cons (.each fun _ => tearCtx_within offHubFrame_aborts (.inl trivial) fun _ => trivial) (.cons
      (addMin_within offHubFrame_raises trivial) .nil))))))

/-! ## What follows the end of a reset -/

/-- What the end of a reset is followed by: a warm reset that waits for it, and the smallest working set. -/
def afterReset : Fx := Fx.all [checkWarm, checkSet]

/-- Every place but the frame of fields, stacks, and memory as long as no COPY runs. -/
def Place.offReset : Place → Prop
  | .fieldFrame _ | .stack _ | .tiles => False
  | _ => True

theorem offReset_aborts : Aborts Place.offReset := by
  refine ⟨⟨⟨⟨trivial, ?_, ?_⟩, trivial, trivial⟩, trivial, trivial, trivial, trivial, ?_, ?_, ?_⟩, ?_⟩ <;> exact fun _ => trivial

theorem offReset_raises : Raises Place.offReset := ⟨trivial, fun _ => trivial, fun _ => trivial⟩

theorem afterReset_within : afterReset.Within Place.offReset :=
  .cons (checkWarm_within offReset_aborts offReset_raises trivial trivial (fun _ => trivial) (fun _ => trivial) fun _ => trivial)
    (.cons (checkSet_within offReset_aborts offReset_raises trivial trivial fun _ => trivial) .nil)

theorem afterReset_faults : afterReset.Fixes State.faults := .cons checkWarm_faults (.cons checkSet_faults .nil)

/-! ## A field that fails -/

/-- A field fails, and its stacks with it; the event and the command that waits follow. -/
theorem failField_run (f : Nat) (s : State) : ∃ rest : Fx, rest.Within Place.offReset ∧ (failField f).run s = rest.run
    (((s.modField f (fun g => { g with state := 4 })).modStack (2 * f) (fun x => { x with state := 3 })).modStack (2 * f + 1)
      (fun x => { x with state := 3 })) := by
  rw [failField, Fx.run_all_cons, Fx.run_field, Fx.run_all_cons, Fx.run_each_cons, Fx.run_stack, Fx.run_each_cons, Fx.run_stack,
    Fx.run_each_nil]
  exact ⟨_, .cons (fieldChange_within trivial trivial fun _ => trivial) (.cons (finishWaits_within offReset_aborts.toAnswers) .nil), rfl⟩

theorem failField_states {s : State} {f : Nat} (hf : f < s.fields.length) (hk : 2 * f + 1 < s.hbmStacks.length) :
    (((failField f).run s).field f).state = 4 ∧ (((failField f).run s).stack (2 * f)).state = 3 ∧
      (((failField f).run s).stack (2 * f + 1)).state = 3 := by
  obtain ⟨rest, hrest, hrun⟩ := failField_run f s
  generalize hu : State.modStack (2 * f + 1) _ _ = u at hrun
  have hfield : (u.field f).state = 4 := by
    rw [← hu]
    exact congrArg Field.state (State.field_modField s f _ hf)
  have hstack : (u.stack (2 * f)).state = 3 ∧ (u.stack (2 * f + 1)).state = 3 := by
    rw [← hu, State.stack_modStack_ne _ _ _ _ (by omega), State.stack_modStack _ _ _ (by simp only [State.modField]; omega),
      State.stack_modStack _ _ _ (by simpa [State.modField, State.modStack] using hk)]
    exact ⟨rfl, rfl⟩
  rw [hrun, Field.state_of_frame (hrest.fieldFrame_eq u (i := f) id), hrest.stack_eq u id, hrest.stack_eq u id]
  exact ⟨hfield, hstack⟩

/-- A field that failed stays so through what follows. -/
theorem failField_after {s : State} {f : Nat} (hf : f < s.fields.length) (hk : 2 * f + 1 < s.hbmStacks.length) :
    ((afterReset.run ((failField f).run s)).field f).state = 4 ∧ ((afterReset.run ((failField f).run s)).stack (2 * f)).state = 3 ∧
      ((afterReset.run ((failField f).run s)).stack (2 * f + 1)).state = 3 := by
  obtain ⟨hfield, hstack, hstack'⟩ := failField_states hf hk
  rw [afterReset_within.stack_eq _ id, afterReset_within.stack_eq _ id,
    Field.state_of_frame (afterReset_within.fieldFrame_eq _ (i := f) id)]
  exact ⟨hfield, hstack, hstack'⟩

/-! ## A field that returns to service -/

theorem endTransition_resets (f i j : Nat) : (endTransition f i).Fixes (fun s => (s.field j).resets) := by
  have hput (q : SetPower) : (Fx.field f (fun g => { g with sets := g.sets.set i q })).Fixes (fun s => (s.field j).resets) := fun s => by
    rw [Fx.run_field]
    dsimp only
    rcases State.field_modField_cases s f j (fun g => { g with sets := g.sets.set i q }) with h | ⟨rfl, h⟩ <;> rw [h]
  have hanswer (status : Nat) : (answerSet f i status).Fixes (fun s => (s.field j).resets) := fun s =>
    congrArg Field.resets ((answerSet_within answered_answers : (answerSet f i status).Within _).field_eq s (i := j) id)
  refine .look fun s => ?_
  dsimp only
  split
  · exact .skip
  · refine .andThen (.when fun _ => rfl) ?_
    split
    · exact hput _
    · refine .andThen (hanswer _) ?_
      split
      · exact hput _
      · exact .ite (.andThen (hput _) (hanswer _)) (hput _)

theorem endTransitions_resets (f j : Nat) : (endTransitions f).Fixes (fun s => (s.field j).resets) :=
  .each fun i => .each fun _ => endTransition_resets f i j

/-- The hub as the reset of a field leaves it, but for packets under way: it knows what the checks found. -/
theorem sees_core (h : Hub) (beds : List BedFault) (banks : List Nat) : (h.sees beds banks).core = h.core.sees beds banks := rfl

/-- A field's reset up to where its checks decide. -/
def State.resetField (s : State) (f : Nat) (found : ResetCheck) : State :=
  let u := ((endTransitions f).run s).modHub (Hub.sees found.beds found.banks)
  ((poisonField f).run u).modField f (Field.afterReset u.hub f found.seqPass)

theorem bedMaps_core (h : Hub) (f : Nat) : h.core.bedMaps f = h.bedMaps f := by
  have hmap (b : Nat) : h.core.bedMap f b = h.bedMap f b := rfl
  simp only [Hub.bedMaps, hmap]

theorem sequencers_core (h : Hub) (f : Nat) (pass : BitVec 5) : h.core.sequencers f pass = h.sequencers f pass := rfl

/-- What the ends of a field's transitions touch. -/
def Place.transited (f : Nat) : Place → Prop
  | .out | .port | .hub | .link _ | .linkInject _ | .mem | .data | .tiles => True
  | .field g | .fieldFrame g => g = f
  | _ => False

theorem endTransitions_transited (f : Nat) : (endTransitions f).Within (Place.transited f) :=
  endTransitions_within ⟨⟨trivial, fun _ => trivial, fun _ => trivial⟩, trivial, trivial⟩ trivial trivial trivial rfl rfl

/-- What the reset of a field touches but for the field's frame and its memory. -/
def Place.resetParts : Place → Prop
  | .evc | .field _ | .ring _ | .stack _ | .link _ | .linkEntries _ | .linkInject _ | .out | .port | .hub => True
  | _ => False

theorem resetParts_answers : Answers Place.resetParts := ⟨⟨trivial, fun _ => trivial, fun _ => trivial⟩, trivial, trivial⟩

/-- The checks find four good sequencers and every bed repairable, or the field fails. -/
theorem finishFieldReset_run (f : Nat) (found : ResetCheck) (s : State) : ∃ mid last : Fx, mid.Within Place.resetParts ∧
    last.Within Place.resetParts ∧ (finishFieldReset f found).run s =
      (if ((s.hub.sees found.beds found.banks).sequencers f found.seqPass).length < 4 ∨
          ((s.hub.sees found.beds found.banks).bedMaps f).any (fun e => e.2.unrepairable) = true then failField f else last).run
        (mid.run (s.resetField f found)) := by
  have hcore := (endTransitions_transited f).hubCore_eq s id
  have hseq : (((endTransitions f).run s).hub.sees found.beds found.banks).sequencers f found.seqPass =
      (s.hub.sees found.beds found.banks).sequencers f found.seqPass := by
    rw [← sequencers_core, sees_core, hcore, ← sees_core, sequencers_core]
  have hbeds : (((endTransitions f).run s).hub.sees found.beds found.banks).bedMaps f = (s.hub.sees found.beds found.banks).bedMaps f := by
    rw [← bedMaps_core, sees_core, hcore, ← sees_core, bedMaps_core]
  rw [finishFieldReset, Fx.run_andThen, Fx.run_andThen, Fx.run_hub, Fx.run_look]
  dsimp only [State.modHub]
  rw [hseq, hbeds, Fx.run_all_cons, Fx.run_all_cons, Fx.run_field]
  simp only [Bool.or_eq_true, decide_eq_true_eq]
  generalize hu : State.modField f _ _ = u
  have hreset : s.resetField f found = u := by
    rw [← hu]
    rfl
  rw [hreset]
  refine ⟨_, _, ?_, ?_, run_all_concat [_, _, _] _ u⟩
  · exact .cons (.each fun _ => .stack trivial) (.cons (.each fun _ => resetSluice_within (fun _ => trivial) (fun _ => trivial) trivial)
      (.cons (.when (raise_within trivial trivial fun _ => trivial)) .nil))
  · exact .andThen (fieldChange_within trivial trivial fun _ => trivial) (finishWaits_within resetParts_answers)

/-- A field whose reset ends is in service, its sequencers chosen, its reservoir poisoned; the hub knows what the checks found. -/
theorem resetField_field {s : State} {f : Nat} (hf : f < s.fields.length) (found : ResetCheck) :
    ((s.resetField f found).field f).state = 0 ∧
    ((s.resetField f found).field f).seqUse = (s.hub.sees found.beds found.banks).sequencers f found.seqPass ∧
    ((s.resetField f found).field f).resets = (s.field f).resets ∧
    (s.resetField f found).faults = (s.hub.sees found.beds found.banks).faults ∧
    (s.resetField f found).ctxs = s.ctxs ∧
    (s.resetField f found).mem = ((endTransitions f).run s).mem.poison (memKey 1 (f * 2 ^ 32) / 8) (memKey 1 ((f + 1) * 2 ^ 32) / 8) := by
  have hwithin := endTransitions_transited f
  have hcore := hwithin.hubCore_eq s id
  have hresets : (((endTransitions f).run s).field f).resets = (s.field f).resets := endTransitions_resets f f s
  have hctxs := hwithin.ctxs_eq (fun _ => id) s
  obtain ⟨-, hlen, -, -, -⟩ := (endTransitions f).run_lengths s
  obtain ⟨u, hu⟩ : ∃ u, (endTransitions f).run s = u := ⟨_, rfl⟩
  rw [hu] at hcore hresets hctxs hlen
  have hfield : (s.resetField f found).field f = Field.afterReset (u.hub.sees found.beds found.banks) f found.seqPass (u.field f) := by
    rw [State.resetField, hu]
    exact State.field_modField _ _ _ (by exact hlen ▸ hf)
  rw [hfield]
  refine ⟨rfl, ?_, hresets, ?_, ?_, ?_⟩
  · rw [← sequencers_core, sees_core, ← hcore, ← sees_core, sequencers_core]
    rfl
  · rw [State.resetField, hu]
    exact (congrArg (fun x : Hub => (x.sees found.beds found.banks).faults) hcore :)
  · rw [State.resetField, hu]
    exact hctxs
  · rw [State.resetField, hu]
    rfl

theorem noCopyRuns_congr {s t : State} (h : t.ctxs = s.ctxs) : t.noCopyRuns = s.noCopyRuns := by
  simp only [State.noCopyRuns, State.ctx, h]

/-- A poisoned range holds no sound word. -/
theorem poison_wordOk (m : Mem) {lo hi w : Nat} (hlo : lo ≤ w * 8) (hhi : w * 8 < hi) : (m.poison lo hi).wordOk w = false :=
  Mem.wordOk_of_not_granuleOk (g := w * 8) (by omega) (Mem.poison_granuleOk hlo hhi)

section
variable {s : State} {f : Nat} {found : ResetCheck}

/-- A reset that the checks find good ends in service, and what follows leaves it so. -/
theorem finishFieldReset_good (hf : f < s.fields.length)
    (hseq : 4 ≤ ((s.hub.sees found.beds found.banks).sequencers f found.seqPass).length)
    (hbeds : ∀ e ∈ (s.hub.sees found.beds found.banks).bedMaps f, e.2.unrepairable = false) {t : State}
    (ht : afterReset.run ((finishFieldReset f found).run s) = t) :
    (t.field f).state = 0 ∧ (t.field f).seqUse = (s.hub.sees found.beds found.banks).sequencers f found.seqPass ∧
    (t.field f).resets = (s.field f).resets ∧ t.faults = (s.hub.sees found.beds found.banks).faults ∧
    (s.noCopyRuns = true → ∀ w, memKey 1 (f * 2 ^ 32) / 64 ≤ w → w < memKey 1 ((f + 1) * 2 ^ 32) / 64 → t.mem.wordOk w = false) := by
  obtain ⟨mid, last, hmid, hlast, hrun⟩ := finishFieldReset_run f found s
  rw [if_neg (by simpa [not_or, List.any_eq_true] using ⟨hseq, fun a b h => hbeds (a, b) h⟩), ← Fx.run_andThen] at hrun
  have hend : (mid.andThen last).Within Place.resetParts := .andThen hmid hlast
  obtain ⟨hstate, huse, hresets, hfaults, hctxs, hmem⟩ := resetField_field hf found
  obtain ⟨u, hu⟩ : ∃ u, s.resetField f found = u := ⟨_, rfl⟩
  rw [hu] at hrun hstate huse hresets hfaults hctxs hmem
  have hframe := (afterReset_within.fieldFrame_eq _ (i := f) id).trans (hend.fieldFrame_eq u (i := f) id)
  rw [← hrun, ht] at hframe
  refine ⟨(Field.state_of_frame hframe).trans hstate, (congrArg Field.seqUse hframe :).trans huse,
    (congrArg Field.resets hframe :).trans hresets, ?_, fun hq w hlo hhi => ?_⟩
  · rw [← ht, afterReset_faults, hrun, ← hfaults]
    exact hend.fixes_hub id (p := Hub.faults) (fun _ => rfl) u
  · have hquiet : ((mid.andThen last).run u).noCopyRuns = true := by
      rw [noCopyRuns_congr ((hend.ctxs_eq (fun _ => id) u).trans hctxs), hq]
    rw [← ht, hrun, afterReset_within.mem_quiet id hquiet, hend.mem_eq u id, hmem]
    simp only [memKey] at hlo hhi ⊢
    exact poison_wordOk _ (by omega) (by omega)

/-- A reset that the checks find bad leaves the field failed. -/
theorem finishFieldReset_bad (hf : f < s.fields.length) (hk : 2 * f + 1 < s.hbmStacks.length)
    (hbad : ((s.hub.sees found.beds found.banks).sequencers f found.seqPass).length < 4 ∨
      ∃ e ∈ (s.hub.sees found.beds found.banks).bedMaps f, e.2.unrepairable = true) {t : State}
    (ht : afterReset.run ((finishFieldReset f found).run s) = t) :
    (t.field f).state = 4 ∧ (t.stack (2 * f)).state = 3 ∧ (t.stack (2 * f + 1)).state = 3 := by
  obtain ⟨mid, last, hmid, hlast, hrun⟩ := finishFieldReset_run f found s
  rw [if_pos (by simpa [List.any_eq_true] using hbad)] at hrun
  obtain ⟨-, hfields, hstacks, -, -⟩ := mid.run_lengths (s.resetField f found)
  obtain ⟨-, hfields', hstacks', -, -⟩ := (endTransitions f).run_lengths s
  rw [← ht, hrun]
  refine failField_after ?_ ?_
  · rw [hfields]
    simpa [State.resetField, State.modField, State.modHub, poisonField, hfields'] using hf
  · rw [hstacks]
    simpa [State.resetField, State.modField, State.modHub, poisonField, hstacks'] using hk

theorem fieldResetDone_next (hf : f < Grade.fields s.grade) (h3 : (s.field f).state = 3) (hstage : s.hub.stage ≠ 15) (r : ResetCheck) :
    exec (.fieldResetDone f r) s = .next (s.announced (afterReset.run
      ((if (s.field f).resetStart + 1000000 < s.now then failField f else finishFieldReset f (onlyField f r)).run s))) := by
  change execFieldResetDone f r s = _
  rw [execFieldResetDone, Fx.outcome_eq, withInBand_run, Fx.run_when, if_pos (by simp [State.resetting, hf, h3, hstage]), Fx.run_all_cons]
  simp only [State.expired, decide_eq_true_eq]
  rfl

theorem fieldResetTimeout_next (hf : f < Grade.fields s.grade) (h3 : (s.field f).state = 3) (hstage : s.hub.stage ≠ 15) :
    exec (.fieldResetTimeout f) s = .next (s.announced (afterReset.run
      ((failField f).run (s.setNow ((s.field f).resetStart + 1000001))))) := by
  change execFieldResetTimeout f s = _
  rw [execFieldResetTimeout, Fx.outcome_eq, withInBand_run, Fx.run_when, if_pos (by simp [State.resetting, hf, h3, hstage]), Fx.run_all_cons,
    Fx.run_setNow, Fx.run_all_cons]
  rfl

end

/-- Settles O31: the checks decide whether the field returns to service or fails, and neither a warm reset nor the loss of the smallest
working set that may follow changes what the reset left. -/
theorem fieldResetEnds : Obligations.FieldResetEnds := by
  unfold Obligations.FieldResetEnds
  intro s f r h ⟨_, _, hfields, hstacks, _⟩ hf h3 hstage hh
  have hf8 := hf.trans_le (fields_le_eight s.grade)
  have hlen : f < s.fields.length := hfields ▸ hf8
  have hlen' : 2 * f + 1 < s.hbmStacks.length := by omega
  have hdone := fieldResetDone_next hf h3 hstage r
  refine ⟨fun hlate => ?_, fun hin hseq hbeds => ?_, fun hin hbad => ?_, ?_⟩
  · rw [if_pos hlate] at hdone
    refine ⟨_, hdone, ?_⟩
    simp only [announced_field, announced_stack]
    exact failField_after hlen hlen'
  · rw [if_neg (by omega)] at hdone
    refine ⟨_, hdone, ?_⟩
    subst hh
    obtain ⟨hstate, huse, hresets, hfaults, hpoison⟩ := finishFieldReset_good (found := onlyField f r) hlen hseq hbeds rfl
    simp only [announced_field, announced_hub, announced_mem]
    exact ⟨hstate, huse, hresets, (congrArg Prod.fst hfaults :), (congrArg Prod.snd hfaults :), hpoison⟩
  · rw [if_neg (by omega)] at hdone
    refine ⟨_, hdone, ?_⟩
    subst hh
    simp only [announced_field, announced_stack]
    exact finishFieldReset_bad (found := onlyField f r) hlen hlen' hbad rfl
  · refine ⟨_, fieldResetTimeout_next hf h3 hstage, ?_⟩
    simp only [announced_field, announced_stack, announced_now]
    obtain ⟨hfield, hstack, hstack'⟩ := failField_after (s := s.setNow ((s.field f).resetStart + 1000001)) hlen hlen'
    refine ⟨hfield, hstack, hstack', ?_⟩
    exact (Nat.le_max_right _ _).trans (((failField f).run_now (s.setNow _)).1.trans (afterReset.run_now _).1)

end Sys2Proof.Machine

/-! Proofs about field tests (R524 to R529). -/
namespace Sys2Proof.Machine

/-- No command whose kind is answered waits on. -/
theorem finishWaits_ended (cond : WaitKind → Bool) (status : Nat) (r : List Byte) (s : State) :
    ∀ w ∈ ((finishWaits cond status r).run s).port.waits, cond w.kind = false := by
  rw [finishWaits, Fx.run_look, Fx.run_andThen, Fx.run_port]
  have hanswer : (Fx.each (s.port.waits.filter (fun w => cond w.kind)) (fun w => w.answer status r)).Within Place.offPort :=
    .each fun w => Wait.answer_within offPort_sends trivial
  rw [hanswer.port_eq _ id]
  exact fun w hw => by simpa using (List.mem_filter.mp hw).2

theorem answerTest_ended (f status : Nat) (r : List Byte) (s : State) :
    ∀ w ∈ ((answerTest f status r).run s).port.waits, w.kind ≠ .fieldTest f := fun w hw e => by
  have h := finishWaits_ended _ status r s w hw
  simp [e] at h

theorem answerTest_answered (f status : Nat) (r : List Byte) : (answerTest f status r).Within Place.answered :=
  answerTest_within answered_answers

/-- A test that is dropped is gone, and the field stands as it stood. -/
theorem dropTest_run {s : State} {f : Nat} (hf : f < s.fields.length) {t : State} (ht : (dropTest f).run s = t) :
    (t.field f).test = none ∧ (t.field f).state = (s.field f).state ∧ (∀ x ∈ t.port.waits, x.kind ≠ .fieldTest f) ∧
      t.mem = s.mem ∧ t.ctxs = s.ctxs ∧ t.now = s.now := by
  rw [dropTest, Fx.run_andThen, Fx.run_field] at ht
  have hanswer := answerTest_answered f stBusy []
  subst ht
  refine ⟨?_, ?_, answerTest_ended _ _ _ _, hanswer.mem_eq _ id, hanswer.ctxs_eq (fun _ => id) _, hanswer.now_eq _ id⟩
  · rw [hanswer.field_eq _ id, State.field_modField _ _ _ hf]
  · rw [hanswer.field_eq _ id, State.field_modField _ _ _ hf]

theorem borrow_run {s : State} {f : Nat} (hf : f < s.fields.length) (k : FieldTest) {t : State} (ht : (borrow f k).run s = t) :
    (t.field f).state = 1 ∧ (t.field f).test = some { k with borrowed := some s.now } ∧ t.mem = s.mem ∧ t.ctxs = s.ctxs ∧
      t.port = s.port := by
  rw [borrow, Fx.run_look, Fx.run_andThen, Fx.run_field] at ht
  have hraise (k : FieldTest) : (raise 456 0 0x0A06 none f k.kind k.waited).Within Place.raised :=
    raise_within trivial trivial fun _ => trivial
  subst ht
  have hframe := (hraise { k with borrowed := some s.now }).fieldFrame_eq (s.modField f (fun g =>
    { g with state := 1, test := some { k with borrowed := some s.now } })) (i := f) id
  rw [State.field_modField _ _ _ hf] at hframe
  exact ⟨Field.state_of_frame hframe, Field.test_of_frame hframe, (hraise _).mem_eq _ id, (hraise _).ctxs_eq (fun _ => id) _,
    (hraise _).port_eq _ id⟩

/-- The command is answered, and the field is fenced and reset. -/
theorem overrunTest_run {s : State} {f : Nat} (hf : f < s.fields.length) {t : State} (ht : (overrunTest f).run s = t) :
    (t.field f).state = 3 ∧ (t.field f).test = none ∧ (s.noCopyRuns = true → t.mem = s.mem) := by
  have hanswer := answerTest_answered f stTimeout []
  have hrest : (Fx.all [trainingWaits, checkSet]).Within Place.checked :=
    .cons (trainingWaits_within (aborted_aborts.toAnswers.mono fun _ => .inl)) (.cons checkSet_checked .nil)
  have htiles : (Fx.all [fenceField f, trainingWaits, checkSet]).Within Place.offTiles :=
    .cons (fenceField_offTiles f) (.cons trainingWaits_offTiles (.cons checkSet_offTiles .nil))
  rw [overrunTest, withInBand_run, Fx.run_all_cons] at ht
  obtain ⟨-, hlen, -, -, -⟩ := (answerTest f stTimeout []).run_lengths s
  have hmem := hanswer.mem_eq s id
  have hctxs := hanswer.ctxs_eq (fun _ => id) s
  obtain ⟨u, hu⟩ : ∃ u, (answerTest f stTimeout []).run s = u := ⟨_, rfl⟩
  rw [hu] at ht hlen hmem hctxs
  have hframe := hrest.fieldFrame_eq ((fenceField f).run u) (i := f) (by simp [Place.checked, Place.aborted, Place.raised])
  rw [← Fx.run_all_cons] at hframe
  obtain ⟨hstate, htest⟩ := fenceField_frame (s := u) (f := f) (hlen ▸ hf)
  have hquiet (hq : s.noCopyRuns = true) := htiles.mem_eq_offTiles (s := u) (by rw [noCopyRuns_congr hctxs, hq])
  obtain ⟨v, hv⟩ : ∃ v, (Fx.all [fenceField f, trainingWaits, checkSet]).run u = v := ⟨_, rfl⟩
  rw [hv] at ht hframe hquiet
  rw [← ht, announced_field, announced_mem]
  exact ⟨(Field.state_of_frame hframe).trans hstate, (Field.test_of_frame hframe).trans htest, fun hq => (hquiet hq).trans hmem⟩

theorem Field.tested_test (kind : Nat) (g : Field) : (g.tested kind).test = none := by
  unfold Field.tested
  split <;> rfl

/-- A test that ends in time gives the field back, or keeps it. -/
theorem endTest_run {s : State} {f start : Nat} (hf : f < s.fields.length) (k : FieldTest) (r : TestResult) {t : State}
    (ht : (endTest f start k r).run s = t) :
    (t.field f).test = none ∧ (t.field f).state = (if r.verdict ≠ 0 ∧ k.onFail = 1 then 1 else 0) ∧
      (∀ x ∈ t.port.waits, x.kind ≠ .fieldTest f) ∧ t.mem = s.mem ∧ t.ctxs = s.ctxs := by
  have hverdict : (coveredBy k.kind r).verdict = r.verdict := by
    unfold coveredBy
    split <;> rfl
  rw [endTest, Fx.run_look] at ht
  dsimp only at ht
  rw [hverdict, Fx.run_all_cons, Fx.run_hub, Fx.run_all_cons, Fx.run_field, Fx.run_all_cons, Fx.run_all_cons, Fx.run_all_nil] at ht
  have hraise (c : Nat) : (raise 456 0 0x0A07 none f r.verdict c).Within Place.raised := raise_within trivial trivial fun _ => trivial
  generalize hu : State.modField f _ _ = u at ht
  have hfield : (u.field f).test = none ∧ (u.field f).state = (if r.verdict ≠ 0 ∧ k.onFail = 1 then 1 else 0) := by
    rw [← hu, State.field_modField _ _ _ (by exact hf)]
    exact ⟨Field.tested_test _ _, by simp⟩
  have hmem : u.mem = s.mem ∧ u.ctxs = s.ctxs := by
    rw [← hu]
    exact ⟨rfl, rfl⟩
  have hframe := (hraise (min (2 ^ 32 - 1) (s.now - start))).fieldFrame_eq u (i := f) id
  subst ht
  have hanswer := answerTest_answered f stOk
    (testRecord (s.field f) f k (min (2 ^ 32 - 1) (s.now - start)) (coveredBy k.kind r))
  rw [hanswer.field_eq _ id, hanswer.mem_eq _ id, hanswer.ctxs_eq (fun _ => id), (hraise _).mem_eq _ id, (hraise _).ctxs_eq (fun _ => id)]
  exact ⟨(Field.test_of_frame hframe).trans hfield.1, (Field.state_of_frame hframe).trans hfield.2, answerTest_ended _ _ _ _, hmem⟩

/-- Settles O32: each end of a test writes its field and answers the command; a test that overruns resets the field. -/
theorem fieldTests : Obligations.FieldTests := by
  unfold Obligations.FieldTests
  intro s f k ⟨_, _, hfields, _⟩ hf htest
  have hlen : f < s.fields.length := hfields ▸ hf.trans_le (fields_le_eight s.grade)
  refine ⟨fun hfree hlate hidle hstate => ?_, fun hfree hlate => ?_, fun c r hb hstate hlate => ?_, fun c r hb hstate hin => ?_,
    fun hfree hdeadline hno => ?_, fun c hb => ?_⟩
  · refine ⟨(borrow f k).run s, ?_, borrow_run hlen k rfl⟩
    change execFieldTestBorrow f s = _
    rw [execFieldTestBorrow, htest]
    dsimp only
    rw [if_neg (by simp [hlate]), Fx.outcome_eq, Fx.run_when, if_pos (by simp [State.canBorrow, hfree, hidle, hstate])]
  · obtain ⟨hnone, hsame, hended, hmem, hctxs, -⟩ := dropTest_run hlen rfl
    refine ⟨_, ?_, hnone, hsame, hended, hmem, hctxs⟩
    change execFieldTestBorrow f s = _
    rw [execFieldTestBorrow, htest]
    dsimp only
    rw [if_pos (by simp [hlate, hfree]), Fx.outcome_eq]
  · refine ⟨_, ?_, overrunTest_run hlen rfl⟩
    change execTestDone f r s = _
    rw [execTestDone, htest]
    simp only [hb]
    rw [Fx.outcome_eq, Fx.run_when, if_pos (by simp [hstate]), if_pos hlate]
  · refine ⟨_, ?_, endTest_run (start := c) hlen k r rfl⟩
    change execTestDone f r s = _
    rw [execTestDone, htest]
    simp only [hb]
    rw [Fx.outcome_eq, Fx.run_when, if_pos (by simp [hstate]), if_neg (Nat.not_lt.mpr hin)]
  · obtain ⟨hnone, -, hended, hmem, hctxs, hnow⟩ := dropTest_run (s := s.setNow (k.accepted + k.deadline + 1)) hlen rfl
    refine ⟨_, ?_, hnone, hended, ?_, hmem, hctxs⟩
    · change execFieldTestWaitTimeout f s = _
      rw [execFieldTestWaitTimeout, htest]
      dsimp only
      rw [Fx.outcome_eq, Fx.run_when, if_pos (by simp [hfree, hdeadline]), if_neg, Fx.run_andThen, Fx.run_setNow]
      rcases hno with h | h | h
      · simp [h]
      · simp [State.canBorrow, h]
      · simp [State.canBorrow, Nat.not_le.mpr h]
    · rw [hnow]
      exact Nat.le_max_right ..
  · obtain ⟨hstate, hnone, hmem⟩ := overrunTest_run (s := s.setNow (c + testLimit k.kind + 1)) hlen rfl
    have hnow := ((overrunTest f).run_now (s.setNow (c + testLimit k.kind + 1))).1
    refine ⟨_, ?_, hstate, hnone, ?_, hmem⟩
    · change execFieldTestTimeout f s = _
      rw [execFieldTestTimeout, htest]
      simp only [hb]
      rw [Fx.outcome_eq, Fx.run_andThen, Fx.run_setNow]
    · exact (Nat.le_max_right s.now _).trans hnow

end Sys2Proof.Machine

/-! Proofs about discarded packets and abort records (R415, R420, R421, R425). -/
namespace Sys2Proof.Machine

/-! ## A packet that is discarded -/

/-- Every place but the receive queues of links, contexts, and memory as long as no COPY runs. -/
def Place.offQueues : Place → Prop
  | .linkRx _ | .ctx _ | .tiles => False
  | _ => True

/-- Every place but the receive queues of links, and memory as long as no COPY runs. -/
def Place.offRx : Place → Prop
  | .linkRx _ | .tiles => False
  | _ => True

theorem offRx_aborts : Aborts Place.offRx := by
  refine ⟨⟨⟨⟨trivial, ?_, ?_⟩, trivial, trivial⟩, trivial, trivial, trivial, trivial, ?_, ?_, ?_⟩, ?_⟩ <;> exact fun _ => trivial

/-- A packet that waits leaves its receive queue; its slots return (R408). -/
theorem takePacket_run {s : State} {i : Nat} {p : Packet} (h : (p.vl, p) ∈ (s.link i).rx) :
    (takePacket i p).run s = (returnUnits i p.vl p.units).run (s.modLink i (fun l => { l with rx := l.rx.erase (p.vl, p) })) := by
  rw [takePacket, Fx.run_look, if_pos (by simpa using h), Fx.run_andThen, Fx.run_link]

theorem takePacket_rx {s : State} {i : Nat} {p : Packet} (hi : i < s.links.length) (h : (p.vl, p) ∈ (s.link i).rx) :
    (((takePacket i p).run s).link i).rx = (s.link i).rx.erase (p.vl, p) := by
  have hreturn : (returnUnits i p.vl p.units).Within Place.offQueues := returnUnits_within (fun _ => trivial) trivial
  rw [takePacket_run h, hreturn.linkRx_eq _ id, State.link_modLink _ _ _ hi]

/-- Every place but contexts, and memory as long as no COPY runs. -/
def Place.offCtxs : Place → Prop
  | .ctx _ | .tiles => False
  | _ => True

theorem takePacket_offCtxs (i : Nat) (p : Packet) : (takePacket i p).Within Place.offCtxs :=
  takePacket_within trivial trivial (fun _ => trivial) trivial

theorem discardAbort_offRx (i : Nat) (p : Packet) (code : Nat) : (discardAbort i p code).Within Place.offRx :=
  discardAbort_within offRx_aborts ⟨trivial, fun _ => trivial, fun _ => trivial⟩ fun _ => trivial

/-- The job of a packet that is discarded is aborted (R413, R415). -/
theorem discardAbort_ctx (i : Nat) (p : Packet) (code c : Nat) (s : State) : ((discardAbort i p code).run s).ctx c =
    (s.ctx c).tornIf s.now stAborted (p.job.toNat ≠ 0 ∧ c < 16 ∧ (s.ctx c).job.toNat = p.job.toNat) := by
  have hevent : (discardEvent i p code).Within Place.raised := discardEvent_within trivial trivial fun _ => trivial
  rw [discardAbort, Fx.run_andThen, (abortJob_ctx _ _ _).1, hevent.ctx_eq s id, hevent.now_eq s id]

theorem Ctx.tornIf_pos {now cause : Nat} {p : Prop} [Decidable p] (hp : p) {x : Ctx} (h : x.Runs) : x.tornIf now cause p = x.torn now cause :=
  if_pos ⟨hp, h⟩

theorem Ctx.tornIf_neg {now cause : Nat} {p : Prop} [Decidable p] (hp : ¬ p) (x : Ctx) : x.tornIf now cause p = x :=
  if_neg fun h => hp h.1

/-! ## Abort records -/

theorem abortRecord_seen {s : State} {i : Nat} {r : AbortRecord} (hseen : s.seenAbort r = true) (hjob : r.job ≠ 0#16) :
    exec (.abortRecord i r) s = .next ((noteAbort r).run s) := by
  change execAbortRecord i r s = _
  rw [execAbortRecord, Fx.outcome_eq, receiveAbort, Fx.run_look, Fx.run_when, if_pos (by simpa using hjob), Fx.run_andThen, Fx.run_when,
    if_neg (by simp [hseen])]

theorem abortRecord_new {s : State} {i : Nat} {r : AbortRecord} (hseen : s.seenAbort r = false) (hjob : r.job ≠ 0#16) :
    exec (.abortRecord i r) s = .next ((tearJob r.job.toNat r.cause.toNat).run ((sendAbort r (some i)).run ((noteAbort r).run s))) := by
  change execAbortRecord i r s = _
  rw [execAbortRecord, Fx.outcome_eq, receiveAbort, Fx.run_look, Fx.run_when, if_pos (by simpa using hjob), Fx.run_andThen, Fx.run_when,
    if_pos (by simp [hseen]), Fx.run_andThen]

theorem noteAbort_run (r : AbortRecord) (s : State) : (noteAbort r).run s = s.modHub (fun h =>
    { h with aborts := h.aborts.filter (fun e => decide (s.now ≤ e.2 + 25600) && e.1 != r) ++ [(r, s.now)] }) := rfl

/-- Settles O36: the packet leaves its queue before its job is aborted, and an abort's contexts are those of `tearJob_ctx`. -/
theorem discardsAndAborts : Obligations.DiscardsAndAborts := by
  unfold Obligations.DiscardsAndAborts
  refine ⟨fun s i v p ⟨_, _, _, _, hlinks, _⟩ hi hfind hvl => ?_, fun s i r hlen => ⟨fun hjob => ?_, fun hseen hjob => ?_,
    fun hseen hjob => ?_⟩⟩
  · have hmem : (p.vl, p) ∈ (s.link i).rx := hvl ▸ List.mem_of_find?_eq_some hfind
    have hrx := takePacket_rx (hlinks ▸ hi.trans_le (links_le_32 s.grade)) hmem
    have hctxs := (takePacket_offCtxs i p).ctxs_eq (fun _ => id) s
    have hctx (c : Nat) := (takePacket_offCtxs i p).ctx_eq s (i := c) id
    have hkeep := (takePacket_offCtxs i p).mem_quiet id (s := s)
    obtain ⟨u, hu⟩ : ∃ u, (takePacket i p).run s = u := ⟨_, rfl⟩
    rw [hu] at hrx hctxs hkeep
    refine ⟨(discardAbort i p 3).run u, ?_, ?_, fun hq => ?_, fun c hc hjob hbound hruns => ?_⟩
    · change execResidencyTimeout i v s = _
      rw [execResidencyTimeout, hfind]
      dsimp only
      rw [Fx.outcome_eq, Fx.run_andThen, hu]
    · rw [(discardAbort_offRx i p 3).linkRx_eq u id, hrx, hvl]
    · rw [(discardAbort_offRx i p 3).mem_quiet id (by rw [noCopyRuns_congr hctxs, hq]), hkeep hq]
    · have hu' : u.ctx c = s.ctx c := hu ▸ hctx c
      rw [discardAbort_ctx, hu', Ctx.tornIf_pos ⟨toNat_ne_zero hjob, hc, by rw [hbound]⟩ hruns]
      rfl
  · change execAbortRecord i r s = _
    rw [execAbortRecord, Fx.outcome_eq, receiveAbort, Fx.run_look, Fx.run_when, if_neg (by simp [hjob])]
  · refine ⟨_, abortRecord_seen hseen hjob, ?_, rfl⟩
    rw [noteAbort_run]
    exact List.mem_append_right _ (List.mem_singleton.mpr rfl)
  · have hsend : (sendAbort r (some i)).Within Place.offCtx := sendAbort_within trivial (fun _ => trivial) fun _ => trivial
    have hctx (c : Nat) : ((sendAbort r (some i)).run ((noteAbort r).run s)).ctx c = s.ctx c := run_ctx_offCtx hsend _ c
    have hnow : ((sendAbort r (some i)).run ((noteAbort r).run s)).now = s.now := run_now_offCtx hsend _
    obtain ⟨htorn, -⟩ := tearJob_ctx r.job.toNat r.cause.toNat ((sendAbort r (some i)).run ((noteAbort r).run s))
    refine ⟨_, abortRecord_new hseen hjob, fun hq => ?_, fun c hc hbound hruns => ?_, fun c hc hother => ?_⟩
    · rw [← Fx.run_andThen, ← Fx.run_andThen]
      have hall : ((noteAbort r).andThen ((sendAbort r (some i)).andThen (tearJob r.job.toNat r.cause.toNat))).Within Place.offTiles :=
        .andThen (noteAbort_within trivial trivial) (.andThen (sendAbort_within trivial (fun _ => trivial) fun _ => trivial)
          (tearJob_within offTiles_aborts.toTears fun _ => trivial))
      exact hall.mem_eq_offTiles hq
    · rw [htorn, hctx, hnow, Ctx.tornIf_pos ⟨hc, by rw [hbound]⟩ hruns]
      exact ⟨rfl, rfl⟩
    · rw [htorn, hctx, Ctx.tornIf_neg]
      exact fun h => hother (BitVec.eq_of_toNat_eq h.2)

end Sys2Proof.Machine

/-! Proofs about what a link expects next: no traffic, no abort and no answer changes it. -/
namespace Sys2Proof.Machine

/-- The number of the flit that a link expects, and whether it asks for a replay. -/
def Link.expects (l : Link) : BitVec 12 × Bool := (l.rxExpect, l.nack)

/-- The effect leaves what link i expects. -/
def Fx.Expects (i : Nat) (a : Fx) : Prop := a.Fixes (fun s => (s.link i).expects)

section
variable {i : Nat}

theorem Fx.Fixes.expects_link {j : Nat} {g : Link → Link} (h : ∀ l, (g l).expects = l.expects) : (Fx.link j g).Expects i := fun s => by
  rw [Fx.run_link]
  dsimp only
  rcases State.link_modLink_cases s j i g with e | ⟨rfl, e⟩ <;> rw [e]
  exact h _

/-- Every place but links. -/
def Place.offLinks : Place → Prop
  | .link _ => False
  | _ => True

theorem offLinks_raises : Raises Place.offLinks := ⟨trivial, fun _ => trivial, fun _ => trivial⟩

/-- An effect that touches no link leaves what it expects. -/
theorem Fx.Within.expects {a : Fx} (h : a.Within Place.offLinks) : a.Expects i := fun s => congrArg Link.expects (h.link_eq s (i := i) id)

/-! ## Packets and flits that leave -/

theorem pushFlit_expects {j ftype : Nat} {first : Byte} {body : List Byte} : (pushFlit j ftype first body).Expects i :=
  .look fun _ => .andThen (.expects_link fun _ => rfl) fun _ => rfl

theorem sendFlit_expects {j ftype : Nat} {body : List Byte} : (sendFlit j ftype body).Expects i :=
  .look fun _ => .ite pushFlit_expects (.expects_link fun _ => rfl)

theorem flushHeld_expects {j : Nat} : (flushHeld j).Expects i :=
  .look fun _ => .each fun _ => .andThen (.expects_link fun _ => rfl) pushFlit_expects

theorem injectAt_expects {j port : Nat} {p : Packet} : (injectAt j port p).Expects i := .expects_link fun l => by split <;> rfl

theorem sendPacket_expects {port : Nat} {p : Packet} : (sendPacket port p).Expects i := by
  refine .look fun s => ?_
  split
  · exact .ite (fun _ => rfl) (.when injectAt_expects)
  · exact .skip

theorem reply_expects {dest : Dest} {relayed tag opcode ctx status : Nat} {r : List Byte} :
    (reply dest relayed tag opcode ctx status r).Expects i := by
  refine .look fun s => ?_
  split
  · exact .when fun _ => rfl
  · exact .ite sendPacket_expects injectAt_expects
  · exact .skip

theorem finishWaits_expects {cond : WaitKind → Bool} {status : Nat} {r : List Byte} : (finishWaits cond status r).Expects i :=
  .look fun _ => .andThen (fun _ => rfl) (.each fun _ => reply_expects)

theorem trainingWaits_expects : trainingWaits.Expects i := .look fun _ => .andThen (fun _ => rfl) (.each fun _ => reply_expects)

/-! ## Units -/

theorem onVl_expects {j v : Nat} {f : Vl → Vl} : (onVl j v f).Expects i :=
  .look fun _ => .andThen (.expects_link fun _ => rfl) (Fx.Within.expects (.field trivial (hb := .inl trivial)))

theorem grantBlock_expects {f : Nat} : (grantBlock f).Expects i := by
  refine .look fun s => .when ?_
  split
  · exact onVl_expects
  · exact .skip

theorem storeUnits_expects {j v n : Nat} : (storeUnits j v n).Expects i := .andThen onVl_expects (grantBlock_expects)

theorem returnUnits_expects {j v n : Nat} : (returnUnits j v n).Expects i := .andThen onVl_expects (grantBlock_expects)

/-! ## Aborts and teardown -/

theorem sendTile_expects {c port job ga : Nat} {bytes : List Byte} {bad : List Nat} : (sendTile c port job ga bytes bad (fun _ => Fx.skip)).Expects i :=
  .look fun _ => .each fun _ => .look fun _ => .andThen (.andThen .skip sendPacket_expects) fun _ => rfl

theorem finishCopies_expects {c : Nat} {o : Op} : (finishCopies c o).Expects i := by
  refine .look fun s => .when (.each fun p => ?_)
  dsimp only
  split
  · exact .skip
  · split
    · exact .when (.andThen (fun _ => rfl) (.each fun _ _ => rfl))
    · split
      · split
        · exact fun _ => rfl
        · exact .skip
      · exact sendTile_expects

theorem sendCopy_expects {links : List Nat} {f j : Nat} {p : Packet} : (sendCopy links f j p).Expects i := by
  unfold sendCopy
  split
  · exact injectAt_expects
  · exact sendPacket_expects

theorem endCopies_expects {cond : Copy → Bool} {status : Nat} : (endCopies cond status).Expects i :=
  .look fun _ => .cons finishWaits_expects (.cons (.each fun _ => .expects_link fun _ => rfl) (.cons (fun _ => rfl)
    (.cons (.each fun _ => .look fun _ => .when sendCopy_expects) .nil)))

theorem tearOne_expects {c cause : Nat} : (tearOne c cause).Expects i :=
  .look fun _ => .when (.cons (.each fun _ => .expects_link fun _ => rfl) (.cons (.each fun _ _ => rfl) (.cons (.each fun _ => finishCopies_expects)
    (.cons (fun _ => rfl) (.cons (.each fun _ => Fx.Within.expects (.field trivial (hw := .inl trivial) (hb := .inl trivial)))
    (.cons endCopies_expects (.cons finishWaits_expects (.cons (fun _ => rfl) .nil))))))))

theorem freeEntries_expects {cond : U16 → U16 → Bool} : (freeEntries cond).Expects i :=
  .look fun _ => .each fun _ => .cons (.expects_link fun _ => rfl) (.cons (.each fun _ => returnUnits_expects)
    (.cons (.each fun _ => .each fun _ => returnUnits_expects) .nil))

theorem tearJob_expects {job cause : Nat} : (tearJob job cause).Expects i :=
  .look fun _ => .andThen freeEntries_expects (.each fun _ => tearOne_expects)

theorem sendAbort_expects {r : AbortRecord} {except : Option Nat} : (sendAbort r except).Expects i :=
  .look fun _ => .each fun _ => sendFlit_expects

theorem abortJob_expects {job cause : Nat} : (abortJob job cause).Expects i :=
  .when (.look fun _ => .cons (fun _ => rfl) (.cons (fun _ => rfl) (.cons sendAbort_expects (.cons tearJob_expects .nil))))

theorem tearCtx_expects {c cause : Nat} : (tearCtx c cause).Expects i :=
  .look fun _ => .when (.ite tearOne_expects abortJob_expects)

theorem checkSet_expects : checkSet.Expects i :=
  .look fun _ => .ite .skip (.ite (.andThen (fun _ => rfl) (Fx.Within.expects (dropMin_within trivial))) (.when (.cons (fun _ => rfl)
    (.cons (.each fun _ => tearCtx_expects) (.cons (Fx.Within.expects (addMin_within offLinks_raises trivial)) .nil)))))

theorem receiveAbort_expects {j : Nat} {r : AbortRecord} : (receiveAbort j r).Expects i :=
  .look fun _ => .when (.andThen (fun _ => rfl) (.when (.andThen sendAbort_expects tearJob_expects)))

/-! ## Packets that arrive -/

theorem discardEvent_expects {j : Nat} {p : Packet} {code : Nat} : (discardEvent j p code).Expects i :=
  Fx.Within.expects (discardEvent_within trivial trivial fun _ => trivial)

theorem arrive_expects {j : Nat} {p : Packet} : (arrive j p).Expects i := by
  have hgone {fx : Fx} (v n : Nat) (h : fx.Expects i) : (((storeUnits j v n).andThen (returnUnits j v n)).andThen fx).Expects i :=
    .andThen (.andThen storeUnits_expects returnUnits_expects) h
  have habort {code : Nat} : (discardAbort j p code).Expects i := .andThen discardEvent_expects abortJob_expects
  refine .look fun s => ?_
  dsimp only
  refine .ite (hgone _ _ ?_) (.ite (hgone _ _ discardEvent_expects) (.ite (hgone _ _ discardEvent_expects) (.ite (hgone _ _ habort)
    (.ite (hgone _ _ .skip) (.ite (hgone _ _ habort) (.andThen storeUnits_expects (.expects_link fun _ => rfl)))))))
  exact .cons discardEvent_expects (.cons (Fx.Within.expects (parityEvent_within trivial trivial fun _ => trivial))
    (.cons (.when abortJob_expects) .nil))

theorem replayAll_expects {j : Nat} : (replayAll j).Expects i :=
  .look fun _ => .cons (.each fun _ _ => rfl) (.cons (.expects_link fun _ => rfl) (.cons
    (Fx.Within.expects (linkChange_within trivial trivial fun _ => trivial)) .nil))

theorem takeAck_expects {j ack : Nat} {nack : Bool} : (takeAck j ack nack).Expects i := by
  refine .look fun s => ?_
  dsimp only
  split
  · exact .ite (.andThen (.expects_link fun _ => rfl) (.when (replayAll_expects))) (.expects_link fun _ => rfl)
  · exact .when (.expects_link fun _ => rfl)

theorem takeBody_expects {j ftype : Nat} {flit : List Byte} : (takeBody j ftype flit).Expects i := by
  refine .look fun s => ?_
  split
  · exact .andThen (.expects_link fun _ => rfl) (.each fun _ => arrive_expects)
  · exact .each fun _ => receiveAbort_expects
  · exact .skip

theorem answerFlit_expects {j : Nat} {before : BitVec 12} : (answerFlit j before).Expects i := .look fun _ => .when fun _ => rfl

end

end Sys2Proof.Machine

/-! Proofs about the end of link training, lanes and partners (R387, R389 to R392, R566, R610). -/
namespace Sys2Proof.Machine
set_option Elab.async false -- the side conditions of the frames below are elaborated in place, not each in a thread of its own

/-! ## Outcomes whose frame holds the tiles -/

/-- A command whose frame holds the tiles keeps memory as long as no COPY runs. -/
theorem Goes.mem {F : Place → Prop} {s t : State} {o : Host.Outcome State Fault Refusal} (h : Goes F s o) (hF : ¬ F .tiles)
    (ho : o = .next t) (hq : s.noCopyRuns = true) : t.mem = s.mem := by
  obtain ⟨a, e, ha⟩ := h
  have ht : t = a.run s := by
    rw [ho, Fx.outcome_eq] at e
    exact Host.Outcome.next.inj e
  rw [ht]
  exact ha.mem_quiet hF hq

/-! ## A warm reset that waits -/

/-- A warm reset trains its links anew now (R490). -/
def State.retrains (s : State) : Bool := s.hub.warm && s.hub.retrain && !s.fieldsBusy

theorem fieldsBusy_congr {s t : State} (hg : t.grade = s.grade) (h : ∀ f, (t.field f).state = (s.field f).state) :
    t.fieldsBusy = s.fieldsBusy := by
  simp only [State.fieldsBusy, hg, h]

theorem retrains_congr {s t : State} (hwarm : t.hub.warm = s.hub.warm) (hretrain : t.hub.retrain = s.hub.retrain)
    (hg : t.grade = s.grade) (h : ∀ f, (t.field f).state = (s.field f).state) : t.retrains = s.retrains := by
  rw [State.retrains, State.retrains, hwarm, hretrain, fieldsBusy_congr hg h]

/-- Every place but the frames of the hub, fields and links. -/
def Place.offFrames : Place → Prop
  | .hubFrame | .fieldFrame _ | .linkFrame _ => False
  | _ => True

theorem offFrames_aborts : Aborts Place.offFrames := by
  refine ⟨⟨⟨⟨trivial, ?_, ?_⟩, trivial, trivial⟩, trivial, trivial, trivial, trivial, ?_, ?_, ?_⟩, ?_⟩ <;> exact fun _ => trivial

theorem Fx.Within.fixes_retrains {a : Fx} (h : a.Within Place.offFrames) : a.Fixes State.retrains := fun s =>
  retrains_congr (congrArg Hub.warm (h.hubFrame_eq s id) :) (congrArg Hub.retrain (h.hubFrame_eq s id) :) (a.run_grade s)
    fun f => Field.state_of_frame (h.fieldFrame_eq s (i := f) id)

theorem checkBringUp_retrains : checkBringUp.Fixes State.retrains := .look fun _ => .when fun _ => rfl

/-! ## What follows the end of training -/

theorem endTeardown_expects {i c : Nat} : (endTeardown c).Expects i :=
  .look fun _ => .when (.cons (Fx.Within.expects (teardownEvent_within trivial trivial fun _ => trivial)) (.cons (fun _ => rfl)
    (.cons (.cons finishWaits_expects (.cons (fun _ => rfl) (.cons finishWaits_expects .nil))) .nil)))

/-- A warm reset that does not train its links now leaves the frame of each link, and what it expects. -/
theorem checkWarm_link {s : State} (h : s.retrains = false) (i : Nat) :
    ((checkWarm.run s).link i).frame = (s.link i).frame ∧ ((checkWarm.run s).link i).expects = (s.link i).expects := by
  have hretrain : retrainLinks.run s = s := by
    rw [retrainLinks, Fx.run_look, Fx.run_when, if_neg]
    rw [State.retrains] at h
    simp [h]
  rw [checkWarm, Fx.run_andThen, hretrain, Fx.run_look]
  generalize hfx : Fx.when _ _ = a
  have hwithin : a.Within (fun p => p ≠ .linkFrame i) := by
    rw [← hfx]
    have answers : Answers (fun p => p ≠ .linkFrame i) := ⟨⟨nofun, fun _ => nofun, fun _ => nofun⟩, nofun, nofun⟩
    exact .when (.cons (.hub nofun (hc := .inl nofun) (hf := .inl nofun)) (.cons (.each fun _ => endTeardown_within answers nofun nofun nofun
      nofun fun _ => nofun) (.cons (.each fun _ => .ctx nofun (hq := .inl nofun) (hr := .inl nofun)) (.cons (finishWaits_within answers) .nil))))
  have hexpects : a.Expects i := by
    rw [← hfx]
    exact .when (.cons (fun _ => rfl) (.cons (.each fun _ => endTeardown_expects) (.cons (.each fun _ _ => rfl)
      (.cons finishWaits_expects .nil))))
  exact ⟨hwithin.linkFrame_eq s (fun h => h rfl), hexpects s⟩

/-- What follows the end of a link's training leaves the frame of the link, and what it expects, unless a warm reset trains its links. -/
theorem trained_link {s : State} (h : s.retrains = false) (i cause : Nat) {t : State}
    (ht : (Fx.all [linkChange i cause, trainingWaits, checkBringUp, checkWarm, checkSet]).run s = t) :
    (t.link i).frame = (s.link i).frame ∧ (t.link i).expects = (s.link i).expects := by
  have hfirst : ((linkChange i cause).andThen trainingWaits).Within Place.offFrames :=
    .andThen (linkChange_within trivial trivial fun _ => trivial) (trainingWaits_within offFrames_aborts.toAnswers)
  have hretrains := hfirst.fixes_retrains s
  have hframe := hfirst.linkFrame_eq s (i := i) id
  have hexpects : ((linkChange i cause).andThen trainingWaits).Expects i :=
    .andThen (Fx.Within.expects (linkChange_within trivial trivial fun _ => trivial)) trainingWaits_expects
  have hexpects' := hexpects s
  rw [Fx.run_andThen] at hretrains hframe hexpects'
  rw [Fx.run_all_cons, Fx.run_all_cons] at ht
  obtain ⟨u, hu⟩ : ∃ u, trainingWaits.run ((linkChange i cause).run s) = u := ⟨_, rfl⟩
  rw [hu] at hretrains hframe hexpects' ht
  rw [Fx.run_all_cons, Fx.run_all_cons, Fx.run_all_cons, Fx.run_all_nil] at ht
  obtain ⟨hwarm, hwarm'⟩ := checkWarm_link (s := checkBringUp.run u) (by rw [checkBringUp_retrains, hretrains, h]) i
  have hstage : (checkBringUp.run u).link i = u.link i :=
    (checkBringUp_within (F := fun p => p ≠ .link i) nofun nofun nofun).link_eq u fun h => h rfl
  rw [hstage] at hwarm hwarm'
  have hset : checkSet.Within (fun p => p ≠ .linkFrame i) := by
    refine checkSet_within ⟨⟨⟨⟨nofun, ?_, ?_⟩, nofun, nofun⟩, nofun, nofun, nofun, nofun, ?_, ?_, ?_⟩, ?_⟩ ⟨nofun, fun _ => nofun, fun _ => nofun⟩
      nofun nofun fun _ => nofun <;> exact fun _ => nofun
  subst ht
  refine ⟨(hset.linkFrame_eq _ (fun h => h rfl)).trans (hwarm.trans hframe), ?_⟩
  exact (checkSet_expects (i := i) _ :).trans (hwarm'.trans hexpects')

/-! ## What training leaves in a link -/

theorem refuseCause_of_frame {l k : Link} (h : l.frame = k.frame) (own : U16) (b : Training) : refuseCause own l b = refuseCause own k b :=
  (congrArg (fun x => refuseCause own x b) h :)

theorem roundTrip_of_up {own : U16} {l : Link} {b : Training} (h : refuseCause own l b = 0) : b.roundTrip ≤ 512 := by
  simp only [refuseCause] at h
  split_ifs at h
  omega

/-- A link that no step refuses is up. -/
theorem afterTraining_up {own : U16} {l : Link} {b : Training} (h : refuseCause own l b = 0) :
    (l.afterTraining own b).state = 2 ∧ (l.afterTraining own b).cause = 0 ∧ (l.afterTraining own b).roundTrip = b.roundTrip ∧
      (l.afterTraining own b).seenNode = b.seenNode ∧ (l.afterTraining own b).rxExpect = 0#12 := by
  have hround := roundTrip_of_up h
  have hmin : min 1023 b.roundTrip = b.roundTrip := by omega
  simp only [Link.afterTraining, h, ↓reduceIte, OfNat.zero_ne_ofNat, zero_ne_one, Link.trained, hmin]
  split_ifs <;> simp

theorem afterTraining_refused {own : U16} {l : Link} {b : Training} (h : refuseCause own l b ≠ 0) :
    (l.afterTraining own b).state = 3 ∧ (l.afterTraining own b).cause = refuseCause own l b := by
  simp only [Link.afterTraining, if_neg h]
  split_ifs <;> exact ⟨rfl, rfl⟩

section
variable {s : State} {i : Nat}

/-- The state in which a link's training ends: its lanes cleared, its state and what it found written. -/
def State.linkTrained (s : State) (i : Nat) (b : Training) : State :=
  ((Fx.when (refuseCause s.hub.node (s.link i) b == 0) (returnBlocks i)).run s).modLink i (Link.afterTraining s.hub.node b)

theorem linkTrainingDone_next (h : (s.link i).state = 1) (b : Training) : exec (.linkTrainingDone i b) s = .next (s.announced
    ((Fx.all [linkChange i (if refuseCause s.hub.node (s.link i) b = 0 then 5 else 3), trainingWaits, checkBringUp, checkWarm, checkSet]).run
      (s.linkTrained i b))) := by
  change execLinkTrainingDone i b s = _
  rw [execLinkTrainingDone, Fx.outcome_eq, Fx.run_when, if_pos (by simp [h])]
  dsimp only
  rw [withInBand_run, Fx.run_all_cons, Fx.run_all_cons, Fx.run_link, State.linkTrained]

theorem linkTrained_link (hi : i < s.links.length) (b : Training) : ∃ l : Link, l.frame = (s.link i).frame ∧
    (s.linkTrained i b).link i = l.afterTraining s.hub.node b := by
  have hblocks : (Fx.when (refuseCause s.hub.node (s.link i) b == 0) (returnBlocks i)).Within Place.offFrames :=
    .when (returnBlocks_within (fun _ => trivial) trivial)
  obtain ⟨-, -, -, hlen, -⟩ := Fx.run_lengths (Fx.when (refuseCause s.hub.node (s.link i) b == 0) (returnBlocks i)) s
  exact ⟨_, hblocks.linkFrame_eq s id, State.link_modLink _ _ _ (hlen ▸ hi)⟩

theorem linkTrained_retrains (b : Training) (h : s.retrains = false) : (s.linkTrained i b).retrains = false := by
  have hblocks : (Fx.when (refuseCause s.hub.node (s.link i) b == 0) (returnBlocks i)).Within Place.offFrames :=
    .when (returnBlocks_within (fun _ => trivial) trivial)
  rw [← h]
  exact hblocks.fixes_retrains s

/-- How the training of a link ends: what its link holds is what its training left in it. -/
theorem linkTrainingDone_link (hi : i < s.links.length) (h : (s.link i).state = 1) (b : Training) (hwarm : s.retrains = false) :
    ∃ (t : State) (l : Link), exec (.linkTrainingDone i b) s = .next t ∧ l.frame = (s.link i).frame ∧ (t.link i).frame = (l.afterTraining s.hub.node b).frame ∧
      (t.link i).expects = (l.afterTraining s.hub.node b).expects ∧ (s.noCopyRuns = true → t.mem = s.mem) := by
  obtain ⟨l, hl, htrained⟩ := linkTrained_link hi b
  obtain ⟨hframe, hexpects⟩ := trained_link (linkTrained_retrains (i := i) b hwarm) i (if refuseCause s.hub.node (s.link i) b = 0 then 5 else 3) rfl
  have hnext := linkTrainingDone_next h b
  rw [htrained] at hframe hexpects
  refine ⟨_, l, hnext, hl, ?_, ?_, ?_⟩
  · rw [announced_link, hframe]
  · rw [announced_link, hexpects]
  · exact (execLinkTrainingDone_within offTiles_aborts offTiles_raises trivial trivial trivial (fun _ => trivial) (fun _ => trivial)
      fun _ => trivial).mem id hnext

end

/-! ## Lanes and partners -/

section
variable {s : State} {i : Nat}

theorem Link.carries_iff (l : Link) : l.carries = true ↔ l.Up := by simp [Link.carries, Link.Up]

theorem linkDown_next (h : (s.link i).Up) :
    exec (.linkDown i) s = .next (s.announced (checkSet.run ((linkChange i 2).run ((dropLink i 0).run s)))) := by
  change execLinkDown i s = _
  rw [execLinkDown, Fx.outcome_eq, Fx.run_when, if_pos ((Link.carries_iff _).mpr h), linkGone, withInBand_run, Fx.run_all_cons, Fx.run_all_cons,
    Fx.run_all_cons, Fx.run_all_nil]

theorem laneSubstitute_next (h : (s.link i).Up) (n : Nat) (hspare : (s.link i).spareUsed = false) :
    exec (.laneSubstitute i n) s = .next ((linkChange i 1).run (s.modLink i (fun l =>
      { l with state := 2, spareUsed := true, spareFor := n, substitutions := satAdd 255 l.substitutions 1 }))) := by
  change execLaneSubstitute i n s = _
  rw [execLaneSubstitute, Fx.outcome_eq, Fx.run_when, if_pos ((Link.carries_iff _).mpr h), if_neg (by simp [hspare]), Fx.run_andThen, Fx.run_link]

theorem partnerTrainingStart_next (hi : i < Grade.links s.grade) (h : (s.link i).Up) (h7 : 7 ≤ s.hub.stage) (h9 : s.hub.stage ≤ 9) :
    exec (.partnerTrainingStart i) s = .next (s.announced (checkSet.run ((startTraining i).run s))) := by
  change execPartnerTrainingStart i s = _
  rw [execPartnerTrainingStart, Fx.outcome_eq, Fx.run_when, if_pos (by simp [hi, h7, h9, (Link.carries_iff _).mpr h]), withInBand_run,
    Fx.run_andThen]

/-- A link that carries no flits keeps its state and its empty replay buffer through the check of the working set. -/
theorem checkSet_down {u : State} (hup : ¬ (u.link i).Up) : ((checkSet.run u).link i).state = (u.link i).state ∧
    ((checkSet.run u).link i).replay = (u.link i).replay := by
  obtain ⟨hframe, hsend⟩ := checkSet_mutes (i := i) u hup
  exact ⟨Link.state_of_frame hframe, (congrArg Link.replay hsend :)⟩

theorem linkDown_link (hi : i < s.links.length) {t : State} (ht : checkSet.run ((linkChange i 2).run ((dropLink i 0).run s)) = t) :
    (t.link i).state = 0 ∧ (t.link i).replay = [] := by
  obtain ⟨hstate, hreplay⟩ := dropLink_link (state := 0) hi (by decide) (by decide)
  have hevent : (linkChange i 2).Within Place.raised := linkChange_within trivial trivial fun _ => trivial
  rw [← hevent.link_eq _ id] at hstate hreplay
  obtain ⟨hstate', hreplay'⟩ := checkSet_down (i := i) (u := (linkChange i 2).run ((dropLink i 0).run s)) (by simp [Link.Up, hstate])
  rw [← ht, hstate', hreplay']
  exact ⟨hstate, hreplay⟩

end

/-- Settles O33: what training leaves in a link outlasts what follows its end (`linkTrainingDone_link`), and a link that goes down or
trains carries no flits. -/
theorem linkTraining : Obligations.LinkTraining := by
  unfold Obligations.LinkTraining
  refine ⟨fun s i b ⟨_, _, _, _, hlinks, _⟩ hi htrains hwarm => ?_, fun s i n ⟨_, _, _, _, hlinks, _⟩ hi hup => ?_⟩
  · obtain ⟨t, l, hnext, hl, hframe, hexpects, hmem⟩ :=
      linkTrainingDone_link (hlinks ▸ hi.trans_le (links_le_32 s.grade)) htrains b hwarm
    refine ⟨fun hcause => ?_, fun hcause => ?_⟩ <;> rw [← refuseCause_of_frame hl] at hcause
    · obtain ⟨hstate, hnone, hround, hnode, hexpect⟩ := afterTraining_up hcause
      exact ⟨t, hnext, (Link.state_of_frame hframe).trans hstate, (congrArg Link.cause hframe :).trans hnone,
        (congrArg Link.roundTrip hframe :).trans hround, (congrArg Link.seenNode hframe :).trans hnode,
        (congrArg Prod.fst hexpects :).trans hexpect, hmem⟩
    · obtain ⟨hstate, hsame⟩ := afterTraining_refused hcause
      exact ⟨t, hnext, (Link.state_of_frame hframe).trans hstate, (congrArg Link.cause hframe :).trans (hsame.trans (refuseCause_of_frame hl _ _)),
        hmem⟩
  · have hlen : i < s.links.length := hlinks ▸ hi.trans_le (links_le_32 s.grade)
    refine ⟨fun hspare => ?_, ?_, fun h7 h9 => ?_⟩
    · have hevent : (linkChange i 1).Within Place.raised := linkChange_within trivial trivial fun _ => trivial
      refine ⟨_, laneSubstitute_next hup n hspare, ?_⟩
      rw [hevent.link_eq _ id, hevent.mem_eq _ id, hevent.ctxs_eq fun _ => id, State.link_modLink _ _ _ hlen]
      exact ⟨rfl, rfl, rfl, rfl, rfl, rfl⟩
    · obtain ⟨hstate, hreplay⟩ := linkDown_link hlen rfl
      refine ⟨_, linkDown_next hup, ?_, ?_, ?_⟩
      · rw [announced_link, hstate]
      · rw [announced_link, hreplay]
      · exact (execLinkDown_within offTiles_aborts offTiles_raises trivial trivial (fun _ => trivial) trivial fun _ => trivial).mem id
          (linkDown_next hup)
    · obtain ⟨hstate, hreplay⟩ := startTraining_link hlen
      obtain ⟨hstate', hreplay'⟩ := checkSet_down (i := i) (u := (startTraining i).run s) (by simp [Link.Up, hstate])
      refine ⟨_, partnerTrainingStart_next hi hup h7 h9, ?_, ?_, ?_⟩
      · rw [announced_link, hstate', hstate]
      · rw [announced_link, hreplay', hreplay]
      · exact (execPartnerTrainingStart_within offTiles_aborts offTiles_raises trivial trivial (fun _ => trivial) trivial
          fun _ => trivial).mem id (partnerTrainingStart_next hi hup h7 h9)

end Sys2Proof.Machine

/-! Proofs about flits and replay (R394 to R398). -/
namespace Sys2Proof.Machine

theorem modLink_modLink (s : State) (i : Nat) (f g : Link → Link) : (s.modLink i f).modLink i g = s.modLink i (g ∘ f) := by
  simp only [State.modLink, List.modify_modify_eq]

section
variable {s : State} {i : Nat}

/-- A flit whose CRC fails is counted and asks for a replay; the answer is an idle flit (R397). -/
theorem flitReceive_bad (hup : (s.link i).state = 2) {f : List Byte} (n : Nat) (h : flitCrcOk f = false) (hi : i < s.links.length) :
    exec (.flitReceive i f n) s = .next ((sendIdle i).run (s.modLink i (fun l =>
      { l with fecUncorr := min 65535 (l.fecUncorr + n), crcFail := min 65535 (l.crcFail + 1), nack := true }))) := by
  change execFlitReceive i f n s = _
  rw [execFlitReceive, Fx.outcome_eq, Fx.run_when, if_pos (by simp [Link.carries, hup]), Fx.run_andThen, Fx.run_link, Fx.run_andThen, if_pos (by simp [h]),
    Fx.run_link, modLink_modLink, answerFlit, Fx.run_look, Fx.run_when, if_pos]
  · rfl
  · rw [State.link_modLink _ _ _ hi]
    simp [Link.carries, hup]

/-- The expected flit is accepted: the next number is expected, whatever its body brings. -/
theorem acceptFlit_expects (hi : i < s.links.length) (f : List Byte) :
    (((acceptFlit i f).run s).link i).expects = (BitVec.ofNat 12 (field f 0 2) + 1#12, false) := by
  rw [acceptFlit, Fx.run_all_cons, Fx.run_link]
  generalize hu : State.modLink i _ s = u
  have hrest : (Fx.all [Fx.when (bitOf (field f 2 2) 13) (takeAck i (field f 2 2 % 4096) (bitOf (field f 2 2) 12)), flushHeld i,
      takeBody i (bitsOf (field f 0 2) 12 2) f]).Expects i :=
    .cons (.when takeAck_expects) (.cons flushHeld_expects (.cons takeBody_expects .nil))
  refine (hrest u).trans ?_
  rw [← hu]
  dsimp only
  rw [State.link_modLink _ _ _ hi]
  rfl

theorem flitReceive_good (hup : (s.link i).state = 2) {f : List Byte} (n : Nat) (h : flitCrcOk f = true)
    (htype : field f 0 2 / 4096 % 4 ≠ 1) (hseq : field f 0 2 % 4096 = (s.link i).rxExpect.toNat) :
    exec (.flitReceive i f n) s = .next ((answerFlit i (s.link i).txSeq).run ((acceptFlit i f).run (s.modLink i (fun l =>
      { l with fecUncorr := satAdd 65535 l.fecUncorr n })))) := by
  change execFlitReceive i f n s = _
  rw [execFlitReceive, Fx.outcome_eq, Fx.run_when, if_pos (by simp [Link.carries, hup]), Fx.run_andThen, Fx.run_link, Fx.run_andThen, if_neg (by simp [h]),
    if_pos]
  simpa [bitsOf, hseq] using htype

theorem replayTimeout_next (hup : (s.link i).state = 2) (h : (s.link i).replay ≠ []) :
    exec (.replayTimeout i) s = .next ((replayAll i).run s) := by
  change execReplayTimeout i s = _
  rw [execReplayTimeout, Fx.outcome_eq, Fx.run_when, if_pos (by simp [Link.carries, hup, h])]

theorem each_emit_run {α : Type} (l : List α) (o : α → Out) (s : State) :
    (Fx.each l (fun x => Fx.emit (o x))).run s = { s with out := s.out ++ l.map o } := by
  induction l generalizing s with
  | nil => simp [Fx.run_each_nil]
  | cons x l ih => rw [Fx.run_each_cons, Fx.run_emit, ih]; simp [State.emit]

/-- Every unacknowledged flit goes again, in order, and stays in the replay buffer (R397). -/
theorem replayAll_run (hi : i < s.links.length) {t : State} (ht : (replayAll i).run s = t) :
    t.out = s.out ++ (s.link i).replay.map (fun f => .flit i ((s.link i).wire f)) ∧ (t.link i).replay = (s.link i).replay ∧
      (t.link i).replays = min 65535 ((s.link i).replays + 1) ∧ t.mem = s.mem ∧ t.ctxs = s.ctxs := by
  rw [replayAll, Fx.run_look, Fx.run_all_cons, each_emit_run, Fx.run_all_cons, Fx.run_link, Fx.run_all_cons, Fx.run_all_nil] at ht
  have hevent : (linkChange i 0).Within Place.raised := linkChange_within trivial trivial fun _ => trivial
  generalize hu : ({ s with out := _ } : State) = u at ht
  have hlink : u.link i = s.link i := by rw [← hu]; rfl
  have hlen : i < u.links.length := by rw [← hu]; exact hi
  subst ht
  rw [hevent.out_eq _ id, hevent.link_eq _ id, hevent.mem_eq _ id, hevent.ctxs_eq fun _ => id, State.link_modLink _ _ _ hlen, hlink]
  refine ⟨?_, rfl, rfl, ?_, ?_⟩ <;> rw [← hu] <;> rfl

end

/-- Settles O34: an accepted flit's number is expected no more, whatever its body does; a replay is its flits in order. -/
theorem flitsAndReplay : Obligations.FlitsAndReplay := by
  unfold Obligations.FlitsAndReplay
  refine ⟨fun s i n f hi hup => ⟨fun hbad => ⟨_, rfl, flitReceive_bad hup n hbad hi⟩, fun hgood htype hseq => ?_⟩, fun s i hi hup hne =>
    ⟨_, replayTimeout_next hup hne, replayAll_run hi rfl⟩⟩
  have hnext := flitReceive_good hup n hgood htype hseq
  have hexpects := acceptFlit_expects (s := s.modLink i (fun l => { l with fecUncorr := satAdd 65535 l.fecUncorr n })) (i := i)
    (by simpa [State.modLink] using hi) f
  have hanswer := answerFlit_expects (i := i) (j := i) (before := (s.link i).txSeq)
    ((acceptFlit i f).run (s.modLink i (fun l => { l with fecUncorr := satAdd 65535 l.fecUncorr n })))
  obtain ⟨t, ht⟩ : ∃ t, (answerFlit i (s.link i).txSeq).run ((acceptFlit i f).run (s.modLink i (fun l =>
    { l with fecUncorr := satAdd 65535 l.fecUncorr n }))) = t := ⟨_, rfl⟩
  rw [ht] at hnext hanswer
  have hall : (t.link i).expects = (BitVec.ofNat 12 (field f 0 2) + 1#12, false) := hanswer.trans hexpects
  exact ⟨t, hnext, (congrArg Prod.fst hall :), (congrArg Prod.snd hall :), (execFlitReceive_within offTiles_aborts offTiles_raises
    (fun _ => trivial) trivial).mem id hnext⟩

end Sys2Proof.Machine

/-! Proofs about the supply feeds (R568, R582 to R587, R607, R620). -/
namespace Sys2Proof.Machine

/-! ## The feeds of the power state -/

/-- A feed's register in the power state. -/
def Power.feed (p : Power) (i : Nat) : Feed :=
  p.feeds.getD i { mv := 0, current := 0, state := 0, enabled := false, qualified := false }

/-- The power state after a change of one feed: a shutdown ends once no feed is qualified (R602). -/
def Power.changed (i : Nat) (g : Feed → Feed) (p : Power) : Power :=
  let l := p.feeds.modify i (fun x => (g x).settled)
  { p with feeds := l, down := p.down && !l.all (fun f => !f.qualified) }

/-- A feed that comes into the operating range (R582). -/
def Feed.inRange (mv : Int) (x : Feed) : Feed :=
  { x with mv := mv, enabled := true, qualified := true, state := if x.qualified then x.state else 1 }

/-- The power state once a feed carries the load. -/
def Power.served (i : Nat) (p : Power) : Power := Power.changed i (fun f => { f with state := 2 }) { p with serving := some i }

section
variable {p : Power} {i j : Nat} {g : Feed → Feed}

theorem changed_feed (h : i < p.feeds.length) : (p.changed i g).feed i = (g (p.feed i)).settled := by
  simp [Power.changed, Power.feed, h, List.getD_eq_getElem?_getD]

theorem changed_feed_ne (h : i ≠ j) : (p.changed i g).feed j = p.feed j := by
  simp [Power.changed, Power.feed, h, List.getD_eq_getElem?_getD]

theorem changed_serving : (p.changed i g).serving = p.serving := rfl

theorem changed_length : (p.changed i g).feeds.length = p.feeds.length := by simp [Power.changed]

theorem changed_down (h : p.down = false) : (p.changed i g).down = false := by simp [Power.changed, h]

theorem served_feed (h : i < p.feeds.length) : (p.served i).feed i = { p.feed i with state := 2 } := by
  rw [Power.served, changed_feed (by exact h)]
  rfl

theorem served_feed_ne (h : i ≠ j) : (p.served i).feed j = p.feed j := changed_feed_ne h

theorem served_serving : (p.served i).serving = some i := rfl

end

/-! ## Effects that work on the power state alone -/

/-- Between two states the power state comes to be this one, and memory and contexts stay. -/
def Powered (s t : State) (q : Power) : Prop := t.power = q ∧ t.mem = s.mem ∧ t.ctxs = s.ctxs

section
variable {s : State}

theorem onFeed_powered (i : Nat) (g : Feed → Feed) : Powered s ((onFeed i g).run s) (s.power.changed i g) := by
  rw [onFeed, Fx.run_all_cons, Fx.run_power, Fx.run_all_cons, Fx.run_look, Fx.run_sideband, Fx.run_all_cons, Fx.run_power, Fx.run_all_cons,
    Fx.run_all_nil]
  have hrestart : restartAt1.Within (fun p => p ≠ .power ∧ p ≠ .mem ∧ ∀ c, p ≠ .ctx c) := by
    refine restartAt1_within ?_ ?_ ?_ (fun _ => ?_) fun _ => ?_ <;> exact ⟨nofun, nofun, nofun⟩
  exact ⟨hrestart.power_eq _ (by simp), hrestart.mem_eq _ (by simp), hrestart.ctxs_eq (by simp) _⟩

theorem serveFeed_powered (i : Nat) : Powered s ((serveFeed i).run s) (s.power.served i) := by
  rw [serveFeed, Fx.run_andThen, Fx.run_power]
  exact onFeed_powered _ _

theorem supplyEvent_powered (i cause cls : Nat) (mv : Int) : Powered s ((supplyEvent i cause cls mv).run s) s.power := by
  have h : (supplyEvent i cause cls mv).Within Place.raised := supplyEvent_within trivial trivial fun _ => trivial
  exact ⟨h.power_eq s id, h.mem_eq s id, h.ctxs_eq (fun _ => id) s⟩

theorem when_supplyEvent_powered (b : Bool) (i cause cls : Nat) (mv : Int) :
    Powered s ((Fx.when b (supplyEvent i cause cls mv)).run s) s.power := by
  cases b
  · exact ⟨rfl, rfl, rfl⟩
  · exact supplyEvent_powered i cause cls mv

theorem Powered.trans {t u : State} {q r : Power} (h : Powered s t q) (k : Powered t u r) : Powered s u r :=
  ⟨k.1, k.2.1.trans h.2.1, k.2.2.trans h.2.2⟩

/-- The serving feed has gone: the other one, qualified, takes the load. -/
theorem feedGone_serving {i : Nat} (mv : Int) (was : Feed) (h : s.power.serving = some i) (hq : (s.feed (1 - i)).qualified = true) :
    Powered s ((feedGone i mv was).run s) (s.power.served (1 - i)) := by
  rw [feedGone, Fx.run_look]
  dsimp only
  rw [if_pos h, if_pos hq, Fx.run_andThen]
  have hserve := serveFeed_powered (s := s) (1 - i)
  have hevent := supplyEvent_powered (s := (serveFeed (1 - i)).run s) i 0 1 mv
  exact hserve.trans (hserve.1 ▸ hevent)

/-- A standby has gone: the load stays where it is. -/
theorem feedGone_standby {i : Nat} (mv : Int) (was : Feed) (h : s.power.serving ≠ some i) :
    Powered s ((feedGone i mv was).run s) s.power := by
  rw [feedGone, Fx.run_look]
  dsimp only
  rw [if_neg h]
  exact when_supplyEvent_powered ..

end

/-! ## The rows -/

section
variable {s : State} {f : Nat} {mv : Int}

/-- An announcement leaves the power state, memory and contexts. -/
theorem Powered.announced {t : State} {q : Power} (h : Powered s t q) : Powered s (s.announced t) q := by
  simpa [Powered] using h

/-- The power state once a feed is in range: it serves where no feed does. -/
def Power.withFeed (f : Nat) (mv : Int) (p : Power) : Power :=
  let q := p.changed f (Feed.inRange mv)
  if q.serving.isNone && !q.down then q.served f else q

theorem feedQualify_next (hf : f < 2) (hlo : 40000 ≤ mv) (hhi : mv ≤ 60000) (h4 : (s.feed f).state ≠ 4) :
    ∃ t, exec (.feedQualify f mv) s = .next t ∧ Powered s t (s.power.withFeed f mv) := by
  refine ⟨s.announced (((onFeed f (Feed.inRange mv)).andThen
    (Fx.look fun t => Fx.when (t.power.serving.isNone && !t.power.down) (serveFeed f))).run s), ?_, Powered.announced ?_⟩
  · change execFeedQualify f mv s = _
    rw [execFeedQualify, if_neg h4, Fx.outcome_eq, withInBand_run, Fx.run_when, if_pos (by simp [hf, hlo, hhi])]
    rfl
  · have hfeed := onFeed_powered (s := s) f (Feed.inRange mv)
    rw [Fx.run_andThen, Fx.run_look, Power.withFeed]
    obtain ⟨u, hu⟩ : ∃ u, (onFeed f (Feed.inRange mv)).run s = u := ⟨_, rfl⟩
    rw [hu] at hfeed ⊢
    refine hfeed.trans ?_
    rw [← hfeed.1]
    cases h : u.power.serving.isNone && !u.power.down
    · exact ⟨rfl, rfl, rfl⟩
    · exact serveFeed_powered f

/-- A feed that leaves the operating range: its register says so, and the load moves where it has to. -/
theorem feedDisqualify_serving (hf : f < 2) (hmv : mv < 39000) (hs : s.power.serving = some f) (hq : (s.feed (1 - f)).qualified = true) :
    ∃ t, exec (.feedDisqualify f mv) s = .next t ∧ Powered s t ((s.power.changed f (Feed.outside mv)).served (1 - f)) := by
  refine ⟨s.announced ((Fx.all [onFeed f (Feed.outside mv), Fx.when (decide (61000 < mv) && (s.feed f).state != 5) (supplyEvent f 4 2 mv),
    feedGone f mv (s.feed f)]).run s), ?_, Powered.announced ?_⟩
  · change execFeedDisqualify f mv s = _
    rw [execFeedDisqualify, if_pos (show (decide (mv < 39000) || decide (61000 < mv)) = true by simp [hmv]), Fx.outcome_eq, withInBand_run, Fx.run_when,
      if_pos (by simp [hf])]
  · rw [Fx.run_all_cons, Fx.run_all_cons, Fx.run_all_cons, Fx.run_all_nil]
    have hfeed := onFeed_powered (s := s) f (Feed.outside mv)
    have hevent := when_supplyEvent_powered (s := (onFeed f (Feed.outside mv)).run s) (decide (61000 < mv) && (s.feed f).state != 5) f 4 2 mv
    have htwo := hfeed.trans (hfeed.1 ▸ hevent)
    refine htwo.trans (htwo.1 ▸ feedGone_serving mv _ ?_ ?_)
    · rw [htwo.1]
      exact hs
    · change ((Fx.run _ _).power.feed (1 - f)).qualified = true
      rw [htwo.1, changed_feed_ne (by omega)]
      exact hq

/-- A standby feed that goes: its register says why, and the other one goes on. -/
theorem standby_gone (hs : s.power.serving = some (1 - f)) (hf : f < 2) (g : Feed → Feed) (event : Fx)
    (hevent : ∀ u, Powered u (event.run u) u.power) :
    Powered s ((Fx.all [onFeed f g, event, feedGone f mv (s.feed f)]).run s) (s.power.changed f g) := by
  rw [Fx.run_all_cons, Fx.run_all_cons, Fx.run_all_cons, Fx.run_all_nil]
  have hfeed := onFeed_powered (s := s) f g
  have htwo := hfeed.trans (hfeed.1 ▸ hevent ((onFeed f g).run s))
  refine htwo.trans (htwo.1 ▸ feedGone_standby mv _ ?_)
  rw [htwo.1, changed_serving, hs]
  exact fun h => by have := Option.some.inj h; omega

theorem fuseTrip_standby (hf : f < 2) (hs : s.power.serving = some (1 - f)) : ∃ t, exec (.fuseTrip f mv) s = .next t ∧
    Powered s t (s.power.changed f (fun x => { x with mv := mv, qualified := false, state := 4 })) := by
  refine ⟨_, ?_, Powered.announced (standby_gone (mv := mv) hs hf _ (supplyEvent f 3 2 mv) fun u => supplyEvent_powered ..)⟩
  change execFuseTrip f mv s = _
  rw [execFuseTrip, Fx.outcome_eq, withInBand_run, Fx.run_when, if_pos (by simp [hf])]

theorem feedEnableRelease_standby (hf : f < 2) (hs : s.power.serving = some (1 - f)) : ∃ t, exec (.feedEnableRelease f mv) s = .next t ∧
    Powered s t (s.power.changed f (fun x => { x with mv := mv, enabled := false, qualified := false, state := if x.state = 4 then 4 else 0 })) := by
  refine ⟨_, ?_, Powered.announced (standby_gone (mv := mv) hs hf _ Fx.skip fun u => ⟨rfl, rfl, rfl⟩)⟩
  change execFeedEnableRelease f mv s = _
  rw [execFeedEnableRelease, Fx.outcome_eq, withInBand_run, Fx.run_when, if_pos (by simp [hf])]
  rfl

theorem feedReversed_standby (hf : f < 2) (hmv : mv < 0) (hs : s.power.serving = some (1 - f)) : ∃ t, exec (.feedReversed f mv) s = .next t ∧
    Powered s t (s.power.changed f (fun x => { x with mv := mv, qualified := false, state := 3 })) := by
  refine ⟨_, ?_, Powered.announced (standby_gone (mv := mv) hs hf _ (supplyEvent f 2 2 mv) fun u => supplyEvent_powered ..)⟩
  change execFeedReversed f mv s = _
  rw [execFeedReversed, Fx.outcome_eq, withInBand_run, Fx.run_when, if_pos (by simp [hf, hmv])]

theorem announced_self (s : State) : s.announced s = s := by simp [State.announced]

theorem rearm_lost (hA : s.sideband.busA ≠ 0) (hB : s.sideband.busB ≠ 0) : exec (.rearm f) s = .next s := by
  change execRearm f s = _
  rw [execRearm, Fx.outcome_eq, withInBand_run, Fx.run_when, if_neg (by simp [hA, hB]), announced_self]

theorem rearm_next (h : s.sideband.busA = 0 ∨ s.sideband.busB = 0) : ∃ t, exec (.rearm f) s = .next t ∧
    Powered s t (s.power.changed f (fun x => { x with state := if x.state = 4 then 0 else x.state })) := by
  refine ⟨_, ?_, Powered.announced (onFeed_powered ..)⟩
  change execRearm f s = _
  rw [execRearm, Fx.outcome_eq, withInBand_run, Fx.run_when, if_pos (by simpa using h), rearmFeed]

theorem feedReturn_next (hq : (s.feed 0).qualified = true) (hs : s.power.serving = some 1) : ∃ t, exec (.feedReturn mv) s = .next t ∧
    Powered s t (((s.power.changed 0 (fun x => { x with mv := mv })).served 0).changed 1 (fun x => { x with state := 1 })) := by
  refine ⟨s.announced ((Fx.all [onFeed 0 (fun f => { f with mv := mv }), serveFeed 0, onFeed 1 (fun f => { f with state := 1 }),
    supplyEvent 0 1 0 mv]).run s), ?_, Powered.announced ?_⟩
  · change execFeedReturn mv s = _
    rw [execFeedReturn, Fx.outcome_eq, withInBand_run, Fx.run_when, if_pos (by simp [hq, hs])]
  · rw [Fx.run_all_cons, Fx.run_all_cons, Fx.run_all_cons, Fx.run_all_cons, Fx.run_all_nil]
    have hfirst := onFeed_powered (s := s) 0 (fun f => { f with mv := mv })
    have hserve := hfirst.trans (hfirst.1 ▸ serveFeed_powered (s := (onFeed 0 (fun f => { f with mv := mv })).run s) 0)
    have hsecond := hserve.trans (hserve.1 ▸ onFeed_powered (s := (serveFeed 0).run ((onFeed 0 (fun f => { f with mv := mv })).run s)) 1
      (fun f => { f with state := 1 }))
    exact hsecond.trans (hsecond.1 ▸ supplyEvent_powered ..)

end

/-- Settles O23: each row's power state in closed form, of which the feeds' registers are read off. -/
theorem feedsChangeOver : Obligations.FeedsChangeOver := by
  unfold Obligations.FeedsChangeOver
  intro s f mv hlen hf
  have hfl : f < s.power.feeds.length := hlen ▸ hf
  have hfeed (t : State) (i : Nat) : t.feed i = t.power.feed i := rfl
  refine ⟨fun hlo hhi h4 hq => ?_, fun hmv hs hq => ?_, fun hs => ?_, fun hs => ?_, fun hmv hs => ?_, rearm_lost, fun h4 hbus => ?_,
    fun hq hs => ?_⟩
  · obtain ⟨t, ht, hpower, hmem, hctxs⟩ := feedQualify_next hf hlo hhi h4
    rw [Power.withFeed, changed_serving] at hpower
    have hstate : (s.power.feed f).qualified = false := hq
    refine ⟨t, ht, ?_, ?_, fun hnone hdown => ?_, fun g hg => ?_, hmem, hctxs⟩
    · rw [hfeed, hpower]
      split
      · rw [served_feed (by rwa [changed_length]), changed_feed hfl]
        rfl
      · rw [changed_feed hfl]
        rfl
    · rw [hfeed, hpower]
      split
      · rw [served_feed (by rwa [changed_length]), changed_feed hfl]
        rfl
      · rw [changed_feed hfl]
        rfl
    · rw [if_pos (by simp [hnone, changed_down hdown])] at hpower
      rw [hfeed, hpower, served_feed (by rwa [changed_length])]
      exact ⟨rfl, rfl⟩
    · rw [if_neg (by simp [hg])] at hpower
      rw [hfeed, hpower, changed_feed hfl]
      exact ⟨hg, by simp [Feed.settled, Feed.inRange, hstate]⟩
  · obtain ⟨t, ht, hpower, hmem, hctxs⟩ := feedDisqualify_serving hf hmv hs hq
    refine ⟨t, ht, ?_, ?_, ?_, hmem, hctxs⟩
    · rw [hfeed, hpower, served_feed_ne (by omega), changed_feed hfl]
      rfl
    · rw [hpower, served_serving]
    · rw [hfeed, hpower, served_feed (by rw [changed_length]; omega)]
  · obtain ⟨t, ht, hpower, hmem, hctxs⟩ := fuseTrip_standby (mv := mv) hf hs
    refine ⟨t, ht, ?_, ?_, ?_, hmem, hctxs⟩
    · rw [hfeed, hpower, changed_feed hfl]
      rfl
    · rw [hfeed, hpower, changed_feed hfl]
      rfl
    · rw [hpower]
      exact hs
  · obtain ⟨t, ht, hpower, hmem, hctxs⟩ := feedEnableRelease_standby (mv := mv) hf hs
    refine ⟨t, ht, ?_, ?_, ?_, hmem, hctxs⟩
    · rw [hfeed, hpower, changed_feed hfl]
      rfl
    · rw [hfeed, hpower, changed_feed hfl]
      rfl
    · rw [hpower]
      exact hs
  · obtain ⟨t, ht, hpower, hmem, hctxs⟩ := feedReversed_standby (mv := mv) hf hmv hs
    refine ⟨t, ht, ?_, ?_, ?_, hmem, hctxs⟩
    · rw [hfeed, hpower, changed_feed hfl]
      rfl
    · rw [hfeed, hpower, changed_feed hfl]
      rfl
    · rw [hpower]
      exact hs
  · obtain ⟨t, ht, hpower, hmem, hctxs⟩ := rearm_next (f := f) hbus
    refine ⟨t, ht, ?_, ?_, ?_, hmem, hctxs⟩
    · rw [hfeed, hpower, changed_feed hfl]
      exact if_pos h4
    · rw [hfeed, hpower, changed_feed_ne (by omega)]
      rfl
    · rw [hpower]
      rfl
  · obtain ⟨t, ht, hpower, hmem, hctxs⟩ := feedReturn_next (mv := mv) hq hs
    refine ⟨t, ht, ?_, ?_, ?_, hmem, hctxs⟩
    · rw [hpower]
      rfl
    · rw [hfeed, hpower, changed_feed_ne (by decide), served_feed (by rw [changed_length]; omega)]
    · rw [hfeed, hpower, changed_feed (by rw [Power.served, changed_length]; exact by simp [changed_length, hlen])]
      rfl

end Sys2Proof.Machine

/-! Proofs about the loss of power and THERMTRIP (R378, R585, R602, R614). -/
namespace Sys2Proof.Machine
set_option Elab.async false -- the side conditions of the frames below are elaborated in place, not each in a thread of its own

section
variable {s : State}

/-- A context of those that are reset one after the other is reset. -/
theorem each_reset_ctx {l : List Nat} {c : Nat} (hlen : c < s.ctxs.length) (h : c ∈ l ∨ s.ctx c = Ctx.reset) :
    ((Fx.each l (fun c => Fx.ctx c (fun _ => Ctx.reset))).run s).ctx c = Ctx.reset := by
  induction l generalizing s with
  | nil => exact h.resolve_left (by simp)
  | cons d l ih =>
    rw [Fx.run_each_cons, Fx.run_ctx]
    refine ih (by simpa [State.modCtx] using hlen) ?_
    by_cases hd : d = c
    · subst hd
      exact .inr (State.ctx_modCtx _ _ _ hlen)
    · rw [State.ctx_modCtx_ne _ _ _ _ hd]
      exact h.imp_left fun hc => (List.mem_cons.mp hc).resolve_left (Ne.symm hd)

/-- A link of those that are reset one after the other is reset. -/
theorem each_reset_link {l : List Nat} {i : Nat} (hlen : i < s.links.length) (h : i ∈ l ∨ s.link i = Link.reset) :
    ((Fx.each l (fun i => Fx.link i (fun _ => Link.reset))).run s).link i = Link.reset := by
  induction l generalizing s with
  | nil => exact h.resolve_left (by simp)
  | cons d l ih =>
    rw [Fx.run_each_cons, Fx.run_link]
    refine ih (by simpa [State.modLink] using hlen) ?_
    by_cases hd : d = i
    · subst hd
      exact .inr (State.link_modLink _ _ _ hlen)
    · rw [State.link_modLink_ne _ _ _ _ hd]
      exact h.imp_left fun hc => (List.mem_cons.mp hc).resolve_left (Ne.symm hd)

/-- What the loss of power does to the parts of the module but for memory, the hub and the port (R378). -/
def loseParts : Fx :=
  Fx.all [
    Fx.each (List.range 16) (fun c => Fx.ctx c (fun _ => Ctx.reset)),
    Fx.each (List.range 8) (fun f => Fx.field f (fun _ => Field.reset)),
    Fx.each (List.range 16) (fun k => Fx.stack k Stack.unpowered),
    Fx.each (List.range 32) (fun i => Fx.link i (fun _ => Link.reset)),
    Fx.each (List.range 17) (fun r => Fx.ring r (fun _ => Ring.reset)),
    Fx.evc (fun _ => []), Fx.ditch (fun _ => { partials := [], lent := [] }),
    Fx.look fun s => Fx.power (fun p =>
      { Power.reset with feeds := p.feeds, serving := p.serving, phases := p.phases, leak := p.leak, leakWet := p.leakWet, down := p.down
                         hostCap := Grade.capMax s.grade, minCauses := p.standing, minPower := !p.standing.isEmpty })]

theorem losePower_run (s : State) : losePower.run s = loseParts.run (((({ s with mem := s.mem.poison 0 (2 ^ 64) } : State).modHub
    Hub.unpowered)).modPort (fun p => { Port.reset with pluggableHeld := p.pluggableHeld })) := by
  rw [losePower, Fx.run_all_cons, Fx.run_all_cons, Fx.run_hub, Fx.run_all_cons, Fx.run_port, Fx.run_memPoison]
  rfl

/-- Memory and the hub lie outside what `loseParts` touches. -/
theorem loseParts_within : loseParts.Within (fun p => p ≠ .mem ∧ p ≠ .hub ∧ p ≠ .sideband) := by
  refine .cons (.each fun _ => .ctx ⟨nofun, nofun, nofun⟩ (.inl ⟨nofun, nofun, nofun⟩) (.inl ⟨nofun, nofun, nofun⟩)) (.cons (.each fun _ =>
    .field ⟨nofun, nofun, nofun⟩ (.inl ⟨nofun, nofun, nofun⟩) (.inl ⟨nofun, nofun, nofun⟩) (.inl ⟨nofun, nofun, nofun⟩)) (.cons (.each fun _ =>
    .stack ⟨nofun, nofun, nofun⟩) (.cons (.each fun _ => .link ⟨nofun, nofun, nofun⟩ (.inl ⟨nofun, nofun, nofun⟩) (.inl ⟨nofun, nofun, nofun⟩)
    (.inl ⟨nofun, nofun, nofun⟩) (.inl ⟨nofun, nofun, nofun⟩) (.inl ⟨nofun, nofun, nofun⟩) (.inl ⟨nofun, nofun, nofun⟩)) (.cons
    (.each fun _ => .ring ⟨nofun, nofun, nofun⟩ (.inl ⟨nofun, nofun, nofun⟩) (.inl ⟨nofun, nofun, nofun⟩)) (.cons (.evc ⟨nofun, nofun, nofun⟩)
    (.cons (.ditch ⟨nofun, nofun, nofun⟩) (.cons (.look fun _ => .power ⟨nofun, nofun, nofun⟩) .nil)))))))

theorem loseParts_ctx {c : Nat} (hc : c < 16) (hlen : s.ctxs.length = 16) : (loseParts.run s).ctx c = Ctx.reset := by
  rw [loseParts, Fx.run_all_cons]
  generalize hfx : Fx.all _ = rest
  have hrest : rest.Within (fun p => p ≠ .ctx c) := by
    rw [← hfx]
    exact .cons (.each fun _ => .field nofun (.inl nofun) (.inl nofun) (.inl nofun)) (.cons (.each fun _ => .stack nofun) (.cons (.each fun _ =>
      .link nofun (.inl nofun) (.inl nofun) (.inl nofun) (.inl nofun) (.inl nofun) (.inl nofun)) (.cons (.each fun _ => .ring nofun (.inl nofun)
      (.inl nofun)) (.cons (.evc nofun) (.cons (.ditch nofun) (.cons (.look fun _ => .power nofun) .nil))))))
  rw [hrest.ctx_eq _ (fun h => h rfl)]
  exact each_reset_ctx (by omega) (.inl (List.mem_range.mpr hc))

theorem loseParts_link {i : Nat} (hi : i < 32) (hlen : s.links.length = 32) : (loseParts.run s).link i = Link.reset := by
  rw [loseParts, Fx.run_all_cons, Fx.run_all_cons, Fx.run_all_cons, Fx.run_all_cons]
  generalize hu : Fx.run (Fx.each (List.range 16) _) _ = u
  have hlen' : u.links.length = 32 := by
    rw [← hu, (Fx.run_lengths _ _).2.2.2.1, (Fx.run_lengths _ _).2.2.2.1, (Fx.run_lengths _ _).2.2.2.1, hlen]
  generalize hfx : Fx.all _ = rest
  have hrest : rest.Within (fun p => p ≠ .link i) := by
    rw [← hfx]
    exact .cons (.each fun _ => .ring nofun (.inl nofun) (.inl nofun)) (.cons (.evc nofun) (.cons (.ditch nofun)
      (.cons (.look fun _ => .power nofun) .nil)))
  rw [hrest.link_eq _ (fun h => h rfl)]
  exact each_reset_link (by omega) (.inl (List.mem_range.mpr hi))

theorem loseParts_power (s : State) : (loseParts.run s).power.serving = s.power.serving ∧ (loseParts.run s).power.down = s.power.down := by
  rw [show loseParts = Fx.all ([_, _, _, _, _, _, _] ++ [_]) from rfl, run_all_concat]
  generalize hfx : Fx.all _ = first
  have hfirst : first.Within (fun p => p ≠ .power) := by
    rw [← hfx]
    exact .cons (.each fun _ => .ctx nofun (.inl nofun) (.inl nofun)) (.cons (.each fun _ => .field nofun (.inl nofun) (.inl nofun)
      (.inl nofun)) (.cons (.each fun _ => .stack nofun) (.cons (.each fun _ => .link nofun (.inl nofun) (.inl nofun) (.inl nofun) (.inl nofun)
      (.inl nofun) (.inl nofun)) (.cons (.each fun _ => .ring nofun (.inl nofun) (.inl nofun)) (.cons (.evc nofun)
      (.cons (.ditch nofun) .nil))))))
  have hpower := hfirst.power_eq s (fun h => h rfl)
  rw [Fx.run_look, Fx.run_power]
  exact ⟨(congrArg Power.serving hpower :), (congrArg Power.down hpower :)⟩

/-- The module without power: contexts and links are gone, memory is poison, bring-up stands at its beginning; the feeds and what is
non-volatile stay. -/
theorem losePower_state (hctxs : s.ctxs.length = 16) (hlinks : s.links.length = 32) {t : State} (ht : losePower.run s = t) :
    t.power.serving = s.power.serving ∧ t.power.down = s.power.down ∧ t.sideband = s.sideband ∧ t.hub = s.hub.unpowered ∧
      (∀ c, c < 16 → t.ctx c = Ctx.reset) ∧ (∀ i, i < 32 → t.link i = Link.reset) ∧ t.mem = s.mem.poison 0 (2 ^ 64) := by
  rw [losePower_run] at ht
  generalize hu : State.modPort _ _ = u at ht
  have hfields : u.power = s.power ∧ u.sideband = s.sideband ∧ u.hub = s.hub.unpowered ∧ u.ctxs = s.ctxs ∧ u.links = s.links ∧
      u.mem = s.mem.poison 0 (2 ^ 64) := by
    rw [← hu]
    exact ⟨rfl, rfl, rfl, rfl, rfl, rfl⟩
  obtain ⟨hpower, hside, hhub, hc, hl, hmem⟩ := hfields
  obtain ⟨hserving, hdown⟩ := loseParts_power u
  subst ht
  refine ⟨hserving.trans (congrArg Power.serving hpower), hdown.trans (congrArg Power.down hpower), ?_, ?_,
    fun c hlt => loseParts_ctx hlt (hc ▸ hctxs), fun i hlt => loseParts_link hlt (hl ▸ hlinks), ?_⟩
  · rw [loseParts_within.sideband_eq u (by simp), hside]
  · rw [loseParts_within.hub_eq u (by simp), hhub]
  · rw [loseParts_within.mem_eq u (by simp), hmem]

/-- Every word of a memory that is poison as a whole is poison. -/
theorem poison_all (m : Mem) : (∀ w, w < 2 ^ 61 → (m.poison 0 (2 ^ 64)).wordOk w = false) ∧
    ∀ a, a < 2 ^ 67 → (m.poison 0 (2 ^ 64)).byte a = 0#8 :=
  ⟨fun _ hw => poison_wordOk m (Nat.zero_le _) (by omega), fun _ ha => Mem.poison_byte (Nat.zero_le _) (by omega)⟩

/-! ## The rows -/

/-- A feed's change leaves the banks and the repair table, and the lengths of the tables. -/
theorem onFeed_store (i : Nat) (g : Feed → Feed) (s : State) :
    ((onFeed i g).run s).hub.banks = s.hub.banks ∧ ((onFeed i g).run s).hub.repair = s.hub.repair := by
  have hrestart : restartAt1.Fixes (fun s => (s.hub.banks, s.hub.repair)) :=
    .look fun _ => .when (.andThen (fun _ => rfl) (.look fun _ => .each fun _ _ => rfl))
  have h : (onFeed i g).Fixes (fun s => (s.hub.banks, s.hub.repair)) :=
    .cons (fun _ => rfl) (.cons (fun _ => rfl) (.cons (fun _ => rfl) (.cons hrestart .nil)))
  exact ⟨congrArg Prod.fst (h s), congrArg Prod.snd (h s)⟩

/-- The module up to where its last feed has gone. -/
def State.lastFeedGone (s : State) (f : Nat) (mv : Int) : State :=
  (((Fx.when (decide (61000 < mv) && (s.feed f).state != 5) (supplyEvent f 4 2 mv)).run ((onFeed f (Feed.outside mv)).run s)).modPower
    (fun p => { p with serving := none })).modSideband (fun b => { b with thermtrip := false })

theorem lastFeedGone_state (f : Nat) (mv : Int) (s : State) : (s.lastFeedGone f mv).power.serving = none ∧
    (s.lastFeedGone f mv).hub.banks = s.hub.banks ∧ (s.lastFeedGone f mv).hub.repair = s.hub.repair ∧
    (s.lastFeedGone f mv).ctxs.length = s.ctxs.length ∧ (s.lastFeedGone f mv).links.length = s.links.length := by
  have hevent : (Fx.when (decide (61000 < mv) && (s.feed f).state != 5) (supplyEvent f 4 2 mv)).Within Place.raised :=
    .when (supplyEvent_within trivial trivial fun _ => trivial)
  have hhub := hevent.hub_eq ((onFeed f (Feed.outside mv)).run s) id
  obtain ⟨hbanks, hrepair⟩ := onFeed_store f (Feed.outside mv) s
  refine ⟨rfl, (congrArg Hub.banks hhub :).trans hbanks, (congrArg Hub.repair hhub :).trans hrepair, ?_, ?_⟩
  · exact ((Fx.run_lengths _ _).1 :).trans ((Fx.run_lengths _ _).1 :)
  · exact ((Fx.run_lengths _ _).2.2.2.1 :).trans ((Fx.run_lengths _ _).2.2.2.1 :)

theorem feedDisqualify_last {f : Nat} {mv : Int} (hf : f < 2) (hmv : mv < 39000) (hs : s.power.serving = some f)
    (hq : (s.feed (1 - f)).qualified = false) :
    exec (.feedDisqualify f mv) s = .next (s.announced (losePower.run (s.lastFeedGone f mv))) := by
  have hfeed := onFeed_powered (s := s) f (Feed.outside mv)
  have hevent := when_supplyEvent_powered (s := (onFeed f (Feed.outside mv)).run s) (decide (61000 < mv) && (s.feed f).state != 5) f 4 2 mv
  obtain ⟨hpower, -, -⟩ := hfeed.trans (hfeed.1 ▸ hevent)
  change execFeedDisqualify f mv s = _
  rw [execFeedDisqualify, if_pos (show (decide (mv < 39000) || decide (61000 < mv)) = true by simp [hmv]), Fx.outcome_eq, withInBand_run,
    Fx.run_when, if_pos (by simp [hf]), Fx.run_all_cons, Fx.run_all_cons, Fx.run_all_cons, Fx.run_all_nil, State.lastFeedGone]
  obtain ⟨u, hu⟩ : ∃ u, (Fx.when (decide (61000 < mv) && (s.feed f).state != 5) (supplyEvent f 4 2 mv)).run
    ((onFeed f (Feed.outside mv)).run s) = u := ⟨_, rfl⟩
  rw [hu] at hpower ⊢
  have hother : (u.feed (1 - f)).qualified = false := by
    change (u.power.feed (1 - f)).qualified = false
    rw [hpower, changed_feed_ne (by omega)]
    exact hq
  rw [feedGone, Fx.run_look]
  dsimp only
  rw [if_pos (by rw [hpower]; exact hs), if_neg (by simp [hother]), Fx.run_all_cons, Fx.run_power, Fx.run_all_cons, Fx.run_sideband,
    Fx.run_all_cons, Fx.run_all_nil]

end

/-- Settles O24: in either row the loss of power is the last thing that happens. -/
theorem powerIsLost : Obligations.PowerIsLost := by
  unfold Obligations.PowerIsLost
  refine ⟨fun s f mv ⟨_, hctxs, _, _, hlinks, _⟩ _ hf hs hq hmv => ?_, fun s ⟨_, hctxs, _, _, hlinks, _⟩ => ?_⟩
  · obtain ⟨hnone, hbanks, hrepair, hclen, hllen⟩ := lastFeedGone_state f mv s
    obtain ⟨hserving, -, -, hhub, hctx, hlink, hmem⟩ := losePower_state (hclen.trans hctxs) (hllen.trans hlinks) rfl
    obtain ⟨hword, hbyte⟩ := poison_all (s.lastFeedGone f mv).mem
    refine ⟨_, feedDisqualify_last hf hmv hs hq, ?_, ?_, ?_, ?_, ?_, ?_, ?_, ?_⟩
    · rw [announced_power, hserving, hnone]
    · rw [announced_hub, hhub]
      rfl
    · rw [announced_hub, hhub]
      exact hbanks
    · rw [announced_hub, hhub]
      exact hrepair
    · simpa using hctx
    · simpa using hlink
    · rw [announced_mem, hmem]
      exact hword
    · rw [announced_mem, hmem]
      exact hbyte
  · obtain ⟨u, hu⟩ : ∃ u : State, u = (s.modPower (fun p => { p with
      serving := none, down := true
      feeds := p.feeds.map (fun f => Feed.settled { f with state := if f.state = 2 then 1 else f.state }) })).modSideband
      (fun b => { b with thermtrip := true }) := ⟨_, rfl⟩
    obtain ⟨hserving, hdown, hside, hhub, hctx, -, hmem⟩ := losePower_state (s := u) (by rw [hu]; exact hctxs) (by rw [hu]; exact hlinks) rfl
    refine ⟨s.announced (losePower.run u), ?_, ?_, ?_, ?_, ?_, ?_, ?_⟩
    · change execThermtrip s = _
      rw [execThermtrip, Fx.outcome_eq, withInBand_run, Fx.run_all_cons, Fx.run_power, Fx.run_all_cons, Fx.run_sideband, Fx.run_all_cons,
        Fx.run_all_nil, hu]
    · rw [announced_power, hserving, hu]
      rfl
    · rw [announced_power, hdown, hu]
      rfl
    · rw [announced_sideband, hside, hu]
      rfl
    · rw [announced_hub, hhub]
      rfl
    · simpa using hctx
    · rw [announced_mem, hmem]
      exact (poison_all _).2

end Sys2Proof.Machine

/-! Proofs about temperature and cooling (R600 to R603). -/
namespace Sys2Proof.Machine

/-! ## A field that a sensor slows or releases -/

section
variable {s : State} {f : Nat}

/-- A change of one field's levels, and the events that it raises, leave the frame of every other field, memory, the hub and contexts. -/
theorem withThrottle_field (cause : Nat) (g : Field → Field) (hf : f < s.fields.length) {t : State}
    (ht : (withThrottle cause (Fx.field f g)).run s = t) :
    (t.field f).frame = (g (s.field f)).frame ∧ (∀ i, i ≠ f → (t.field i).frame = (s.field i).frame) ∧ t.mem = s.mem ∧ t.hub = s.hub ∧
      t.ctxs = s.ctxs := by
  have hwithin : (withThrottle cause (Fx.field f g)).Within (fun p => p.raised ∨ p = .fieldFrame f ∨ p = .fieldWork f ∨ p = .books) :=
    withThrottle_within (.field (.inl trivial) (.inl (.inr (.inl rfl))) (.inl (.inr (.inr (.inl rfl)))) (.inl (.inr (.inr (.inr rfl)))))
      ⟨.inl trivial, fun _ => .inl trivial, fun _ => .inl trivial⟩
  have hframe (i : Nat) := withThrottle_fieldFrame cause (Fx.field f g) s i
  subst ht
  refine ⟨?_, fun i hi => ?_, hwithin.mem_eq s (by simp [Place.raised]), hwithin.hub_eq s (by simp [Place.raised]),
    hwithin.ctxs_eq (by simp [Place.raised]) s⟩
  · rw [hframe, Fx.run_field, State.field_modField _ _ _ hf]
  · rw [hframe, Fx.run_field, State.field_modField_ne _ _ _ _ (Ne.symm hi)]

theorem thermalThrottle_next (hf : f < Grade.fields s.grade) (sensor c : Nat) : exec (.thermalThrottle f sensor c) s = .next
    ((if sensor = 0 then withThrottle 2 (Fx.field f (fun g => { g with dieLevel := hotter 100 110 c g.dieLevel }))
      else withThrottle 3 (Fx.field f (fun g => { g with hbmLevel := hotter 90 95 c g.hbmLevel }))).run s) := by
  change execThermalThrottle f sensor c s = _
  rw [execThermalThrottle, Fx.outcome_eq, Fx.run_when, if_pos (by simp [hf])]

theorem thermalRelease_next (hf : f < Grade.fields s.grade) (sensor c : Nat) : exec (.thermalRelease f sensor c) s = .next
    ((if sensor = 0 then withThrottle 2 (Fx.field f (fun g => { g with dieLevel := if c ≤ 95 then 0 else g.dieLevel }))
      else withThrottle 3 (Fx.field f (fun g => { g with hbmLevel := if c ≤ 85 then 0 else g.hbmLevel }))).run s) := by
  change execThermalRelease f sensor c s = _
  rw [execThermalRelease, Fx.outcome_eq, Fx.run_when, if_pos (by simp [hf])]

end

/-! ## A coolant reading -/

/-- What the sensors' registers hold of a reading. -/
def Power.sensors (p : Power) : Nat × Nat × Nat × Option Nat × Bool × Bool := (p.inlet, p.outlet, p.flow, p.slowSince, p.leak, p.inletHot)

def State.sensors (s : State) : Nat × Nat × Nat × Option Nat × Bool × Bool := s.power.sensors

/-- Every place but the power state. -/
def Place.offPower : Place → Prop
  | .power => False
  | _ => True

theorem offPower_aborts : Aborts Place.offPower := by
  refine ⟨⟨⟨⟨trivial, ?_, ?_⟩, trivial, trivial⟩, trivial, trivial, trivial, trivial, ?_, ?_, ?_⟩, ?_⟩ <;> exact fun _ => trivial

theorem Fx.Within.fixes_sensors {a : Fx} (h : a.Within Place.offPower) : a.Fixes State.sensors := fun s =>
  congrArg Power.sensors (h.power_eq s id)

theorem raise_sensors {src cls code : Nat} {who : Option (Nat × Nat)} {p0 p1 p2 : Nat} : (raise src cls code who p0 p1 p2).Fixes State.sensors :=
  Fx.Within.fixes_sensors (raise_within trivial trivial fun _ => trivial)

theorem addMin_sensors (cause : Nat) : (addMin cause).Fixes State.sensors :=
  .look fun _ => .andThen (fun _ => rfl) (.look fun _ => .each fun _ => raise_sensors)

theorem dropMin_sensors (cause : Nat) : (dropMin cause).Fixes State.sensors := .look fun _ => .when fun _ => rfl

theorem checkSet_sensors : checkSet.Fixes State.sensors :=
  .look fun _ => .ite .skip (.ite (.andThen (fun _ => rfl) (dropMin_sensors _)) (.when (.cons (fun _ => rfl) (.cons (.each fun _ =>
    Fx.Within.fixes_sensors (tearCtx_within offPower_aborts (.inl trivial) fun _ => trivial)) (.cons (addMin_sensors _) .nil)))))

/-- What a reading's conditions do once the sensors' registers hold it: events, and minimum power (R601). -/
def coolingActs (s : State) (r : Coolant) : Fx :=
  Fx.all [
    Fx.look fun u =>
      let holds := u.power.coolingCauses u.now r
      let fresh := holds.filter (fun c => !s.power.cooling.contains c)
      Fx.all [
        Fx.each fresh (fun c => raise 454 (coolingClass c) 0x0704 none c r.inlet r.outlet),
        Fx.each (fresh.filter (fun c => decide (2 ≤ c))) addMin,
        Fx.each ([2, 3, 4, 5].filter (fun c => !holds.contains c)) dropMin],
    checkSet]

theorem coolingActs_sensors (s : State) (r : Coolant) : (coolingActs s r).Fixes State.sensors :=
  .cons (.look fun _ => .cons (.each fun _ => raise_sensors) (.cons (.each fun _ => addMin_sensors _) (.cons (.each fun _ => dropMin_sensors _)
    .nil))) (.cons checkSet_sensors .nil)

/-- Every place but the counter, and memory as long as no COPY runs. -/
def Place.offNow : Place → Prop
  | .now | .tiles => False
  | _ => True

theorem offNow_aborts : Aborts Place.offNow := by
  refine ⟨⟨⟨⟨trivial, ?_, ?_⟩, trivial, trivial⟩, trivial, trivial, trivial, trivial, ?_, ?_, ?_⟩, ?_⟩ <;> exact fun _ => trivial

theorem coolingActs_within (s : State) (r : Coolant) : (coolingActs s r).Within Place.offNow := by
  have raises : Raises Place.offNow := ⟨trivial, fun _ => trivial, fun _ => trivial⟩
  exact .cons (.look fun _ => .cons (.each fun _ => raise_within trivial trivial fun _ => trivial) (.cons (.each fun _ => addMin_within raises trivial)
    (.cons (.each fun _ => dropMin_within trivial) .nil))) (.cons (checkSet_within offNow_aborts raises trivial trivial fun _ => trivial) .nil)

theorem cooling_next (s : State) (r : Coolant) : exec (.cooling r) s = .next (s.announced ((coolingActs s r).run
    ((s.setNow (s.now + r.after)).modPower (Power.sense (s.setNow (s.now + r.after)).now r)))) := by
  change execCooling r s = _
  rw [execCooling, Fx.outcome_eq, withInBand_run, Fx.run_all_cons, Fx.run_setNow, Fx.run_all_cons, Fx.run_look, Fx.run_power]
  rfl

/-- Settles O26: the levels are what the sensor's row writes; a reading's registers outlast what its conditions do. -/
theorem thermalLevels : Obligations.ThermalLevels := by
  unfold Obligations.ThermalLevels
  refine ⟨fun s f c hf hlen => ?_, fun s r => ?_⟩
  · have hlt : f < s.fields.length := hlen ▸ hf.trans_le (fields_le_eight s.grade)
    refine ⟨?_, ?_, ?_, ?_⟩
    · obtain ⟨hframe, hother, hkeep⟩ := withThrottle_field 2 (fun g => { g with dieLevel := hotter 100 110 c g.dieLevel }) hlt rfl
      exact ⟨_, thermalThrottle_next hf 0 c, (congrArg Field.dieLevel hframe :), (congrArg Field.hbmLevel hframe :),
        fun g hg => (congrArg Field.dieLevel (hother g hg) :), hkeep⟩
    · obtain ⟨hframe, -, hkeep⟩ := withThrottle_field 3 (fun g => { g with hbmLevel := hotter 90 95 c g.hbmLevel }) hlt rfl
      exact ⟨_, thermalThrottle_next hf 1 c, (congrArg Field.hbmLevel hframe :), (congrArg Field.dieLevel hframe :), hkeep⟩
    · obtain ⟨hframe, -, hkeep⟩ := withThrottle_field 2 (fun g => { g with dieLevel := (if c ≤ 95 then 0 else g.dieLevel) }) hlt rfl
      exact ⟨_, thermalRelease_next hf 0 c, (congrArg Field.dieLevel hframe :), (congrArg Field.hbmLevel hframe :), hkeep⟩
    · obtain ⟨hframe, -, hkeep⟩ := withThrottle_field 3 (fun g => { g with hbmLevel := (if c ≤ 85 then 0 else g.hbmLevel) }) hlt rfl
      exact ⟨_, thermalRelease_next hf 1 c, (congrArg Field.hbmLevel hframe :), (congrArg Field.dieLevel hframe :), hkeep⟩
  · have hnext := cooling_next s r
    obtain ⟨u, hu⟩ : ∃ u, (s.setNow (s.now + r.after)).modPower (Power.sense (s.setNow (s.now + r.after)).now r) = u := ⟨_, rfl⟩
    rw [hu] at hnext
    have hsensors := coolingActs_sensors s r u
    have hnow := (coolingActs_within s r).now_eq u id
    have hclock : u.now = s.now + r.after := by
      rw [← hu]
      exact Nat.max_eq_right (Nat.le_add_right _ _)
    have hpower : u.power = Power.sense u.now r s.power := by
      rw [hclock, ← hu]
      exact congrArg (fun n => Power.sense n r s.power) (Nat.max_eq_right (Nat.le_add_right _ _))
    have hmem (hq : s.noCopyRuns = true) : ((coolingActs s r).run u).mem = u.mem :=
      (coolingActs_within s r).mem_quiet id (by rw [noCopyRuns_congr (by rw [← hu]; rfl : u.ctxs = s.ctxs), hq])
    have hall : ((coolingActs s r).run u).power.sensors = (Power.sense u.now r s.power).sensors := hsensors.trans (congrArg Power.sensors hpower)
    have hinlet := (congrArg (fun x => x.1) hall :)
    have houtlet := (congrArg (fun x => x.2.1) hall :)
    have hflow : _ = estimatedFlow r := (congrArg (fun x => x.2.2.1) hall :)
    have hslow := (congrArg (fun x => x.2.2.2.1) hall :)
    have hleak := (congrArg (fun x => x.2.2.2.2.1) hall :)
    have hhot := (congrArg (fun x => x.2.2.2.2.2) hall :)
    obtain ⟨t, ht⟩ : ∃ t, (coolingActs s r).run u = t := ⟨_, rfl⟩
    rw [ht] at hnext hnow hmem hinlet houtlet hflow hslow hleak hhot
    refine ⟨_, hnext, ?_, ?_, ?_, fun hle => ?_, fun hlt => ?_, ?_, ?_, ?_, fun hq => ?_⟩
    · rw [announced_power]
      exact hinlet
    · rw [announced_power]
      exact houtlet
    · rw [announced_now, hnow, hclock]
    · rw [announced_power, show t.power.flow = _ from hflow, estimatedFlow, if_pos hle]
    · rw [announced_power, show t.power.flow = _ from hflow, estimatedFlow, if_neg (by omega)]
    · rw [announced_power, announced_now, hnow, show t.power.flow = _ from hflow]
      exact hslow.trans (by simp [Power.sensors, Power.sense, heldSince])
    · rw [announced_power]
      exact hleak
    · rw [announced_power]
      exact hhot
    · rw [announced_mem, hmem hq, ← hu]
      rfl

end Sys2Proof.Machine

/-! Proofs about the sideband: its writes, the start of the port, and the faults of its buses (R565, R616 to R620). -/
namespace Sys2Proof.Machine

/-! ## Writes -/

section
variable {s : State}

/-- An effect that changes neither service nor the bus states announces nothing. -/
theorem announced_quiet {t : State} (hservice : t.service = s.service) (hword : t.sideband.word = s.sideband.word) : s.announced t = t := by
  simp [State.announced, hservice, hword]

/-- A write of all eight bytes with good parity on bus A arrives; the bus notes its register and cycle. -/
theorem sidebandWrite_busA {a : U16} {d : List Byte} (hA : s.sideband.busA = 0) (hd : d.length = 8) :
    exec (.sidebandWrite 0 a d true) s = .next (s.announced ((writeSideband a.toNat (leNat d)).run
      (s.modSideband (fun b => { b with lastA := some (a.toNat, s.now) })))) := by
  change execSidebandWrite 0 a d true s = _
  rw [execSidebandWrite, Fx.outcome_eq, withInBand_run, Fx.run_when, if_pos (by simp [State.busOk, hA, hd]), busWrite, Fx.run_look, if_pos rfl, Fx.run_andThen, Fx.run_sideband]

/-- A write that the bus does not take changes nothing. -/
theorem sidebandWrite_refused {bus : Nat} {a : U16} {d : List Byte} {parityOk : Bool} (h : parityOk = false ∨ d.length ≠ 8) :
    exec (.sidebandWrite bus a d parityOk) s = .next s := by
  change execSidebandWrite bus a d parityOk s = _
  rw [execSidebandWrite, Fx.outcome_eq, withInBand_run, Fx.run_when, if_neg, announced_self]
  rcases h with h | h <;> simp [h]

/-- Bus A's write to the register in this cycle stands (R616; log 131). -/
theorem sidebandWrite_busB {a : U16} {d : List Byte} (hlast : s.sideband.lastA = some (a.toNat, s.now)) :
    exec (.sidebandWrite 1 a d true) s = .next s := by
  change execSidebandWrite 1 a d true s = _
  rw [execSidebandWrite, Fx.outcome_eq, withInBand_run, Fx.run_when]
  split
  · rw [busWrite, Fx.run_look, if_neg (by decide), Fx.run_when, if_neg (by simp [hlast]), announced_self]
  · exact congrArg _ (announced_self s)

/-! ## The start of the port -/

/-- The check of the working set leaves what of the hub neither traffic nor the check itself changes. -/
theorem checkSet_hub {α : Type} {p : Hub → α} (hframe : ∀ x, p x.frame = p x) (hserved : ∀ x b, p { x with served := b } = p x) :
    checkSet.Fixes (fun s => p s.hub) := by
  have hkeep {a : Fx} (h : a.Within Place.offHubFrame) : a.Fixes (fun s => p s.hub) := h.fixes_hub id hframe
  exact .look fun _ => .ite .skip (.ite (.andThen (fun _ => hserved _ _) (hkeep (dropMin_within trivial))) (.when (.cons (fun _ => hserved _ _)
    (.cons (.each fun _ => hkeep (tearCtx_within offHubFrame_aborts (.inl trivial) fun _ => trivial)) (.cons
      (hkeep (addMin_within offHubFrame_raises trivial)) .nil)))))

/-- Every place but the frame of the port. -/
def Place.offPortFrame : Place → Prop
  | .portFrame => False
  | _ => True

theorem checkSet_portFrame (s : State) : (checkSet.run s).port.frame = s.port.frame := by
  have abort : Aborts Place.offPortFrame := by
    refine ⟨⟨⟨⟨trivial, ?_, ?_⟩, trivial, trivial⟩, trivial, trivial, trivial, trivial, ?_, ?_, ?_⟩, ?_⟩ <;> exact fun _ => trivial
  exact (checkSet_within abort ⟨trivial, fun _ => trivial, fun _ => trivial⟩ trivial trivial fun _ => trivial).portFrame_eq s id

/-- In step 8 the port comes up with the values it holds, or stays down, and no queue pair is left (R619). -/
theorem applyPort_run (hstage : s.hub.stage = 8) (hheld : s.port.pluggableHeld = false) {t : State} (ht : applyPort.run s = t) :
    t.port.up = s.port.usable ∧ t.hub.stage = (if s.port.usable = true then 9 else 8) ∧ t.port.qps = [] := by
  rw [applyPort, Fx.run_look, Fx.run_when, if_pos (by simp [hstage]), Fx.run_all_cons] at ht
  obtain ⟨u, hu⟩ : ∃ u, (closeQps (fun _ => true)).run s = u := ⟨_, rfl⟩
  obtain ⟨hport, hhub, -, -⟩ := closeQps_run (fun _ => true) s hu
  rw [hu, Fx.run_all_cons, Fx.run_port, Fx.run_all_cons, Fx.run_hub, Fx.run_all_cons, Fx.run_all_nil] at ht
  generalize hv : State.modHub _ _ = v at ht
  have hframe := checkSet_portFrame v
  have hstage' : (checkSet.run v).hub.stage = v.hub.stage := checkSet_hub (p := Hub.stage) (fun _ => rfl) (fun _ _ => rfl) v
  rw [ht] at hframe hstage'
  have husable : u.port.usable = s.port.usable := by rw [hport]; rfl
  have hup : v.port.up = s.port.usable := by
    rw [← hv, ← husable]
    change (u.port.usable && !u.port.pluggableHeld) = _
    rw [show u.port.pluggableHeld = false by rw [hport]; exact hheld]
    simp
  have hqps : v.port.qps = [] := by
    rw [← hv]
    change u.port.qps = []
    rw [hport]
    simp [Port.without]
  refine ⟨(congrArg Port.up hframe :).trans hup, ?_, (congrArg Port.qps hframe :).trans hqps⟩
  rw [hstage', ← hv]
  change (if u.hub.stage = 8 && s.port.usable then 9 else u.hub.stage) = _
  rw [show u.hub.stage = 8 by rw [hhub]; exact hstage]
  cases s.port.usable <;> rfl

/-- `apply` on bus A: the values that the write holds, then the port. -/
theorem apply_next {v : U64} (hA : s.sideband.busA = 0) (hv : v.getLsbD 13 = true) : exec (.apply 0 v) s = .next (s.announced
    (applyPort.run ((s.modSideband (fun b => { b with lastA := some (0x0050, s.now) })).modPort (Port.netCtrl v.toNat)))) := by
  have hbit : bitOf v.toNat 13 = true := by rw [bitOf_eq_testBit]; exact hv
  change execApply 0 v s = _
  rw [execApply, Fx.outcome_eq, withInBand_run, Fx.run_when, if_pos (by simp [State.busOk, hA, hbit]), busWrite, Fx.run_look, if_pos rfl, Fx.run_andThen, Fx.run_sideband, writeNetCtrl, Fx.run_andThen, Fx.run_port, Fx.run_when, if_pos hbit]

/-- What the written values say: an address family, and a valid netmask length. -/
theorem netCtrl_usable (v : U64) (p : Port) : (p.netCtrl v.toNat).usable =
    ((v.getLsbD 3 || v.getLsbD 4) && decide (v.toNat / 32 % 256 ≤ 128)) := by
  have hbit (i : Nat) : bitOf v.toNat i = v.getLsbD i := bitOf_eq_testBit _ _
  simp [Port.usable, Port.netCtrl, hbit]

/-- A bus takes a state. -/
theorem setBus_outcome (bus n : Nat) : (withInBand (setBus bus n)).outcome s = .next (s.announced
    (s.modSideband (fun b => if bus = 0 then { b with busA := n } else { b with busB := n }))) := by
  rw [Fx.outcome_eq, withInBand_run, setBus, Fx.run_sideband]

end

/-- Settles O27: a write works on its register alone; `apply` decides by the values that it holds. -/
theorem sideband : Obligations.Sideband := by
  unfold Obligations.Sideband
  refine ⟨fun s d hA hd => ⟨?_, ?_, fun a _ hlast => sidebandWrite_busB hlast, fun a => sidebandWrite_refused (.inl rfl),
    fun a d' hlen => sidebandWrite_refused (.inr hlen)⟩, fun s v hA hv hstage hheld => ⟨fun hfamily hprefix => ?_, fun h3 h4 => ?_⟩,
    fun s => ⟨setBus_outcome 0 1, setBus_outcome 1 2, setBus_outcome 0 0, setBus_outcome 1 0⟩⟩
  · rw [sidebandWrite_busA hA hd]
    exact congrArg _ (announced_quiet rfl rfl)
  · rw [sidebandWrite_busA hA hd]
    exact congrArg _ (announced_quiet rfl rfl)
  all_goals
    have hmem (t : State) (ht : exec (.apply 0 v) s = .next t) (hq : s.noCopyRuns = true) : t.mem = s.mem :=
      (execApply_within offTiles_aborts offTiles_raises trivial trivial trivial trivial (fun _ => trivial) fun _ => trivial).mem id ht hq
    obtain ⟨hup, hstage', hqps⟩ := applyPort_run (s := (s.modSideband (fun b => { b with lastA := some (0x0050, s.now) })).modPort
      (Port.netCtrl v.toNat)) hstage hheld rfl
    have husable := netCtrl_usable v s.port
    refine ⟨_, apply_next hA hv, ?_, ?_, ?_, hmem _ (apply_next hA hv)⟩
  · rw [announced_port, hup]
    exact husable.trans (by simpa [hprefix] using hfamily)
  · rw [announced_hub, hstage']
    exact if_pos (husable.trans (by simpa [hprefix] using hfamily))
  · rw [announced_port, hqps]
  · rw [announced_port, hup]
    exact husable.trans (by rw [h3, h4]; rfl)
  · rw [announced_hub, hstage']
    exact if_neg (by rw [show ((s.modSideband _).modPort _).port.usable = _ from husable, h3, h4]; exact Bool.false_ne_true)
  · rw [announced_port, hqps]

end Sys2Proof.Machine

/-! Proofs about bring-up after power-up (R565, R575, R626). -/
namespace Sys2Proof.Machine

/-! ## Words that stay poison -/

theorem wordOk_eq_false {m : Mem} {w : Nat} : m.wordOk w = false ↔ ∃ g, g / 8 = w ∧ m.granuleOk g = false := by
  simp only [Mem.wordOk, List.all_eq_false, List.mem_range, Bool.not_eq_true]
  constructor
  · rintro ⟨i, hi, h⟩
    exact ⟨8 * w + i, by omega, h⟩
  · rintro ⟨g, rfl, h⟩
    exact ⟨g % 8, Nat.mod_lt _ (by decide), by rwa [Nat.div_add_mod]⟩

/-- A poisoned word stays so when another range is poisoned. -/
theorem poison_keeps_poison {m : Mem} {w : Nat} (lo hi : Nat) (h : m.wordOk w = false) : (m.poison lo hi).wordOk w = false := by
  obtain ⟨g, hg, hbad⟩ := wordOk_eq_false.mp h
  refine wordOk_eq_false.mpr ⟨g, hg, ?_⟩
  by_cases hin : lo ≤ g ∧ g < hi
  · exact Mem.poison_granuleOk hin.1 hin.2
  · exact (Mem.poison_same (m := m) (by omega)).granuleOk.trans hbad

/-! ## Stacks and links that come up -/

section
variable {s : State} {b : BringUp}

theorem bringStack_mem (k : Nat) (s : State) : ((bringStack b k).run s).mem =
    s.mem.poison (memKey 0 (k * 2 ^ 36) / 8) (memKey 0 ((k + 1) * 2 ^ 36) / 8) := by
  rw [bringStack, Fx.run_andThen, Fx.run_memPoison, Fx.run_stack]
  rfl

/-- Each stack that is brought up is filled with poison (R626). -/
theorem each_bringStack_poison {l : List Nat} {k w : Nat} (hlo : k * 2 ^ 30 ≤ w) (hhi : w < (k + 1) * 2 ^ 30)
    (h : k ∈ l ∨ s.mem.wordOk w = false) : ((Fx.each l (bringStack b)).run s).mem.wordOk w = false := by
  induction l generalizing s with
  | nil => exact h.resolve_left (by simp)
  | cons j l ih =>
    rw [Fx.run_each_cons]
    refine ih ?_
    rw [bringStack_mem]
    by_cases hj : k = j
    · subst hj
      exact .inr (poison_wordOk _ (by simp only [memKey]; omega) (by simp only [memKey]; omega))
    · exact h.imp (fun hk => (List.mem_cons.mp hk).resolve_left hj) (poison_keeps_poison _ _)

/-- The links with a signal start training, one after the other. -/
def trainSignals (b : BringUp) (l : List Nat) : Fx :=
  Fx.each l (fun i => Fx.link i (fun x => { x with state := if b.signal.getLsbD i then 1 else x.state }))

theorem trainSignals_link {l : List Nat} {i : Nat} (hlen : i < s.links.length) (hsignal : b.signal.getLsbD i = true)
    (h : i ∈ l ∨ (s.link i).state = 1) : (((trainSignals b l).run s).link i).state = 1 := by
  unfold trainSignals
  induction l generalizing s with
  | nil => exact h.resolve_left (by simp)
  | cons j l ih =>
    rw [Fx.run_each_cons, Fx.run_link]
    refine ih (by simpa [State.modLink] using hlen) ?_
    by_cases hj : i = j
    · subst hj
      rw [State.link_modLink _ _ _ hlen]
      exact .inr (if_pos hsignal)
    · rw [State.link_modLink_ne _ _ _ _ (Ne.symm hj)]
      exact h.imp_left fun hi => (List.mem_cons.mp hi).resolve_left hj

/-! ## Steps 3 to 7 -/

/-- Bring-up with good images, up to where the stacks come up: fields, and what the checks found. -/
def bringFields (b : BringUp) (fields hbm : List Nat) : Fx :=
  Fx.all [
    Fx.hub (fun h => { h with stage := 7 }),
    Fx.each b.resets (fun r => Fx.hub (Hub.sees r.beds r.banks)),
    Fx.each fields (fun f => Fx.field f (fun g => { g with state := 0 })),
    Fx.each hbm (fun k => Fx.stack k (fun x => { x with state := 0 })),
    Fx.look fun t => Fx.when (decide (t.hub.cores < 4)) (raise 448 2 0x0801 none t.hub.cores 0 0),
    Fx.each fields (bringField b)]

theorem bringFields_stage (fields hbm : List Nat) (s : State) : ((bringFields b fields hbm).run s).hub.stage = 7 := by
  have hkeep {a : Fx} (h : a.Within Place.offHubFrame) : a.Fixes (fun s => s.hub.stage) := h.fixes_hub id (p := Hub.stage) fun _ => rfl
  have touches : Touches Place.offHubFrame := ⟨offHubFrame_raises, trivial, trivial, trivial, fun _ => trivial⟩
  rw [bringFields, Fx.run_all_cons, Fx.run_hub]
  have hrest : (Fx.all [
      Fx.each b.resets (fun r => Fx.hub (Hub.sees r.beds r.banks)),
      Fx.each fields (fun f => Fx.field f (fun g => { g with state := 0 })),
      Fx.each hbm (fun k => Fx.stack k (fun x => { x with state := 0 })),
      Fx.look fun t => Fx.when (decide (t.hub.cores < 4)) (raise 448 2 0x0801 none t.hub.cores 0 0),
      Fx.each fields (bringField b)]).Fixes (fun s => s.hub.stage) :=
    .cons (.each fun _ _ => rfl) (.cons (.each fun _ _ => rfl) (.cons (.each fun _ _ => rfl) (.cons (.look fun _ => .when
      (hkeep (raise_within trivial trivial fun _ => trivial))) (.cons (.each fun _ => hkeep (bringField_within offHubFrame_aborts.toAnswers
      touches trivial trivial trivial)) .nil))))
  exact hrest (s.modHub (fun h => { h with stage := 7 }))

/-- Every image loads: fields, stacks and links come up (R565 steps 5 to 7). -/
def bringRest (b : BringUp) (fields hbm links : List Nat) : Fx :=
  (bringFields b fields hbm).andThen ((Fx.each hbm (bringStack b)).andThen ((trainSignals b links).andThen checkBringUp))

theorem bringUpFrom3_run (hrom : b.boot.romOk = true) (s : State) : ∃ u : State, u = ((stopTraining.run s).modHub (Hub.booted b.boot)) ∧
    (bringUpFrom3 b).run s = if u.hub.noImage ≠ 0#3 then
        (Fx.each (List.range (Grade.fields s.grade)) (fun f => Fx.field f (fun g => { g with state := 3 }))).run
          (u.modHub (fun h => { h with stage := 15 }))
      else (bringRest b (List.range (Grade.fields s.grade)) (List.range (Grade.hbmStacks s.grade)) s.linkIds).run u := by
  have hgrade : ((stopTraining.run s).modHub (Hub.booted b.boot)).grade = s.grade := stopTraining.run_grade s
  refine ⟨_, rfl, ?_⟩
  rw [bringUpFrom3, Fx.run_andThen, if_neg (by simp [hrom]), Fx.run_all_cons, Fx.run_hub, Fx.run_all_cons, Fx.run_all_nil, Fx.run_look]
  obtain ⟨u, hu⟩ : ∃ u, (stopTraining.run s).modHub (Hub.booted b.boot) = u := ⟨_, rfl⟩
  rw [hu] at hgrade ⊢
  have hlinks : u.linkIds = s.linkIds := by rw [State.linkIds, State.linkIds, hgrade]
  rw [hgrade, hlinks]
  dsimp only
  split
  · rw [Fx.run_all_cons, Fx.run_hub, Fx.run_all_cons, Fx.run_all_nil]
  · rfl

/-- The stage in which step 7 leaves bring-up. -/
theorem checkBringUp_stage (h : s.hub.stage = 7) : (checkBringUp.run s).hub.stage = 7 ∨ (checkBringUp.run s).hub.stage = 8 := by
  rw [checkBringUp, Fx.run_look, Fx.run_when]
  split
  · exact .inr rfl
  · exact .inl h

/-- Stacks hold poison and links with a signal train once bring-up has come so far. -/
theorem bringRest_state (hlinks : s.links.length = 32) (fields hbm : List Nat) {t : State}
    (ht : (bringRest b fields hbm s.linkIds).run s = t) : (t.hub.stage = 7 ∨ t.hub.stage = 8) ∧
      (∀ i, i < Grade.links s.grade → b.signal.getLsbD i = true → (t.link i).state = 1) ∧
      (∀ k w, k ∈ hbm → k * 2 ^ 30 ≤ w → w < (k + 1) * 2 ^ 30 → t.mem.wordOk w = false) := by
  rw [bringRest, Fx.run_andThen, Fx.run_andThen, Fx.run_andThen] at ht
  have hstage := bringFields_stage (b := b) fields hbm s
  obtain ⟨-, -, -, hlen, -⟩ := (bringFields b fields hbm).run_lengths s
  obtain ⟨u, hu⟩ : ∃ u, (bringFields b fields hbm).run s = u := ⟨_, rfl⟩
  rw [hu] at hstage hlen ht
  obtain ⟨-, -, -, hlen', -⟩ := (Fx.each hbm (bringStack b)).run_lengths u
  have hstage' : (Fx.each hbm (bringStack b)).Fixes (fun s => s.hub.stage) := .each fun _ _ => rfl
  have hstacks := hstage' u
  obtain ⟨v, hv⟩ : ∃ v, (Fx.each hbm (bringStack b)).run u = v := ⟨_, rfl⟩
  have hmem {k w : Nat} (hk : k ∈ hbm) (hlo : k * 2 ^ 30 ≤ w) (hhi : w < (k + 1) * 2 ^ 30) : v.mem.wordOk w = false := by
    rw [← hv]
    exact each_bringStack_poison hlo hhi (.inl hk)
  rw [hv] at hlen' hstacks ht
  have hstage'' : (trainSignals b s.linkIds).Fixes (fun s => s.hub.stage) := .each fun _ _ => rfl
  have hmem' : (trainSignals b s.linkIds).Fixes State.mem := .each fun _ _ => rfl
  have hup : checkBringUp.Within (fun p => p = .hub ∨ p = .hubCore ∨ p = .hubFrame) := checkBringUp_within (by simp) (by simp) (by simp)
  subst ht
  refine ⟨checkBringUp_stage ((hstage'' v).trans (hstacks.trans hstage)), fun i hi hsignal => ?_, fun k w hk hlo hhi => ?_⟩
  · rw [hup.link_eq _ (by simp)]
    exact trainSignals_link (by have := links_le_32 s.grade; omega) hsignal (.inl (List.mem_range.mpr hi))
  · rw [hup.mem_eq _ (by simp), hmem']
    exact hmem hk hlo hhi

/-! ## Steps 1 and 2 -/

/-- The module in step 2: the clock root's source, and the default address. -/
def State.poweredUp (s : State) (b : BringUp) : State :=
  (s.modPower (fun p => { p with external := b.refclk })).modPort (fun p => { p with mac := Config.defaultMac s.sideband.fruBytes })

theorem powerUp_next (hstage : s.hub.stage ≤ 3) (hserving : s.power.serving.isSome = true) (hforty : s.power.atForty = true)
    (hgood : b.powerGood = true) (hwarm : s.hub.warm = false) : exec (.powerUp b) s = .next (s.announced
      ((if b.pllLock = true then bringUpFrom3 b else Fx.hub (fun h => { h with stage := 2 })).run (s.poweredUp b))) := by
  change execPowerUp b s = _
  rw [execPowerUp, Fx.outcome_eq, withInBand_run, Fx.run_when, if_pos (by simp [hstage, hwarm]), bringUp, Fx.run_look, Fx.run_when,
    if_pos (by simp [hgood, hserving, hforty]), Fx.run_all_cons, Fx.run_power, Fx.run_all_cons, Fx.run_port, Fx.run_all_cons, Fx.run_all_nil]
  rfl

theorem bringUpFrom3_noRom (hrom : b.boot.romOk = false) (s : State) :
    (bringUpFrom3 b).run s = (stopTraining.run s).modHub (fun h => { h with stage := 3 }) := by
  rw [bringUpFrom3, Fx.run_andThen, if_pos (by simp [hrom]), Fx.run_hub]

/-- What the end of training without a result touches. -/
def Place.links : Place → Prop
  | .link _ | .linkFrame _ => True
  | _ => False

theorem stopTraining_links : stopTraining.Within Place.links := stopTraining_within (fun _ => trivial) fun _ => trivial

/-- Steps 3 to 7 leave the power state. -/
theorem bringUpFrom3_power (s : State) : ((bringUpFrom3 b).run s).power = s.power := by
  have answers := offPower_aborts.toAnswers
  have touches : Touches Place.offPower := ⟨⟨trivial, fun _ => trivial, fun _ => trivial⟩, trivial, trivial, trivial, fun _ => trivial⟩
  exact (bringUpFrom3_within answers touches trivial trivial trivial (fun _ => trivial) (fun _ => trivial) fun _ => trivial).power_eq s id

theorem each_field_hub (l : List Nat) (g : Nat → Field → Field) (s : State) : ((Fx.each l (fun f => Fx.field f (g f))).run s).hub = s.hub :=
  Fx.Fixes.each (v := State.hub) (fun _ _ => rfl) s

end

/-- Settles O28: the boot's findings decide the branch; what comes last in it is what its claim names. -/
theorem powerUpBringsUp : Obligations.PowerUpBringsUp := by
  unfold Obligations.PowerUpBringsUp
  intro s b ⟨_, _, _, _, hlinks, _⟩ hstage hserving hforty hgood hwarm
  refine ⟨_, powerUp_next hstage hserving hforty hgood hwarm, ?_, fun hpll => ?_, fun hpll hrom => ?_, fun hpll hrom himage => ?_,
    fun hpll hrom himage => ?_⟩
  · rw [announced_power]
    split
    · rw [bringUpFrom3_power]
      rfl
    · rfl
  · rw [announced_hub, announced_mem, announced_ctxs, if_neg (by simp [hpll])]
    exact ⟨rfl, rfl, rfl⟩
  · rw [announced_hub, announced_mem, announced_ctxs, if_pos hpll, bringUpFrom3_noRom hrom]
    exact ⟨rfl, stopTraining_links.mem_eq (s.poweredUp b) id, stopTraining_links.ctxs_eq (fun _ => id) (s.poweredUp b)⟩
  all_goals
    obtain ⟨u, hu, hrun⟩ := bringUpFrom3_run hrom (s.poweredUp b)
    have hhub : (stopTraining.run (s.poweredUp b)).hub = s.hub := stopTraining_links.hub_eq (s.poweredUp b) id
    have hload : u.hub.noImage = ((s.hub.checked b.boot.bankBad).loadImages).noImage := by
      rw [hu]
      exact congrArg (fun h : Hub => (h.booted b.boot).noImage) hhub
  · rw [announced_hub, if_pos hpll, hrun, if_pos (hload ▸ himage), each_field_hub]
    rfl
  · have hlen : u.links.length = 32 := by
      rw [hu, ← hlinks]
      exact ((stopTraining.run_lengths (s.poweredUp b)).2.2.2.1 :)
    have hgrade : u.grade = s.grade := by
      rw [hu]
      exact (stopTraining.run_grade (s.poweredUp b) :)
    have hids : (s.poweredUp b).linkIds = u.linkIds := by rw [State.linkIds, State.linkIds, hgrade]; rfl
    obtain ⟨hstage', htrains, hpoison⟩ := bringRest_state (b := b) hlen (List.range (Grade.fields (s.poweredUp b).grade))
      (List.range (Grade.hbmStacks (s.poweredUp b).grade)) rfl
    simp only [announced_hub, announced_link, announced_mem]
    rw [if_pos hpll, hrun, if_neg (by rw [hload]; exact fun h => h himage), hids]
    exact ⟨hstage', fun i hi => htrains i (hgrade ▸ hi), fun k w hk => hpoison k w (List.mem_range.mpr hk)⟩

end Sys2Proof.Machine

/-! Host RDMA and in-band interrupts (R534, R615). The claim says that a host write adds its acknowledgement to what has left the module
and nothing else; but a write that covers a check granule in part reads it first (R355), the read may be the one that finds a third failing
pseudo-channel in a stack whose two retirements are used, and that is cause 3 of R499: the change of `MOD_SERVICE` is announced by an
in-band interrupt, which leaves before the acknowledgement. -/
namespace Sys2Proof.Machine

/-- A stack that has trained, whose two retirements are used, with 15 errors in every pseudo-channel. -/
def wornStack : Stack :=
  { Stack.reset with
    trained := true, retiredA := some 0#6, retiredB := some 1#6, pcUncorrected := (List.range 64).map (fun p => (p, 15)) }

/-- A module with that stack, a connected queue pair, sound fields and cores, and a double error in granule 0 of HBM. Its recovery mode
raises no events. -/
def wornState : State :=
  { State.reset with
    mem := { State.reset.mem with clean := [0], ecc := [(0, BitVec.ofNat 72 (3 * 2 ^ 64))] }
    fields := State.reset.fields.map (fun g => { g with seqUse := [0, 1, 2, 3] })
    hbmStacks := State.reset.hbmStacks.set 0 wornStack
    hub := { State.reset.hub with stage := 15, cores := 4 }
    port := { State.reset.port with qps := [{ num := 1, connected := true, rate := 16, lastCnp := none, lastHit := none }] } }

/-! ## The pseudo-channel of the error -/

theorem survivors_one (i : Nat) : (survivors [0]).getD (i % (survivors [0]).length) 0 < 64 ∧
    (survivors [0]).getD (i % (survivors [0]).length) 0 ≠ 0 := by
  have h : ∀ k < 63, (survivors [0]).getD k 0 < 64 ∧ (survivors [0]).getD k 0 ≠ 0 := by decide
  exact h _ (Nat.mod_lt _ (by decide))

theorem survivors_two (i : Nat) : (survivors [0, 1]).getD (i % (survivors [0, 1]).length) 0 < 64 ∧
    (survivors [0, 1]).getD (i % (survivors [0, 1]).length) 0 ≠ 0 ∧ (survivors [0, 1]).getD (i % (survivors [0, 1]).length) 0 ≠ 1 := by
  have h : ∀ k < 62, (survivors [0, 1]).getD k 0 < 64 ∧ (survivors [0, 1]).getD k 0 ≠ 0 ∧ (survivors [0, 1]).getD k 0 ≠ 1 := by decide
  exact h _ (Nat.mod_lt _ (by decide))

/-- A word's pseudo-channel is none of those that are retired (R373). -/
theorem wornState_pcOf : wornState.pcOf 0 < 64 ∧ wornState.pcOf 0 ≠ 0 ∧ wornState.pcOf 0 ≠ 1 := by
  have hpc : wornState.pcOf 0 = redirect 0 0 [0, 1] (redirect 0 0 [0] (Config.pseudoChannel 0 0).toNat) := rfl
  have hfirst : redirect 0 0 [0] (Config.pseudoChannel 0 0).toNat < 64 ∧ redirect 0 0 [0] (Config.pseudoChannel 0 0).toNat ≠ 0 := by
    rw [redirect]
    split
    · exact survivors_one _
    · rename_i h
      exact ⟨(Config.pseudoChannel 0 0).isLt, fun e => h (by simp [e])⟩
  rw [hpc, redirect]
  split
  · exact survivors_two _
  · rename_i h
    exact ⟨hfirst.1, hfirst.2, fun e => h (by simp [e])⟩

/-! ## The read that announces -/

/-- The module with the error counted in its pseudo-channel. -/
def wornStruck (pc : Nat) : State :=
  wornState.modStack 0 (fun k => { k with uncorrected := satAdd 65535 k.uncorrected 1, pcUncorrected := tablePut k.pcUncorrected pc 16 })

theorem wornStruck_announces : ∀ pc < 64, pc ≠ 0 → pc ≠ 1 → (wornState.announced (wornStruck pc)).out.length = 2 := by decide +kernel

theorem raise_recovery {s : State} (h : s.hub.stage = 15) (src cls code : Nat) (who : Option (Nat × Nat)) (p0 p1 p2 : Nat) :
    (raise src cls code who p0 p1 p2).run s = s := by
  unfold raise
  rw [Fx.run_look, Fx.run_when, if_neg (by simp [h])]

theorem wornState_count : ∀ pc < 64, tableGet (wornState.stack 0).pcUncorrected pc 0 = 15 := by decide +kernel

theorem wornState_touch : (touchWord 0).run wornState = wornState.announced (wornStruck (wornState.pcOf 0)) := by
  obtain ⟨hlt, -, -⟩ := wornState_pcOf
  have hdouble : wornState.mem.wordDouble 0 = true := by decide +kernel
  rw [touchWord, Fx.run_look]
  dsimp only
  rw [if_pos hdouble, if_neg (by decide), Fx.run_andThen, withInBand_run, Fx.run_stack, Fx.run_when]
  simp only [Nat.mul_zero, Nat.zero_mod, Nat.zero_div]
  rw [wornState_count _ hlt]
  rw [if_pos (by decide), raise_recovery]
  · rfl
  · rw [announced_hub]
    rfl

theorem wornState_partialReads : (partialReads 1 1).run wornState = wornState.announced (wornStruck (wornState.pcOf 0)) := by
  rw [partialReads, Fx.run_look]
  change (Fx.each [0] (fun w => plainRead none 0 (64 * w) 64)).run wornState = _
  rw [Fx.run_each_cons, Fx.run_each_nil, plainRead, Fx.run_andThen, wordEvents, Fx.run_look]
  change (touchRange 0 64).run ((Fx.each [0] _).run wornState) = _
  rw [Fx.run_each_cons, Fx.run_each_nil, raise_recovery rfl, touchRange, Fx.run_look]
  change (Fx.each [0] touchWord).run wornState = _
  rw [Fx.run_each_cons, Fx.run_each_nil, wornState_touch]

theorem keySpace_hbm : keySpace (Config.memoryKey 0) = some 0 := by simp [keySpace, List.range_succ]

theorem wornState_access : wornState.hostAccess (Config.memoryKey 0) 1 1 = some 0 := by
  rw [State.hostAccess, keySpace_hbm]
  exact if_pos (by decide +kernel)

/-- Refutes O20: the acknowledgement of a host write of one byte is not the only thing that leaves the module. -/
theorem not_hostRdma : ¬ Obligations.HostRdma := by
  unfold Obligations.HostRdma
  rintro ⟨-, -, -, -, h⟩
  obtain ⟨hwrite, -⟩ := h wornState 1 (Config.memoryKey 0) 1 [0#8] [] rfl (by decide +kernel)
  obtain ⟨t, ht, -, hout, -⟩ := hwrite wornState_access
  have hrun : exec (.rdmaWrite 1 (Config.memoryKey 0) 1 [0#8] []) wornState = .next (((wornState.announced
      (wornStruck (wornState.pcOf 0))).memWrite (memKey 0 1) [0#8]).emit (.writeAck 1)) := by
    change execRdmaWrite 1 (Config.memoryKey 0) 1 [0#8] [] wornState = _
    rw [execRdmaWrite]
    simp only [List.length_singleton, wornState_access]
    rw [Fx.outcome_eq, Fx.run_when, if_pos (by decide +kernel), Fx.run_all_cons, awaitSets, Fx.run_look, Fx.run_when, if_neg (by decide),
      Fx.run_all_cons, show memKey 0 1 = 1 from rfl, wornState_partialReads, Fx.run_all_cons, Fx.run_memWrite, Fx.run_all_cons, Fx.run_all_cons,
      Fx.run_emit, Fx.run_all_nil]
    rfl
  obtain ⟨hlt, h0, h1⟩ := wornState_pcOf
  have htwo := wornStruck_announces _ hlt h0 h1
  rw [hrun] at ht
  rw [← Host.Outcome.next.inj ht] at hout
  have hlen : (wornState.announced (wornStruck (wornState.pcOf 0))).out.length + 1 = 0 + 1 := by
    have := congrArg List.length hout
    simpa [State.emit, State.memWrite, wornState, State.reset] using this
  omega

end Sys2Proof.Machine

/-! Proofs about write-back, scrub, refresh, and the retirement and failure of stacks (R350, R351, R371 to R377). -/
namespace Sys2Proof.Machine

/-! ## A word that is written back -/

/-- Granules of a word that are rewritten one after the other: each is settled, and no byte reads otherwise. -/
theorem foldl_cleanGranule (l : List Nat) (m : Mem) (w : Nat) :
    (∀ i ∈ l, (l.foldl (fun n i => n.cleanGranule (8 * w + i)) m).Settled (8 * w + i)) ∧
    (∀ g, (∀ i ∈ l, g ≠ 8 * w + i) → m.Same (l.foldl (fun n i => n.cleanGranule (8 * w + i)) m) g) ∧
    ∀ a, (l.foldl (fun n i => n.cleanGranule (8 * w + i)) m).byte a = m.byte a := by
  induction l generalizing m with
  | nil => exact ⟨nofun, fun g _ => .refl m g, fun _ => rfl⟩
  | cons i l ih =>
    obtain ⟨hclean, hother, hbyte⟩ := Mem.cleanGranule_spec m (8 * w + i)
    obtain ⟨hsettled, hsame, hbyte'⟩ := ih (m.cleanGranule (8 * w + i))
    rw [List.foldl_cons]
    refine ⟨fun j hj => ?_, fun g hg => ?_, fun a => (hbyte' a).trans (hbyte a)⟩
    · by_cases hjl : j ∈ l
      · exact hsettled j hjl
      · have hji : j = i := (List.mem_cons.mp hj).resolve_right hjl
        rw [(hsame (8 * w + j) fun k hk e => hjl (by rwa [show j = k by omega])).settled, hji]
        exact hclean
    · exact (hother g (hg i List.mem_cons_self)).trans (hsame g fun k hk => hg k (List.mem_cons_of_mem _ hk))

/-- A write-back changes no byte that a read returns. -/
theorem scrubWord_byte (m : Mem) (w a : Nat) : (m.scrubWord w).byte a = m.byte a := by
  rw [Mem.scrubWord]
  split
  · exact (foldl_cleanGranule _ m w).2.2 a
  · rfl

/-- A readable word holds no upset after its write-back (R350). -/
theorem scrubWord_ecc {m : Mem} {w : Nat} (h : m.wordOk w = true) {g : Nat} (hg : g / 8 = w) : tableGet? (m.scrubWord w).ecc g = none := by
  have hsplit : g = 8 * w + g % 8 := by omega
  obtain ⟨hsettled, hsame, -⟩ := foldl_cleanGranule ((List.range 8).filter (fun i => (tableGet? m.ecc (8 * w + i)).isSome)) m w
  rw [Mem.scrubWord, if_pos h]
  by_cases hin : (tableGet? m.ecc g).isSome = true
  · have hmem : g % 8 ∈ (List.range 8).filter (fun i => (tableGet? m.ecc (8 * w + i)).isSome) :=
      List.mem_filter.mpr ⟨List.mem_range.mpr (Nat.mod_lt _ (by decide)), by rwa [← hsplit]⟩
    exact hsplit ▸ (hsettled _ hmem).2
  · rw [(hsame g fun i hi e => hin (by rw [e]; exact (List.mem_filter.mp hi).2)).2.2]
    simpa using hin

theorem memScrub_byte (w : Nat) (s : State) (a : Nat) : (s.memScrub w).mem.byte a = s.mem.byte a := scrubWord_byte s.mem w a

theorem memScrub_gone (w : Nat) (s : State) : w ∉ (s.memScrub w).mem.writeBack := fun h => by simpa using (List.mem_filter.mp h).2

/-- Words that are written back wait no more, and no byte reads otherwise. -/
theorem each_memScrub (l : List Nat) (s : State) : (∀ a, ((Fx.each l Fx.memScrub).run s).mem.byte a = s.mem.byte a) ∧
    (∀ w ∈ l, w ∉ ((Fx.each l Fx.memScrub).run s).mem.writeBack) ∧ { (Fx.each l Fx.memScrub).run s with mem := s.mem } = s := by
  induction l generalizing s with
  | nil => exact ⟨fun _ => rfl, nofun, rfl⟩
  | cons v l ih =>
    obtain ⟨hbyte, hgone, hframe⟩ := ih (s.memScrub v)
    have hsub (l : List Nat) (s : State) (w : Nat) (h : w ∉ s.mem.writeBack) : w ∉ ((Fx.each l Fx.memScrub).run s).mem.writeBack := by
      induction l generalizing s with
      | nil => exact h
      | cons v l ih => exact ih (s.memScrub v) fun hw => h (List.mem_filter.mp hw).1
    rw [Fx.run_each_cons, Fx.run_memScrub]
    refine ⟨fun a => (hbyte a).trans (memScrub_byte v s a), fun w hw => ?_, (congrArg (fun t : State => { t with mem := s.mem }) hframe :).trans rfl⟩
    by_cases hv : w = v
    · exact hsub l _ w fun h => by simpa [hv] using (List.mem_filter.mp h).2
    · exact hgone w ((List.mem_cons.mp hw).resolve_left hv)

theorem upset_writeBack (m : Mem) (l : List (Nat × BitVec 72)) : (m.upset l).writeBack = m.writeBack := by
  induction l generalizing m with
  | nil => rfl
  | cons e l ih => exact ih _

/-! ## What a read counts -/

section
variable {α : Type}

/-- A change of one field fixes what it leaves of a field. -/
theorem Fx.Fixes.field {p : Field → α} {i j : Nat} {f : Field → Field} (h : ∀ g, p (f g) = p g) :
    (Fx.field j f).Fixes (fun s => p (s.field i)) := fun s => by
  rw [Fx.run_field]
  dsimp only
  rcases State.field_modField_cases s j i f with e | ⟨rfl, e⟩ <;> rw [e]
  exact h _

/-- An event counts faults, and leaves what no count is of a field. -/
theorem raise_fixes_field {p : Field → α} {i : Nat} (h : ∀ g n k l, p { g with arith := n, sealFails := k, parity := l } = p g)
    {src cls code : Nat} {who : Option (Nat × Nat)} {p0 p1 p2 : Nat} :
    (raise src cls code who p0 p1 p2).Fixes (fun s => p (s.field i)) := by
  unfold raise
  refine .look fun _ => .when (.andThen (.andThen (.andThen (fun _ => rfl) (.when fun _ => rfl)) (.when (.field fun g => ?_)))
    (.look fun _ _ => rfl))
  split
  · exact h g (satAdd 65535 g.arith 1) g.sealFails g.parity
  · exact h g g.arith (satAdd 65535 g.sealFails 1) g.parity
  · exact h g g.arith g.sealFails (satAdd 65535 g.parity 1)
  · rfl

end

/-- The row that a bank's next scrub reads. -/
def Field.scrubRow (b : Nat) (g : Field) : Nat := (tableGet g.banks b BankStat.reset).scrubRow

theorem raise_scrubRow {f b src cls code : Nat} {who : Option (Nat × Nat)} {p0 p1 p2 : Nat} :
    (raise src cls code who p0 p1 p2).Fixes (fun s => (s.field f).scrubRow b) := raise_fixes_field fun _ _ _ _ => rfl

/-- A count of a bank's errors leaves the row of its next scrub. -/
theorem countBank_scrubRow {f b i j : Nat} {g : BankStat → BankStat} (hg : ∀ x, (g x).scrubRow = x.scrubRow) :
    (Fx.field i (fun x => { x with banks := tablePut x.banks j (g (tableGet x.banks j BankStat.reset)) })).Fixes
      (fun s => (s.field f).scrubRow b) := .field fun x => by
  by_cases h : b = j
  · subst h
    simp [Field.scrubRow, tableGet_put_self, hg]
  · simp [Field.scrubRow, tableGet_put_ne _ _ _ h]

theorem withInBand_fixes {α : Type} {v : State → α} {a : Fx} (h : a.Fixes v) (hout : ∀ (s : State) o, v { s with out := o } = v s) :
    (withInBand a).Fixes v := fun s => by
  rw [withInBand_run, announced_eq, hout, h]

theorem touchWord_scrubRow {f b w : Nat} : (touchWord w).Fixes (fun s => (s.field f).scrubRow b) := by
  refine .look fun s => ?_
  dsimp only
  refine .ite (.ite (countBank_scrubRow (g := fun b => { b with uncorrected := satAdd 65535 b.uncorrected 1 }) fun _ => rfl)
    (.andThen (withInBand_fixes (fun _ => rfl) fun _ _ => rfl) (.when raise_scrubRow))) (.when (.andThen (fun _ => rfl)
    (.ite (countBank_scrubRow (g := fun b => { b with corrected := satAdd 65535 b.corrected 1 }) fun _ => rfl) fun _ => rfl)))

theorem plainRead_scrubRow {f b : Nat} {who : Option (Nat × Nat)} {seq key len : Nat} :
    (plainRead who seq key len).Fixes (fun s => (s.field f).scrubRow b) :=
  .andThen (.look fun _ => .each fun _ => raise_scrubRow) (.look fun _ => .each fun _ => touchWord_scrubRow)

/-- A read that meets no error counts nothing. -/
theorem plainRead_clean {who : Option (Nat × Nat)} {seq key len : Nat} {s : State} (h : s.mem.errorWords key len = []) :
    (plainRead who seq key len).run s = s := by
  rw [plainRead, Fx.run_andThen, wordEvents, Fx.run_look, h]
  change (touchRange key len).run s = s
  rw [touchRange, Fx.run_look, h, Fx.run_each_nil]

/-! ## Write-back, scrub and refresh -/

section
variable {s : State} {f b r : Nat}

theorem eccWriteback_next (hon : ((s.field f).sets.getD (b / 128) SetPower.reset).state = .on)
    (htarget : ((s.field f).sets.getD (b / 128) SetPower.reset).target = none) (hw : (memKey 1 (resOffset f b r) / 64) ∈ s.mem.writeBack) :
    exec (.eccWriteback f b r) s = .next (s.memScrub (memKey 1 (resOffset f b r) / 64)) := by
  change execEccWriteback f b r s = _
  rw [execEccWriteback, Fx.outcome_eq, Fx.run_when, if_pos (by rw [hon, htarget]; simpa using hw), Fx.run_memScrub]

/-- A bank's scrub moves on by one row. -/
def Field.scrubbed (b : Nat) (g : Field) : Field :=
  let c := tableGet g.banks b BankStat.reset
  { g with banks := tablePut g.banks b { c with scrubRow := (c.scrubRow + 1) % 32768 } }

theorem scrub_next (hon : ((s.field f).sets.getD (b / 128) SetPower.reset).state = .on)
    (htarget : ((s.field f).sets.getD (b / 128) SetPower.reset).target = none) (l : List Upset) :
    exec (.scrub f ⟨b, l⟩) s = .next (((plainRead none 0 (memKey 1 (resOffset f b ((s.field f).scrubRow b))) 64).run
      (s.memUpset (bankUpsets f b l))).modField f (Field.scrubbed b)) := by
  change execScrub f ⟨b, l⟩ s = _
  rw [execScrub, Fx.outcome_eq, Fx.run_when, if_pos (by rw [hon, htarget]; rfl), Fx.run_all_cons, Fx.run_memUpset, Fx.run_all_cons, Fx.run_all_cons,
    Fx.run_field, Fx.run_all_nil]
  rfl

/-- Every place but both memories' data. -/
def Place.offData : Place → Prop
  | .data => False
  | _ => True

theorem plainRead_data (who : Option (Nat × Nat)) (seq key len : Nat) (s : State) :
    { ((plainRead who seq key len).run s).mem with writeBack := s.mem.writeBack } = s.mem := by
  have h : (plainRead who seq key len).Within Place.offData :=
    plainRead_within ⟨⟨trivial, fun _ => trivial, fun _ => trivial⟩, trivial, trivial, trivial, fun _ => trivial⟩
  exact h .data id s

theorem scrub_state (hf : f < s.fields.length) (l : List Upset) (row : Nat) {t : State}
    (ht : ((plainRead none 0 (memKey 1 (resOffset f b row)) 64).run (s.memUpset (bankUpsets f b l))).modField f (Field.scrubbed b) = t) :
    { t.mem with writeBack := s.mem.writeBack } = s.mem.upset (bankUpsets f b l) ∧
      (t.field f).scrubRow b = ((s.field f).scrubRow b + 1) % 32768 := by
  have hdata := plainRead_data none 0 (memKey 1 (resOffset f b row)) 64 (s.memUpset (bankUpsets f b l))
  have hrow := plainRead_scrubRow (f := f) (b := b) (who := none) (seq := 0) (key := memKey 1 (resOffset f b row)) (len := 64)
    (s.memUpset (bankUpsets f b l))
  obtain ⟨-, hlen, -, -, -⟩ := (plainRead none 0 (memKey 1 (resOffset f b row)) 64).run_lengths (s.memUpset (bankUpsets f b l))
  obtain ⟨u, hu⟩ : ∃ u, (plainRead none 0 (memKey 1 (resOffset f b row)) 64).run (s.memUpset (bankUpsets f b l)) = u := ⟨_, rfl⟩
  rw [hu] at hdata hrow hlen ht
  subst ht
  refine ⟨?_, ?_⟩
  · rw [show (s.memUpset (bankUpsets f b l)).mem = s.mem.upset (bankUpsets f b l) from rfl, upset_writeBack] at hdata
    exact hdata
  · rw [State.field_modField _ _ _ (hlen ▸ hf)]
    simp only [Field.scrubRow, Field.scrubbed, tableGet_put_self]
    exact congrArg (fun n => (n + 1) % 32768) hrow

/-- A scrub that meets no error moves on by one row. -/
theorem scrub_clean {row : Nat} (h : s.mem.errorWords (memKey 1 (resOffset f b row)) 64 = []) :
    ((plainRead none 0 (memKey 1 (resOffset f b row)) 64).run (s.memUpset (bankUpsets f b []))).modField f (Field.scrubbed b)
      = s.modField f (Field.scrubbed b) := by
  rw [show s.memUpset (bankUpsets f b []) = s from rfl, plainRead_clean h]

/-- An upset of a refresh, at its granule of the memory. -/
def refreshUpset (k : Nat) (u : Upset) : Nat × BitVec 72 := (memKey 0 (k * 2 ^ 36) / 8 + u.granule, u.flips)

/-- A stack with more corrections. -/
def Stack.reported (n : Nat) (x : Stack) : Stack := { x with corrected := satAdd 65535 x.corrected n }

theorem hbmRefresh_next {k n : Nat} {l : List Upset} (hk : k < Grade.hbmStacks s.grade) : exec (.hbmRefresh ⟨k, n, l⟩) s = .next
    (State.modStack k (Stack.reported n) (State.memUpset (l.map (refreshUpset k)) ((Fx.each (s.waitingWords k) Fx.memScrub).run s))) := by
  change execHbmRefresh ⟨k, n, l⟩ s = _
  rw [execHbmRefresh, Fx.outcome_eq, Fx.run_when, if_pos (by simp [hk]), Fx.run_all_cons, Fx.run_all_cons, Fx.run_memUpset, Fx.run_all_cons,
    Fx.run_stack, Fx.run_all_nil]
  rfl

end

/-! ## The end of a retirement -/

/-- A stack without its error counts. -/
def Stack.uncounted (x : Stack) : Stack := { x with corrected := 0, uncorrected := 0, pcUncorrected := [] }

/-- What reads of stack k leave: not memory, event sources, rings, what has left the module, and the stack's error counts. -/
def State.unread (k : Nat) (s : State) : State :=
  { s.modStack k Stack.uncounted with mem := Mem.reset, evc := [], out := [], rings := [] }

/-- A memory error's event counts in no field. -/
theorem raise_unread {k src cls code : Nat} {who : Option (Nat × Nat)} {p0 p1 p2 : Nat} (h : code = 0x0A03 ∨ code = 0x0602) :
    (raise src cls code who p0 p1 p2).Fixes (State.unread k) := by
  unfold raise
  refine .look fun _ => .when (.andThen (.andThen (.andThen (fun _ => rfl) (.when fun _ => rfl)) (.when fun s => ?_)) (.look fun _ _ => rfl))
  have hid : (s.modField (src / 56) fun f => f).unread k = s.unread k := by
    rw [State.modField, show s.fields.modify (src / 56) (fun f => f) = s.fields from List.modify_id ..]
  rcases h with rfl | rfl <;> exact hid

/-- A count of the stack's errors. -/
theorem countStack_unread {k : Nat} {g : Stack → Stack} (h : ∀ x, (g x).uncounted = x.uncounted) :
    (Fx.stack k g).Fixes (State.unread k) := fun s => by
  rw [Fx.run_stack]
  simp only [State.unread, State.modStack, List.modify_modify_eq]
  rw [show Stack.uncounted ∘ g = Stack.uncounted from funext h]

section
variable {k w : Nat} (hspace : 64 * w / 2 ^ 44 = 0) (hk : 64 * w % 2 ^ 44 / 2 ^ 36 = k)
include hspace hk

theorem touchWord_unread : (touchWord w).Fixes (State.unread k) := by
  refine .look fun s => ?_
  dsimp only
  rw [hspace, hk]
  refine .ite (.andThen (withInBand_fixes (countStack_unread fun _ => rfl) fun _ _ => rfl) (.when (raise_unread (.inr rfl))))
    (.when (.andThen (fun _ => rfl) (countStack_unread fun _ => rfl)))

/-- A read of one word of the stack counts errors of the stack. -/
theorem plainRead_unread {who : Option (Nat × Nat)} {seq : Nat} : (plainRead who seq (64 * w) 64).Fixes (State.unread k) := by
  refine .andThen (.look fun _ => .each fun _ => raise_unread (.inl rfl)) (.look fun s => ?_)
  have hword : ∀ v ∈ s.mem.errorWords (64 * w) 64, v = w := fun v hv => by
    have := (List.mem_filter.mp hv).2
    simp only [Bool.and_eq_true, decide_eq_true_eq] at this
    omega
  generalize s.mem.errorWords (64 * w) 64 = l at hword
  induction l with
  | nil => exact .nil
  | cons v l ih =>
    rw [hword v List.mem_cons_self] at *
    exact .andThen (touchWord_unread hspace hk) (ih fun x hx => hword x (List.mem_cons_of_mem _ hx))

end

/-- The smallest working set outlasts a change that takes no part of it (R500). -/
theorem workingSet_mono {s t : State} (hgrade : t.grade = s.grade) (hhub : t.hub.frame = s.hub.frame) (hport : t.port.frame = s.port.frame)
    (hlink : ∀ i, (t.link i).frame = (s.link i).frame) (hfield : ∀ f, t.field f = s.field f)
    (hstack : ∀ k, (s.stack k).state = 0 → (t.stack k).state = 0) (hpower : t.power = s.power) (h : s.workingSet = true) :
    t.workingSet = true := by
  have hcores : t.hub.cores = s.hub.cores := (congrArg Hub.cores hhub :)
  have hrelay : t.hub.relayOn = s.hub.relayOn := (congrArg Hub.relayOn hhub :)
  have hnode : t.hub.node = s.hub.node := (congrArg Hub.node hhub :)
  have hup : t.port.up = s.port.up := (congrArg Port.up hport :)
  have hlinks : t.upLinks = s.upLinks := by
    simp only [State.upLinks, State.linkIds, hgrade, Link.state_of_frame (hlink _)]
  simp only [State.workingSet, hgrade, hcores, hrelay, hnode, hup, hlinks, hfield, hpower, Bool.and_eq_true, List.any_eq_true,
    Bool.or_eq_true, decide_eq_true_eq] at h ⊢
  obtain ⟨⟨⟨hset, f, hf, hgood, hmem⟩, hserving⟩, hflow⟩ := h
  exact ⟨⟨⟨hset, f, hf, hgood, hmem.imp (hstack _) (hstack _)⟩, hserving⟩, hflow⟩

/-- A module that has its smallest working set, or does not serve, tears nothing down (R500). -/
theorem checkSet_served {s : State} (h : s.hub.served = true → s.workingSet = true) :
    { checkSet.run s with hub := s.hub, power := s.power } = s := by
  rw [checkSet, Fx.run_look]
  split
  · rfl
  split
  · rw [Fx.run_andThen, Fx.run_hub, dropMin, Fx.run_look, Fx.run_when]
    split <;> rfl
  · rename_i hset
    rw [Fx.run_when, if_neg fun hs => hset (h hs)]

/-- The words of a stack that a retirement reads. -/
theorem errorWords_stack {m : Mem} {k w : Nat} (hk : k < 16) (h : w ∈ m.errorWords (memKey 0 (k * 2 ^ 36)) (2 ^ 36)) :
    64 * w / 2 ^ 44 = 0 ∧ 64 * w % 2 ^ 44 / 2 ^ 36 = k := by
  obtain ⟨hlo, hhi⟩ := (Bool.and_eq_true _ _).mp (List.mem_filter.mp h).2
  have hlo := of_decide_eq_true hlo
  have hhi := of_decide_eq_true hhi
  rw [memKey] at hlo hhi
  omega

/-- The end of a retirement on the state: the stack's entry, once its words have been read. -/
def Stack.retired (pc : BitVec 6) (k : Stack) : Stack :=
  { k with retiring := none, state := 0
           retiredA := if k.retiredA.isNone then some pc else k.retiredA
           retiredB := if k.retiredA.isNone then k.retiredB else some pc }

/-- What the retirement of a stack reads and rewrites. -/
def retireReads (moved : List Nat) (s : State) : Fx := Fx.all [
  Fx.each moved (fun w => plainRead none 0 (64 * w) 64),
  Fx.each (moved.filter s.mem.wordDouble) (fun w => Fx.memPoison (w / 4 * 32) (w / 4 * 32 + 32)),
  Fx.each (moved.filter (fun w => !s.mem.wordDouble w)) Fx.memScrub]

/-- The commands that wait for a retirement of the stack. -/
def WaitKind.retires (k : Nat) : WaitKind → Bool
  | .hbmRetire n => n == k
  | _ => false

theorem Fx.Fixes.each_mem {α β : Type} {v : State → α} {l : List β} {f : β → Fx} (h : ∀ x ∈ l, (f x).Fixes v) : (Fx.each l f).Fixes v := by
  induction l with
  | nil => exact .nil
  | cons x l ih => exact (h x List.mem_cons_self).andThen (ih fun y hy => h y (List.mem_cons_of_mem _ hy))

theorem retireReads_unread {k : Nat} (hk : k < 16) {m : Mem} {c : Nat → Bool} {s : State} :
    (retireReads ((m.errorWords (memKey 0 (k * 2 ^ 36)) (2 ^ 36)).filter c) s).Fixes (State.unread k) :=
  .cons (.each_mem fun w hw => by
    obtain ⟨hspace, hstack⟩ := errorWords_stack hk (List.mem_filter.mp hw).1
    exact plainRead_unread hspace hstack) (.cons (.each fun _ _ => rfl) (.cons (.each fun _ _ => rfl) .nil))

section
variable {s : State} {k : Nat} {pc : BitVec 6}

theorem hbmRetireDone_next (hpc : (s.stack k).retiring = some pc) (hstate : (s.stack k).state = 1) : ∃ c,
    exec (.hbmRetireDone k) s = .next (s.announced (checkSet.run ((finishWaits (WaitKind.retires k) stOk []).run
      (((retireReads ((s.mem.errorWords (memKey 0 (k * 2 ^ 36)) (2 ^ 36)).filter c) s).run s).modStack k (Stack.retired pc))))) := by
  refine ⟨fun w => s.pcOf (64 * w) == pc.toNat, ?_⟩
  change execHbmRetireDone k s = _
  rw [execHbmRetireDone, hpc, hstate]
  simp only [Option.filter_some, decide_true, if_true]
  rw [Fx.outcome_eq, withInBand_run, Fx.run_all_cons, Fx.run_all_cons, Fx.run_all_cons, Fx.run_all_cons, Fx.run_all_cons, Fx.run_all_cons,
    Fx.run_all_nil, retireReads, Fx.run_all_cons, Fx.run_all_cons, Fx.run_all_cons, Fx.run_all_nil]
  rfl

theorem finishWaits_answered (c : WaitKind → Bool) (status : Nat) (r : List Byte) : (finishWaits c status r).Within Place.answered :=
  finishWaits_within answered_answers

/-- A stack that comes back on line, and the answers to its commands. -/
theorem retired_set {u : State} (hk : k < u.hbmStacks.length) (h : u.hub.served = true → u.workingSet = true) {t : State}
    (ht : (finishWaits (WaitKind.retires k) stOk []).run (u.modStack k (Stack.retired pc)) = t) :
    (t.hub.served = true → t.workingSet = true) ∧ t.ctxs = u.ctxs ∧ t.fields = u.fields ∧ t.stack k = Stack.retired pc (u.stack k) ∧
      (∀ j, j ≠ k → t.stack j = u.stack j) ∧ ∀ w ∈ t.port.waits, w.kind ≠ .hbmRetire k := by
  have hw := finishWaits_answered (WaitKind.retires k) stOk []
  have hend := finishWaits_ended (WaitKind.retires k) stOk [] (u.modStack k (Stack.retired pc))
  have hgrade := (finishWaits (WaitKind.retires k) stOk []).run_grade (u.modStack k (Stack.retired pc))
  have hhub := hw.hubFrame_eq (u.modStack k (Stack.retired pc)) id
  have hport := hw.portFrame_eq (u.modStack k (Stack.retired pc)) id
  have hpower := hw.power_eq (u.modStack k (Stack.retired pc)) id
  have hctxs := hw.ctxs_eq (fun _ => id) (u.modStack k (Stack.retired pc))
  have hfields := hw.fields_eq (fun _ => id) (u.modStack k (Stack.retired pc))
  have hlink := fun i => hw.linkFrame_eq (u.modStack k (Stack.retired pc)) (i := i) id
  have hfield := fun f => hw.field_eq (u.modStack k (Stack.retired pc)) (i := f) id
  have hstack := fun j => hw.stack_eq (u.modStack k (Stack.retired pc)) (i := j) id
  rw [ht] at hend hgrade hhub hport hpower hctxs hfields
  simp only [ht] at hlink hfield hstack
  have hself : t.stack k = Stack.retired pc (u.stack k) := (hstack k).trans (State.stack_modStack _ _ _ hk)
  have hother (j : Nat) (hj : j ≠ k) : t.stack j = u.stack j := (hstack j).trans (State.stack_modStack_ne _ _ _ _ hj.symm)
  refine ⟨fun hs => ?_, hctxs, hfields, hself, hother, fun w hwait e => ?_⟩
  · refine workingSet_mono (s := u) hgrade hhub hport hlink hfield (fun j hj => ?_) hpower (h ((congrArg Hub.served hhub :).symm.trans hs))
    by_cases hjk : j = k
    · rw [hjk, hself]
      rfl
    · rw [hother j hjk, hj]
  · have := hend w hwait
    rw [e] at this
    simp [WaitKind.retires] at this

theorem State.stack_unread_self (hk : k < s.hbmStacks.length) : (s.unread k).stack k = (s.stack k).uncounted := s.stack_modStack k _ hk

theorem State.stack_unread_ne {j : Nat} (hj : j ≠ k) : (s.unread k).stack j = s.stack j := s.stack_modStack_ne k j _ hj.symm

/-- What reads of a stack leave of the smallest working set. -/
theorem workingSet_unread {u : State} (hk : k < s.hbmStacks.length) (hlen : u.hbmStacks.length = s.hbmStacks.length)
    (h : u.unread k = s.unread k) (hset : s.workingSet = true) : u.workingSet = true := by
  refine workingSet_mono (s := s) (congrArg State.grade h :) (congrArg (fun t : State => t.hub.frame) h :)
    (congrArg (fun t : State => t.port.frame) h :) (fun i => (congrArg (fun t : State => (t.link i).frame) h :))
    (fun f => (congrArg (fun t : State => t.field f) h :)) (fun j hj => ?_) (congrArg State.power h :) hset
  by_cases hjk : j = k
  · have e := congrArg (fun t : State => (t.stack k).state) h
    simp only [State.stack_unread_self hk, State.stack_unread_self (hlen ▸ hk)] at e
    rw [hjk] at hj ⊢
    exact (e :).trans hj
  · have e := congrArg (fun t : State => t.stack j) h
    simp only [State.stack_unread_ne hjk] at e
    rw [e, hj]

/-- The end of a retirement, clause by clause. -/
theorem hbmRetireDone_state (hlen : s.hbmStacks.length = 16) (hk : k < 16) (hpc : (s.stack k).retiring = some pc)
    (hstate : (s.stack k).state = 1) (hset : s.hub.served = true → s.workingSet = true) : ∃ t x, exec (.hbmRetireDone k) s = .next t ∧
      x.uncounted = (s.stack k).uncounted ∧ t.stack k = Stack.retired pc x ∧ (∀ w ∈ t.port.waits, w.kind ≠ .hbmRetire k) ∧
      t.ctxs = s.ctxs ∧ t.fields = s.fields ∧ ∀ j, j ≠ k → t.stack j = s.stack j := by
  obtain ⟨c, hnext⟩ := hbmRetireDone_next hpc hstate
  have hread := retireReads_unread hk (m := s.mem) (c := c) (s := s) s
  obtain ⟨-, -, hulen, -, -⟩ := (retireReads ((s.mem.errorWords (memKey 0 (k * 2 ^ 36)) (2 ^ 36)).filter c) s).run_lengths s
  obtain ⟨u, hu⟩ : ∃ u, (retireReads ((s.mem.errorWords (memKey 0 (k * 2 ^ 36)) (2 ^ 36)).filter c) s).run s = u := ⟨_, rfl⟩
  rw [hu] at hread hnext hulen
  obtain ⟨t, ht⟩ : ∃ t, (finishWaits (WaitKind.retires k) stOk []).run (u.modStack k (Stack.retired pc)) = t := ⟨_, rfl⟩
  rw [ht] at hnext
  have hks : k < s.hbmStacks.length := hlen ▸ hk
  obtain ⟨hserve, hctxs, hfields, hself, hother, hwaits⟩ := retired_set (pc := pc) (hulen.symm ▸ hks) (fun hs =>
    workingSet_unread hks hulen hread (hset ((congrArg (fun t : State => t.hub.served) hread :).symm.trans hs))) ht
  have hcheck := checkSet_served hserve
  obtain ⟨v, hv⟩ : ∃ v, checkSet.run t = v := ⟨_, rfl⟩
  rw [hv] at hcheck hnext
  refine ⟨_, u.stack k, hnext, ?_, ?_, ?_, ?_, ?_, fun j hj => ?_⟩
  · have e := congrArg (fun t : State => t.stack k) hread
    simpa only [State.stack_unread_self hks, State.stack_unread_self (hulen.symm ▸ hks)] using e
  · rw [announced_stack, ← hself]
    exact (congrArg (fun t : State => t.stack k) hcheck :)
  · rw [announced_port, show v.port = t.port from (congrArg State.port hcheck :)]
    exact hwaits
  · rw [announced_ctxs, show v.ctxs = t.ctxs from (congrArg State.ctxs hcheck :), hctxs]
    exact (congrArg State.ctxs hread :)
  · rw [announced_fields, show v.fields = t.fields from (congrArg State.fields hcheck :), hfields]
    exact (congrArg State.fields hread :)
  · rw [announced_stack, show v.stack j = t.stack j from (congrArg (fun t : State => t.stack j) hcheck :), hother j hj]
    have e := congrArg (fun t : State => t.stack j) hread
    simpa only [State.stack_unread_ne hj] using e

/-! ## A stack that fails -/

theorem hbmStacks_le (g : Grade) : Grade.hbmStacks g ≤ 16 := by cases g <;> decide

/-- A failed stack. -/
def Stack.broken (x : Stack) : Stack := { x with state := if x.state = 3 then 3 else 2, failed := true, retiring := none }

theorem hbmStackFailed_state (hlen : k < s.hbmStacks.length) (hk : k < Grade.hbmStacks s.grade) : ∃ t, exec (.hbmStackFailed k) s = .next t ∧
    t.stack k = Stack.broken (s.stack k) ∧ (s.noCopyRuns = true → t.mem = s.mem) ∧ ∀ j, j ≠ k → t.stack j = s.stack j := by
  have hrest : ((finishWaits (WaitKind.retires k) stNoResource []).andThen checkSet).Within Place.checked :=
    .andThen ((finishWaits_answered _ _ _).mono fun p hp => .inl (by cases p <;> trivial)) checkSet_checked
  have hstack := fun j => hrest.stack_eq (s.modStack k Stack.broken) (i := j) (by simp [Place.checked, Place.aborted, Place.raised])
  refine ⟨((finishWaits (WaitKind.retires k) stNoResource []).andThen checkSet).run (s.modStack k Stack.broken), ?_,
    (hstack k).trans (State.stack_modStack _ _ _ hlen), fun hq => ?_, fun j hj => (hstack j).trans (State.stack_modStack_ne _ _ _ _ hj.symm)⟩
  · change execHbmStackFailed k s = _
    rw [execHbmStackFailed, Fx.outcome_eq, Fx.run_when, if_pos (by simp [hk]), Fx.run_all_cons, Fx.run_all_cons, Fx.run_all_cons, Fx.run_all_nil,
      Fx.run_andThen]
    rfl
  · exact (hrest.mem_quiet (by simp [Place.checked, Place.aborted, Place.raised]) (s := s.modStack k Stack.broken) hq).trans rfl

end

/-- Settles O21: a write-back cleans granule by granule and changes no byte, a scrub and a refresh only count beside it, and a retirement's
reads count errors of their own stack alone. -/
theorem memoryUpkeep : Obligations.MemoryUpkeep := by
  unfold Obligations.MemoryUpkeep
  refine ⟨fun s _ => ⟨fun f b r hon htarget hw => ⟨_, eccWriteback_next hon htarget hw, memScrub_byte _ s, ?_, fun hok g hg =>
      scrubWord_ecc hok hg, rfl⟩, fun f b l hf hon htarget => ⟨fun hclean => ⟨_, scrub_next hon htarget [], ?_, ?_⟩, ?_⟩,
      fun k n l hk hlen => ⟨_, hbmRefresh_next hk, ?_⟩⟩, fun s k ⟨_, _, _, hlen, _, _⟩ hk => ⟨fun pc hpc hstate hset => ?_, ?_⟩⟩
  · exact memScrub_gone _ s
  · rw [scrub_clean (row := (s.field f).scrubRow b) hclean]
    rfl
  · rw [scrub_clean (row := (s.field f).scrubRow b) hclean]
    rfl
  · exact ⟨_, scrub_next hon htarget l, scrub_state hf l _ rfl⟩
  · obtain ⟨hbyte, hgone, hframe⟩ := each_memScrub (s.waitingWords k) s
    have hstack : (State.modStack k (Stack.reported n) (State.memUpset (l.map (refreshUpset k))
        ((Fx.each (s.waitingWords k) Fx.memScrub).run s))).stack k = Stack.reported n (s.stack k) := by
      rw [State.stack_modStack _ _ _ ((congrArg (fun t : State => t.hbmStacks.length) hframe : _ = s.hbmStacks.length) ▸ hlen)]
      exact congrArg (Stack.reported n) (congrArg (fun t : State => t.stack k) hframe :)
    refine ⟨fun hl a => ?_, ?_, fun w hw hin => hgone w hw ?_, ?_⟩
    · subst hl
      exact hbyte a
    · rw [hstack]
      rfl
    · exact upset_writeBack _ _ ▸ hin
    · exact (congrArg (fun t : State => { t with hbmStacks := s.hbmStacks }) hframe :)
  · obtain ⟨t, x, ht, hx, hself, hwaits, hctxs, hfields, hother⟩ := hbmRetireDone_state hlen (hk.trans_le (hbmStacks_le _)) hpc hstate hset
    have hA : x.retiredA = (s.stack k).retiredA := (congrArg Stack.retiredA hx :)
    have hB : x.retiredB = (s.stack k).retiredB := (congrArg Stack.retiredB hx :)
    refine ⟨t, ht, ?_, ?_, fun hnone => ?_, fun hsome => ?_, hwaits, hctxs, hfields, hother⟩ <;> rw [hself]
    · rfl
    · rfl
    · simp [Stack.retired, hA, hB, hnone]
    · simp [Stack.retired, hA, hsome]
  · obtain ⟨t, ht, hself, hmem, hother⟩ := hbmStackFailed_state (hlen ▸ hk.trans_le (hbmStacks_le _)) hk
    refine ⟨t, ht, ?_, ?_, ?_, hmem, hother⟩ <;> rw [hself]
    · rfl
    · by_cases h3 : (s.stack k).state = 3 <;> simp [Stack.broken, Stack.afterReset, h3]
    · rfl

end Sys2Proof.Machine

/-! What the end of an operation leaves of the contexts, the memory and the counter (R260, R261, R517, R526). -/
namespace Sys2Proof.Machine
set_option Elab.async false -- the side conditions of the frames below are elaborated in place, not each in a thread of its own

/-! ## Contexts -/

/-- The status with which an operation ends: one that ran degraded says so (R486). -/
def Op.endStatus (o : Op) (status : Nat) : Nat := if status = stOk && o.degraded then stDegraded else status

/-- A context whose operation has ended with a status: after a failing one it stops, and poison sets its flag (R261, R254, R517). -/
def Ctx.ended (o : Op) (st : Nat) (x : Ctx) : Ctx :=
  { x with
    ops := x.ops.filter (fun p => p.seq != o.seq)
    flags := if st = stPoisoned then x.flags ||| 8#7 else x.flags
    state := if goodStatus st = false ∧ x.state = .active then .stopped else x.state
    stopStatus := if goodStatus st = false ∧ x.state = .active then BitVec.ofNat 16 st else x.stopStatus }

/-- What a context keeps as its operation ends. -/
theorem Ctx.ended_runs (o : Op) (st : Nat) (x : Ctx) : (x.ended o st).Runs ↔ x.Runs := by
  simp only [Ctx.ended, Ctx.Runs]
  split_ifs with h
  · simp [h.2]
  · rfl

theorem Ctx.ended_good {o : Op} {st : Nat} (h : goodStatus st = true) (x : Ctx) :
    x.ended o st = { x with ops := x.ops.filter (fun p => p.seq != o.seq) } := by
  have hp : st ≠ stPoisoned := by
    rintro rfl
    cases h
  simp [Ctx.ended, h, hp]

theorem Ctx.tornIf_congr {now cause : Nat} {p q : Prop} [Decidable p] [Decidable q] (h : p ↔ q) {x : Ctx} :
    x.tornIf now cause p = x.tornIf now cause q := by simp only [Ctx.tornIf, h]

/-- An effect that changes one context alone, by a function, and lets no time pass. -/
def Fx.OnCtx (c : Nat) (f : Ctx → Ctx) (a : Fx) : Prop :=
  ∀ s : State, c < s.ctxs.length → (∀ d, (a.run s).ctx d = if d = c then f (s.ctx d) else s.ctx d) ∧ (a.run s).now = s.now

section
variable {c : Nat} {f g : Ctx → Ctx} {a b : Fx}

theorem Fx.OnCtx.ctx : (Fx.ctx c f).OnCtx c f := fun s hc => by
  rw [Fx.run_ctx]
  refine ⟨fun d => ?_, rfl⟩
  split
  · next h =>
    rw [h, State.ctx_modCtx _ _ _ hc]
  · next h =>
    rw [State.ctx_modCtx_ne _ _ _ _ (Ne.symm h)]

theorem Fx.Within.onCtx (h : a.Within Place.offCtx) : a.OnCtx c id := fun s _ =>
  ⟨fun d => by simpa using run_ctx_offCtx h s d, run_now_offCtx h s⟩

theorem Fx.OnCtx.andThen (ha : a.OnCtx c f) (hb : b.OnCtx c g) : (a.andThen b).OnCtx c (g ∘ f) := fun s hc => by
  obtain ⟨hctx, hnow⟩ := ha s hc
  obtain ⟨hctx', hnow'⟩ := hb (a.run s) ((a.run_lengths s).1 ▸ hc)
  rw [Fx.run_andThen]
  refine ⟨fun d => ?_, hnow'.trans hnow⟩
  rw [hctx', hctx]
  split <;> rfl

theorem Fx.OnCtx.nil : (Fx.all []).OnCtx c id := (Fx.Within.nil (F := Place.offCtx)).onCtx

theorem Fx.OnCtx.cons {l : List Fx} (ha : a.OnCtx c f) (hl : (Fx.all l).OnCtx c g) : (Fx.all (a :: l)).OnCtx c (g ∘ f) := ha.andThen hl

theorem Fx.OnCtx.when {p : Bool} (h : a.OnCtx c f) : (Fx.when p a).OnCtx c (if p then f else id) := by
  cases p
  · exact (Fx.Within.skip (F := Place.offCtx)).onCtx
  · exact h

end

/-- An operation ends: its context alone changes, unless poison aborts the job (R261, R526). -/
theorem endOp_ctx {c : Nat} {s : State} (hc : c < s.ctxs.length) (o : Op) (status : Nat) :
    (∀ d, ((endOp c o status).run s).ctx d = (if d = c then (s.ctx c).ended o (o.endStatus status) else s.ctx d).tornIf s.now stPoisoned
      (o.endStatus status = stPoisoned ∧ (s.ctx c).job.toNat ≠ 0 ∧ d < 16 ∧ (s.ctx d).job = (s.ctx c).job)) ∧
      ((endOp c o status).run s).now = s.now := by
  have hlast (p : Fx) (f : Ctx → Ctx) (hp : p.OnCtx c f) (hf : f (s.ctx c) = (s.ctx c).ended o (o.endStatus status)) :
      (∀ d, ((Fx.when (decide (o.endStatus status = stPoisoned)) (abortJob (s.ctx c).job.toNat stPoisoned)).run (p.run s)).ctx d =
        (if d = c then (s.ctx c).ended o (o.endStatus status) else s.ctx d).tornIf s.now stPoisoned
          (o.endStatus status = stPoisoned ∧ (s.ctx c).job.toNat ≠ 0 ∧ d < 16 ∧ (s.ctx d).job = (s.ctx c).job)) ∧
      ((Fx.when (decide (o.endStatus status = stPoisoned)) (abortJob (s.ctx c).job.toNat stPoisoned)).run (p.run s)).now = s.now := by
    obtain ⟨hctx, hnow⟩ := hp s hc
    have hthen (d : Nat) : (p.run s).ctx d = if d = c then (s.ctx c).ended o (o.endStatus status) else s.ctx d := by
      rw [hctx]
      split
      · next h => rw [h, hf]
      · rfl
    have hjob (d : Nat) : ((p.run s).ctx d).job = (s.ctx d).job := by
      rw [hthen]
      split
      · next h => rw [h]; rfl
      · rfl
    rw [Fx.run_when]
    split
    · next h =>
      obtain ⟨habort, hnow'⟩ := abortJob_ctx (s.ctx c).job.toNat stPoisoned (p.run s)
      refine ⟨fun d => ?_, hnow'.trans hnow⟩
      rw [habort, hnow, Ctx.tornIf_congr (by rw [hjob, BitVec.toNat_inj]), hthen]
      exact Ctx.tornIf_congr (iff_and_self.mpr fun _ => of_decide_eq_true h) |>.trans rfl
    · next h =>
      refine ⟨fun d => ?_, hnow⟩
      rw [hthen, Ctx.tornIf_neg fun k => h (decide_eq_true k.1)]
  rw [endOp, Fx.run_look]
  dsimp only
  rw [show ∀ a b c d e f g h i : Fx, [a, b, c, d, e, f, g, h, i] = [a, b, c, d, e, f, g, h] ++ [i] from fun _ _ _ _ _ _ _ _ _ => rfl,
    run_all_concat]
  refine hlast _ _ (.cons .ctx (.cons (Fx.Within.onCtx (releaseFields_within (fun _ => trivial) fun _ => trivial)) (.cons (Fx.Within.onCtx
    (progress_within trivial)) (.cons (Fx.Within.onCtx (.when (dropRows_within (fun _ => trivial) fun _ => trivial))) (.cons (Fx.Within.onCtx
    (.when (freeEntries_within (fun _ => trivial) (fun _ => trivial) fun _ => trivial))) (.cons (.when (.andThen .ctx (Fx.Within.onCtx
    (.each fun _ => .field trivial)))) (.cons (Fx.Within.onCtx (.when (raise_within trivial trivial fun _ => trivial))) (.cons (.when .ctx)
    .nil)))))))) ?_
  change _ = (s.ctx c).ended o (if status = stOk && o.degraded then stDegraded else status)
  generalize (if status = stOk && o.degraded then stDegraded else status) = st
  by_cases hg : goodStatus st = true
  · have hp : st ≠ stPoisoned := by
      rintro rfl
      cases hg
    simp [Ctx.ended, hg, hp]
  · rcases eq_or_ne st stPoisoned with rfl | hp
    · by_cases hs : (s.ctx c).state = .active <;> simp [Ctx.ended, hg, hs]
    · by_cases hs : (s.ctx c).state = .active <;> simp [Ctx.ended, hp, hg, hs]

/-! ## An end that aborts no job -/

/-- What the end of an operation touches, where it aborts no job and leaves no entry of a sluice. -/
def Place.ends (c : Nat) : Place → Prop
  | .ctx d => d = c
  | .field _ | .fieldWork _ | .evc | .ring _ | .runs => True
  | _ => False

/-- The end of an operation without poison in a job, and without a failing collective, touches its context and what counts. -/
theorem endOp_alone {c : Nat} {o : Op} {status : Nat} {s : State} (hquiet : o.endStatus status ≠ stPoisoned ∨ (s.ctx c).job = 0#16)
    (hcoll : goodStatus (o.endStatus status) = true ∨ o.coll = none) :
    ∃ b : Fx, b.Within (Place.ends c) ∧ (endOp c o status).run s = b.run s := by
  have hlast (p : Fx) (hp : p.Within (Place.ends c)) : ∃ b : Fx, b.Within (Place.ends c) ∧
      (Fx.when (decide (o.endStatus status = stPoisoned)) (abortJob (s.ctx c).job.toNat stPoisoned)).run (p.run s) = b.run s := by
    refine ⟨p, hp, ?_⟩
    rw [Fx.run_when]
    split
    · next h =>
      rw [hquiet.resolve_left fun k => k (of_decide_eq_true h)]
      rfl
    · rfl
  rw [endOp, Fx.run_look]
  dsimp only
  rw [show ∀ a b c d e f g h i : Fx, [a, b, c, d, e, f, g, h, i] = [a, b, c, d, e, f, g, h] ++ [i] from fun _ _ _ _ _ _ _ _ _ => rfl,
    run_all_concat]
  refine hlast _ (.cons (.ctx rfl (hq := .inr fun _ h => h.filter)) (.cons (releaseFields_within (fun _ => trivial) fun _ => trivial) (.cons
    (progress_within trivial) (.cons (.when (dropRows_within (fun _ => trivial) fun _ => trivial)) (.cons ?_ (.cons (.when (.andThen
    (setFlags_within rfl) (.each fun _ => .field trivial))) (.cons (.when (raise_within trivial trivial fun _ => trivial)) (.cons (.when (.ctx
    rfl (hr := .inl trivial))) .nil))))))))
  have hskip : (!goodStatus (o.endStatus status) && o.coll.isSome) = false := by
    rcases hcoll with h | h <;> simp [h]
  rw [show (!goodStatus (if status = stOk && o.degraded then stDegraded else status) && o.coll.isSome) = false from hskip]
  exact .skip

/-! ## The end of a collective whose rule aborts its job -/

/-- An operation that is over is no operation of its context. -/
theorem Ctx.ended_op? (o : Op) (st : Nat) (x : Ctx) : (x.ended o st).ops.find? (fun p => p.seq == o.seq) = none := by
  simp [Ctx.ended]

/-- Not poison: the context alone changes. -/
theorem endOp_ctx_of_ne {c : Nat} {s : State} (hc : c < s.ctxs.length) {o : Op} {status : Nat} (h : o.endStatus status ≠ stPoisoned) (d : Nat) :
    ((endOp c o status).run s).ctx d = if d = c then (s.ctx c).ended o (o.endStatus status) else s.ctx d := by
  rw [(endOp_ctx hc o status).1, Ctx.tornIf_neg fun k => h k.1]

/-- A collective ends with a status other than poison, and its job is aborted (R456, R443). -/
theorem endCollective_ctx {c : Nat} {s : State} (hc : c < s.ctxs.length) {o : Op} {status : Nat} (h : o.endStatus status ≠ stPoisoned)
    (d : Nat) : ((endCollective c o status true).run s).ctx d = (if d = c then (s.ctx c).ended o (o.endStatus status) else s.ctx d).tornIf
      s.now status ((s.ctx c).job.toNat ≠ 0 ∧ d < 16 ∧ (s.ctx d).job = (s.ctx c).job) := by
  obtain ⟨hctx, hnow⟩ := endOp_ctx hc o status
  rw [endCollective, Fx.run_look]
  dsimp only
  rw [Fx.run_andThen, Fx.run_when, if_pos rfl, (abortJob_ctx _ _ _).1, hnow, endOp_ctx_of_ne hc h]
  refine Ctx.tornIf_congr ?_
  split
  · next hd =>
    rw [hd, BitVec.toNat_inj]
    rfl
  · rw [BitVec.toNat_inj]

end Sys2Proof.Machine

/-! Proofs about blocks that leave a sluice, and the deadline of a collective (R446, R456). -/
namespace Sys2Proof.Machine
set_option Elab.async false -- the side conditions of the frames below are elaborated in place, not each in a thread of its own

/-! ## A block begins to leave -/

/-- The reserve that lends a block its credits does not change its units. -/
theorem RedBlock.units_reserve (b : RedBlock) (lent : Bool) : ({ b with reserve := lent } : RedBlock).units = b.units := by
  have hpayload : ({ b with reserve := lent } : RedBlock).payload = b.payload := rfl
  simp [RedBlock.units, RedBlock.parts, RedBlock.header, RedBlock.trailer, hpayload]

/-- A link whose next block begins to leave. -/
def Link.beginning (q : ToSend) (lent : Bool) (packets : List Packet) (l : Link) : Link :=
  { l with sends := l.sends.erase q, reserveFree := l.reserveFree - (if lent then q.block.units else 0)
           leaving := some { send := q, packets := packets } }

section
variable {s : State} {i : Nat} {q : ToSend} {lent : Bool}

theorem blockSend_next (hq : s.nextSend i = some (q, lent)) (hup : (s.link i).carries = true) (hfree : (s.link i).leaving = none) :
    exec (.blockSend i) s = .next ((onVl i 3 (fun x => { x with credits := x.credits - q.block.units })).run (s.modLink i
      (Link.beginning q lent (({ q.block with reserve := lent } : RedBlock).packets s.own (s.senderOf q.block).1 (s.senderOf q.block).2
        q.dst.toNat)))) := by
  change execBlockSend i s = _
  rw [execBlockSend, hq, Fx.outcome_eq]
  dsimp only
  rw [sendBlock, Fx.run_look]
  dsimp only
  rw [Fx.run_when, if_pos (by simp [hup, hfree]), Fx.run_all_cons, Fx.run_all_cons, Fx.run_all_nil, RedBlock.units_reserve, Fx.run_link]
  rfl

theorem blockSend_busy (hq : s.nextSend i = some (q, lent)) (hbusy : (s.link i).leaving ≠ none) : exec (.blockSend i) s = .next s := by
  change execBlockSend i s = _
  rw [execBlockSend, hq, Fx.outcome_eq]
  dsimp only
  rw [sendBlock, Fx.run_look]
  dsimp only
  rw [Fx.run_when, if_neg (by simp [hbusy])]

end

/-- A virtual lane's state of a link changes, and its pool (R410, R411). -/
theorem onVl_link {s : State} {i v : Nat} {f : Vl → Vl} (hi : i < s.links.length) :
    ((onVl i v f).run s).link i = { s.link i with vls := (s.link i).vls.set v (f ((s.link i).vls.getD v (Vl.reset 0))) } ∧
    (∀ j, j ≠ i → ((onVl i v f).run s).link j = s.link j) ∧ ((onVl i v f).run s).mem = s.mem ∧ ((onVl i v f).run s).ctxs = s.ctxs := by
  rw [onVl, Fx.run_look, Fx.run_andThen, Fx.run_link, Fx.run_field]
  exact ⟨State.link_modLink _ _ _ hi, fun j hj => State.link_modLink_ne _ _ _ _ hj.symm, rfl, rfl⟩

/-! ## The collective whose deadline passes first -/

/-- A running collective with a deadline. -/
def Op.limited (o : Op) : Prop :=
  isCollective (recOp o.record) = true ∧ o.phase = .running ∧ o.status = 0#16 ∧ (collOf o.record).deadline ≠ 0

/-- The last cycle that a collective's deadline allows. -/
def Op.limit (o : Op) : Nat := o.startCycle + (collOf o.record).deadline

/-- A choice among collectives: one of them, and none of those with an earlier limit. -/
def Op.Earliest (ops : List Op) (b : Option (Op × Nat)) : Prop :=
  (∀ o d, b = some (o, d) → d = o.limit ∧ (collOf o.record).deadline ≠ 0) ∧ ∀ q ∈ ops, q.limited → ∃ o d, b = some (o, d) ∧ d ≤ q.limit

/-- The choice between the one before and one more. -/
def Op.sooner (b : Option (Op × Nat)) (o : Op) : Option (Op × Nat) :=
  let d := (collOf o.record).deadline
  if isCollective (recOp o.record) && decide (o.phase = .running) && o.status = 0#16 && d ≠ 0
    && b.all (fun q => decide (o.startCycle + d < q.2)) then some (o, o.startCycle + d) else b

theorem dueCollective_eq (x : Ctx) : x.dueCollective = x.ops.foldl Op.sooner none := rfl

theorem Op.Earliest.sooner {k : List Op} {b : Option (Op × Nat)} (h : Op.Earliest k b) (o : Op) : Op.Earliest (k ++ [o]) (Op.sooner b o) := by
  obtain ⟨hone, hleast⟩ := h
  simp only [Op.sooner]
  split
  · next hc =>
    simp only [Bool.and_eq_true, decide_eq_true_eq] at hc
    obtain ⟨⟨⟨⟨hcoll, hrun⟩, hst⟩, hd⟩, hall⟩ := hc
    refine ⟨fun o' d' e => ?_, fun q hq hlim => ⟨_, _, rfl, ?_⟩⟩
    · cases e
      exact ⟨rfl, hd⟩
    · rcases List.mem_append.mp hq with hq | hq
      · obtain ⟨o', d', e, hle⟩ := hleast q hq hlim
        rw [e] at hall
        simp only [Option.all_some, decide_eq_true_eq] at hall
        omega
      · rw [List.mem_singleton.mp hq]
        exact le_rfl
  · next hc =>
    refine ⟨hone, fun q hq hlim => ?_⟩
    rcases List.mem_append.mp hq with hq | hq
    · exact hleast q hq hlim
    · obtain rfl := List.mem_singleton.mp hq
      obtain ⟨hcoll, hrun, hst, hd⟩ := hlim
      cases hb : b with
      | none => simp [hb, hcoll, hrun, hst, hd] at hc
      | some p =>
        rw [Op.limit]
        refine ⟨p.1, p.2, rfl, ?_⟩
        simpa [hb, hcoll, hrun, hst, hd] using hc

theorem Op.Earliest.foldl (l : List Op) {k : List Op} {b : Option (Op × Nat)} (h : Op.Earliest k b) :
    Op.Earliest (k ++ l) (l.foldl Op.sooner b) := by
  induction l generalizing k b with
  | nil => rwa [List.append_nil]
  | cons o l ih =>
    rw [List.foldl_cons, List.append_cons]
    exact ih (h.sooner o)

theorem Op.Earliest.none : Op.Earliest [] none := ⟨fun _ _ e => (nomatch e), fun _ hq => (nomatch hq)⟩

theorem dueCollective_earliest (x : Ctx) : Op.Earliest x.ops x.dueCollective := dueCollective_eq x ▸ Op.Earliest.none.foldl x.ops

/-! ## A deadline passes -/

section
variable {s : State} {c : Nat} {o : Op} {d : Nat}

theorem collectiveTimeout_next (h : (s.ctx c).dueCollective = some (o, d)) : exec (.collectiveTimeout c) s = .next
    ((endCollective c o stTimeout true).run ((Fx.when (s.escalatedWaits (s.ctx c).job) (setFlags c 0x40)).run (s.setNow (d + 1)))) := by
  change execCollectiveTimeout c s = _
  rw [execCollectiveTimeout, h, Fx.outcome_eq]
  dsimp only
  rw [Fx.run_all_cons, Fx.run_all_cons, Fx.run_all_cons, Fx.run_all_nil, Fx.run_setNow]

theorem timeout_ne_poisoned (o : Op) : o.endStatus stTimeout ≠ stPoisoned := by
  rw [Op.endStatus, if_neg (by simp [stTimeout, stOk])]
  decide

/-- The flag of R446 leaves what else a context holds. -/
theorem waitFlag_ctx {u : State} (hc : c < u.ctxs.length) (p : Bool) : ∃ f : Ctx → Ctx,
    (∀ x, (f x).ops = x.ops ∧ (f x).job = x.job ∧ (f x).state = x.state) ∧
    (∀ e, ((Fx.when p (setFlags c 0x40)).run u).ctx e = if e = c then f (u.ctx e) else u.ctx e) ∧
    ((Fx.when p (setFlags c 0x40)).run u).now = u.now := by
  obtain ⟨hctx, hnow⟩ := (Fx.OnCtx.when (p := p) (Fx.OnCtx.ctx (c := c) (f := fun x => { x with flags := x.flags ||| BitVec.ofNat 7 0x40 }))) u hc
  refine ⟨_, fun x => ?_, hctx, hnow⟩
  cases p <;> exact ⟨rfl, rfl, rfl⟩

theorem collectiveTimeout_ctx {u v : State} (hlen : u.ctxs.length = 16) (hc : c < 16) {p : Bool}
    (hv : (endCollective c o stTimeout true).run ((Fx.when p (setFlags c 0x40)).run u) = v) : v.op? c o.seq = none ∧
      ((u.ctx c).job ≠ 0#16 → ∀ e < 16, (u.ctx e).job = (u.ctx c).job → (u.ctx e).Runs → (v.ctx e).state = .teardown) := by
  obtain ⟨f, hf, hctx, hnow⟩ := waitFlag_ctx (hlen.symm ▸ hc) p
  have hlen' := ((Fx.when p (setFlags c 0x40)).run_lengths u).1
  obtain ⟨w, hw⟩ : ∃ w, (Fx.when p (setFlags c 0x40)).run u = w := ⟨_, rfl⟩
  rw [hw] at hctx hnow hlen' hv
  have hsame (e : Nat) : (w.ctx e).job = (u.ctx e).job ∧ ((w.ctx e).Runs ↔ (u.ctx e).Runs) := by
    rw [hctx]
    split
    · exact ⟨(hf _).2.1, by rw [Ctx.Runs, (hf _).2.2, Ctx.Runs]⟩
    · exact ⟨rfl, Iff.rfl⟩
  have hend := endCollective_ctx (hlen'.trans hlen ▸ hc : c < w.ctxs.length) (timeout_ne_poisoned o)
  rw [hv] at hend
  refine ⟨?_, fun hjob e he hsamejob hruns => ?_⟩
  · rw [State.op?, hend, if_pos rfl, Ctx.tornIf]
    split
    · rfl
    · exact Ctx.ended_op? ..
  · rw [hend, Ctx.tornIf_pos]
    · rfl
    · rw [(hsame e).1, (hsame c).1]
      exact ⟨toNat_ne_zero hjob, he, hsamejob⟩
    · split
      · next hec =>
        rw [Ctx.ended_runs, (hsame c).2, ← hec]
        exact hruns
      · exact (hsame e).2.mpr hruns

theorem collectiveTimeout_mem {u : State} {p : Bool} (hq : u.noCopyRuns = true) :
    ((endCollective c o stTimeout true).run ((Fx.when p (setFlags c 0x40)).run u)).mem = u.mem := by
  rw [← Fx.run_andThen]
  refine Fx.Within.mem_eq_offTiles (.andThen (.when (setFlags_within trivial)) ?_) hq
  exact endCollective_within offTiles_aborts offTiles_raises trivial fun _ => trivial

theorem collectiveTimeout_now {u : State} {p : Bool} :
    u.now ≤ ((endCollective c o stTimeout true).run ((Fx.when p (setFlags c 0x40)).run u)).now := by
  rw [← Fx.run_andThen]
  exact (Fx.run_now _ u).1

end

/-- Settles O54: a block gives up its place and its credits as it begins to leave; a collective ends at the first deadline that passes. -/
theorem blocksLeave : Obligations.BlocksLeave := by
  unfold Obligations.BlocksLeave
  refine fun s i => ⟨fun q lent b hi hq hup hvls hb => ⟨fun hfree => ?_, blockSend_busy hq⟩, fun c o d hdue hlen hop => ?_⟩
  · subst hb
    obtain ⟨t, ht⟩ : ∃ t, s.modLink i (Link.beginning q lent (({ q.block with reserve := lent } : RedBlock).packets s.own
      (s.senderOf q.block).1 (s.senderOf q.block).2 q.dst.toNat)) = t := ⟨_, rfl⟩
    have hlink : t.link i = _ := ht ▸ State.link_modLink s i _ hi
    have hlinks : ∀ j, j ≠ i → t.link j = s.link j := fun j hj => ht ▸ State.link_modLink_ne s i j _ hj.symm
    obtain ⟨hself, hother, hmem, hctxs⟩ := onVl_link (s := t) (v := 3) (f := fun x => { x with credits := x.credits - q.block.units })
      (i := i) (by rw [← ht]; simpa [State.modLink] using hi)
    refine ⟨_, ht ▸ blockSend_next hq hup hfree, ?_⟩
    rw [hself, hlink]
    refine ⟨rfl, rfl, ?_, rfl, rfl, hmem.trans (ht ▸ rfl), hctxs.trans (ht ▸ rfl), fun j hj => (hother j hj).trans (hlinks j hj)⟩
    simp [Link.beginning, hvls]
  · obtain ⟨hone, hleast⟩ := dueCollective_earliest (s.ctx c)
    obtain ⟨hd, hdead⟩ := hone o d hdue
    have hc : c < 16 := by
      by_contra hge
      rw [← hlen, Nat.not_lt] at hge
      simp [State.op?, State.ctx, hge, Ctx.reset] at hop
    refine ⟨hd, hdead, fun q hq hcoll hrun hst hdl => ?_, _, collectiveTimeout_next hdue, ?_, ?_⟩
    · obtain ⟨o', d', e, hle⟩ := hleast q hq ⟨hcoll, hrun, hst, hdl⟩
      rw [hdue] at e
      cases e
      exact hle
    · exact Nat.lt_of_lt_of_le (by simp [State.setNow]) collectiveTimeout_now
    · obtain ⟨hnone, htear⟩ := collectiveTimeout_ctx (u := s.setNow (d + 1)) (o := o) hlen hc (p := s.escalatedWaits (s.ctx c).job) rfl
      exact ⟨hnone, fun hq => collectiveTimeout_mem (u := s.setNow (d + 1)) hq, htear⟩

end Sys2Proof.Machine

/-! Facts about the operations of a context, and about effects that only count what they meet. -/
namespace Sys2Proof.Machine
set_option Elab.async false -- the side conditions of the frames below are elaborated in place, not each in a thread of its own

/-! ## Operations of a context -/

/-- A context one of whose operations is changed. -/
def Ctx.withOp (seq : U32) (f : Op → Op) (x : Ctx) : Ctx := { x with ops := x.ops.map (fun o => if o.seq = seq then f o else o) }

/-- The operation of a sequence number. -/
def Ctx.op? (seq : U32) (x : Ctx) : Option Op := x.ops.find? (fun o => o.seq == seq)

theorem State.op?_eq (s : State) (c : Nat) (seq : U32) : s.op? c seq = (s.ctx c).op? seq := rfl

/-- An operation that keeps its sequence number is found changed. -/
theorem Ctx.op?_withOp {seq : U32} {f : Op → Op} (hf : ∀ o, (f o).seq = o.seq) (x : Ctx) : (x.withOp seq f).op? seq = (x.op? seq).map f := by
  simp only [Ctx.op?, Ctx.withOp]
  induction x.ops with
  | nil => rfl
  | cons o l ih =>
    rw [List.map_cons, List.find?_cons, List.find?_cons]
    by_cases h : o.seq = seq
    · simp [h, hf]
    · simp only [if_neg h, beq_eq_false_iff_ne.mpr h]
      exact ih

theorem Ctx.op?_withOp_ne {seq r : U32} {f : Op → Op} (hf : ∀ o, (f o).seq = o.seq) (h : r ≠ seq) (x : Ctx) :
    (x.withOp seq f).op? r = x.op? r := by
  simp only [Ctx.op?, Ctx.withOp]
  induction x.ops with
  | nil => rfl
  | cons o l ih =>
    rw [List.map_cons, List.find?_cons, List.find?_cons, ih]
    by_cases ho : o.seq = seq
    · have hne : (seq == r) = false := beq_eq_false_iff_ne.mpr h.symm
      simp [ho, hf, hne]
    · rw [if_neg ho]

theorem Ctx.op?_seq {seq : U32} {x : Ctx} {o : Op} (h : x.op? seq = some o) : o.seq = seq := by
  simpa using List.find?_some h

theorem Fx.OnCtx.onOp {c : Nat} {seq : U32} {f : Op → Op} : (onOp c seq f).OnCtx c (Ctx.withOp seq f) := .ctx

/-- A context that has an operation is one of the table. -/
theorem lt_of_op? {s : State} {c : Nat} {seq : U32} {o : Op} (h : s.op? c seq = some o) : c < s.ctxs.length := by
  by_contra hc
  simp [State.op?, State.ctx, Nat.not_lt.mp hc, Ctx.reset] at h

section
variable {c : Nat} {f g : Ctx → Ctx} {a b : Fx} {s : State}

/-- What an effect on one context leaves. -/
theorem Fx.OnCtx.self (h : a.OnCtx c f) (hc : c < s.ctxs.length) : (a.run s).ctx c = f (s.ctx c) := ((h s hc).1 c).trans (if_pos rfl)

theorem Fx.OnCtx.ne (h : a.OnCtx c f) (hc : c < s.ctxs.length) {d : Nat} (hd : d ≠ c) : (a.run s).ctx d = s.ctx d :=
  ((h s hc).1 d).trans (if_neg hd)

end

section
variable {c : Nat} {f : Ctx → Ctx} {a b : Fx}

/-- What leaves the contexts before an effect on one. -/
theorem Fx.OnCtx.after (hb : b.OnCtx c f) (ha : a.Within Place.offCtx) : (a.andThen b).OnCtx c f := ha.onCtx.andThen hb

theorem Fx.OnCtx.before (ha : a.OnCtx c f) (hb : b.Within Place.offCtx) : (a.andThen b).OnCtx c f := ha.andThen hb.onCtx

end

/-- A state as an operation sees it has the context's descriptors and entries as they were on issue. -/
theorem State.ctx_asIssued {s : State} {c : Nat} (hc : c < s.ctxs.length) (o : Op) : (s.asIssued c o).ctx c = (s.ctx c).asIssued o :=
  State.ctx_modCtx _ _ _ hc

/-! ## Effects that count what they meet -/

/-- What a read that meets errors touches: it counts, and words wait for a write-back. -/
def Place.touched : Place → Prop
  | .out | .mem | .tiles | .evc | .field _ | .ring _ | .stack _ => True
  | _ => False

theorem touched_touches : Touches Place.touched := ⟨⟨trivial, fun _ => trivial, fun _ => trivial⟩, trivial, trivial, trivial, fun _ => trivial⟩

theorem touchRange_touched (k len : Nat) : (touchRange k len).Within Place.touched := touchRange_within touched_touches

theorem raiseEvs_touched (c : Nat) (seq : U32) (l : List Ev) : (raiseEvs c seq l).Within Place.touched := raiseEvs_within touched_touches.toRaises

theorem Fx.Within.offCtx_of_touched {a : Fx} (h : a.Within Place.touched) : a.Within Place.offCtx := h.mono fun p hp => by
  cases p <;> trivial

/-- An effect that leaves both memories but for the words that wait leaves the stored bytes. -/
theorem Fx.Within.cells_eq {F : Place → Prop} {a : Fx} (h : a.Within F) (s : State) (hF : ¬ F .data) : (a.run s).mem.cells = s.mem.cells :=
  (congrArg Mem.cells (h .data hF s) :)

theorem Field.comparisons_of_work {g h : Field} (e : g.work = h.work) : g.comparisons = h.comparisons := (congrArg Field.comparisons e :)

end Sys2Proof.Machine

/-! Proofs about witness comparisons (R341 to R344, R512). -/
namespace Sys2Proof.Machine
set_option Elab.async false -- the side conditions of the frames below are elaborated in place, not each in a thread of its own

/-- An operation with one comparison less to wait for. -/
def Op.compared (o : Op) : Op := { o with comparisons := o.comparisons - 1 }

/-- An operation that a fault has touched (R512). -/
def Op.touchedByFault (o : Op) : Op :=
  if o.phase = .landing then { o with status := if o.status = 0#16 then BitVec.ofNat 16 stPoisoned else o.status } else { o with poisoned := true }

theorem Op.touchedByFault_same (o : Op) : o.touchedByFault.seq = o.seq ∧ o.touchedByFault.comparisons = o.comparisons := by
  rw [Op.touchedByFault]
  split <;> exact ⟨rfl, rfl⟩

/-- A context with step flags set. -/
def Ctx.withFlags (f : Nat) (x : Ctx) : Ctx := { x with flags := x.flags ||| BitVec.ofNat 7 f }

theorem Fx.OnCtx.poisonOp {c : Nat} {seq : U32} : (poisonOp c seq).OnCtx c (Ctx.withOp seq Op.touchedByFault ∘ Ctx.withFlags 8) :=
  .andThen .ctx .ctx

section
variable {s : State} {f : Nat} {k : Comparison}

theorem endComparison_onCtx : (endComparison f k).OnCtx k.ctx (Ctx.withOp k.seq Op.compared) :=
  Fx.OnCtx.onOp.after (.andThen (.field trivial (hw := .inl trivial)) (progress_within trivial))

theorem endComparison_field (hf : f < s.fields.length) : (((endComparison f k).run s).field f).comparisons = (s.field f).comparisons.erase k := by
  rw [endComparison, Fx.run_andThen, Fx.run_andThen, Fx.run_field, progress, Fx.run_look, Fx.run_field, onOp, Fx.run_ctx]
  change (State.field (State.modField f _ (State.modField f _ s)) f).comparisons = _
  rw [State.field_modField _ _ _ (by simpa [State.modField] using hf), State.field_modField _ _ _ hf]

/-- What comes before a comparison ends counts, and leaves the stored bytes and the comparisons. -/
theorem comparison_ends {a : Fx} {g : Ctx → Ctx} (hctx : a.OnCtx k.ctx g) (hcells : (a.run s).mem.cells = s.mem.cells)
    (hwork : ((a.run s).field f).work = (s.field f).work) (hf : f < s.fields.length) {t : State} (ht : (endComparison f k).run (a.run s) = t)
    (hc : k.ctx < s.ctxs.length) : (t.field f).comparisons = (s.field f).comparisons.erase k ∧ t.mem.cells = s.mem.cells ∧
      t.ctx k.ctx = (g (s.ctx k.ctx)).withOp k.seq Op.compared ∧ ∀ d, d ≠ k.ctx → t.ctx d = s.ctx d := by
  have hall := hctx.andThen (endComparison_onCtx (f := f) (k := k))
  have hself := hall.self hc
  have hne := fun d => hall.ne hc (d := d)
  subst ht
  refine ⟨?_, hcells, hself, hne⟩
  rw [endComparison_field ((a.run_lengths s).2.1.symm ▸ hf), Field.comparisons_of_work hwork]

/-- The effect before the end of a comparison that meets poison. -/
theorem poison_parts {a : Fx} (ha : a.Within Place.touched) (l : List Ev) {b : Fx} (hb : b = a.andThen ((raiseEvs k.ctx k.seq l).andThen
    (poisonOp k.ctx k.seq))) : b.OnCtx k.ctx (Ctx.withOp k.seq Op.touchedByFault ∘ Ctx.withFlags 8) ∧
      (b.run s).mem.cells = s.mem.cells ∧ ((b.run s).field f).work = (s.field f).work := by
  subst hb
  refine ⟨(Fx.OnCtx.poisonOp.after (raiseEvs_touched _ _ _).offCtx_of_touched).after ha.offCtx_of_touched, ?_, ?_⟩
  · have h : (a.andThen ((raiseEvs k.ctx k.seq l).andThen (poisonOp k.ctx k.seq))).Within (fun p => p.touched ∨ p = .ctx k.ctx) :=
      .andThen (ha.mono fun _ => .inl) (.andThen ((raiseEvs_touched _ _ _).mono fun _ => .inl) (poisonOp_within (.inr rfl)))
    exact h.cells_eq s (by simp [Place.touched])
  · have h : (a.andThen ((raiseEvs k.ctx k.seq l).andThen (poisonOp k.ctx k.seq))).Within (fun p => p.touched ∨ p = .ctx k.ctx) :=
      .andThen (ha.mono fun _ => .inl) (.andThen ((raiseEvs_touched _ _ _).mono fun _ => .inl) (poisonOp_within (.inr rfl)))
    exact h.fieldWork_eq s (by simp [Place.touched])

/-- A comparison that meets poison (R24, R512), after reads that count. -/
theorem poisonedComparison_state {a : Fx} (ha : a.Within Place.touched) (l : List Ev) {o : Op} (hop : s.op? k.ctx k.seq = some o)
    (hf : f < s.fields.length) {t : State} (ht : (poisonedComparison f k l).run (a.run s) = t) :
    (t.field f).comparisons = (s.field f).comparisons.erase k ∧ (t.ctx k.ctx).lens = (s.ctx k.ctx).lens ∧ t.mem.cells = s.mem.cells ∧
      (∀ d, d ≠ k.ctx → t.ctx d = s.ctx d) ∧ t.op? k.ctx k.seq = some o.touchedByFault.compared := by
  have hc := lt_of_op? hop
  obtain ⟨hctx, hcells, hwork⟩ := poison_parts (s := s) (f := f) ha l rfl
  obtain ⟨hcomp, hcells', hself, hne⟩ := comparison_ends hctx hcells hwork hf ht hc
  refine ⟨hcomp, by rw [hself]; rfl, hcells', hne, ?_⟩
  rw [State.op?_eq, hself, Ctx.op?_withOp (f := Op.compared) fun _ => rfl, Function.comp, Ctx.op?_withOp fun o => o.touchedByFault_same.1]
  rw [State.op?_eq] at hop
  rw [show (Ctx.withFlags 8 (s.ctx k.ctx)).op? k.seq = some o from hop]
  rfl

end

section
variable {s : State} {f : Nat} {k : Comparison} {o : Op} {u : MatRun}
  (hk : (s.field f).comparisons.find? (fun k => !k.sums.isEmpty) = some k) (hop : s.op? k.ctx k.seq = some o) (hmat : o.mat = some u)
include hk hop hmat

omit hop hmat in
theorem lt_of_comparison : f < s.fields.length := by
  by_contra hf
  rw [show s.field f = Field.reset by rw [State.field, List.getD_eq_default _ _ (Nat.not_lt.mp hf)]] at hk
  cases hk

theorem witnessCompare_poisoned (hbad : (∃ w ∈ k.sums, w.2.poison = true) ∨ (witnessFault s f ((s.ctx k.ctx).asIssued o) k.slot).isSome) :
    ∃ (a : Fx) (l : List Ev), a.Within Place.touched ∧ exec (.witnessCompare f) s = .next ((poisonedComparison f k l).run (a.run s)) := by
  by_cases hsum : k.sums.any (fun w => w.2.poison) = true
  · refine ⟨.skip, [], .skip, ?_⟩
    change execWitnessCompare f s = _
    simp only [execWitnessCompare, hk, hop, hmat]
    rw [if_pos hsum, Fx.outcome_eq, Fx.run_skip]
  · obtain ⟨l, hl⟩ := Option.isSome_iff_exists.mp (hbad.resolve_left fun h => hsum (List.any_eq_true.mpr h))
    refine ⟨_, l, touchRange_touched (((s.ctx k.ctx).asIssued o).witnessKey k.slot) 4160, ?_⟩
    change execWitnessCompare f s = _
    simp only [execWitnessCompare, hk, hop, hmat]
    rw [if_neg hsum, State.ctx_asIssued (lt_of_op? hop), hl, Fx.outcome_eq, Fx.run_andThen]

theorem witnessCompare_sound {g : Geo} {ta tb : Tens} (hg : geoOf ((s.ctx k.ctx).asIssued o) o.record = g)
    (ha : readWhere (s.asIssued k.ctx o) { o with fields := [f] } g.a (k.reads o.record g u.offsets 0) = .ok ta)
    (hb : readWhere (s.asIssued k.ctx o) { o with fields := [f] } g.b (k.reads o.record g u.offsets 1) = .ok tb)
    (hsum : ∀ w ∈ k.sums, w.2.poison = false) (hslot : witnessFault s f ((s.ctx k.ctx).asIssued o) k.slot = none) :
    ∃ (a : Fx) (l : List (Nat × Bool)), a.Within Place.touched ∧ l.length = (g.out.elems (unrank g.out.grid k.tile)).length ∧
      exec (.witnessCompare f) s = .next ((bookRatios f k g.out.tid l).run (a.run s)) := by
  have hsums : ¬ k.sums.any (fun w => w.2.poison) = true := fun h => by
    obtain ⟨w, hw, hp⟩ := List.any_eq_true.mp h
    simp [hsum w hw] at hp
  refine ⟨(touchRange (((s.ctx k.ctx).asIssued o).witnessKey k.slot) 4160).andThen (Fx.each (tileSlots s.own g.a (k.reads o.record g u.offsets 0) ++
    tileSlots s.own g.b (k.reads o.record g u.offsets 1)) (fun q => touchRange (localKey q.1) q.2)),
    freeRatios (k.key o (unpackElems 0x00 ((s.mem.bytes (((s.ctx k.ctx).asIssued o).witnessKey k.slot) 4160).drop 64)) ta tb)
      (ratios (s.asIssued k.ctx o) o u ((s.ctx k.ctx).asIssued o) k ta tb),
    .andThen (touchRange_touched _ _) (.each fun _ => touchRange_touched _ _), ?_, ?_⟩
  · simp only [freeRatios, ratios, hg, List.length_map, List.length_zip, List.length_range, min_self]
  · simp only [hmat] at ha hb
    change execWitnessCompare f s = _
    simp only [execWitnessCompare, hk, hop, hmat]
    rw [if_neg hsums, State.ctx_asIssued (lt_of_op? hop), hslot, hg, ha, hb, Fx.outcome_eq, Fx.run_andThen, Fx.run_andThen, Fx.run_andThen]

end

/-- A context whose lens has taken a comparison's ratios (R342, R344). -/
def Ctx.withRatios (l : List (Nat × Bool)) (x : Ctx) : Ctx :=
  { x with lens := { x.lens with
    compared := x.lens.compared + l.length, disagree := x.lens.disagree + l.countP Prod.snd
    maxRatio := if x.lens.maxRatio.toNat < l.foldl (fun m q => max m q.1) 0 then BitVec.ofNat 32 (l.foldl (fun m q => max m q.1) 0)
      else x.lens.maxRatio } }

/-- What a comparison books before it ends. -/
theorem bookRatios_state {s : State} {f : Nat} {k : Comparison} {tid : Nat} {l : List (Nat × Bool)} {a : Fx} (ha : a.Within Place.touched)
    {o : Op} (hop : s.op? k.ctx k.seq = some o) (hf : f < s.fields.length) {t : State} (ht : (bookRatios f k tid l).run (a.run s) = t) :
    (t.field f).comparisons = (s.field f).comparisons.erase k ∧ (t.ctx k.ctx).lens.compared = (s.ctx k.ctx).lens.compared + l.length ∧
      t.op? k.ctx k.seq = some o.compared ∧ t.mem.cells = s.mem.cells ∧ ∀ d, d ≠ k.ctx → t.ctx d = s.ctx d := by
  have hc := lt_of_op? hop
  rw [bookRatios, Fx.run_all_cons, Fx.run_all_cons, Fx.run_all_cons, Fx.run_all_nil, ← Fx.run_andThen, ← Fx.run_andThen] at ht
  have hwithin : (a.andThen ((Fx.ctx k.ctx (Ctx.withRatios l)).andThen (raiseEvs k.ctx k.seq
      (List.replicate (l.countP Prod.snd) ⟨56 * f + 5, 1, 0x0202, tid, k.tile⟩)))).Within (fun p => p.touched ∨ p = .ctx k.ctx) :=
    .andThen (ha.mono fun _ => .inl) (.andThen (.ctx (.inr rfl)) ((raiseEvs_touched _ _ _).mono fun _ => .inl))
  obtain ⟨hcomp, hcells, hself, hne⟩ := comparison_ends (k := k) (((Fx.OnCtx.ctx (f := Ctx.withRatios l)).before
    (raiseEvs_touched _ _ _).offCtx_of_touched).after ha.offCtx_of_touched) (hwithin.cells_eq s (by simp [Place.touched]))
    (hwithin.fieldWork_eq s (by simp [Place.touched])) hf ht hc
  refine ⟨hcomp, by rw [hself]; rfl, ?_, hcells, hne⟩
  rw [State.op?_eq, hself, Ctx.op?_withOp (f := Op.compared) fun _ => rfl]
  exact congrArg (Option.map Op.compared) hop

/-- Settles O52: what a comparison reads counts, and it books its ratios or poisons its operation before it ends. -/
theorem witnessCompares : Obligations.WitnessCompares := by
  unfold Obligations.WitnessCompares
  refine ⟨fun s f k o u hk hop hmat hbad => ?_, fun s f k o u g ta tb hk hop hmat hg ha hb hsum hslot => ?_⟩
  · obtain ⟨a, l, htouch, hnext⟩ := witnessCompare_poisoned hk hop hmat hbad
    obtain ⟨hcomp, hlens, hcells, hne, hop'⟩ := poisonedComparison_state htouch l hop (lt_of_comparison hk) rfl
    refine ⟨_, hnext, hcomp, hlens, hcells, hne, ?_, fun hphase => ?_, fun hphase hst => ?_⟩ <;> rw [hop', Option.map_some]
    · rw [Op.compared, o.touchedByFault_same.2]
    · rw [Op.touchedByFault, if_neg hphase]
      rfl
    · rw [Op.touchedByFault, if_pos hphase, if_pos hst]
      rfl
  · obtain ⟨a, l, htouch, hlen, hnext⟩ := witnessCompare_sound hk hop hmat hg ha hb hsum hslot
    obtain ⟨hcomp, hlens, hop', hcells, hne⟩ := bookRatios_state htouch hop (lt_of_comparison hk) rfl
    exact ⟨_, hnext, hcomp, hlen ▸ hlens, by rw [hop']; rfl, hcells, hne⟩

end Sys2Proof.Machine

/-! Proofs about the issue of records (R257 to R259, R261, R516). -/
namespace Sys2Proof.Machine
set_option Elab.async false -- the side conditions of the frames below are elaborated in place, not each in a thread of its own

/-- A context that has issued its oldest record. -/
def Ctx.issued (r : List Byte) (rest : List (List Byte)) (o : Op) (x : Ctx) : Ctx :=
  { x with stream := rest, ops := x.ops ++ [o], lastIssued := some (BitVec.ofNat 32 (recSeq r)) }

/-- The state once the record is issued, with the sequencer's progress (R479). -/
def State.issuing (s : State) (c : Nat) (r : List Byte) (rest : List (List Byte)) : State :=
  (s.modCtx c (Ctx.issued r rest (Op.issue (s.ctx c) r))).modField (s.leadField (recGroup r))
    (fun g => { g with progress := tablePut g.progress 6 s.now })

theorem stream_lt {s : State} {c : Nat} {r : List Byte} {rest : List (List Byte)} (h : (s.ctx c).stream = r :: rest) : c < s.ctxs.length := by
  by_contra hc
  simp [State.ctx, Nat.not_lt.mp hc, Ctx.reset] at h

theorem mayIssue_active {s : State} {c : Nat} (h : s.mayIssue c = true) : (s.ctx c).state = .active := by
  simp only [State.mayIssue, Bool.and_eq_true, decide_eq_true_eq] at h
  exact h.1.1.1

section
variable {s : State} {c : Nat} {r : List Byte} {rest : List (List Byte)} (hstream : (s.ctx c).stream = r :: rest) (hmay : s.mayIssue c = true)
include hstream hmay

theorem operationIssue_sound : exec (.operationIssue ⟨c, none⟩) s = .next ((Fx.when (decide (issueStatus s (s.ctx c) r ≠ stOk))
    (endOp c (Op.issue (s.ctx c) r) (issueStatus s (s.ctx c) r))).run (s.issuing c r rest)) := by
  change execOperationIssue ⟨c, none⟩ s = _
  simp only [execOperationIssue, hstream]
  rw [Fx.outcome_eq, Fx.run_when, if_pos hmay, Fx.run_all_cons, Fx.run_all_cons, Fx.run_all_cons, Fx.run_all_nil, Fx.run_ctx, progress, Fx.run_look,
    Fx.run_field]
  rfl

theorem operationIssue_parity (off : Nat) : exec (.operationIssue ⟨c, some off⟩) s = .next ((heldParity c (Op.issue (s.ctx c) r) off).run
    (s.issuing c r rest)) := by
  change execOperationIssue ⟨c, some off⟩ s = _
  simp only [execOperationIssue, hstream]
  rw [Fx.outcome_eq, Fx.run_when, if_pos hmay, Fx.run_all_cons, Fx.run_all_cons, Fx.run_all_cons, Fx.run_all_nil, Fx.run_ctx, progress, Fx.run_look,
    Fx.run_field]
  rfl

end

section
variable {s u t : State} {c : Nat} {o : Op} {status : Nat}

/-- An operation without a sluice's entry ends with a failing status and without a job to abort: its context stops, and nothing else but
fields and events changes. -/
theorem endOp_stops {a : Fx} (ha : a.Within Place.raised) (hc : c < u.ctxs.length) (hquiet : o.endStatus status ≠ stPoisoned ∨ (u.ctx c).job = 0#16)
    (hcoll : o.coll = none)
    (ht : (endOp c o status).run (a.run u) = t) : t.ctx c = (u.ctx c).ended o (o.endStatus status) ∧ (∀ d, d ≠ c → t.ctx d = u.ctx d) ∧
      t.mem = u.mem ∧ t.hub = u.hub ∧ t.links = u.links := by
  have hctx (d : Nat) : (a.run u).ctx d = u.ctx d := ha.ctx_eq u id
  have hlen : c < (a.run u).ctxs.length := (a.run_lengths u).1.symm ▸ hc
  obtain ⟨b, hb, hrun⟩ := endOp_alone (s := a.run u) (by rwa [hctx]) (.inr hcoll)
  obtain ⟨hend, -⟩ := endOp_ctx hlen o status
  have hall (d : Nat) : t.ctx d = if d = c then (u.ctx c).ended o (o.endStatus status) else u.ctx d := by
    rw [← ht, hend, hctx, hctx, Ctx.tornIf_neg]
    rintro ⟨hp, hj, -⟩
    rcases hquiet with h | h
    · exact h hp
    · exact hj (by rw [h]; rfl)
  have hab : t = (a.andThen b).run u := by rw [← ht, hrun, Fx.run_andThen]
  have hwithin : (a.andThen b).Within (fun p => p.raised ∨ p.ends c) := .andThen (ha.mono fun _ => .inl) (hb.mono fun _ => .inr)
  refine ⟨by rw [hall, if_pos rfl], fun d hd => by rw [hall, if_neg hd], ?_⟩
  rw [hab]
  exact ⟨hwithin.mem_eq u (by simp [Place.raised, Place.ends]), hwithin.hub_eq u (by simp [Place.raised, Place.ends]),
    hwithin.links_eq (by simp [Place.raised, Place.ends]) u⟩

/-- A record that fails as it is issued ends at once (R257, R261). -/
theorem issue_fails {a : Fx} (ha : a.Within Place.raised) {r : List Byte} {rest : List (List Byte)} (hstream : (s.ctx c).stream = r :: rest)
    (hmay : s.mayIssue c = true) (hquiet : status ≠ stPoisoned ∨ (s.ctx c).job = 0#16) (hbad : goodStatus status = false)
    (ht : (endOp c (Op.issue (s.ctx c) r) status).run (a.run (s.issuing c r rest)) = t) : (t.ctx c).stream = rest ∧
      (t.ctx c).state = .stopped ∧ (t.ctx c).stopStatus = BitVec.ofNat 16 status ∧ t.op? c (BitVec.ofNat 32 (recSeq r)) = none ∧ t.mem = s.mem ∧
      (∀ d, d ≠ c → t.ctx d = s.ctx d) ∧ t.hub = s.hub ∧ t.links = s.links := by
  have hc := stream_lt hstream
  have hend : (Op.issue (s.ctx c) r).endStatus status = status := by
    rw [Op.endStatus]
    simp [Op.issue]
  have hself : (s.issuing c r rest).ctx c = (s.ctx c).issued r rest (Op.issue (s.ctx c) r) := State.ctx_modCtx _ _ _ hc
  have hother (d : Nat) (hd : d ≠ c) : (s.issuing c r rest).ctx d = s.ctx d := State.ctx_modCtx_ne _ _ _ _ hd.symm
  have hactive := mayIssue_active hmay
  obtain ⟨hctx, hne, hmem, hhub, hlinks⟩ := endOp_stops ha (by simpa [State.issuing, State.modCtx, State.modField] using hc)
    (by rw [hself, hend]; exact hquiet) rfl ht
  refine ⟨?_, ?_, ?_, ?_, hmem, fun d hd => (hne d hd).trans (hother d hd), hhub, hlinks⟩
  · rw [hctx, hself]
    rfl
  · rw [hctx, hself, hend]
    exact if_pos ⟨hbad, hactive⟩
  · rw [hctx, hself, hend]
    exact if_pos ⟨hbad, hactive⟩
  · rw [State.op?, hctx]
    exact Ctx.ended_op? (Op.issue (s.ctx c) r) _ _

end

/-- Settles O41: a record is issued, or its operation ends with the status that it fails with. -/
theorem operationsIssue : Obligations.OperationsIssue := by
  unfold Obligations.OperationsIssue
  refine fun s c r rest hstream hmay => ⟨fun hok => ?_, fun off hjob => ?_, fun st hst hbad hnot => ?_⟩
  · rw [operationIssue_sound hstream hmay, hok]
    rfl
  · refine ⟨_, operationIssue_parity hstream hmay off, ?_⟩
    rw [heldParity, Fx.run_look, Fx.run_andThen]
    exact issue_fails (parityEvent_within trivial trivial fun _ => trivial) hstream hmay (.inr hjob) rfl rfl
  · have hne : st ≠ stOk := by
      rintro rfl
      cases hbad
    refine ⟨_, operationIssue_sound hstream hmay, ?_⟩
    rw [hst, Fx.run_when, if_pos (decide_eq_true hne)]
    exact issue_fails (a := .skip) .skip hstream hmay (.inl hnot) hbad rfl

end Sys2Proof.Machine

/-! Proofs about answers of peers (R404, R405, R260, R473, R491). -/
namespace Sys2Proof.Machine
set_option Elab.async false -- the side conditions of the frames below are elaborated in place, not each in a thread of its own

/-! ## A packet that a local unit takes -/

theorem onPacket_idle {t i : Nat} {p : Packet} {fx : Fx} {s : State} (h : s.delivers t i p = false) : (onPacket t i p fx).outcome s = .next s := by
  rw [Fx.outcome_eq, onPacket, Fx.run_look, Fx.run_when, if_neg (by simp [h])]

theorem onPacket_next {t i : Nat} {p : Packet} {fx : Fx} {s : State} (h : s.delivers t i p = true) :
    (onPacket t i p fx).outcome s = .next (fx.run s) := by
  rw [Fx.outcome_eq, onPacket, Fx.run_look, Fx.run_when, if_pos h]

/-- Every row of packets takes none that is not delivered. -/
theorem packetRows_idle {s : State} {i : Nat} {p : Packet} : ∀ row ∈ packetRows i p, s.delivers row.1 i p = false → exec row.2 s = .next s := by
  simp only [packetRows, List.forall_mem_cons]
  exact ⟨onPacket_idle, onPacket_idle, onPacket_idle, onPacket_idle, onPacket_idle, onPacket_idle, onPacket_idle, onPacket_idle, onPacket_idle,
    onPacket_idle, onPacket_idle, onPacket_idle, onPacket_idle, onPacket_idle, fun _ h => nomatch h⟩

/-- A packet that is taken is in its receive queue no more (R408); one of the own packets was never in it (R412). -/
theorem takePacket_erases {s : State} {i : Nat} {p : Packet} : (((takePacket i p).run s).link i).rx = (s.link i).rx.erase (p.vl, p) := by
  by_cases h : (p.vl, p) ∈ (s.link i).rx
  · refine takePacket_rx ?_ h
    by_contra hi
    simp [State.link, Nat.not_lt.mp hi, Link.reset] at h
  · rw [takePacket, Fx.run_look, if_neg (by simpa using h), List.erase_of_not_mem h, Fx.run_when]
    split <;> rfl

theorem takePacket_hub {s : State} {i : Nat} {p : Packet} : { ((takePacket i p).run s).hub with loop := s.hub.loop } = s.hub := by
  have h := (takePacket_within (F := fun q => q ≠ .hubCore) (i := i) (p := p) nofun nofun nofun nofun).hubCore_eq s (by simp)
  exact (congrArg (fun x : Hub => { x with loop := s.hub.loop }) h :)

/-- What a packet that is taken touches. -/
def Place.taken (i : Nat) : Place → Prop
  | .hub | .field _ | .link _ => True
  | .linkRx j => j = i
  | _ => False

theorem takePacket_taken (i : Nat) (p : Packet) : (takePacket i p).Within (Place.taken i) :=
  takePacket_within trivial trivial (fun _ => trivial) rfl

/-! ## Acknowledgements -/

/-- A context whose operations an acknowledgement has reached. -/
def Ctx.acked (p : Packet) (x : Ctx) : Ctx := { x with ops := x.ops.map (Op.acked p.tag p.aux.toNat) }

theorem Op.acked_seq (tag : U32) (st : Nat) (o : Op) : (o.acked tag st).seq = o.seq := by
  rw [Op.acked]
  split <;> rfl

theorem Ctx.op?_acked (p : Packet) (seq : U32) (x : Ctx) : (x.acked p).op? seq = (x.op? seq).map (Op.acked p.tag p.aux.toNat) := by
  simp only [Ctx.op?, Ctx.acked, List.find?_map]
  congr 2
  funext o
  simp [Op.acked_seq]

section
variable {s : State} {i : Nat} {p : Packet}

theorem acknowledge_run (hjob : p.job ≠ 0#16) {c : Nat} (hctx : s.replyCtx p = some c) :
    (acknowledge i p).run s = ((takePacket i p).run s).modCtx c (Ctx.acked p) := by
  rw [acknowledge, Fx.run_look, Fx.run_andThen, if_neg hjob, hctx]
  rfl

theorem acknowledge_stray (hjob : p.job ≠ 0#16) (hctx : s.replyCtx p = none) : (acknowledge i p).run s = (takePacket i p).run s := by
  rw [acknowledge, Fx.run_look, Fx.run_andThen, if_neg hjob, hctx]
  rfl

/-- Both acknowledgements are one effect. -/
theorem acknowledge_next : ∀ row ∈ [(0x11, Instr.writeAck i p), (0x12, Instr.signalAck i p)], s.delivers row.1 i p = true →
    exec row.2 s = .next ((acknowledge i p).run s) := by
  simp only [List.forall_mem_cons]
  exact ⟨onPacket_next, onPacket_next, fun _ h => nomatch h⟩

theorem acknowledge_state (hjob : p.job ≠ 0#16) {c : Nat} (hctx : s.replyCtx p = some c) {t : State} (ht : (acknowledge i p).run s = t) :
    (t.link i).rx = (s.link i).rx.erase (p.vl, p) ∧ t.mem = s.mem ∧ { t.hub with loop := s.hub.loop } = s.hub ∧
      (∀ d, d ≠ c → t.ctx d = s.ctx d) ∧ ∀ o seq, s.op? c seq = some o → p.tag ∈ o.acks → t.op? c seq = some
        { o with acks := o.acks.erase p.tag, status := if o.status = 0#16 then BitVec.ofNat 16 p.aux.toNat else o.status } := by
  rw [acknowledge_run hjob hctx] at ht
  have htake := takePacket_taken i p
  subst ht
  refine ⟨takePacket_erases, htake.mem_eq s id, takePacket_hub, fun d hd => ?_, fun o seq hop hmem => ?_⟩
  · rw [State.ctx_modCtx_ne _ _ _ _ hd.symm, htake.ctx_eq s id]
  · rw [State.op?_eq, State.ctx_modCtx _ _ _ (((takePacket i p).run_lengths s).1.symm ▸ lt_of_op? hop), Ctx.op?_acked, htake.ctx_eq s id,
      show (s.ctx c).op? seq = some o from hop, Option.map_some, Op.acked, if_pos (by simpa using hmem)]

end

/-! ## Reads that go on to ask -/

/-- An operation that has asked for more, with what it has read so far. -/
def Op.Asked (o u : Op) : Prop := u.seq = o.seq ∧ u.fetched = o.fetched ∧ u.phase = o.phase ∧ ∃ more, u.needs = o.needs ++ more

theorem Op.Asked.refl (o : Op) : Op.Asked o o := ⟨rfl, rfl, rfl, [], (List.append_nil _).symm⟩

theorem Op.Asked.trans {o u v : Op} (h : Op.Asked o u) (k : Op.Asked u v) : Op.Asked o v := by
  obtain ⟨hseq, hfetched, hphase, more, hneeds⟩ := h
  obtain ⟨hseq', hfetched', hphase', more', hneeds'⟩ := k
  exact ⟨hseq'.trans hseq, hfetched'.trans hfetched, hphase'.trans hphase, more ++ more', by rw [hneeds', hneeds, List.append_assoc]⟩

/-- An effect under which operations only ask for more. -/
def Fx.Asks (a : Fx) : Prop := ∀ s c seq o, s.op? c seq = some o → ∃ u, (a.run s).op? c seq = some u ∧ Op.Asked o u

section
variable {a b : Fx}

theorem Fx.Asks.andThen (ha : a.Asks) (hb : b.Asks) : (a.andThen b).Asks := fun s c seq o h => by
  obtain ⟨u, hu, hou⟩ := ha s c seq o h
  obtain ⟨v, hv, huv⟩ := hb (a.run s) c seq u hu
  exact ⟨v, hv, hou.trans huv⟩

theorem Fx.Asks.look {f : State → Fx} (h : ∀ s, (f s).Asks) : (Fx.look f).Asks := fun s => h s s

theorem Fx.Within.asks (h : a.Within Place.offCtx) : a.Asks := fun s c seq o hop => by
  refine ⟨o, ?_, .refl o⟩
  rw [State.op?_eq, run_ctx_offCtx h s c]
  exact hop

theorem Fx.Asks.skip : Fx.skip.Asks := (Fx.Within.skip (F := Place.offCtx)).asks

theorem Fx.Asks.when {c : Bool} (h : a.Asks) : (Fx.when c a).Asks := by
  cases c
  · exact .skip
  · exact h

theorem Fx.Asks.cons {l : List Fx} (ha : a.Asks) (hl : (Fx.all l).Asks) : (Fx.all (a :: l)).Asks := ha.andThen hl

theorem Fx.Asks.each {α : Type} {l : List α} {f : α → Fx} (h : ∀ x, (f x).Asks) : (Fx.each l f).Asks := by
  induction l with
  | nil => exact .skip
  | cons x l ih => exact (h x).andThen ih

theorem Fx.Asks.ite {c : Prop} [Decidable c] (ha : a.Asks) (hb : b.Asks) : (if c then a else b).Asks := by
  split <;> assumption

theorem onOp_asks {c : Nat} {seq : U32} {f : Op → Op} (hf : ∀ o, Op.Asked o (f o)) : (onOp c seq f).Asks := fun s d r o hop => by
  have hc := lt_of_op? hop
  rw [State.op?_eq] at hop
  rcases s.ctx_modCtx_cases c d (Ctx.withOp seq f) with e | ⟨rfl, e⟩
  · exact ⟨o, by rw [State.op?_eq]; exact e ▸ hop, .refl o⟩
  · by_cases hr : r = seq
    · subst hr
      refine ⟨f o, ?_, hf o⟩
      rw [State.op?_eq]
      exact (congrArg (Ctx.op? r) e).trans (by rw [Ctx.op?_withOp fun o => (hf o).1, hop]; rfl)
    · refine ⟨o, ?_, .refl o⟩
      rw [State.op?_eq]
      exact (congrArg (Ctx.op? r) e).trans (by rw [Ctx.op?_withOp_ne (fun o => (hf o).1) hr, hop])

end

theorem fetchPiece_asks (c : Nat) (o : Op) (ga len : Nat) : (fetchPiece c o ga len).Asks := by
  refine .look fun s => ?_
  have hneed (tag : U32) : (need c o.seq tag ga len).Asks := onOp_asks fun p => ⟨rfl, rfl, rfl, _, rfl⟩
  have hfail (st : Nat) : (failOp c o.seq st).Asks := onOp_asks fun p => ⟨rfl, rfl, rfl, [], (List.append_nil _).symm⟩
  have htag {f : U32 → Fx} (hf : ∀ tag, (f tag).Asks) : (withTag f).Asks := .look fun _ => (hf _).andThen (Fx.Within.asks (.hub trivial (hc := .inl trivial)))
  have hmover (m : Nat) (k : Bool) (tag : U32) : (Fx.when k (takeDescriptor (s.fetchField c o ga) m c tag)).Asks :=
    .when (Fx.Within.asks (takeDescriptor_within trivial trivial))
  refine .ite (onOp_asks fun p => ⟨rfl, rfl, rfl, [], (List.append_nil _).symm⟩) (.ite ?_ (.ite (hfail _) (htag fun tag => .andThen
    (.andThen (hneed tag) ?_) (Fx.Within.asks (sendPacket_within offCtx_tears.toSends)))))
  · split
    · refine htag fun tag => .cons (.andThen (hneed tag) ?_) (.cons (Fx.Within.asks (askHost_within trivial trivial)) (.cons (.look fun _ =>
        .when (Fx.Within.asks (startDescriptor_within fun _ => trivial))) .skip))
      split
      · exact hmover _ _ tag
      · exact .skip
    · exact hfail _
  · split
    · exact hmover _ _ tag
    · exact .skip

theorem freeDescriptor_asks (tag : U32) (whole : Bool) : (freeDescriptor tag whole).Asks := by
  refine .look fun _ => .andThen (Fx.Within.asks (.each fun _ => .andThen (.when (.each fun _ => progress_within trivial)) (.field trivial
    (hb := .inl trivial)))) (.each fun c => .look fun s => ?_)
  split
  · exact .skip
  · exact .andThen (onOp_asks fun p => ⟨rfl, rfl, rfl, [], (List.append_nil _).symm⟩) (fetchPiece_asks _ _ _ _)

/-- No operation of a context has a piece that waits for a descriptor. -/
theorem later_of_noneLater {s : State} (h : s.noneLater = true) {c : Nat} {o : Op} (ho : o ∈ (s.ctx c).ops) : o.later = [] := by
  have hc : c < s.ctxs.length := by
    by_contra hc
    simp [State.ctx, Nat.not_lt.mp hc, Ctx.reset] at ho
  have hmem : s.ctx c ∈ s.ctxs := by
    rw [State.ctx, List.getD_eq_getElem _ _ hc]
    exact List.getElem_mem hc
  simpa using List.all_eq_true.mp (List.all_eq_true.mp h _ hmem) o ho

theorem each_fetchLater_quiet {s : State} (h : s.noneLater = true) (l : List Nat) : (Fx.each l fetchLater).run s = s := by
  induction l with
  | nil => rfl
  | cons c l ih =>
    have hnone : (s.ctx c).ops.find? (fun o => !o.later.isEmpty &&
        (s.field (s.fetchField c o (o.later.headD (0, 0)).1)).freeMover.isSome) = none :=
      List.find?_eq_none.mpr fun o ho => by simp [later_of_noneLater h ho]
    rw [Fx.run_each_cons, fetchLater, Fx.run_look]
    simp only [hnone]
    exact ih

/-- Where no piece waits for a descriptor, one that falls free changes its field alone (R491). -/
theorem freeDescriptor_quiet {s : State} (h : s.noneLater = true) (tag : U32) (whole : Bool) :
    ∃ a : Fx, a.Within (fun q => ∃ f, q = .field f) ∧ (freeDescriptor tag whole).run s = a.run s := by
  refine ⟨Fx.each (List.range (Grade.fields s.grade)) (fun f =>
    (Fx.when whole (Fx.each ((List.range 8).filter (fun m => (s.field f).movers[m]?.any (fun v => v.executing.any (fun e => e.2 == tag))))
      (fun m => progress f (8 + m)))).andThen
    (Fx.field f (fun g => { g with movers := g.movers.map (fun m => { m with executing := m.executing.filter (fun e => e.2 != tag) }) }))), ?_, ?_⟩
  · exact .each fun f => .andThen (.when (.each fun _ => progress_within ⟨f, rfl⟩)) (.field ⟨f, rfl⟩ (hb := .inr
      fun _ h => ⟨h.1, h.2.1, Field.booked_movers h fun _ => Nat.add_le_add_left (List.length_filter_le _ _) _⟩))
  · rw [freeDescriptor, Fx.run_look, Fx.run_andThen]
    refine each_fetchLater_quiet ?_ _
    have hctxs : ((Fx.each (List.range (Grade.fields s.grade)) (fun f =>
        (Fx.when whole (Fx.each ((List.range 8).filter (fun m => (s.field f).movers[m]?.any (fun v => v.executing.any (fun e => e.2 == tag))))
          (fun m => progress f (8 + m)))).andThen
        (Fx.field f (fun g => { g with movers := g.movers.map (fun m =>
          { m with executing := m.executing.filter (fun e => e.2 != tag) }) })))).run s).ctxs = s.ctxs :=
      Fx.Within.ctxs_eq (F := Place.offCtx) (.each fun _ => .andThen (.when (.each fun _ => progress_within trivial)) (.field trivial
        (hb := .inl trivial))) (fun _ => id) s
    simp only [State.noneLater, hctxs]
    exact h

/-! ## The answer of a read -/

/-- An operation that still waits goes on no further. -/
theorem goOn_waits {c : Nat} {seq : U32} {s : State} {o : Op} (hop : s.op? c seq = some o) (h : o.needs ≠ []) : (goOn c seq).run s = s := by
  rw [goOn, Fx.run_look, hop]
  dsimp only
  rw [if_pos (by simp [h]), Fx.run_skip]

/-- An operation one of whose reads failed lands as it stands (R260, R383). -/
theorem goOn_fails {c : Nat} {seq : U32} {s : State} {o : Op} (hop : s.op? c seq = some o) (hneeds : o.needs = []) (hlater : o.later = [])
    (hphase : o.phase = .running) (hpre : o.preempted = false) (hst : o.status ≠ 0#16) : (goOn c seq).run s = (land c seq).run s := by
  rw [goOn, Fx.run_look, hop]
  dsimp only
  rw [if_neg (by simp [hneeds, hlater, hphase, hpre]), if_pos hst]

section
variable {s : State} {i : Nat} {p : Packet}

theorem readResp_stray (hd : s.delivers 0x10 i p = true) (hctx : s.replyCtx p = none) (hnone : s.noneLater = true) :
    ∃ a : Fx, a.Within (fun q => ∃ f, q = .field f) ∧ exec (.readResp i p) s = .next (a.run ((takePacket i p).run s)) := by
  have hctxs := (takePacket_taken i p).ctxs_eq (fun _ => id) s
  obtain ⟨a, ha, hrun⟩ := freeDescriptor_quiet (s := (takePacket i p).run s) (by simp only [State.noneLater, hctxs]; exact hnone) p.tag false
  refine ⟨a, ha, ?_⟩
  refine (onPacket_next hd).trans ?_
  rw [hctx, Fx.run_all_cons, Fx.run_all_cons, Fx.run_all_cons, Fx.run_all_nil]
  simp only [Option.any_none, hrun, Fx.run_skip]

/-- A read's answer for an operation: its packet is taken, a descriptor falls free, and the operation takes what it asked for. -/
theorem readResp_next (hd : s.delivers 0x10 i p = true) {c : Nat} (hctx : s.replyCtx p = some c) {o : Op} {n : Need}
    (hneed : (s.ctx c).needOf p.tag = some (o, n)) : exec (.readResp i p) s = .next ((goOn c o.seq).run
      ((onOp c o.seq (Op.fetch n p.aux.toNat p.payload (badWords (p.aux.toNat % 256)))).run ((freeDescriptor p.tag (slotWhole (s.ctx c) o n
        p.payload.length)).run ((takePacket i p).run s)))) := by
  refine (onPacket_next hd).trans ?_
  rw [hctx]
  simp only [Option.any_some, hneed]
  rw [Fx.run_all_cons, Fx.run_all_cons, Fx.run_all_cons, Fx.run_all_nil, Fx.run_andThen]

/-- What the packet and its descriptor leave of an operation that waits for it. -/
theorem readResp_before (whole : Bool) {c : Nat} {o : Op} (hop : s.op? c o.seq = some o) {u : State}
    (hu : (freeDescriptor p.tag whole).run ((takePacket i p).run s) = u) : (∃ v, u.op? c o.seq = some v ∧ Op.Asked o v) ∧
      (u.link i).rx = (s.link i).rx.erase (p.vl, p) ∧ u.mem = s.mem ∧
      (s.noneLater = true → u.op? c o.seq = some o ∧ ∀ d, u.ctx d = s.ctx d) := by
  have htake := takePacket_taken i p
  have hop' : ((takePacket i p).run s).op? c o.seq = some o := by
    rw [State.op?_eq, htake.ctx_eq s id]
    exact hop
  have hfree : (freeDescriptor p.tag whole).Within (fun q => q ≠ .linkRx i ∧ q ≠ .mem) :=
    freeDescriptor_within ⟨⟨by simp, by simp, by simp⟩, by simp, by simp⟩ (by simp) (by simp) (by simp)
  refine ⟨hu ▸ freeDescriptor_asks _ _ _ _ _ _ hop', ?_, ?_, fun hnone => ?_⟩
  · rw [← hu, hfree.linkRx_eq _ (by simp), takePacket_erases]
  · rw [← hu, hfree.mem_eq _ (by simp), htake.mem_eq s id]
  · have hctxs := htake.ctxs_eq (fun _ => id) s
    obtain ⟨a, ha, hrun⟩ := freeDescriptor_quiet (s := (takePacket i p).run s) (by simp only [State.noneLater, hctxs]; exact hnone) p.tag whole
    have hctx (d : Nat) : u.ctx d = s.ctx d := by
      rw [← hu, hrun, ha.ctx_eq _ (by simp), htake.ctx_eq s id]
    exact ⟨by rw [State.op?_eq, hctx]; exact hop, hctx⟩

/-- An operation that has taken what it asked for. -/
theorem fetch_state {u : State} {c : Nat} {o v : Op} (hv : u.op? c o.seq = some v) {f : Op → Op} (hf : ∀ o, (f o).seq = o.seq) :
    ((onOp c o.seq f).run u).op? c o.seq = some (f v) ∧ ∀ d, d ≠ c → ((onOp c o.seq f).run u).ctx d = u.ctx d := by
  have hon : (onOp c o.seq f).OnCtx c (Ctx.withOp o.seq f) := .onOp
  have hc := lt_of_op? hv
  refine ⟨?_, fun d hd => hon.ne hc hd⟩
  rw [State.op?_eq, hon.self hc, Ctx.op?_withOp hf, ← State.op?_eq, hv]
  rfl

end

theorem Op.fetch_seq (n : Need) (status : Nat) (data : List Byte) (bad : List Nat) (o : Op) : (o.fetch n status data bad).seq = o.seq := by
  rw [Op.fetch]
  split <;> rfl

/-- All the bytes of a read come. -/
theorem Op.fetch_whole {n : Need} {status : Nat} {data : List Byte} {bad : List Nat} {o : Op} (hdata : data ≠ []) (hlen : n.len ≤ data.length) :
    (o.fetch n status data bad).needs = o.needs.erase n ∧ (o.fetch n status data bad).fetched = putBytes n.addr (data.take n.len) o.fetched ∧
      (o.fetch n status data bad).phase = o.phase ∧ (o.fetch n status data bad).status = o.status := by
  rw [Op.fetch, if_neg (by simpa using hdata)]
  simp [hlen]

/-- A read fails. -/
theorem Op.fetch_failed {n : Need} {status : Nat} {bad : List Nat} {o : Op} : o.fetch n status [] bad =
    { o with needs := o.needs.erase n, status := if o.status = 0#16 then BitVec.ofNat 16 status else o.status } := rfl

theorem needOf_mem {x : Ctx} {tag : U32} {o : Op} {n : Need} (h : x.needOf tag = some (o, n)) : o ∈ x.ops ∧ n ∈ o.needs := by
  obtain ⟨q, hq, e⟩ := List.exists_of_findSome?_eq_some h
  obtain ⟨k, hk, e⟩ := Option.map_eq_some_iff.mp e
  cases e
  exact ⟨hq, List.mem_of_find?_eq_some hk⟩

/-- Settles O38: what is taken touches its queue, and what reaches an operation changes that operation. -/
theorem peerAnswers : Obligations.PeerAnswers := by
  unfold Obligations.PeerAnswers
  refine fun s i p => ⟨packetRows_idle, fun c hjob hctx row hrow hd => ?_, fun hjob hctx row hrow hd hlater => ?_,
    fun c o n hd hctx hneed hop hdata hlen hmore => ?_, fun c o n hd hctx hneed hop hdata hnone hneeds hphase hpre hst haux => ?_, fun hd => ?_⟩
  · exact ⟨_, acknowledge_next row hrow hd, acknowledge_state hjob hctx rfl⟩
  · have htake := takePacket_taken i p
    simp only [List.mem_cons, List.not_mem_nil, or_false] at hrow
    rcases hrow with rfl | rfl | rfl
    · refine ⟨_, acknowledge_next _ (by simp) hd, ?_⟩
      rw [acknowledge_stray hjob hctx]
      exact ⟨takePacket_erases, htake.mem_eq s id, htake.ctxs_eq (fun _ => id) s⟩
    · refine ⟨_, acknowledge_next _ (by simp) hd, ?_⟩
      rw [acknowledge_stray hjob hctx]
      exact ⟨takePacket_erases, htake.mem_eq s id, htake.ctxs_eq (fun _ => id) s⟩
    · obtain ⟨a, ha, hnext⟩ := readResp_stray hd hctx (hlater.resolve_left fun h => h rfl)
      refine ⟨_, hnext, ?_, ?_, ?_⟩
      · rw [ha.linkRx_eq _ (by simp), takePacket_erases]
      · rw [ha.mem_eq _ (by simp), htake.mem_eq s id]
      · rw [ha.ctxs_eq (by simp), htake.ctxs_eq (fun _ => id) s]
  · obtain ⟨⟨v, hv, hseq, hfetched, hphase, more, hneeds⟩, hrx, hmem, hquiet⟩ := readResp_before (s := s) (i := i) (p := p)
      (slotWhole (s.ctx c) o n p.payload.length) hop rfl
    have hnext := readResp_next hd hctx hneed
    obtain ⟨u, hu⟩ : ∃ u, (freeDescriptor p.tag (slotWhole (s.ctx c) o n p.payload.length)).run ((takePacket i p).run s) = u := ⟨_, rfl⟩
    rw [hu] at hv hrx hmem hquiet hnext
    obtain ⟨hz, hother⟩ := fetch_state hv (Op.fetch_seq n p.aux.toNat p.payload (badWords (p.aux.toNat % 256)))
    obtain ⟨hzneeds, hzfetched, hzphase, hzstatus⟩ := Op.fetch_whole (status := p.aux.toNat) (bad := badWords (p.aux.toNat % 256)) (o := v)
      hdata hlen
    have hleft : v.needs.erase n = o.needs.erase n ++ more := by rw [hneeds, List.erase_append_left _ (needOf_mem hneed).2]
    rw [goOn_waits hz (by rw [hzneeds, hleft]; simp [hmore])] at hnext
    refine ⟨_, _, more, hnext, hz, by rw [hzneeds, hneeds], by rw [hzfetched, hfetched], hzphase.trans hphase, hrx, hmem, fun hnone => ?_⟩
    obtain ⟨hsame, hctxs⟩ := hquiet hnone
    obtain rfl : v = o := Option.some.inj (hv.symm.trans hsame)
    exact ⟨List.append_cancel_left (hneeds.symm.trans (List.append_nil _).symm), hzstatus, fun d hd => (hother d hd).trans (hctxs d)⟩
  · have hlater : o.later = [] := later_of_noneLater hnone (needOf_mem hneed).1
    obtain ⟨-, -, hmem, hquiet⟩ := readResp_before (s := s) (i := i) (p := p) (slotWhole (s.ctx c) o n p.payload.length) hop rfl
    have hnext := readResp_next hd hctx hneed
    obtain ⟨u, hu⟩ : ∃ u, (freeDescriptor p.tag (slotWhole (s.ctx c) o n p.payload.length)).run ((takePacket i p).run s) = u := ⟨_, rfl⟩
    rw [hu] at hmem hquiet hnext
    obtain ⟨hv, hctxs⟩ := hquiet hnone
    obtain ⟨hz, hother⟩ := fetch_state hv (Op.fetch_seq n p.aux.toNat p.payload (badWords (p.aux.toNat % 256)))
    obtain ⟨w, hw⟩ : ∃ w, (onOp c o.seq (Op.fetch n p.aux.toNat p.payload (badWords (p.aux.toNat % 256)))).run u = w := ⟨_, rfl⟩
    have hwmem : w.mem = u.mem := hw ▸ rfl
    rw [hw] at hnext hz hother
    rw [hdata, Op.fetch_failed, hst, if_pos rfl, hneeds, List.erase_cons_head, BitVec.ofNat_toNat, BitVec.setWidth_eq] at hz
    rw [goOn_fails hz rfl hlater hphase hpre haux] at hnext
    obtain ⟨hland, hother'⟩ := fetch_state (f := fun o => { o with phase := .landing }) hz fun _ => rfl
    exact ⟨_, _, hnext, hland, rfl, rfl, rfl, hwmem.trans hmem, fun d hd => (hother' d hd).trans ((hother d hd).trans (hctxs d))⟩
  · refine ⟨_, onPacket_next hd, takePacket_erases, (takePacket_taken i p).mem_eq s id, (takePacket_taken i p).ctxs_eq (fun _ => id) s,
      takePacket_hub, (takePacket_taken i p).out_eq s id⟩

end Sys2Proof.Machine

/-! Proofs about requests of peers (R381 to R384, R401, R404, R419). -/
namespace Sys2Proof.Machine
set_option Elab.async false -- the side conditions of the frames below are elaborated in place, not each in a thread of its own

/-! ## What serving a request leaves -/

/-- What serving a request touches before it is answered: not the tables of the hub, the states of fields and links, nor the queues of
injection ports. -/
def Place.serving : Place → Prop
  | .out | .mem | .data | .tiles | .hub | .evc | .ctx _ | .field _ | .stack _ | .link _ | .linkRx _ | .ring _ => True
  | _ => False

theorem serving_of_touched {a : Fx} (h : a.Within Place.touched) : a.Within Place.serving := h.mono fun q hq => by cases q <;> trivial

theorem serving_of_taken {i : Nat} {a : Fx} (h : a.Within (Place.taken i)) : a.Within Place.serving := h.mono fun q hq => by
  cases q <;> trivial

/-- States in which the same packets have the same way out (R412, R413, R487). -/
structure SameWays (s u : State) : Prop where
  grade : u.grade = s.grade
  hub : u.hub.frame = s.hub.frame
  field : ∀ f, (u.field f).state = (s.field f).state
  link : ∀ j, (u.link j).state = (s.link j).state ∧ (u.link j).inject = (s.link j).inject

theorem Fx.Within.sameWays {a : Fx} (h : a.Within Place.serving) (s : State) : SameWays s (a.run s) :=
  ⟨a.run_grade s, h.hubFrame_eq s id, fun f => Field.state_of_frame (h.fieldFrame_eq s (i := f) id),
    fun j => ⟨Link.state_of_frame (h.linkFrame_eq s (i := j) id), h.linkInject_eq s (i := j) id⟩⟩

section
variable {s u : State} (h : SameWays s u)
include h

theorem SameWays.own : u.own = s.own := congrArg BitVec.toNat (congrArg Hub.node h.hub :)

theorem SameWays.outputOf (q : Packet) : u.outputOf q = s.outputOf q := by
  have hroutes : u.hub.routes = s.hub.routes := (congrArg Hub.routes h.hub :)
  simp only [State.outputOf, State.route, hroutes]

theorem SameWays.shut (f : Nat) : u.shut f = s.shut f := by rw [State.shut, h.field, State.shut]

theorem SameWays.crosses (cls : Nat) (src : DitchEnd) (l : List DitchEnd) : u.crosses cls src l = s.crosses cls src l := by
  have hlive : u.ditchLive = s.ditchLive := funext fun f => by rw [State.ditchLive, h.grade, h.shut, State.ditchLive]
  rw [State.crosses, hlive, State.crosses]

theorem SameWays.reaches (port vl j : Nat) : u.reaches port vl j = s.reaches port vl j := h.crosses _ _ _

/-- A packet that is sent joins the queue of its output (R413, R414). -/
theorem SameWays.queued (port : Nat) (q : Packet) (hlen : u.links.length = s.links.length) : Queued s ((sendPacket port q).run u) port q := by
  intro j hj
  have hlink := h.link j
  rw [sendPacket, Fx.run_look, h.outputOf]
  split
  · next k hk =>
    rw [hk]
    split
    · next h32 =>
      rw [Fx.run_hub, State.link_modHub, hlink.2, if_neg (by simp only [Option.some.injEq]; omega), List.append_nil]
    · next h32 =>
      rw [Fx.run_when, h.reaches]
      split
      · next hreach =>
        rw [injectAt, Fx.run_link]
        by_cases hkj : k = j
        · subst hkj
          rw [State.link_modLink _ _ _ (hlen ▸ hj), hlink.1]
          by_cases h4 : (s.link k).state = 4
          · rw [if_pos h4, hlink.2, if_neg (by simp [h4]), List.append_nil]
          · rw [if_neg h4, if_pos ⟨rfl, by omega, h4, hreach⟩]
            exact congrArg (· ++ _) hlink.2
        · rw [State.link_modLink_ne _ _ _ _ hkj, hlink.2, if_neg (by simp [hkj]), List.append_nil]
      · next hreach =>
        rw [hlink.2, if_neg, List.append_nil]
        rintro ⟨hkj, -, -, hr⟩
        cases hkj
        exact hreach hr
  · next hk =>
    rw [Fx.run_skip, hlink.2, hk, if_neg (by simp), List.append_nil]

/-- A request is answered once (R383, R404). -/
theorem SameWays.answered (hnode : s.hub.node ≠ 0xFFFF#16) (hlen : u.links.length = s.links.length) (port : Nat) (p : Packet)
    (ptype aux : Nat) (payload : List Byte) :
    Queued s ((answerPacket port p ptype aux payload).run u) port (p.answer s.own ptype aux payload) := by
  have hnode' : u.hub.node = s.hub.node := (congrArg Hub.node h.hub :)
  rw [answerPacket, Fx.run_look, Fx.run_when, if_pos (by simpa [hnode'] using hnode), h.own]
  exact h.queued port _ hlen

end

theorem answerPacket_sent (port : Nat) (p : Packet) (ptype aux : Nat) (payload : List Byte) :
    (answerPacket port p ptype aux payload).Within Place.sent := answerPacket_within sent_sends

/-- What a request does before its answer, and what the answer leaves of it. -/
theorem answer_state {s t : State} {a : Fx} (ha : a.Within Place.serving) (hnode : s.hub.node ≠ 0xFFFF#16) {port ptype aux : Nat} {p : Packet}
    {payload : List Byte} (ht : (answerPacket port p ptype aux payload).run (a.run s) = t) :
    Queued s t port (p.answer s.own ptype aux payload) ∧ (∀ i, (t.link i).rx = ((a.run s).link i).rx) ∧ t.mem = (a.run s).mem ∧
      t.ctxs = (a.run s).ctxs ∧ t.out = (a.run s).out := by
  have hsent := answerPacket_sent port p ptype aux payload
  subst ht
  exact ⟨(ha.sameWays s).answered hnode (a.run_lengths s).2.2.2.1 port p ptype aux payload, fun i => hsent.linkRx_eq _ id, hsent.mem_eq _ id,
    hsent.ctxs_eq (fun _ => id) _, hsent.out_eq _ id⟩

theorem permissionEvent_raised (i : Nat) (p : Packet) (writes : Bool) : (permissionEvent i p writes).Within Place.raised :=
  .look fun _ => .when (raise_within trivial trivial fun _ => trivial)

theorem raised_touched {a : Fx} (h : a.Within Place.raised) : a.Within Place.touched := h.mono fun q hq => by cases q <;> trivial

/-! ## Reads and writes -/

section
variable {s : State} {i : Nat} {p : Packet} (hnode : s.hub.node ≠ 0xFFFF#16)
include hnode

theorem readReq_clamped (hd : s.delivers 0x01 i p = true) (hclamp : s.clamped p.addr.toNat = true) :
    exec (.readReq i p) s = .next ((takePacket i p).run s) := by
  refine (onPacket_next hd).trans ?_
  rw [if_neg hnode, if_pos hclamp]

theorem write_clamped (hd : s.delivers 0x02 i p = true) (hjob : p.job ≠ 0#16) (hclamp : s.clamped p.addr.toNat = true) :
    exec (.write i ⟨p, []⟩) s = .next ((takePacket i p).run s) := by
  refine (onPacket_next hd).trans ?_
  rw [if_neg hnode, if_neg hjob, if_pos hclamp]

theorem readReq_ok (hd : s.delivers 0x01 i p = true) (hclamp : s.clamped p.addr.toNat = false)
    (hok : s.peerAccess i p false p.addr.toNat p.aux.toNat = .ok) (hsize : readSizeOk p.aux.toNat = true)
    (hclean : s.mem.errorWords (localKey p.addr.toNat) p.aux.toNat = []) : exec (.readReq i p) s = .next
      ((answerPacket (answerPort i) p 0x10 (s.mem.poisonBits (localKey p.addr.toNat) p.aux.toNat)
        (s.mem.readOut (localKey p.addr.toNat) p.aux.toNat)).run ((takePacket i p).run s)) := by
  refine (onPacket_next hd).trans ?_
  have hmem := (takePacket_taken i p).mem_eq s id
  rw [if_neg hnode, if_neg (by simp [hclamp]), hok]
  dsimp only
  rw [if_neg (by simp [hsize]), Fx.run_all_cons, Fx.run_all_cons, Fx.run_all_cons, Fx.run_all_nil, plainRead_clean (by rwa [hmem])]

theorem readReq_stop {st : Nat} (hd : s.delivers 0x01 i p = true) (hclamp : s.clamped p.addr.toNat = false)
    (hstop : s.peerAccess i p false p.addr.toNat p.aux.toNat = .stop st) : exec (.readReq i p) s = .next
      ((answerPacket (answerPort i) p 0x10 st []).run (((takePacket i p).andThen (permissionEvent i p false)).run s)) := by
  refine (onPacket_next hd).trans ?_
  rw [if_neg hnode, if_neg (by simp [hclamp]), hstop]
  dsimp only
  rw [Fx.run_all_cons, Fx.run_all_cons, Fx.run_all_cons, Fx.run_all_nil, Fx.run_andThen]

theorem write_stop {st : Nat} {collide : List Collision} (hd : s.delivers 0x02 i p = true) (hjob : p.job ≠ 0#16)
    (hclamp : s.clamped p.addr.toNat = false) (hstop : s.peerAccess i p true p.addr.toNat p.payload.length = .stop st) :
    exec (.write i ⟨p, collide⟩) s = .next ((answerPacket (answerPort i) p 0x11 st []).run
      (((takePacket i p).andThen (permissionEvent i p true)).run s)) := by
  refine (onPacket_next hd).trans ?_
  rw [if_neg hnode, if_neg hjob, if_neg (by simp [hclamp]), hstop]
  dsimp only
  rw [Fx.run_all_cons, Fx.run_all_cons, Fx.run_all_cons, Fx.run_all_nil, Fx.run_andThen]

end

/-- A packet is taken, and the event of a request that no context serves is raised. -/
theorem taken_refused (i : Nat) (p : Packet) (writes : Bool) : ((takePacket i p).andThen (permissionEvent i p writes)).Within Place.serving :=
  .andThen (serving_of_taken (takePacket_taken i p)) (serving_of_touched (raised_touched (permissionEvent_raised i p writes)))

theorem taken_refused_state {i : Nat} {p : Packet} {writes : Bool} {s t : State}
    (ht : ((takePacket i p).andThen (permissionEvent i p writes)).run s = t) :
    (t.link i).rx = (s.link i).rx.erase (p.vl, p) ∧ t.mem = s.mem ∧ t.ctxs = s.ctxs ∧ t.out = s.out := by
  have hperm := permissionEvent_raised i p writes
  have htake := takePacket_taken i p
  rw [Fx.run_andThen] at ht
  subst ht
  refine ⟨?_, ?_, ?_, ?_⟩
  · rw [hperm.linkRx_eq _ id, takePacket_erases]
  · rw [hperm.mem_eq _ id, htake.mem_eq s id]
  · rw [hperm.ctxs_eq (fun _ => id), htake.ctxs_eq (fun _ => id) s]
  · rw [hperm.out_eq _ id, htake.out_eq s id]

theorem mem_of_tableGet? {α : Type} {l : List (Nat × α)} {k : Nat} {v : α} (h : tableGet? l k = some v) : (k, v) ∈ l := by
  induction l with
  | nil => cases h
  | cons e l ih =>
    rw [tableGet?] at h
    split at h
    · next hk =>
      cases h
      exact hk ▸ List.mem_cons_self
    · exact List.mem_cons_of_mem _ (ih h)

/-- A write that meets no error reads no granule that it covers in part (R355). -/
theorem partialReads_clean {s : State} {key len : Nat} (h : s.mem.errorWords key len = []) : (partialReads key len).run s = s := by
  have hnone (g : Nat) (hlo : key / 64 ≤ g / 8) (hhi : 64 * (g / 8) < key + len) : (tableGet? s.mem.ecc g).isSome = false := by
    rw [Bool.eq_false_iff]
    intro hsome
    obtain ⟨v, hv⟩ := Option.isSome_iff_exists.mp hsome
    have hmem : g / 8 ∈ s.mem.errorWords key len := by
      refine List.mem_filter.mpr ⟨List.mem_eraseDups.mpr (List.mem_map.mpr ⟨(g, v), mem_of_tableGet? hv, rfl⟩), ?_⟩
      simp only [Bool.and_eq_true]
      exact ⟨decide_eq_true hlo, decide_eq_true hhi⟩
    rw [h] at hmem
    cases hmem
  rw [partialReads, Fx.run_look]
  dsimp only
  rw [show (((if key % 8 = 0 then [] else [key / 8]) ++ (if (key + len) % 8 = 0 then [] else [(key + len) / 8])).eraseDups).filter
    (fun g => (tableGet? s.mem.ecc g).isSome) = [] from List.filter_eq_nil_iff.mpr fun g hg => ?_]
  · rfl
  · rw [hnone g]
    · simp
    all_goals
      rcases List.mem_append.mp (List.mem_eraseDups.mp hg) with hg | hg <;> split at hg <;> simp at hg <;> omega

/-! ## Writes -/

/-- A write that a peer may make: it reads granules that it covers in part, and lands, with the collisions that come with it (R354, R355). -/
def peerWrite (key : Nat) (data : List Byte) (collide : List Collision) : Fx :=
  (partialReads key data.length).andThen ((Fx.memWrite key data).andThen (collisionsFx (wordsOf key data.length) collide))

/-- What a write touches. -/
def Place.landed (q : Place) : Prop := q.touched ∨ q = .data

theorem peerWrite_landed (key : Nat) (data : List Byte) (collide : List Collision) : (peerWrite key data collide).Within Place.landed :=
  .andThen ((partialReads_within touched_touches).mono fun _ => .inl) (.andThen (.memWrite (.inl trivial) (.inr rfl) (.inl trivial))
    (collisionsFx_within (.inl trivial) (.inr rfl) (.inl trivial) fun _ => .inl trivial))

theorem serving_of_landed {a : Fx} (h : a.Within Place.landed) : a.Within Place.serving := h.mono fun q hq => by
  rcases hq with hq | rfl
  · cases q <;> trivial
  · trivial

theorem peerWrite_run (key : Nat) (data : List Byte) (collide : List Collision) (s : State) : (peerWrite key data collide).run s =
    (collisionsFx (wordsOf key data.length) collide).run (((partialReads key data.length).run s).memWrite key data) := rfl

/-- A write that meets no error lets nothing out (R351), and lands as it is where no port-A write comes with it. -/
theorem peerWrite_clean {key : Nat} {data : List Byte} {collide : List Collision} {s : State} (h : s.mem.errorWords key data.length = []) :
    ((peerWrite key data collide).run s).out = s.out ∧ (collide = [] → ((peerWrite key data collide).run s).mem = s.mem.write key data) := by
  have hcollide : (collisionsFx (wordsOf key data.length) collide).Within (fun q => q ≠ .out) :=
    collisionsFx_within (by simp) (by simp) (by simp) (by simp)
  rw [peerWrite_run, partialReads_clean h]
  refine ⟨(hcollide.out_eq _ (by simp)).trans rfl, fun hnone => ?_⟩
  rw [hnone]
  rfl

section
variable {s : State} {i : Nat} {p : Packet} (hnode : s.hub.node ≠ 0xFFFF#16)
include hnode

theorem write_ok {collide : List Collision} (hd : s.delivers 0x02 i p = true) (hjob : p.job ≠ 0#16) (hclamp : s.clamped p.addr.toNat = false)
    (hok : s.peerAccess i p true p.addr.toNat p.payload.length = .ok) (hsound : p.aux.toNat % 256 = 0) :
    exec (.write i ⟨p, collide⟩) s = .next ((answerPacket (answerPort i) p 0x11 stOk []).run (((takePacket i p).andThen
      (permissionEvent i p true)).run ((peerWrite (localKey p.addr.toNat) p.payload collide).run s))) := by
  refine (onPacket_next hd).trans ?_
  rw [if_neg hnode, if_neg hjob, if_neg (by simp [hclamp]), hok]
  dsimp only
  rw [hsound, Fx.run_all_cons, Fx.run_all_cons, Fx.run_all_cons, Fx.run_all_cons, Fx.run_all_cons, Fx.run_all_cons, Fx.run_all_cons,
    Fx.run_all_nil, Fx.run_all_nil, Fx.run_andThen]
  rfl

theorem write_ok_state {collide : List Collision} (hd : s.delivers 0x02 i p = true) (hjob : p.job ≠ 0#16)
    (hclamp : s.clamped p.addr.toNat = false) (hok : s.peerAccess i p true p.addr.toNat p.payload.length = .ok)
    (hsound : p.aux.toNat % 256 = 0) : ∃ t, exec (.write i ⟨p, collide⟩) s = .next t ∧
      (s.mem.errorWords (localKey p.addr.toNat) p.payload.length = [] → t.out = s.out ∧
        (collide = [] → t.mem = s.mem.write (localKey p.addr.toNat) p.payload)) ∧
      t.mem = ((peerWrite (localKey p.addr.toNat) p.payload collide).run s).mem ∧
      Queued s t (answerPort i) (p.answer s.own 0x11 stOk []) ∧ (t.link i).rx = (s.link i).rx.erase (p.vl, p) ∧ t.ctxs = s.ctxs := by
  have hlands := peerWrite_landed (localKey p.addr.toNat) p.payload collide
  obtain ⟨hrx, hmem, hctxs, hout⟩ := taken_refused_state (i := i) (p := p) (writes := true)
    (s := (peerWrite (localKey p.addr.toNat) p.payload collide).run s) rfl
  obtain ⟨hqueued, hrx', hmem', hctxs', hout'⟩ := answer_state ((serving_of_landed hlands).andThen (taken_refused i p true)) hnode
    (port := answerPort i) (ptype := 0x11) (aux := stOk) (p := p) (payload := []) rfl
  refine ⟨_, write_ok hnode hd hjob hclamp hok hsound, fun hclean => ?_, hmem'.trans hmem, hqueued, ?_, ?_⟩
  · obtain ⟨hquiet, hplain⟩ := peerWrite_clean (collide := collide) hclean
    exact ⟨hout'.trans (hout.trans hquiet), fun hnone => (hmem'.trans hmem).trans (hplain hnone)⟩
  · refine (hrx' i).trans (hrx.trans ?_)
    rw [hlands.linkRx_eq s (by simp [Place.landed, Place.touched])]
  · exact hctxs'.trans (hctxs.trans (hlands.ctxs_eq (by simp [Place.landed, Place.touched]) s))

end

/-! ## Accumulate-writes -/

/-- A link that no longer stages the tile that a packet belongs to. -/
def Link.unstaged (p : Packet) (l : Link) : Link := { l with acc := l.acc.filter (fun a => !a.takes p) }

/-- A packet is taken, and the link's staged tiles change. -/
def takeStaged (i : Nat) (p : Packet) (f : Link → Link) : Fx := (takePacket i p).andThen (Fx.link i f)

theorem takeStaged_taken {i : Nat} {p : Packet} {f : List AccStage → List AccStage} :
    (takeStaged i p (fun l => { l with acc := f l.acc })).Within (Place.taken i) :=
  .andThen (takePacket_taken i p) (.link trivial)

section
variable {s : State} {i : Nat} {p : Packet} (hnode : s.hub.node ≠ 0xFFFF#16)
include hnode

/-- The first packet of a tile is kept (R403). -/
theorem accWrite_first {bad : List Nat} (hd : s.delivers 0x03 i p = true) (hidx : p.aux.toNat / 256 = 0)
    (hlen : p.payload.length < slotBytes 0x18) : exec (.accWrite i ⟨p, bad⟩) s = .next ((takeStaged i p (fun l =>
      { l with acc := l.acc.filter (fun a => !a.takes p) ++ [(AccStage.start p).more p] })).run s) := by
  refine (onPacket_next hd).trans ?_
  rw [if_neg hnode, if_pos hidx]
  dsimp only
  rw [if_neg (by simp [AccStage.start, hidx]), if_pos (by simpa [AccStage.start, AccStage.more] using hlen)]
  rfl

/-- The last packet of a tile: the tile is whole (R403). -/
theorem accWrite_last {a : AccStage} {bad : List Nat} (hd : s.delivers 0x03 i p = true) (hidx : p.aux.toNat / 256 ≠ 0)
    (hfind : (s.link i).acc.find? (fun a => a.takes p) = some a) (hnext : a.next = p.aux.toNat / 256)
    (hlen : slotBytes 0x18 ≤ (a.more p).bytes.length) (hclamp : s.clamped a.addr = false)
    (hok : s.peerAccess i p true a.addr (slotBytes 0x18) = .ok) : exec (.accWrite i ⟨p, bad⟩) s = .next
      ((finishAcc i p (a.more p) bad).run ((takeStaged i p (Link.unstaged p)).run s)) := by
  refine (onPacket_next hd).trans ?_
  rw [if_neg hnode, if_neg hidx, hfind]
  dsimp only
  rw [if_neg (by simp [hnext]), if_neg (by simpa using hlen), if_neg (by simp [AccStage.more, hclamp]),
    if_neg (by simp [AccStage.more, hok]), Fx.run_all_cons, Fx.run_all_cons, Fx.run_all_cons, Fx.run_all_nil]
  rfl

end

section
variable {s u : State} (h : SameWays s u) (hctxs : u.ctxs = s.ctxs) (hsets : ∀ f, (u.field f).sets = (s.field f).sets)
  (hstack : ∀ k, u.stack k = s.stack k)
include h hsets hstack

theorem access_congr (space off len : Nat) : u.access space off len = s.access space off len := by
  simp only [State.access, h.grade, h.shut, hsets, hstack]

include hctxs in
theorem peerAccess_congr (i : Nat) (p : Packet) (writes : Bool) (ga len : Nat) :
    u.peerAccess i p writes ga len = s.peerAccess i p writes ga len := by
  have hserves : u.serves p.job.toNat writes = s.serves p.job.toNat writes := by simp only [State.serves, State.ctx, hctxs]
  simp only [State.peerAccess, hserves, access_congr h hsets hstack, h.crosses]

omit hsets in
theorem accumulateAt_congr (hmem : u.mem = s.mem) (i : Nat) (a : AccStage) (bad : List Nat) :
    accumulateAt u i a bad = accumulateAt s i a bad := by
  have hpc (off : Nat) : u.pcOf off = s.pcOf off := by simp only [State.pcOf, hstack]
  have hplace (space off : Nat) : u.placeOf space off = s.placeOf space off := by simp only [State.placeOf, hpc]
  simp only [accumulateAt, h.own, hplace, hmem]

end

/-- Taking a packet and a staged tile leaves what an access meets. -/
theorem takeStaged_same {s u : State} {i : Nat} {p : Packet} (hu : (takeStaged i p (Link.unstaged p)).run s = u) :
    SameWays s u ∧ u.ctxs = s.ctxs ∧ (∀ f, (u.field f).sets = (s.field f).sets) ∧ (∀ k, u.stack k = s.stack k) ∧ u.mem = s.mem ∧ u.out = s.out := by
  have htake : (takeStaged i p (Link.unstaged p)).Within (Place.taken i) := takeStaged_taken (f := List.filter (fun a => !a.takes p))
  subst hu
  exact ⟨(serving_of_taken htake).sameWays s, htake.ctxs_eq (fun _ => id) s, fun f => (congrArg Field.sets (htake.fieldFrame_eq s (i := f) id) :),
    fun k => htake.stack_eq s id, htake.mem_eq s id, htake.out_eq s id⟩

theorem touchRange_clean {key len : Nat} {s : State} (h : s.mem.errorWords key len = []) : (touchRange key len).run s = s := by
  rw [touchRange, Fx.run_look, h, Fx.run_each_nil]

/-- A whole tile whose sum is sound lands, is reported, and answered (R97, R263). -/
theorem finishAcc_run {u : State} {i : Nat} {p : Packet} {a : AccStage} {bad : List Nat} {new : AccTile}
    (hok : u.peerAccess i p true a.addr (slotBytes 0x18) = .ok) (hclean : u.mem.errorWords (localKey a.addr) (slotBytes 0x18) = [])
    (hnew : accumulateAt u i a bad = .ok new) : ∃ b : Fx, b.Within Place.raised ∧ (finishAcc i p a bad).run u =
      (answerPacket (answerPort i) p 0x11 (if new.poison then stPoisoned else stOk) []).run (b.run (u.memWrite (localKey a.addr) new.slot)) := by
  refine ⟨(Fx.each (accFaults (i / 4) new.faults) (fun v => raise v.src v.cls v.code none v.p0 v.p1 0)).andThen (permissionEvent i p true),
    .andThen (.each fun _ => raise_within trivial trivial fun _ => trivial) (permissionEvent_raised i p true), ?_⟩
  rw [finishAcc, Fx.run_look, hok]
  dsimp only
  rw [hnew]
  dsimp only
  rw [Fx.run_all_cons, Fx.run_all_cons, Fx.run_all_cons, Fx.run_all_cons, Fx.run_all_nil, touchRange_clean hclean, Fx.run_memWrite,
    Fx.run_andThen, Fx.run_andThen]

/-- A SIGNAL that finds its counter (R263). -/
theorem signalPacket_next {s : State} {i : Nat} {p : Packet} (hnode : s.hub.node ≠ 0xFFFF#16) (hd : s.delivers 0x04 i p = true) {c n : Nat}
    (htarget : s.signalTarget p = some (c, n)) : exec (.signalPacket i p) s = .next ((answerPacket (answerPort i) p 0x12 stOk []).run
      (((takePacket i p).andThen (addSync c n (BitVec.ofNat 32 (Machine.field p.payload 4 4)))).run s)) := by
  refine (onPacket_next hd).trans ?_
  rw [if_neg hnode, htarget]
  dsimp only
  rw [Fx.run_all_cons, Fx.run_all_cons, Fx.run_all_cons, Fx.run_all_nil, Fx.run_andThen]

theorem addSync_ctxs (c n : Nat) (v : U32) (s : State) : ((addSync c n v).run s).ctxs =
    s.ctxs.modify c (fun x => Ctx.wake s.now { x with sync := x.sync.modify n (fun k => k + v) }) := rfl

/-- Settles O37: a request is taken, has its effect, and its answer joins the queue of its output. -/
theorem peerRequests : Obligations.PeerRequests := by
  unfold Obligations.PeerRequests
  refine fun s i p hnode => ⟨fun row hrow hd hjob hclamp => ?_, fun hd hclamp hok hsize hclean => ?_, fun st hd _ hclamp hstop => ?_,
    fun collide hd hjob hclamp hok hsound => write_ok_state hnode hd hjob hclamp hok hsound, fun st collide hd hjob _ hclamp hstop => ?_,
    fun a new bad hd hidx hfind hnext hlen hclamp hok hclean hnew => ?_, fun bad hd hidx hlen hi => ?_, fun c n hd htarget => ?_⟩
  · have htake := takePacket_taken i p
    refine ⟨(takePacket i p).run s, ?_, takePacket_erases, fun j => htake.linkInject_eq s id, htake.mem_eq s id, htake.ctxs_eq (fun _ => id) s,
      htake.out_eq s id⟩
    simp only [List.mem_cons, List.not_mem_nil, or_false] at hrow
    rcases hrow with rfl | rfl
    · exact readReq_clamped hnode hd hclamp
    · exact write_clamped hnode hd (hjob.resolve_left (show ¬ (0x02 : Nat) = 0x01 by decide)) hclamp
  · have htake := takePacket_taken i p
    obtain ⟨hqueued, hrx, hmem, hctxs, hout⟩ := answer_state (serving_of_taken htake) hnode (port := answerPort i) (ptype := 0x10) (p := p)
      (aux := s.mem.poisonBits (localKey p.addr.toNat) p.aux.toNat) (payload := s.mem.readOut (localKey p.addr.toNat) p.aux.toNat) rfl
    exact ⟨_, readReq_ok hnode hd hclamp hok hsize hclean, hqueued, (hrx i).trans takePacket_erases, hmem.trans (htake.mem_eq s id),
      hctxs.trans (htake.ctxs_eq (fun _ => id) s), hout.trans (htake.out_eq s id)⟩
  · obtain ⟨hqueued, hrx, hmem, hctxs, hout⟩ := answer_state (taken_refused i p false) hnode (s := s) (port := answerPort i) (ptype := 0x10)
      (aux := st) (p := p) (payload := []) rfl
    obtain ⟨hrx', hmem', hctxs', -⟩ := taken_refused_state (i := i) (p := p) (writes := false) (s := s) rfl
    exact ⟨_, readReq_stop hnode hd hclamp hstop, hqueued, (hrx i).trans hrx', hmem.trans hmem', hctxs.trans hctxs'⟩
  · obtain ⟨hqueued, hrx, hmem, hctxs, hout⟩ := answer_state (taken_refused i p true) hnode (s := s) (port := answerPort i) (ptype := 0x11)
      (aux := st) (p := p) (payload := []) rfl
    obtain ⟨hrx', hmem', hctxs', -⟩ := taken_refused_state (i := i) (p := p) (writes := true) (s := s) rfl
    exact ⟨_, write_stop hnode hd hjob hclamp hstop, hmem.trans hmem', hqueued, hctxs.trans hctxs'⟩
  · have hnext' := accWrite_last hnode (bad := bad) hd hidx hfind hnext hlen hclamp hok
    obtain ⟨hways, hctxs, hsets, hstack, hmem, hout⟩ := takeStaged_same (s := s) (i := i) (p := p) rfl
    obtain ⟨b, hb, hrun⟩ := finishAcc_run (a := a.more p) (bad := bad) (new := new)
      ((peerAccess_congr hways hctxs hsets hstack i p true a.addr (slotBytes 0x18)).trans hok) (by rw [hmem]; exact hclean)
      ((accumulateAt_congr hways hstack hmem i (a.more p) bad).trans hnew)
    have hall : (((takeStaged i p (Link.unstaged p)).andThen (Fx.memWrite (localKey a.addr) new.slot)).andThen b).Within Place.serving :=
      .andThen (.andThen (serving_of_taken (takeStaged_taken (f := List.filter (fun a => !a.takes p)))) (.memWrite trivial trivial trivial))
        (serving_of_touched (raised_touched hb))
    obtain ⟨hqueued, hrx, hmem', hctxs', hout'⟩ := answer_state hall hnode (s := s) (port := answerPort i) (ptype := 0x11)
      (aux := if new.poison then stPoisoned else stOk) (p := p) (payload := []) rfl
    refine ⟨_, hnext'.trans (congrArg _ hrun), hmem'.trans ((hb.mem_eq _ id).trans ?_), hqueued, hctxs'.trans ((hb.ctxs_eq (fun _ => id) _).trans hctxs),
      hout'.trans ((hb.out_eq _ id).trans hout)⟩
    exact congrArg (fun m : Mem => m.write (localKey a.addr) new.slot) hmem
  · have htake : (takeStaged i p (fun l => { l with acc := l.acc.filter (fun a => !a.takes p) ++ [(AccStage.start p).more p] })).Within
        (Place.taken i) := takeStaged_taken (f := fun l => l.filter (fun a => !a.takes p) ++ [(AccStage.start p).more p])
    refine ⟨_, accWrite_first hnode hd hidx hlen, ?_, htake.mem_eq s id, htake.ctxs_eq (fun _ => id) s⟩
    rw [takeStaged, Fx.run_andThen, Fx.run_link, State.link_modLink _ _ _ (((takePacket i p).run_lengths s).2.2.2.1.symm ▸ hi)]
    exact List.mem_append_right _ (List.mem_singleton.mpr rfl)
  · have htake := takePacket_taken i p
    obtain ⟨hqueued, hrx, hmem, hctxs, hout⟩ := answer_state (a := (takePacket i p).andThen (addSync c n (BitVec.ofNat 32
      (Machine.field p.payload 4 4)))) (.andThen (serving_of_taken htake) (addSync_within trivial)) hnode (s := s) (port := answerPort i)
      (ptype := 0x12) (aux := stOk) (p := p) (payload := []) rfl
    refine ⟨_, signalPacket_next hnode hd htarget, hmem.trans (htake.mem_eq s id), hctxs.trans ?_, hqueued, hout.trans (htake.out_eq s id)⟩
    rw [Fx.run_andThen, addSync_ctxs, htake.ctxs_eq (fun _ => id) s, htake.now_eq s id]

end Sys2Proof.Machine

/-! Proofs about packets that leave on an output link (R395, R398, R400, R408, R413 to R415, R446). -/
namespace Sys2Proof.Machine
set_option Elab.async false -- the side conditions of the frames below are elaborated in place, not each in a thread of its own

/-! ## Bodies of flits (R400) -/

/-- Bytes cut into the bodies that they fill: each has 240 bytes, and with the rest they are those bytes. -/
theorem flitBodies_full (n : Nat) (bs : List Byte) (h : bs.length / 240 ≤ n) :
    ((flitBodies n bs).take (bs.length / 240)).length = bs.length / 240 ∧
    (∀ b ∈ (flitBodies n bs).take (bs.length / 240), b.length = 240) ∧
    ((flitBodies n bs).take (bs.length / 240)).flatten ++ bs.drop (240 * (bs.length / 240)) = bs := by
  induction n generalizing bs with
  | zero =>
    rw [show bs.length / 240 = 0 by omega]
    simp
  | succ n ih =>
    by_cases hshort : bs.length < 240
    · rw [Nat.div_eq_of_lt hshort]
      simp
    · have hdrop : (bs.drop 240).length / 240 = bs.length / 240 - 1 := by
        rw [List.length_drop]
        omega
      obtain ⟨hlen, hall, hflat⟩ := ih (bs.drop 240) (by omega)
      rw [hdrop] at hlen hall hflat
      have hne : bs.isEmpty = false := by
        cases bs with
        | nil => simp at hshort
        | cons b l => rfl
      obtain ⟨k, hk⟩ : ∃ k, bs.length / 240 = k + 1 := ⟨bs.length / 240 - 1, by omega⟩
      rw [hk, Nat.add_sub_cancel] at hlen hall hflat
      rw [hk, flitBodies, if_neg (by simp [hne]), List.take_succ_cons]
      refine ⟨by rw [List.length_cons, hlen], List.forall_mem_cons.mpr ⟨by rw [List.length_take]; omega, hall⟩, ?_⟩
      rw [List.flatten_cons, List.append_assoc, show 240 * (k + 1) = 240 + 240 * k by omega, ← List.drop_drop, hflat, List.take_append_drop]

theorem padTo_full {n : Nat} {bs : List Byte} (h : bs.length = n) : padTo n bs = bs := by simp [padTo, h]

/-! ## Flits that leave -/

/-- What an output's flits leave of its link: what waits at its inputs, the block that leaves, and the body that has begun. -/
structure SameQueues (l k : Link) : Prop where
  inject : k.inject = l.inject
  rx : k.rx = l.rx
  leaving : k.leaving = l.leaving
  part : k.txPart = l.txPart
  credits : ∀ v, (k.vls.getD v (Vl.reset 0)).credits = (l.vls.getD v (Vl.reset 0)).credits

theorem SameQueues.refl (l : Link) : SameQueues l l := ⟨rfl, rfl, rfl, rfl, fun _ => rfl⟩

theorem SameQueues.trans {l k m : Link} (h : SameQueues l k) (g : SameQueues k m) : SameQueues l m :=
  ⟨g.inject.trans h.inject, g.rx.trans h.rx, g.leaving.trans h.leaving, g.part.trans h.part, fun v => (g.credits v).trans (h.credits v)⟩

theorem credits_getD (l : List Vl) (v : Nat) : (l.getD v (Vl.reset 0)).credits = (l.map Vl.credits).getD v (Vl.reset 0).credits :=
  (List.getD_map ..).symm

theorem credits_modify {f : Vl → Vl} (hf : ∀ x, (f x).credits = x.credits) (l : List Vl) (k : Nat) :
    (l.modify k f).map Vl.credits = l.map Vl.credits := by
  refine List.ext_getElem (by simp) fun i _ _ => ?_
  simp only [List.getElem_map, List.getElem_modify]
  split
  · exact hf _
  · rfl

theorem credits_freed (l : List Vl) :
    ((l.zip (l.map (fun x => min 255 x.freed))).map (fun p => { p.1 with freed := p.1.freed - p.2 })).map Vl.credits = l.map Vl.credits := by
  induction l with
  | nil => rfl
  | cons x l ih =>
    rw [List.map_cons, List.zip_cons_cons, List.map_cons, List.map_cons, ih]
    rfl

/-- Announcements take no credits of the sender (R408 to R410). -/
theorem announced_queues (l : Link) : SameQueues l l.announced := by
  refine ⟨rfl, rfl, rfl, rfl, fun v => ?_⟩
  simp only [credits_getD]
  congr 1
  simp only [Link.announced, Link.announce]
  split
  · exact credits_freed _
  · refine (credits_modify (fun _ => ?_) _ _).trans (credits_freed _)
    rfl

/-- A link whose next flit has left. -/
def Link.pushed (ftype : Nat) (first : Byte) (body : List Byte) (l : Link) : Link :=
  { l.announced with txSeq := l.txSeq + 1#12, replay := l.replay ++ [l.nextFlit ftype first body] }

theorem pushed_queues (ftype : Nat) (first : Byte) (body : List Byte) (l : Link) : SameQueues l (l.pushed ftype first body) := by
  have h := announced_queues l
  exact ⟨h.inject, h.rx, h.leaving, h.part, h.credits⟩

section
variable {i : Nat} {s : State}

theorem pushFlit_link (hi : i < s.links.length) (ftype : Nat) (first : Byte) (body : List Byte) :
    ((pushFlit i ftype first body).run s).link i = (s.link i).pushed ftype first body := by
  rw [pushFlit, Fx.run_look]
  dsimp only
  rw [Fx.run_andThen, Fx.run_link, Fx.run_emit, State.link_emit, State.link_modLink _ _ _ hi]
  rfl

/-- Bodies that leave one after the other follow in the replay buffer (R398). -/
theorem each_pushFlit {α : Type} (l : List α) (first : α → Byte) (body : α → List Byte) (hi : i < s.links.length) : ∃ fs,
    (((Fx.each l (fun b => pushFlit i 0 (first b) (body b))).run s).link i).replay = (s.link i).replay ++ fs ∧
    fs.map Flit.body = l.map (fun b => padTo 240 (body b)) ∧
    SameQueues (s.link i) (((Fx.each l (fun b => pushFlit i 0 (first b) (body b))).run s).link i) := by
  induction l generalizing s with
  | nil => exact ⟨[], (List.append_nil _).symm, rfl, .refl _⟩
  | cons b l ih =>
    have hpush := pushFlit_link hi 0 (first b) (body b)
    have hlen := ((pushFlit i 0 (first b) (body b)).run_lengths s).2.2.2.1
    obtain ⟨u, hu⟩ : ∃ u, (pushFlit i 0 (first b) (body b)).run s = u := ⟨_, rfl⟩
    rw [hu] at hpush hlen
    obtain ⟨fs, hreplay, hbodies, hqueues⟩ := ih (s := u) (hlen.symm ▸ hi)
    rw [Fx.run_each_cons, hu]
    refine ⟨(s.link i).nextFlit 0 (first b) (body b) :: fs, ?_, ?_, (hpush ▸ pushed_queues 0 (first b) (body b) (s.link i)).trans hqueues⟩
    · rw [hreplay, hpush, Link.pushed, List.append_assoc]
      rfl
    · rw [List.map_cons, List.map_cons, hbodies]
      rfl

/-- What flits that leave touch. -/
def Place.flits (i : Nat) : Place → Prop
  | .out | .books => True
  | .link j | .linkTx j => j = i
  | _ => False

/-- A packet's bytes follow those of the packets before it, end to end (R400). -/
theorem sendPacketFlits_link {q : Packet} (hi : i < s.links.length) (hpart : (s.link i).txPart.length < 240) (hlen : q.payload.length ≤ 512)
    {t : State} (ht : (sendPacketFlits i q).run s = t) : (∃ fs, (t.link i).replay = (s.link i).replay ++ fs ∧ (∀ f ∈ fs, f.body.length = 240) ∧
      (fs.map Flit.body).flatten ++ (t.link i).txPart = (s.link i).txPart ++ q.bytes ∧ (t.link i).txPart.length < 240) ∧
      (t.link i).inject = (s.link i).inject ∧ (t.link i).rx = (s.link i).rx ∧ (t.link i).leaving = (s.link i).leaving ∧
      ∀ v, ((t.link i).vls.getD v (Vl.reset 0)).credits = ((s.link i).vls.getD v (Vl.reset 0)).credits := by
  have hbytes : ((s.link i).packed q).length / 240 ≤ 4 := by
    have : q.bytes.length = 32 + q.payload.length := by
      simp [Packet.bytes, packet_fields_length]
      omega
    rw [Link.packed, List.length_append, this]
    omega
  obtain ⟨hcount, hfull, hflat⟩ := flitBodies_full 4 ((s.link i).packed q) hbytes
  rw [sendPacketFlits, Fx.run_look] at ht
  dsimp only at ht
  obtain ⟨fs, hreplay, hbodies, hqueues⟩ := each_pushFlit (((s.link i).fullBodies q).zip (List.range ((s.link i).fullBodies q).length))
    (fun b => if b.2 = 0 then (s.link i).firstWith else 0xFF#8) (fun b => b.1) hi
  have hlinks := (Fx.each (((s.link i).fullBodies q).zip (List.range ((s.link i).fullBodies q).length))
    (fun b => pushFlit i 0 (if b.2 = 0 then (s.link i).firstWith else 0xFF#8) b.1)).run_lengths s |>.2.2.2.1
  obtain ⟨u, hu⟩ : ∃ u, (Fx.each (((s.link i).fullBodies q).zip (List.range ((s.link i).fullBodies q).length))
    (fun b => pushFlit i 0 (if b.2 = 0 then (s.link i).firstWith else 0xFF#8) b.1)).run s = u := ⟨_, rfl⟩
  rw [Fx.run_andThen, hu, Fx.run_link] at ht
  rw [hu] at hreplay hqueues hlinks
  have hself : t.link i = (u.link i).sent q := ht ▸ State.link_modLink u i _ (hlinks.symm ▸ hi)
  have hpacked : (u.link i).packed q = (s.link i).packed q := by rw [Link.packed, hqueues.part, Link.packed]
  have hmap : fs.map Flit.body = (s.link i).fullBodies q := by
    have hpad : ∀ b ∈ ((s.link i).fullBodies q).zip (List.range ((s.link i).fullBodies q).length), padTo 240 b.1 = b.1 := fun b hb =>
      padTo_full (hfull b.1 (List.of_mem_zip hb).1)
    rw [hbodies, List.map_congr_left hpad]
    exact List.map_fst_zip (by simp)
  rw [hself]
  refine ⟨⟨fs, hreplay, fun f hf => hfull _ ?_, ?_, ?_⟩, hqueues.inject, hqueues.rx, hqueues.leaving, hqueues.credits⟩
  · exact (hmap ▸ List.mem_map_of_mem hf : f.body ∈ (s.link i).fullBodies q)
  · rw [hmap]
    simp only [Link.sent, hpacked]
    exact hflat
  · simp only [Link.sent, hpacked, List.length_drop]
    omega

end

/-! ## A packet leaves its input -/

/-- The sender's credits of a link, lane by lane. -/
def State.creditsOf (s : State) (i : Nat) : List Nat := (s.link i).vls.map Vl.credits

/-- A change of a lane that leaves its credits. -/
theorem onVl_creditsOf {i j v : Nat} {f : Vl → Vl} (hf : ∀ x, (f x).credits = x.credits) : (onVl j v f).Fixes (fun s => s.creditsOf i) :=
  fun s => by
  have hset : ((s.link j).vls.set v (f ((s.link j).vls.getD v (Vl.reset 0)))).map Vl.credits = (s.link j).vls.map Vl.credits := by
    refine List.ext_getElem (by simp) fun k hk _ => ?_
    simp only [List.getElem_map, List.getElem_set]
    split
    · next h =>
      subst h
      have hlt : v < (s.link j).vls.length := by simpa using hk
      rw [hf, List.getD_eq_getElem _ _ hlt]
    · rfl
  rw [onVl, Fx.run_look, Fx.run_andThen, Fx.run_link, Fx.run_field]
  simp only [State.creditsOf, State.link_modField]
  rcases State.link_modLink_cases s j i (fun l => { l with vls := l.vls.set v (f ((s.link j).vls.getD v (Vl.reset 0))) }) with e | ⟨rfl, e⟩
  · rw [e]
  · rw [e]
    exact hset

theorem Vl.release1_credits (v n : Nat) (x : Vl) : (Vl.release1 v n x).credits = x.credits := by
  simp only [Vl.release1]
  split_ifs <;> rfl

theorem returnUnits_creditsOf {i j v n : Nat} : (returnUnits j v n).Fixes (fun s => s.creditsOf i) :=
  .andThen (onVl_creditsOf (Vl.release1_credits v n)) (.look fun _ => .when (by
    split
    · exact onVl_creditsOf fun _ => rfl
    · exact .skip))

/-- A change of a link that leaves its lanes. -/
theorem link_creditsOf {i j : Nat} {f : Link → Link} (hf : ∀ l, (f l).vls = l.vls) : (Fx.link j f).Fixes (fun s => s.creditsOf i) := fun s => by
  rw [Fx.run_link]
  simp only [State.creditsOf]
  rcases State.link_modLink_cases s j i f with e | ⟨rfl, e⟩ <;> rw [e]
  rw [hf]

theorem takePacket_creditsOf {i j : Nat} {p : Packet} : (takePacket j p).Fixes (fun s => s.creditsOf i) :=
  .look fun _ => .ite (.andThen (link_creditsOf fun _ => rfl) returnUnits_creditsOf) (.when fun _ => rfl)

theorem leaveInput_creditsOf {i j k : Nat} {p : Packet} : (leaveInput k j p).Fixes (fun s => s.creditsOf i) := by
  unfold leaveInput
  exact .ite takePacket_creditsOf (link_creditsOf fun _ => rfl)

/-- What a packet that leaves its input touches. -/
def Place.leaves : Place → Prop
  | .hub | .ctx _ | .field _ | .link _ | .linkRx _ | .linkInject _ | .linkEntries _ => True
  | _ => False

theorem leavePacket_leaves (i v j : Nat) (p : Packet) : (leavePacket i v j p).Within Place.leaves :=
  leavePacket_within trivial (fun _ => trivial) (fun _ => trivial) (fun _ => trivial) trivial trivial fun _ => trivial

/-- A packet whose credits are its own leaves its input (R408). -/
theorem leavePacket_unpaid {s : State} {i v j : Nat} {p : Packet} (h : (s.link i).pays i v j p = false) : (leavePacket i v j p).run s =
    (Fx.when (p.ptype = 0x01#8 && decide (32 ≤ j)) (startDescriptor p.tag)).run ((leaveInput i j p).run s) := by
  rw [leavePacket, Fx.run_look, h]
  rfl

/-- A packet of the block that leaves, with more behind it (R446). -/
theorem leavePacket_paid {s : State} {i v j : Nat} {p : Packet} (h : (s.link i).pays i v j p = true) {b : Leaving}
    (hb : (s.link i).leaving = some b) (hmore : 1 < b.packets.length) :
    (leavePacket i v j p).run s = s.modLink i (fun l => { l with leaving := some { b with packets := b.packets.drop 1 } }) := by
  rw [leavePacket, Fx.run_look, h, if_pos rfl, hb]
  dsimp only
  rw [if_pos hmore, Fx.run_link]

/-! ## The output -/

section
variable {s : State} {i : Nat}

theorem packetForward_idle (hup : (s.link i).state = 2 ∨ (s.link i).state = 5)
    (hnone : (s.link i).vlOrder.findSome? (fun v => (s.offer i v).map (fun q => (v, q))) = none) :
    exec (.packetForward i) s = .next ((fillSlot i).run s) := by
  have hcarries : (s.link i).carries = true := by
    rcases hup with h | h <;> simp [Link.carries, h]
  change execPacketForward i s = _
  rw [execPacketForward, Fx.outcome_eq]
  dsimp only
  rw [if_pos hcarries, hnone]
  dsimp only
  rw [Fx.run_when, if_pos hcarries]

/-- What an output does before its packet's flits leave. -/
def leaveOutput (i v j : Nat) (p : Packet) (paid : Bool) : Fx :=
  (leavePacket i v j p).andThen ((Fx.link i (Link.granted v j)).andThen
    (Fx.when (!paid) (onVl i v (fun x => { x with credits := x.credits - p.units }))))

theorem packetForward_next {v j : Nat} {p q : Packet} (hup : (s.link i).state = 2)
    (hsome : (s.link i).vlOrder.findSome? (fun v => (s.offer i v).map (fun q => (v, q))) = some (v, j, p)) (hhops : p.hops.toNat < 63)
    (hblank : s.blankLink i = false) (hq : Packet.sealed { p with hops := p.hops + 1#8 } = q)
    (hroom : (s.link i).replay.length + ((s.link i).txPart.length + q.bytes.length) / 240 ≤ 1024) :
    exec (.packetForward i) s = .next ((sendPacketFlits i q).run ((leaveOutput i v j p ((s.link i).pays i v j p)).run s)) := by
  have hcarries : (s.link i).carries = true := by simp [Link.carries, hup]
  have hfull : ((s.link i).fullBodies q).length ≤ ((s.link i).txPart.length + q.bytes.length) / 240 := by
    rw [Link.fullBodies, List.length_take, Link.packed, List.length_append]
    exact min_le_left _ _
  change execPacketForward i s = _
  rw [execPacketForward, Fx.outcome_eq]
  dsimp only
  rw [if_pos hcarries, hsome]
  dsimp only
  rw [if_neg (by omega), if_neg (by simp [hblank]), hq, if_neg (by omega), Fx.run_all_cons, Fx.run_all_cons, Fx.run_all_cons, Fx.run_all_cons,
    Fx.run_all_nil, leaveOutput, Fx.run_andThen, Fx.run_andThen]

theorem leaveOutput_leaves (v j : Nat) (p : Packet) (paid : Bool) : (leaveOutput i v j p paid).Within Place.leaves :=
  .andThen (leavePacket_leaves i v j p) (.andThen (.link trivial) (.when (onVl_within trivial trivial (.inr fun _ => le_rfl))))

/-- The arbiter's pointers leave what stands at the inputs. -/
theorem granted_link (hi : i < s.links.length) (v j : Nat) : ((Fx.link i (Link.granted v j)).run s).link i = (s.link i).granted v j := by
  rw [Fx.run_link, State.link_modLink _ _ _ hi]

/-- A packet that pays its credits leaves its input (R408, R413 to R415). -/
theorem leaveOutput_unpaid (hi : i < s.links.length) {v j : Nat} (hvls : (s.link i).vls.length = 4) (hv : v < 4) {p : Packet}
    (hpays : (s.link i).pays i v j p = false) {u : State} (hu : (leaveOutput i v j p false).run s = u) :
    ((u.link i).vls.getD v (Vl.reset 0)).credits = ((s.link i).vls.getD v (Vl.reset 0)).credits - p.units ∧
      (32 ≤ j → (u.link i).inject = (s.link i).inject.erase (j, p)) ∧
      (j < 32 → p.vl = v → (u.link j).rx = (s.link j).rx.erase (v, p)) ∧ u.mem = s.mem ∧ u.ctxs = s.ctxs := by
  rw [leaveOutput, Fx.run_andThen, leavePacket_unpaid hpays, ← Fx.run_andThen] at hu
  have hinput : (leaveInput i j p).Within (fun q => q = .hub ∨ (∃ f, q = .field f) ∨ (∃ k, q = .link k) ∨ q = .linkRx j ∨ q = .linkInject i) :=
    leaveInput_within (by simp) (by simp) (by simp) (by simp) (by simp)
  have hcredits := leaveInput_creditsOf (i := i) (k := i) (j := j) (p := p) s
  have hlinks := (leaveInput i j p).run_lengths s |>.2.2.2.1
  have hrx (h : j < 32) : (((leaveInput i j p).run s).link j).rx = (s.link j).rx.erase (p.vl, p) := by
    rw [leaveInput, if_pos h, takePacket_erases]
  have hinject (h : 32 ≤ j) : (((leaveInput i j p).run s).link i).inject = (s.link i).inject.erase (j, p) := by
    rw [leaveInput, if_neg (by omega), Fx.run_link, State.link_modLink _ _ _ hi]
  have hmem := hinput.mem_eq s (by simp)
  have hctxs := hinput.ctxs_eq (by simp) s
  obtain ⟨w, hw⟩ : ∃ w, (leaveInput i j p).run s = w := ⟨_, rfl⟩
  rw [hw] at hcredits hlinks hrx hinject hmem hctxs hu
  have hrest : ((Fx.when (p.ptype = 0x01#8 && decide (32 ≤ j)) (startDescriptor p.tag)).andThen ((Fx.link i (Link.granted v j)).andThen
      (Fx.when (!false) (onVl i v (fun x => { x with credits := x.credits - p.units }))))).Within
      (fun q => (∃ f, q = .field f) ∨ q = .link i) :=
    .andThen (.when (startDescriptor_within (by simp))) (.andThen (.link (by simp)) (.when (onVl_within (by simp) (by simp)
      (.inr fun _ => le_rfl))))
  have hstart : (Fx.when (p.ptype = 0x01#8 && decide (32 ≤ j)) (startDescriptor p.tag)).Within (fun q => ∃ f, q = .field f) :=
    .when (startDescriptor_within (by simp))
  refine ⟨?_, fun h => ?_, fun h hvl => ?_, ?_, ?_⟩
  · have hmap : (w.link i).vls.map Vl.credits = (s.link i).vls.map Vl.credits := hcredits
    have hwlen : (w.link i).vls.length = 4 := by
      have := congrArg List.length hmap
      rwa [List.length_map, List.length_map, hvls] at this
    have hwlink := hstart.link_eq w (i := i) (by simp)
    have hxlinks := (Fx.when (p.ptype = 0x01#8 && decide (32 ≤ j)) (startDescriptor p.tag)).run_lengths w |>.2.2.2.1
    rw [Fx.run_andThen, Fx.run_andThen] at hu
    obtain ⟨x, hx⟩ : ∃ x, (Fx.when (p.ptype = 0x01#8 && decide (32 ≤ j)) (startDescriptor p.tag)).run w = x := ⟨_, rfl⟩
    rw [hx] at hu hwlink hxlinks
    have hix : i < x.links.length := by rw [hxlinks, hlinks]; exact hi
    have hgrant := granted_link hix v j
    have hylinks := (Fx.link i (Link.granted v j)).run_lengths x |>.2.2.2.1
    obtain ⟨y, hy⟩ : ∃ y, (Fx.link i (Link.granted v j)).run x = y := ⟨_, rfl⟩
    rw [hy] at hu hgrant hylinks
    have hyvls : (y.link i).vls = (w.link i).vls := by rw [hgrant, hwlink]; rfl
    rw [Bool.not_false, Fx.run_when, if_pos rfl] at hu
    obtain ⟨hself, -, -, -⟩ := onVl_link (s := y) (v := v) (f := fun x => { x with credits := x.credits - p.units }) (i := i)
      (by rw [hylinks]; exact hix)
    rw [← hu, hself, hyvls]
    dsimp only
    rw [List.getD_eq_getElem _ _ (by rw [List.length_set, hwlen]; exact hv), List.getElem_set_self]
    exact congrArg (· - p.units) (by rw [credits_getD, credits_getD, hmap])
  · rw [← hu, hrest.linkInject_eq w (by simp), hinject h]
  · rw [← hu, hrest.linkRx_eq w (by simp), hrx h, hvl]
  · rw [← hu, hrest.mem_eq w (by simp), hmem]
  · rw [← hu, hrest.ctxs_eq (by simp) w, hctxs]

/-- A packet of the block that leaves takes no credits (R446). -/
theorem leaveOutput_paid (hi : i < s.links.length) {v j : Nat} {p next : Packet} {rest : List Packet} {b : Leaving}
    (hpays : (s.link i).pays i v j p = true) (hb : (s.link i).leaving = some b) (hpackets : b.packets = p :: next :: rest) {u : State}
    (hu : (leaveOutput i v j p true).run s = u) : (u.link i).leaving = some { b with packets := next :: rest } ∧
      (∀ k, ((u.link i).vls.getD k (Vl.reset 0)).credits = ((s.link i).vls.getD k (Vl.reset 0)).credits) ∧
      (u.link i).inject = (s.link i).inject ∧ u.mem = s.mem ∧ u.ctxs = s.ctxs := by
  rw [leaveOutput, Fx.run_andThen, leavePacket_paid hpays hb (by simp [hpackets]), Fx.run_andThen, Bool.not_true, Fx.run_when,
    if_neg Bool.false_ne_true, Fx.run_link] at hu
  have hself : u.link i = (s.link i |> fun l => Link.granted v j { l with leaving := some { b with packets := b.packets.drop 1 } }) := by
    rw [← hu, State.link_modLink _ _ _ (by simpa [State.modLink] using hi), State.link_modLink _ _ _ hi]
  rw [hself, hpackets]
  exact ⟨rfl, fun _ => rfl, rfl, hu ▸ rfl, hu ▸ rfl⟩

theorem fillSlot_idle (h : ((s.link i).owes = false ∧ (s.link i).txPart = []) ∨ 1024 ≤ (s.link i).replay.length) :
    (fillSlot i).run s = s.emit (.flit i ((s.link i).wire idleFlit)) := by
  rw [fillSlot, Fx.run_look]
  dsimp only
  rw [if_neg, sendIdle, Fx.run_look, Fx.run_emit]
  rcases h with ⟨howes, hpart⟩ | hfull
  · simp [howes, hpart]
  · simp only [Bool.and_eq_true, decide_eq_true_eq]
    omega

theorem fillSlot_begun (hi : i < s.links.length) (hpart : (s.link i).txPart ≠ []) (hroom : (s.link i).replay.length < 1024) {t : State}
    (ht : (fillSlot i).run s = t) : (t.link i).txPart = [] ∧
      (t.link i).replay.map Flit.body = (s.link i).replay.map Flit.body ++ [padTo 240 (s.link i).txPart] ∧ t.mem = s.mem ∧ t.ctxs = s.ctxs := by
  have hpush := pushFlit_link hi 0 (s.link i).txFirst (s.link i).txPart
  have hlen := (pushFlit i 0 (s.link i).txFirst (s.link i).txPart).run_lengths s |>.2.2.2.1
  rw [fillSlot, Fx.run_look] at ht
  dsimp only at ht
  rw [if_pos (by simp [hpart, hroom]), Fx.run_andThen, Fx.run_link] at ht
  have hself : t.link i = { (s.link i).pushed 0 (s.link i).txFirst (s.link i).txPart with txPart := [], txFirst := 0xFF#8 } := by
    rw [← ht, State.link_modLink _ _ _ (hlen.symm ▸ hi), hpush]
  rw [hself]
  refine ⟨rfl, ?_, ht ▸ rfl, ht ▸ rfl⟩
  simp [Link.pushed, Link.nextFlit]

end

/-- Settles O35: what leaves an input joins the bodies of its output's flits, and each effect keeps what the others work on. -/
theorem packetsLeave : Obligations.PacketsLeave := by
  unfold Obligations.PacketsLeave
  refine ⟨fun s i hup hnone hidle => ?_, fun s i hi hup hnone hpart hroom => ?_,
    fun s i v j p q hi hup hvls hv hsome hhops hblank hq hlen hpart hroom => ?_⟩
  · rw [packetForward_idle hup hnone, fillSlot_idle hidle]
  · exact ⟨_, packetForward_idle hup hnone, fillSlot_begun hi hpart hroom rfl⟩
  · have hnext := packetForward_next hup hsome hhops hblank hq hroom
    have hleaves := leaveOutput_leaves (i := i) v j p ((s.link i).pays i v j p)
    have hsending := hleaves.linkTx_eq s (i := i) id
    have hlinks := (leaveOutput i v j p ((s.link i).pays i v j p)).run_lengths s |>.2.2.2.1
    have hflits : (sendPacketFlits i q).Within (Place.flits i) := sendPacketFlits_within trivial trivial rfl rfl
    obtain ⟨u, hu⟩ : ∃ u, (leaveOutput i v j p ((s.link i).pays i v j p)).run s = u := ⟨_, rfl⟩
    rw [hu] at hnext hsending hlinks
    have hreplay : (u.link i).replay = (s.link i).replay := (congrArg Link.replay hsending :)
    have htx : (u.link i).txPart = (s.link i).txPart := (congrArg Link.txPart hsending :)
    obtain ⟨hfs, hinject, hrx, hleaving, hcredits⟩ := sendPacketFlits_link (s := u) (q := q) (i := i) (hlinks.symm ▸ hi) (htx ▸ hpart)
      (by rw [← hq]; exact hlen) rfl
    rw [hreplay, htx] at hfs
    refine ⟨?_, fun hpays => ?_, fun b next rest hpays hb hpackets => ?_⟩
    · obtain ⟨fs, h1, h2, h3, h4⟩ := hfs
      exact ⟨_, fs, hnext, h1, h2, h3, h4⟩
    · rw [hpays] at hu
      obtain ⟨hcred, hinj, hrx', hmem, hctxs⟩ := leaveOutput_unpaid hi hvls hv hpays hu
      refine ⟨_, hnext, (hcredits v).trans hcred, fun h => hinject.trans (hinj h), fun h hvl => ?_, (hflits.mem_eq u id).trans hmem,
        (hflits.ctxs_eq (fun _ => id) u).trans hctxs⟩
      rw [hflits.linkRx_eq u id, hrx' h hvl]
    · rw [hpays] at hu
      obtain ⟨hleave, hcred, hinj, hmem, hctxs⟩ := leaveOutput_paid hi hpays hb hpackets hu
      exact ⟨_, hnext, hleaving.trans hleave, (hcredits v).trans (hcred v), hinject.trans hinj, (hflits.mem_eq u id).trans hmem,
        (hflits.ctxs_eq (fun _ => id) u).trans hctxs⟩

end Sys2Proof.Machine

/-! Proofs about relayed commands (R547, R548, R384, R500, R539). -/
namespace Sys2Proof.Machine
set_option Elab.async false -- the side conditions of the frames below are elaborated in place, not each in a thread of its own

/-! ## A message that names another node -/

section
variable {s : State} {m : HostMsg} (h : s.passesOn m = true)
include h

/-- What the checks of the header find. -/
theorem passesOn_checks : s.takesSends m.qp = true ∧ s.port.delayed.countP (fun d => d.dest == .port m.qp) < 16 ∧ m.fault? 0 = none ∧
    s.headStatus? false m = none ∧ s.foreign m = true := by
  simp only [State.passesOn, Bool.and_eq_true, decide_eq_true_eq, Option.isNone_iff_eq_none] at h
  obtain ⟨⟨⟨⟨htakes, hdelayed⟩, hfault⟩, hhead⟩, hforeign⟩ := h
  exact ⟨htakes, hdelayed, hfault, hhead, hforeign⟩

/-- A header without fault names a command, and no relay brought it. -/
theorem passesOn_header : (cmdInfo m.op).isSome = true ∧ Machine.field m.bytes 1 1 = 0 ∧ 64 ≤ m.bytes.length := by
  obtain ⟨-, -, -, hhead, hforeign⟩ := passesOn_checks h
  refine ⟨?_, ?_, ?_⟩
  · by_contra hnone
    simp only [State.headStatus?] at hhead
    split_ifs at hhead with h1 h2
    exact h2 (Option.not_isSome_iff_eq_none.mp hnone ▸ rfl)
  · simp only [State.headStatus?] at hhead
    split_ifs at hhead with h1 h2 h3
    simp only [HostMsg.reservedOk, Bool.not_eq_true', Bool.and_eq_true, decide_eq_true_eq, Bool.not_eq_false] at h3
    simpa using h3.1.1
  · simp only [State.foreign, Bool.and_eq_true, decide_eq_true_eq] at hforeign
    exact hforeign.1.1

/-- The message is sent on (R547). -/
theorem commandRelay_next : exec (.commandRelay m) s = .next ((relayOut (.port m.qp) m).run s) := by
  obtain ⟨htakes, hdelayed, hfault, hhead, hforeign⟩ := passesOn_checks h
  obtain ⟨hinfo, -, hlen⟩ := passesOn_header h
  obtain ⟨info, hinfo⟩ := Option.isSome_iff_exists.mp hinfo
  change execCommandRelay m s = _
  rw [execCommandRelay, Fx.outcome_eq, Fx.run_when, if_pos hforeign, receive, Fx.run_look, Fx.run_when, if_pos htakes, if_neg (by omega), checkCmd,
    Fx.run_look]
  dsimp only
  rw [if_neg (by omega), hfault, hhead, show cmdInfo (Cmd.parse (.port m.qp) m).op = some info from hinfo]
  dsimp only
  rw [if_pos (by simp [hforeign])]

/-- A message that goes no further is answered. -/
theorem passesOn_done (st : Nat) : ((cmdOf m).done st).run s = s.answered m st [] := done_run s m st [] (passesOn_header h).2.1

theorem relayOut_long (hlen : 512 < m.bytes.length) : (relayOut (.port m.qp) m).run s = s.answered m stBadParam [] := by
  rw [relayOut, Fx.run_look]
  dsimp only
  rw [if_pos hlen]
  exact passesOn_done h _

theorem relayOut_busy (hlen : m.bytes.length ≤ 512) (hwaits : 16 ≤ s.port.waits.countP Wait.relayed) :
    (relayOut (.port m.qp) m).run s = s.answered m stBusy [] := by
  rw [relayOut, Fx.run_look]
  dsimp only
  rw [if_neg (by omega)]
  exact (congrArg (fun a : Fx => a.run s) (if_pos hwaits)).trans (passesOn_done h _)

theorem relayOut_lost (hlen : m.bytes.length ≤ 512) (hwaits : s.port.waits.countP Wait.relayed < 16) (hlink : s.relayLink m = none) :
    (relayOut (.port m.qp) m).run s = s.answered m stNoResource [] := by
  rw [relayOut, Fx.run_look]
  dsimp only
  rw [if_neg (by omega), hlink]
  exact (congrArg (fun a : Fx => a.run s) (if_neg (Nat.not_le.mpr hwaits))).trans (passesOn_done h _)

end

/-- The RELAY packet of a message (R547). -/
def State.relayPacket (s : State) (m : HostMsg) : Packet :=
  Packet.request 0x05 m.relayNode s.own 0 0 0 s.hub.nextTag.toNat 0 0 (pad32 (patch m.bytes 1 [BitVec.ofNat 8 (Machine.field m.bytes 1 1 ||| 1)]))

/-- The place that its reply goes to. -/
def State.relayWait (s : State) (m : HostMsg) (i : Nat) : Wait :=
  { kind := .relayed (BitVec.ofNat 16 m.relayNode) i, tag := BitVec.ofNat 32 (Machine.field m.bytes 8 4), opcode := BitVec.ofNat 16 m.op
    ctx := BitVec.ofNat 8 m.ctx, dest := .port m.qp, key := s.hub.nextTag, got := [], left := 0, parity := none }

theorem relayOut_sent {s : State} {m : HostMsg} {i : Nat} (hlen : m.bytes.length ≤ 512) (hwaits : s.port.waits.countP Wait.relayed < 16)
    (hlink : s.relayLink m = some i) : (relayOut (.port m.qp) m).run s =
      (((s.modPort (fun q => { q with waits := q.waits ++ [s.relayWait m i] })).modLink i (fun l =>
        if l.state = 4 then l else { l with inject := l.inject ++ [(hubPort, s.relayPacket m)] })).modHub
          (fun h => { h with nextTag := h.nextTag + 1#32 })) := by
  rw [relayOut, Fx.run_look]
  dsimp only
  rw [if_neg (by omega), hlink]
  exact (congrArg (fun a : Fx => a.run s) (if_neg (Nat.not_le.mpr hwaits))).trans rfl

/-! ## Commands of the port -/

/-- A row runs the command that its opcode names. -/
theorem hostRow_runs {s : State} {m : HostMsg} {op : Nat} {run : Cmd → Fx} (hrun : ∀ k : Cmd, k.op = op → runCmd k = run k)
    (h : s.accepts m op = true) : (hostRow op run m).outcome s = .next ((runCmd (cmdOf m)).run s) := by
  have hop : (cmdOf m).op = op := by
    simp only [State.accepts, Bool.and_eq_true, beq_iff_eq] at h
    obtain ⟨⟨⟨⟨⟨⟨⟨⟨⟨⟨⟨⟨⟨⟨-, -⟩, hop⟩, -⟩, -⟩, -⟩, -⟩, -⟩, -⟩, -⟩, -⟩, -⟩, -⟩, -⟩, -⟩ := h
    exact hop
  rw [Fx.outcome_eq, hostRow_run run h, hrun _ hop]

theorem hostRows_run {s : State} : ∀ e ∈ hostRows, ∀ m, s.accepts m e.1 = true → exec (e.2 m) s = .next ((runCmd (cmdOf m)).run s) := by
  simp only [hostRows, List.cons_append, List.nil_append, List.forall_mem_cons, List.not_mem_nil, IsEmpty.forall_iff, implies_true, and_true]
  and_intros
  all_goals exact fun m h => hostRow_runs (fun k hk => by unfold runCmd; rw [hk]; rfl) h

/-! ## Relayed commands -/

/-- A relayed message that passes the checks of R539 runs its command (R548). -/
theorem checkCmd_relayed {s : State} {m : HostMsg} {op : Nat} {dest : Dest} (hpar : m.parity = none) (h : s.acceptsRelayed m op = true) :
    (checkCmd runCmd true dest m).run s = (runCmd (Cmd.parse dest m)).run s := by
  simp only [State.acceptsRelayed, Bool.and_eq_true, beq_iff_eq, decide_eq_true_eq, Bool.not_eq_true', Option.isNone_iff_eq_none] at h
  obtain ⟨⟨⟨⟨⟨⟨⟨⟨⟨⟨hop, hmin⟩, hmax⟩, hlen⟩, hver⟩, hresv⟩, hwait⟩, hstage⟩, hinfo⟩, hslot⟩, hblocked⟩ := h
  cases hi : cmdInfo op with
  | none => simp [hi] at hinfo
  | some info =>
    simp only [hi, Bool.and_eq_true] at hinfo
    obtain ⟨hctx, hparams⟩ := hinfo
    have hfault : m.fault? 0 = none := by rw [HostMsg.fault?, hpar]; rfl
    have hhead : s.headStatus? true m = none := by
      have hmax' : ¬ 8192 < 64 + Machine.field m.bytes 6 2 := by omega
      have hwait' : ¬ 256 ≤ s.port.waits.length + s.port.delayed.length := by omega
      simp [State.headStatus?, hver, hlen, hmax', hop, hi, hresv, hstage, hwait']
    have hop' : (Cmd.parse dest m).op = op := hop
    have hctx' : (Cmd.parse dest m).ctx = m.ctx := rfl
    have hparams' : info.paramsOk (Cmd.parse dest m) = true := hparams
    rw [checkCmd, Fx.run_look]
    dsimp only
    rw [if_neg (by omega), hfault, hhead, hop', hi]
    dsimp only
    rw [Bool.not_true, Bool.false_and, if_neg Bool.false_ne_true, hctx', if_pos hctx, startCmd, Fx.run_look, hop', hctx', hslot]
    simp [hblocked, hparams']

/-- Taking a packet leaves what the checks of a message look at. -/
theorem acceptsRelayed_taken {s u : State} {i : Nat} {p : Packet} (hu : (takePacket i p).run s = u) {m : HostMsg} {op : Nat}
    (h : s.acceptsRelayed m op = true) : u.acceptsRelayed m op = true := by
  have htake := takePacket_taken i p
  have hport : u.port = s.port := hu ▸ htake.port_eq s id
  have hstage : u.hub.stage = s.hub.stage := hu ▸ (congrArg Hub.stage (takePacket_hub (s := s) (i := i) (p := p)) :)
  have hctx (c : Nat) : u.ctx c = s.ctx c := hu ▸ htake.ctx_eq s (i := c) id
  have hslot : slotStatus? u op m.ctx = slotStatus? s op m.ctx := by simp only [slotStatus?, hctx]
  have hblocked : u.blocked m.ctx = s.blocked m.ctx := by simp only [State.blocked, State.ctxWaits, hport]
  rw [State.acceptsRelayed, hport, hstage, hslot, hblocked]
  exact h

/-- An event fires its source once (R550, R563). -/
theorem raise_fires {s : State} {src cls code : Nat} {who : Option (Nat × Nat)} {p0 p1 p2 : Nat} (h : s.hub.stage ≠ 15) :
    tableGet ((raise src cls code who p0 p1 p2).run s).evc src EvcSrc.reset = (tableGet s.evc src EvcSrc.reset).fire := by
  have hcount (u : State) : ((countFault src code).run u).evc = u.evc :=
    (countFault_within (F := fun q => q ≠ .evc) nofun).evc_eq u (by simp)
  unfold raise
  rw [Fx.run_look, Fx.run_when, if_pos (by simpa using h), Fx.run_andThen, Fx.run_andThen, Fx.run_look, Fx.run_ring]
  change tableGet ((countFault src code).run ((fireSource src).run s)).evc _ _ = _
  rw [hcount, fireSource, Fx.run_andThen, Fx.run_evc, Fx.run_when]
  split
  · exact (tableGet_put_ne _ _ _ (by omega)).trans (tableGet_put_self ..)
  · exact tableGet_put_self ..

/-- A packet of a job that no context here is bound to (R384). -/
def State.astray (s : State) (p : Packet) : Bool := p.job != 0#16 && !s.serves p.job.toNat false

section
variable {s : State} {i : Nat} {p : Packet}

theorem astray_of_served (h : p.job = 0#16 ∨ s.serves p.job.toNat false = true) : s.astray p = false := by
  rcases h with h | h <;> simp [State.astray, h]

/-- What a relayed command does once its packet is taken. -/
theorem relay_next (r : RelayIn) (hd : s.delivers 0x05 i r.packet = true) : exec (.relay i r) s =
    .next ((if s.outcast then Fx.skip else if s.permits r.packet && !s.astray r.packet then
        checkCmd runCmd true (.relay i r.packet) (relayedMsg r)
      else (Cmd.parse (.relay i r.packet) (relayedMsg r)).done stNotPermitted).run
        ((Fx.when (s.astray r.packet) (discardEvent i r.packet 5)).run ((takePacket i r.packet).run s))) :=
  (onPacket_next hd).trans rfl

theorem relay_executes {r : RelayIn} {op : Nat} (hd : s.delivers 0x05 i r.packet = true) (hcast : s.outcast = false)
    (hjob : r.packet.job = 0#16 ∨ s.serves r.packet.job.toNat false = true) (hperm : s.permits r.packet = true) (hpar : r.parity = none)
    (hacc : s.acceptsRelayed (relayedMsg r) op = true) :
    exec (.relay i r) s = .next ((runCmd (Cmd.parse (.relay i r.packet) (relayedMsg r))).run ((takePacket i r.packet).run s)) := by
  rw [relay_next r hd, astray_of_served hjob, hcast, hperm, if_neg Bool.false_ne_true, if_pos (by rfl), Fx.run_when, if_neg Bool.false_ne_true,
    checkCmd_relayed hpar (acceptsRelayed_taken rfl hacc)]

theorem relay_refuses {r : RelayIn} (hd : s.delivers 0x05 i r.packet = true) (hcast : s.outcast = false)
    (hno : s.permits r.packet = false ∨ s.astray r.packet = true) : exec (.relay i r) s =
    .next (((Cmd.parse (.relay i r.packet) (relayedMsg r)).done stNotPermitted).run
      ((Fx.when (s.astray r.packet) (discardEvent i r.packet 5)).run ((takePacket i r.packet).run s))) := by
  rw [relay_next r hd, hcast, if_neg Bool.false_ne_true, if_neg]
  rcases hno with h | h <;> simp [h]

/-- The reply to a relayed command goes to the relaying node (R548). -/
theorem reply_relayed {u : State} (hnode : u.hub.node ≠ 0xFFFF#16) (hroute : (u.routeFor p.src.toNat 0).isSome = true)
    (relayed tag opcode ctx status : Nat) (result : List Byte) (hlen : result.length ≤ 448) :
    (reply (.relay i p) relayed tag opcode ctx status result).run u = (sendPacket hubPort (p.answer u.own 0x13 0
      (pad32 (replyBytes relayed opcode ctx tag status u.cycle.toNat result)))).run u := by
  have hdst (ptype aux : Nat) (payload : List Byte) : (p.answer u.own ptype aux payload).dst.toNat = p.src.toNat := by
    simp [Packet.answer, Packet.request, Packet.sealed]
  rw [reply, Fx.run_look]
  dsimp only
  rw [if_pos (by rw [hdst]; simpa [hroute] using hnode), List.take_of_length_le hlen, decide_eq_false (by omega)]
  rfl

/-- A relayed command's packet is taken, with an event where its job strays (R384). -/
def relayTaken (s : State) (i : Nat) (p : Packet) : Fx := (takePacket i p).andThen (Fx.when (s.astray p) (discardEvent i p 5))

theorem relayTaken_serving : (relayTaken s i p).Within Place.serving :=
  .andThen (serving_of_taken (takePacket_taken i p))
    (serving_of_touched (raised_touched (.when (raise_within trivial trivial fun _ => trivial))))

theorem relayTaken_hub : { ((relayTaken s i p).run s).hub with loop := s.hub.loop } = s.hub := by
  have hraise : (Fx.when (s.astray p) (discardEvent i p 5)).Within Place.raised := .when (raise_within trivial trivial fun _ => trivial)
  rw [relayTaken, Fx.run_andThen, hraise.hub_eq _ id]
  exact takePacket_hub

theorem relayTaken_kept : (((relayTaken s i p).run s).link i).rx = (s.link i).rx.erase (p.vl, p) ∧ ((relayTaken s i p).run s).mem = s.mem ∧
    ((relayTaken s i p).run s).ctxs = s.ctxs ∧ ((relayTaken s i p).run s).out = s.out ∧ ((relayTaken s i p).run s).port = s.port ∧
    ((relayTaken s i p).run s).now = s.now := by
  have hraise : (Fx.when (s.astray p) (discardEvent i p 5)).Within Place.raised := .when (raise_within trivial trivial fun _ => trivial)
  have htake := takePacket_taken i p
  rw [relayTaken, Fx.run_andThen]
  refine ⟨?_, ?_, ?_, ?_, ?_, ?_⟩
  · rw [hraise.linkRx_eq _ id, takePacket_erases]
  · rw [hraise.mem_eq _ id, htake.mem_eq s id]
  · rw [hraise.ctxs_eq (fun _ => id), htake.ctxs_eq (fun _ => id) s]
  · rw [hraise.out_eq _ id, htake.out_eq s id]
  · rw [hraise.port_eq _ id, htake.port_eq s id]
  · rw [hraise.now_eq _ id, htake.now_eq s id]

/-- A packet astray fires the source of its link once. -/
theorem relayTaken_fires (h : s.astray p = true) (hstage : s.hub.stage ≠ 15) :
    tableGet ((relayTaken s i p).run s).evc (linkSource i) EvcSrc.reset = (tableGet s.evc (linkSource i) EvcSrc.reset).fire := by
  obtain ⟨u, hu⟩ : ∃ u, (takePacket i p).run s = u := ⟨_, rfl⟩
  have hevc : u.evc = s.evc := hu ▸ (takePacket_taken i p).evc_eq s id
  have hst : u.hub.stage = s.hub.stage := hu ▸ (congrArg Hub.stage (takePacket_hub (s := s) (i := i) (p := p)) :)
  rw [relayTaken, Fx.run_andThen, hu, h, Fx.run_when, if_pos rfl, discardEvent, raise_fires (hst ▸ hstage), hevc]

theorem relayTaken_answered {relayed tag opcode ctx status : Nat} {result : List Byte} (hnode : s.hub.node ≠ 0xFFFF#16)
    (hroute : (s.routeFor p.src.toNat 0).isSome = true) (hlen : result.length ≤ 448) {t : State}
    (ht : (reply (.relay i p) relayed tag opcode ctx status result).run ((relayTaken s i p).run s) = t) :
    Queued s t hubPort (p.answer s.own 0x13 0 (pad32 (replyBytes relayed opcode ctx tag status s.cycle.toNat result))) ∧
      (t.link i).rx = (s.link i).rx.erase (p.vl, p) ∧ t.mem = s.mem ∧ t.ctxs = s.ctxs ∧ { t.hub with loop := s.hub.loop } = s.hub ∧
        t.out = s.out ∧ t.evc = ((relayTaken s i p).run s).evc := by
  have hways : SameWays s ((relayTaken s i p).run s) := relayTaken_serving.sameWays s
  have hlinks := ((relayTaken s i p).run_lengths s).2.2.2.1
  have hhub := relayTaken_hub (s := s) (i := i) (p := p)
  obtain ⟨hrx, hmem, hctxs, hout, -, hnow⟩ := relayTaken_kept (s := s) (i := i) (p := p)
  generalize (relayTaken s i p).run s = u at *
  have hcycle : u.cycle = s.cycle := by rw [State.cycle, hnow, State.cycle]
  have hnode' : u.hub.node = s.hub.node := (congrArg Hub.node hhub :)
  have hroute' : u.routeFor p.src.toNat 0 = s.routeFor p.src.toNat 0 := by
    have hroutes : u.hub.routes = s.hub.routes := (congrArg Hub.routes hhub :)
    simp only [State.routeFor, hways.own, State.route, hroutes]
  rw [reply_relayed (hnode' ▸ hnode) (hroute' ▸ hroute) _ _ _ _ _ _ hlen, hways.own, hcycle] at ht
  have hsent := sendPacket_within (port := hubPort) (p := p.answer s.own 0x13 0
    (pad32 (replyBytes relayed opcode ctx tag status s.cycle.toNat result))) sent_sends
  have hcore := (sendPacket_within (F := fun q => q ≠ .hubCore) (port := hubPort) (p := p.answer s.own 0x13 0
    (pad32 (replyBytes relayed opcode ctx tag status s.cycle.toNat result))) ⟨nofun, nofun, nofun⟩).hubCore_eq u (by simp)
  subst ht
  refine ⟨hways.queued _ _ hlinks, ?_, ?_, ?_, ?_, ?_, ?_⟩
  · rw [hsent.linkRx_eq _ id, hrx]
  · rw [hsent.mem_eq _ id, hmem]
  · rw [hsent.ctxs_eq (fun _ => id), hctxs]
  · exact (congrArg (fun x : Hub => { x with loop := s.hub.loop }) hcore :).trans hhub
  · rw [hsent.out_eq _ id, hout]
  · rw [hsent.evc_eq _ id]

/-- A relayed CYCLE_READ is answered with the cycle (R543). -/
theorem relay_cycleRead (hd : s.delivers 0x05 i p = true) (hcast : s.outcast = false) (hjob : p.job = 0#16 ∨ s.serves p.job.toNat false = true)
    (hperm : s.permits p = true) (hacc : s.acceptsRelayed (relayedMsg ⟨p, none, none⟩) 0x0802 = true) {t : State}
    (ht : exec (.relay i ⟨p, none, none⟩) s = .next t) :
    (reply (.relay i p) 1 (Machine.field (relayedMsg ⟨p, none, none⟩).bytes 8 4) 0x0802 (relayedMsg ⟨p, none, none⟩).ctx stOk
      (leBytes 8 (s.now % 2 ^ 48))).run ((relayTaken s i p).run s) = t := by
  have hexec := relay_executes (r := ⟨p, none, none⟩) hd hcast hjob hperm rfl hacc
  rw [hexec] at ht
  have hop : (Cmd.parse (.relay i p) (relayedMsg ⟨p, none, none⟩)).op = 0x0802 ∧
      Machine.field (relayedMsg ⟨p, none, none⟩).bytes 1 1 % 2 = 1 := by
    simp only [State.acceptsRelayed, HostMsg.reservedOk, Bool.and_eq_true, beq_iff_eq, decide_eq_true_eq, if_true] at hacc
    obtain ⟨⟨⟨⟨⟨⟨⟨⟨⟨⟨hop, -⟩, -⟩, -⟩, -⟩, ⟨⟨hflag, -⟩, -⟩⟩, -⟩, -⟩, -⟩, -⟩, -⟩ := hacc
    exact ⟨hop, by rw [hflag]⟩
  have htaken : (relayTaken s i p).run s = (takePacket i p).run s := by
    rw [relayTaken, Fx.run_andThen, astray_of_served hjob, Fx.run_when, if_neg Bool.false_ne_true]
  have hcycle : ((takePacket i p).run s).cycle.toNat = s.now % 2 ^ 48 := by
    rw [State.cycle, (takePacket_taken i p).now_eq s id, BitVec.toNat_ofNat]
  have hrun : runCmd (Cmd.parse (.relay i p) (relayedMsg ⟨p, none, none⟩)) =
      cycleRead (Cmd.parse (.relay i p) (relayedMsg ⟨p, none, none⟩)) := by
    unfold runCmd
    rw [hop.1]
    rfl
  rw [hrun, cycleRead, Fx.run_look, hcycle, Cmd.ans, hop.1] at ht
  rw [htaken, ← hop.2]
  exact Host.Outcome.next.inj ht

end

/-! ## Replies -/

section
variable {s : State} {i : Nat} {p : Packet}

/-- The reply's packet is taken, and the command waits no more. -/
def relayEnds (i : Nat) (p : Packet) : Fx := (takePacket i p).andThen
  (Fx.port (fun q => { q with waits := q.waits.filter (fun w => !(w.key == p.tag && w.relayed)) }))

theorem relayReply_stray (hd : s.delivers 0x13 i p = true) (h : s.port.waits.filter (fun w => w.key == p.tag && w.relayed) = []) :
    exec (.relayReply i p) s = .next ((relayEnds i p).run s) := by
  refine (onPacket_next hd).trans (congrArg _ ?_)
  change (Fx.each (s.port.waits.filter (fun w => w.key == p.tag && w.relayed)) _).run ((relayEnds i p).run s) = _
  rw [h]
  rfl

theorem relayReply_back (hd : s.delivers 0x13 i p = true) {w : Wait} {n : Nat}
    (h : s.port.waits.filter (fun w => w.key == p.tag && w.relayed) = [w]) (hdest : w.dest = .port n) (hqp : (s.qp? n).isSome = true) :
    exec (.relayReply i p) s = .next (((relayEnds i p).run s).emit (.send n (p.payload.take (64 + Machine.field p.payload 6 2)))) := by
  have hopen : (s.port.qps.any fun q => q.num == n && q.connected) = true := by
    rw [State.qp?, List.find?_isSome] at hqp
    simpa using hqp
  refine (onPacket_next hd).trans (congrArg _ ?_)
  change (Fx.each (s.port.waits.filter (fun w => w.key == p.tag && w.relayed)) _).run ((relayEnds i p).run s) = _
  rw [h, Fx.each, List.map_cons, List.map_nil, Fx.run_all_cons, Fx.run_all_nil, hdest]
  dsimp only
  rw [hopen]
  rfl

theorem relayEnds_kept : (((relayEnds i p).run s).link i).rx = (s.link i).rx.erase (p.vl, p) ∧ ((relayEnds i p).run s).mem = s.mem ∧
    ((relayEnds i p).run s).ctxs = s.ctxs ∧ ((relayEnds i p).run s).out = s.out ∧
    ((relayEnds i p).run s).port = { s.port with waits := s.port.waits.filter (fun w => !(w.key == p.tag && w.relayed)) } ∧
    { ((relayEnds i p).run s).hub with loop := s.hub.loop } = s.hub := by
  have htake := takePacket_taken i p
  have hport := htake.port_eq s id
  rw [relayEnds, Fx.run_andThen, Fx.run_port, State.link_modPort, takePacket_erases]
  refine ⟨rfl, htake.mem_eq s id, htake.ctxs_eq (fun _ => id) s, htake.out_eq s id, ?_, takePacket_hub⟩
  rw [State.modPort, hport]

end

/-! ## The obligation -/

/-- Settles O39: a relayed message runs as its command does from the port, since the checks do not look at where it came from. -/
theorem relaysPass : Obligations.RelaysPass := by
  unfold Obligations.RelaysPass
  intro s
  refine ⟨fun m h => ⟨fun hlen => ?_, fun hlen hwaits => ?_, fun hlen hwaits hlink => ?_⟩, fun m i h hlen hwaits hlink hi hstate => ?_,
    fun op row m he h => hostRows_run (op, row) he m h, fun i r m op hm hd hcast hjob hperm hpar hacc => ?_,
    fun i p hd hcast hjob hperm hacc hnode hroute => ?_, fun i p hd hcast => ?_, fun i p hd hcast hno hnode hroute => ?_,
    fun i p hd hnone => ?_, fun i p w n hd hmine hdest hqp => ?_⟩
  · rw [commandRelay_next h, relayOut_long h hlen]
  · rw [commandRelay_next h, relayOut_busy h hlen hwaits]
  · rw [commandRelay_next h, relayOut_lost h hlen hwaits hlink]
  · refine ⟨_, s.relayPacket m, (commandRelay_next h).trans (congrArg _ (relayOut_sent hlen hwaits hlink)), ?_, rfl, rfl, ?_, rfl, ?_, ?_,
      ⟨s.relayWait m i, ?_, rfl, rfl, rfl⟩, rfl, rfl, rfl, rfl⟩
    · rw [State.link_modHub, State.link_modLink _ _ _ (by simpa using hi), State.link_modPort, if_neg hstate]
    · simp [State.relayPacket, Packet.request, Packet.sealed, State.own]
    · simp [State.relayPacket, Packet.request, Packet.sealed]
    · exact packet_parityOk_sealed _
    · simp
  · subst hm
    exact relay_executes hd hcast hjob hperm hpar hacc
  · obtain ⟨t, ht⟩ : ∃ t, exec (.relay i ⟨p, none, none⟩) s = .next t := ⟨_, rfl⟩
    obtain ⟨hqueued, hrx, hmem, hctxs, hhub, hout, -⟩ := relayTaken_answered hnode hroute (by simp [leBytes])
      (relay_cycleRead hd hcast hjob hperm hacc ht)
    exact ⟨t, ht, hqueued, hrx, hmem, hctxs, hhub, hout⟩
  · refine ⟨_, relay_next ⟨p, none, none⟩ hd, ?_⟩
    rw [hcast, if_pos rfl]
    obtain ⟨hrx, hmem, hctxs, hout, -, -⟩ := relayTaken_kept (s := s) (i := i) (p := p)
    exact ⟨hrx, hmem, hctxs, hout, fun j => relayTaken_serving.linkInject_eq s (i := j) id⟩
  · have h := relay_refuses (r := ⟨p, none, none⟩) hd hcast (by simpa [State.astray] using hno)
    obtain ⟨t, ht⟩ : ∃ t, (reply (.relay i p) (Machine.field (relayedMsg ⟨p, none, none⟩).bytes 1 1 % 2)
      (Machine.field (relayedMsg ⟨p, none, none⟩).bytes 8 4) (relayedMsg ⟨p, none, none⟩).op (relayedMsg ⟨p, none, none⟩).ctx stNotPermitted
      []).run ((relayTaken s i p).run s) = t := ⟨_, rfl⟩
    obtain ⟨hqueued, hrx, hmem, hctxs, hhub, hout, hevc⟩ := relayTaken_answered hnode hroute (by simp) ht
    refine ⟨t, h.trans (congrArg _ ht), hqueued, hrx, hmem, hctxs, hhub, hout, fun hjob hserves hstage => ?_⟩
    rw [hevc, relayTaken_fires (by simp [State.astray, hjob, hserves]) hstage]
  · obtain ⟨hrx, hmem, hctxs, hout, hport, hhub⟩ := relayEnds_kept (s := s) (i := i) (p := p)
    refine ⟨_, relayReply_stray hd hnone, hrx, hout, hmem, hctxs, ?_, hhub⟩
    have hkept : s.port.waits.filter (fun w => !(w.key == p.tag && w.relayed)) = s.port.waits :=
      List.filter_eq_self.mpr fun w hw => by simpa [imp_iff_not_or] using List.filter_eq_nil_iff.mp hnone w hw
    rw [hport, hkept]
  · obtain ⟨hrx, hmem, hctxs, hout, hport, hhub⟩ := relayEnds_kept (s := s) (i := i) (p := p)
    refine ⟨_, relayReply_back hd hmine hdest hqp, congrArg (· ++ _) hout, ?_, hrx, hmem, hctxs, hhub⟩
    rw [State.emit_port, hport]
    have hw : w ∈ s.port.waits.filter (fun w => w.key == p.tag && w.relayed) := by simp [hmine]
    simp only [List.mem_filter] at hw ⊢
    simp [hw.2]

end Sys2Proof.Machine

/-! Proofs about the ends of operations (R260, R261, R264) and the responses to RDMA READs (R256, R533). -/
namespace Sys2Proof.Machine
set_option Elab.async false -- the side conditions of the frames below are elaborated in place, not each in a thread of its own

/-! ## Operations end -/

/-- A context without the operation of a sequence number. -/
def Ctx.over (seq : U32) (x : Ctx) : Ctx := { x with ops := x.ops.filter (fun p => p.seq != seq) }

/-- A context whose operation is about to end: an OPTIMIZE that ends well has been applied (R320). -/
def Ctx.marked (o : Op) (x : Ctx) : Ctx := if recOp o.record = 0x6002 ∧ goodStatus o.status.toNat = true then { x with applied := true } else x

theorem Ctx.marked_eq (o : Op) (x : Ctx) : ∃ b, x.marked o = { x with applied := b } := by
  rw [Ctx.marked]
  split
  · exact ⟨true, rfl⟩
  · exact ⟨x.applied, rfl⟩

section
variable {s t : State} {c : Nat} {o : Op} {status : Nat}

/-- An operation that ends with a good status leaves its context, its fields, and a progress of the sequencer. -/
theorem endOp_good (h : goodStatus (o.endStatus status) = true) : (endOp c o status).run s =
    (progress (s.leadField (recGroup o.record)) 6).run ((releaseFields c o.seq).run
(s.modCtx c (Ctx.over o.seq))) := by
  have hne : o.endStatus status ≠ stPoisoned := fun k => by simp [k, goodStatus, stPoisoned, stOk, stSkipped, stDegraded] at h
  rw [endOp, Fx.run_look]
  change (Fx.all [_, _, _, Fx.when (!goodStatus (o.endStatus status)) _, Fx.when (!goodStatus (o.endStatus status) && _) _,
    Fx.when (decide (o.endStatus status = stPoisoned)) _, Fx.when (!goodStatus (o.endStatus status)) _,
    Fx.when (!goodStatus (o.endStatus status) && _) _, Fx.when (decide (o.endStatus status = stPoisoned)) _]).run s = _
  rw [h, decide_eq_false hne]
  rfl

/-- What the end of an operation touches that aborts no job. -/
def Place.endsQuietly (c : Nat) (q : Place) : Prop := q.ends c ∨ (∃ i, q = .link i) ∨ ∃ i, q = .linkEntries i

/-- An operation that ends without poison in a job aborts nothing. -/
theorem endOp_quiet (hquiet : o.endStatus status ≠ stPoisoned ∨ (s.ctx c).job = 0#16) :
    ∃ b : Fx, b.Within (Place.endsQuietly c) ∧ (endOp c o status).run s = b.run s := by
  have hlast (p : Fx) (hp : p.Within (Place.endsQuietly c)) : ∃ b : Fx, b.Within (Place.endsQuietly c) ∧
      (Fx.when (decide (o.endStatus status = stPoisoned)) (abortJob (s.ctx c).job.toNat stPoisoned)).run (p.run s) = b.run s := by
    refine ⟨p, hp, ?_⟩
    rw [Fx.run_when]
    split
    · next h =>
      rw [hquiet.resolve_left fun k => k (of_decide_eq_true h)]
      rfl
    · rfl
  rw [endOp, Fx.run_look]
  dsimp only
  rw [show ∀ a b c d e f g h i : Fx, [a, b, c, d, e, f, g, h, i] = [a, b, c, d, e, f, g, h] ++ [i] from fun _ _ _ _ _ _ _ _ _ => rfl,
    run_all_concat]
  have hfield (f : Nat) : Place.endsQuietly c (.field f) := .inl trivial
  have hwork (f : Nat) : Place.endsQuietly c (.fieldWork f) := .inl trivial
  exact hlast _ (.cons (.ctx (.inl rfl) (hq := .inr fun _ h => h.filter)) (.cons (releaseFields_within hfield hwork) (.cons
    (progress_within (hfield _)) (.cons (.when (dropRows_within hfield hwork)) (.cons (.when (freeEntries_within hfield
    (fun i => .inr (.inl ⟨i, rfl⟩)) fun i => .inr (.inr ⟨i, rfl⟩))) (.cons (.when (.andThen (setFlags_within (.inl rfl)) (.each fun _ =>
    .field (hfield _)))) (.cons (.when (raise_within (.inl trivial) (hfield _) fun _ => .inl trivial)) (.cons (.when (.ctx (.inl rfl)
    (hr := .inl (.inl trivial)))) .nil))))))))

/-- An operation that ends with another status than poison changes no memory: it aborts no job. -/
theorem endOp_mem (h : o.endStatus status ≠ stPoisoned) : ((endOp c o status).run s).mem = s.mem := by
  obtain ⟨b, hb, hrun⟩ := endOp_quiet (c := c) (s := s) (.inl h)
  rw [hrun, hb.mem_eq s (by simp [Place.endsQuietly, Place.ends])]

theorem releaseFields_running (c : Nat) (seq : U32) (s : State) {f : Nat} (hf : f < Grade.fields s.grade) :
    (((releaseFields c seq).run s).field f).running ≠ some (c, seq) := by
  rw [releaseFields, Fx.run_look]
  obtain ⟨-, -, hfield⟩ := run_each_field (List.range (Grade.fields s.grade)) List.nodup_range (fun _ g =>
    { g with running := g.running.filter (fun e => !(e.1 == c && e.2 == seq))
             comparisons := g.comparisons.filter (fun k => !(k.ctx == c && k.seq == seq)) }) s
  rw [hfield]
  split
  · intro h
    simpa using (Option.filter_eq_some_iff.mp h).2
  · next h =>
    have hlen : s.fields.length ≤ f := by simpa [hf] using h
    rw [State.field, List.getD_eq_default _ _ hlen]
    exact nofun

/-- An operation that has ended holds no field. -/
theorem endOp_running (h : goodStatus (o.endStatus status) = true) {f : Nat} (hf : f < Grade.fields s.grade) :
    (((endOp c o status).run s).field f).running ≠ some (c, o.seq) := by
  have hwork (l e : Nat) : (progress l e).Within (fun q => ∀ g, q ≠ .fieldWork g) := progress_within (by simp)
  rw [endOp_good h]
  have hkeep := congrArg Field.running ((hwork (s.leadField (recGroup o.record)) 6).fieldWork_eq ((releaseFields c o.seq).run
    (s.modCtx c (Ctx.over o.seq))) (i := f) (by simp))
  exact fun k => releaseFields_running c o.seq (s.modCtx c (Ctx.over o.seq)) hf ((hkeep :).symm.trans k)

/-- What goes before the end of an operation: the collisions, and the mark of an OPTIMIZE that was applied (R320). -/
def State.ending (s : State) (c : Nat) (o : Op) (collide : List Collision) : State :=
  (Fx.when (recOp o.record = 0x6002 && goodStatus o.status.toNat) (Fx.ctx c (fun x => { x with applied := true }))).run
    ((collisionsFx (s.portBWords c o) collide).run s)

theorem operationComplete_next {seq : U32} {collide : List Collision} (hop : s.op? c seq = some o) (hover : o.isOver s.now (s.ctx c) = true) :
    exec (.operationComplete c ⟨seq, collide⟩) s = .next ((endOp c o o.status.toNat).run (s.ending c o collide)) := by
  change execOperationComplete c ⟨seq, collide⟩ s = _
  rw [execOperationComplete, hop, Fx.outcome_eq, Fx.run_when, if_pos hover]
  rfl

/-- What collisions touch. -/
def Place.collided : Place → Prop
  | .mem | .data | .tiles | .field _ => True
  | _ => False

theorem collisionsFx_collided (words : List Nat) (l : List Collision) : (collisionsFx words l).Within Place.collided :=
  collisionsFx_within trivial trivial trivial fun _ => trivial

theorem ending_kept (hc : c < s.ctxs.length) (collide : List Collision) :
    (s.ending c o collide).mem = ((collisionsFx (s.portBWords c o) collide).run s).mem ∧
    (s.ending c o collide).hub = s.hub ∧ (s.ending c o collide).out = s.out ∧ (s.ending c o collide).ctxs.length = s.ctxs.length ∧
    (∀ d, (s.ending c o collide).ctx d = if d = c then (s.ctx c).marked o else s.ctx d) := by
  have hcol := collisionsFx_collided (s.portBWords c o) collide
  have hhub := hcol.hub_eq s id
  have hout := hcol.out_eq s id
  have hctxs := hcol.ctxs_eq (fun _ => id) s
  rw [State.ending]
  obtain ⟨u, hu⟩ : ∃ u, (collisionsFx (s.portBWords c o) collide).run s = u := ⟨_, rfl⟩
  rw [hu] at hhub hout hctxs ⊢
  rw [Fx.run_when]
  have hself (d : Nat) : u.ctx d = s.ctx d := by rw [State.ctx, hctxs, State.ctx]
  split
  · next h =>
    have h' : recOp o.record = 0x6002 ∧ goodStatus o.status.toNat = true := by simpa using h
    rw [Fx.run_ctx]
    refine ⟨rfl, hhub, hout, by simp [State.modCtx, hctxs], fun d => ?_⟩
    split
    · next hd =>
      rw [hd, State.ctx_modCtx _ _ _ (hctxs ▸ hc), hself, Ctx.marked, if_pos h']
    · next hd =>
      rw [State.ctx_modCtx_ne _ _ _ _ (Ne.symm hd), hself]
  · next h =>
    have h' : ¬ (recOp o.record = 0x6002 ∧ goodStatus o.status.toNat = true) := by simpa using h
    refine ⟨rfl, hhub, hout, by rw [hctxs], fun d => ?_⟩
    split
    · next hd => rw [hd, hself, Ctx.marked, if_neg h']
    · rw [hself]

end

/-- The end of an operation with a good status. -/
theorem ends_well {s t : State} {c : Nat} {o : Op} {collide : List Collision} (hop : s.op? c o.seq = some o)
    (hgood : goodStatus o.status.toNat = true) (ht : (endOp c o o.status.toNat).run (s.ending c o collide) = t) :
    (∀ d, t.ctx d = if d = c then ((s.ctx c).marked o).over o.seq else s.ctx d) ∧
      (∀ f, f < Grade.fields s.grade → (t.field f).running ≠ some (c, o.seq)) ∧
      t.mem = ((collisionsFx (s.portBWords c o) collide).run s).mem ∧ t.hub = s.hub ∧ t.out = s.out := by
  have hst : goodStatus (o.endStatus o.status.toNat) = true := by
    rw [Op.endStatus]
    split
    · rfl
    · exact hgood
  have hne : o.endStatus o.status.toNat ≠ stPoisoned := fun k => by simp [k, goodStatus, stPoisoned, stOk, stSkipped, stDegraded] at hst
  have hc := lt_of_op? hop
  obtain ⟨hmem, hhub, hout, hlen, hctx⟩ := ending_kept (o := o) hc collide
  have hgrade : (s.ending c o collide).grade = s.grade := by
    rw [State.ending, Fx.run_grade, Fx.run_grade]
  obtain ⟨b, hb, hrun⟩ := endOp_alone (c := c) (o := o) (status := o.status.toNat) (s := s.ending c o collide) (.inl hne) (.inl hst)
  subst ht
  refine ⟨fun d => ?_, fun f hf => endOp_running hst (hgrade ▸ hf), ?_, ?_, ?_⟩
  · rw [endOp_ctx_of_ne (hlen ▸ hc) hne, hctx, hctx, if_pos rfl, Ctx.ended_good hst]
    split <;> rfl
  · rw [hrun, hb.mem_eq _ id, hmem]
  · rw [hrun, hb.hub_eq _ id, hhub]
  · rw [hrun, hb.out_eq _ id, hout]

/-- The end of an operation that fails without poison: its context stops. -/
theorem ends_badly {s t : State} {c : Nat} {o : Op} {collide : List Collision} (hop : s.op? c o.seq = some o)
    (hbad : goodStatus o.status.toNat = false) (hnot : o.status.toNat ≠ stPoisoned)
    (ht : (endOp c o o.status.toNat).run (s.ending c o collide) = t) :
    (∀ d, t.ctx d = if d = c then (s.ctx c).ended o o.status.toNat else s.ctx d) ∧
      t.mem = ((collisionsFx (s.portBWords c o) collide).run s).mem := by
  have hst : o.endStatus o.status.toNat = o.status.toNat := by
    rw [Op.endStatus, if_neg]
    simp only [Bool.and_eq_true, decide_eq_true_eq, not_and]
    intro h
    rw [h] at hbad
    cases hbad
  have hc := lt_of_op? hop
  obtain ⟨hmem, -, -, hlen, hctx⟩ := ending_kept (o := o) hc collide
  have hmarked : (s.ctx c).marked o = s.ctx c := by rw [Ctx.marked, if_neg (by simp [hbad])]
  subst ht
  refine ⟨fun d => ?_, ?_⟩
  · rw [endOp_ctx_of_ne (hlen ▸ hc) (by rwa [hst]), hctx, hctx, if_pos rfl, hst, hmarked]
    split <;> rfl
  · rw [endOp_mem (by rwa [hst]), hmem]

/-- Without collisions memory stays. -/
theorem collisionsFx_nil (words : List Nat) (s : State) : (collisionsFx words []).run s = s := rfl

/-! ## The deadline of a WAIT -/

theorem waitTimeout_next {s : State} {c : Nat} {o : Op} (h : (s.ctx c).ops.find? (Op.runsOut s.now (s.ctx c)) = some o) :
    exec (.waitTimeout c) s = .next ((abortJob (s.ctx c).job.toNat stTimeout).run
      ((endOp c o stTimeout).run (s.setNow (o.startCycle + recParam o.record 40 8 + 1)))) := by
  change execWaitTimeout c s = _
  rw [execWaitTimeout, h]
  rfl

theorem waitTimeout_ends {s t : State} {c : Nat} {o : Op} (h : (s.ctx c).ops.find? (Op.runsOut s.now (s.ctx c)) = some o) (hc16 : c < 16)
    (ht : (abortJob (s.ctx c).job.toNat stTimeout).run
      ((endOp c o stTimeout).run (s.setNow (o.startCycle + recParam o.record 40 8 + 1))) = t) :
    t.ctx c = ((s.ctx c).ended o stTimeout).tornIf t.now stTimeout ((s.ctx c).job.toNat ≠ 0) ∧
      t.now = (s.setNow (o.startCycle + recParam o.record 40 8 + 1)).now ∧ (s.noCopyRuns = true → t.mem = s.mem) := by
  have hc : c < s.ctxs.length := by
    by_contra hc
    simp [State.ctx, Nat.not_lt.mp hc, Ctx.reset] at h
  have hst : o.endStatus stTimeout = stTimeout := by simp [Op.endStatus, stTimeout, stOk]
  have hne : o.endStatus stTimeout ≠ stPoisoned := by rw [hst]; decide
  obtain ⟨u, hu⟩ : ∃ u, s.setNow (o.startCycle + recParam o.record 40 8 + 1) = u := ⟨_, rfl⟩
  have hlen : c < u.ctxs.length := hu ▸ hc
  have hctx : u.ctx c = s.ctx c := hu ▸ rfl
  obtain ⟨-, hnow⟩ := endOp_ctx hlen o stTimeout
  obtain ⟨habort, hnow'⟩ := abortJob_ctx (s.ctx c).job.toNat stTimeout ((endOp c o stTimeout).run u)
  have hend : ((endOp c o stTimeout).run u).ctx c = (s.ctx c).ended o stTimeout := by
    rw [endOp_ctx_of_ne hlen hne, if_pos rfl, hst, hctx]
  rw [hu] at ht ⊢
  subst ht
  have ht := hnow'.trans hnow
  refine ⟨?_, ht, fun hq => ?_⟩
  · rw [habort, hend, hnow, ht]
    exact Ctx.tornIf_congr ⟨fun k => k.1, fun k => ⟨k, hc16, rfl⟩⟩
  · have hq' : u.noCopyRuns = true := hu ▸ hq
    have htiles : (endOp c o stTimeout).Within Place.offTiles := endOp_within offTiles_aborts offTiles_raises trivial fun _ => trivial
    rw [(abortJob_within offTiles_aborts fun _ => trivial : (abortJob (s.ctx c).job.toNat stTimeout).Within Place.offTiles).mem_eq_offTiles
      (htiles.noCopyRuns id hq'), endOp_mem hne, ← hu]
    rfl

/-! ## Responses to RDMA READs -/

/-- What answers to reads of host memory touch. -/
def Place.answering : Place → Prop
  | .out | .port | .field _ => True
  | _ => False

theorem hostAnswers_answering (tag : U32) (n : Nat) : (hostAnswers tag n).Within Place.answering :=
  hostAnswers_within trivial trivial fun _ => trivial

theorem askNext_waits (qp : Nat) (s : State) : ((askNext qp).run s).port.waits = s.port.waits := by
  have hstart (tag : U32) : (startDescriptor tag).Within (fun q => q ≠ .port) := startDescriptor_within nofun
  rw [askNext, Fx.run_look]
  split
  · rw [Fx.run_andThen, Fx.run_andThen, (hstart _).port_eq _ (by simp)]
    rfl
  · rfl

/-- The commands that wait are none of the reads' business. -/
theorem hostAnswers_waits (tag : U32) (n : Nat) (s : State) : ((hostAnswers tag n).run s).port.waits = s.port.waits := by
  rw [hostAnswers, Fx.run_look]
  split
  · split
    · rfl
    · rw [Fx.run_andThen, askNext_waits]
      rfl
  · rfl

section
variable {s t : State} {tag : U32} {data : List Byte} {w : Wait}

theorem rdmaReadResponse_next (tag : U32) (data : List Byte) (s : State) :
    exec (.rdmaReadResponse tag data) s = .next ((hostAnswers tag data.length).run ((hostBytes tag data).run s)) := rfl

/-- A part of the bytes that a command waits for. -/
theorem hostBytes_part (hw : s.port.waits.find? (fun w => w.key == tag && decide (0 < w.left)) = some w) (hlen : data.length < w.left) :
    (hostBytes tag data).run s = s.modPort (fun p => { p with
      waits := p.waits.map (fun k => if k = w then { w with got := w.got ++ data, left := w.left - data.length } else k) }) := by
  rw [hostBytes, Fx.run_look, hw]
  dsimp only
  rw [List.take_of_length_le (Nat.le_of_lt hlen), if_neg (by omega)]
  rfl

/-- The last of the bytes that a command waits for. -/
theorem hostBytes_last (hw : s.port.waits.find? (fun w => w.key == tag && decide (0 < w.left)) = some w) (hlen : data.length = w.left) :
    (hostBytes tag data).run s = (endHostRead { w with got := w.got ++ data, left := 0 } (w.got ++ data)).run
      (s.modPort (fun p => { p with waits := p.waits.erase w })) := by
  rw [hostBytes, Fx.run_look, hw]
  dsimp only
  rw [← hlen, List.take_length, Nat.sub_self, if_pos rfl]
  rfl

/-- A part of the bytes that an operation waits for. -/
theorem hostBytes_need {c : Nat} {o : Op} {n : Need} (hnone : ∀ w ∈ s.port.waits, w.key ≠ tag)
    (hneed : (List.range 16).findSome? (fun d => ((s.ctx d).needOf tag).map (fun q => (d, q))) = some (c, o, n)) (hdata : data ≠ [])
    (hlen : data.length < n.len) :
    (hostBytes tag data).run s = (goOn c o.seq).run ((onOp c o.seq (Op.fetch n 0 data [])).run s) := by
  have hfind : s.port.waits.find? (fun w => w.key == tag && decide (0 < w.left)) = none := by
    simpa using fun w hw h => absurd h (hnone w hw)
  rw [hostBytes, Fx.run_look, hfind]
  dsimp only
  rw [hneed]
  dsimp only
  rw [Fx.run_when, if_pos (by simpa using hdata), decide_eq_false (by omega)]
  rfl

end

/-- Hubs that agree but for the packets for local delivery. -/
theorem Hub.eq_of_core {h k : Hub} (e : h.core = k.core) : { h with loop := k.loop } = k :=
  (congrArg (fun x : Hub => { x with loop := k.loop }) e :)

/-- Records of host memory that have come whole (R256, R516). -/
theorem submitRecords_state {s t : State} {c tag : Nat} {bad : Option ParityFault} {rs : List (List Byte)} {w : Wait}
    (ht : (submitRecords c tag bad rs w.answer).run s = t) :
    t.ctxs = (if (if bad.isSome then stPoisoned else s.submission c rs) = stOk then (s.modCtx c (acceptRecords rs)).ctxs else s.ctxs) ∧
      t.mem = s.mem ∧ { t.hub with loop := s.hub.loop } = s.hub := by
  rw [submitRecords, Fx.run_look] at ht
  dsimp only at ht
  generalize (if bad.isSome = true then stPoisoned else s.submission c rs) = st at ht ⊢
  have hraise : (Fx.each bad.toList (fun z => parityEvent 448 1 z.offset tag none)).Within Place.raised :=
    .each fun _ => parityEvent_within trivial trivial fun _ => trivial
  obtain ⟨u, hu⟩ : ∃ u, (Fx.each bad.toList (fun z => parityEvent 448 1 z.offset tag none)).run s = u := ⟨_, rfl⟩
  have hctxs : u.ctxs = s.ctxs := hu ▸ hraise.ctxs_eq (fun _ => id) s
  have hmem : u.mem = s.mem := hu ▸ hraise.mem_eq s id
  have hhub : u.hub = s.hub := hu ▸ hraise.hub_eq s id
  have hans (v : State) : (w.answer st (leBytes 4 (v.ctx c).nextSeq.toNat)).Within Place.answered := reply_within answered_answers.toSends trivial
  have hcore (v : State) : (w.answer st (leBytes 4 (v.ctx c).nextSeq.toNat)).Within (fun q => q ≠ .hubCore) :=
    reply_within ⟨nofun, nofun, nofun⟩ nofun
  rw [Fx.run_all_cons, hu, Fx.run_all_cons, Fx.run_all_cons, Fx.run_all_nil, Fx.run_look, Fx.run_when] at ht
  subst ht
  have hloop (v : State) (hv : v.hub = s.hub) :
      { ((w.answer st (leBytes 4 (v.ctx c).nextSeq.toNat)).run v).hub with loop := s.hub.loop } = s.hub := by
    rw [← hv]
    exact Hub.eq_of_core ((hcore v).hubCore_eq v (by simp))
  split
  · next h =>
    refine ⟨?_, ?_, hloop _ hhub⟩
    · rw [(hans _).ctxs_eq (fun _ => id), Fx.run_ctx, if_pos (of_decide_eq_true h)]
      simp only [State.modCtx, hctxs]
    · rw [(hans _).mem_eq _ id]
      exact hmem
  · next h =>
    refine ⟨?_, ?_, hloop _ hhub⟩
    · rw [(hans _).ctxs_eq (fun _ => id), hctxs, if_neg fun k => h (decide_eq_true k)]
    · rw [(hans _).mem_eq _ id, hmem]

/-- The last bytes of host memory that a submission waits for. -/
theorem hostBytes_submits {s t : State} {tag : U32} {data : List Byte} {w : Wait} {c n : Nat}
    (hw : s.port.waits.find? (fun w => w.key == tag && decide (0 < w.left)) = some w) (hlen : data.length = w.left) (hkind : w.kind = .submitHost c n)
    (ht : (hostAnswers tag data.length).run ((hostBytes tag data).run s) = t) :
    t.ctxs = (if (if w.parity.isSome then stPoisoned else s.submission c (splitRecords n (w.got ++ data))) = stOk then
      (s.modCtx c (acceptRecords (splitRecords n (w.got ++ data)))).ctxs else s.ctxs) ∧ t.mem = s.mem ∧
      { t.hub with loop := s.hub.loop } = s.hub := by
  have hans := hostAnswers_answering tag data.length
  have hread : endHostRead { w with got := w.got ++ data, left := 0 } (w.got ++ data) =
      submitRecords c w.tag.toNat w.parity (splitRecords n (w.got ++ data)) (Wait.answer { w with got := w.got ++ data, left := 0 }) := by
    rw [endHostRead, hkind]
  obtain ⟨hctxs, hmem, hhub⟩ := submitRecords_state (c := c) (tag := w.tag.toNat) (bad := w.parity) (rs := splitRecords n (w.got ++ data))
    (w := { w with got := w.got ++ data, left := 0 }) (s := s.modPort (fun p => { p with waits := p.waits.erase w })) rfl
  rw [hostBytes_last hw hlen, hread] at ht
  subst ht
  refine ⟨?_, ?_, ?_⟩
  · rw [hans.ctxs_eq (fun _ => id), hctxs]
    rfl
  · rw [hans.mem_eq _ id, hmem]
    rfl
  · rw [hans.hub_eq _ id]
    exact hhub

/-- A part of what a read gives joins what has come, and the rest is asked for on. -/
theorem Op.fetch_part {n : Need} {status : Nat} {data : List Byte} {bad : List Nat} {o : Op} (hdata : data ≠ []) (hlen : data.length < n.len) :
    (o.fetch n status data bad).fetched = putBytes n.addr data o.fetched ∧
      (o.fetch n status data bad).needs = o.needs.erase n ++ [{ n with addr := n.addr + data.length, len := n.len - data.length }] := by
  rw [Op.fetch, if_neg (by simpa using hdata)]
  dsimp only
  rw [List.take_of_length_le (Nat.le_of_lt hlen), if_neg (by omega)]
  exact ⟨rfl, rfl⟩

/-! ## The obligation -/

/-- Settles O47: an operation's end touches its context and its fields, and a response to an RDMA READ only the one that asked. -/
theorem operationsEnd : Obligations.OperationsEnd := by
  unfold Obligations.OperationsEnd
  refine fun s c => ⟨fun seq o collide hop hover hgood => ?_, fun seq o collide hop hover hbad hnot hactive => ?_, fun o h hc16 => ?_,
    fun tag data w hw hlen => ?_, fun tag data w n hw hlen hkind => ⟨fun hc hpar hsub => ?_, fun z hz => ?_⟩,
    fun tag data o n hnone hneed hop hdata hlen => ?_⟩
  · obtain rfl := Ctx.op?_seq hop
    obtain ⟨t, ht⟩ : ∃ t, (endOp c o o.status.toNat).run (s.ending c o collide) = t := ⟨_, rfl⟩
    obtain ⟨hctx, hrun, hmem, hhub, hout⟩ := ends_well hop hgood ht
    obtain ⟨b, hb⟩ := Ctx.marked_eq o (s.ctx c)
    refine ⟨t, (operationComplete_next hop hover).trans (congrArg _ ht), ?_, ?_, hrun, fun hopt => ?_, fun hnil => ?_, hmem,
      fun d hd => by rw [hctx, if_neg hd], hhub, hout⟩
    · rw [State.op?, hctx, if_pos rfl]
      simp [Ctx.over]
    · rw [hctx, if_pos rfl, hb]
      rfl
    · rw [hctx, if_pos rfl, Ctx.marked, if_pos ⟨hopt, hgood⟩]
      rfl
    · rw [hmem, hnil, collisionsFx_nil]
  · obtain rfl := Ctx.op?_seq hop
    obtain ⟨t, ht⟩ : ∃ t, (endOp c o o.status.toNat).run (s.ending c o collide) = t := ⟨_, rfl⟩
    obtain ⟨hctx, hmem⟩ := ends_badly hop hbad hnot ht
    have hself : t.ctx c = (s.ctx c).ended o o.status.toNat := by rw [hctx, if_pos rfl]
    refine ⟨t, (operationComplete_next hop hover).trans (congrArg _ ht), ?_, ?_, ?_, fun hnil => ?_, hmem, fun d hd => by rw [hctx, if_neg hd]⟩
    · rw [State.op?, hself]
      exact Ctx.ended_op? ..
    · rw [hself]
      exact if_pos ⟨hbad, hactive⟩
    · rw [hself]
      exact (if_pos ⟨hbad, hactive⟩).trans (by simp)
    · rw [hmem, hnil, collisionsFx_nil]
  · obtain ⟨t, ht⟩ : ∃ t, (abortJob (s.ctx c).job.toNat stTimeout).run
      ((endOp c o stTimeout).run (s.setNow (o.startCycle + recParam o.record 40 8 + 1))) = t := ⟨_, rfl⟩
    obtain ⟨hctx, hnow, hmem⟩ := waitTimeout_ends h hc16 ht
    refine ⟨t, (waitTimeout_next h).trans (congrArg _ ht), ?_, ?_, hmem, fun hjob hactive => ?_⟩
    · rw [State.op?, hctx, Ctx.tornIf]
      split
      · rfl
      · exact Ctx.ended_op? ..
    · rw [hnow]
      exact Nat.lt_of_lt_of_le (Nat.lt_succ_self _) (Nat.le_max_right ..)
    · rw [hctx, Ctx.tornIf_neg (by simp [hjob])]
      exact ⟨if_pos ⟨rfl, hactive⟩, if_pos ⟨rfl, hactive⟩⟩
  · have hans := hostAnswers_answering tag data.length
    refine ⟨_, rdmaReadResponse_next tag data s, ?_, ?_, ?_, ?_⟩
    · rw [hostAnswers_waits, hostBytes_part hw hlen]
      exact List.mem_map.mpr ⟨w, List.mem_of_find?_eq_some hw, if_pos rfl⟩
    · rw [hans.mem_eq _ id, hostBytes_part hw hlen]
      rfl
    · rw [hans.ctxs_eq (fun _ => id), hostBytes_part hw hlen]
      rfl
    · rw [hans.hub_eq _ id, hostBytes_part hw hlen]
      rfl
  · obtain ⟨t, ht⟩ : ∃ t, (hostAnswers tag data.length).run ((hostBytes tag data).run s) = t := ⟨_, rfl⟩
    obtain ⟨hctxs, hmem, hhub⟩ := hostBytes_submits hw hlen hkind ht
    rw [hpar, Option.isSome_none, if_neg Bool.false_ne_true, if_pos hsub] at hctxs
    have hctx (d : Nat) : t.ctx d = (s.modCtx c (acceptRecords (splitRecords n (w.got ++ data)))).ctx d := by rw [State.ctx, hctxs, State.ctx]
    refine ⟨t, (rdmaReadResponse_next tag data s).trans (congrArg _ ht), ?_, hmem, fun d hd => ?_, hhub⟩
    · rw [hctx, State.ctx_modCtx _ _ _ hc]
      rfl
    · rw [hctx, State.ctx_modCtx_ne _ _ _ _ (Ne.symm hd)]
  · obtain ⟨t, ht⟩ : ∃ t, (hostAnswers tag data.length).run ((hostBytes tag data).run s) = t := ⟨_, rfl⟩
    obtain ⟨hctxs, hmem, hhub⟩ := hostBytes_submits hw hlen hkind ht
    rw [hz, Option.isSome_some, if_pos rfl, if_neg (by decide)] at hctxs
    exact ⟨t, (rdmaReadResponse_next tag data s).trans (congrArg _ ht), hctxs, hmem, hhub⟩
  · have hans := hostAnswers_answering tag data.length
    obtain ⟨hz, hother⟩ := fetch_state hop (Op.fetch_seq n 0 data [])
    obtain ⟨hfetched, hneeds⟩ := Op.fetch_part (n := n) (status := 0) (bad := []) (o := o) hdata hlen
    have hrun := hostBytes_need hnone hneed hdata hlen
    rw [goOn_waits hz (by rw [hneeds]; simp)] at hrun
    refine ⟨_, o.fetch n 0 data [], rdmaReadResponse_next tag data s, ?_, hfetched, hneeds, ?_, fun d hd => ?_⟩
    · rw [State.op?_eq, hans.ctx_eq _ id, hrun]
      exact hz
    · rw [hans.mem_eq _ id, hrun]
      rfl
    · rw [hans.ctx_eq _ id, hrun]
      exact hother d hd

end Sys2Proof.Machine

/-! Facts about operations that start: what has begun, and what its work finds (R129 to R131, R255, R258, R350). -/
namespace Sys2Proof.Machine
set_option Elab.async false -- the side conditions of the frames below are elaborated in place, not each in a thread of its own

/-! ## Memory serves as before -/

/-- States in which every access meets the same (R346, R364, R377). -/
structure SameAccess (s u : State) : Prop where
  grade : u.grade = s.grade
  field : ∀ f, (u.field f).frame = (s.field f).frame
  stack : ∀ k, (u.stack k).state = (s.stack k).state

theorem SameAccess.refl (s : State) : SameAccess s s := ⟨rfl, fun _ => rfl, fun _ => rfl⟩

theorem SameAccess.trans {s u v : State} (h : SameAccess s u) (k : SameAccess u v) : SameAccess s v :=
  ⟨k.grade.trans h.grade, fun f => (k.field f).trans (h.field f), fun j => (k.stack j).trans (h.stack j)⟩

theorem SameAccess.shut {s u : State} (h : SameAccess s u) (f : Nat) : u.shut f = s.shut f := by
  have hstate : (u.field f).state = (s.field f).state := (congrArg Field.state (h.field f) :)
  rw [State.shut, hstate, State.shut]

theorem SameAccess.access {s u : State} (h : SameAccess s u) (space off len : Nat) : u.access space off len = s.access space off len := by
  have hsets (f : Nat) : (u.field f).sets = (s.field f).sets := (congrArg Field.sets (h.field f) :)
  simp only [State.access, h.grade, h.shut, hsets, h.stack]

/-- What leaves the states of the stacks and the frames of the fields leaves accesses. -/
theorem Fx.Within.sameAccess {F : Place → Prop} {a : Fx} (h : a.Within F) (hfield : ∀ f, ¬ F (.fieldFrame f))
    (hstack : ∀ k, a.Fixes (fun s => (s.stack k).state)) (s : State) : SameAccess s (a.run s) :=
  ⟨a.run_grade s, fun f => h.fieldFrame_eq s (hfield f), fun k => hstack k s⟩

section
variable {k : Nat}

/-- A change of one stack that keeps its state. -/
theorem stack_fixes_state {i : Nat} {f : Stack → Stack} (hf : ∀ x, (f x).state = x.state) :
    (Fx.stack i f).Fixes (fun s => (s.stack k).state) := fun s => by
  rw [Fx.run_stack]
  change ((s.modStack i f).stack k).state = (s.stack k).state
  by_cases hk : i = k
  · subst hk
    by_cases hi : i < s.hbmStacks.length
    · rw [State.stack_modStack _ _ _ hi, hf]
    · have hlen : s.hbmStacks.length ≤ i := Nat.not_lt.mp hi
      have hlen' : (s.modStack i f).hbmStacks.length ≤ i := by simpa [State.modStack] using hlen
      unfold State.stack
      rw [List.getD_eq_default _ _ hlen', List.getD_eq_default _ _ hlen]
  · rw [State.stack_modStack_ne _ _ _ _ hk]

theorem Fx.Within.fixes_stackState {F : Place → Prop} {a : Fx} (h : a.Within F) (hF : ¬ F (.stack k)) :
    a.Fixes (fun s => (s.stack k).state) := fun s => congrArg Stack.state (h.stack_eq s hF)

theorem raise_stackState {src cls code : Nat} {who : Option (Nat × Nat)} {p0 p1 p2 : Nat} :
    (raise src cls code who p0 p1 p2).Fixes (fun s => (s.stack k).state) :=
  (raise_within (F := fun q => q ≠ .stack k) nofun nofun nofun).fixes_stackState (by simp)

/-- An error that a read meets counts, and takes no stack out of service. -/
theorem touchWord_stackState (w : Nat) : (touchWord w).Fixes (fun s => (s.stack k).state) := by
  refine .look fun s => ?_
  dsimp only
  exact .ite (.ite (fun _ => rfl) (.andThen (withInBand_fixes (stack_fixes_state fun _ => rfl) fun _ _ => rfl) (.when raise_stackState)))
    (.when (.andThen (fun _ => rfl) (.ite (fun _ => rfl) (stack_fixes_state fun _ => rfl))))

theorem touchRange_stackState (key len : Nat) : (touchRange key len).Fixes (fun s => (s.stack k).state) :=
  .look fun _ => .each fun _ => touchWord_stackState _

theorem plainRead_stackState (who : Option (Nat × Nat)) (seq key len : Nat) : (plainRead who seq key len).Fixes (fun s => (s.stack k).state) :=
  .andThen (.look fun _ => .each fun _ => raise_stackState) (touchRange_stackState _ _)

theorem progress_stackState (f e : Nat) : (progress f e).Fixes (fun s => (s.stack k).state) := fun _ => rfl

theorem takeOp_stackState (x : Launch) (o : Op) : (takeOp x o).Fixes (fun s => (s.stack k).state) :=
  .look fun _ => .cons (fun _ => rfl) (.cons (progress_stackState _ _) (.cons (.when (.each fun _ => .andThen (fun _ => rfl) (.each fun _ =>
    progress_stackState _ _))) (.cons (.when (.each fun _ => .ite (plainRead_stackState _ _ _ _) (touchRange_stackState _ _))) .nil)))

end

/-! ## An operation begins -/

/-- What an operation that begins touches. -/
def Place.begun (c : Nat) : Place → Prop
  | .ctx d => d = c
  | .fieldWork _ => True
  | q => q.touched

theorem takeOp_begun (x : Launch) (o : Op) : (takeOp x o).Within (Place.begun x.ctx) :=
  takeOp_within ⟨⟨trivial, fun _ => trivial, fun _ => trivial⟩, trivial, trivial, trivial, fun _ => trivial⟩ rfl fun _ => trivial

/-- Of the contexts only the operation's own changes: its operation is the one that has begun. -/
theorem takeOp_onCtx (x : Launch) (o : Op) (s : State) (hc : x.ctx < s.ctxs.length) (d : Nat) : ((takeOp x o).run s).ctx d =
    if d = x.ctx then (s.ctx d).withOp o.seq (fun _ => s.begun x o) else s.ctx d := by
  have htouch : Touches Place.offCtx := ⟨⟨trivial, fun _ => trivial, fun _ => trivial⟩, trivial, trivial, trivial, fun _ => trivial⟩
  rw [takeOp, Fx.run_look, Fx.run_all_cons]
  have hrest : (Fx.all [
    progress (s.leadField (recGroup o.record)) 6,
    Fx.when (holdsFields (recOp o.record)) (Fx.each (s.begun x o).fields (fun f =>
      (Fx.field f (Field.runs x.ctx o.seq)).andThen (Fx.each [0, 3, 4] (progress f)))),
    Fx.when (!isArrayOp (recOp o.record) && !isCollective (recOp o.record)) (Fx.each (s.localReads x.ctx o) (fun p =>
      if recOp o.record = 0x4000 then plainRead (s.who x.ctx) o.seq.toNat (localKey p.1) p.2 else touchRange (localKey p.1) p.2))]).Within
    Place.offCtx :=
    .cons (progress_within trivial) (.cons (.when (.each fun _ => .andThen (.field trivial (hw := .inl trivial)) (.each fun _ =>
      progress_within trivial))) (.cons (.when (.each fun _ => .ite (plainRead_within htouch) (touchRange_within htouch))) .nil))
  exact ((hrest.onCtx (c := x.ctx) _ ((onOp x.ctx o.seq fun _ => s.begun x o).run_lengths s |>.1 ▸ hc)).1 d).trans (by
    rw [((Fx.OnCtx.onOp (c := x.ctx) (seq := o.seq) (f := fun _ => s.begun x o)) s hc).1 d]
    split <;> rfl)

section
variable {s : State} {x : Launch} {c op : Nat} {o : Op}

/-- What starting at once asks for. -/
theorem starting_spec (h : s.starting c op = some o) : s.nextOp? c = some o ∧ recOp o.record = op ∧ o.preempted = false ∧ o.needs = [] ∧
    o.later = [] ∧ o.fetched = [] ∧ o.status = 0#16 ∧ (s.ctx c).guardHolds (recGuard o.record) = false ∧ groupDead s o.record = false ∧
    canStart s c o = true ∧ (isPrism op = true → prismOverlapOk s.own ((s.ctx c).asIssued o) o.record = true) ∧
    s.recordAccess ((s.ctx c).asIssued o) o.record = .ok ∧ ∀ p ∈ s.reads c o, isLocal s.own p.1 = true := by
  obtain ⟨hnext, h⟩ := Option.filter_eq_some_iff.mp h
  simp only [Bool.and_eq_true, decide_eq_true_eq, Bool.not_eq_true', List.isEmpty_iff, beq_iff_eq, List.all_eq_true] at h
  obtain ⟨⟨⟨⟨⟨⟨⟨⟨⟨⟨⟨hop, hpre⟩, hneeds⟩, hlater⟩, hfetched⟩, hst⟩, hguard⟩, hdead⟩, hcan⟩, hprism⟩, hacc⟩, hreads⟩ := h
  exact ⟨hnext, hop, hpre, hneeds, hlater, hfetched, hst, hguard, hdead, hcan, fun k => by simpa [k] using hprism, hacc,
    hreads⟩

/-- The next operation of a context is one that has not begun (R258). -/
theorem nextOp?_spec (h : s.nextOp? c = some o) : o ∈ (s.ctx c).ops ∧ o.phase = .issued ∧
    ((s.ctx c).state = .active ∨ (s.ctx c).state = .stopped) := by
  rw [State.nextOp?] at h
  split at h
  · next hrun =>
    obtain ⟨hfind, -⟩ := Option.filter_eq_some_iff.mp h
    exact ⟨List.mem_of_find?_eq_some hfind, by simpa using List.find?_some hfind, by simpa using hrun⟩
  · cases h

/-- A context that has operations is one of the table. -/
theorem lt_of_mem_ops (h : o ∈ (s.ctx c).ops) : c < s.ctxs.length := by
  by_contra hc
  simp [State.ctx, Nat.not_lt.mp hc, Ctx.reset] at h

/-- An operation of the context is replaced by another of its sequence number. -/
theorem Ctx.op?_withOp_const {x : Ctx} {o v : Op} (hmem : o ∈ x.ops) (hv : v.seq = o.seq) :
    (x.withOp o.seq (fun _ => v)).op? o.seq = some v := by
  have hsame : ((fun p : Op => p.seq == o.seq) ∘ fun p : Op => if p.seq = o.seq then v else p) = fun p => p.seq == o.seq := by
    funext p
    by_cases hp : p.seq = o.seq <;> simp [hp, hv]
  obtain ⟨q, hq⟩ : ∃ q, x.ops.find? (fun p => p.seq == o.seq) = some q :=
    Option.isSome_iff_exists.mp (List.find?_isSome.mpr ⟨o, hmem, by simp⟩)
  have hseq : q.seq = o.seq := by simpa using List.find?_some hq
  rw [Ctx.op?, Ctx.withOp, List.find?_map, hsame, hq]
  simp [hseq]

section
variable (h : s.starting c op = some o) (hx : x.ctx = c)
include h hx

/-- The context of an operation that has begun. -/
theorem beginning_ctx (d : Nat) : (s.beginning x o).ctx d = if d = c then (s.ctx d).withOp o.seq (fun _ => s.begun x o) else s.ctx d := by
  subst hx
  exact takeOp_onCtx x o s (lt_of_mem_ops (nextOp?_spec (starting_spec h).1).1) d

theorem beginning_op? : (s.beginning x o).op? c o.seq = some (s.begun x o) := by
  rw [State.op?_eq, beginning_ctx h hx, if_pos rfl]
  exact Ctx.op?_withOp_const (nextOp?_spec (starting_spec h).1).1 rfl
omit hx in
theorem beginning_lt : c < (s.beginning x o).ctxs.length := by
  rw [State.beginning, ((takeOp x o).run_lengths s).1]
  exact lt_of_mem_ops (nextOp?_spec (starting_spec h).1).1

/-- An operation whose slots are there does its work as it begins (R260). -/
theorem startRow_begins (hpar : x.parity = none) :
    (startRow op x).run s = (runWork c (s.begun x o)).run (s.beginning x o) := by
  obtain ⟨hnext, hop, hpre, hneeds, hlater, hfetched, hst, hguard, hdead, hcan, hprism, hacc, hreads⟩ := starting_spec h
  have hop? := beginning_op? h hx
  have haway : (readSlots ((s.ctx c).asIssued o) o.record).filter (fun p => !isLocal s.own p.1) = [] :=
    List.filter_eq_nil_iff.mpr fun p hp => by simp [hreads p hp]
  have hgo : (goOn c o.seq).run (s.beginning x o) = (runWork c (s.begun x o)).run (s.beginning x o) := by
    rw [goOn, Fx.run_look, hop?]
    dsimp only
    rw [if_neg (by simp [State.begun, hneeds, hlater, hpre]), if_neg (by simpa [State.begun] using hst), if_pos (by simp [State.begun, hfetched])]
  subst hx
  rw [startRow, Fx.run_look, hnext]
  dsimp only
  rw [Fx.run_when, if_pos (by simpa using hop), startOp, Fx.run_look]
  dsimp only
  rw [hpar]
  dsimp only
  rw [if_neg (by simp [hguard]), if_neg (by simp [hdead]), if_neg (by simp [hcan]), if_neg (by rw [hop]; simpa using hprism), hacc]
  dsimp only
  rw [begin, Fx.run_look]
  dsimp only
  rw [haway]
  exact hgo

end

end

theorem beginning_sameAccess (s : State) (x : Launch) (o : Op) : SameAccess s (s.beginning x o) :=
  (takeOp_begun x o).sameAccess (fun _ => id) (fun _ => takeOp_stackState x o) s

/-- What the beginning leaves (R350: reads count, and words may wait for a write-back). -/
theorem beginning_kept (s : State) (x : Launch) (o : Op) : (s.beginning x o).mem.cells = s.mem.cells ∧ (s.beginning x o).hub = s.hub ∧
    (s.beginning x o).links = s.links ∧ (s.beginning x o).own = s.own ∧ (s.beginning x o).now = s.now := by
  have h := takeOp_begun x o
  have hhub := h.hub_eq s id
  exact ⟨h.cells_eq s id, hhub, h.links_eq (fun _ => id) s, congrArg (fun k : Hub => k.node.toNat) hhub, h.now_eq s id⟩

/-! ## Landing -/

section
variable {u : State} {c : Nat} {seq : U32} {v : Op}

/-- A change of one operation that keeps its sequence number. -/
theorem onOp_state (hv : u.op? c seq = some v) {f : Op → Op} (hf : ∀ o, (f o).seq = o.seq) :
    ((onOp c seq f).run u).op? c seq = some (f v) ∧ (∀ d, ((onOp c seq f).run u).ctx d = if d = c then (u.ctx d).withOp seq f else u.ctx d) := by
  have hon : (onOp c seq f).OnCtx c (Ctx.withOp seq f) := .onOp
  refine ⟨?_, (hon u (lt_of_op? hv)).1⟩
  rw [State.op?_eq, hon.self (lt_of_op? hv), Ctx.op?_withOp hf, ← State.op?_eq, hv]
  rfl

/-- An operation whose work is done. -/
theorem land_state (hv : u.op? c seq = some v) : ((land c seq).run u).op? c seq = some { v with phase := .landing } ∧
    ((land c seq).run u).phaseOf c seq = some .landing ∧
    ∀ d, ((land c seq).run u).ctx d = if d = c then (u.ctx d).withOp seq (fun o => { o with phase := .landing }) else u.ctx d := by
  obtain ⟨hop, hctx⟩ := onOp_state (f := fun o => { o with phase := .landing }) hv fun _ => rfl
  exact ⟨hop, congrArg (Option.map Op.phase) hop, hctx⟩

end

end Sys2Proof.Machine

/-! What the landing of an operation's work leaves of its context (R195, R260). -/
namespace Sys2Proof.Machine
set_option Elab.async false -- the side conditions of the frames below are elaborated in place, not each in a thread of its own

/-! ## Aspects of a context that the work of an operation leaves -/

/-- An aspect of every context. -/
def State.ofCtx {α : Type} (g : Ctx → α) (s : State) : Nat → α := fun d => g (s.ctx d)

/-- An aspect of a context that the work of its operations leaves: it looks at no flags, no counts and, of its operations, at their
sequence numbers alone. -/
structure OffWork {α : Type} (g : Ctx → α) : Prop where
  flags : ∀ x f, g { x with flags := f } = g x
  counts : ∀ x stats lens used, g { x with stats := stats, lens := lens, witnessUsed := used } = g x
  op : ∀ x seq f, (∀ o : Op, (f o).seq = o.seq) → g (Ctx.withOp seq f x) = g x

theorem offWork_keeper : OffWork Ctx.keeper := ⟨fun _ _ => rfl, fun _ _ _ _ => rfl, fun _ _ _ _ => rfl⟩

/-- The sequence numbers of a context's operations. -/
def Ctx.seqs (x : Ctx) : List U32 := x.ops.map Op.seq

theorem offWork_seqs : OffWork Ctx.seqs := by
  refine ⟨fun _ _ => rfl, fun _ _ _ _ => rfl, fun x seq f hf => ?_⟩
  rw [Ctx.seqs, Ctx.withOp, List.map_map, Ctx.seqs]
  refine List.map_congr_left fun o _ => ?_
  by_cases h : o.seq = seq <;> simp [h, hf]

/-- An operation that is there stays there. -/
theorem op?_of_seqs {s t : State} {c : Nat} {seq : U32} {v : Op} (h : (t.ctx c).seqs = (s.ctx c).seqs) (hv : s.op? c seq = some v) :
    ∃ u, t.op? c seq = some u := by
  have hmem : seq ∈ (s.ctx c).seqs := List.mem_map.mpr ⟨v, List.mem_of_find?_eq_some hv, Ctx.op?_seq hv⟩
  obtain ⟨o, ho, hseq⟩ := List.mem_map.mp (h.symm ▸ hmem)
  exact Option.isSome_iff_exists.mp (List.find?_isSome.mpr ⟨o, ho, by simpa using hseq⟩)

section
variable {α : Type} {g : Ctx → α} {a b : Fx}

theorem Fx.Within.fixesCtx {F : Place → Prop} (h : a.Within F) (hF : ∀ c, ¬ F (.ctx c)) : a.Fixes (State.ofCtx g) := fun s =>
  funext fun d => congrArg g (h.ctx_eq s (hF d))

theorem ctx_fixesCtx {c : Nat} {f : Ctx → Ctx} (hf : ∀ x, g (f x) = g x) : (Fx.ctx c f).Fixes (State.ofCtx g) := fun s => by
  funext d
  change g ((s.modCtx c f).ctx d) = g (s.ctx d)
  rcases State.ctx_modCtx_cases s c d f with h | ⟨rfl, h⟩
  · rw [h]
  · rw [h, hf]

variable (hg : OffWork g)
include hg

theorem onOp_fixesCtx {c : Nat} {seq : U32} {f : Op → Op} (hf : ∀ o, (f o).seq = o.seq) : (onOp c seq f).Fixes (State.ofCtx g) :=
  ctx_fixesCtx fun x => hg.op x seq f hf

theorem setFlags_fixesCtx {c f : Nat} : (setFlags c f).Fixes (State.ofCtx g) := ctx_fixesCtx fun x => hg.flags x _

theorem failOp_fixesCtx {c : Nat} {seq : U32} {status : Nat} : (failOp c seq status).Fixes (State.ofCtx g) := onOp_fixesCtx hg fun _ => rfl

theorem poisonOp_fixesCtx {c : Nat} {seq : U32} : (poisonOp c seq).Fixes (State.ofCtx g) :=
  .andThen (setFlags_fixesCtx hg) (onOp_fixesCtx hg fun o => by split <;> rfl)

theorem mergeStats_fixesCtx {c : Nat} {step : U32} {idx : Nat} {d : StatRec} : (mergeStats c step idx d).Fixes (State.ofCtx g) :=
  ctx_fixesCtx fun x => hg.counts x _ _ _

omit hg in
theorem raiseEvs_fixesCtx {c : Nat} {seq : U32} {l : List Ev} : (raiseEvs c seq l).Fixes (State.ofCtx g) :=
  (raiseEvs_touched c seq l).fixesCtx fun _ => id

theorem landWitness_fixesCtx {c : Nat} {seq : U32} {slot : List Byte} : (landWitness c seq slot).Fixes (State.ofCtx g) := by
  refine .look fun _ => .ite ?_ (ctx_fixesCtx fun x => hg.counts x _ _ _)
  split
  · exact failOp_fixesCtx hg
  · exact .andThen (fun _ => rfl) (ctx_fixesCtx fun x => hg.counts x _ _ _)

omit hg in
theorem withTag_fixesCtx {f : U32 → Fx} (hf : ∀ tag, (f tag).Fixes (State.ofCtx g)) : (withTag f).Fixes (State.ofCtx g) :=
  .look fun _ => .andThen (hf _) fun _ => rfl

omit hg in
theorem sendPacket_fixesCtx {port : Nat} {p : Packet} : (sendPacket port p).Fixes (State.ofCtx g) :=
  (sendPacket_within sent_sends : (sendPacket port p).Within Place.sent).fixesCtx fun _ => id

theorem sendSlot_fixesCtx {c : Nat} {seq : U32} {job : Nat} {p : Piece} : (sendSlot c seq job p).Fixes (State.ofCtx g) := by
  have hawait (tag : U32) : (onOp c seq (fun o => { o with acks := o.acks ++ [tag] })).Fixes (State.ofCtx g) := onOp_fixesCtx hg fun _ => rfl
  exact .look fun _ => .ite (failOp_fixesCtx hg) (.ite (withTag_fixesCtx fun _ => .andThen (hawait _) (.each fun _ => sendPacket_fixesCtx))
    (.look fun _ => .each fun _ => withTag_fixesCtx fun _ => .andThen (hawait _) sendPacket_fixesCtx))

theorem addLocalTile_fixesCtx {c : Nat} {seq : U32} {o : Op} {p : Piece} {booked : Fx} (hbooked : booked.Fixes (State.ofCtx g)) :
    (addLocalTile c seq o p booked).Fixes (State.ofCtx g) := by
  refine .look fun _ => .andThen ((touchRange_touched _ _).fixesCtx fun _ => id) (.ite (.andThen raiseEvs_fixesCtx (failOp_fixesCtx hg)) ?_)
  split
  · exact .cons (fun _ => rfl) (.cons raiseEvs_fixesCtx (.cons (.ite (poisonOp_fixesCtx hg) (.andThen hbooked (setFlags_fixesCtx hg))) .nil))
  · exact .andThen (.when raiseEvs_fixesCtx) (failOp_fixesCtx hg)

omit hg in
theorem awaitSets_fixesCtx {space off len : Nat} : (awaitSets space off len).Fixes (State.ofCtx g) :=
  (awaitSets_within (F := Place.offCtx) ⟨⟨trivial, fun _ => trivial, fun _ => trivial⟩, trivial, trivial⟩ trivial trivial trivial trivial
    trivial).fixesCtx fun _ => id

omit hg in
theorem progress_fixesCtx {f e : Nat} : (progress f e).Fixes (State.ofCtx g) := fun _ => rfl

/-- What follows a piece that has landed: its counts, its progress, its witness slot (R190, R192, R338, R340). -/
def Piece.booked (p : Piece) (c : Nat) (seq : U32) (o : Op) : Fx :=
  ((match p.stats with
    | some (i, d) => mergeStats c o.step i d
    | none => Fx.skip).andThen (match tileEngine (recOp o.record) with
    | some e => progress p.field e
    | none => Fx.skip)).andThen ((setFlags c p.flags).andThen (match p.witness with
    | some w => landWitness c seq w
    | none => Fx.skip))

theorem Piece.booked_fixesCtx {p : Piece} {c : Nat} {seq : U32} {o : Op} : (p.booked c seq o).Fixes (State.ofCtx g) := by
  refine .andThen (.andThen ?_ ?_) (.andThen (setFlags_fixesCtx hg) ?_)
  · split
    · exact mergeStats_fixesCtx hg
    · exact .skip
  · split
    · exact progress_fixesCtx
    · exact .skip
  · split
    · exact landWitness_fixesCtx hg
    · exact .skip

theorem landPiece_fixesCtx {c : Nat} {seq : U32} {p : Piece} : (landPiece c seq p).Fixes (State.ofCtx g) := by
  refine .look fun s => ?_
  split
  · exact .skip
  · next o _ =>
    have hbooked : (p.booked c seq o).Fixes (State.ofCtx g) := Piece.booked_fixesCtx hg
    refine .ite .skip (.ite ?_ (.ite ?_ (.andThen (sendSlot_fixesCtx hg) hbooked)))
    · split
      · exact failOp_fixesCtx hg
      · exact .andThen awaitSets_fixesCtx (.ite (addLocalTile_fixesCtx hg hbooked) (.andThen (.andThen (fun _ => rfl) (.each fun _ _ => rfl)) hbooked))
    · split
      · exact .andThen (fun _ => rfl) hbooked
      · exact failOp_fixesCtx hg

end

/-! ## The work is done -/

/-- Everything before the last step of landing. -/
def landResult (c : Nat) (seq : U32) (r : Result) : Fx :=
  Fx.all [Fx.each r.pieces (landPiece c seq), setFlags c r.flags, Fx.each r.counts countPrism, raiseEvs c seq r.events]

/-- The status and the phase of an operation whose work has come to a result (R260, R512). -/
def Op.landed (r : Result) (o : Op) : Op :=
  { o with status := if o.status = 0#16 then BitVec.ofNat 16 (if r.status = 0 && o.poisoned then stPoisoned else r.status) else o.status
           phase := .landing }

theorem applyResult_run (c : Nat) (seq : U32) (r : Result) (s : State) :
    (applyResult c seq r).run s = (onOp c seq (Op.landed r)).run ((landResult c seq r).run s) := rfl

theorem landResult_fixesCtx {α : Type} {g : Ctx → α} (hg : OffWork g) {c : Nat} {seq : U32} {r : Result} :
    (landResult c seq r).Fixes (State.ofCtx g) :=
  .cons (.each fun _ => landPiece_fixesCtx hg) (.cons (setFlags_fixesCtx hg) (.cons (.each fun _ _ => rfl) (.cons raiseEvs_fixesCtx .nil)))

/-- What landing may touch: everything but other contexts. -/
def Place.landing (c : Nat) : Place → Prop
  | .ctx d => d = c
  | _ => True

theorem applyResult_landing (c : Nat) (seq : U32) (r : Result) : (applyResult c seq r).Within (Place.landing c) :=
  applyResult_within ⟨⟨trivial, fun _ => trivial, fun _ => trivial⟩, trivial, trivial⟩
    ⟨⟨trivial, fun _ => trivial, fun _ => trivial⟩, trivial, trivial, trivial, fun _ => trivial⟩ trivial trivial rfl fun _ => trivial

/-- An operation whose work has come to a result lands; of the contexts its own alone changes. -/
theorem applyResult_state {u : State} {c : Nat} {seq : U32} {v : Op} (hv : u.op? c seq = some v) (r : Result) :
    ((applyResult c seq r).run u).phaseOf c seq = some .landing ∧ (∀ d, d ≠ c → ((applyResult c seq r).run u).ctx d = u.ctx d) ∧
      ∀ {α : Type} (g : Ctx → α), OffWork g → g (((applyResult c seq r).run u).ctx c) = g (u.ctx c) := by
  have hkeep {α : Type} (g : Ctx → α) (hg : OffWork g) : g (((landResult c seq r).run u).ctx c) = g (u.ctx c) :=
    congrFun (landResult_fixesCtx hg u) c
  obtain ⟨w, hw⟩ := op?_of_seqs (hkeep _ offWork_seqs) hv
  obtain ⟨hop, hctx⟩ := onOp_state (f := Op.landed r) hw fun _ => rfl
  refine ⟨?_, fun d hd => (applyResult_landing c seq r).ctx_eq u hd, fun g hg => ?_⟩
  · rw [State.phaseOf, applyResult_run, hop]
    rfl
  · rw [applyResult_run, hctx, if_pos rfl, hg.op _ seq (Op.landed r) fun _ => rfl, hkeep g hg]

end Sys2Proof.Machine

/-! Proofs about STEP_BEGIN, STEP_END, WAIT, SIGNAL and SCALE_UPDATE (R263, R264, R317 to R320, R334 to R337). -/
namespace Sys2Proof.Machine
set_option Elab.async false -- the side conditions of the frames below are elaborated in place, not each in a thread of its own

/-! ## What each of them does as it runs -/

/-- A context whose keeper table takes new entries (R334). -/
def Ctx.keeps (table : List (Nat × List Byte)) (x : Ctx) : Ctx := { x with keeper := keptEntries table x.keeper }

/-- A result without pieces, counts and events changes its operation alone. -/
theorem applyResult_empty (c : Nat) (seq : U32) (s : State) :
    ((applyResult c seq (Result.of [])).run s).mem = s.mem ∧ ((applyResult c seq (Result.of [])).run s).hub = s.hub := ⟨rfl, rfl⟩

section
variable {s : State} {c : Nat} {o : Op}

theorem runWork_stepBegin (h : recOp o.record = 0x6000) :
    (runWork c o).run s = (land c o.seq).run (s.modCtx c (Ctx.stepBegin o.record)) := by
  rw [runWork, Fx.run_look]
  dsimp only
  rw [h]
  rfl

theorem runWork_stepEnd (h : recOp o.record = 0x6001) :
    (runWork c o).run s = (land c o.seq).run ((stepEndFx c o.seq (s.leadField (recGroup o.record))).run s) := by
  rw [runWork, Fx.run_look]
  dsimp only
  rw [h]
  rfl

theorem runWork_wait (h : recOp o.record = 0x7000) :
    (runWork c o).run s = if waitMet (s.ctx c) o.record then (land c o.seq).run s else s := by
  rw [runWork, Fx.run_look]
  dsimp only
  rw [h]
  exact Fx.run_when _ _ _

theorem runWork_signal (h : recOp o.record = 0x7001) : (runWork c o).run s = (runSignal c o).run s := by
  rw [runWork, Fx.run_look]
  dsimp only
  rw [h]
  rfl

theorem runWork_scale (h : recOp o.record = 0x6003) : (runWork c o).run s = (runScale c o).run s := by
  rw [runWork, Fx.run_look]
  dsimp only
  rw [h]
  rfl

/-- STEP_END whose slot of the lens area serves no access (R377). -/
theorem stepEndFx_stops {seq : U32} {lead st : Nat}
    (h : s.access 0 (gaOffset (s.ctx c).lensBase.toNat + 64 * (s.ctx c).lensSlot) 64 = .stop st) :
    (stepEndFx c seq lead).run s = (failOp c seq st).run s := by
  rw [stepEndFx, Fx.run_look]
  dsimp only
  rw [h]

/-- STEP_END's actions (R320). -/
theorem stepEndFx_closes {seq : U32} {lead : Nat} {t : State}
    (h : s.access 0 (gaOffset (s.ctx c).lensBase.toNat + 64 * (s.ctx c).lensSlot) 64 = .ok) (hc : c < s.ctxs.length)
    (ht : (stepEndFx c seq lead).run s = t) : (∀ d, t.ctx d = if d = c then (s.ctx c).stepEnd else s.ctx d) ∧
      t.mem = s.mem.write (memKey 0 (gaOffset (s.ctx c).lensBase.toNat + 64 * (s.ctx c).lensSlot)) (s.ctx c).lensRecord ∧
      t.hub = s.hub ∧ t.links = s.links := by
  have hraise : (raise (56 * lead + 6) 0 0x0201 (s.who c) (s.ctx c).step.toNat (s.ctx c).flags.toNat (s.ctx c).lensSlot).Within Place.raised :=
    raise_within trivial trivial fun _ => trivial
  rw [stepEndFx, Fx.run_look] at ht
  dsimp only at ht
  rw [h] at ht
  dsimp only at ht
  rw [Fx.run_all_cons, Fx.run_all_cons, Fx.run_all_cons, Fx.run_all_nil, Fx.run_ctx] at ht
  generalize memKey 0 (gaOffset (s.ctx c).lensBase.toNat + 64 * (s.ctx c).lensSlot) = key at ht ⊢
  generalize (s.ctx c).lensRecord = bytes at ht ⊢
  obtain ⟨u, hu⟩ : ∃ u, (Fx.memWrite key bytes).run s = u := ⟨_, rfl⟩
  have hctxs : u.ctxs = s.ctxs := hu ▸ rfl
  have hmem : u.mem = s.mem.write key bytes := hu ▸ rfl
  have hhub : u.hub = s.hub := hu ▸ rfl
  have hlinks : u.links = s.links := hu ▸ rfl
  rw [hu] at ht
  obtain ⟨v, hv⟩ : ∃ v, (raise (56 * lead + 6) 0 0x0201 (s.who c) (s.ctx c).step.toNat (s.ctx c).flags.toNat (s.ctx c).lensSlot).run u = v :=
    ⟨_, rfl⟩
  have hctxs' : v.ctxs = s.ctxs := (hv ▸ hraise.ctxs_eq (fun _ => id) u).trans hctxs
  have hmem' := (hv ▸ hraise.mem_eq u id : v.mem = u.mem).trans hmem
  have hhub' := (hv ▸ hraise.hub_eq u id : v.hub = u.hub).trans hhub
  have hlinks' := (hv ▸ hraise.links_eq (fun _ => id) u : v.links = u.links).trans hlinks
  have hctx (d : Nat) : v.ctx d = s.ctx d := by rw [State.ctx, hctxs', State.ctx]
  rw [hv] at ht
  subst ht
  refine ⟨fun d => ?_, hmem', hhub', hlinks'⟩
  split
  · next hd => rw [hd, State.ctx_modCtx _ _ _ (hctxs' ▸ hc), hctx]
  · next hd => rw [State.ctx_modCtx_ne _ _ _ _ (Ne.symm hd), hctx]

/-- SIGNAL to a counter of this module (R263). -/
theorem runSignal_here (hnode : recParam o.record 32 2 = 0xFFFF ∨ recParam o.record 32 2 = s.own) {d : Nat} (hd : recParam o.record 34 1 % 16 = d)
    (hrun : (s.ctx d).state = .active ∨ (s.ctx d).state = .stopped) : (runSignal c o).run s = (land c o.seq).run
      ((addSync d (recParam o.record 35 1 % 16) (BitVec.ofNat 32 (recParam o.record 36 4))).run s) := by
  subst hd
  rw [runSignal, Fx.run_look, if_pos (by simpa using hnode), if_pos (by simpa using hrun), Fx.run_andThen]

theorem runScale_ok {table : List (Nat × List Byte)} {pieces : List Piece} (h : scaleWork (s.asIssued c o) c o = .ok (table, pieces)) :
    (runScale c o).run s = (applyResult c o.seq (Result.of pieces)).run (s.modCtx c (Ctx.keeps table)) := by
  rw [runScale, Fx.run_look, h]
  rfl

end

/-- WAITs that a counter meets keep their sequence numbers. -/
theorem Ctx.op?_wake {now : Nat} {seq : U32} {x : Ctx} {v : Op} (h : x.op? seq = some v) : ∃ u, (x.wake now).op? seq = some u := by
  have hmem : v ∈ x.ops := List.mem_of_find?_eq_some h
  refine Option.isSome_iff_exists.mp (List.find?_isSome.mpr ⟨_, List.mem_map.mpr ⟨v, hmem, rfl⟩, ?_⟩)
  have hseq := Ctx.op?_seq h
  split <;> simpa using hseq

/-- The status of an operation that has failed. -/
def Op.failed (st : Nat) (o : Op) : Op := { o with status := BitVec.ofNat 16 st }

/-- An operation that lands after an effect on its context alone. -/
theorem lands_after {s v t : State} {c : Nat} {seq : U32} {w : Op} {x : Ctx} (hop : x.op? seq = some w)
    (hv : ∀ d, v.ctx d = if d = c then x else s.ctx d) (ht : (land c seq).run v = t) :
    t.op? c seq = some { w with phase := .landing } ∧ t.phaseOf c seq = some .landing ∧
      t.ctx c = x.withOp seq (fun o => { o with phase := .landing }) ∧ ∀ d, d ≠ c → t.ctx d = s.ctx d := by
  have hself : v.ctx c = x := (hv c).trans (if_pos rfl)
  obtain ⟨hop', hphase, hland⟩ := land_state (u := v) (c := c) (seq := seq) (v := w) (by rw [State.op?_eq, hself]; exact hop)
  subst ht
  exact ⟨hop', hphase, by rw [hland, if_pos rfl, hself], fun d hd => by rw [hland, if_neg hd, hv, if_neg hd]⟩

/-- A context whose operation has begun. -/
def State.begunCtx (s : State) (x : Launch) (o : Op) (c : Nat) : Ctx := (s.ctx c).withOp o.seq (fun _ => s.begun x o)

section
variable {s : State} {x : Launch} {c : Nat} {o : Op}

theorem begunCtx_op? {op : Nat} (h : s.starting c op = some o) : (s.begunCtx x o c).op? o.seq = some (s.begun x o) :=
  Ctx.op?_withOp_const (nextOp?_spec (starting_spec h).1).1 rfl

/-- The contexts after a change of the own one of an operation that has begun. -/
theorem beginning_modCtx {op : Nat} (h : s.starting c op = some o) (hx : x.ctx = c) (f : Ctx → Ctx) (d : Nat) :
    ((s.beginning x o).modCtx c f).ctx d = if d = c then f (s.begunCtx x o c) else s.ctx d := by
  split
  · next hd =>
    rw [hd, State.ctx_modCtx _ _ _ (beginning_lt h), beginning_ctx h hx, if_pos rfl]
    rfl
  · next hd => rw [State.ctx_modCtx_ne _ _ _ _ (Ne.symm hd), beginning_ctx h hx, if_neg hd]

theorem beginning_begunCtx {op : Nat} (h : s.starting c op = some o) (hx : x.ctx = c) (d : Nat) :
    (s.beginning x o).ctx d = if d = c then s.begunCtx x o c else s.ctx d := by
  rw [beginning_ctx h hx]
  split
  · next hd => rw [hd, State.begunCtx]
  · rfl

theorem beginning_self {op : Nat} (h : s.starting c op = some o) (hx : x.ctx = c) : (s.beginning x o).ctx c = s.begunCtx x o c :=
  (beginning_ctx h hx c).trans (if_pos rfl)

end

theorem Fx.outcome_of_run {a : Fx} {s t : State} (h : a.run s = t) : a.outcome s = .next t := congrArg _ h

theorem addSync_ctx (d n : Nat) (v : U32) (s : State) (e : Nat) : ((addSync d n v).run s).ctx e =
    if e = d ∧ d < s.ctxs.length then Ctx.wake s.now { s.ctx e with sync := (s.ctx e).sync.modify n (fun k => k + v) } else s.ctx e := by
  change (s.modCtx d (fun x => Ctx.wake s.now { x with sync := x.sync.modify n (fun k => k + v) })).ctx e = _
  split
  · next h => rw [h.1, State.ctx_modCtx _ _ _ h.2]
  · next h =>
    rcases State.ctx_modCtx_cases s d e (fun x => Ctx.wake s.now { x with sync := x.sync.modify n (fun k => k + v) }) with k | ⟨rfl, k⟩
    · exact k
    · have hlen : s.ctxs.length ≤ d := by
        by_contra hlen
        exact h ⟨rfl, Nat.not_le.mp hlen⟩
      have hlen' : (s.modCtx d (fun x => Ctx.wake s.now { x with sync := x.sync.modify n (fun k => k + v) })).ctxs.length ≤ d := by
        simpa [State.modCtx] using hlen
      unfold State.ctx
      rw [List.getD_eq_default _ _ hlen', List.getD_eq_default _ _ hlen]

/-! ## The obligation -/

/-- Settles O46: each of them runs as it begins, and lands or waits. -/
theorem syncOperationsRun : Obligations.SyncOperationsRun := by
  unfold Obligations.SyncOperationsRun
  intro s x c o hpar hx
  obtain ⟨hcells, hhub, hlinks, hown, hnow⟩ := beginning_kept s x o
  have haccess := (beginning_sameAccess s x o).access
  refine ⟨fun h => ?_, fun st h hst => ?_, fun h hok => ?_, fun h => ?_, fun h hnode d hd hrun => ?_, fun table pieces h hwork => ?_⟩
  · obtain ⟨t, ht⟩ : ∃ t, (land c o.seq).run ((s.beginning x o).modCtx c (Ctx.stepBegin o.record)) = t := ⟨_, rfl⟩
    have hrun := (startRow_begins h hx hpar).trans ((runWork_stepBegin (o := s.begun x o) (starting_spec h).2.1).trans ht)
    obtain ⟨-, hphase, hctx, hne⟩ := lands_after (x := (s.begunCtx x o c).stepBegin o.record) (begunCtx_op? h)
      (beginning_modCtx h hx (Ctx.stepBegin o.record)) ht
    refine ⟨t, Fx.outcome_of_run hrun, hphase, ?_⟩
    rw [hctx]
    exact ⟨rfl, rfl, rfl, rfl, rfl, ht ▸ hcells, hne, ht ▸ hhub, ht ▸ hlinks⟩
  · have hself := beginning_self h hx
    obtain ⟨t, ht⟩ : ∃ t, (land c o.seq).run ((failOp c o.seq st).run (s.beginning x o)) = t := ⟨_, rfl⟩
    have hrun := (startRow_begins h hx hpar).trans ((runWork_stepEnd (o := s.begun x o) (starting_spec h).2.1).trans
      ((congrArg (land c o.seq).run (stepEndFx_stops (by rw [haccess, hself]; exact hst))).trans ht))
    have hop' : ((s.begunCtx x o c).withOp o.seq (Op.failed st)).op? o.seq = some ((s.begun x o).failed st) :=
      (Ctx.op?_withOp (f := Op.failed st) (fun _ => rfl) _).trans (congrArg (Option.map (Op.failed st)) (begunCtx_op? h))
    obtain ⟨hop, hphase, hctx, hne⟩ := lands_after hop' (beginning_modCtx h hx (Ctx.withOp o.seq (Op.failed st))) ht
    refine ⟨t, Fx.outcome_of_run hrun, hphase, ?_, ?_, ht ▸ hcells, hne⟩
    · rw [hop]
      rfl
    · rw [hctx]
      rfl
  · have hself := beginning_self h hx
    obtain ⟨b, hb⟩ : ∃ b, (stepEndFx c o.seq ((s.beginning x o).leadField (recGroup o.record))).run (s.beginning x o) = b := ⟨_, rfl⟩
    obtain ⟨t, ht⟩ : ∃ t, (land c o.seq).run b = t := ⟨_, rfl⟩
    have hrun := (startRow_begins h hx hpar).trans ((runWork_stepEnd (o := s.begun x o) (starting_spec h).2.1).trans
      ((congrArg (land c o.seq).run hb).trans ht))
    obtain ⟨hbctx, hbmem, hbhub, hblinks⟩ := stepEndFx_closes (by rw [haccess, hself]; exact hok) (beginning_lt h) hb
    rw [hself] at hbctx hbmem
    have hmod (d : Nat) : b.ctx d = if d = c then (s.begunCtx x o c).stepEnd else s.ctx d := by
      rw [hbctx]
      split
      · rfl
      · next hd => rw [beginning_ctx h hx, if_neg hd]
    have hop : (s.begunCtx x o c).stepEnd.op? o.seq = some (s.begun x o) := begunCtx_op? h
    obtain ⟨-, hphase, hctx, hne⟩ := lands_after hop hmod ht
    refine ⟨t, Fx.outcome_of_run hrun, hphase, ?_⟩
    rw [hctx]
    exact ⟨rfl, rfl, rfl, ht ▸ hbmem, hne, ht ▸ hbhub.trans hhub, ht ▸ hblinks.trans hlinks⟩
  · have hself := beginning_self h hx
    have hrun := (startRow_begins h hx hpar).trans (runWork_wait (o := s.begun x o) (starting_spec h).2.1)
    have hmet : waitMet ((s.beginning x o).ctx c) (s.begun x o).record = waitMet (s.ctx c) o.record := by rw [hself]; rfl
    rw [hmet] at hrun
    by_cases hw : waitMet (s.ctx c) o.record = true
    · rw [if_pos hw] at hrun ⊢
      obtain ⟨t, ht⟩ : ∃ t, (land c o.seq).run (s.beginning x o) = t := ⟨_, rfl⟩
      obtain ⟨-, hphase, hctx, hne⟩ := lands_after (begunCtx_op? h) (beginning_begunCtx h hx) ht
      refine ⟨t, Fx.outcome_of_run (hrun.trans ht), hphase, ?_, ht ▸ hcells, hne, ht ▸ hhub, ht ▸ hlinks⟩
      rw [hctx]
      rfl
    · rw [if_neg hw] at hrun ⊢
      refine ⟨_, Fx.outcome_of_run hrun, ?_, ?_, hcells, fun d hd => by rw [beginning_ctx h hx, if_neg hd], hhub, hlinks⟩
      · rw [State.phaseOf, beginning_op? h hx]
        rfl
      · rw [hself]
        rfl
  · have hself := beginning_self h hx
    have hbctx := beginning_begunCtx h hx
    obtain ⟨b, hb⟩ : ∃ b, (addSync d (recParam o.record 35 1 % 16) (BitVec.ofNat 32 (recParam o.record 36 4))).run (s.beginning x o) = b :=
      ⟨_, rfl⟩
    obtain ⟨t, ht⟩ : ∃ t, (land c o.seq).run b = t := ⟨_, rfl⟩
    have hstate : ((s.beginning x o).ctx d).state = (s.ctx d).state := by
      rw [hbctx]
      split
      · next hdc => rw [hdc]; rfl
      · rfl
    have hrun' := (startRow_begins h hx hpar).trans ((runWork_signal (o := s.begun x o) (starting_spec h).2.1).trans
      ((runSignal_here (s := s.beginning x o) (c := c) (o := s.begun x o) (hown ▸ hnode) hd (hstate ▸ hrun)).trans
        ((congrArg (land c o.seq).run hb).trans ht)))
    obtain ⟨w, hw⟩ : ∃ w, (b.ctx c).op? o.seq = some w := by
      rw [← hb, addSync_ctx]
      split
      · exact Ctx.op?_wake (v := s.begun x o) (by rw [hself]; exact begunCtx_op? h)
      · exact ⟨_, by rw [hself]; exact begunCtx_op? h⟩
    obtain ⟨-, hphase, hland⟩ := land_state (u := b) hw
    have hsync (e : Nat) : (t.ctx e).sync = (b.ctx e).sync := by
      rw [← ht, hland]
      split <;> rfl
    have hbsync (e : Nat) : ((s.beginning x o).ctx e).sync = (s.ctx e).sync := by
      rw [hbctx]
      split
      · next hec => rw [hec]; rfl
      · rfl
    have hdlen : d < (s.beginning x o).ctxs.length := by
      rw [State.beginning, ((takeOp x o).run_lengths s).1]
      by_contra hlen
      simp [State.ctx, Nat.not_lt.mp hlen, Ctx.reset] at hrun
    refine ⟨t, Fx.outcome_of_run hrun', ht ▸ hphase, ?_, fun e he => ?_, ht ▸ hb ▸ hcells, ht ▸ hb ▸ hhub, ht ▸ hb ▸ hlinks⟩
    · rw [hsync, ← hb, addSync_ctx, if_pos ⟨rfl, hdlen⟩]
      exact congrArg (fun l : List U32 => l.modify _ _) (hbsync d)
    · rw [hsync, ← hb, addSync_ctx, if_neg fun k => he k.1, hbsync]
  · obtain ⟨t, ht⟩ : ∃ t, (applyResult c o.seq (Result.of pieces)).run
      ((s.beginning x o).modCtx c (Ctx.keeps table)) = t := ⟨_, rfl⟩
    have hrun := (startRow_begins h hx hpar).trans ((runWork_scale (o := s.begun x o) (starting_spec h).2.1).trans
      ((runScale_ok (o := s.begun x o) hwork).trans ht))
    have hmod := beginning_modCtx h hx (Ctx.keeps table)
    have hself := (hmod c).trans (if_pos rfl)
    obtain ⟨hphase, hne, hkeep⟩ := applyResult_state (c := c) (seq := o.seq) (v := s.begun x o)
      (u := (s.beginning x o).modCtx c (Ctx.keeps table))
      (by rw [State.op?_eq, hself]; exact begunCtx_op? h) (Result.of pieces)
    refine ⟨t, Fx.outcome_of_run hrun, ht ▸ hphase, ?_, fun hnil => ?_, fun d hd => ?_⟩
    · rw [← ht, hkeep _ offWork_keeper, hself]
      rfl
    · obtain ⟨hmem', hhub'⟩ := applyResult_empty c o.seq ((s.beginning x o).modCtx c (Ctx.keeps table))
      rw [← ht, hnil, hmem', hhub']
      exact ⟨hcells, hhub⟩
    · rw [← ht, hne d hd, hmod, if_neg hd]

end Sys2Proof.Machine

/-! Proofs about operations that read and write whole tensors (R257, R260, R265). -/
namespace Sys2Proof.Machine
set_option Elab.async false -- the side conditions of the frames below are elaborated in place, not each in a thread of its own

/-! ## Memory that serves is not waited for -/

theorem Access.worse_eq_ok {a b : Access} : a.worse b = .ok ↔ a = .ok ∧ b = .ok := by
  cases a <;> cases b <;> simp [Access.worse]

/-- All of a range proceeds when the worst of it does. -/
theorem foldl_worse_ok {f : Nat → Access} {l : List Nat} {a : Access} (h : l.foldl (fun a i => a.worse (f i)) a = .ok) :
    a = .ok ∧ ∀ i ∈ l, f i = .ok := by
  induction l generalizing a with
  | nil => exact ⟨h, nofun⟩
  | cons i l ih =>
    obtain ⟨hw, hl⟩ := ih h
    obtain ⟨ha, hi⟩ := Access.worse_eq_ok.mp hw
    exact ⟨ha, List.forall_mem_cons.mpr ⟨hi, hl⟩⟩

/-- Effects none of which does anything. -/
theorem each_idle {α : Type} {l : List α} {f : α → Fx} {s : State} (h : ∀ x ∈ l, (f x).run s = s) : (Fx.each l f).run s = s := by
  induction l with
  | nil => rfl
  | cons x l ih =>
    rw [Fx.run_each_cons, h x (List.mem_cons_self ..), ih fun y hy => h y (List.mem_cons_of_mem _ hy)]

/-- The sets of a range that is served are awaited no longer (R364). -/
theorem awaitSets_served {s : State} {space off len : Nat} (h : s.access space off len = .ok) : (awaitSets space off len).run s = s := by
  rw [awaitSets, Fx.run_look, Fx.run_when]
  split
  · next hspace =>
    rw [State.access] at h
    split_ifs at h with h1 h2 h3
    · exact absurd (h3.symm.trans (of_decide_eq_true hspace)) (by decide)
    · obtain ⟨-, hall⟩ := foldl_worse_ok h
      refine each_idle fun i hi => ?_
      obtain ⟨k, hk, rfl⟩ := List.mem_map.mp hi
      rw [hall k hk, Fx.run_when, if_neg (by decide)]
  · rfl

/-! ## A tile of this module lands -/

/-- A piece that replaces what stands in served memory of this module, without poison and without a witness. -/
def Piece.Here (s : State) (p : Piece) : Prop :=
  isLocal s.own p.ga = true ∧ s.access (gaSpace p.ga) (gaOffset p.ga) p.slot.length = .ok ∧ p.acc = false ∧ p.bad = [] ∧ p.witness = none

theorem Piece.Here.of_same {s u : State} {p : Piece} (h : p.Here s) (hsame : SameAccess s u) (hown : u.own = s.own) : p.Here u := by
  obtain ⟨hlocal, hacc, hrest⟩ := h
  exact ⟨hown ▸ hlocal, by rw [hsame.access, hacc], hrest⟩

/-- What books a tile touches. -/
def Place.booking (c : Nat) : Place → Prop
  | .ctx d => d = c
  | .field _ => True
  | _ => False

theorem booked_booking {p : Piece} {c : Nat} {seq : U32} {o : Op} (h : p.witness = none) : (p.booked c seq o).Within (Place.booking c) := by
  rw [Piece.booked, h]
  refine .andThen (.andThen ?_ ?_) (.andThen (setFlags_within rfl) .skip)
  · split
    · exact mergeStats_within rfl
    · exact .skip
  · split
    · exact progress_within trivial
    · exact .skip

/-- Booking leaves the operations. -/
theorem booked_ops {p : Piece} {c : Nat} {seq : U32} {o : Op} (h : p.witness = none) : (p.booked c seq o).Fixes (State.ofCtx Ctx.ops) := by
  rw [Piece.booked, h]
  refine .andThen (.andThen ?_ ?_) (.andThen (ctx_fixesCtx fun _ => rfl) .skip)
  · split
    · exact ctx_fixesCtx fun _ => rfl
    · exact .skip
  · split
    · exact progress_fixesCtx
    · exact .skip

/-- What landing a tile of this module leaves. -/
structure Lands (c : Nat) (seq : U32) (v : Op) (s u : State) : Prop where
  access : SameAccess s u
  own : u.own = s.own
  out : u.out = s.out
  links : u.links = s.links
  hub : u.hub = s.hub
  op : u.op? c seq = some v

theorem op?_of_ops {s t : State} {c : Nat} {seq : U32} (h : (t.ctx c).ops = (s.ctx c).ops) : t.op? c seq = s.op? c seq := by
  rw [State.op?, h, State.op?]

theorem landPiece_here {c : Nat} {seq : U32} {v : Op} {u : State} {p : Piece} (hop : u.op? c seq = some v) (hst : v.status = 0#16) (h : p.Here u) :
    Lands c seq v u ((landPiece c seq p).run u) ∧ ((landPiece c seq p).run u).mem = u.mem.write (localKey p.ga) p.slot := by
  obtain ⟨hlocal, hacc, hplain, hbad, hwit⟩ := h
  have hrun : (landPiece c seq p).run u = (p.booked c seq v).run (u.memWrite (localKey p.ga) p.slot) := by
    rw [landPiece, Fx.run_look, hop]
    dsimp only
    rw [if_neg (by simpa using hst), if_pos hlocal, hacc]
    dsimp only
    rw [Fx.run_andThen, awaitSets_served hacc, hplain, if_neg Bool.false_ne_true, hbad]
    rfl
  have hbook := booked_booking (c := c) (seq := seq) (o := v) hwit
  have hops := congrFun (booked_ops (c := c) (seq := seq) (o := v) hwit (u.memWrite (localKey p.ga) p.slot)) c
  have hsame := hbook.sameAccess (fun _ => id) (fun _ => hbook.fixes_stackState id) (u.memWrite (localKey p.ga) p.slot)
  rw [hrun]
  refine ⟨⟨⟨hsame.grade, hsame.field, hsame.stack⟩, ?_, ?_, ?_, ?_, ?_⟩, ?_⟩
  · exact congrArg (fun h : Hub => h.node.toNat) (hbook.hub_eq _ id)
  · exact hbook.out_eq _ id
  · exact hbook.links_eq (fun _ => id) _
  · exact hbook.hub_eq _ id
  · exact (op?_of_ops hops).trans hop
  · exact hbook.mem_eq _ id

theorem Lands.trans {c : Nat} {seq : U32} {v : Op} {s u w : State} (h : Lands c seq v s u) (k : Lands c seq v u w) : Lands c seq v s w :=
  ⟨h.access.trans k.access, k.own.trans h.own, k.out.trans h.out, k.links.trans h.links, k.hub.trans h.hub, k.op⟩

/-- The tiles land in order. -/
theorem landPieces_here {c : Nat} {seq : U32} {v : Op} {u : State} {l : List Piece} (hop : u.op? c seq = some v) (hst : v.status = 0#16)
    (h : ∀ p ∈ l, p.Here u) : Lands c seq v u ((Fx.each l (landPiece c seq)).run u) ∧
      ((Fx.each l (landPiece c seq)).run u).mem = l.foldl (fun m p => m.write (localKey p.ga) p.slot) u.mem := by
  induction l generalizing u with
  | nil => exact ⟨⟨.refl u, rfl, rfl, rfl, rfl, hop⟩, rfl⟩
  | cons p l ih =>
    obtain ⟨hland, hmem⟩ := landPiece_here hop hst (h p (List.mem_cons_self ..))
    obtain ⟨hlands, hmems⟩ := ih hland.op fun q hq => (h q (List.mem_cons_of_mem _ hq)).of_same hland.access hland.own
    rw [Fx.run_each_cons]
    exact ⟨hland.trans hlands, by rw [hmems, hmem]; rfl⟩

/-- What flags, counts and events touch. -/
def Place.counting (c : Nat) : Place → Prop
  | .ctx d => d = c
  | .field _ | .evc | .ring _ => True
  | _ => False

/-- A work whose tiles all lie in served memory of this module comes to its result. -/
theorem applyResult_here {c : Nat} {seq : U32} {v : Op} {u : State} {r : Result} (hop : u.op? c seq = some v) (hst : v.status = 0#16)
    (h : ∀ p ∈ r.pieces, p.Here u) : ((applyResult c seq r).run u).op? c seq = some (v.landed r) ∧ ((applyResult c seq r).run u).out = u.out ∧
      ((applyResult c seq r).run u).links = u.links ∧ ((applyResult c seq r).run u).hub = u.hub ∧
      ((applyResult c seq r).run u).mem = r.pieces.foldl (fun m p => m.write (localKey p.ga) p.slot) u.mem := by
  obtain ⟨hland, hmem⟩ := landPieces_here hop hst h
  obtain ⟨w, hw⟩ : ∃ w, (Fx.each r.pieces (landPiece c seq)).run u = w := ⟨_, rfl⟩
  have hrest : (Fx.all [setFlags c r.flags, Fx.each r.counts countPrism, raiseEvs c seq r.events]).Within (Place.counting c) :=
    .cons (setFlags_within rfl) (.cons (.each fun _ => countPrism_within fun _ => trivial) (.cons (raiseEvs_within
      ⟨trivial, fun _ => trivial, fun _ => trivial⟩) .nil))
  have hops : (Fx.all [setFlags c r.flags, Fx.each r.counts countPrism, raiseEvs c seq r.events]).Fixes (State.ofCtx Ctx.ops) :=
    .cons (ctx_fixesCtx fun _ => rfl) (.cons (.each fun _ _ => rfl) (.cons raiseEvs_fixesCtx .nil))
  have hrun : (landResult c seq r).run u = (Fx.all [setFlags c r.flags, Fx.each r.counts countPrism, raiseEvs c seq r.events]).run w := by
    rw [← hw]
    rfl
  have hop' : ((landResult c seq r).run u).op? c seq = some v := by
    rw [hrun]
    exact (op?_of_ops (congrFun (hops w) c)).trans (hw ▸ hland.op)
  rw [hw] at hland hmem
  rw [applyResult_run]
  refine ⟨(onOp_state (f := Op.landed r) hop' fun _ => rfl).1, ?_, ?_, ?_, ?_⟩
  · exact (hrun ▸ hrest.out_eq w id).trans hland.out
  · exact (hrun ▸ hrest.links_eq (fun _ => id) w).trans hland.links
  · exact (hrun ▸ hrest.hub_eq w id).trans hland.hub
  · exact (hrun ▸ hrest.mem_eq w id).trans hmem

/-! ## The rows -/

theorem workRows_exec {x : Launch} : ∀ e ∈ workRows x, ∀ s, exec e.2 s = .next ((startRow e.1 x).run s) := by
  simp only [workRows, List.forall_mem_cons]
  exact ⟨fun _ => rfl, fun _ => rfl, fun _ => rfl, fun _ => rfl, fun _ => rfl, fun _ => rfl, fun _ => rfl, fun _ => rfl, fun _ => rfl,
    fun _ => rfl, fun _ => rfl, fun _ => rfl, fun _ => rfl, nofun⟩

/-- An opcode whose work is not that of an operation over whole tensors. -/
def ownWork (op : Nat) : Bool :=
  isArrayOp op || op = 0x1010 || isCollective op || op = 0x6000 || op = 0x6001 || op = 0x6003 || op = 0x7000 || op = 0x7001

theorem workRows_ownWork {x : Launch} : ∀ e ∈ workRows x, ownWork e.1 = false := by
  simp only [workRows, List.forall_mem_cons]
  decide +revert

/-- An operation over whole tensors runs its work (R265). -/
theorem runWork_work {op : Nat} {work : State → Nat → Op → Result} {c : Nat} {o : Op} {s : State} (hown : ownWork op = false)
    (hw : workOf op = some work) (hop : recOp o.record = op) : (runWork c o).run s = (applyResult c o.seq (work (s.asIssued c o) c o)).run s := by
  simp only [ownWork, Bool.or_eq_false_iff, decide_eq_false_iff_not] at hown
  obtain ⟨⟨⟨⟨⟨⟨⟨harray, hattn⟩, hcoll⟩, hbegin⟩, hend⟩, hscale⟩, hwait⟩, hsignal⟩ := hown
  rw [runWork, Fx.run_look]
  dsimp only
  rw [hop, if_neg (by simp [harray]), if_neg (by simp [hattn]), if_neg hattn, if_neg (by simp [hcoll]), if_neg hbegin, if_neg hend, if_neg hscale,
    if_neg hwait, if_neg hsignal, hw]

/-! ## Parity of what is held -/

theorem operationRows_exec {x : Launch} : ∀ e ∈ operationRows x, ∀ s, exec e.2 s = .next ((startRow e.1 x).run s) := by
  intro e he
  simp only [operationRows, List.mem_append] at he
  rcases he with (((he | he) | he) | he) | he
  · exact workRows_exec e he
  · revert e
    simp only [matrixRows, List.forall_mem_cons]
    exact ⟨fun _ => rfl, fun _ => rfl, fun _ => rfl, nofun⟩
  · obtain rfl := List.mem_singleton.mp he
    exact fun _ => rfl
  · revert e
    simp only [collectiveRows, List.forall_mem_cons]
    exact ⟨fun _ => rfl, fun _ => rfl, fun _ => rfl, fun _ => rfl, fun _ => rfl, nofun⟩
  · revert e
    simp only [syncRows, List.forall_mem_cons]
    exact ⟨fun _ => rfl, fun _ => rfl, fun _ => rfl, fun _ => rfl, fun _ => rfl, nofun⟩

/-- An operation whose held record or descriptors fail their parity ends at once (R516). -/
theorem startRow_parity {s : State} {x : Launch} {op off : Nat} {o : Op} (hpar : x.parity = some off) (hnext : s.nextOp? x.ctx = some o)
    (hop : recOp o.record = op) : (startRow op x).run s = (heldParity x.ctx o off).run s := by
  rw [startRow, Fx.run_look, hnext]
  dsimp only
  rw [Fx.run_when, if_pos (by simpa using hop), startOp, Fx.run_look]
  dsimp only
  rw [hpar]

/-- The end of an operation whose parity fails, of a context that is bound to no job. -/
theorem heldParity_ends {s t : State} {c off : Nat} {o : Op} (hnext : s.nextOp? c = some o) (hjob : (s.ctx c).job = 0#16)
    (ht : (heldParity c o off).run s = t) : t.op? c o.seq = none ∧ (t.ctx c).state = .stopped ∧ t.mem = s.mem ∧
      (∀ d, d ≠ c → t.ctx d = s.ctx d) ∧ t.hub = s.hub := by
  obtain ⟨hmem, -, hstate⟩ := nextOp?_spec hnext
  have hc := lt_of_mem_ops hmem
  have hraise : (parityEvent (56 * s.leadField (recGroup o.record) + 6) 3 off o.seq.toNat (s.who c)).Within Place.raised :=
    parityEvent_within trivial trivial fun _ => trivial
  rw [heldParity, Fx.run_look, Fx.run_andThen] at ht
  obtain ⟨u, hu⟩ : ∃ u, (parityEvent (56 * s.leadField (recGroup o.record) + 6) 3 off o.seq.toNat (s.who c)).run s = u := ⟨_, rfl⟩
  have hctxs : u.ctxs = s.ctxs := hu ▸ hraise.ctxs_eq (fun _ => id) s
  have humem : u.mem = s.mem := hu ▸ hraise.mem_eq s id
  have huhub : u.hub = s.hub := hu ▸ hraise.hub_eq s id
  have huctx (d : Nat) : u.ctx d = s.ctx d := by rw [State.ctx, hctxs, State.ctx]
  rw [hu] at ht
  have hst : o.endStatus stPoisoned = stPoisoned := if_neg (by simp [stPoisoned, stOk])
  obtain ⟨b, hb, hrun⟩ := endOp_quiet (c := c) (o := o) (status := stPoisoned) (s := u) (.inr (by rw [huctx, hjob]))
  have hctx (d : Nat) : t.ctx d = if d = c then (s.ctx c).ended o stPoisoned else s.ctx d := by
    rw [← ht, (endOp_ctx (hctxs ▸ hc) o stPoisoned).1, Ctx.tornIf_neg (by simp [huctx, hjob]), huctx, huctx, hst]
  have hself := (hctx c).trans (if_pos rfl)
  refine ⟨?_, ?_, ?_, fun d hd => by rw [hctx, if_neg hd], ?_⟩
  · rw [State.op?, hself]
    exact Ctx.ended_op? ..
  · rw [hself]
    change (if goodStatus stPoisoned = false ∧ (s.ctx c).state = .active then CtxState.stopped else (s.ctx c).state) = .stopped
    rcases hstate with h | h
    · rw [if_pos ⟨rfl, h⟩]
    · rw [if_neg (by simp [h]), h]
  · rw [← ht, hrun, hb.mem_eq _ (by simp [Place.endsQuietly, Place.ends]), humem]
  · rw [← ht, hrun, hb.hub_eq _ (by simp [Place.endsQuietly, Place.ends]), huhub]

/-! ## The obligation -/

/-- Settles O42: the work is done in the step that starts it, on the state as the operation began. -/
theorem workOperationsRun : Obligations.WorkOperationsRun := by
  unfold Obligations.WorkOperationsRun
  refine ⟨fun s x op off row o hrow hpar hnext hop hjob => ?_, fun s x c op row o work hrow hpar hx hw h => ?_⟩
  · obtain ⟨t, ht⟩ : ∃ t, (heldParity x.ctx o off).run s = t := ⟨_, rfl⟩
    obtain ⟨hgone, hstop, hmem, hne, hhub⟩ := heldParity_ends hnext hjob ht
    exact ⟨t, (operationRows_exec _ hrow s).trans (congrArg _ ((startRow_parity hpar hnext hop).trans ht)), hgone, hstop, hmem, hne, hhub⟩
  · obtain ⟨-, hhub, hlinks, hown, -⟩ := beginning_kept s x o
    have hop := beginning_op? h hx
    obtain ⟨t, ht⟩ : ∃ t, (applyResult c o.seq (work ((s.beginning x o).asIssued c (s.begun x o)) c (s.begun x o))).run (s.beginning x o) = t :=
      ⟨_, rfl⟩
    have hrun := (startRow_begins h hx hpar).trans ((runWork_work (o := s.begun x o) (workRows_ownWork _ hrow) hw (starting_spec h).2.1).trans ht)
    obtain ⟨hphase, hne, -⟩ := applyResult_state hop (work ((s.beginning x o).asIssued c (s.begun x o)) c (s.begun x o))
    refine ⟨t, (workRows_exec _ hrow s).trans (congrArg _ hrun), ht ▸ hphase, fun d hd => ?_, fun r hr hpieces => ?_⟩
    · rw [← ht, hne d hd, beginning_begunCtx h hx, if_neg hd]
    · rw [hr] at ht
      have hst : (s.begun x o).status = 0#16 := (starting_spec h).2.2.2.2.2.2.1
      have hhere : ∀ p ∈ r.pieces, p.Here (s.beginning x o) := fun p hp =>
        Piece.Here.of_same (hpieces p hp) (beginning_sameAccess s x o) hown
      obtain ⟨hop', hout, hlinks', hhub', hmem⟩ := applyResult_here hop hst hhere
      subst ht
      refine ⟨?_, hout, hlinks'.trans hlinks, hhub'.trans hhub, hmem⟩
      rw [hop', Option.map_some, Op.landed, if_pos hst]
      simp [State.begun]

end Sys2Proof.Machine

/-! Values that COPY leaves (R309, R349). The claim says that a copied slot holds the bytes of the source's slot where no word of the
source has an ECC error; but a word with some granules written and others never written carries the poison mark of those, and COPY
poisons the whole word of its output, whose bytes are zero, while the source's written granules still read as they were written. -/
namespace Sys2Proof.Machine

/-- Little-endian fields, each a size and a value. -/
def packedFields (l : List (Nat × Nat)) : List Byte := (l.map (fun p => leBytes p.1 p.2)).flatten

/-- A descriptor of an INT4 tensor of one element at this address of the module. -/
def oneElementView (off : Nat) : DescEntry :=
  { bytes := packedFields [(8, 0xFFFF * 2 ^ 48 + off), (1, 0x11), (1, 2), (2, 0x0201), (4, 1), (4, 1), (12, 0), (4, 1), (4, 1), (12, 0), (1, 0),
      (1, 255), (2, 0xFFFF), (6, 7), (2, 0)]
    aliasFree := true }

/-- A COPY of view 0 into view 1. -/
def copyRecord : List Byte :=
  padTo 128 (packedFields [(2, 0x4000), (14, 0), (2, 0), (2, 0xFFFF), (2, 0xFFFF), (2, 0xFFFF), (2, 1), (2, 0xFFFF), (4, 0)])

/-- That COPY, issued. -/
def plainCopy : Op := { Op.issue Ctx.reset copyRecord with descs := [(0, oneElementView 0), (1, oneElementView (2 ^ 26))] }

/-- A module in service whose context 0 has that COPY next. Of the source, granule 0 alone was ever written. -/
def copyState : State :=
  { State.reset with
    hub := { Hub.reset with stage := 9 }
    ctxs := State.reset.ctxs.set 0 { Ctx.reset with state := .active, fieldGroup := 0#8, windowOpen := true, descs := plainCopy.descs, ops := [plainCopy] }
    mem := { Mem.reset with cells := [(0, 1#8)], clean := [0] } }

theorem copyState_inv : ModInv copyState := by
  unfold ModInv
  decide +kernel

theorem copyState_starting : copyState.starting 0 0x4000 = some plainCopy := by decide +kernel

theorem copyState_tiles : copyTiles (((copyState.ctx 0).asIssued plainCopy).desc 0) (((copyState.ctx 0).asIssued plainCopy).desc 1) =
    [([0, 0], [0, 0])] := by decide +kernel

/-- The copy's source and output. -/
def copySource : Desc := ((copyState.ctx 0).asIssued plainCopy).desc 0
def copyOutput : Desc := ((copyState.ctx 0).asIssued plainCopy).desc 1

theorem copyState_holds : copyState.holds copyOutput ([([0, 0], [0, 0])].map Prod.fst) := by
  unfold State.holds
  decide +kernel

theorem copyState_source : (copyState.mem.bytes (localKey (copySource.slotAddr [0, 0])) (slotBytes copyOutput.code)).head? = some 1#8 := by
  decide +kernel

theorem copyState_output : (((startRow 0x4000 (Launch.of 0)).run copyState).mem.bytes (localKey (copyOutput.slotAddr [0, 0]))
    (slotBytes copyOutput.code)).head? = some 0#8 := by decide +kernel

/-- Refutes O43: the copied slot's first byte is not the source's. -/
theorem not_workValues : ¬ Obligations.WorkValues := by
  unfold Obligations.WorkValues
  intro h
  obtain ⟨hcopy, -, -⟩ := h copyState (Launch.of 0) 0 plainCopy copyOutput copySource copyState_inv rfl rfl rfl rfl rfl
  have htiles : copyTiles copySource copyOutput = [([0, 0], [0, 0])] := copyState_tiles
  rw [htiles] at hcopy
  obtain ⟨t, ht, -, hbytes⟩ := hcopy copyState_starting (by decide +kernel) copyState_holds (by intro q _; rfl)
  have hsame := hbytes ([0, 0], [0, 0]) (List.mem_singleton.2 rfl)
  obtain rfl : (startRow 0x4000 (Launch.of 0)).run copyState = t := Host.Outcome.next.inj ht
  have hhead := (congrArg List.head? hsame).symm.trans copyState_output
  exact absurd (copyState_source.symm.trans hhead) (by decide)

end Sys2Proof.Machine

/-! The start of a matrix product that compares with witnesses (R341, R615). The claim says that a product starts with nothing leaving the
module. But an operation with `witness` looks its tiles up in the context's witness slots, and that read may be the one that finds a third
failing pseudo-channel in a stack whose two retirements are used, as in `wornState`: an in-band interrupt announces it. -/
namespace Sys2Proof.Machine

/-- A descriptor of a 32 × 32 FP16 tensor at this HBM offset, with these flips. -/
def squareView (off flips : Nat) : DescEntry :=
  { bytes := packedFields [(8, 0xFFFF * 2 ^ 48 + off), (1, 2), (1, 2), (2, 0x0201), (4, 32), (4, 32), (12, 0), (4, 1), (4, 1), (12, 0),
      (1, flips), (1, 255), (2, 0xFFFF), (6, 7), (2, 0)]
    aliasFree := true }

/-- A MATMUL with `witness` of view 0 by itself into view 1, M = N = K = 32. -/
def witnessRecord : List Byte :=
  padTo 128 (packedFields [(2, 0x1000), (5, 0), (1, 4), (8, 0), (2, 0), (2, 0), (2, 0xFFFF), (2, 0xFFFF), (2, 1), (2, 0xFFFF), (4, 0),
    (4, 32), (4, 32), (4, 32), (4, 1)])

/-- That product, issued. The tile of its operands lies on padding, which reads as zeros (R238). -/
def witnessProduct : Op := { Op.issue Ctx.reset witnessRecord with descs := [(0, squareView (2 ^ 24) 3), (1, squareView (2 ^ 21) 0)] }

/-- A module in recovery mode with that product next in context 0, whose one used witness slot begins with the word of the double error
of `wornState`. -/
def witnessState : State :=
  { wornState with
    ctxs := State.reset.ctxs.set 0 { Ctx.reset with
      state := .active, fieldGroup := 0#8, windowOpen := true, descs := witnessProduct.descs, ops := [witnessProduct], witnessUsed := 1, witnessSlots := 1 } }

theorem witnessState_starting : witnessState.starting 0 0x1000 = some witnessProduct := by decide +kernel

/-- The module and the product as the product begins. -/
def witnessBegun : State := witnessState.beginning (Launch.of 0) witnessProduct
def witnessOp : Op := witnessState.begun (Launch.of 0) witnessProduct

/-- What a good result holds. -/
theorem ok_of_toBool {ε α : Type} {e : Except ε α} (h : e.toBool = true) (d : α) : e = .ok (e.toOption.getD d) := by
  cases e with
  | error x => simp [Except.toBool] at h
  | ok a => rfl

theorem error_of_toBool {ε α : Type} {e : Except ε α} (h : e.toBool = false) : ∃ x, e = .error x := by
  cases e with
  | error x => exact ⟨x, rfl⟩
  | ok a => simp [Except.toBool] at h

/-- The run with which the product starts. -/
def witnessRun : MatRun := ((matStart (witnessBegun.asIssued 0 witnessOp) 0 witnessOp).toOption).getD (MatRun.waiting 0)

theorem witness_matStart : matStart (witnessBegun.asIssued 0 witnessOp) 0 witnessOp = .ok witnessRun :=
  ok_of_toBool (by decide +kernel) _

theorem witness_comparisons : comparisonsOf (witnessBegun.asIssued 0 witnessOp) 0 witnessOp witnessRun = [] := by decide +kernel

/-- The product with its run. -/
def Op.matStarted (u : MatRun) (n : Nat) (p : Op) : Op := { p with mat := some u, comparisons := n }

/-- The module as the lookup reads its slot, the product marked by the fault that it met. -/
def witnessLooked : State :=
  (poisonOp 0 witnessOp.seq).run ((onOp 0 witnessOp.seq (Op.matStarted witnessRun 0)).run witnessBegun)

theorem raiseEvs_recovery {s : State} (h : s.hub.stage = 15) (c : Nat) (seq : U32) (l : List Ev) : (raiseEvs c seq l).run s = s := by
  rw [raiseEvs, Fx.run_look]
  induction l with
  | nil => rfl
  | cons e l ih => rw [Fx.run_each_cons, raise_recovery h, ih]

/-! ## The read that announces -/

/-- A double error counted in a pseudo-channel of stack 0. -/
def State.struck (s : State) (pc : Nat) : State :=
  s.modStack 0 (fun k => { k with uncorrected := satAdd 65535 k.uncorrected 1, pcUncorrected := tablePut k.pcUncorrected pc 16 })

theorem pcOf_worn {s : State} (h : s.stack 0 = wornState.stack 0) : s.pcOf 0 = wornState.pcOf 0 := by
  rw [State.pcOf, State.pcOf, show 0 / 2 ^ 36 = 0 from rfl, h]

/-- A read of the word with the double error in recovery mode. -/
theorem touchRange_worn {s : State} (herr : s.mem.errorWords 0 64 = [0]) (hdouble : s.mem.wordDouble 0 = true)
    (hstack : s.stack 0 = wornState.stack 0) (hstage : s.hub.stage = 15) :
    (touchRange 0 64).run s = s.announced (s.struck (wornState.pcOf 0)) := by
  rw [touchRange, Fx.run_look, herr, Fx.run_each_cons, Fx.run_each_nil, touchWord, Fx.run_look]
  dsimp only
  rw [if_pos hdouble, if_neg (by decide), Fx.run_andThen, withInBand_run, Fx.run_stack, Fx.run_when]
  simp only [Nat.mul_zero, Nat.zero_mod, Nat.zero_div]
  rw [pcOf_worn hstack, hstack, wornState_count _ wornState_pcOf.1, if_pos (by decide), raise_recovery]
  · rfl
  · rw [announced_hub]
    exact hstage

theorem witnessLooked_announces : ∀ pc < 64, pc ≠ 0 → pc ≠ 1 → (witnessLooked.announced (witnessLooked.struck pc)).out.length = 2 := by
  decide +kernel

theorem witnessBegun_start : (startMatrix 0 witnessOp).run witnessBegun = (touchRange 0 64).run witnessLooked := by
  have hreads : matReads (witnessBegun.asIssued 0 witnessOp) 0 witnessOp = [] := by decide +kernel
  have hfull : emptyProduct witnessOp.record = false := by decide +kernel
  have hflag : recWitness witnessOp.record = true := by decide +kernel
  have hslots : lookupReads ((witnessBegun.asIssued 0 witnessOp).ctx 0) = [0] := by decide +kernel
  obtain ⟨l, hfault⟩ : ∃ l, lookupFault (witnessBegun.asIssued 0 witnessOp) (witnessOp.fields.headD 0)
      ((witnessBegun.asIssued 0 witnessOp).ctx 0) = some l := by
    refine Option.isSome_iff_exists.1 ?_
    decide +kernel
  rw [startMatrix, Fx.run_look]
  dsimp only
  rw [hreads, Fx.run_andThen, Fx.run_each_nil, if_neg (by simp [hfull]), witness_matStart]
  dsimp only
  rw [witness_comparisons, hflag, if_pos rfl, hfault, hslots]
  simp only [Fx.run_all_cons, Fx.run_all_nil, Fx.run_andThen, Fx.run_when, Fx.run_each_cons, Fx.run_each_nil, List.isEmpty_nil, if_true]
  rw [raiseEvs_recovery (by rw [onOp, Fx.run_ctx]; rfl)]
  rfl

/-- Refutes O44: two in-band interrupts leave the module as the product starts. -/
theorem not_matrixOperationsStart : ¬ Obligations.MatrixOperationsStart := by
  unfold Obligations.MatrixOperationsStart
  rintro ⟨h, -, -⟩
  obtain ⟨hfull, -⟩ := h witnessState (Launch.of 0) 0 0x1000 (.matmul (Launch.of 0)) witnessProduct witnessRun (List.mem_cons_self ..) rfl rfl
    witnessState_starting
  obtain ⟨t, ht, -, -, -, -, -, -, -, hout⟩ := hfull (by decide +kernel) (by decide +kernel) witness_matStart
  obtain rfl : (startRow 0x1000 (Launch.of 0)).run witnessState = t := Host.Outcome.next.inj ht
  rw [startRow_begins witnessState_starting rfl rfl] at hout
  change ((startMatrix 0 witnessOp).run witnessBegun).out = _ at hout
  obtain ⟨hlt, h0, h1⟩ := wornState_pcOf
  have htwo := witnessLooked_announces _ hlt h0 h1
  rw [witnessBegun_start, touchRange_worn (by decide +kernel) (by decide +kernel) (by decide +kernel) (by decide +kernel)] at hout
  exact absurd (htwo.symm.trans (congrArg List.length hout)) (by decide)

end Sys2Proof.Machine

/-! The start of a collective in a tree (R428, R430). The claim says that a member of a tree holds an active entry in every adding link once
its collective has started. But a collective of one tile over two stripes has nothing to add, to deliver or to send on the adding link of
the second stripe: an entry that has no more to do is freed (R430), and so the start itself frees that link's entry again. -/
namespace Sys2Proof.Machine

/-- A BROADCAST of view 0 in a tree of two members, 0 at root on node 8 and this one, over links 0 and 1. -/
def broadcastRecord : List Byte :=
  padTo 128 (packedFields [(2, 0x5004), (1, 0), (1, 0x40), (12, 0), (2, 0), (2, 0xFFFF), (2, 0xFFFF), (2, 0xFFFF), (2, 0), (2, 0xFFFF), (4, 0),
    (1, 1), (1, 0), (1, 0), (1, 2), (2, 3), (2, 2), (2, 1), (2, 0), (2, 2), (2, 8), (8, 0), (2, 0), (1, 1), (1, 0)])

/-- That BROADCAST, issued. -/
def broadcastOp : Op := { Op.issue Ctx.reset broadcastRecord with descs := [(0, oneElementView 0)] }

/-- Node 9 with that operation next in context 0 of job 7, links 0 and 1 up, and routes of node 8 through link 0. -/
def broadcastState : State :=
  { State.reset with
    hub := { Hub.reset with stage := 9, node := 9#16, routes := [(8, 0x80808080#32)] }
    links := ((State.reset.links.set 0 { State.reset.link 0 with state := 2 }).set 1 { State.reset.link 1 with state := 2 })
    ctxs := State.reset.ctxs.set 0 { Ctx.reset with
      state := .active, job := 7#16, fieldGroup := 0#8, windowOpen := true, descs := broadcastOp.descs, ops := [broadcastOp] } }

theorem broadcastState_inv : ModInv broadcastState := by
  unfold ModInv
  decide +kernel

theorem broadcastState_starting : broadcastState.starting 0 0x5004 = some broadcastOp := by decide +kernel

theorem broadcast_adders : (broadcastState.memberPart (Launch.of 0) broadcastOp).p.adders = [0, 1] := by decide +kernel

/-- What has started holds no entry of the key in link 1. -/
theorem broadcast_entry :
    (((startRow 0x5004 (Launch.of 0)).run broadcastState).link 1).entry? (broadcastState.ctx 0).job
      (BitVec.ofNat 16 (broadcastState.memberPart (Launch.of 0) broadcastOp).p.redNo) = none := by decide +kernel

/-- Refutes O45: link 1 of the tree holds no entry. -/
theorem not_collectivesStart : ¬ Obligations.CollectivesStart := by
  unfold Obligations.CollectivesStart
  intro h
  have hlinks : ∀ i ∈ [0, 1], i < Grade.links broadcastState.grade ∧
      entryStatus (broadcastState.link i) (broadcastState.ctx 0).job
        (BitVec.ofNat 16 (broadcastState.memberPart (Launch.of 0) broadcastOp).p.redNo) = stOk := by decide +kernel
  obtain ⟨v, hv, -, -, -, -, hentry⟩ := h broadcastState (Launch.of 0) 0 0x5004 (.broadcast (Launch.of 0)) broadcastOp broadcastState_inv
    (by simp [collectiveRows]) rfl rfl broadcastState_starting _ _ rfl rfl (by decide +kernel) (by decide +kernel)
    (by rw [broadcast_adders]; exact hlinks) (by decide +kernel) (fun hr => absurd hr (by decide +kernel))
    (fun _ hroot => absurd hroot (by decide +kernel))
  obtain rfl : (startRow 0x5004 (Launch.of 0)).run broadcastState = v := Host.Outcome.next.inj hv
  obtain ⟨e, he, -⟩ := hentry 1 (by rw [broadcast_adders]; simp) (.inl (by decide +kernel))
  rw [broadcast_entry] at he
  exact absurd he (by simp)

end Sys2Proof.Machine

/-! Reduction blocks at a sluice (R364, R439, R452). The claim says that a whole sound block of a ring's REDUCE_SCATTER leaves memory as it
stands. But to add its contribution the member reads a tile of its own, and where that lies in a set of the reservoir that comes on, the
read waits for the end of the set's transition; what comes on from off is poison (R362), and so the tile is gone, with its bytes, as it is
read. -/
namespace Sys2Proof.Machine

/-- A REDUCE_SCATTER of view 0, rank 2 in a ring of three members, in on link 1 and out on link 0. -/
def scatterRecord : List Byte :=
  padTo 128 (packedFields [(2, 0x5000), (1, 0), (1, 0x40), (12, 0), (2, 0), (2, 0xFFFF), (2, 0xFFFF), (2, 0xFFFF), (2, 0xFFFF), (2, 0xFFFF), (4, 0),
    (1, 0), (1, 0), (1, 0), (1, 1), (2, 3), (2, 3), (2, 2), (2, 0), (2, 0), (2, 0), (8, 0), (1, 0), (1, 1)])

/-- That operation, running, its tile at the start of the reservoir of field 0. -/
def scatterOp : Op :=
  { Op.issue Ctx.reset scatterRecord with
    descs := [(0, oneElementView (2 ^ 44))], phase := .running, fields := [0]
    coll := some { anchor := 0, startFlags := 0#7, toDeliver := 0, toPass := 0, gathered := 0#7 } }

/-- The tile that it adds: one INT4 element, zero, under a sound seal. -/
def scatterTile : List Byte :=
  { scales := plainScales, format := 0x11, flags := 0, ceil := -32768, shape := 0x0201, valid := 1, tid := 7, tidx := 0
    tail := List.replicate 8 0#8 : Header }.slot (List.replicate 512 0#8)

/-- Its entry in link 1. -/
def scatterEntry : JobEntry :=
  { job := 7#16, redNo := 3#16, state := 1, ctx := 0, gen := 0#12, anchor := 0, policy := 0#8, floor := 0#8, members := 3, rank := 2
    expected := 1, added := 0, delivered := 0, shared := 0#7, ready := [9#16], started := [], seq := 0#32 }

/-- A block of zeros for tile 0, as staged, and its tail. -/
def zeroBlock : RedBlock := { RedBlock.blank 7#16 3#16 0#32 0 with count := 1 }
def zeroStaged : Staged :=
  { src := 9#16, job := 7#16, redNo := 3#16, index := 0#32, header := zeroBlock.header, payload := [], chunks := 0, units := 2 }
def zeroTail : Packet :=
  Packet.request 0x22 5 9 7 0 0 3 3 0 (leBytes 4 (blockSeal zeroStaged.header zeroStaged.payload) ++ List.replicate 28 0#8)

/-- The set of the tile, coming on from off. -/
def comingOn : SetPower := { SetPower.reset with state := .off, target := some .on }

/-- Node 5 with that part of the reduction, the block staged in link 1 and its tail come. -/
def scatterState : State :=
  { State.reset with
    hub := { Hub.reset with stage := 9, node := 5#16, routes := [(9, 0x80808080#32)] }
    mem := Mem.reset.write (2 ^ 44) scatterTile
    fields := State.reset.fields.set 0 { State.reset.field 0 with sets := (State.reset.field 0).sets.set 0 comingOn }
    links := ((State.reset.links.set 0 { State.reset.link 0 with state := 2, seenNode := 9#16 }).set 1
      { State.reset.link 1 with
        state := 2, seenNode := 9#16, rx := [(zeroTail.vl, zeroTail)], entries := [(0, scatterEntry)], staged := [zeroStaged] })
    ctxs := State.reset.ctxs.set 0 { Ctx.reset with
      state := .active, job := 7#16, fieldGroup := 0#8, windowOpen := true, descs := scatterOp.descs, ops := [scatterOp] } }

/-- The link, the entry and the part that take the block, and the member's contribution. -/
def scatterTaker : Nat × JobEntry × Part :=
  (scatterState.takerOf 1 zeroTail).getD (0, scatterEntry, scatterState.memberPart (Launch.of 0) scatterOp)
def scatterPart : Part := scatterTaker.2.2
def scatterBlock : RedBlock := (scatterPart.contribution scatterState 0#32).toOption.getD zeroBlock

theorem scatter_taker : scatterState.takerOf 1 zeroTail = some scatterTaker := by
  have hsome : (scatterState.takerOf 1 zeroTail).isSome = true := by decide +kernel
  obtain ⟨q, hq⟩ := Option.isSome_iff_exists.1 hsome
  rw [scatterTaker, hq]
  rfl

theorem scatter_contribution : scatterPart.contribution scatterState 0#32 = .ok scatterBlock :=
  ok_of_toBool (by decide +kernel) _

theorem scatter_sum : blockFault zeroBlock scatterBlock (RedBlock.add scatterPart.p.slicing zeroBlock scatterBlock) false = false := by
  decide +kernel

theorem scatterState_delivers : scatterState.delivers 0x22 1 zeroTail = true := by decide +kernel

/-- How many bytes that are not zero a next state's memory holds. -/
def bytesLeft (o : Host.Outcome State Fault Refusal) : Option Nat :=
  match o with
  | .next t => some t.mem.cells.length
  | _ => none

/-- The member's tile is gone once the block has been taken. -/
theorem scatter_gone : bytesLeft (exec (.redTail 1 zeroTail false) scatterState) = some 0 := by decide +kernel

/-- Refutes O53: the read of the member's tile ends a transition of its set, which poisons it. -/
theorem not_reductionBlocks : ¬ Obligations.ReductionBlocks := by
  unfold Obligations.ReductionBlocks
  intro h
  obtain ⟨-, -, -, -, -, htail⟩ := h scatterState 1 zeroTail (by decide)
  obtain ⟨v, -, hv, -, -, -, -, -, hcells⟩ := htail zeroStaged scatterTaker.1 scatterTaker.2.1 scatterPart zeroBlock scatterBlock 0
    scatterState_delivers (by decide +kernel) scatter_taker (by decide +kernel) (by decide +kernel) (by decide +kernel) (by decide +kernel)
    (by decide +kernel) (by decide +kernel) (by decide +kernel) (by decide +kernel) rfl (by decide +kernel) scatter_contribution scatter_sum
    (by decide +kernel) (by decide +kernel) (by decide) (by decide) (by decide +kernel)
  have hgone := scatter_gone
  rw [hv] at hgone
  have hsame : scatterState.mem.cells.length = 0 := by
    rw [← hcells]
    exact Option.some.inj hgone
  exact absurd hsame (by decide +kernel)

end Sys2Proof.Machine

/-! Resuming a preempted operation (R162, R341, R350). The claim says that a preempted operation takes its fields again and memory stays as it
is. But one that was preempted before it had begun its work goes on and begins it: a matrix product with `witness` looks its tiles up in
the context's witness slots, and a word that this read finds with a single-bit error waits for its write-back from then on. -/
namespace Sys2Proof.Machine

/-- The product of `witnessState`, preempted on field 0 before it had its anchor and shares. -/
def haltedProduct : Op := { witnessProduct with phase := .running, preempted := true, fields := [0] }

/-- A module whose context 0 has that product, with a single-bit error in the first word of the one used witness slot. -/
def haltedState : State :=
  { State.reset with
    hub := { Hub.reset with stage := 9 }
    mem := { Mem.reset with clean := [0, 1, 2, 3, 4, 5, 6, 7], ecc := [(0, BitVec.ofNat 72 (2 ^ 64))] }
    ctxs := State.reset.ctxs.set 0 { Ctx.reset with
      state := .active, fieldGroup := 0#8, windowOpen := true, descs := haltedProduct.descs, ops := [haltedProduct], witnessUsed := 1, witnessSlots := 1 } }

theorem haltedState_mayResume : (haltedState.ctx 0).ops.find? (haltedState.mayResume 0) = some haltedProduct := by decide +kernel

/-- The words that wait for a write-back in a next state. -/
def wordsWaiting (o : Host.Outcome State Fault Refusal) : Option (List Nat) :=
  match o with
  | .next t => some t.mem.writeBack
  | _ => none

theorem haltedState_resumes : wordsWaiting (exec (.preemptedResume 0) haltedState) = some [0] := by decide +kernel

/-- Refutes O51: as the product begins its work, a word comes to wait for its write-back. -/
theorem not_preemptionSaves : ¬ Obligations.PreemptionSaves := by
  unfold Obligations.PreemptionSaves
  intro h
  obtain ⟨-, -, -, hresume⟩ := h haltedState
  obtain ⟨t, ht, -, -, hmem, -⟩ := hresume 0 haltedProduct haltedState_mayResume
  have hwaits := haltedState_resumes
  rw [ht] at hwaits
  have hsame : haltedState.mem.writeBack = [0] := by
    rw [← hmem]
    exact Option.some.inj hwaits
  exact absurd hsame (by decide)

end Sys2Proof.Machine

/-! Proofs about mirror copies (R505 to R509). -/
namespace Sys2Proof.Machine
set_option Elab.async false -- the side conditions of the frames below are elaborated in place, not each in a thread of its own

/-! ## The table of copies -/

/-- A change of the copies with this number. -/
def onNumber (id : Nat) (f : Copy → Copy) (e : Nat × Copy) : Nat × Copy := if e.1 = id then (e.1, f e.2) else e

theorem onNumber_fst (id : Nat) (f : Copy → Copy) (e : Nat × Copy) : (onNumber id f e).1 = e.1 := by
  rw [onNumber]
  split <;> rfl

theorem tableGet?_map_onNumber (id : Nat) (f : Copy → Copy) (l : List (Nat × Copy)) :
    tableGet? (l.map (onNumber id f)) id = (tableGet? l id).map f := by
  induction l with
  | nil => rfl
  | cons e l ih =>
    obtain ⟨n, k⟩ := e
    by_cases h : n = id <;> simp [onNumber, tableGet?, h, ih]

theorem tableGet?_eq_none_of_ne {α : Type} {l : List (Nat × α)} {id : Nat} (h : ∀ e ∈ l, e.1 ≠ id) : tableGet? l id = none := by
  induction l with
  | nil => rfl
  | cons e l ih =>
    obtain ⟨n, k⟩ := e
    rw [tableGet?, if_neg (h _ (List.mem_cons_self ..)), ih fun x hx => h x (List.mem_cons_of_mem _ hx)]

/-- Every copy with this number is this one. -/
def Alone (id : Nat) (k : Copy) (l : List (Nat × Copy)) : Prop := ∀ e ∈ l, e.1 = id → e.2 = k

theorem alone_map_onNumber {id : Nat} {k : Copy} {l : List (Nat × Copy)} (f : Copy → Copy) (h : Alone id k l) :
    Alone id (f k) (l.map (onNumber id f)) := by
  intro e he hid
  obtain ⟨d, hd, rfl⟩ := List.mem_map.1 he
  rw [onNumber_fst] at hid
  rw [onNumber, if_pos hid, h d hd hid]

theorem alone_map_const (id : Nat) (k : Copy) (l : List (Nat × Copy)) : Alone id k (l.map (onNumber id fun _ => k)) := by
  intro e he hid
  obtain ⟨d, -, rfl⟩ := List.mem_map.1 he
  rw [onNumber_fst] at hid
  rw [onNumber, if_pos hid]

/-! ## What the effects of a copy leave -/

/-- What the writes of a copy touch. -/
def Place.copied : Place → Prop
  | .hub | .hubCore | .link _ | .linkInject _ | .field _ => True
  | _ => False

theorem copied_sends : Sends Place.copied := ⟨trivial, fun _ => trivial, fun _ => trivial⟩

/-- What its reads, its writes and the answer to its command touch. -/
def Place.mirrored : Place → Prop
  | .hub | .hubCore | .link _ | .linkInject _ | .field _ | .out | .port | .mem | .tiles | .evc | .ring _ | .stack _ => True
  | _ => False

theorem mirrored_answers : Answers Place.mirrored := ⟨⟨trivial, fun _ => trivial, fun _ => trivial⟩, trivial, trivial⟩

theorem mirrored_touches : Touches Place.mirrored :=
  ⟨⟨trivial, fun _ => trivial, fun _ => trivial⟩, trivial, trivial, trivial, fun _ => trivial⟩

theorem Fx.Within.copies_eq {F : Place → Prop} {a : Fx} (h : a.Within F) (s : State) (hF : ¬ F .hubCore) :
    (a.run s).hub.copies = s.hub.copies :=
  (congrArg Hub.copies (h.hubCore_eq s hF) :)

/-- A copy that waits for more acknowledgements. -/
def Copy.owed (n : Nat) (k : Copy) : Copy := { k with acks := k.acks + n }

section
variable {s : State} {n : Nat}

theorem copies_onCopy (f : Copy → Copy) : ((onCopy n f).run s).hub.copies = s.hub.copies.map (onNumber n f) := rfl

theorem copy_onCopy (f : Copy → Copy) : tableGet? ((onCopy n f).run s).hub.copies n = (tableGet? s.hub.copies n).map f :=
  tableGet?_map_onNumber n f _

theorem sendBytes_copied (k : Copy) (j off : Nat) (bs : List Byte) : (sendBytes n k j off bs).Within Place.copied :=
  sendBytes_within copied_sends trivial

/-- Every packet of the bytes is owed an acknowledgement. -/
theorem copy_sendBytes (k : Copy) (j off : Nat) (bs : List Byte) :
    tableGet? ((sendBytes n k j off bs).run s).hub.copies n = (tableGet? s.hub.copies n).map (Copy.owed (cut512 256 0 bs).length) := by
  rw [sendBytes, Fx.run_look]
  generalize s.own = own
  induction cut512 256 0 bs generalizing s with
  | nil => cases h : tableGet? s.hub.copies n <;> simp [Copy.owed, h]
  | cons q l ih =>
    have hsend : (sendCopy k.links k.field j (k.packet own (off + q.1) 0 q.2)).Within Place.sent := sendCopy_within sent_sends
    rw [Fx.run_each_cons, ih, Fx.run_andThen, hsend.copies_eq _ id, copy_onCopy, Option.map_map]
    congr 1
    funext x
    simp [Copy.owed, Nat.add_assoc, Nat.add_comm 1]

theorem copies_endCopies (cond : Copy → Bool) (status : Nat) :
    ((endCopies cond status).run s).hub.copies = s.hub.copies.filter (fun e => !cond e.2) := by
  rw [endCopies, Fx.run_look]
  simp only [Fx.run_all_cons, Fx.run_all_nil]
  have hrelease (l : List (Nat × Copy)) : (Fx.each l (fun k => releaseClaim k.2)).Within Place.sent :=
    .each fun _ => releaseClaim_within sent_sends
  rw [(hrelease _).copies_eq _ id, Fx.run_hub, State.modHub_hub]
  dsimp only
  rw [Fx.Within.copies_eq (F := Place.sent) (.each fun _ => .link trivial (hi := .inl trivial)) _ id,
    (finishWaits_answered _ _ _).copies_eq _ id]

/-- A copy that ends is gone from the table, when no other has its number. -/
theorem endCopies_gone {k : Copy} (h : Alone n k s.hub.copies) (status : Nat) :
    tableGet? ((endCopies (fun o => o == k) status).run s).hub.copies n = none := by
  rw [copies_endCopies]
  refine tableGet?_eq_none_of_ne fun e he hid => ?_
  obtain ⟨hmem, hne⟩ := List.mem_filter.1 he
  simp [h e hmem hid] at hne

theorem endCopies_kept (cond : Copy → Bool) (status : Nat) :
    ((endCopies cond status).run s).mem = s.mem ∧ ((endCopies cond status).run s).ctxs = s.ctxs := by
  have h : (endCopies cond status).Within (fun p => p ≠ .mem ∧ ∀ c, p ≠ .ctx c) :=
    endCopies_within ⟨⟨⟨nofun, nofun⟩, fun _ => ⟨nofun, nofun⟩, fun _ => ⟨nofun, nofun⟩⟩, ⟨nofun, nofun⟩, ⟨nofun, nofun⟩⟩ ⟨nofun, nofun⟩
  exact ⟨h.mem_eq _ (fun e => e.1 rfl), h.ctxs_eq (fun c e => e.2 c rfl) _⟩

end

/-! ## Tiles of the source (R508, R509) -/

section
variable {s u : State} (hmem : u.mem = s.mem) (hacc : SameAccess s u) (hown : u.own = s.own) (hstacks : ∀ i, u.stack i = s.stack i)
include hmem hacc hown hstacks

theorem copyReads_congr (o len : Nat) : u.copyReads o len = s.copyReads o len := by
  simp only [State.copyReads, hmem, hacc.access, hown, State.placeOf, State.pcOf, hstacks]

theorem copySlot_congr (fld stop o : Nat) : u.copySlot fld stop o = s.copySlot fld stop o := by
  simp only [State.copySlot, hmem, hown, copyReads_congr hmem hacc hown hstacks]

end

section
variable {s : State} {n : Nat} {k : Copy}

theorem copyTile_gone (h : tableGet? s.hub.copies n = none) : (copyTile n).run s = s := by
  rw [copyTile, Fx.run_look, h]
  rfl

/-- A copy whose next tile has gone out. -/
def Copy.sentTile (len : Nat) (k : Copy) : Copy :=
  { k with next := k.next + len, sent := k.sent + 1, round := k.round ++ [(k.target.toNat * 2 ^ 48 + k.place k.next, len)] }

/-- The next tile goes out, and its packets are owed their acknowledgements. -/
theorem copyTile_sent (h : tableGet? s.hub.copies n = some k) (hlt : k.next < k.src + k.len) {bytes : List Byte}
    (hok : s.copySlot k.field (k.src + k.len) k.next = .ok bytes) :
    tableGet? ((copyTile n).run s).hub.copies n = some ((k.sentTile bytes.length).owed (cut512 256 0 bytes).length) := by
  have hprogress : (progress k.field 7).Within (fun p => p = .field k.field) := progress_within rfl
  have htouch := touchRange_touched (memKey 0 k.next) (s.copyLength k.next)
  rw [copyTile, Fx.run_look, h, Option.filter_some, if_pos (by simpa using hlt)]
  dsimp only
  rw [hok]
  simp only [Fx.run_all_cons, Fx.run_all_nil]
  rw [hprogress.copies_eq _ nofun, copy_sendBytes, copy_onCopy, htouch.copies_eq _ id, h]
  rfl

/-- A tile that fails its checks ends its copy. -/
theorem copyTile_stopped (h : tableGet? s.hub.copies n = some k) (halone : Alone n k s.hub.copies) (hlt : k.next < k.src + k.len) {e : Stop}
    (herr : s.copySlot k.field (k.src + k.len) k.next = .error e) : tableGet? ((copyTile n).run s).hub.copies n = none := by
  have htouch := touchRange_touched (memKey 0 k.next) (s.copyLength k.next)
  have hraise : (Fx.each e.events (fun v => raise v.src v.cls v.code (k.ctx.bind s.who) v.p0 v.p1 0)).Within Place.touched :=
    .each fun _ => raise_within trivial trivial fun _ => trivial
  rw [copyTile, Fx.run_look, h, Option.filter_some, if_pos (by simpa using hlt)]
  dsimp only
  rw [herr]
  simp only [Fx.run_all_cons, Fx.run_all_nil]
  exact endCopies_gone (by rwa [htouch.copies_eq _ id, hraise.copies_eq _ id]) _

/-! ## The start of a copy -/

theorem manifest_length (s : State) (k : Copy) (st : Nat) : (manifest s k st).length = 64 := by simp [manifest]

theorem cut512_manifest (s : State) (k : Copy) (st : Nat) : (cut512 256 0 (manifest s k st)).length = 1 := by
  have h := manifest_length s k st
  generalize manifest s k st = l at h
  have hdrop : l.drop 512 = [] := List.drop_eq_nil_of_le (by omega)
  simp [cut512, List.ne_nil_of_length_pos (l := l) (by omega), hdrop]

/-- A copy that begins, with what it keeps of its source context. -/
def Copy.begun (x : Ctx) (k : Copy) : Copy := { k with running := true, stage := 1, step := x.step, updates := x.updates, keeper := x.keeper }

/-- A copy that is about to send tiles. -/
def Copy.rounds (k : Copy) : Copy := { k with stage := 2, round := [] }

/-- The module with a copy begun. -/
def State.copying (s : State) (n : Nat) (k : Copy) : State :=
  (progress k.field 7).run ((onCopy n fun _ => k.begun (s.ctx (k.ctx.getD 0))).run s)

theorem runCopy_run : (runCopy n k).run s =
    (if k.ctx.isSome then sendBytes n (k.begun (s.ctx (k.ctx.getD 0))) 0 0 (manifest s (k.begun (s.ctx (k.ctx.getD 0))) 0)
      else copyRound n).run (s.copying n k) := rfl

theorem copying_mem : (s.copying n k).mem = s.mem := rfl

theorem copying_ctxs : (s.copying n k).ctxs = s.ctxs := rfl

theorem copying_copies : (s.copying n k).hub.copies = s.hub.copies.map (onNumber n fun _ => k.begun (s.ctx (k.ctx.getD 0))) := rfl

theorem copying_frame (f : Nat) : ((s.copying n k).field f).frame = (s.field f).frame := by
  have hprogress : (progress k.field 7).Within (fun p => p = .field k.field) := progress_within rfl
  rw [State.copying, hprogress.fieldFrame_eq _ nofun]
  rfl

theorem copying_copySlot (fld stop o : Nat) :
    ((onCopy n Copy.rounds).run (s.copying n k)).copySlot fld stop o = s.copySlot fld stop o :=
  copySlot_congr (s := s) (u := (onCopy n Copy.rounds).run (s.copying n k)) rfl ⟨rfl, copying_frame, fun _ => rfl⟩ rfl (fun _ => rfl) fld stop o

theorem copyRound_run (h : tableGet? s.hub.copies n = some k) : (copyRound n).run s =
    (Fx.each (List.range (max 1 k.links.length)) (fun _ => copyTile n)).run ((onCopy n Copy.rounds).run s) := by
  rw [copyRound, Fx.run_look, h]
  rfl

/-- The first round of a copy that has begun: its first tile, and then those of the other links. -/
theorem copyRound_copying (h : tableGet? s.hub.copies n = some k) : ∃ m, (k.links.length ≤ 1 → m = 0) ∧ (copyRound n).run (s.copying n k) =
    (Fx.each ((List.range m).map Nat.succ) (fun _ => copyTile n)).run ((copyTile n).run ((onCopy n Copy.rounds).run (s.copying n k))) := by
  refine ⟨max 1 k.links.length - 1, by omega, ?_⟩
  have hbegun : tableGet? (s.copying n k).hub.copies n = some (k.begun (s.ctx (k.ctx.getD 0))) := by
    rw [copying_copies, tableGet?_map_onNumber, h]
    rfl
  rw [copyRound_run hbegun, ← Fx.run_each_cons, ← List.range_succ_eq_map]
  congr 3
  simp only [Copy.begun]
  omega

/-- A copy of the module that has begun, alone under its number, and about to send tiles. -/
theorem copying_rounds (h : tableGet? s.hub.copies n = some k) (hc : k.ctx = none) :
    tableGet? ((onCopy n Copy.rounds).run (s.copying n k)).hub.copies n = some (k.begun (s.ctx 0)).rounds ∧
      Alone n (k.begun (s.ctx 0)).rounds ((onCopy n Copy.rounds).run (s.copying n k)).hub.copies := by
  rw [copies_onCopy, copying_copies, hc, tableGet?_map_onNumber, tableGet?_map_onNumber, h]
  exact ⟨rfl, alone_map_onNumber Copy.rounds (alone_map_const n (k.begun (s.ctx 0)) _)⟩

end

/-! ## The commands of a copy -/

section
variable {s : State} {n : Nat} {k : Copy} (hk : tableGet? s.hub.copies n = some k)
include hk

theorem mirrorCopyStart_begins (hready : s.copyReady k = true) (hnode : s.hub.node ≠ 0xFFFF#16) (hlinks : k.links.all s.upLinks.contains = true)
    (hroute : k.links ≠ [] ∨ (s.routeFor k.target.toNat 0).isSome = true) : exec (.mirrorCopyStart n) s = .next ((runCopy n k).run s) := by
  change execMirrorCopyStart n s = _
  have hgo : ¬ (decide (s.hub.node = 0xFFFF#16) || !k.links.all s.upLinks.contains
      || (k.links.isEmpty && (s.routeFor k.target.toNat 0).isNone)) = true := by
    rw [hlinks]
    rcases hroute with h | h
    · simp [hnode, h]
    · simp [hnode, Option.isSome_iff_ne_none.1 h]
  rw [execMirrorCopyStart, hk]
  dsimp only
  rw [hready, if_neg hgo, Fx.outcome_eq, Fx.run_when_true]

theorem mirrorCopyStart_refused (hready : s.copyReady k = true) (h : s.hub.node = 0xFFFF#16 ∨ k.links.all s.upLinks.contains = false) :
    exec (.mirrorCopyStart n) s = .next ((endCopies (fun o => o == k) stNoResource).run s) := by
  change execMirrorCopyStart n s = _
  have hstop : (decide (s.hub.node = 0xFFFF#16) || !k.links.all s.upLinks.contains
      || (k.links.isEmpty && (s.routeFor k.target.toNat 0).isNone)) = true := by
    rcases h with h | h
    · simp [h]
    · rw [h]
      simp
  rw [execMirrorCopyStart, hk]
  dsimp only
  rw [hready, if_pos hstop, Fx.outcome_eq, Fx.run_when_true]

/-- Toward a region the manifest goes out, and its acknowledgement is owed. -/
theorem runCopy_region {c : Nat} (hc : k.ctx = some c) {t : State} (ht : (runCopy n k).run s = t) :
    tableGet? t.hub.copies n = some ((k.begun (s.ctx c)).owed 1) ∧ t.mem = s.mem ∧ t.ctxs = s.ctxs := by
  have hsent := sendBytes_copied (n := n) (k.begun (s.ctx c)) 0 0 (manifest s (k.begun (s.ctx c)) 0)
  have hone : (cut512 256 0 (manifest s (k.begun (s.ctx c)) 0)).length = 1 := cut512_manifest ..
  rw [runCopy_run, if_pos (by rw [hc]; rfl), show k.ctx.getD 0 = c by rw [hc]; rfl] at ht
  subst ht
  refine ⟨?_, (hsent.mem_eq _ id).trans copying_mem, (hsent.ctxs_eq (fun _ => id) _).trans copying_ctxs⟩
  rw [copy_sendBytes, copying_copies, tableGet?_map_onNumber, hk, hc]
  exact congrArg (fun m => some ((k.begun (s.ctx c)).owed m)) hone

omit hk in
/-- Toward a window a tile goes out for each link. -/
theorem runCopy_window (hc : k.ctx = none) {t : State} (ht : (runCopy n k).run s = t) : t.mem.cells = s.mem.cells ∧ t.ctxs = s.ctxs := by
  have hround : (copyRound n).Within Place.mirrored := copyRound_within mirrored_answers mirrored_touches trivial
  rw [runCopy_run, if_neg (by simp [hc])] at ht
  subst ht
  exact ⟨(hround.cells_eq _ id).trans (congrArg Mem.cells copying_mem), (hround.ctxs_eq (fun _ => id) _).trans copying_ctxs⟩

/-- A copy toward a window sends its first tile as it starts. -/
theorem runCopy_tile (hc : k.ctx = none) (hlt : k.next < k.src + k.len) {bytes : List Byte} (hone : k.links.length ≤ 1)
    (hok : s.copySlot k.field (k.src + k.len) k.next = .ok bytes) : tableGet? ((runCopy n k).run s).hub.copies n =
      some (((k.begun (s.ctx 0)).rounds.sentTile bytes.length).owed (cut512 256 0 bytes).length) := by
  obtain ⟨m, hm, hrun⟩ := copyRound_copying hk
  obtain ⟨hcopy, -⟩ := copying_rounds hk hc
  obtain rfl := hm hone
  rw [runCopy_run, if_neg (by simp [hc]), hrun]
  exact copyTile_sent hcopy hlt (by rw [copying_copySlot]; exact hok)

/-- A first tile that fails its checks ends the copy as it starts. -/
theorem runCopy_stops (hc : k.ctx = none) (hlt : k.next < k.src + k.len) {e : Stop}
    (herr : s.copySlot k.field (k.src + k.len) k.next = .error e) : tableGet? ((runCopy n k).run s).hub.copies n = none := by
  obtain ⟨m, -, hrun⟩ := copyRound_copying hk
  obtain ⟨hcopy, halone⟩ := copying_rounds hk hc
  have hgone := copyTile_stopped hcopy halone hlt (e := e) (by rw [copying_copySlot]; exact herr)
  rw [runCopy_run, if_neg (by simp [hc]), hrun, each_idle fun _ _ => copyTile_gone hgone]
  exact hgone

/-! ## The end of a copy -/

/-- A copy whose last write is acknowledged leaves the table, and its command is answered. -/
theorem copyGoesOn_ends (hrun : k.running = true) (hacks : k.acks = 0) (hstage : k.stage = 5) {t : State} (ht : (copyGoesOn n).run s = t) :
    tableGet? t.hub.copies n = none ∧ (∀ w ∈ t.port.waits, w.kind ≠ .mirrorCopy n) ∧ t.mem = s.mem ∧ t.ctxs = s.ctxs ∧
      ∀ i, (t.link i).rx = (s.link i).rx := by
  rw [copyGoesOn, Fx.run_look, hk] at ht
  dsimp only at ht
  rw [hrun, hacks, hstage, Fx.run_when, if_pos (by rfl), if_neg (by simp), if_neg (by simp), if_pos rfl, Fx.run_andThen, Fx.run_hub] at ht
  subst ht
  have hanswer (c : WaitKind → Bool) := finishWaits_answered c stOk []
  refine ⟨?_, fun w hw e => ?_, (hanswer _).mem_eq _ id, (hanswer _).ctxs_eq (fun _ => id) _, fun i => (hanswer _).linkRx_eq _ id⟩
  · rw [(hanswer _).copies_eq _ id]
    exact tableGet?_erase_self _ _
  · have hwait := finishWaits_ended _ _ _ _ w hw
    simp [e] at hwait

theorem mirrorCopyDone_run (hrun : k.running = true) (hacks : k.acks = 0) (hstage : k.stage = 4) : exec (.mirrorCopyDone n) s = .next
    ((if k.ctx.isSome then sendBytes n k 0 0 (manifest s k 1) else copyGoesOn n).run ((onCopy n fun k => { k with stage := 5 }).run s)) := by
  change execMirrorCopyDone n s = _
  rw [execMirrorCopyDone, hk]
  dsimp only
  rw [hrun, hacks, hstage]
  rfl

/-- The acknowledgement of a complete manifest ends its copy. -/
theorem copyAcked_ends {p : Packet} (hfind : s.hub.copies.find? (fun x => x.2.awaits p) = some (n, k)) (hstage : k.stage = 5) (hacks : k.acks = 1)
    (hok : p.aux.toNat = stOk) {t : State} (ht : (copyAcked p).run s = t) :
    tableGet? t.hub.copies n = none ∧ (∀ w ∈ t.port.waits, w.kind ≠ .mirrorCopy n) ∧ t.mem = s.mem ∧ t.ctxs = s.ctxs ∧
      ∀ i, (t.link i).rx = (s.link i).rx := by
  have hawaits : k.awaits p = true := by
    have h := List.find?_some hfind
    exact h
  have hrun : k.running = true := by
    simp only [Copy.awaits, Bool.and_eq_true] at hawaits
    exact hawaits.1.1.1.1
  rw [copyAcked, Fx.run_look, hfind] at ht
  dsimp only at ht
  rw [if_pos hok, Fx.run_andThen] at ht
  have hcopy : tableGet? ((onCopy n fun k => { k with acks := k.acks - 1 }).run s).hub.copies n = some { k with acks := k.acks - 1 } := by
    rw [copy_onCopy, hk]
    rfl
  exact copyGoesOn_ends hcopy hrun (by simp [hacks]) hstage ht

end

/-- Settles O40: a start runs the copy or ends it, and an end takes it out of the table; reads of tiles alone touch memory, and leave its
bytes. -/
theorem mirrorCopies : Obligations.MirrorCopies := by
  unfold Obligations.MirrorCopies
  intro s n k hk
  refine ⟨fun hready hno => ?_, fun c hready hnode hlinks hroute hc => ?_, fun hready hnode hlinks hroute hc hlt => ⟨?_, ?_⟩,
    fun hrun hacks hstage => ⟨fun hsome => ?_, fun hc => ?_⟩, fun i p hd hjob hfind hstage hacks hok => ?_⟩
  · refine ⟨_, mirrorCopyStart_refused hk hready hno, fun x hx e => ?_, endCopies_kept _ _⟩
    rw [copies_endCopies] at hx
    simpa [e] using (List.mem_filter.1 hx).2
  · obtain ⟨hcopy, hmem, hctxs⟩ := runCopy_region hk hc rfl
    exact ⟨_, _, mirrorCopyStart_begins hk hready hnode hlinks hroute, hcopy, rfl, rfl, rfl, rfl, rfl, rfl, rfl, rfl, hmem, hctxs⟩
  · intro bytes hone hok
    exact ⟨_, _, mirrorCopyStart_begins hk hready hnode hlinks hroute, runCopy_tile hk hc hlt hone hok, rfl, rfl, rfl, rfl, rfl,
      runCopy_window hc rfl⟩
  · intro e herr
    exact ⟨_, mirrorCopyStart_begins hk hready hnode hlinks hroute, runCopy_stops hk hc hlt herr, runCopy_window hc rfl⟩
  · have hsent := sendBytes_copied (n := n) k 0 0 (manifest s k 1)
    have hexec := mirrorCopyDone_run hk hrun hacks hstage
    rw [if_pos hsome] at hexec
    refine ⟨_, hexec, ?_, hsent.port_eq _ id, hsent.mem_eq _ id, hsent.ctxs_eq (fun _ => id) _⟩
    rw [copy_sendBytes, copy_onCopy, hk, cut512_manifest]
    simp [Copy.owed, hacks]
  · have hexec := mirrorCopyDone_run hk hrun hacks hstage
    rw [if_neg (by simp [hc])] at hexec
    obtain ⟨hgone, hwaits, hmem, hctxs, -⟩ := copyGoesOn_ends (k := { k with stage := 5 })
      (by rw [copy_onCopy, hk]; rfl) hrun hacks rfl (rfl : (copyGoesOn n).run ((onCopy n fun k => { k with stage := 5 }).run s) = _)
    exact ⟨_, hexec, hgone, hwaits, hmem, hctxs⟩
  · have htaken := takePacket_taken i p
    have hcopies : ((takePacket i p).run s).hub.copies = s.hub.copies := htaken.copies_eq s id
    obtain ⟨hgone, hwaits, hmem, hctxs, hrx⟩ := copyAcked_ends (s := (takePacket i p).run s) (by rwa [hcopies]) (by rwa [hcopies]) hstage hacks hok
      rfl
    have hexec := acknowledge_next _ (List.mem_cons_self ..) hd
    have hack : (acknowledge i p).run s = (copyAcked p).run ((takePacket i p).run s) := by
      rw [acknowledge, Fx.run_look, Fx.run_andThen, if_pos hjob]
    rw [hack] at hexec
    exact ⟨_, hexec, hgone, hwaits, (hrx i).trans takePacket_erases, hmem.trans (htaken.mem_eq s id), hctxs.trans (htaken.ctxs_eq (fun _ => id) s)⟩

end Sys2Proof.Machine

/-! Grants to an operation of a chain (R150, R159, R342). The claim says that a grant changes the tile rows of the fields that take part
and of no other. But an operation of a chain with comparisons also notes the sums that it adds to, and that read poisons a word whose
check fails, on whichever field of the operation the word lies: also on one whose share is empty and which takes no grant. -/
namespace Sys2Proof.Machine

/-- A word of zero whose residue is off. -/
def brokenWord : L128 := { L128.zero with residue := 1 }

/-- The product of `witnessState` with an output of one element, on fields 0 and 1, in a chain, all of it the share of field 0. -/
def chainProduct : Op :=
  { witnessProduct with
    descs := [(0, squareView (2 ^ 24) 3), (1, oneElementView (2 ^ 21))], phase := .running, fields := [0, 1], comparisons := 1
    mat := some { MatRun.waiting 2 with
      chosen := true, chain := true, grant := 1, rows := [1, 0], shares := [⟨0, 32, 0, 32, 0, 32⟩, ⟨0, 0, 0, 0, 0, 0⟩] } }

/-- A tile row of that product with a broken word, and the comparison that stands at it. -/
def brokenRow : TileRow := { TileRow.reset with state := .open, placed := true, words := [(0, brokenWord)] }
def chainComparison : Comparison :=
  { ctx := 0, seq := 0#32, tile := 0, operand := 0, picked := 0, slot := 0, anchor := 0, sums := [], base := [] }

/-- A module with that product waiting for its grant: field 0 has the comparison, field 1 the row. -/
def chainState : State :=
  { State.reset with
    hub := { Hub.reset with stage := 9 }
    fields := (State.reset.fields.set 0 { State.reset.field 0 with running := some (0, 0#32), comparisons := [chainComparison] }).set 1
      { State.reset.field 1 with running := some (0, 0#32), tileRows := (State.reset.field 1).tileRows.set 0 brokenRow }
    ctxs := State.reset.ctxs.set 0 { Ctx.reset with
      state := .active, fieldGroup := 0#8, windowOpen := true, descs := chainProduct.descs, ops := [chainProduct] } }

/-- The run and the plan of its grant. -/
def chainRun : MatRun := chainProduct.mat.getD (MatRun.waiting 2)
def chainPlan : Plan := ⟨chainRun.axis, chainRun.shares, chainRun.grant, chainRun.rows⟩

theorem chainState_grantable : chainState.grantable 0 = some (chainProduct, chainRun, chainPlan) := by decide +kernel

/-- The words of tile row 0 of field 1 in a next state. -/
def idleWords (o : Host.Outcome State Fault Refusal) : Option (List (Nat × L128)) :=
  match o with
  | .next t => (t.field 1).tileRows.head?.map TileRow.words
  | _ => none

theorem chainState_noted : idleWords (exec (.basinGrant ⟨0, [], []⟩) chainState) = some [(0, L128.poisoned)] := by decide +kernel

/-- Refutes O48: the broken word of field 1, which takes no grant, is poisoned. -/
theorem not_basinGrants : ¬ Obligations.BasinGrants := by
  unfold Obligations.BasinGrants
  intro h
  obtain ⟨hgrant, -⟩ := h chainState 0 chainProduct chainRun chainPlan [] [] chainState_grantable (by decide +kernel) (by decide) (by decide)
    (by decide +kernel) (fun _ _ => by decide)
  obtain ⟨t, v, ht, -, -, -, hrows, -⟩ := hgrant (by decide +kernel) (by decide +kernel)
  have hnoted := chainState_noted
  have hidle := hrows 1 (by decide +kernel)
  rw [ht, idleWords, hidle] at hnoted
  exact absurd hnoted (by decide +kernel)

end Sys2Proof.Machine

/-! Drains of a product with K = 0 (R127, R149, R197). The claim says that a tile row that has started to drain drains or is free. But as
its tiles have left, the row is free, and a product with K = 0 goes on at once: its next output block takes the row, which is open again,
whole and ready to drain in its turn. -/
namespace Sys2Proof.Machine

/-- A descriptor of an FP16 tensor whose one tile lies on padding (R238). -/
def paddingView (off : Nat) : DescEntry :=
  { bytes := packedFields [(8, 0xFFFF * 2 ^ 48 + off), (1, 2), (1, 2), (2, 0x0201), (4, 1), (4, 1), (12, 0), (4, 1), (4, 1), (12, 0), (1, 3),
      (1, 255), (2, 0xFFFF), (6, 7), (2, 0)]
    aliasFree := true }

/-- A MATMUL of view 0 by itself into view 1, M = 33, N = 1, K = 0: two blocks of one tile row each under a grant of one. -/
def zeroRecord : List Byte :=
  padTo 128 (packedFields [(2, 0x1000), (14, 0), (2, 0), (2, 0), (2, 0xFFFF), (2, 0xFFFF), (2, 1), (2, 0xFFFF), (4, 0), (4, 33), (4, 1), (4, 0), (4, 1)])

/-- The run of that product, with its first block placed. -/
def zeroRun : MatRun :=
  { MatRun.waiting 1 with
    chosen := true, granted := true, grant := 1, rows := [1], shares := sharesOf 33 1 0 1 0, progress := [1] }

/-- That product on field 0. -/
def blankProduct : Op :=
  { Op.issue Ctx.reset zeroRecord with
    descs := [(0, paddingView (2 ^ 24)), (1, paddingView (2 ^ 25))], phase := .running, fields := [0], mat := some zeroRun }

/-- The tile row of its first block. -/
def zeroRow : TileRow := { TileRow.reset with state := .open, out := 1, placed := true, complete := true }

/-- A module that runs it. -/
def zeroState : State :=
  { State.reset with
    hub := { Hub.reset with stage := 9 }
    fields := State.reset.fields.set 0
      { State.reset.field 0 with running := some (0, 0#32), tileRows := (State.reset.field 0).tileRows.set 0 zeroRow }
    ctxs := State.reset.ctxs.set 0 { Ctx.reset with
      state := .active, fieldGroup := 0#8, windowOpen := true, descs := blankProduct.descs, ops := [blankProduct] } }

theorem zeroState_matOn : zeroState.matOn 0 = some (0, blankProduct, zeroRun, 0) := by decide +kernel

theorem zeroRow_ready : zeroRow.ready blankProduct zeroRun 0 (matBlocks ((zeroState.ctx 0).asIssued blankProduct) blankProduct zeroRun 0)
    ((zeroState.field 0).tileRows ++ []) = true := by decide +kernel

/-- The state of tile row 0 of field 0 in a next state. -/
def firstRow (o : Host.Outcome State Fault Refusal) : Option TileState :=
  match o with
  | .next t => some ((t.field 0).tileRows.getD 0 TileRow.reset).state
  | _ => none

theorem zeroState_drained : firstRow (exec (.drainStart 0 0 []) zeroState) = some .open := by decide +kernel

/-- Refutes O50: the row that drained is open again. -/
theorem not_partialsAndDrains : ¬ Obligations.PartialsAndDrains := by
  unfold Obligations.PartialsAndDrains
  rintro ⟨-, -, h⟩
  obtain ⟨-, -, -, -, hdrain⟩ := h zeroState 0
  obtain ⟨t, ht, hstate, -⟩ := hdrain 0 blankProduct zeroRun 0 0 [] zeroRow [] zeroState_matOn (by decide +kernel) (by decide +kernel)
    (by decide +kernel) zeroRow_ready (by decide +kernel)
  have hopen := zeroState_drained
  rw [ht, firstRow] at hopen
  rcases hstate with k | k <;> rw [k] at hopen <;> exact absurd hopen (by decide)

end Sys2Proof.Machine

/-! A pass that meets an operand which it cannot read (R122, R350). The claim says that such a pass ends its operation and leaves memory as
it is, where it lowers nothing. But the pass reads the tile all the same: a word of it with a single-bit error is corrected and waits for
its write-back, and the poisoned word beside it ends the operation. -/
namespace Sys2Proof.Machine

/-- A MATMUL of view 0 by itself into view 1, M = N = K = 1. -/
def unitRecord : List Byte :=
  padTo 128 (packedFields [(2, 0x1000), (14, 0), (2, 0), (2, 0), (2, 0xFFFF), (2, 0xFFFF), (2, 1), (2, 0xFFFF), (4, 0), (4, 1), (4, 1), (4, 1), (4, 1)])

/-- The run of that product before its one pass. -/
def unitRun : MatRun :=
  { MatRun.waiting 1 with chosen := true, granted := true, grant := 1, rows := [1], shares := sharesOf 1 1 1 1 0, firstLoad := [0] }

/-- That product on field 0. -/
def unitProduct : Op :=
  { Op.issue Ctx.reset unitRecord with
    descs := [(0, oneElementView 0), (1, oneElementView (2 ^ 21))], phase := .running, fields := [0], mat := some unitRun }

/-- A module that runs it. Of its operand the first word was written, and has a single-bit error; the others are poison. -/
def unitState : State :=
  { State.reset with
    hub := { Hub.reset with stage := 9 }
    mem := { Mem.reset with clean := [0, 1, 2, 3, 4, 5, 6, 7], ecc := [(0, BitVec.ofNat 72 (2 ^ 64))] }
    fields := State.reset.fields.set 0 { State.reset.field 0 with running := some (0, 0#32) }
    ctxs := State.reset.ctxs.set 0 { Ctx.reset with
      state := .active, fieldGroup := 0#8, windowOpen := true, descs := unitProduct.descs, ops := [unitProduct] } }

/-- The module as the product sees it, its passes, the first of them, and the rows that it places. -/
def unitView : State := unitState.asIssued 0 unitProduct
def unitGeo : Geo := geoOf (unitView.ctx 0) unitRecord
def unitPasses : List Pass := matPasses (unitView.ctx 0) unitProduct unitRun 0
def unitPass : Pass := unitPasses.getD 0 ⟨⟨0, 0, 0, 0, 0⟩, 0, 0, 0, 0, 0, false, false⟩
def unitRows : List TileRow := (unitState.field 0).tileRows.set 0 { grantedRow unitState 0 unitProduct unitRun with placed := true }

theorem unitState_matOn : unitState.matOn 0 = some (0, unitProduct, unitRun, 0) := by decide +kernel

theorem unitState_places : placeRows 0 unitProduct.seq (unitRun.rows.getD 0 0) (grantedRow unitState 0 unitProduct unitRun) unitPass.blk.batch
    unitPass.blk.n0 (if unitPass.first then unitPass.blk.rows else []) (unitState.field 0).tileRows = some unitRows := by decide +kernel

theorem unitState_operands : ∃ e, passOperands unitView 0 0 unitProduct unitGeo unitPass = .error e := error_of_toBool (by decide +kernel)

theorem unitState_reads : wordsWaiting (exec (.passStart 0 ⟨0, []⟩) unitState) = some [0] := by decide +kernel

/-- Refutes O49: the corrected word comes to wait for its write-back. -/
theorem not_passesRun : ¬ Obligations.PassesRun := by
  unfold Obligations.PassesRun
  intro h
  obtain ⟨-, -, hends⟩ := h unitState 0 0 0 0 0 unitProduct unitRun unitPasses unitPass unitRows unitView unitGeo [] _ unitState_matOn rfl (by decide)
    rfl rfl rfl (by decide) (by decide +kernel) (by decide) (by decide +kernel) unitState_places (by decide +kernel) (by decide +kernel) (by decide)
    rfl
  obtain ⟨e, he⟩ := unitState_operands
  obtain ⟨t, ht, -, -, -, hmem⟩ := hends e (.inr (.inr ⟨by decide +kernel, by decide +kernel, .inr ⟨by decide +kernel, he⟩⟩))
  have hwaits := unitState_reads
  rw [ht] at hwaits
  have hsame : unitState.mem.writeBack = [0] := by
    rw [← hmem (by decide +kernel)]
    exact Option.some.inj hwaits
  exact absurd hsame (by decide)

end Sys2Proof.Machine
